-- ==== Sys2Proof/Word.lean ====
section
/-! DEFINITION. The word types of the Parvel PV1600, the operand forms and the codes of the common
sub-fields (R36-R43), as the types the instruction words are decoded into. -/

namespace Sys2Proof

/-- A byte. -/
abbrev Byte := BitVec 8
/-- A 32-bit word: one lane of a V register, an S register (R20). -/
abbrev Word := BitVec 32
/-- A 64-bit word: an A register, an S or V pair, a virtual address (R20, R60). -/
abbrev DWord := BitVec 64
/-- One bit per lane, bit `l` for lane `l` (R20, R23). -/
abbrev Mask := BitVec 32
/-- The 32 lanes of a V register or of a queue entry, lane 0 first (R20, R19). -/
abbrev LaneVec := List (BitVec 32)
/-- The number of a predicate register P0-P63. -/
abbrev PReg := BitVec 6

/-- The 32 lane numbers. -/
def lanes : List Nat := List.range 32

/-- The special registers of R23. -/
inductive SReg
  | exec | lane | gidx | tidx | tdim | gdim | role | clus | dieid | ctxid | clock | retired
  | quantum | slip | rbase | tvec | tcmp | seed | fmtb
  deriving DecidableEq, Repr

/-- An operand named by a 9-bit code (R42). -/
inductive Operand
  | v (n : BitVec 8)
  | s (n : BitVec 6)
  | a (n : BitVec 6)
  | q (n : BitVec 2)
  | qb
  | sr (r : SReg)
  | const (k : BitVec 6)
  /-- A code R42 or R23 leaves unassigned: it raises ILLEGAL_OPERAND wherever it is named. -/
  | unassigned (code : BitVec 9)
  deriving DecidableEq, Repr

/-- The SETF codes (R41). -/
inductive SetF
  | none | a | b
  deriving DecidableEq, Repr

/-- The TYPE codes (R41). -/
inductive Ty
  | i8 | i16 | i32 | i64 | n8 | n16 | n32 | n64 | f32 | f16 | bf16 | e4m3 | e5m2 | b32
  deriving DecidableEq, Repr

/-- The ORD codes (R41). -/
inductive Ord
  | rlx | acq | rel | ar
  deriving DecidableEq, Repr

/-- The SCOPE codes (R41, R215). -/
inductive Scope
  | grp | team | clu | die | dev | sys
  deriving DecidableEq, Repr

/-- The CACHE codes (R41, R69). -/
inductive CacheP
  | ca | cs | cb
  deriving DecidableEq, Repr

/-- The WIDTH codes (R41). -/
inductive Width
  | b8 | b16 | b32 | b64 | b128
  deriving DecidableEq, Repr

/-- The rounding modes (R41, R113). -/
inductive Rnd
  | rne | rtz | rdn | rup
  deriving DecidableEq, Repr

/-- The compare codes of ISET and FSET (R141, R145); `un` and `ord` are FSET's alone. -/
inductive CmpOp
  | eq | ne | lt | le | gt | ge | un | ord
  deriving DecidableEq, Repr

/-- The combine codes of ISET and FSET (R141). -/
inductive Combine
  | none | and | or | xor
  deriving DecidableEq, Repr

/-- The vote modes (R152). -/
inductive VoteMode
  | mask | cnt | ge | same
  deriving DecidableEq, Repr

/-- The shuffle modes (R153). -/
inductive ShflMode
  | idx | rot | sh | xor
  deriving DecidableEq, Repr

/-- The reduction and scan operations (R154). -/
inductive RedOp
  | iadd | imin | imax | and | or | xor | fadd | fmin | fmax
  deriving DecidableEq, Repr

/-- The space codes of atomics (R251), of ACP (R94) and of PARK (R278). -/
inductive Space
  | glob | shared | scratch | peer | host
  deriving DecidableEq, Repr

/-- The atomic operations (R252). -/
inductive AtomOp
  | add | and | or | xor | min | max | minu | maxu | exch | incw | decw | fadd
  deriving DecidableEq, Repr

/-- The full/empty test of FETEST (R79). -/
inductive FeOp
  | test | set | clr
  deriving DecidableEq, Repr

/-- Which rows KVGATHER copies (R104). -/
inductive KvRows
  | k | v | kv
  deriving DecidableEq, Repr

/-- The kinds of announced objects (R258). -/
inductive ObjKind
  | stack | queue | freelist | cell
  deriving DecidableEq, Repr

/-- The operations on announced objects (R258). -/
inductive ObjOp
  | push | pop | enq | deq | take | give | fop | mcas
  deriving DecidableEq, Repr

/-- The SRED operations (R274). -/
inductive SredOp
  | addN32 | addN64 | minI | maxI | minN | maxN | and | or | xor | fadd
  deriving DecidableEq, Repr

/-- The row and key formats of the Trowel (R206, R208). -/
inductive RowFmt
  | f32 | bf16 | f16
  deriving DecidableEq, Repr

/-- The orders of FENCE (R225). -/
inductive FenceOrd
  | acq | rel | ar | sc
  deriving DecidableEq, Repr

/-- The trap-state registers (R353). -/
inductive TrapReg
  | cpc | apc | fpc | fcode | faddr | fmask | finfo | rqlive
  deriving DecidableEq, Repr

/-- The guard fields of an instruction word (R36, R39). -/
structure Guard where
  p : PReg
  neg : Bool
  deriving DecidableEq, Repr

/-- The guard and the SETF code, which every format but C carries (R39, R40, R48). -/
structure Head where
  g : Guard
  setf : SetF
  deriving DecidableEq, Repr

/-- The acquire, release and scope fields of format X (R40). -/
structure AcqRel where
  acq : Bool
  rel : Bool
  scope : Scope
  deriving DecidableEq, Repr

/-- The ordering and scope fields of formats M and Y (R40). -/
structure OrdScope where
  ord : Ord
  scope : Scope
  deriving DecidableEq, Repr

/-- A slice of a group (R11). -/
inductive Slice
  | c | a
  deriving DecidableEq, Repr

/-- The engines of a cluster that act on accepted commands (R94, R104, R280). -/
inductive Engine
  | copy | gather | link
  deriving DecidableEq, Repr

/-- The registers and CCB fields that the host writes and that have no behaviour of their own
(R319, R345, R128, R348, R328, R334, R336, R363, R335). `slot` is a context slot. -/
inductive HostReg
  | pasid (slot : Nat) | ptbase (slot : Nat) | pvbase (slot : Nat) | plimit (slot : Nat)
  | perm (slot : Nat) | scratch (slot : Nat) | kilnsh (slot : Nat) | spnslot (slot : Nat)
  | wintab (slot : Nat) | colltab (slot : Nat) | invaddr (slot : Nat) | invctl (slot : Nat) | tqbase (slot : Nat)
  | csabase (slot : Nat)
  | aevCount (slot fmt k : Nat) | aevThresh (slot : Nat) | aevStatus (slot : Nat)
  | pdead (slot : Nat) | pmask (slot : Nat)
  | partmap (i : Nat) | vfslot (i : Nat) | nonce | rsaddr
  | devnum | fwImage (off : Nat)
  /-- A field that is read-only or reserved: the write is ignored (R4, R5). -/
  | readOnly
  deriving DecidableEq, Repr

/-- What a host access over PCIe does (R33, R283, R289, R346): a write or read of device memory at a
physical address, or a read of one of the registers of R285, R348, R319, R328, R329, R334, R335, R336 and R363. `hostWrite`
is a write by the host to its own memory, and `peerWrite` a change that a peer device makes to its own: they stand for what
those agents do beside this device. -/
inductive HostOp
  | memWrite (pa : Nat) (bytes : List (BitVec 8))
  | memRead (pa n : Nat)
  | readCcb (slot off : Nat)
  | readLaunch (slot off : Nat)
  | readDoorbell (slot off : Nat)
  | readPartmap (i : Nat) | readVfslot (i : Nat) | readPort (cl port : Nat) | readResync
  | readFwstat | readMeas (i : Nat) | readQuote (off : Nat) | readQuoteCtl | readNonce (off : Nat)
  | hostWrite (a : Nat) (bytes : List (BitVec 8))
  | peerWrite (dev slot va : Nat) (bytes : List (BitVec 8))
  deriving DecidableEq, Repr

/-- What a peer device asks of this one through a window (R332, R248): the slot, the virtual address,
and the access. -/
inductive PeerOp
  | read (n : Nat)
  | write (bytes : List (BitVec 8))
  | atom (op : AtomOp) (w64 : Bool) (v : BitVec 64)
  | cas (w64 : Bool) (cmp new : BitVec 64)
  | cas2 (cmp new : BitVec 128)
  deriving DecidableEq, Repr

end Sys2Proof
end

