-- ==== Sys2Proof/Config.lean ====
section
/-! DEFINITION. What an implementation fixes and the spec leaves open: free values, as constants with no
body. Nothing can evaluate one, so a statement holds whatever they are (log 5, 6, 7). -/

namespace Sys2Proof

/-- The special functions of R147 whose value the spec bounds and does not state. FRSQ's two values stand at `Config.rsqUp`. -/
inductive SfFn
  | fexp2 | flog2 | fsin | fcos | ftanh | fsigm
  deriving DecidableEq, Repr

/-- R147: the value of a special function outside its exact results and special inputs: a fixed function of
the input's bits. `Machine.sfFree` takes it where it keeps the accuracy of the table. Log 5. -/
opaque Config.sf : SfFn → BitVec 32 → BitVec 32

/-- R147: which of the two FP32 neighbours of the exact reciprocal square root FRSQ gives. Log 5. -/
opaque Config.rsqUp : BitVec 32 → Bool

/-- R2, R23: how many cycles pass between one step and the next, none when both fall in one cycle. Log 3. -/
opaque Config.elapsed : Nat → Nat

/-- R27: how far a die's reading of CLOCK differs from the device count; the reading takes it modulo 5. Log 3. -/
opaque Config.dieSkew : Nat → Nat

/-- R326: which entry of a full translation buffer gives way to a new one. Log 93. -/
opaque Config.tlbVictim : Nat → Nat → Nat

/-- R30: the register space the device picks for the group in a slot: bits [55:16] of RBASE. Log 7. -/
opaque Config.rbase : Nat → Nat → BitVec 40

/-- R208: the quotient of TMERGE where it has none: by a zero, or of two infinities. Log 41. -/
opaque Config.quotient : BitVec 32 → BitVec 32 → BitVec 32

/-- R296: the class of a kernel whose measurement has counted no operation and no byte, modulo 3. Log 62. -/
opaque Config.idleClass : Nat → Nat

/-- R296: how many bytes a launch has moved past the caches when its measurement ends of itself. Log 62. -/
opaque Config.movedBytes : Nat → Nat

/-- R356: the bytes in which a save records an entry of the Lathe. Log 43. -/
opaque Config.latheEntry : Nat → Nat → BitVec 8

/-- R293: whether a cluster's instruction cache holds the line of a kernel's entry. Log 6. -/
opaque Config.holdsLine : Nat → Nat → Bool

/-- R335: whether the boot ROM finds the image's format good. Log 8. -/
opaque Config.fwFormatOk : List (BitVec 8) → Bool
/-- R335: whether the image's Ed25519 signature is good under the key of the ROM. Log 8. -/
opaque Config.fwSignatureOk : List (BitVec 8) → Bool
/-- R335: whether the image's version is at or above the fused minimum. Log 8. -/
opaque Config.fwVersionOk : List (BitVec 8) → Bool
/-- R335: SHA-512 of each stage of the image, at most eight. Log 8. -/
opaque Config.fwStages : List (BitVec 8) → List (BitVec 512)
/-- R336: the device identity public key. Log 8. -/
opaque Config.identityKey : BitVec 256
/-- R336: the Ed25519 signature of the quote's bytes under the fused identity key. Log 8. -/
opaque Config.quoteSignature : List (BitVec 8) → BitVec 512

end Sys2Proof
end

