-- ==== Sys2Proof/Syntax.lean ====
section
/-! DEFINITION. The instructions of the PV1600 and the steps and events of the device: one constructor
for each row of the opcode table. An instruction carries the fields that R54 and its chapter give it;
a name ending in `I` is the I form. An event carries what it happens to: `g` is the place of a group
in the state's list, `k` the identifier of one of its operations, `cl` a cluster, `slot` a context
slot, `age` a launch age, `tag` a team tag. -/

namespace Sys2Proof

/-- One constructor per row of the opcode table. -/
inductive Instr
  /-- Class 000, integer and logic (R138-R142). IADD is its first row. -/
  | iadd (h : Head) (ty : Ty) (d a b : Operand)
  | iaddI (h : Head) (ty : Ty) (d a : Operand) (imm : Word)
  | isub (h : Head) (ty : Ty) (d a b : Operand)
  | isubI (h : Head) (ty : Ty) (d a : Operand) (imm : Word)
  | iaddc (h : Head) (alt : Bool) (d a b : Operand) (ps pd : PReg)
  | iadds (h : Head) (ty : Ty) (d a b : Operand)
  | iaddsI (h : Head) (ty : Ty) (d a : Operand) (imm : Word)
  | isubs (h : Head) (ty : Ty) (d a b : Operand)
  | isubsI (h : Head) (ty : Ty) (d a : Operand) (imm : Word)
  | imul (h : Head) (ty : Ty) (d a b : Operand)
  | imulI (h : Head) (ty : Ty) (d a : Operand) (imm : Word)
  | imulh (h : Head) (ty : Ty) (d a b : Operand)
  | imulhI (h : Head) (ty : Ty) (d a : Operand) (imm : Word)
  | imad (h : Head) (ty : Ty) (d a b c : Operand)
  | imadI (h : Head) (ty : Ty) (d a : Operand) (imm : Word) (c : Operand)
  | imadw (h : Head) (ty : Ty) (d a b c : Operand)
  | imadwI (h : Head) (ty : Ty) (d a : Operand) (imm : Word) (c : Operand)
  | imin (h : Head) (ty : Ty) (d a b : Operand)
  | iminI (h : Head) (ty : Ty) (d a : Operand) (imm : Word)
  | imax (h : Head) (ty : Ty) (d a b : Operand)
  | imaxI (h : Head) (ty : Ty) (d a : Operand) (imm : Word)
  | iabs (h : Head) (ty : Ty) (sat : Bool) (d a : Operand)
  | ineg (h : Head) (ty : Ty) (sat : Bool) (d a : Operand)
  | idp4 (h : Head) (ty : Ty) (sat alt : Bool) (d a b c : Operand)
  | idp4I (h : Head) (ty : Ty) (sat alt : Bool) (d a : Operand) (imm : Word) (c : Operand)
  | and (h : Head) (ty : Ty) (d a b : Operand)
  | andI (h : Head) (ty : Ty) (d a : Operand) (imm : Word)
  | or (h : Head) (ty : Ty) (d a b : Operand)
  | orI (h : Head) (ty : Ty) (d a : Operand) (imm : Word)
  | xor (h : Head) (ty : Ty) (d a b : Operand)
  | xorI (h : Head) (ty : Ty) (d a : Operand) (imm : Word)
  | andn (h : Head) (ty : Ty) (d a b : Operand)
  | andnI (h : Head) (ty : Ty) (d a : Operand) (imm : Word)
  | orn (h : Head) (ty : Ty) (d a b : Operand)
  | ornI (h : Head) (ty : Ty) (d a : Operand) (imm : Word)
  | not (h : Head) (ty : Ty) (d a : Operand)
  | lop3 (h : Head) (ty : Ty) (d a b c : Operand) (lut : BitVec 8)
  | shl (h : Head) (ty : Ty) (d a b : Operand)
  | shlI (h : Head) (ty : Ty) (d a : Operand) (imm : Word)
  | shr (h : Head) (ty : Ty) (d a b : Operand)
  | shrI (h : Head) (ty : Ty) (d a : Operand) (imm : Word)
  | sar (h : Head) (ty : Ty) (d a b : Operand)
  | sarI (h : Head) (ty : Ty) (d a : Operand) (imm : Word)
  | rotl (h : Head) (ty : Ty) (d a b : Operand)
  | rotlI (h : Head) (ty : Ty) (d a : Operand) (imm : Word)
  | fshl (h : Head) (d a b c : Operand)
  | fshlI (h : Head) (d a : Operand) (imm : Word) (c : Operand)
  | bfx (h : Head) (ty : Ty) (d a b : Operand)
  | bfxI (h : Head) (ty : Ty) (d a : Operand) (imm : Word)
  | bfi (h : Head) (d a b c : Operand)
  | bfiI (h : Head) (d a : Operand) (imm : Word) (c : Operand)
  | popc (h : Head) (ty : Ty) (d a : Operand)
  | clz (h : Head) (ty : Ty) (d a : Operand)
  | ctz (h : Head) (ty : Ty) (d a : Operand)
  | brev (h : Head) (ty : Ty) (d a : Operand)
  | bytep (h : Head) (d a b c : Operand)
  | bytepI (h : Head) (d a : Operand) (imm : Word) (c : Operand)
  | iset (h : Head) (ty : Ty) (cmp : CmpOp) (comb : Combine) (pd ps : PReg) (d a b : Operand)
  | isetI (h : Head) (ty : Ty) (cmp : CmpOp) (px : PReg) (d a : Operand) (imm : Word)
  | sel (h : Head) (ty : Ty) (d a b c : Operand) (ps : PReg)
  | selI (h : Head) (ty : Ty) (d a : Operand) (imm : Word) (c : Operand) (px : PReg)
  | mov (h : Head) (ty : Ty) (d a : Operand)
  | movi (h : Head) (ty : Ty) (d : Operand) (imm : Word)
  | lea (h : Head) (ty : Ty) (d a b : Operand) (sh : BitVec 3)
  | leaI (h : Head) (ty : Ty) (d a : Operand) (imm : Word) (sh : BitVec 3)
  /-- Class 001, floating point (R143-R146). FADD is its first row. -/
  | fadd (h : Head) (ty : Ty) (rnd : Rnd) (sat : Bool) (d a b : Operand)
  | faddI (h : Head) (ty : Ty) (rnd : Rnd) (sat : Bool) (d a : Operand) (imm : Word)
  | fsub (h : Head) (ty : Ty) (rnd : Rnd) (sat : Bool) (d a b : Operand)
  | fsubI (h : Head) (ty : Ty) (rnd : Rnd) (sat : Bool) (d a : Operand) (imm : Word)
  | fmul (h : Head) (ty : Ty) (rnd : Rnd) (sat : Bool) (d a b : Operand)
  | fmulI (h : Head) (ty : Ty) (rnd : Rnd) (sat : Bool) (d a : Operand) (imm : Word)
  | ffma (h : Head) (ty : Ty) (rnd : Rnd) (sat : Bool) (d a b c : Operand)
  | ffmaI (h : Head) (ty : Ty) (rnd : Rnd) (sat : Bool) (d a : Operand) (imm : Word) (c : Operand)
  | fmin (h : Head) (ty : Ty) (d a b : Operand)
  | fminI (h : Head) (ty : Ty) (d a : Operand) (imm : Word)
  | fmax (h : Head) (ty : Ty) (d a b : Operand)
  | fmaxI (h : Head) (ty : Ty) (d a : Operand) (imm : Word)
  | fminm (h : Head) (ty : Ty) (d a b : Operand)
  | fminmI (h : Head) (ty : Ty) (d a : Operand) (imm : Word)
  | fmaxm (h : Head) (ty : Ty) (d a b : Operand)
  | fmaxmI (h : Head) (ty : Ty) (d a : Operand) (imm : Word)
  | fset (h : Head) (cmp : CmpOp) (comb : Combine) (pd ps : PReg) (a b : Operand)
  | fsetI (h : Head) (cmp : CmpOp) (px : PReg) (a : Operand) (imm : Word)
  | fclass (h : Head) (d a : Operand)
  | frnd (h : Head) (rnd : Rnd) (d a : Operand)
  | ffrac (h : Head) (d a : Operand)
  | fscale (h : Head) (rnd : Rnd) (sat : Bool) (d a b : Operand)
  | fscaleI (h : Head) (rnd : Rnd) (sat : Bool) (d a : Operand) (imm : Word)
  | fgetexp (h : Head) (d a : Operand)
  /-- Class 010, special functions, conversions, predicates and cross-lane (R147-R156). FRCP is its first row. -/
  | frcp (h : Head) (rnd : Rnd) (d a : Operand)
  | frsq (h : Head) (d a : Operand)
  | fsqrt (h : Head) (rnd : Rnd) (d a : Operand)
  | fexp2 (h : Head) (d a : Operand)
  | flog2 (h : Head) (d a : Operand)
  | fsin (h : Head) (d a : Operand)
  | fcos (h : Head) (d a : Operand)
  | ftanh (h : Head) (d a : Operand)
  | fsigm (h : Head) (d a : Operand)
  | fcvt (h : Head) (ty sty : Ty) (rnd : Rnd) (sto sat : Bool) (ed es : BitVec 2) (d a : Operand)
  | icvt (h : Head) (ty sty : Ty) (sat : Bool) (d a : Operand)
  | plop (h : Head) (pd ps pb pc : PReg) (tbl : BitVec 8)
  | pmovv (h : Head) (d : Operand) (k : PReg) (n : BitVec 5)
  | vmovp (h : Head) (a : Operand) (k : PReg) (n : BitVec 5)
  | vote (h : Head) (mode : VoteMode) (t : BitVec 6) (top : Bool) (d : Operand) (pd ps : PReg)
  | shfl (h : Head) (mode : ShflMode) (segw : BitVec 3) (d a b : Operand) (pd : PReg)
  | shflI (h : Head) (mode : ShflMode) (d a : Operand) (imm : Word) (px : PReg)
  | lred (h : Head) (ty : Ty) (op : RedOp) (d a : Operand)
  | lscan (h : Head) (ty : Ty) (op : RedOp) (excl : Bool) (d a : Operand)
  | lbcast (h : Head) (ty : Ty) (d a b : Operand)
  | lbcastI (h : Head) (ty : Ty) (d a : Operand) (imm : Word)
  | lfirst (h : Head) (ty : Ty) (d a : Operand)
  /-- Class 011, control (R157-R165). BRA is its first row. -/
  | bra (g : Guard) (rtok : BitVec 6) (disp : BitVec 32) (a : Operand)
  | brx (g : Guard) (a : Operand)
  | call (g : Guard) (disp : BitVec 32) (d : Operand)
  | ret (g : Guard) (a : Operand)
  | recon (g : Guard) (rtok : BitVec 6)
  | exit (g : Guard)
  | nop
  | yield (g : Guard)
  /-- Class 100, memory, queues, copies and key-value (R59-R107). LDP is its first row. -/
  | ldp (h : Head) (w : Width) (sx : Bool) (o : OrdScope) (cp : CacheP) (d a : Operand) (off : BitVec 21)
  | stp (h : Head) (w : Width) (o : OrdScope) (cp : CacheP) (a b : Operand) (off : BitVec 21)
  | lds (h : Head) (w : Width) (sx : Bool) (o : OrdScope) (cp : CacheP) (d a : Operand) (off : BitVec 21) (take : Bool) (px : PReg)
  | sts (h : Head) (w : Width) (o : OrdScope) (cp : CacheP) (a b : Operand) (off : BitVec 21) (fill : Bool) (px : PReg)
  | ldd (h : Head) (w : Width) (sx : Bool) (o : OrdScope) (cp : CacheP) (d a : Operand) (off : BitVec 21)
  | std (h : Head) (w : Width) (o : OrdScope) (cp : CacheP) (a b : Operand) (off : BitVec 21)
  | ldg (h : Head) (w : Width) (sx : Bool) (o : OrdScope) (cp : CacheP) (d a : Operand) (off : BitVec 21)
  | stg (h : Head) (w : Width) (o : OrdScope) (cp : CacheP) (a b : Operand) (off : BitVec 21)
  | ldx (h : Head) (w : Width) (sx : Bool) (o : OrdScope) (cp : CacheP) (d a : Operand) (off : BitVec 21)
  | stx (h : Head) (w : Width) (o : OrdScope) (cp : CacheP) (a b : Operand) (off : BitVec 21)
  | ldh (h : Head) (w : Width) (sx : Bool) (o : OrdScope) (cp : CacheP) (d a : Operand) (off : BitVec 21)
  | sth (h : Head) (w : Width) (o : OrdScope) (cp : CacheP) (a b : Operand) (off : BitVec 21)
  | ldq (g : Guard) (q : BitVec 2) (cp : CacheP) (a : Operand) (off : BitVec 21)
  | qbpush (h : Head) (a : Operand)
  | qbpop (h : Head) (d : Operand)
  | qsync (g : Guard) (disp : BitVec 32)
  | qstat (g : Guard) (d : Operand)
  | pref (h : Head) (cp : CacheP) (a : Operand) (off : BitVec 21)
  | acp (h : Head) (ss ds : Space) (bar : Bool) (ar : AcqRel) (d a b c : Operand)
  | bclose (h : Head) (d : Operand)
  | bwait (h : Head) (a : Operand) (px : PReg)
  | fetest (h : Head) (op : FeOp) (o : OrdScope) (px : PReg) (a : Operand) (off : BitVec 21)
  | kvlook (g : Guard) (inv : Bool) (d a b : Operand)
  | kvgather (h : Head) (rows : KvRows) (toScratch : Bool) (ar : AcqRel) (a b c : Operand)
  | kvappend (h : Head) (ar : AcqRel) (d a b : Operand) (px : PReg)
  | kvshare (h : Head) (ar : AcqRel) (d a b c : Operand) (px : PReg)
  /-- Class 101, synchronisation (R243-R282, R225-R228). ATOM is its first row. -/
  | atom (h : Head) (op : AtomOp) (o : OrdScope) (w : Width) (sp : Space) (d a b : Operand)
  | red (h : Head) (op : AtomOp) (o : OrdScope) (w : Width) (sp : Space) (a b : Operand)
  | cas (h : Head) (o : OrdScope) (w : Width) (sp : Space) (d a b c : Operand) (px : PReg)
  | cas2 (h : Head) (o : OrdScope) (sp : Space) (d a b c : Operand) (px : PReg)
  | obinit (h : Head) (kind : ObjKind) (o : OrdScope) (kcode : BitVec 2) (xp : Bool) (pmask : BitVec 8) (a b : Operand)
  | ann (h : Head) (op : ObjOp) (d a b c : Operand)
  | help (h : Head) (d a : Operand) (px : PReg)
  | barinit (h : Head) (spn : Bool) (o : OrdScope) (a b : Operand) (px : PReg)
  | barv (h : Head) (o : OrdScope) (d a b : Operand)
  | bardrop (h : Head) (o : OrdScope) (d a : Operand)
  | btx (h : Head) (a b : Operand)
  | btest (h : Head) (o : OrdScope) (a b : Operand) (px : PReg)
  | sred (h : Head) (op : SredOp) (n : BitVec 4) (o : OrdScope) (d a b c : Operand)
  | msend (h : Head) (o : OrdScope) (a b : Operand) (px : PReg)
  | mrecv (h : Head) (o : OrdScope) (port : BitVec 3) (d : Operand) (px : PReg)
  | mstat (h : Head) (clr : Bool) (port : BitVec 3) (d : Operand)
  | park (h : Head) (msg : Bool) (sp : Space) (mask : BitVec 8) (a : Operand)
  | xscale (h : Head) (o : OrdScope) (coll : BitVec 4) (d a b c : Operand)
  | xred (h : Head) (o : OrdScope) (coll : BitVec 4) (d a b c : Operand)
  | fence (h : Head) (fo : FenceOrd) (scope : Scope)
  | drain (h : Head) (scope : Scope) (d a : Operand)
  | drainNb (h : Head)
  /-- Class 110, matrix, attention and Trowel (R166-R210). GMMA is its first row. -/
  | gmma (h : Head) (bt : Bool) (fa fb : BitVec 6) (rows : BitVec 5) (d a b c : Operand)
  | cvtdxb (h : Head) (sto : Bool) (ss fb : BitVec 6) (d a : Operand)
  | lmma (h : Head) (ar : AcqRel) (zt : BitVec 5) (fa fb : BitVec 6) (sparse : Bool) (a b c : Operand)
  | lmmv (h : Head) (ar : AcqRel) (zt : BitVec 5) (fw : BitVec 6) (zx : BitVec 5) (nb : BitVec 3) (a b c : Operand)
  | lzero (h : Head) (zt : BitVec 5)
  | lload (h : Head) (f32 : Bool) (ar : AcqRel) (zt : BitVec 5) (fb : BitVec 6) (a b : Operand)
  | lstore (h : Head) (f32 sat : Bool) (ar : AcqRel) (zt : BitVec 5) (fb : BitVec 6) (a b : Operand)
  | lread (h : Head) (zt : BitVec 5) (d a : Operand)
  | lcmd (h : Head) (zt : BitVec 5) (fa fb : BitVec 6) (px : PReg) (a : Operand)
  | tmatch (h : Head) (dim : BitVec 2) (fmt : RowFmt) (ar : AcqRel) (d a c : Operand)
  | tmerge (h : Head) (width : BitVec 11) (fmt : RowFmt) (ar : AcqRel) (d a b c : Operand)
  | tunmerge (h : Head) (width : BitVec 11) (fmt : RowFmt) (ar : AcqRel) (d a b : Operand)
  | smaxr (h : Head) (f16 : Bool) (cs : BitVec 6) (sz msk : Bool) (rows : BitVec 5) (d a b c : Operand)
  | tmask (h : Head) (d a b c : Operand)
  /-- Class 111, system (R300-R310, R349-R353). LAUNCH is its first row. -/
  | launch (h : Head) (pd : PReg) (a : Operand)
  | trigger (h : Head)
  | timerAbs (h : Head) (a : Operand)
  | timerRel (h : Head) (a : Operand)
  | timerOff (h : Head)
  | qend (h : Head)
  | trap (h : Head) (n : BitVec 16)
  | trapret (h : Head)
  | replay (h : Head) (i : BitVec 3) (pd : PReg)
  | rdsr (h : Head) (r : TrapReg) (d : Operand)
  | wrsr (h : Head) (r : TrapReg) (a : Operand)
  | bkpt (h : Head) (n : BitVec 16)
  /-- Events of the device, in the order of the table. LINE_ENTRY is the first. -/
  | lineEntry (g p : Nat)
  | issueSelection (cl pt : Nat) (sl : Slice)
  | loadCompletion (g k : Nat) (corrected : Nat := 0)
  | acknowledgement (g k : Nat)
  | ldqDataReturn (g k : Nat) (ecc : Bool)
  | registerLineFill (g n : Nat) (ecc : Bool := false)
  | longLatencyFault (g k code lane : Nat) (addr : Nat := 0) (bad : List Nat := [])
  | kilnStep (g k : Nat) (more : List (Nat × Nat) := [])
  | kilnReply (g k : Nat)
  | spindlePhaseCompletion (k : Nat)
  | msendAnswer (g k : Nat)
  | launchReply (g k : Nat)
  | engineOperation (cl : Nat) (e : Engine) (k : Nat)
  | latheKBlock (cl : Nat)
  | streamAcceptance (cl k : Nat)
  | streamStep (cl k : Nat)
  | trowelCommand (cl : Nat)
  | collectiveCompletion (cl k : Nat) (others : List (Bool × List (BitVec 64)))
  | parkWakeByWrite (g p : Nat)
  | parkBoundExpiry (g p : Nat)
  | spuriousWakeUp (g p : Nat)
  | timerFire (g : Nat)
  | asyncTimeout (g : Nat)
  | memTimeout (g k : Nat)
  | takeTrap (g : Nat)
  | replayableFaultStop (g : Nat)
  | replayableRecordRetry (slot k : Nat)
  | msixDeferredRaise (slot : Nat)
  | quantumEnd (g : Nat)
  | commitRound (slot : Nat)
  | hostLaunchPacket (slot off : Nat) (bytes : List (BitVec 8)) (fn : Nat := 16)
  | dependencePoll (age : Nat)
  | teamDispatch (cl : Nat) (ecc : Bool := false)
  | priorityAging (age : Nat)
  | placementMapTimeout (age : Nat)
  | intensityMeasurementEnd (slot kdesc mem link : Nat)
  | frontEndPreemption (age : Nat)
  | teamRetirement (tag : Nat)
  | launchCompletion (age : Nat)
  | signalDecrement (age : Nat) (done : Bool)
  | taskEligibilityTest (age t : Nat)
  | taskTake (cl slot : Nat)
  | taskSteal (cl slot : Nat)
  | contextActivation (slot : Nat) (fn : Nat := 16)
  | contextRelease (slot : Nat) (fn : Nat := 16)
  | invalidation (slot npage : Nat) (fn : Nat := 16)
  | invalidateAll (slot : Nat) (npage : Nat := 0) (fn : Nat := 16)
  | preemptTeamBoundary (slot : Nat) (fn : Nat := 16)
  | preemptInstructionLevel (slot : Nat) (fn : Nat := 16)
  | pcmdRestore (slot : Nat) (fn : Nat := 16)
  | teamRestore (tag : Nat)
  | pcmdReset (slot : Nat) (fn : Nat := 16)
  | pcmdNone (slot : Nat) (fn : Nat := 16)
  | forcedReset (slot : Nat)
  | replayRetry (slot idx : Nat) (fn : Nat := 16)
  | replayFail (slot idx : Nat) (fn : Nat := 16)
  | resync (ok : Bool)
  | firmwareLoad
  | quote (fn : Nat) (go : Bool := true)
  | portownWrite (cl port : Nat) (val : BitVec 8)
  | registerWrite (fn : Nat) (r : HostReg) (val : Nat)
  | peerAccessRequest (slot va : Nat) (op : PeerOp)
  | linkFailure (port : Nat)
  | patrolPass (stack corrected uncorrected : Nat)
  | dirtyLineDiscard (pa : Nat) (old : List (BitVec 8))
  | powerUp
  | deviceReset
  | hostAccess (op : HostOp) (fn : Nat := 16)
  | flitDelivery (g k : Nat)
  | spindleArrival (g k : Nat) (more : List (Nat × Nat) := [])
  | tlantoLinkTraining (port lanes dev : Nat) (retrain : Bool)
  | cxlPortEvent (port st : Nat) (error : Bool)
  | powerDown
  deriving DecidableEq, Repr

end Sys2Proof
end

