-- ==== Sys2Proof/WellFormed.lean ====
section
/-! DEFINITION. Well-formed instructions: the fields an instruction's chapter accepts (R38). A term that
is not well formed is the word that ILLEGAL_ENCODING answers, so the decoder yields none. -/

namespace Sys2Proof

/-- The eight integer types (R108). -/
def Ty.isInt : Ty → Bool
  | .i8 | .i16 | .i32 | .i64 | .n8 | .n16 | .n32 | .n64 => true
  | _ => false

/-- The signed types (R138, IABS). -/
def Ty.isSigned : Ty → Bool
  | .i8 | .i16 | .i32 | .i64 => true
  | _ => false

/-- The 32-bit integer types. -/
def Ty.isInt32 : Ty → Bool
  | .i32 | .n32 => true
  | _ => false

/-- The 32- and 64-bit integer types. -/
def Ty.isInt32or64 : Ty → Bool
  | .i32 | .n32 | .i64 | .n64 => true
  | _ => false

/-- The 64-bit types (R134). -/
def Ty.is64 : Ty → Bool
  | .i64 | .n64 => true
  | _ => false

/-- The untyped and 64-bit forms of the logic instructions (R140). -/
def Ty.isB : Ty → Bool
  | .b32 | .n64 => true
  | _ => false

/-- The types of floating-point arithmetic (R143). -/
def Ty.isArith : Ty → Bool
  | .f32 | .f16 | .bf16 => true
  | _ => false

/-- The floating-point types (R110). -/
def Ty.isFloat : Ty → Bool
  | .f32 | .f16 | .bf16 | .e4m3 | .e5m2 => true
  | _ => false

/-- Elements in a lane (R109, R148). -/
def Ty.count : Ty → Nat
  | .f16 | .bf16 => 2
  | .e4m3 | .e5m2 => 4
  | _ => 1

/-- Bits of an element (R108, R110). -/
def Ty.bits : Ty → Nat
  | .i8 | .n8 | .e4m3 | .e5m2 => 8
  | .i16 | .n16 | .f16 | .bf16 => 16
  | .i64 | .n64 => 64
  | .i32 | .n32 | .f32 | .b32 => 32

/-- Bits of the significand, the implicit bit counted, and bits of the exponent field (R110). -/
def Ty.sigExp : Ty → Nat × Nat
  | .f32 => (24, 8)
  | .f16 => (11, 5)
  | .bf16 => (8, 8)
  | .e5m2 => (3, 5)
  | .e4m3 => (4, 4)
  | _ => (0, 0)

/-- Bits that the largest magnitude of an integer type needs in R115's count: 8 for `.N8`, 7 for `.I8`. -/
def Ty.magBits (t : Ty) : Nat := if t.isSigned then t.bits - 1 else t.bits

/-- A narrowing conversion, where STO is accepted (R115): for a floating-point source a destination with
fewer fraction bits or a narrower exponent range, for an integer source a significand too short. -/
def narrowing (d s : Ty) : Bool :=
  d.isFloat &&
    (if s.isFloat then decide (d.sigExp.1 < s.sigExp.1) || decide (d.sigExp.2 < s.sigExp.2)
     else decide (d.sigExp.1 < s.magBits))

/-- The fields FCVT accepts (R148, R115). -/
def fcvtOk (d s : Ty) (rnd : Rnd) (sto sat : Bool) (ed es : BitVec 2) : Bool :=
  d != .b32 && s != .b32 && (d.isFloat || s.isFloat) &&
    decide (ed.toNat < d.count) && decide (es.toNat < s.count) &&
    (!sat || d.isFloat) && (!sto || (narrowing d s && rnd == .rne))

/-- The fields VOTE accepts (R152). -/
def voteOk (mode : VoteMode) (t : BitVec 6) (top : Bool) (d : Operand) (pd : PReg) : Bool :=
  match mode with
  | .mask | .cnt => t == 0 && !top && pd == 0
  | .ge => decide (t.toNat ≤ 32) && d == .v 0
  | .same => t == 0 && !top && d == .v 0

/-- A format-block code: an even S register or FMTB (R167). -/
def fbcOk (f : BitVec 6) : Bool := f == 0x3F || f.toNat % 2 == 0

/-- The types of a reduction or scan (R154). -/
def RedOp.tyOk : RedOp → Ty → Bool
  | .iadd, t | .imin, t | .imax, t => t.isInt32or64
  | .and, t | .or, t | .xor, t => t.isB
  | .fadd, t | .fmin, t | .fmax, t => t == .f32

/-- The codes that ISET takes (R141). -/
def CmpOp.isInt : CmpOp → Bool
  | .un | .ord => false
  | _ => true

/-- The ORD codes of loads (R64). -/
def Ord.isLoad : Ord → Bool
  | .rlx | .acq => true
  | _ => false

/-- The ORD codes of stores (R64). -/
def Ord.isStore : Ord → Bool
  | .rlx | .rel => true
  | _ => false

/-- An operand that a 9-bit code gives: an `unassigned` operand carries an unassigned code (R42). -/
def Operand.ok : Operand → Bool
  | .unassigned c => (decide (0x185 ≤ c.toNat) && decide (c.toNat ≤ 0x18F)) || (decide (0x1A3 ≤ c.toNat) && decide (c.toNat ≤ 0x1BF))
  | _ => true

/-- The fields of the instruction are those its chapter accepts. Events carry no word and are well formed. -/
def Instr.wf : Instr → Bool
  | .iadd _ ty d a b => d.ok && a.ok && b.ok && ty.isInt
  | .iaddI _ ty d a _ => d.ok && a.ok && ty.isInt
  | .isub _ ty d a b => d.ok && a.ok && b.ok && ty.isInt
  | .isubI _ ty d a _ => d.ok && a.ok && ty.isInt
  | .iaddc _ _ d a b _ _ => d.ok && a.ok && b.ok
  | .iadds _ ty d a b => d.ok && a.ok && b.ok && ty.isInt
  | .iaddsI _ ty d a _ => d.ok && a.ok && ty.isInt
  | .isubs _ ty d a b => d.ok && a.ok && b.ok && ty.isInt
  | .isubsI _ ty d a _ => d.ok && a.ok && ty.isInt
  | .imul _ ty d a b => d.ok && a.ok && b.ok && ty.isInt
  | .imulI _ ty d a _ => d.ok && a.ok && ty.isInt
  | .imulh _ ty d a b => d.ok && a.ok && b.ok && ty.isInt32or64
  | .imulhI _ ty d a _ => d.ok && a.ok && ty.isInt32or64
  | .imad _ ty d a b c => d.ok && a.ok && b.ok && c.ok && ty.isInt
  | .imadI _ ty d a _ c => d.ok && a.ok && c.ok && ty.isInt
  | .imadw _ ty d a b c => d.ok && a.ok && b.ok && c.ok && ty.isInt32
  | .imadwI _ ty d a _ c => d.ok && a.ok && c.ok && ty.isInt32
  | .imin _ ty d a b => d.ok && a.ok && b.ok && ty.isInt
  | .iminI _ ty d a _ => d.ok && a.ok && ty.isInt
  | .imax _ ty d a b => d.ok && a.ok && b.ok && ty.isInt
  | .imaxI _ ty d a _ => d.ok && a.ok && ty.isInt
  | .iabs _ ty _ d a => d.ok && a.ok && ty.isSigned
  | .ineg _ ty _ d a => d.ok && a.ok && ty.isInt
  | .idp4 _ ty _ alt d a b c => d.ok && a.ok && b.ok && c.ok && (ty == .i8 || (ty == .n8 && !alt))
  | .idp4I _ ty _ alt d a _ c => d.ok && a.ok && c.ok && (ty == .i8 || (ty == .n8 && !alt))
  | .and _ ty d a b => d.ok && a.ok && b.ok && ty.isB
  | .andI _ ty d a _ => d.ok && a.ok && ty.isB
  | .or _ ty d a b => d.ok && a.ok && b.ok && ty.isB
  | .orI _ ty d a _ => d.ok && a.ok && ty.isB
  | .xor _ ty d a b => d.ok && a.ok && b.ok && ty.isB
  | .xorI _ ty d a _ => d.ok && a.ok && ty.isB
  | .andn _ ty d a b => d.ok && a.ok && b.ok && ty.isB
  | .andnI _ ty d a _ => d.ok && a.ok && ty.isB
  | .orn _ ty d a b => d.ok && a.ok && b.ok && ty.isB
  | .ornI _ ty d a _ => d.ok && a.ok && ty.isB
  | .not _ ty d a => d.ok && a.ok && ty.isB
  | .lop3 _ ty d a b c _ => d.ok && a.ok && b.ok && c.ok && ty.isB
  | .shl _ ty d a b => d.ok && a.ok && b.ok && ty.isB
  | .shlI _ ty d a _ => d.ok && a.ok && ty.isB
  | .shr _ ty d a b => d.ok && a.ok && b.ok && ty.isB
  | .shrI _ ty d a _ => d.ok && a.ok && ty.isB
  | .sar _ ty d a b => d.ok && a.ok && b.ok && ty.isB
  | .sarI _ ty d a _ => d.ok && a.ok && ty.isB
  | .rotl _ ty d a b => d.ok && a.ok && b.ok && ty.isB
  | .rotlI _ ty d a _ => d.ok && a.ok && ty.isB
  | .fshl _ d a b c => d.ok && a.ok && b.ok && c.ok
  | .fshlI _ d a _ c => d.ok && a.ok && c.ok
  | .bfx _ ty d a b => d.ok && a.ok && b.ok && ty.isInt32
  | .bfxI _ ty d a _ => d.ok && a.ok && ty.isInt32
  | .bfi _ d a b c => d.ok && a.ok && b.ok && c.ok
  | .bfiI _ d a _ c => d.ok && a.ok && c.ok
  | .popc _ ty d a => d.ok && a.ok && ty.isB
  | .clz _ ty d a => d.ok && a.ok && ty.isB
  | .ctz _ ty d a => d.ok && a.ok && ty.isB
  | .brev _ ty d a => d.ok && a.ok && ty.isB
  | .bytep _ d a b c => d.ok && a.ok && b.ok && c.ok
  | .bytepI _ d a _ c => d.ok && a.ok && c.ok
  | .iset _ ty cmp comb _ ps d a b => d.ok && a.ok && b.ok && (ty.isInt && cmp.isInt && (comb != .none || ps == 0))
  | .isetI _ ty cmp _ d a _ => d.ok && a.ok && (ty.isInt && cmp.isInt)
  | .sel _ ty d a b c _ => d.ok && a.ok && b.ok && c.ok && ty.isB
  | .selI _ ty d a _ c _ => d.ok && a.ok && c.ok && ty.isB
  | .mov _ ty d a => d.ok && a.ok && ty.isB
  | .movi _ ty d _ => d.ok && (ty == .b32 || ty == .i64 || ty == .n64)
  | .lea _ ty d a b _ => d.ok && a.ok && b.ok && (ty == .i32 || ty == .n32 || ty == .n64)
  | .leaI _ ty d a _ _ => d.ok && a.ok && (ty == .i32 || ty == .n32 || ty == .n64)
  | .fadd _ ty _ _ d a b => d.ok && a.ok && b.ok && ty.isArith
  | .faddI _ ty _ _ d a _ => d.ok && a.ok && ty.isArith
  | .fsub _ ty _ _ d a b => d.ok && a.ok && b.ok && ty.isArith
  | .fsubI _ ty _ _ d a _ => d.ok && a.ok && ty.isArith
  | .fmul _ ty _ _ d a b => d.ok && a.ok && b.ok && ty.isArith
  | .fmulI _ ty _ _ d a _ => d.ok && a.ok && ty.isArith
  | .ffma _ ty _ _ d a b c => d.ok && a.ok && b.ok && c.ok && ty.isArith
  | .ffmaI _ ty _ _ d a _ c => d.ok && a.ok && c.ok && ty.isArith
  | .fmin _ ty d a b => d.ok && a.ok && b.ok && ty.isArith
  | .fminI _ ty d a _ => d.ok && a.ok && ty.isArith
  | .fmax _ ty d a b => d.ok && a.ok && b.ok && ty.isArith
  | .fmaxI _ ty d a _ => d.ok && a.ok && ty.isArith
  | .fminm _ ty d a b => d.ok && a.ok && b.ok && ty.isArith
  | .fminmI _ ty d a _ => d.ok && a.ok && ty.isArith
  | .fmaxm _ ty d a b => d.ok && a.ok && b.ok && ty.isArith
  | .fmaxmI _ ty d a _ => d.ok && a.ok && ty.isArith
  | .fset _ _ comb _ ps a b => a.ok && b.ok && (comb != .none || ps == 0)
  | .fsetI _ _ _ a _ => a.ok
  | .fclass _ d a => d.ok && a.ok
  | .frnd _ _ d a => d.ok && a.ok
  | .ffrac _ d a => d.ok && a.ok
  | .fscale _ _ _ d a b => d.ok && a.ok && b.ok
  | .fscaleI _ _ _ d a _ => d.ok && a.ok
  | .fgetexp _ d a => d.ok && a.ok
  | .frcp _ _ d a => d.ok && a.ok
  | .frsq _ d a => d.ok && a.ok
  | .fsqrt _ _ d a => d.ok && a.ok
  | .fexp2 _ d a => d.ok && a.ok
  | .flog2 _ d a => d.ok && a.ok
  | .fsin _ d a => d.ok && a.ok
  | .fcos _ d a => d.ok && a.ok
  | .ftanh _ d a => d.ok && a.ok
  | .fsigm _ d a => d.ok && a.ok
  | .fcvt _ ty sty rnd sto sat ed es d a => d.ok && a.ok && fcvtOk ty sty rnd sto sat ed es
  | .icvt _ ty sty _ d a => d.ok && a.ok && (ty.isInt && sty.isInt)
  | .plop _ _ _ _ _ _ => true
  | .pmovv _ d k n => d.ok && decide (k.toNat + n.toNat + 1 ≤ 64)
  | .vmovp _ a k n => a.ok && decide (k.toNat + n.toNat + 1 ≤ 64)
  | .vote _ mode t top d pd _ => d.ok && voteOk mode t top d pd
  | .shfl _ _ segw d a b _ => d.ok && a.ok && b.ok && decide (segw.toNat ≤ 4)
  | .shflI _ _ d a _ _ => d.ok && a.ok
  | .lred _ ty op d a => d.ok && a.ok && op.tyOk ty
  | .lscan _ ty op _ d a => d.ok && a.ok && op.tyOk ty
  | .lbcast _ ty d a b => d.ok && a.ok && b.ok && ty.isB
  | .lbcastI _ ty d a _ => d.ok && a.ok && ty.isB
  | .lfirst _ ty d a => d.ok && a.ok && ty.isB
  | .bra _ _ _ a => a.ok
  | .brx _ a => a.ok
  | .call _ _ d => d.ok
  | .ret _ a => a.ok
  | .recon _ _ => true
  | .exit _ => true
  | .nop => true
  | .yield _ => true
  | .ldp _ _ _ o _ d a _ => d.ok && a.ok && (o.ord.isLoad && o.scope == .grp)
  | .stp _ _ o _ a b _ => a.ok && b.ok && (o.ord.isStore && o.scope == .grp)
  | .lds _ _ _ o cp d a _ take px => d.ok && a.ok && (o.ord.isLoad && cp == .ca && (take || px == 0))
  | .sts _ _ o cp a b _ fill px => a.ok && b.ok && (o.ord.isStore && cp == .ca && (fill || px == 0))
  | .ldd _ _ _ o cp d a _ => d.ok && a.ok && (o.ord.isLoad && cp == .ca)
  | .std _ _ o cp a b _ => a.ok && b.ok && (o.ord.isStore && cp == .ca)
  | .ldg _ _ _ o _ d a _ => d.ok && a.ok && o.ord.isLoad
  | .stg _ _ o _ a b _ => a.ok && b.ok && o.ord.isStore
  | .ldx _ _ _ o _ d a _ => d.ok && a.ok && o.ord.isLoad
  | .stx _ _ o _ a b _ => a.ok && b.ok && o.ord.isStore
  | .ldh _ _ _ o _ d a _ => d.ok && a.ok && o.ord.isLoad
  | .sth _ _ o _ a b _ => a.ok && b.ok && o.ord.isStore
  | .ldq _ _ _ a _ => a.ok
  | .qbpush _ a => a.ok
  | .qbpop h d => d.ok && (h.setf == .none)
  | .qsync _ _ => true
  | .qstat _ d => d.ok
  | .pref _ _ a _ => a.ok
  | .acp _ ss ds bar _ d a b c => d.ok && a.ok && b.ok && c.ok && (ss != .host && ds != .host && (bar || d == .v 0))
  | .bclose _ d => d.ok
  | .bwait _ a _ => a.ok
  | .fetest _ _ o _ a _ => a.ok && (o.ord != .ar)
  | .kvlook _ _ d a b => d.ok && a.ok && b.ok
  | .kvgather _ _ _ _ a b c => a.ok && b.ok && c.ok
  | .kvappend _ _ d a b _ => d.ok && a.ok && b.ok
  | .kvshare _ _ d a b c _ => d.ok && a.ok && b.ok && c.ok
  | .atom _ op _ w _ d a b => d.ok && a.ok && b.ok && ((w == .b32 || w == .b64) && (op != .fadd || w == .b32))
  | .red _ op o w _ a b => a.ok && b.ok && ((w == .b32 || w == .b64) && (op != .fadd || w == .b32) && op != .exch && o.ord.isStore)
  | .cas _ _ w _ d a b c _ => d.ok && a.ok && b.ok && c.ok && (w == .b32 || w == .b64)
  | .cas2 _ _ _ d a b c _ => d.ok && a.ok && b.ok && c.ok
  | .obinit _ _ o _ _ _ a b => a.ok && b.ok && (o.ord.isStore && o.scope != .sys)
  | .ann _ _ d a b c => d.ok && a.ok && b.ok && c.ok
  | .help _ d a _ => d.ok && a.ok
  | .barinit _ _ o a b _ => a.ok && b.ok && (o.ord.isStore && o.scope != .sys)
  | .barv _ o d a b => d.ok && a.ok && b.ok && o.ord.isStore
  | .bardrop _ o d a => d.ok && a.ok && o.ord.isStore
  | .btx _ a b => a.ok && b.ok
  | .btest _ o a b _ => a.ok && b.ok && o.ord.isLoad
  | .sred _ op n o d a b c => d.ok && a.ok && b.ok && c.ok && (o.ord.isStore && (op != .addN64 || n.toNat % 2 == 1))
  | .msend _ o a b _ => a.ok && b.ok && o.ord.isStore
  | .mrecv _ o _ d _ => d.ok && o.ord.isLoad
  | .mstat _ _ _ d => d.ok
  | .park _ msg sp mask a => a.ok && (sp != .peer && sp != .host && (msg || mask == 0))
  | .xscale _ o _ d a b c => d.ok && a.ok && b.ok && c.ok && o.ord.isStore
  | .xred _ o _ d a b c => d.ok && a.ok && b.ok && c.ok && o.ord.isStore
  | .fence _ _ _ => true
  | .drain _ _ d a => d.ok && a.ok
  | .drainNb _ => true
  | .gmma _ _ fa fb rows d a b c => d.ok && a.ok && b.ok && c.ok && (fbcOk fa && fbcOk fb && decide (rows.toNat ≤ 16))
  | .cvtdxb _ _ _ fb d a => d.ok && a.ok && fbcOk fb
  | .lmma _ ar _ fa fb _ a b c => a.ok && b.ok && c.ok && (fbcOk fa && fbcOk fb && !ar.rel)
  | .lmmv _ ar _ fw _ _ a b c => a.ok && b.ok && c.ok && (fbcOk fw && !ar.rel)
  | .lzero _ _ => true
  | .lload _ f32 ar _ fb a b => a.ok && b.ok && (fbcOk fb && (!f32 || fb == 0) && !ar.rel)
  | .lstore _ f32 sat ar _ fb a b => a.ok && b.ok && (fbcOk fb && (!f32 || (fb == 0 && !sat)) && !ar.acq)
  | .lread _ _ d a => d.ok && a.ok
  | .lcmd _ _ fa fb _ a => a.ok && (fbcOk fa && fbcOk fb)
  | .tmatch _ _ _ _ d a c => d.ok && a.ok && c.ok
  | .tmerge _ width _ _ d a b c => d.ok && a.ok && b.ok && c.ok && (width != 0)
  | .tunmerge _ width _ _ d a b => d.ok && a.ok && b.ok && (width != 0)
  | .smaxr _ _ _ _ _ rows d a b c => d.ok && a.ok && b.ok && c.ok && decide (rows.toNat ≤ 16)
  | .tmask _ d a b c => d.ok && a.ok && b.ok && c.ok
  | .launch _ _ a => a.ok
  | .trigger _ => true
  | .timerAbs _ a => a.ok
  | .timerRel _ a => a.ok
  | .timerOff _ => true
  | .qend _ => true
  | .trap _ _ => true
  | .trapret _ => true
  | .replay _ _ _ => true
  | .rdsr _ _ d => d.ok
  | .wrsr _ _ a => a.ok
  | .bkpt _ _ => true
  | .lineEntry _ _ => true
  | .issueSelection _ _ _ => true
  | .loadCompletion _ _ _ => true
  | .acknowledgement _ _ => true
  | .ldqDataReturn _ _ _ => true
  | .registerLineFill _ _ _ => true
  | .longLatencyFault _ _ _ _ _ _ => true
  | .kilnStep _ _ _ => true
  | .kilnReply _ _ => true
  | .spindlePhaseCompletion _ => true
  | .msendAnswer _ _ => true
  | .launchReply _ _ => true
  | .engineOperation _ _ _ => true
  | .latheKBlock _ => true
  | .streamAcceptance _ _ => true
  | .streamStep _ _ => true
  | .trowelCommand _ => true
  | .collectiveCompletion _ _ _ => true
  | .parkWakeByWrite _ _ => true
  | .parkBoundExpiry _ _ => true
  | .spuriousWakeUp _ _ => true
  | .timerFire _ => true
  | .asyncTimeout _ => true
  | .memTimeout _ _ => true
  | .takeTrap _ => true
  | .replayableFaultStop _ => true
  | .replayableRecordRetry _ _ => true
  | .msixDeferredRaise _ => true
  | .quantumEnd _ => true
  | .commitRound _ => true
  | .hostLaunchPacket _ _ _ _ => true
  | .dependencePoll _ => true
  | .teamDispatch _ _ => true
  | .priorityAging _ => true
  | .placementMapTimeout _ => true
  | .intensityMeasurementEnd _ _ _ _ => true
  | .frontEndPreemption _ => true
  | .teamRetirement _ => true
  | .launchCompletion _ => true
  | .signalDecrement _ _ => true
  | .taskEligibilityTest _ _ => true
  | .taskTake _ _ => true
  | .taskSteal _ _ => true
  | .contextActivation _ _ => true
  | .contextRelease _ _ => true
  | .invalidation _ _ _ => true
  | .invalidateAll _ _ _ => true
  | .preemptTeamBoundary _ _ => true
  | .preemptInstructionLevel _ _ => true
  | .pcmdRestore _ _ => true
  | .teamRestore _ => true
  | .pcmdReset _ _ => true
  | .pcmdNone _ _ => true
  | .forcedReset _ => true
  | .replayRetry _ _ _ => true
  | .replayFail _ _ _ => true
  | .resync _ => true
  | .firmwareLoad => true
  | .quote _ _ => true
  | .portownWrite _ _ _ => true
  | .registerWrite _ _ _ => true
  | .peerAccessRequest _ _ _ => true
  | .linkFailure _ => true
  | .patrolPass _ _ _ => true
  | .dirtyLineDiscard _ _ => true
  | .powerUp => true
  | .deviceReset => true
  | .hostAccess _ _ => true
  | .flitDelivery _ _ => true
  | .spindleArrival _ _ _ => true
  | .tlantoLinkTraining _ _ _ _ => true
  | .cxlPortEvent _ _ _ => true
  | .powerDown => true

/-- The row is a step or an event of the device, which no instruction word names. -/
def Instr.isEvent : Instr → Bool
  | .lineEntry _ _ => true
  | .issueSelection _ _ _ => true
  | .loadCompletion _ _ _ => true
  | .acknowledgement _ _ => true
  | .ldqDataReturn _ _ _ => true
  | .registerLineFill _ _ _ => true
  | .longLatencyFault _ _ _ _ _ _ => true
  | .kilnStep _ _ _ => true
  | .kilnReply _ _ => true
  | .spindlePhaseCompletion _ => true
  | .msendAnswer _ _ => true
  | .launchReply _ _ => true
  | .engineOperation _ _ _ => true
  | .latheKBlock _ => true
  | .streamAcceptance _ _ => true
  | .streamStep _ _ => true
  | .trowelCommand _ => true
  | .collectiveCompletion _ _ _ => true
  | .parkWakeByWrite _ _ => true
  | .parkBoundExpiry _ _ => true
  | .spuriousWakeUp _ _ => true
  | .timerFire _ => true
  | .asyncTimeout _ => true
  | .memTimeout _ _ => true
  | .takeTrap _ => true
  | .replayableFaultStop _ => true
  | .replayableRecordRetry _ _ => true
  | .msixDeferredRaise _ => true
  | .quantumEnd _ => true
  | .commitRound _ => true
  | .hostLaunchPacket _ _ _ _ => true
  | .dependencePoll _ => true
  | .teamDispatch _ _ => true
  | .priorityAging _ => true
  | .placementMapTimeout _ => true
  | .intensityMeasurementEnd _ _ _ _ => true
  | .frontEndPreemption _ => true
  | .teamRetirement _ => true
  | .launchCompletion _ => true
  | .signalDecrement _ _ => true
  | .taskEligibilityTest _ _ => true
  | .taskTake _ _ => true
  | .taskSteal _ _ => true
  | .contextActivation _ _ => true
  | .contextRelease _ _ => true
  | .invalidation _ _ _ => true
  | .invalidateAll _ _ _ => true
  | .preemptTeamBoundary _ _ => true
  | .preemptInstructionLevel _ _ => true
  | .pcmdRestore _ _ => true
  | .teamRestore _ => true
  | .pcmdReset _ _ => true
  | .pcmdNone _ _ => true
  | .forcedReset _ => true
  | .replayRetry _ _ _ => true
  | .replayFail _ _ _ => true
  | .resync _ => true
  | .firmwareLoad => true
  | .quote _ _ => true
  | .portownWrite _ _ _ => true
  | .registerWrite _ _ _ => true
  | .peerAccessRequest _ _ _ => true
  | .linkFailure _ => true
  | .patrolPass _ _ _ => true
  | .dirtyLineDiscard _ _ => true
  | .powerUp => true
  | .deviceReset => true
  | .hostAccess _ _ => true
  | .flitDelivery _ _ => true
  | .spindleArrival _ _ _ => true
  | .tlantoLinkTraining _ _ _ _ => true
  | .cxlPortEvent _ _ _ => true
  | .powerDown => true
  | _ => false

end Sys2Proof
end

