-- ==== Sys2Proof/Machine/Fp.lean ====
section
/-! DEFINITION. Number formats, the one rounding function and the fixed-order tree
(R108-R127, R143-R149): exact values as sign, magnitude and a power of two, rounded once. -/

namespace Sys2Proof.Machine

/-- The IEEE conditions in the order of P59-P63 (R127): bit 0 invalid, 1 divide-by-zero, 2 overflow,
3 underflow, 4 inexact. -/
abbrev Cnd := BitVec 5

/-- No condition. -/
def cNone : Cnd := 0
/-- Invalid (P59). -/
def cInvalid : Cnd := 1
/-- Divide by zero (P60). -/
def cDivZero : Cnd := 2
/-- Overflow and inexact (R114). -/
def cOverflow : Cnd := 0b10100
/-- Underflow (P62). -/
def cUnderflow : Cnd := 0b01000
/-- Inexact (P63). -/
def cInexact : Cnd := 0b10000

/-- A floating-point format (R110): fraction bits, exponent bits, bias; `e4m3` has no infinity (R111). -/
structure Fmt where
  frac : Nat
  ebits : Nat
  bias : Nat
  e4m3 : Bool := false
  deriving DecidableEq, Repr

/-- FP32 (R110). -/
def F32 : Fmt := ⟨23, 8, 127, false⟩
/-- FP16 (R110). -/
def F16 : Fmt := ⟨10, 5, 15, false⟩
/-- BF16 (R110). -/
def BF16 : Fmt := ⟨7, 8, 127, false⟩
/-- E5M2 (R110). -/
def E5M2 : Fmt := ⟨2, 5, 15, false⟩
/-- E4M3 (R110, R111). -/
def E4M3 : Fmt := ⟨3, 4, 7, true⟩

/-- The format of a floating-point type; an integer type gives FP32, which no caller asks for. -/
def fmtOf : Ty → Fmt
  | .f16 => F16
  | .bf16 => BF16
  | .e4m3 => E4M3
  | .e5m2 => E5M2
  | _ => F32

/-- A value: a NaN, an infinity, or `(-1)^s · m · 2^e` exactly. A zero keeps its sign. -/
inductive Fx
  | nan
  | inf (s : Bool)
  | fin (s : Bool) (m : Nat) (e : Int)
  deriving DecidableEq, Repr

/-- The bits of the largest exponent field. -/
def Fmt.emask (f : Fmt) : Nat := 2 ^ f.ebits - 1
/-- The exponent of the smallest normal (R110). -/
def Fmt.emin (f : Fmt) : Int := 1 - (f.bias : Int)
/-- The bits of the largest finite value, without its sign (R110, R111). -/
def Fmt.maxBits (f : Fmt) : Nat := if f.e4m3 then 0x7E else f.emask * 2 ^ f.frac - 1
/-- The sign bit's weight. -/
def Fmt.signBit (f : Fmt) : Nat := 2 ^ (f.frac + f.ebits)
/-- The canonical NaN (R110, R112). -/
def Fmt.nan (f : Fmt) : Nat := if f.e4m3 then 0x7F else f.emask * 2 ^ f.frac + 2 ^ (f.frac - 1)
/-- The bits of an infinity; E4M3 has the canonical NaN there (R114). -/
def Fmt.infBits (f : Fmt) (s : Bool) : Nat :=
  if f.e4m3 then f.nan else f.emask * 2 ^ f.frac + (if s then f.signBit else 0)

/-- The value of a bit pattern (R110, R111). -/
def Fmt.decode (f : Fmt) (x : Nat) : Fx :=
  let s := decide (x / f.signBit % 2 = 1)
  let e := x / 2 ^ f.frac % 2 ^ f.ebits
  let m := x % 2 ^ f.frac
  if e = f.emask ∧ (¬ f.e4m3 ∨ m = 7) then
    if m = 0 then .inf s else .nan
  else if e = 0 then .fin s m (f.emin - f.frac)
  else .fin s (2 ^ f.frac + m) ((e : Int) - f.bias - f.frac)

/-- `n · 2^k` for a possibly negative `k`, as numerator and denominator. -/
def scale2 (n d : Nat) (k : Int) : Nat × Nat :=
  if 0 ≤ k then (n * 2 ^ k.toNat, d) else (n, d * 2 ^ (-k).toNat)

/-- `⌊log2 (n/d)⌋` for positive `n` and `d`. -/
def floorLog2 (n d : Nat) : Int :=
  let l : Int := (Nat.log2 n : Int) - (Nat.log2 d : Int)
  let p := scale2 n d (-l)
  if p.1 < p.2 then l - 1 else l

/-- How a rounding chooses between the neighbours (R113, R117): a mode, or a stochastic draw. -/
inductive RMode
  | dir (r : Rnd)
  | sto (draw : BitVec 32)
  deriving DecidableEq, Repr

/-- Whether the magnitude between two neighbours goes up: remainder `r` of `d`, lower neighbour `k`,
sign `s` (R113, R117). -/
def roundsUp (m : RMode) (s : Bool) (k r d : Nat) : Bool :=
  match m with
  | .dir .rne => decide (d < 2 * r) || (decide (2 * r = d) && decide (k % 2 = 1))
  | .dir .rtz => false
  | .dir .rdn => s && decide (r ≠ 0)
  | .dir .rup => !s && decide (r ≠ 0)
  | .sto draw => decide (draw.toNat < 2 ^ 32 * r / d)

/-- The overflow table of R114: an infinity or the largest finite value. -/
def overflowBits (f : Fmt) (m : RMode) (sat s : Bool) : Nat :=
  let big := f.maxBits + (if s then f.signBit else 0)
  if sat then big
  else match m with
    | .dir .rtz => big
    | .dir .rdn => if s then f.infBits s else big
    | .dir .rup => if s then big else f.infBits s
    | _ => f.infBits s

/-- The bits of `k · 2^q`, a magnitude on the format's grid. -/
def packMag (f : Fmt) (k : Nat) (q : Int) : Nat :=
  if k < 2 ^ f.frac then k
  else
    let kq := if k = 2 ^ (f.frac + 1) then (2 ^ f.frac, q + 1) else (k, q)
    (kq.2 + f.frac + f.bias).toNat * 2 ^ f.frac + (kq.1 - 2 ^ f.frac)

/-- round() of R113 for the magnitude `n/d`, `n` and `d` positive, with sign `s`: bits and conditions. -/
def roundFrac (f : Fmt) (m : RMode) (sat s : Bool) (n d : Nat) : Nat × Cnd :=
  let e := floorLog2 n d
  let q := max e f.emin - f.frac
  let p := scale2 n d (-q)
  let k0 := p.1 / p.2
  let r := p.1 % p.2
  let k := if roundsUp m s k0 r p.2 then k0 + 1 else k0
  let bits := packMag f k q
  let sb := if s then f.signBit else 0
  if f.maxBits < bits then (overflowBits f m sat s, cOverflow)
  else if r = 0 then (bits + sb, cNone)
  else (bits + sb, cInexact ||| (if bits < 2 ^ f.frac then cUnderflow else 0))

/-- round() of R113-R114 applied to an exact value: a zero keeps its sign, an infinity and a NaN pass. -/
def roundFx (f : Fmt) (m : RMode) (sat : Bool) (x : Fx) : Nat × Cnd :=
  match x with
  | .nan => (f.nan, cNone)
  | .inf s => (f.infBits s, cNone)
  | .fin s mg e =>
    if mg = 0 then (if s then f.signBit else 0, cNone)
    else
      let p := scale2 mg 1 e
      roundFrac f m sat s p.1 p.2

/-- The exact sum of two finite values. An exact zero takes the common sign, else the sign of R113's rule. -/
def addFin (rdn : Bool) (s1 : Bool) (m1 : Nat) (e1 : Int) (s2 : Bool) (m2 : Nat) (e2 : Int) : Fx :=
  let e := min e1 e2
  let a : Int := (m1 * 2 ^ (e1 - e).toNat : Nat)
  let b : Int := (m2 * 2 ^ (e2 - e).toNat : Nat)
  let t := (if s1 then -a else a) + (if s2 then -b else b)
  if t = 0 then .fin (if m1 = 0 ∧ m2 = 0 ∧ s1 = s2 then s1 else rdn) 0 0
  else .fin (decide (t < 0)) t.natAbs e

/-- The exact sum and the condition of an infinite or NaN case (R143, R124). -/
def addFx (rdn : Bool) (x y : Fx) : Fx × Cnd :=
  match x, y with
  | .nan, _ => (.nan, cNone)
  | _, .nan => (.nan, cNone)
  | .inf s, .inf t => if s = t then (.inf s, cNone) else (.nan, cInvalid)
  | .inf s, .fin _ _ _ => (.inf s, cNone)
  | .fin _ _ _, .inf t => (.inf t, cNone)
  | .fin s1 m1 e1, .fin s2 m2 e2 => (addFin rdn s1 m1 e1 s2 m2 e2, cNone)

/-- The exact product and the condition of `0 · ∞` (R143, R124). -/
def mulFx (x y : Fx) : Fx × Cnd :=
  match x, y with
  | .nan, _ => (.nan, cNone)
  | _, .nan => (.nan, cNone)
  | .inf s, .inf t => (.inf (s != t), cNone)
  | .inf s, .fin t m _ => if m = 0 then (.nan, cInvalid) else (.inf (s != t), cNone)
  | .fin s m _, .inf t => if m = 0 then (.nan, cInvalid) else (.inf (s != t), cNone)
  | .fin s m e, .fin t n g => (.fin (s != t) (m * n) (e + g), cNone)

/-- The value with its sign changed. -/
def negFx : Fx → Fx
  | .nan => .nan
  | .inf s => .inf (!s)
  | .fin s m e => .fin (!s) m e

/-- Whether a value is a zero. -/
def Fx.isZero : Fx → Bool
  | .fin _ m _ => m == 0
  | _ => false

/-- Whether a value is infinite. -/
def Fx.isInf : Fx → Bool
  | .inf _ => true
  | _ => false

/-- Whether a value is a NaN. -/
def Fx.isNan : Fx → Bool
  | .nan => true
  | _ => false

/-- Rounding after a case analysis that may have raised a condition. -/
def finishFx (f : Fmt) (r : Rnd) (sat : Bool) (p : Fx × Cnd) : Nat × Cnd :=
  let q := roundFx f (.dir r) sat p.1
  (q.1, p.2 ||| q.2)

/-- FADD of two bit patterns (R143). -/
def fpAdd (f : Fmt) (r : Rnd) (sat : Bool) (a b : Nat) : Nat × Cnd :=
  finishFx f r sat (addFx (r == .rdn) (f.decode a) (f.decode b))

/-- FSUB (R143). -/
def fpSub (f : Fmt) (r : Rnd) (sat : Bool) (a b : Nat) : Nat × Cnd :=
  finishFx f r sat (addFx (r == .rdn) (f.decode a) (negFx (f.decode b)))

/-- FMUL (R143). -/
def fpMul (f : Fmt) (r : Rnd) (sat : Bool) (a b : Nat) : Nat × Cnd :=
  finishFx f r sat (mulFx (f.decode a) (f.decode b))

/-- FFMA: one rounding; invalid for `0 · ∞` even beside a NaN addend (R143). -/
def fpFma (f : Fmt) (r : Rnd) (sat : Bool) (a b c : Nat) : Nat × Cnd :=
  let p := mulFx (f.decode a) (f.decode b)
  let q := addFx (r == .rdn) p.1 (f.decode c)
  finishFx f r sat (q.1, p.2 ||| q.2)

/-- FSCALE: `a · 2^b`. A `b` beyond 1000 in magnitude gives what 1000 gives (R143). -/
def fpScale (r : Rnd) (sat : Bool) (a : Nat) (b : Int) : Nat × Cnd :=
  match F32.decode a with
  | .fin s m e => roundFx F32 (.dir r) sat (.fin s m (e + max (-1000) (min 1000 b)))
  | x => roundFx F32 (.dir r) sat x

/-- A comparison key of a value that is not a NaN: `-0` lies just below `+0` (R144). The sign of a finite
difference decides the order. -/
def ltFx (x y : Fx) : Bool :=
  match x, y with
  | .nan, _ => false
  | _, .nan => false
  | .inf s, .inf t => s && !t
  | .inf s, .fin _ _ _ => s
  | .fin _ _ _, .inf t => !t
  | .fin s1 m1 e1, .fin s2 m2 e2 =>
    match addFin false s1 m1 e1 (!s2) m2 e2 with
    | .fin s m _ => s && m != 0
    | _ => false

/-- Numeric equality; `-0` equals `+0` (R145). -/
def eqFx (x y : Fx) : Bool :=
  match x, y with
  | .nan, _ => false
  | _, .nan => false
  | .inf s, .inf t => s == t
  | .fin s1 m1 e1, .fin s2 m2 e2 =>
    match addFin false s1 m1 e1 (!s2) m2 e2 with
    | .fin _ m _ => m == 0
    | _ => false
  | _, _ => false

/-- The sign of a value. -/
def Fx.sign : Fx → Bool
  | .nan => false
  | .inf s => s
  | .fin s _ _ => s

/-- `a` orders below `b` in FMIN and FMAX, with `-0` below `+0` (R144). -/
def fpBelow (x y : Fx) : Bool :=
  ltFx x y || (x.isZero && y.isZero && x.sign && !y.sign)

/-- FMIN, FMAX and their NaN-propagating forms on bit patterns (R144). -/
def fpMinMax (f : Fmt) (isMax prop : Bool) (a b : Nat) : Nat :=
  let x := f.decode a
  let y := f.decode b
  if x.isNan && y.isNan then f.nan
  else if x.isNan then (if prop then f.nan else b)
  else if y.isNan then (if prop then f.nan else a)
  else if isMax then (if fpBelow x y then b else a)
  else if fpBelow y x then b else a

/-- FSET's comparison and its condition (R145). -/
def fpCmp (c : CmpOp) (a b : Nat) : Bool × Cnd :=
  let x := F32.decode a
  let y := F32.decode b
  let un := x.isNan || y.isNan
  match c with
  | .eq => (eqFx x y, cNone)
  | .ne => (un || !eqFx x y, cNone)
  | .lt => (ltFx x y, if un then cInvalid else cNone)
  | .le => (ltFx x y || eqFx x y, if un then cInvalid else cNone)
  | .gt => (ltFx y x, if un then cInvalid else cNone)
  | .ge => (ltFx y x || eqFx x y, if un then cInvalid else cNone)
  | .un => (un, cNone)
  | .ord => (!un, cNone)

/-- FCLASS's mask (R146). -/
def fpClass (a : Nat) : Nat :=
  match F32.decode a with
  | .nan => 2 ^ 8
  | .inf s => if s then 1 else 2 ^ 7
  | .fin s m _ =>
    if m = 0 then (if s then 2 ^ 3 else 2 ^ 4)
    else if m < 2 ^ 23 then (if s then 2 ^ 2 else 2 ^ 5)
    else if s then 2 ^ 1 else 2 ^ 6

/-- `m · 2^e` rounded to an integer magnitude, and whether it changed (R113, R118). -/
def toIntMag (r : RMode) (s : Bool) (m : Nat) (e : Int) : Nat × Bool :=
  let p := scale2 m 1 e
  let k := p.1 / p.2
  let rem := p.1 % p.2
  (if roundsUp r s k rem p.2 then k + 1 else k, decide (rem ≠ 0))

/-- FRND (R146): no condition; a zero result keeps the sign. -/
def fpRnd (r : Rnd) (a : Nat) : Nat :=
  match F32.decode a with
  | .nan => F32.nan
  | .inf s => F32.infBits s
  | .fin s m e =>
    if 0 ≤ e then a
    else (roundFx F32 (.dir .rne) false (.fin s (toIntMag (.dir r) s m e).1 0)).1

/-- FFRAC (R146): `a - ⌊a⌋` rounded and capped at 0x3F7F_FFFF. -/
def fpFrac (a : Nat) : Nat × Cnd :=
  match F32.decode a with
  | .nan => (F32.nan, cNone)
  | .inf _ => (F32.nan, cInvalid)
  | .fin s m e =>
    if 0 ≤ e then (0, cNone)
    else
      let d := 2 ^ (-e).toNat
      let r := m % d
      let fr := if s && r != 0 then d - r else r
      let q := roundFx F32 (.dir .rne) false (.fin false fr e)
      if 0x3F7FFFFF < q.1 then (0x3F7FFFFF, cInexact) else q

/-- FGETEXP (R146). -/
def fpGetExp (a : Nat) : Nat × Cnd :=
  match F32.decode a with
  | .nan => (0x80000000, cInvalid)
  | .inf _ => (0x7FFFFFFF, cNone)
  | .fin _ m e =>
    if m = 0 then (0x80000000, cNone)
    else ((((Nat.log2 m : Int) + e) % 2 ^ 32).toNat, cNone)

/-- The integer square root, one bit a step from bit `n - 1` down. -/
def isqrtGo : Nat → Nat → Nat → Nat
  | 0, _, r => r
  | n + 1, x, r =>
    let t := r + 2 ^ n
    isqrtGo n x (if t * t ≤ x then t else r)

/-- `⌊√x⌋` for `x` below `2^256`. -/
def isqrt (x : Nat) : Nat := isqrtGo 128 x 0

/-- FSQRT, correctly rounded (R147): the root of `m · 2^e`, scaled so that at least 60 bits stand before the
point; a root that is not exact lies strictly between two integers, and their midpoint rounds as it does. -/
def fpSqrt (r : Rnd) (a : Nat) : Nat × Cnd :=
  match F32.decode a with
  | .nan => (F32.nan, cNone)
  | .inf s => if s then (F32.nan, cInvalid) else (F32.infBits false, cNone)
  | .fin s m e =>
    if m = 0 then (a, cNone)
    else if s then (F32.nan, cInvalid)
    else
      let m' := if e % 2 = 0 then m else 2 * m
      let e' := if e % 2 = 0 then e else e - 1
      let x := m' * 2 ^ 120
      let k := isqrt x
      let exact := k * k = x
      let n := if exact then 2 * k else 2 * k + 1
      let p := scale2 n 2 (e' / 2 - 60)
      roundFrac F32 (.dir r) false false p.1 p.2

/-- FRCP, correctly rounded (R147). -/
def fpRcp (r : Rnd) (a : Nat) : Nat × Cnd :=
  match F32.decode a with
  | .nan => (F32.nan, cNone)
  | .inf s => (if s then F32.signBit else 0, cNone)
  | .fin s m e =>
    if m = 0 then (F32.infBits s, cDivZero)
    else
      let p := scale2 1 m (-e)
      roundFrac F32 (.dir r) false s p.1 p.2

/-- The conditions of a free special-function result: inexact, and underflow when it is subnormal or zero (R147). -/
def sfCnd (x : BitVec 32) : Cnd :=
  cInexact ||| (if x.toNat % 2 ^ 31 < 2 ^ 23 then cUnderflow else 0)

/-- The natural logarithm of 2 in units of 2^-160. -/
def fxLn2 : Nat := 1013035739299659071135698605846798551586536899366
/-- A turn in radians, 2π, in units of 2^-160. -/
def fxTau : Nat := 9182885614096437842769610399486622256908310048836

/-- `m · 2^e` in units of 2^-160, cut. -/
def toFx (m : Nat) (e : Int) : Nat :=
  let p := scale2 m 1 (e + 160)
  p.1 / p.2

/-- `n` terms of the exponential series from `t = x^k / k!` on, in units of 2^-160. -/
def expGo (x : Nat) : Nat → Nat → Nat → Nat
  | 0, _, _ => 0
  | n + 1, k, t => t + expGo x n (k + 1) (t * x / 2 ^ 160 / (k + 1))

/-- `e^x` in units of 2^-160, relative to its power of two. -/
def expFx (x : Nat) : Nat := expGo (x % fxLn2) 60 0 (2 ^ 160) * 2 ^ (x / fxLn2)

/-- `n` terms of the sine or cosine series from `t = x^k / k!` on, for the square `x2` of `x`, in units of 2^-160. -/
def sinGo (x2 : Nat) : Nat → Nat → Nat → Int
  | 0, _, _ => 0
  | n + 1, k, t => (t : Int) - sinGo x2 n (k + 2) (t * x2 / 2 ^ 160 / ((k + 1) * (k + 2)))

/-- `n` terms of the series of the inverse hyperbolic tangent from `t = w^k` on, for the square `w2` of `w`, in units of 2^-160. -/
def atanhGo (w2 : Nat) : Nat → Nat → Nat → Nat
  | 0, _, _ => 0
  | n + 1, k, t => t / k + atanhGo w2 n (k + 2) (t * w2 / 2 ^ 160)

/-- `2^x` of `|x| = X · 2^-160`, as a fraction. -/
def exp2Ref (s : Bool) (X : Nat) : Nat × Nat :=
  if s then
    let Y := min X (200 * 2 ^ 160)
    (expFx ((2 ^ 160 - Y % 2 ^ 160) * fxLn2 / 2 ^ 160), 2 ^ (160 + Y / 2 ^ 160 + 1))
  else (expFx (X % 2 ^ 160 * fxLn2 / 2 ^ 160) * 2 ^ (X / 2 ^ 160), 2 ^ 160)

/-- The base-2 logarithm of `m · 2^e`, in units of 2^-160. -/
def log2Ref (m : Nat) (e : Int) : Int :=
  let l := Nat.log2 m
  let w := (m - 2 ^ l) * 2 ^ 160 / (m + 2 ^ l)
  (l + e) * 2 ^ 160 + (2 * atanhGo (w * w / 2 ^ 160) 60 1 w * 2 ^ 160 / fxLn2 : Nat)

/-- The sine (`quarter` 0) or cosine (`quarter` 1) of `X · 2^-160` turns, in units of 2^-160. -/
def sinRef (quarter X : Nat) : Int :=
  let x := X % 2 ^ 158 * fxTau / 2 ^ 160
  let x2 := x * x / 2 ^ 160
  let q := (X / 2 ^ 158 + quarter) % 4
  let v := if q % 2 = 0 then sinGo x2 40 1 x else sinGo x2 40 0 (2 ^ 160)
  if q < 2 then v else -v

/-- The hyperbolic tangent of `m · 2^e`, as a fraction: below 2^-40 the first two terms of its series. -/
def tanhRef (m : Nat) (e : Int) : Nat × Nat :=
  let X := toFx m e
  if X < 2 ^ 120 then
    let d := 2 ^ (-e).toNat
    (m * (3 * d * d - m * m), 3 * d * d * d)
  else
    let E := expFx (2 * min X (64 * 2 ^ 160))
    (E - 2 ^ 160, E + 2 ^ 160)

/-- `1 / (1 + e^-x)` for `|x| = X · 2^-160`, as a fraction. -/
def sigmRef (s : Bool) (X : Nat) : Nat × Nat :=
  let E := expFx (min X (128 * 2 ^ 160))
  (if s then 2 ^ 160 else E, E + 2 ^ 160)

/-- The exact value of a special function at `(-1)^s · m · 2^e`, computed to within 2^-100 of itself or of 2^-126, the larger, and for a sine, a
cosine or a logarithm to within 2^-100: its sign, numerator and denominator (log 5). -/
def sfRef (fn : SfFn) (s : Bool) (m : Nat) (e : Int) : Bool × Nat × Nat :=
  match fn with
  | .fexp2 => (false, exp2Ref s (toFx m e))
  | .flog2 => (decide (log2Ref m e < 0), (log2Ref m e).natAbs, 2 ^ 160)
  | .fsin => (xor s (decide (sinRef 0 (toFx m e) < 0)), (sinRef 0 (toFx m e)).natAbs, 2 ^ 160)
  | .fcos => (decide (sinRef 1 (toFx m e) < 0), (sinRef 1 (toFx m e)).natAbs, 2 ^ 160)
  | .ftanh => (s, tanhRef m e)
  | .fsigm => (false, sigmRef s (toFx m e))

/-- R147's bound on the error at `m · 2^e`, where the exact value is `n/d`: two units in the last place of the exact value's binade, or 2^-22 for
a sine, a cosine and a logarithm of a number in [0.5, 2]. -/
def sfBound (fn : SfFn) (m : Nat) (e : Int) (n d : Nat) : Nat × Nat :=
  let p := scale2 m 1 e
  let ulps := scale2 2 1 (max (floorLog2 n d) (-126) - 23)
  match fn with
  | .fsin | .fcos => (1, 2 ^ 22)
  | .flog2 => if p.2 ≤ 2 * p.1 ∧ p.1 ≤ 2 * p.2 then (1, 2 ^ 22) else ulps
  | _ => ulps

/-- Whether the FP32 number `x` lies within `b.1/b.2` of `(-1)^v.1 · v.2.1 / v.2.2`. -/
def nearTo (x : Nat) (v : Bool × Nat × Nat) (b : Nat × Nat) : Bool :=
  match F32.decode x with
  | .fin t k q =>
    let p := scale2 k 1 q
    let l : Int := (if t then -1 else 1) * (p.1 * v.2.2)
    let r : Int := (if v.1 then -1 else 1) * (v.2.1 * p.2)
    decide ((l - r).natAbs * b.2 ≤ b.1 * p.2 * v.2.2)
  | _ => false

/-- A special-function value that R147 bounds and does not state (log 5): the implementation's, `Config.sf`, which stands where it keeps the
bound; the FP32 number nearest the exact value stands in for one that does not. -/
def sfFree (fn : SfFn) (a : Nat) : Nat × Cnd :=
  match F32.decode a with
  | .fin s m e =>
    let v := sfRef fn s m e
    let x := Config.sf fn (BitVec.ofNat 32 a)
    let y := if nearTo x.toNat v (sfBound fn m e v.2.1 v.2.2) then x
      else BitVec.ofNat 32 (roundFrac F32 (.dir .rne) false v.1 v.2.1 v.2.2).1
    (y.toNat, sfCnd y)
  | _ => (F32.nan, cNone)

/-- Whether `m · 2^e` is a power of four, and the exponent of its square root. -/
def pow4 (m : Nat) (e : Int) : Option Int :=
  let l := Nat.log2 m
  if m = 2 ^ l ∧ (e + l) % 2 = 0 then some ((e + l) / 2) else none

/-- FRSQ (R147): exact for a power of four, else one of the two neighbours of the exact value (log 5). -/
def fpRsq (a : Nat) : Nat × Cnd :=
  match F32.decode a with
  | .nan => (F32.nan, cNone)
  | .inf s => if s then (F32.nan, cInvalid) else (0, cNone)
  | .fin s m e =>
    if m = 0 then (F32.infBits s, cDivZero)
    else if s then (F32.nan, cInvalid)
    else match pow4 m e with
      | some k => roundFx F32 (.dir .rne) false (.fin false 1 (-k))
      | none =>
        let m' := if e % 2 = 0 then m else 2 * m
        let e' := if e % 2 = 0 then e else e - 1
        let k := isqrt (2 ^ 200 / m')
        let p := scale2 (2 * k + 1) 2 (-(e' / 2) - 100)
        let q := roundFrac F32 (.dir (if Config.rsqUp (BitVec.ofNat 32 a) then .rup else .rdn)) false false p.1 p.2
        (q.1, cInexact)

/-- The integer that `m · 2^e` is, when it is one. -/
def asInt (s : Bool) (m : Nat) (e : Int) : Option Int :=
  let p := scale2 m 1 e
  if p.1 % p.2 = 0 then some (if s then -((p.1 / p.2 : Nat) : Int) else ((p.1 / p.2 : Nat) : Int)) else none

/-- FEXP2 (R147). -/
def fpExp2 (a : Nat) : Nat × Cnd :=
  match F32.decode a with
  | .nan => (F32.nan, cNone)
  | .inf s => (if s then 0 else F32.infBits false, cNone)
  | .fin s m e =>
    let p := scale2 m 1 e
    if ¬ s ∧ 128 * p.2 ≤ p.1 then (F32.infBits false, cOverflow)
    else match asInt s m e with
      | some k => if -149 ≤ k ∧ k ≤ 127 then roundFx F32 (.dir .rne) false (.fin false 1 k) else sfFree .fexp2 a
      | none => sfFree .fexp2 a

/-- FLOG2 (R147). -/
def fpLog2 (a : Nat) : Nat × Cnd :=
  match F32.decode a with
  | .nan => (F32.nan, cNone)
  | .inf s => if s then (F32.nan, cInvalid) else (F32.infBits false, cNone)
  | .fin s m e =>
    if m = 0 then (F32.infBits true, cDivZero)
    else if s then (F32.nan, cInvalid)
    else
      let l := Nat.log2 m
      if m = 2 ^ l then
        let k := (l : Int) + e
        roundFx F32 (.dir .rne) false (.fin (decide (k < 0)) k.natAbs 0)
      else sfFree .flog2 a

/-- The quarter turns that `m · 2^e` revolutions make, when they are whole. -/
def quarters (s : Bool) (m : Nat) (e : Int) : Option Int := asInt s m (e + 2)

/-- FSIN (R147): exact at multiples of a quarter. -/
def fpSin (a : Nat) : Nat × Cnd :=
  match F32.decode a with
  | .nan => (F32.nan, cNone)
  | .inf _ => (F32.nan, cInvalid)
  | .fin s m e =>
    match quarters s m e with
    | some k =>
      if m = 0 then (a, cNone)
      else if k % 4 = 1 then (0x3F800000, cNone)
      else if k % 4 = 3 then (0xBF800000, cNone)
      else (0, cNone)
    | none => sfFree .fsin a

/-- FCOS (R147): exact at multiples of a quarter. -/
def fpCos (a : Nat) : Nat × Cnd :=
  match F32.decode a with
  | .nan => (F32.nan, cNone)
  | .inf _ => (F32.nan, cInvalid)
  | .fin s m e =>
    match quarters s m e with
    | some k =>
      if k % 4 = 0 then (0x3F800000, cNone)
      else if k % 4 = 2 then (0xBF800000, cNone)
      else (0, cNone)
    | none => sfFree .fcos a

/-- FTANH (R147). -/
def fpTanh (a : Nat) : Nat × Cnd :=
  match F32.decode a with
  | .nan => (F32.nan, cNone)
  | .inf s => (if s then 0xBF800000 else 0x3F800000, cNone)
  | .fin _ m _ => if m = 0 then (a, cNone) else sfFree .ftanh a

/-- FSIGM (R147). -/
def fpSigm (a : Nat) : Nat × Cnd :=
  match F32.decode a with
  | .nan => (F32.nan, cNone)
  | .inf s => (if s then 0 else 0x3F800000, cNone)
  | .fin _ m _ => if m = 0 then (0x3F000000, cNone) else sfFree .fsigm a

/-- The least and greatest value of an integer type (R108). -/
def Ty.lo (t : Ty) : Int := if t.isSigned then -(2 ^ (t.bits - 1)) else 0
/-- The greatest value of an integer type (R108). -/
def Ty.hi (t : Ty) : Int := if t.isSigned then 2 ^ (t.bits - 1) - 1 else 2 ^ t.bits - 1
/-- `x` clamped to the range of `t` (R58). -/
def satInt (t : Ty) (x : Int) : Int := max (Ty.lo t) (min (Ty.hi t) x)

/-- The integer that the low bits of `x` hold in type `t` (R109, R135). -/
def intOf (t : Ty) (x : Nat) : Int :=
  let y := x % 2 ^ t.bits
  if t.isSigned ∧ 2 ^ (t.bits - 1) ≤ y then (y : Int) - 2 ^ t.bits else y

/-- The low `t` bits of an integer, extended by the signedness of the type to 64 bits (R135). -/
def extInt (t : Ty) (x : Int) : DWord := BitVec.ofInt 64 (intOf t (x % 2 ^ t.bits).toNat)

/-- float to float, R118, R114: SAT turns an infinite input into the largest finite value. -/
def cvtFF (d s : Ty) (m : RMode) (sat : Bool) (x : Nat) : Nat × Cnd :=
  let f := fmtOf d
  match (fmtOf s).decode x with
  | .inf sg =>
    if sat then (overflowBits f m true sg, cOverflow)
    else (f.infBits sg, if f.e4m3 then cInvalid else cNone)
  | v => roundFx f m sat v

/-- float to integer (R118). -/
def cvtFI (d s : Ty) (r : Rnd) (x : Nat) : Int × Cnd :=
  match (fmtOf s).decode x with
  | .nan => (0, cInvalid)
  | .inf sg => (if sg then Ty.lo d else Ty.hi d, cInvalid)
  | .fin sg m e =>
    let k := toIntMag (.dir r) sg m e
    let v : Int := if sg then -(k.1 : Int) else k.1
    if v < Ty.lo d ∨ Ty.hi d < v then (satInt d v, cInvalid)
    else (v, if k.2 then cInexact else cNone)

/-- integer to float (R118). -/
def cvtIF (d : Ty) (m : RMode) (sat : Bool) (v : Int) : Nat × Cnd :=
  roundFx (fmtOf d) m sat (.fin (decide (v < 0)) v.natAbs 0)

/-- The random word of a stochastic rounding (R116). -/
def draw (seed : Word) (l e : Nat) (xbits : Word) : Word :=
  let h := seed ^^^ xbits
  let h := h ^^^ (BitVec.ofNat 32 (32 * e + l + 1) * 0x9E3779B9#32)
  let h := h ^^^ (h >>> 16)
  let h := h * 0x7FEB352D#32
  let h := h ^^^ (h >>> 15)
  let h := h * 0x846CA68B#32
  h ^^^ (h >>> 16)

/-- A node of the tree: the rounded sum of two present children; an absent child gives the other unchanged
(R124, R125). -/
def treeNode (a b : Option Fx × Cnd) : Option Fx × Cnd :=
  match a.1, b.1 with
  | none, none => (none, a.2 ||| b.2)
  | some x, none => (some x, a.2 ||| b.2)
  | none, some y => (some y, a.2 ||| b.2)
  | some x, some y =>
    let p := addFx false x y
    let q := roundFx F32 (.dir .rne) false p.1
    (some (F32.decode q.1), a.2 ||| b.2 ||| p.2 ||| q.2)

/-- One level of the tree: neighbours are added in pairs (R124). -/
def treeLevel : List (Option Fx × Cnd) → List (Option Fx × Cnd)
  | a :: b :: rest => treeNode a b :: treeLevel rest
  | l => l

/-- The block sum of 32 leaves, and the conditions of its nodes and leaves (R124, R125). -/
def treeSum (leaves : List (Option Fx × Cnd)) : Option Fx × Cnd :=
  match treeLevel (treeLevel (treeLevel (treeLevel (treeLevel leaves)))) with
  | r :: _ => r
  | [] => (none, cNone)

/-- `acc := round(acc + S, FP32, RNE)`; an absent block leaves the accumulator (R126). -/
def accumulate (acc : Nat) (s : Option Fx) : Nat :=
  match s with
  | none => acc
  | some x => (roundFx F32 (.dir .rne) false (addFx false (F32.decode acc) x).1).1

/-- The code, element bits and magnitude bits of a DXB format (R119): `k` is 6, 4 or 2. -/
def dxbK (fmt : Nat) : Nat := 6 - 2 * fmt

/-- The value of a DXB element under base exponent `E` and scale byte (R119, R120). -/
def dxbDecode (k : Nat) (E : Int) (scaleByte x : Nat) : Fx :=
  let sel := x / 2 ^ (k + 1) % 2
  let sg := decide (x / 2 ^ k % 2 = 1)
  let m := x % 2 ^ k
  let dd := if sel = 1 then scaleByte / 16 % 16 else scaleByte % 16
  if m = 0 then .fin false 0 0 else .fin sg m (E - dd - k)

/-- Element bits of a FMT code (R119, R121). -/
def elemBits (fmt : Nat) : Nat :=
  if fmt < 3 then dxbK fmt + 2 else if fmt < 5 then 16 else 8

/-- The type of a non-DXB FMT code (R121). -/
def fmtTy (fmt : Nat) : Ty :=
  if fmt = 3 then .bf16 else if fmt = 4 then .f16 else if fmt = 5 then .e4m3 else .e5m2

/-- The deltas that CVTDXB gives a block (R123): `(dlo, dhi)`. -/
def dxbDeltas (k : Nat) (E : Int) (xs : List Nat) : Nat × Nat :=
  let mags := xs.map fun x => match F32.decode x with
    | .nan => none
    | .inf _ => some none
    | .fin _ m e => if m = 0 then none else some (some ((Nat.log2 m : Int) + e))
  let infinite := mags.any (· == some none)
  let exps := mags.filterMap fun o => match o with
    | some (some e) => some e
    | _ => none
  let dhi : Nat :=
    if infinite then 0
    else match exps with
      | [] => 15
      | e :: es =>
        let emax := es.foldl max e
        (max 0 (min 15 (E - 1 - emax))).toNat
  (min 15 (dhi + k), dhi)

/-- CVTDXB of one element under a block's deltas (R123): code bits and conditions. -/
def dxbEncode (k : Nat) (E : Int) (dlo dhi : Nat) (m : BitVec 32 → RMode) (x : Nat) : Nat × Cnd :=
  let top := 2 ^ k - 1
  match F32.decode x with
  | .inf s => ((if s then 2 ^ k else 0) + top, cOverflow)
  | .nan => (if dlo ≠ dhi then 2 ^ (k + 1) else 0, cInvalid)
  | .fin s mg e =>
    -- |v| / 2^(E - d - k) as a fraction
    let q (d : Nat) := scale2 mg 1 (e - (E - d - k))
    let fits (d : Nat) := (q d).1 ≤ top * (q d).2
    let sel := dlo ≠ dhi ∧ fits dlo
    let d := if sel then dlo else dhi
    let p := q d
    let k0 := p.1 / p.2
    let r := p.1 % p.2
    let mi := if roundsUp (m (BitVec.ofNat 32 x)) false k0 r p.2 then k0 + 1 else k0
    let mc := min mi top
    let cnd :=
      if top * p.2 < p.1 ∧ ¬ sel then cOverflow
      else (if mc * p.2 = p.1 then 0 else cInexact) ||| (if mc = 0 ∧ mg ≠ 0 then cUnderflow else 0)
    ((if sel then 2 ^ (k + 1) else 0) + (if mc ≠ 0 ∧ s then 2 ^ k else 0) + mc, cnd)

/-- `e(x)` of R130 for finite `x`. -/
def expBound (x : Nat) : Int :=
  match F32.decode x with
  | .fin _ m e => if m = 0 then -150 else (Nat.log2 m : Int) + e + 1
  | _ => -150

/-- The word of XSCALE for the elements of a block (R130): `X_b` in [15:0], the mask in [63:32]. -/
def xscaleWord (xs : List Nat) : DWord :=
  let X := xs.foldl (fun a x => max a (expBound x)) (-150)
  let mask := (xs.zipIdx).foldl (fun a (x, i) => match F32.decode x with
    | .fin _ _ _ => a
    | _ => a + 2 ^ i) 0
  BitVec.ofInt 64 (mask * 2 ^ 32) ||| (BitVec.ofInt 16 X).setWidth 64

/-- Two scale words combined: the maximum of `X_b` and the OR of the masks (R130). -/
def xscaleCombine (a b : DWord) : DWord :=
  let xa := (a.setWidth 16).toInt
  let xb := (b.setWidth 16).toInt
  (((a >>> 32) ||| (b >>> 32)) <<< 32) ||| (BitVec.ofInt 16 (max xa xb)).setWidth 64

/-- XRED's integer of one contribution (R131). -/
def xredQuant (X : Int) (x : Nat) : Int :=
  match F32.decode x with
  | .fin s m e =>
    let k := (toIntMag (.dir .rne) s m (e + 54 - X)).1
    let v : Int := if s then -(k : Int) else k
    max (-(2 ^ 54)) (min (2 ^ 54) v)
  | _ => 0

/-- XRED's result for one element from the modular sum (R131). -/
def xredResult (X : Int) (masked : Bool) (sum : DWord) : Nat :=
  if masked then F32.nan
  else if X = -150 then 0
  else
    let v := sum.toInt
    (roundFx F32 (.dir .rne) false (.fin (decide (v < 0)) v.natAbs (X - 54))).1

end Sys2Proof.Machine
end

