-- ==== Sys2Proof/Decode.lean ====
section
/-! DEFINITION. Decoding and encoding of the 96-bit instruction word (R36-R43, R54) and of the 64-byte
line (R44, R45). The decoder is total: it answers an instruction or the name of the fault that R38 and
R52 give. ILLEGAL_OPERAND depends on the group and the slice and is the machine's (R53, rank 4). -/

namespace Sys2Proof

/-- Why a word is refused: the decode faults of R52 and R38. -/
inductive Reject
  | illegalOpcode
  | illegalEncoding
  deriving DecidableEq, Repr

/-- The code of SetF (R41). -/
def SetF.code : SetF → BitVec 2
  | .none => 0#2
  | .a => 1#2
  | .b => 2#2

/-- The SetF of a code; reserved codes give none (R41, R38). -/
def SetF.ofCode (x : BitVec 2) : Option SetF :=
  match x.toNat with
  | 0 => some .none
  | 1 => some .a
  | 2 => some .b
  | _ => Option.none

/-- The code of Ty (R41). -/
def Ty.code : Ty → BitVec 4
  | .i8 => 0#4
  | .i16 => 1#4
  | .i32 => 2#4
  | .i64 => 3#4
  | .n8 => 4#4
  | .n16 => 5#4
  | .n32 => 6#4
  | .n64 => 7#4
  | .f32 => 8#4
  | .f16 => 9#4
  | .bf16 => 10#4
  | .e4m3 => 11#4
  | .e5m2 => 12#4
  | .b32 => 13#4

/-- The Ty of a code; reserved codes give none (R41, R38). -/
def Ty.ofCode (x : BitVec 4) : Option Ty :=
  match x.toNat with
  | 0 => some .i8
  | 1 => some .i16
  | 2 => some .i32
  | 3 => some .i64
  | 4 => some .n8
  | 5 => some .n16
  | 6 => some .n32
  | 7 => some .n64
  | 8 => some .f32
  | 9 => some .f16
  | 10 => some .bf16
  | 11 => some .e4m3
  | 12 => some .e5m2
  | 13 => some .b32
  | _ => none

/-- The code of Ord (R41). -/
def Ord.code : Ord → BitVec 2
  | .rlx => 0#2
  | .acq => 1#2
  | .rel => 2#2
  | .ar => 3#2

/-- The Ord of a code; reserved codes give none (R41, R38). -/
def Ord.ofCode (x : BitVec 2) : Option Ord :=
  match x.toNat with
  | 0 => some .rlx
  | 1 => some .acq
  | 2 => some .rel
  | 3 => some .ar
  | _ => none

/-- The code of Scope (R41). -/
def Scope.code : Scope → BitVec 3
  | .grp => 0#3
  | .team => 1#3
  | .clu => 2#3
  | .die => 3#3
  | .dev => 4#3
  | .sys => 5#3

/-- The Scope of a code; reserved codes give none (R41, R38). -/
def Scope.ofCode (x : BitVec 3) : Option Scope :=
  match x.toNat with
  | 0 => some .grp
  | 1 => some .team
  | 2 => some .clu
  | 3 => some .die
  | 4 => some .dev
  | 5 => some .sys
  | _ => none

/-- The code of CacheP (R41). -/
def CacheP.code : CacheP → BitVec 2
  | .ca => 0#2
  | .cs => 1#2
  | .cb => 2#2

/-- The CacheP of a code; reserved codes give none (R41, R38). -/
def CacheP.ofCode (x : BitVec 2) : Option CacheP :=
  match x.toNat with
  | 0 => some .ca
  | 1 => some .cs
  | 2 => some .cb
  | _ => none

/-- The code of Width (R41). -/
def Width.code : Width → BitVec 3
  | .b8 => 0#3
  | .b16 => 1#3
  | .b32 => 2#3
  | .b64 => 3#3
  | .b128 => 4#3

/-- The Width of a code; reserved codes give none (R41, R38). -/
def Width.ofCode (x : BitVec 3) : Option Width :=
  match x.toNat with
  | 0 => some .b8
  | 1 => some .b16
  | 2 => some .b32
  | 3 => some .b64
  | 4 => some .b128
  | _ => none

/-- The code of Rnd (R41). -/
def Rnd.code : Rnd → BitVec 2
  | .rne => 0#2
  | .rtz => 1#2
  | .rdn => 2#2
  | .rup => 3#2

/-- The Rnd of a code; reserved codes give none (R41, R38). -/
def Rnd.ofCode (x : BitVec 2) : Option Rnd :=
  match x.toNat with
  | 0 => some .rne
  | 1 => some .rtz
  | 2 => some .rdn
  | 3 => some .rup
  | _ => none

/-- The code of CmpOp (R141, R145). -/
def CmpOp.code : CmpOp → BitVec 3
  | .eq => 0#3
  | .ne => 1#3
  | .lt => 2#3
  | .le => 3#3
  | .gt => 4#3
  | .ge => 5#3
  | .un => 6#3
  | .ord => 7#3

/-- The CmpOp of a code; reserved codes give none (R141, R145, R38). -/
def CmpOp.ofCode (x : BitVec 3) : Option CmpOp :=
  match x.toNat with
  | 0 => some .eq
  | 1 => some .ne
  | 2 => some .lt
  | 3 => some .le
  | 4 => some .gt
  | 5 => some .ge
  | 6 => some .un
  | 7 => some .ord
  | _ => none

/-- The code of Combine (R141). -/
def Combine.code : Combine → BitVec 2
  | .none => 0#2
  | .and => 1#2
  | .or => 2#2
  | .xor => 3#2

/-- The Combine of a code; reserved codes give none (R141, R38). -/
def Combine.ofCode (x : BitVec 2) : Option Combine :=
  match x.toNat with
  | 0 => some .none
  | 1 => some .and
  | 2 => some .or
  | 3 => some .xor
  | _ => Option.none

/-- The code of VoteMode (R152). -/
def VoteMode.code : VoteMode → BitVec 2
  | .mask => 0#2
  | .cnt => 1#2
  | .ge => 2#2
  | .same => 3#2

/-- The VoteMode of a code; reserved codes give none (R152, R38). -/
def VoteMode.ofCode (x : BitVec 2) : Option VoteMode :=
  match x.toNat with
  | 0 => some .mask
  | 1 => some .cnt
  | 2 => some .ge
  | 3 => some .same
  | _ => none

/-- The code of ShflMode (R153). -/
def ShflMode.code : ShflMode → BitVec 2
  | .idx => 0#2
  | .rot => 1#2
  | .sh => 2#2
  | .xor => 3#2

/-- The ShflMode of a code; reserved codes give none (R153, R38). -/
def ShflMode.ofCode (x : BitVec 2) : Option ShflMode :=
  match x.toNat with
  | 0 => some .idx
  | 1 => some .rot
  | 2 => some .sh
  | 3 => some .xor
  | _ => none

/-- The code of RedOp (R154). -/
def RedOp.code : RedOp → BitVec 4
  | .iadd => 0#4
  | .imin => 1#4
  | .imax => 2#4
  | .and => 3#4
  | .or => 4#4
  | .xor => 5#4
  | .fadd => 6#4
  | .fmin => 7#4
  | .fmax => 8#4

/-- The RedOp of a code; reserved codes give none (R154, R38). -/
def RedOp.ofCode (x : BitVec 4) : Option RedOp :=
  match x.toNat with
  | 0 => some .iadd
  | 1 => some .imin
  | 2 => some .imax
  | 3 => some .and
  | 4 => some .or
  | 5 => some .xor
  | 6 => some .fadd
  | 7 => some .fmin
  | 8 => some .fmax
  | _ => none

/-- The code of Space (R251). -/
def Space.code : Space → BitVec 3
  | .glob => 0#3
  | .shared => 1#3
  | .scratch => 2#3
  | .peer => 3#3
  | .host => 4#3

/-- The Space of a code; reserved codes give none (R251, R38). -/
def Space.ofCode (x : BitVec 3) : Option Space :=
  match x.toNat with
  | 0 => some .glob
  | 1 => some .shared
  | 2 => some .scratch
  | 3 => some .peer
  | 4 => some .host
  | _ => none

/-- The code of AtomOp (R252). -/
def AtomOp.code : AtomOp → BitVec 4
  | .add => 0#4
  | .and => 1#4
  | .or => 2#4
  | .xor => 3#4
  | .min => 4#4
  | .max => 5#4
  | .minu => 6#4
  | .maxu => 7#4
  | .exch => 8#4
  | .incw => 9#4
  | .decw => 10#4
  | .fadd => 11#4

/-- The AtomOp of a code; reserved codes give none (R252, R38). -/
def AtomOp.ofCode (x : BitVec 4) : Option AtomOp :=
  match x.toNat with
  | 0 => some .add
  | 1 => some .and
  | 2 => some .or
  | 3 => some .xor
  | 4 => some .min
  | 5 => some .max
  | 6 => some .minu
  | 7 => some .maxu
  | 8 => some .exch
  | 9 => some .incw
  | 10 => some .decw
  | 11 => some .fadd
  | _ => none

/-- The code of FeOp (R79). -/
def FeOp.code : FeOp → BitVec 2
  | .test => 0#2
  | .set => 1#2
  | .clr => 2#2

/-- The FeOp of a code; reserved codes give none (R79, R38). -/
def FeOp.ofCode (x : BitVec 2) : Option FeOp :=
  match x.toNat with
  | 0 => some .test
  | 1 => some .set
  | 2 => some .clr
  | _ => none

/-- The code of KvRows (R104). -/
def KvRows.code : KvRows → BitVec 2
  | .k => 1#2
  | .v => 2#2
  | .kv => 3#2

/-- The KvRows of a code; reserved codes give none (R104, R38). -/
def KvRows.ofCode (x : BitVec 2) : Option KvRows :=
  match x.toNat with
  | 1 => some .k
  | 2 => some .v
  | 3 => some .kv
  | _ => none

/-- The code of ObjKind (R258). -/
def ObjKind.code : ObjKind → BitVec 4
  | .stack => 0#4
  | .queue => 1#4
  | .freelist => 2#4
  | .cell => 3#4

/-- The ObjKind of a code; reserved codes give none (R258, R38). -/
def ObjKind.ofCode (x : BitVec 4) : Option ObjKind :=
  match x.toNat with
  | 0 => some .stack
  | 1 => some .queue
  | 2 => some .freelist
  | 3 => some .cell
  | _ => none

/-- The code of ObjOp (R258). -/
def ObjOp.code : ObjOp → BitVec 4
  | .push => 0#4
  | .pop => 1#4
  | .enq => 2#4
  | .deq => 3#4
  | .take => 4#4
  | .give => 5#4
  | .fop => 6#4
  | .mcas => 7#4

/-- The ObjOp of a code; reserved codes give none (R258, R38). -/
def ObjOp.ofCode (x : BitVec 4) : Option ObjOp :=
  match x.toNat with
  | 0 => some .push
  | 1 => some .pop
  | 2 => some .enq
  | 3 => some .deq
  | 4 => some .take
  | 5 => some .give
  | 6 => some .fop
  | 7 => some .mcas
  | _ => none

/-- The code of SredOp (R274). -/
def SredOp.code : SredOp → BitVec 4
  | .addN32 => 0#4
  | .addN64 => 1#4
  | .minI => 2#4
  | .maxI => 3#4
  | .minN => 4#4
  | .maxN => 5#4
  | .and => 6#4
  | .or => 7#4
  | .xor => 8#4
  | .fadd => 9#4

/-- The SredOp of a code; reserved codes give none (R274, R38). -/
def SredOp.ofCode (x : BitVec 4) : Option SredOp :=
  match x.toNat with
  | 0 => some .addN32
  | 1 => some .addN64
  | 2 => some .minI
  | 3 => some .maxI
  | 4 => some .minN
  | 5 => some .maxN
  | 6 => some .and
  | 7 => some .or
  | 8 => some .xor
  | 9 => some .fadd
  | _ => none

/-- The code of RowFmt (R206, R208). -/
def RowFmt.code : RowFmt → BitVec 2
  | .f32 => 0#2
  | .bf16 => 1#2
  | .f16 => 2#2

/-- The RowFmt of a code; reserved codes give none (R206, R208, R38). -/
def RowFmt.ofCode (x : BitVec 2) : Option RowFmt :=
  match x.toNat with
  | 0 => some .f32
  | 1 => some .bf16
  | 2 => some .f16
  | _ => none

/-- The code of TrapReg (R353). -/
def TrapReg.code : TrapReg → BitVec 4
  | .cpc => 0#4
  | .apc => 1#4
  | .fpc => 2#4
  | .fcode => 3#4
  | .faddr => 4#4
  | .fmask => 5#4
  | .finfo => 6#4
  | .rqlive => 7#4

/-- The TrapReg of a code; reserved codes give none (R353, R38). -/
def TrapReg.ofCode (x : BitVec 4) : Option TrapReg :=
  match x.toNat with
  | 0 => some .cpc
  | 1 => some .apc
  | 2 => some .fpc
  | 3 => some .fcode
  | 4 => some .faddr
  | 5 => some .fmask
  | 6 => some .finfo
  | 7 => some .rqlive
  | _ => none

/-- The operand code of a special register (R23). -/
def SReg.code : SReg → BitVec 9
  | .exec => 0x190#9
  | .lane => 0x191#9
  | .gidx => 0x192#9
  | .tidx => 0x193#9
  | .tdim => 0x194#9
  | .gdim => 0x195#9
  | .role => 0x196#9
  | .clus => 0x197#9
  | .dieid => 0x198#9
  | .ctxid => 0x199#9
  | .clock => 0x19A#9
  | .retired => 0x19B#9
  | .quantum => 0x19C#9
  | .slip => 0x19D#9
  | .rbase => 0x19E#9
  | .tvec => 0x19F#9
  | .tcmp => 0x1A0#9
  | .seed => 0x1A1#9
  | .fmtb => 0x1A2#9

/-- The special register of an operand code (R23). -/
def SReg.ofCode (x : BitVec 9) : Option SReg :=
  match x.toNat with
  | 0x190 => some .exec
  | 0x191 => some .lane
  | 0x192 => some .gidx
  | 0x193 => some .tidx
  | 0x194 => some .tdim
  | 0x195 => some .gdim
  | 0x196 => some .role
  | 0x197 => some .clus
  | 0x198 => some .dieid
  | 0x199 => some .ctxid
  | 0x19A => some .clock
  | 0x19B => some .retired
  | 0x19C => some .quantum
  | 0x19D => some .slip
  | 0x19E => some .rbase
  | 0x19F => some .tvec
  | 0x1A0 => some .tcmp
  | 0x1A1 => some .seed
  | 0x1A2 => some .fmtb
  | _ => none

/-- The code of an operand (R42). -/
def Operand.code : Operand → BitVec 9
  | .v n => BitVec.ofNat 9 n.toNat
  | .s n => BitVec.ofNat 9 (0x100 + n.toNat)
  | .a n => BitVec.ofNat 9 (0x140 + n.toNat)
  | .q n => BitVec.ofNat 9 (0x180 + n.toNat)
  | .qb => 0x184#9
  | .sr r => r.code
  | .const k => BitVec.ofNat 9 (0x1C0 + k.toNat)
  | .unassigned c => c

/-- The operand of a code (R42). -/
def Operand.ofCode (x : BitVec 9) : Operand :=
  let n := x.toNat
  if n < 0x100 then .v (BitVec.ofNat 8 n)
  else if n < 0x140 then .s (BitVec.ofNat 6 (n - 0x100))
  else if n < 0x180 then .a (BitVec.ofNat 6 (n - 0x140))
  else if n < 0x184 then .q (BitVec.ofNat 2 (n - 0x180))
  else if n = 0x184 then .qb
  else if 0x1C0 ≤ n then .const (BitVec.ofNat 6 (n - 0x1C0))
  else match SReg.ofCode x with
    | some r => .sr r
    | none => .unassigned x

/-- One bit as a truth value. -/
def bitOf (x : BitVec 1) : Bool := x == 1#1

/-- A truth value as one bit. -/
def ofBit (b : Bool) : BitVec 1 := if b then 1#1 else 0#1

/-- The guard of its fields (R36). -/
def guardOf (gp : BitVec 6) (gn : BitVec 1) : Guard := ⟨gp, bitOf gn⟩

/-- The guard and SETF of their fields (R36, R41). -/
def headOf (gp : BitVec 6) (gn : BitVec 1) (sf : BitVec 2) : Option Head :=
  (SetF.ofCode sf).map fun x => ⟨guardOf gp gn, x⟩

/-- ORD and SCOPE of their fields (R41). -/
def ordScopeOf (o : BitVec 2) (sc : BitVec 3) : Option OrdScope :=
  match Ord.ofCode o, Scope.ofCode sc with
  | some x, some y => some ⟨x, y⟩
  | _, _ => none

/-- ACQ, REL and SCOPE of their fields (R40, R41). -/
def acqRelOf (a r : BitVec 1) (sc : BitVec 3) : Option AcqRel :=
  (Scope.ofCode sc).map fun x => ⟨bitOf a, bitOf r, x⟩

/-- FENCE's order from ORD and YOP (R225). -/
def fenceOf (o : BitVec 2) (y : BitVec 4) : Option FenceOrd :=
  match o.toNat, y.toNat with
  | 1, 0 => some .acq
  | 2, 0 => some .rel
  | 3, 0 => some .ar
  | 3, 1 => some .sc
  | _, _ => none

/-- FENCE's ORD code (R225). -/
def FenceOrd.ord : FenceOrd → BitVec 2
  | .acq => 1#2
  | .rel => 2#2
  | .ar => 3#2
  | .sc => 3#2

/-- FENCE's YOP code (R225). -/
def FenceOrd.yop : FenceOrd → BitVec 4
  | .sc => 1#4
  | _ => 0#4

/-- A condition of R38: the field or sub-field holds what it must. -/
def must (b : Bool) : Option Unit := if b then some () else none

/-- The decoded instruction, or ILLEGAL_ENCODING when a field is not one that the chapter accepts (R38). -/
def accept (o : Option Instr) : Except Reject Instr :=
  match o with
  | some i => if i.wf then .ok i else .error .illegalEncoding
  | none => .error .illegalEncoding

/-- The fields of format V (R36, R40). -/
structure FV where
  op : BitVec 10 := 0
  gp : BitVec 6 := 0
  gn : BitVec 1 := 0
  dst : BitVec 9 := 0
  a : BitVec 9 := 0
  b : BitVec 9 := 0
  c : BitVec 9 := 0
  setf : BitVec 2 := 0
  ty : BitVec 4 := 0
  modx : BitVec 5 := 0
  pd : BitVec 6 := 0
  ps : BitVec 6 := 0
  ctl : BitVec 20 := 0
  deriving DecidableEq, Repr

/-- A word of format V from its fields (R36, R40). -/
def FV.pack (f : FV) : BitVec 96 :=
  f.op ++ f.gp ++ f.gn ++ f.dst ++ f.a ++ f.b ++ f.c ++ f.setf ++ f.ty ++ f.modx ++ f.pd ++ f.ps ++ f.ctl

/-- The fields of a word read in format V (R36, R40). -/
def FV.unpack (w : BitVec 96) : FV where
  op := w.extractLsb' 86 10
  gp := w.extractLsb' 80 6
  gn := w.extractLsb' 79 1
  dst := w.extractLsb' 70 9
  a := w.extractLsb' 61 9
  b := w.extractLsb' 52 9
  c := w.extractLsb' 43 9
  setf := w.extractLsb' 41 2
  ty := w.extractLsb' 37 4
  modx := w.extractLsb' 32 5
  pd := w.extractLsb' 26 6
  ps := w.extractLsb' 20 6
  ctl := w.extractLsb' 0 20

/-- The fields of format I (R36, R40). -/
structure FI where
  op : BitVec 10 := 0
  gp : BitVec 6 := 0
  gn : BitVec 1 := 0
  dst : BitVec 9 := 0
  a : BitVec 9 := 0
  px : BitVec 6 := 0
  ctl3 : BitVec 3 := 0
  c : BitVec 9 := 0
  setf : BitVec 2 := 0
  ty : BitVec 4 := 0
  modx : BitVec 5 := 0
  imm : BitVec 32 := 0
  deriving DecidableEq, Repr

/-- A word of format I from its fields (R36, R40). -/
def FI.pack (f : FI) : BitVec 96 :=
  f.op ++ f.gp ++ f.gn ++ f.dst ++ f.a ++ f.px ++ f.ctl3 ++ f.c ++ f.setf ++ f.ty ++ f.modx ++ f.imm

/-- The fields of a word read in format I (R36, R40). -/
def FI.unpack (w : BitVec 96) : FI where
  op := w.extractLsb' 86 10
  gp := w.extractLsb' 80 6
  gn := w.extractLsb' 79 1
  dst := w.extractLsb' 70 9
  a := w.extractLsb' 61 9
  px := w.extractLsb' 55 6
  ctl3 := w.extractLsb' 52 3
  c := w.extractLsb' 43 9
  setf := w.extractLsb' 41 2
  ty := w.extractLsb' 37 4
  modx := w.extractLsb' 32 5
  imm := w.extractLsb' 0 32

/-- The fields of format M (R36, R40). -/
structure FM where
  op : BitVec 10 := 0
  gp : BitVec 6 := 0
  gn : BitVec 1 := 0
  dst : BitVec 9 := 0
  a : BitVec 9 := 0
  b : BitVec 9 := 0
  c : BitVec 9 := 0
  setf : BitVec 2 := 0
  ord : BitVec 2 := 0
  scope : BitVec 3 := 0
  cache : BitVec 2 := 0
  opx : BitVec 2 := 0
  width : BitVec 3 := 0
  fe : BitVec 2 := 0
  px : BitVec 6 := 0
  offset : BitVec 21 := 0
  deriving DecidableEq, Repr

/-- A word of format M from its fields (R36, R40). -/
def FM.pack (f : FM) : BitVec 96 :=
  f.op ++ f.gp ++ f.gn ++ f.dst ++ f.a ++ f.b ++ f.c ++ f.setf ++ f.ord ++ f.scope ++ f.cache ++ f.opx ++ f.width ++ f.fe ++ f.px ++ f.offset

/-- The fields of a word read in format M (R36, R40). -/
def FM.unpack (w : BitVec 96) : FM where
  op := w.extractLsb' 86 10
  gp := w.extractLsb' 80 6
  gn := w.extractLsb' 79 1
  dst := w.extractLsb' 70 9
  a := w.extractLsb' 61 9
  b := w.extractLsb' 52 9
  c := w.extractLsb' 43 9
  setf := w.extractLsb' 41 2
  ord := w.extractLsb' 39 2
  scope := w.extractLsb' 36 3
  cache := w.extractLsb' 34 2
  opx := w.extractLsb' 32 2
  width := w.extractLsb' 29 3
  fe := w.extractLsb' 27 2
  px := w.extractLsb' 21 6
  offset := w.extractLsb' 0 21

/-- The fields of format X (R36, R40). -/
structure FX where
  op : BitVec 10 := 0
  gp : BitVec 6 := 0
  gn : BitVec 1 := 0
  dst : BitVec 9 := 0
  a : BitVec 9 := 0
  b : BitVec 9 := 0
  c : BitVec 9 := 0
  setf : BitVec 2 := 0
  acq : BitVec 1 := 0
  rel : BitVec 1 := 0
  scope : BitVec 3 := 0
  xop : BitVec 4 := 0
  zt : BitVec 5 := 0
  px : BitVec 6 := 0
  xctl : BitVec 21 := 0
  deriving DecidableEq, Repr

/-- A word of format X from its fields (R36, R40). -/
def FX.pack (f : FX) : BitVec 96 :=
  f.op ++ f.gp ++ f.gn ++ f.dst ++ f.a ++ f.b ++ f.c ++ f.setf ++ f.acq ++ f.rel ++ f.scope ++ f.xop ++ f.zt ++ f.px ++ f.xctl

/-- The fields of a word read in format X (R36, R40). -/
def FX.unpack (w : BitVec 96) : FX where
  op := w.extractLsb' 86 10
  gp := w.extractLsb' 80 6
  gn := w.extractLsb' 79 1
  dst := w.extractLsb' 70 9
  a := w.extractLsb' 61 9
  b := w.extractLsb' 52 9
  c := w.extractLsb' 43 9
  setf := w.extractLsb' 41 2
  acq := w.extractLsb' 40 1
  rel := w.extractLsb' 39 1
  scope := w.extractLsb' 36 3
  xop := w.extractLsb' 32 4
  zt := w.extractLsb' 27 5
  px := w.extractLsb' 21 6
  xctl := w.extractLsb' 0 21

/-- The fields of format C (R36, R40). -/
structure FC where
  op : BitVec 10 := 0
  gp : BitVec 6 := 0
  gn : BitVec 1 := 0
  dst : BitVec 9 := 0
  a : BitVec 9 := 0
  b : BitVec 9 := 0
  c : BitVec 9 := 0
  res : BitVec 5 := 0
  rtok : BitVec 6 := 0
  disp : BitVec 32 := 0
  deriving DecidableEq, Repr

/-- A word of format C from its fields (R36, R40). -/
def FC.pack (f : FC) : BitVec 96 :=
  f.op ++ f.gp ++ f.gn ++ f.dst ++ f.a ++ f.b ++ f.c ++ f.res ++ f.rtok ++ f.disp

/-- The fields of a word read in format C (R36, R40). -/
def FC.unpack (w : BitVec 96) : FC where
  op := w.extractLsb' 86 10
  gp := w.extractLsb' 80 6
  gn := w.extractLsb' 79 1
  dst := w.extractLsb' 70 9
  a := w.extractLsb' 61 9
  b := w.extractLsb' 52 9
  c := w.extractLsb' 43 9
  res := w.extractLsb' 38 5
  rtok := w.extractLsb' 32 6
  disp := w.extractLsb' 0 32

/-- The fields of format Y (R36, R40). -/
structure FY where
  op : BitVec 10 := 0
  gp : BitVec 6 := 0
  gn : BitVec 1 := 0
  dst : BitVec 9 := 0
  a : BitVec 9 := 0
  b : BitVec 9 := 0
  c : BitVec 9 := 0
  setf : BitVec 2 := 0
  ord : BitVec 2 := 0
  scope : BitVec 3 := 0
  yop : BitVec 4 := 0
  px : BitVec 6 := 0
  width : BitVec 3 := 0
  yctl : BitVec 23 := 0
  deriving DecidableEq, Repr

/-- A word of format Y from its fields (R36, R40). -/
def FY.pack (f : FY) : BitVec 96 :=
  f.op ++ f.gp ++ f.gn ++ f.dst ++ f.a ++ f.b ++ f.c ++ f.setf ++ f.ord ++ f.scope ++ f.yop ++ f.px ++ f.width ++ f.yctl

/-- The fields of a word read in format Y (R36, R40). -/
def FY.unpack (w : BitVec 96) : FY where
  op := w.extractLsb' 86 10
  gp := w.extractLsb' 80 6
  gn := w.extractLsb' 79 1
  dst := w.extractLsb' 70 9
  a := w.extractLsb' 61 9
  b := w.extractLsb' 52 9
  c := w.extractLsb' 43 9
  setf := w.extractLsb' 41 2
  ord := w.extractLsb' 39 2
  scope := w.extractLsb' 36 3
  yop := w.extractLsb' 32 4
  px := w.extractLsb' 26 6
  width := w.extractLsb' 23 3
  yctl := w.extractLsb' 0 23

/-- The fields of format Z (R36, R40). -/
structure FZ where
  op : BitVec 10 := 0
  gp : BitVec 6 := 0
  gn : BitVec 1 := 0
  dst : BitVec 9 := 0
  a : BitVec 9 := 0
  b : BitVec 9 := 0
  c : BitVec 9 := 0
  setf : BitVec 2 := 0
  zop : BitVec 9 := 0
  zctl : BitVec 32 := 0
  deriving DecidableEq, Repr

/-- A word of format Z from its fields (R36, R40). -/
def FZ.pack (f : FZ) : BitVec 96 :=
  f.op ++ f.gp ++ f.gn ++ f.dst ++ f.a ++ f.b ++ f.c ++ f.setf ++ f.zop ++ f.zctl

/-- The fields of a word read in format Z (R36, R40). -/
def FZ.unpack (w : BitVec 96) : FZ where
  op := w.extractLsb' 86 10
  gp := w.extractLsb' 80 6
  gn := w.extractLsb' 79 1
  dst := w.extractLsb' 70 9
  a := w.extractLsb' 61 9
  b := w.extractLsb' 52 9
  c := w.extractLsb' 43 9
  setf := w.extractLsb' 41 2
  zop := w.extractLsb' 32 9
  zctl := w.extractLsb' 0 32

/-- Decoding in format V: the opcode map's rows of that format (R54) and the fields of their chapters. -/
def decodeV (f : FV) : Except Reject Instr :=
  match f.op.toNat with
  | 0x0 => accept do
      must (f.c == 0 && f.modx == 0 && f.pd == 0 && f.ps == 0 && f.ctl == 0)
      let h ← headOf f.gp f.gn f.setf
      let ty ← Ty.ofCode f.ty
      return .iadd h ty (Operand.ofCode f.dst) (Operand.ofCode f.a) (Operand.ofCode f.b)
  | 0x2 => accept do
      must (f.c == 0 && f.modx == 0 && f.pd == 0 && f.ps == 0 && f.ctl == 0)
      let h ← headOf f.gp f.gn f.setf
      let ty ← Ty.ofCode f.ty
      return .isub h ty (Operand.ofCode f.dst) (Operand.ofCode f.a) (Operand.ofCode f.b)
  | 0x4 => accept do
      must (f.c == 0 && f.ty == 6 && f.modx.extractLsb' 1 4 == 0 && f.ctl == 0)
      let h ← headOf f.gp f.gn f.setf
      return .iaddc h (bitOf (f.modx.extractLsb' 0 1)) (Operand.ofCode f.dst) (Operand.ofCode f.a) (Operand.ofCode f.b) (f.ps) (f.pd)
  | 0x6 => accept do
      must (f.c == 0 && f.modx == 0 && f.pd == 0 && f.ps == 0 && f.ctl == 0)
      let h ← headOf f.gp f.gn f.setf
      let ty ← Ty.ofCode f.ty
      return .iadds h ty (Operand.ofCode f.dst) (Operand.ofCode f.a) (Operand.ofCode f.b)
  | 0x8 => accept do
      must (f.c == 0 && f.modx == 0 && f.pd == 0 && f.ps == 0 && f.ctl == 0)
      let h ← headOf f.gp f.gn f.setf
      let ty ← Ty.ofCode f.ty
      return .isubs h ty (Operand.ofCode f.dst) (Operand.ofCode f.a) (Operand.ofCode f.b)
  | 0xA => accept do
      must (f.c == 0 && f.modx == 0 && f.pd == 0 && f.ps == 0 && f.ctl == 0)
      let h ← headOf f.gp f.gn f.setf
      let ty ← Ty.ofCode f.ty
      return .imul h ty (Operand.ofCode f.dst) (Operand.ofCode f.a) (Operand.ofCode f.b)
  | 0xC => accept do
      must (f.c == 0 && f.modx == 0 && f.pd == 0 && f.ps == 0 && f.ctl == 0)
      let h ← headOf f.gp f.gn f.setf
      let ty ← Ty.ofCode f.ty
      return .imulh h ty (Operand.ofCode f.dst) (Operand.ofCode f.a) (Operand.ofCode f.b)
  | 0xE => accept do
      must (f.modx == 0 && f.pd == 0 && f.ps == 0 && f.ctl == 0)
      let h ← headOf f.gp f.gn f.setf
      let ty ← Ty.ofCode f.ty
      return .imad h ty (Operand.ofCode f.dst) (Operand.ofCode f.a) (Operand.ofCode f.b) (Operand.ofCode f.c)
  | 0x10 => accept do
      must (f.modx == 0 && f.pd == 0 && f.ps == 0 && f.ctl == 0)
      let h ← headOf f.gp f.gn f.setf
      let ty ← Ty.ofCode f.ty
      return .imadw h ty (Operand.ofCode f.dst) (Operand.ofCode f.a) (Operand.ofCode f.b) (Operand.ofCode f.c)
  | 0x12 => accept do
      must (f.c == 0 && f.modx == 0 && f.pd == 0 && f.ps == 0 && f.ctl == 0)
      let h ← headOf f.gp f.gn f.setf
      let ty ← Ty.ofCode f.ty
      return .imin h ty (Operand.ofCode f.dst) (Operand.ofCode f.a) (Operand.ofCode f.b)
  | 0x14 => accept do
      must (f.c == 0 && f.modx == 0 && f.pd == 0 && f.ps == 0 && f.ctl == 0)
      let h ← headOf f.gp f.gn f.setf
      let ty ← Ty.ofCode f.ty
      return .imax h ty (Operand.ofCode f.dst) (Operand.ofCode f.a) (Operand.ofCode f.b)
  | 0x16 => accept do
      must (f.b == 0 && f.c == 0 && f.modx.extractLsb' 2 3 == 0 && f.modx.extractLsb' 0 1 == 0 && f.pd == 0 && f.ps == 0 && f.ctl == 0)
      let h ← headOf f.gp f.gn f.setf
      let ty ← Ty.ofCode f.ty
      return .iabs h ty (bitOf (f.modx.extractLsb' 1 1)) (Operand.ofCode f.dst) (Operand.ofCode f.a)
  | 0x18 => accept do
      must (f.b == 0 && f.c == 0 && f.modx.extractLsb' 2 3 == 0 && f.modx.extractLsb' 0 1 == 0 && f.pd == 0 && f.ps == 0 && f.ctl == 0)
      let h ← headOf f.gp f.gn f.setf
      let ty ← Ty.ofCode f.ty
      return .ineg h ty (bitOf (f.modx.extractLsb' 1 1)) (Operand.ofCode f.dst) (Operand.ofCode f.a)
  | 0x1A => accept do
      must (f.modx.extractLsb' 2 3 == 0 && f.pd == 0 && f.ps == 0 && f.ctl == 0)
      let h ← headOf f.gp f.gn f.setf
      let ty ← Ty.ofCode f.ty
      return .idp4 h ty (bitOf (f.modx.extractLsb' 1 1)) (bitOf (f.modx.extractLsb' 0 1)) (Operand.ofCode f.dst) (Operand.ofCode f.a) (Operand.ofCode f.b) (Operand.ofCode f.c)
  | 0x1C => accept do
      must (f.c == 0 && f.modx == 0 && f.pd == 0 && f.ps == 0 && f.ctl == 0)
      let h ← headOf f.gp f.gn f.setf
      let ty ← Ty.ofCode f.ty
      return .and h ty (Operand.ofCode f.dst) (Operand.ofCode f.a) (Operand.ofCode f.b)
  | 0x1E => accept do
      must (f.c == 0 && f.modx == 0 && f.pd == 0 && f.ps == 0 && f.ctl == 0)
      let h ← headOf f.gp f.gn f.setf
      let ty ← Ty.ofCode f.ty
      return .or h ty (Operand.ofCode f.dst) (Operand.ofCode f.a) (Operand.ofCode f.b)
  | 0x20 => accept do
      must (f.c == 0 && f.modx == 0 && f.pd == 0 && f.ps == 0 && f.ctl == 0)
      let h ← headOf f.gp f.gn f.setf
      let ty ← Ty.ofCode f.ty
      return .xor h ty (Operand.ofCode f.dst) (Operand.ofCode f.a) (Operand.ofCode f.b)
  | 0x22 => accept do
      must (f.c == 0 && f.modx == 0 && f.pd == 0 && f.ps == 0 && f.ctl == 0)
      let h ← headOf f.gp f.gn f.setf
      let ty ← Ty.ofCode f.ty
      return .andn h ty (Operand.ofCode f.dst) (Operand.ofCode f.a) (Operand.ofCode f.b)
  | 0x24 => accept do
      must (f.c == 0 && f.modx == 0 && f.pd == 0 && f.ps == 0 && f.ctl == 0)
      let h ← headOf f.gp f.gn f.setf
      let ty ← Ty.ofCode f.ty
      return .orn h ty (Operand.ofCode f.dst) (Operand.ofCode f.a) (Operand.ofCode f.b)
  | 0x26 => accept do
      must (f.b == 0 && f.c == 0 && f.modx == 0 && f.pd == 0 && f.ps == 0 && f.ctl == 0)
      let h ← headOf f.gp f.gn f.setf
      let ty ← Ty.ofCode f.ty
      return .not h ty (Operand.ofCode f.dst) (Operand.ofCode f.a)
  | 0x28 => accept do
      must (f.modx == 0 && f.pd == 0 && f.ps == 0 && f.ctl.extractLsb' 8 12 == 0)
      let h ← headOf f.gp f.gn f.setf
      let ty ← Ty.ofCode f.ty
      return .lop3 h ty (Operand.ofCode f.dst) (Operand.ofCode f.a) (Operand.ofCode f.b) (Operand.ofCode f.c) ((f.ctl.extractLsb' 0 8))
  | 0x2A => accept do
      must (f.c == 0 && f.modx == 0 && f.pd == 0 && f.ps == 0 && f.ctl == 0)
      let h ← headOf f.gp f.gn f.setf
      let ty ← Ty.ofCode f.ty
      return .shl h ty (Operand.ofCode f.dst) (Operand.ofCode f.a) (Operand.ofCode f.b)
  | 0x2C => accept do
      must (f.c == 0 && f.modx == 0 && f.pd == 0 && f.ps == 0 && f.ctl == 0)
      let h ← headOf f.gp f.gn f.setf
      let ty ← Ty.ofCode f.ty
      return .shr h ty (Operand.ofCode f.dst) (Operand.ofCode f.a) (Operand.ofCode f.b)
  | 0x2E => accept do
      must (f.c == 0 && f.modx == 0 && f.pd == 0 && f.ps == 0 && f.ctl == 0)
      let h ← headOf f.gp f.gn f.setf
      let ty ← Ty.ofCode f.ty
      return .sar h ty (Operand.ofCode f.dst) (Operand.ofCode f.a) (Operand.ofCode f.b)
  | 0x30 => accept do
      must (f.c == 0 && f.modx == 0 && f.pd == 0 && f.ps == 0 && f.ctl == 0)
      let h ← headOf f.gp f.gn f.setf
      let ty ← Ty.ofCode f.ty
      return .rotl h ty (Operand.ofCode f.dst) (Operand.ofCode f.a) (Operand.ofCode f.b)
  | 0x32 => accept do
      must (f.ty == 13 && f.modx == 0 && f.pd == 0 && f.ps == 0 && f.ctl == 0)
      let h ← headOf f.gp f.gn f.setf
      return .fshl h (Operand.ofCode f.dst) (Operand.ofCode f.a) (Operand.ofCode f.b) (Operand.ofCode f.c)
  | 0x34 => accept do
      must (f.c == 0 && f.modx == 0 && f.pd == 0 && f.ps == 0 && f.ctl == 0)
      let h ← headOf f.gp f.gn f.setf
      let ty ← Ty.ofCode f.ty
      return .bfx h ty (Operand.ofCode f.dst) (Operand.ofCode f.a) (Operand.ofCode f.b)
  | 0x36 => accept do
      must (f.ty == 13 && f.modx == 0 && f.pd == 0 && f.ps == 0 && f.ctl == 0)
      let h ← headOf f.gp f.gn f.setf
      return .bfi h (Operand.ofCode f.dst) (Operand.ofCode f.a) (Operand.ofCode f.b) (Operand.ofCode f.c)
  | 0x38 => accept do
      must (f.b == 0 && f.c == 0 && f.modx == 0 && f.pd == 0 && f.ps == 0 && f.ctl == 0)
      let h ← headOf f.gp f.gn f.setf
      let ty ← Ty.ofCode f.ty
      return .popc h ty (Operand.ofCode f.dst) (Operand.ofCode f.a)
  | 0x3A => accept do
      must (f.b == 0 && f.c == 0 && f.modx == 0 && f.pd == 0 && f.ps == 0 && f.ctl == 0)
      let h ← headOf f.gp f.gn f.setf
      let ty ← Ty.ofCode f.ty
      return .clz h ty (Operand.ofCode f.dst) (Operand.ofCode f.a)
  | 0x3C => accept do
      must (f.b == 0 && f.c == 0 && f.modx == 0 && f.pd == 0 && f.ps == 0 && f.ctl == 0)
      let h ← headOf f.gp f.gn f.setf
      let ty ← Ty.ofCode f.ty
      return .ctz h ty (Operand.ofCode f.dst) (Operand.ofCode f.a)
  | 0x3E => accept do
      must (f.b == 0 && f.c == 0 && f.modx == 0 && f.pd == 0 && f.ps == 0 && f.ctl == 0)
      let h ← headOf f.gp f.gn f.setf
      let ty ← Ty.ofCode f.ty
      return .brev h ty (Operand.ofCode f.dst) (Operand.ofCode f.a)
  | 0x40 => accept do
      must (f.ty == 13 && f.modx == 0 && f.pd == 0 && f.ps == 0 && f.ctl == 0)
      let h ← headOf f.gp f.gn f.setf
      return .bytep h (Operand.ofCode f.dst) (Operand.ofCode f.a) (Operand.ofCode f.b) (Operand.ofCode f.c)
  | 0x42 => accept do
      must (f.c == 0 && f.modx == 0 && f.ctl.extractLsb' 5 15 == 0)
      let h ← headOf f.gp f.gn f.setf
      let ty ← Ty.ofCode f.ty
      let cmp ← CmpOp.ofCode (f.ctl.extractLsb' 0 3)
      let comb ← Combine.ofCode (f.ctl.extractLsb' 3 2)
      return .iset h ty cmp comb (f.pd) (f.ps) (Operand.ofCode f.dst) (Operand.ofCode f.a) (Operand.ofCode f.b)
  | 0x44 => accept do
      must (f.modx == 0 && f.pd == 0 && f.ctl == 0)
      let h ← headOf f.gp f.gn f.setf
      let ty ← Ty.ofCode f.ty
      return .sel h ty (Operand.ofCode f.dst) (Operand.ofCode f.a) (Operand.ofCode f.b) (Operand.ofCode f.c) (f.ps)
  | 0x46 => accept do
      must (f.b == 0 && f.c == 0 && f.modx == 0 && f.pd == 0 && f.ps == 0 && f.ctl == 0)
      let h ← headOf f.gp f.gn f.setf
      let ty ← Ty.ofCode f.ty
      return .mov h ty (Operand.ofCode f.dst) (Operand.ofCode f.a)
  | 0x4A => accept do
      must (f.c == 0 && f.modx == 0 && f.pd == 0 && f.ps == 0 && f.ctl.extractLsb' 3 17 == 0)
      let h ← headOf f.gp f.gn f.setf
      let ty ← Ty.ofCode f.ty
      return .lea h ty (Operand.ofCode f.dst) (Operand.ofCode f.a) (Operand.ofCode f.b) ((f.ctl.extractLsb' 0 3))
  | 0x80 => accept do
      must (f.c == 0 && f.modx.extractLsb' 2 1 == 0 && f.modx.extractLsb' 0 1 == 0 && f.pd == 0 && f.ps == 0 && f.ctl == 0)
      let h ← headOf f.gp f.gn f.setf
      let ty ← Ty.ofCode f.ty
      let rnd ← Rnd.ofCode (f.modx.extractLsb' 3 2)
      return .fadd h ty rnd (bitOf (f.modx.extractLsb' 1 1)) (Operand.ofCode f.dst) (Operand.ofCode f.a) (Operand.ofCode f.b)
  | 0x82 => accept do
      must (f.c == 0 && f.modx.extractLsb' 2 1 == 0 && f.modx.extractLsb' 0 1 == 0 && f.pd == 0 && f.ps == 0 && f.ctl == 0)
      let h ← headOf f.gp f.gn f.setf
      let ty ← Ty.ofCode f.ty
      let rnd ← Rnd.ofCode (f.modx.extractLsb' 3 2)
      return .fsub h ty rnd (bitOf (f.modx.extractLsb' 1 1)) (Operand.ofCode f.dst) (Operand.ofCode f.a) (Operand.ofCode f.b)
  | 0x84 => accept do
      must (f.c == 0 && f.modx.extractLsb' 2 1 == 0 && f.modx.extractLsb' 0 1 == 0 && f.pd == 0 && f.ps == 0 && f.ctl == 0)
      let h ← headOf f.gp f.gn f.setf
      let ty ← Ty.ofCode f.ty
      let rnd ← Rnd.ofCode (f.modx.extractLsb' 3 2)
      return .fmul h ty rnd (bitOf (f.modx.extractLsb' 1 1)) (Operand.ofCode f.dst) (Operand.ofCode f.a) (Operand.ofCode f.b)
  | 0x86 => accept do
      must (f.modx.extractLsb' 2 1 == 0 && f.modx.extractLsb' 0 1 == 0 && f.pd == 0 && f.ps == 0 && f.ctl == 0)
      let h ← headOf f.gp f.gn f.setf
      let ty ← Ty.ofCode f.ty
      let rnd ← Rnd.ofCode (f.modx.extractLsb' 3 2)
      return .ffma h ty rnd (bitOf (f.modx.extractLsb' 1 1)) (Operand.ofCode f.dst) (Operand.ofCode f.a) (Operand.ofCode f.b) (Operand.ofCode f.c)
  | 0x88 => accept do
      must (f.c == 0 && f.modx == 0 && f.pd == 0 && f.ps == 0 && f.ctl == 0)
      let h ← headOf f.gp f.gn f.setf
      let ty ← Ty.ofCode f.ty
      return .fmin h ty (Operand.ofCode f.dst) (Operand.ofCode f.a) (Operand.ofCode f.b)
  | 0x8A => accept do
      must (f.c == 0 && f.modx == 0 && f.pd == 0 && f.ps == 0 && f.ctl == 0)
      let h ← headOf f.gp f.gn f.setf
      let ty ← Ty.ofCode f.ty
      return .fmax h ty (Operand.ofCode f.dst) (Operand.ofCode f.a) (Operand.ofCode f.b)
  | 0x8C => accept do
      must (f.c == 0 && f.modx == 0 && f.pd == 0 && f.ps == 0 && f.ctl == 0)
      let h ← headOf f.gp f.gn f.setf
      let ty ← Ty.ofCode f.ty
      return .fminm h ty (Operand.ofCode f.dst) (Operand.ofCode f.a) (Operand.ofCode f.b)
  | 0x8E => accept do
      must (f.c == 0 && f.modx == 0 && f.pd == 0 && f.ps == 0 && f.ctl == 0)
      let h ← headOf f.gp f.gn f.setf
      let ty ← Ty.ofCode f.ty
      return .fmaxm h ty (Operand.ofCode f.dst) (Operand.ofCode f.a) (Operand.ofCode f.b)
  | 0x90 => accept do
      must (f.dst == 0 && f.c == 0 && f.ty == 8 && f.modx == 0 && f.ctl.extractLsb' 5 15 == 0)
      let h ← headOf f.gp f.gn f.setf
      let cmp ← CmpOp.ofCode (f.ctl.extractLsb' 0 3)
      let comb ← Combine.ofCode (f.ctl.extractLsb' 3 2)
      return .fset h cmp comb (f.pd) (f.ps) (Operand.ofCode f.a) (Operand.ofCode f.b)
  | 0x92 => accept do
      must (f.b == 0 && f.c == 0 && f.ty == 8 && f.modx == 0 && f.pd == 0 && f.ps == 0 && f.ctl == 0)
      let h ← headOf f.gp f.gn f.setf
      return .fclass h (Operand.ofCode f.dst) (Operand.ofCode f.a)
  | 0x94 => accept do
      must (f.b == 0 && f.c == 0 && f.ty == 8 && f.modx.extractLsb' 0 3 == 0 && f.pd == 0 && f.ps == 0 && f.ctl == 0)
      let h ← headOf f.gp f.gn f.setf
      let rnd ← Rnd.ofCode (f.modx.extractLsb' 3 2)
      return .frnd h rnd (Operand.ofCode f.dst) (Operand.ofCode f.a)
  | 0x96 => accept do
      must (f.b == 0 && f.c == 0 && f.ty == 8 && f.modx == 0 && f.pd == 0 && f.ps == 0 && f.ctl == 0)
      let h ← headOf f.gp f.gn f.setf
      return .ffrac h (Operand.ofCode f.dst) (Operand.ofCode f.a)
  | 0x98 => accept do
      must (f.c == 0 && f.ty == 8 && f.modx.extractLsb' 2 1 == 0 && f.modx.extractLsb' 0 1 == 0 && f.pd == 0 && f.ps == 0 && f.ctl == 0)
      let h ← headOf f.gp f.gn f.setf
      let rnd ← Rnd.ofCode (f.modx.extractLsb' 3 2)
      return .fscale h rnd (bitOf (f.modx.extractLsb' 1 1)) (Operand.ofCode f.dst) (Operand.ofCode f.a) (Operand.ofCode f.b)
  | 0x9A => accept do
      must (f.b == 0 && f.c == 0 && f.ty == 8 && f.modx == 0 && f.pd == 0 && f.ps == 0 && f.ctl == 0)
      let h ← headOf f.gp f.gn f.setf
      return .fgetexp h (Operand.ofCode f.dst) (Operand.ofCode f.a)
  | 0x100 => accept do
      must (f.b == 0 && f.c == 0 && f.ty == 8 && f.modx.extractLsb' 0 3 == 0 && f.pd == 0 && f.ps == 0 && f.ctl == 0)
      let h ← headOf f.gp f.gn f.setf
      let rnd ← Rnd.ofCode (f.modx.extractLsb' 3 2)
      return .frcp h rnd (Operand.ofCode f.dst) (Operand.ofCode f.a)
  | 0x102 => accept do
      must (f.b == 0 && f.c == 0 && f.ty == 8 && f.modx == 0 && f.pd == 0 && f.ps == 0 && f.ctl == 0)
      let h ← headOf f.gp f.gn f.setf
      return .frsq h (Operand.ofCode f.dst) (Operand.ofCode f.a)
  | 0x104 => accept do
      must (f.b == 0 && f.c == 0 && f.ty == 8 && f.modx.extractLsb' 0 3 == 0 && f.pd == 0 && f.ps == 0 && f.ctl == 0)
      let h ← headOf f.gp f.gn f.setf
      let rnd ← Rnd.ofCode (f.modx.extractLsb' 3 2)
      return .fsqrt h rnd (Operand.ofCode f.dst) (Operand.ofCode f.a)
  | 0x106 => accept do
      must (f.b == 0 && f.c == 0 && f.ty == 8 && f.modx == 0 && f.pd == 0 && f.ps == 0 && f.ctl == 0)
      let h ← headOf f.gp f.gn f.setf
      return .fexp2 h (Operand.ofCode f.dst) (Operand.ofCode f.a)
  | 0x108 => accept do
      must (f.b == 0 && f.c == 0 && f.ty == 8 && f.modx == 0 && f.pd == 0 && f.ps == 0 && f.ctl == 0)
      let h ← headOf f.gp f.gn f.setf
      return .flog2 h (Operand.ofCode f.dst) (Operand.ofCode f.a)
  | 0x10A => accept do
      must (f.b == 0 && f.c == 0 && f.ty == 8 && f.modx == 0 && f.pd == 0 && f.ps == 0 && f.ctl == 0)
      let h ← headOf f.gp f.gn f.setf
      return .fsin h (Operand.ofCode f.dst) (Operand.ofCode f.a)
  | 0x10C => accept do
      must (f.b == 0 && f.c == 0 && f.ty == 8 && f.modx == 0 && f.pd == 0 && f.ps == 0 && f.ctl == 0)
      let h ← headOf f.gp f.gn f.setf
      return .fcos h (Operand.ofCode f.dst) (Operand.ofCode f.a)
  | 0x10E => accept do
      must (f.b == 0 && f.c == 0 && f.ty == 8 && f.modx == 0 && f.pd == 0 && f.ps == 0 && f.ctl == 0)
      let h ← headOf f.gp f.gn f.setf
      return .ftanh h (Operand.ofCode f.dst) (Operand.ofCode f.a)
  | 0x110 => accept do
      must (f.b == 0 && f.c == 0 && f.ty == 8 && f.modx == 0 && f.pd == 0 && f.ps == 0 && f.ctl == 0)
      let h ← headOf f.gp f.gn f.setf
      return .fsigm h (Operand.ofCode f.dst) (Operand.ofCode f.a)
  | 0x112 => accept do
      must (f.b == 0 && f.c == 0 && f.modx.extractLsb' 0 1 == 0 && f.pd == 0 && f.ps == 0 && f.ctl.extractLsb' 8 12 == 0)
      let h ← headOf f.gp f.gn f.setf
      let ty ← Ty.ofCode f.ty
      let sty ← Ty.ofCode (f.ctl.extractLsb' 0 4)
      let rnd ← Rnd.ofCode (f.modx.extractLsb' 3 2)
      return .fcvt h ty sty rnd (bitOf (f.modx.extractLsb' 2 1)) (bitOf (f.modx.extractLsb' 1 1)) ((f.ctl.extractLsb' 4 2)) ((f.ctl.extractLsb' 6 2)) (Operand.ofCode f.dst) (Operand.ofCode f.a)
  | 0x114 => accept do
      must (f.b == 0 && f.c == 0 && f.modx.extractLsb' 2 3 == 0 && f.modx.extractLsb' 0 1 == 0 && f.pd == 0 && f.ps == 0 && f.ctl.extractLsb' 4 16 == 0)
      let h ← headOf f.gp f.gn f.setf
      let ty ← Ty.ofCode f.ty
      let sty ← Ty.ofCode (f.ctl.extractLsb' 0 4)
      return .icvt h ty sty (bitOf (f.modx.extractLsb' 1 1)) (Operand.ofCode f.dst) (Operand.ofCode f.a)
  | 0x116 => accept do
      must (f.dst == 0 && f.a == 0 && f.b == 0 && f.c == 0 && f.ty == 13 && f.modx == 0)
      let h ← headOf f.gp f.gn f.setf
      return .plop h (f.pd) (f.ps) ((f.ctl.extractLsb' 0 6)) ((f.ctl.extractLsb' 6 6)) ((f.ctl.extractLsb' 12 8))
  | 0x118 => accept do
      must (f.a == 0 && f.b == 0 && f.c == 0 && f.ty == 13 && f.modx == 0 && f.pd == 0 && f.ps == 0 && f.ctl.extractLsb' 11 9 == 0)
      let h ← headOf f.gp f.gn f.setf
      return .pmovv h (Operand.ofCode f.dst) ((f.ctl.extractLsb' 0 6)) ((f.ctl.extractLsb' 6 5))
  | 0x11A => accept do
      must (f.dst == 0 && f.b == 0 && f.c == 0 && f.ty == 13 && f.modx == 0 && f.pd == 0 && f.ps == 0 && f.ctl.extractLsb' 11 9 == 0)
      let h ← headOf f.gp f.gn f.setf
      return .vmovp h (Operand.ofCode f.a) ((f.ctl.extractLsb' 0 6)) ((f.ctl.extractLsb' 6 5))
  | 0x11C => accept do
      must (f.a == 0 && f.b == 0 && f.c == 0 && f.ty == 13 && f.modx == 0 && f.ctl.extractLsb' 9 11 == 0)
      let h ← headOf f.gp f.gn f.setf
      let mode ← VoteMode.ofCode (f.ctl.extractLsb' 0 2)
      return .vote h mode ((f.ctl.extractLsb' 2 6)) (bitOf (f.ctl.extractLsb' 8 1)) (Operand.ofCode f.dst) (f.pd) (f.ps)
  | 0x11E => accept do
      must (f.c == 0 && f.ty == 13 && f.modx == 0 && f.ps == 0 && f.ctl.extractLsb' 5 15 == 0)
      let h ← headOf f.gp f.gn f.setf
      let mode ← ShflMode.ofCode (f.ctl.extractLsb' 0 2)
      return .shfl h mode ((f.ctl.extractLsb' 2 3)) (Operand.ofCode f.dst) (Operand.ofCode f.a) (Operand.ofCode f.b) (f.pd)
  | 0x120 => accept do
      must (f.b == 0 && f.c == 0 && f.modx == 0 && f.pd == 0 && f.ps == 0 && f.ctl.extractLsb' 4 16 == 0)
      let h ← headOf f.gp f.gn f.setf
      let ty ← Ty.ofCode f.ty
      let op ← RedOp.ofCode (f.ctl.extractLsb' 0 4)
      return .lred h ty op (Operand.ofCode f.dst) (Operand.ofCode f.a)
  | 0x122 => accept do
      must (f.b == 0 && f.c == 0 && f.modx == 0 && f.pd == 0 && f.ps == 0 && f.ctl.extractLsb' 5 15 == 0)
      let h ← headOf f.gp f.gn f.setf
      let ty ← Ty.ofCode f.ty
      let op ← RedOp.ofCode (f.ctl.extractLsb' 0 4)
      return .lscan h ty op (bitOf (f.ctl.extractLsb' 4 1)) (Operand.ofCode f.dst) (Operand.ofCode f.a)
  | 0x124 => accept do
      must (f.c == 0 && f.modx == 0 && f.pd == 0 && f.ps == 0 && f.ctl == 0)
      let h ← headOf f.gp f.gn f.setf
      let ty ← Ty.ofCode f.ty
      return .lbcast h ty (Operand.ofCode f.dst) (Operand.ofCode f.a) (Operand.ofCode f.b)
  | 0x126 => accept do
      must (f.b == 0 && f.c == 0 && f.modx == 0 && f.pd == 0 && f.ps == 0 && f.ctl == 0)
      let h ← headOf f.gp f.gn f.setf
      let ty ← Ty.ofCode f.ty
      return .lfirst h ty (Operand.ofCode f.dst) (Operand.ofCode f.a)
  | _ => .error .illegalOpcode

/-- Decoding in format I: the opcode map's rows of that format (R54) and the fields of their chapters. -/
def decodeI (f : FI) : Except Reject Instr :=
  match f.op.toNat with
  | 0x1 => accept do
      must (f.px == 0 && f.ctl3 == 0 && f.c == 0 && f.modx == 0)
      let h ← headOf f.gp f.gn f.setf
      let ty ← Ty.ofCode f.ty
      return .iaddI h ty (Operand.ofCode f.dst) (Operand.ofCode f.a) (f.imm)
  | 0x3 => accept do
      must (f.px == 0 && f.ctl3 == 0 && f.c == 0 && f.modx == 0)
      let h ← headOf f.gp f.gn f.setf
      let ty ← Ty.ofCode f.ty
      return .isubI h ty (Operand.ofCode f.dst) (Operand.ofCode f.a) (f.imm)
  | 0x7 => accept do
      must (f.px == 0 && f.ctl3 == 0 && f.c == 0 && f.modx == 0)
      let h ← headOf f.gp f.gn f.setf
      let ty ← Ty.ofCode f.ty
      return .iaddsI h ty (Operand.ofCode f.dst) (Operand.ofCode f.a) (f.imm)
  | 0x9 => accept do
      must (f.px == 0 && f.ctl3 == 0 && f.c == 0 && f.modx == 0)
      let h ← headOf f.gp f.gn f.setf
      let ty ← Ty.ofCode f.ty
      return .isubsI h ty (Operand.ofCode f.dst) (Operand.ofCode f.a) (f.imm)
  | 0xB => accept do
      must (f.px == 0 && f.ctl3 == 0 && f.c == 0 && f.modx == 0)
      let h ← headOf f.gp f.gn f.setf
      let ty ← Ty.ofCode f.ty
      return .imulI h ty (Operand.ofCode f.dst) (Operand.ofCode f.a) (f.imm)
  | 0xD => accept do
      must (f.px == 0 && f.ctl3 == 0 && f.c == 0 && f.modx == 0)
      let h ← headOf f.gp f.gn f.setf
      let ty ← Ty.ofCode f.ty
      return .imulhI h ty (Operand.ofCode f.dst) (Operand.ofCode f.a) (f.imm)
  | 0xF => accept do
      must (f.px == 0 && f.ctl3 == 0 && f.modx == 0)
      let h ← headOf f.gp f.gn f.setf
      let ty ← Ty.ofCode f.ty
      return .imadI h ty (Operand.ofCode f.dst) (Operand.ofCode f.a) (f.imm) (Operand.ofCode f.c)
  | 0x11 => accept do
      must (f.px == 0 && f.ctl3 == 0 && f.modx == 0)
      let h ← headOf f.gp f.gn f.setf
      let ty ← Ty.ofCode f.ty
      return .imadwI h ty (Operand.ofCode f.dst) (Operand.ofCode f.a) (f.imm) (Operand.ofCode f.c)
  | 0x13 => accept do
      must (f.px == 0 && f.ctl3 == 0 && f.c == 0 && f.modx == 0)
      let h ← headOf f.gp f.gn f.setf
      let ty ← Ty.ofCode f.ty
      return .iminI h ty (Operand.ofCode f.dst) (Operand.ofCode f.a) (f.imm)
  | 0x15 => accept do
      must (f.px == 0 && f.ctl3 == 0 && f.c == 0 && f.modx == 0)
      let h ← headOf f.gp f.gn f.setf
      let ty ← Ty.ofCode f.ty
      return .imaxI h ty (Operand.ofCode f.dst) (Operand.ofCode f.a) (f.imm)
  | 0x1B => accept do
      must (f.px == 0 && f.ctl3 == 0 && f.modx.extractLsb' 2 3 == 0)
      let h ← headOf f.gp f.gn f.setf
      let ty ← Ty.ofCode f.ty
      return .idp4I h ty (bitOf (f.modx.extractLsb' 1 1)) (bitOf (f.modx.extractLsb' 0 1)) (Operand.ofCode f.dst) (Operand.ofCode f.a) (f.imm) (Operand.ofCode f.c)
  | 0x1D => accept do
      must (f.px == 0 && f.ctl3 == 0 && f.c == 0 && f.modx == 0)
      let h ← headOf f.gp f.gn f.setf
      let ty ← Ty.ofCode f.ty
      return .andI h ty (Operand.ofCode f.dst) (Operand.ofCode f.a) (f.imm)
  | 0x1F => accept do
      must (f.px == 0 && f.ctl3 == 0 && f.c == 0 && f.modx == 0)
      let h ← headOf f.gp f.gn f.setf
      let ty ← Ty.ofCode f.ty
      return .orI h ty (Operand.ofCode f.dst) (Operand.ofCode f.a) (f.imm)
  | 0x21 => accept do
      must (f.px == 0 && f.ctl3 == 0 && f.c == 0 && f.modx == 0)
      let h ← headOf f.gp f.gn f.setf
      let ty ← Ty.ofCode f.ty
      return .xorI h ty (Operand.ofCode f.dst) (Operand.ofCode f.a) (f.imm)
  | 0x23 => accept do
      must (f.px == 0 && f.ctl3 == 0 && f.c == 0 && f.modx == 0)
      let h ← headOf f.gp f.gn f.setf
      let ty ← Ty.ofCode f.ty
      return .andnI h ty (Operand.ofCode f.dst) (Operand.ofCode f.a) (f.imm)
  | 0x25 => accept do
      must (f.px == 0 && f.ctl3 == 0 && f.c == 0 && f.modx == 0)
      let h ← headOf f.gp f.gn f.setf
      let ty ← Ty.ofCode f.ty
      return .ornI h ty (Operand.ofCode f.dst) (Operand.ofCode f.a) (f.imm)
  | 0x2B => accept do
      must (f.px == 0 && f.ctl3 == 0 && f.c == 0 && f.modx == 0)
      let h ← headOf f.gp f.gn f.setf
      let ty ← Ty.ofCode f.ty
      return .shlI h ty (Operand.ofCode f.dst) (Operand.ofCode f.a) (f.imm)
  | 0x2D => accept do
      must (f.px == 0 && f.ctl3 == 0 && f.c == 0 && f.modx == 0)
      let h ← headOf f.gp f.gn f.setf
      let ty ← Ty.ofCode f.ty
      return .shrI h ty (Operand.ofCode f.dst) (Operand.ofCode f.a) (f.imm)
  | 0x2F => accept do
      must (f.px == 0 && f.ctl3 == 0 && f.c == 0 && f.modx == 0)
      let h ← headOf f.gp f.gn f.setf
      let ty ← Ty.ofCode f.ty
      return .sarI h ty (Operand.ofCode f.dst) (Operand.ofCode f.a) (f.imm)
  | 0x31 => accept do
      must (f.px == 0 && f.ctl3 == 0 && f.c == 0 && f.modx == 0)
      let h ← headOf f.gp f.gn f.setf
      let ty ← Ty.ofCode f.ty
      return .rotlI h ty (Operand.ofCode f.dst) (Operand.ofCode f.a) (f.imm)
  | 0x33 => accept do
      must (f.px == 0 && f.ctl3 == 0 && f.ty == 13 && f.modx == 0)
      let h ← headOf f.gp f.gn f.setf
      return .fshlI h (Operand.ofCode f.dst) (Operand.ofCode f.a) (f.imm) (Operand.ofCode f.c)
  | 0x35 => accept do
      must (f.px == 0 && f.ctl3 == 0 && f.c == 0 && f.modx == 0)
      let h ← headOf f.gp f.gn f.setf
      let ty ← Ty.ofCode f.ty
      return .bfxI h ty (Operand.ofCode f.dst) (Operand.ofCode f.a) (f.imm)
  | 0x37 => accept do
      must (f.px == 0 && f.ctl3 == 0 && f.ty == 13 && f.modx == 0)
      let h ← headOf f.gp f.gn f.setf
      return .bfiI h (Operand.ofCode f.dst) (Operand.ofCode f.a) (f.imm) (Operand.ofCode f.c)
  | 0x41 => accept do
      must (f.px == 0 && f.ctl3 == 0 && f.ty == 13 && f.modx == 0)
      let h ← headOf f.gp f.gn f.setf
      return .bytepI h (Operand.ofCode f.dst) (Operand.ofCode f.a) (f.imm) (Operand.ofCode f.c)
  | 0x43 => accept do
      must (f.c == 0 && f.modx == 0)
      let h ← headOf f.gp f.gn f.setf
      let ty ← Ty.ofCode f.ty
      let cmp ← CmpOp.ofCode f.ctl3
      return .isetI h ty cmp (f.px) (Operand.ofCode f.dst) (Operand.ofCode f.a) (f.imm)
  | 0x45 => accept do
      must (f.ctl3 == 0 && f.modx == 0)
      let h ← headOf f.gp f.gn f.setf
      let ty ← Ty.ofCode f.ty
      return .selI h ty (Operand.ofCode f.dst) (Operand.ofCode f.a) (f.imm) (Operand.ofCode f.c) (f.px)
  | 0x49 => accept do
      must (f.a == 0 && f.px == 0 && f.ctl3 == 0 && f.c == 0 && f.modx == 0)
      let h ← headOf f.gp f.gn f.setf
      let ty ← Ty.ofCode f.ty
      return .movi h ty (Operand.ofCode f.dst) (f.imm)
  | 0x4B => accept do
      must (f.px == 0 && f.c == 0 && f.modx == 0)
      let h ← headOf f.gp f.gn f.setf
      let ty ← Ty.ofCode f.ty
      return .leaI h ty (Operand.ofCode f.dst) (Operand.ofCode f.a) (f.imm) (f.ctl3)
  | 0x81 => accept do
      must (f.px == 0 && f.ctl3 == 0 && f.c == 0 && f.modx.extractLsb' 2 1 == 0 && f.modx.extractLsb' 0 1 == 0)
      let h ← headOf f.gp f.gn f.setf
      let ty ← Ty.ofCode f.ty
      let rnd ← Rnd.ofCode (f.modx.extractLsb' 3 2)
      return .faddI h ty rnd (bitOf (f.modx.extractLsb' 1 1)) (Operand.ofCode f.dst) (Operand.ofCode f.a) (f.imm)
  | 0x83 => accept do
      must (f.px == 0 && f.ctl3 == 0 && f.c == 0 && f.modx.extractLsb' 2 1 == 0 && f.modx.extractLsb' 0 1 == 0)
      let h ← headOf f.gp f.gn f.setf
      let ty ← Ty.ofCode f.ty
      let rnd ← Rnd.ofCode (f.modx.extractLsb' 3 2)
      return .fsubI h ty rnd (bitOf (f.modx.extractLsb' 1 1)) (Operand.ofCode f.dst) (Operand.ofCode f.a) (f.imm)
  | 0x85 => accept do
      must (f.px == 0 && f.ctl3 == 0 && f.c == 0 && f.modx.extractLsb' 2 1 == 0 && f.modx.extractLsb' 0 1 == 0)
      let h ← headOf f.gp f.gn f.setf
      let ty ← Ty.ofCode f.ty
      let rnd ← Rnd.ofCode (f.modx.extractLsb' 3 2)
      return .fmulI h ty rnd (bitOf (f.modx.extractLsb' 1 1)) (Operand.ofCode f.dst) (Operand.ofCode f.a) (f.imm)
  | 0x87 => accept do
      must (f.px == 0 && f.ctl3 == 0 && f.modx.extractLsb' 2 1 == 0 && f.modx.extractLsb' 0 1 == 0)
      let h ← headOf f.gp f.gn f.setf
      let ty ← Ty.ofCode f.ty
      let rnd ← Rnd.ofCode (f.modx.extractLsb' 3 2)
      return .ffmaI h ty rnd (bitOf (f.modx.extractLsb' 1 1)) (Operand.ofCode f.dst) (Operand.ofCode f.a) (f.imm) (Operand.ofCode f.c)
  | 0x89 => accept do
      must (f.px == 0 && f.ctl3 == 0 && f.c == 0 && f.modx == 0)
      let h ← headOf f.gp f.gn f.setf
      let ty ← Ty.ofCode f.ty
      return .fminI h ty (Operand.ofCode f.dst) (Operand.ofCode f.a) (f.imm)
  | 0x8B => accept do
      must (f.px == 0 && f.ctl3 == 0 && f.c == 0 && f.modx == 0)
      let h ← headOf f.gp f.gn f.setf
      let ty ← Ty.ofCode f.ty
      return .fmaxI h ty (Operand.ofCode f.dst) (Operand.ofCode f.a) (f.imm)
  | 0x8D => accept do
      must (f.px == 0 && f.ctl3 == 0 && f.c == 0 && f.modx == 0)
      let h ← headOf f.gp f.gn f.setf
      let ty ← Ty.ofCode f.ty
      return .fminmI h ty (Operand.ofCode f.dst) (Operand.ofCode f.a) (f.imm)
  | 0x8F => accept do
      must (f.px == 0 && f.ctl3 == 0 && f.c == 0 && f.modx == 0)
      let h ← headOf f.gp f.gn f.setf
      let ty ← Ty.ofCode f.ty
      return .fmaxmI h ty (Operand.ofCode f.dst) (Operand.ofCode f.a) (f.imm)
  | 0x91 => accept do
      must (f.dst == 0 && f.c == 0 && f.ty == 8 && f.modx == 0)
      let h ← headOf f.gp f.gn f.setf
      let cmp ← CmpOp.ofCode f.ctl3
      return .fsetI h cmp (f.px) (Operand.ofCode f.a) (f.imm)
  | 0x99 => accept do
      must (f.px == 0 && f.ctl3 == 0 && f.c == 0 && f.ty == 8 && f.modx.extractLsb' 2 1 == 0 && f.modx.extractLsb' 0 1 == 0)
      let h ← headOf f.gp f.gn f.setf
      let rnd ← Rnd.ofCode (f.modx.extractLsb' 3 2)
      return .fscaleI h rnd (bitOf (f.modx.extractLsb' 1 1)) (Operand.ofCode f.dst) (Operand.ofCode f.a) (f.imm)
  | 0x11F => accept do
      must (f.ctl3.extractLsb' 2 1 == 0 && f.c == 0 && f.ty == 13 && f.modx == 0)
      let h ← headOf f.gp f.gn f.setf
      let mode ← ShflMode.ofCode (f.ctl3.extractLsb' 0 2)
      return .shflI h mode (Operand.ofCode f.dst) (Operand.ofCode f.a) (f.imm) (f.px)
  | 0x125 => accept do
      must (f.px == 0 && f.ctl3 == 0 && f.c == 0 && f.modx == 0)
      let h ← headOf f.gp f.gn f.setf
      let ty ← Ty.ofCode f.ty
      return .lbcastI h ty (Operand.ofCode f.dst) (Operand.ofCode f.a) (f.imm)
  | _ => .error .illegalOpcode

/-- Decoding in format M: the opcode map's rows of that format (R54) and the fields of their chapters. -/
def decodeM (f : FM) : Except Reject Instr :=
  match f.op.toNat with
  | 0x200 => accept do
      must (f.b == 0 && f.c == 0 && f.opx.extractLsb' 1 1 == 0 && f.fe == 0 && f.px == 0)
      let h ← headOf f.gp f.gn f.setf
      let w ← Width.ofCode f.width
      let o ← ordScopeOf f.ord f.scope
      let cp ← CacheP.ofCode f.cache
      return .ldp h w (bitOf (f.opx.extractLsb' 0 1)) o cp (Operand.ofCode f.dst) (Operand.ofCode f.a) (f.offset)
  | 0x201 => accept do
      must (f.dst == 0 && f.c == 0 && f.opx == 0 && f.fe == 0 && f.px == 0)
      let h ← headOf f.gp f.gn f.setf
      let w ← Width.ofCode f.width
      let o ← ordScopeOf f.ord f.scope
      let cp ← CacheP.ofCode f.cache
      return .stp h w o cp (Operand.ofCode f.a) (Operand.ofCode f.b) (f.offset)
  | 0x202 => accept do
      must (f.b == 0 && f.c == 0 && f.opx.extractLsb' 1 1 == 0 && f.fe.extractLsb' 0 1 == 0)
      let h ← headOf f.gp f.gn f.setf
      let w ← Width.ofCode f.width
      let o ← ordScopeOf f.ord f.scope
      let cp ← CacheP.ofCode f.cache
      return .lds h w (bitOf (f.opx.extractLsb' 0 1)) o cp (Operand.ofCode f.dst) (Operand.ofCode f.a) (f.offset) (bitOf (f.fe.extractLsb' 1 1)) (f.px)
  | 0x203 => accept do
      must (f.dst == 0 && f.c == 0 && f.opx == 0 && f.fe.extractLsb' 1 1 == 0)
      let h ← headOf f.gp f.gn f.setf
      let w ← Width.ofCode f.width
      let o ← ordScopeOf f.ord f.scope
      let cp ← CacheP.ofCode f.cache
      return .sts h w o cp (Operand.ofCode f.a) (Operand.ofCode f.b) (f.offset) (bitOf (f.fe.extractLsb' 0 1)) (f.px)
  | 0x204 => accept do
      must (f.b == 0 && f.c == 0 && f.opx.extractLsb' 1 1 == 0 && f.fe == 0 && f.px == 0)
      let h ← headOf f.gp f.gn f.setf
      let w ← Width.ofCode f.width
      let o ← ordScopeOf f.ord f.scope
      let cp ← CacheP.ofCode f.cache
      return .ldd h w (bitOf (f.opx.extractLsb' 0 1)) o cp (Operand.ofCode f.dst) (Operand.ofCode f.a) (f.offset)
  | 0x205 => accept do
      must (f.dst == 0 && f.c == 0 && f.opx == 0 && f.fe == 0 && f.px == 0)
      let h ← headOf f.gp f.gn f.setf
      let w ← Width.ofCode f.width
      let o ← ordScopeOf f.ord f.scope
      let cp ← CacheP.ofCode f.cache
      return .std h w o cp (Operand.ofCode f.a) (Operand.ofCode f.b) (f.offset)
  | 0x206 => accept do
      must (f.b == 0 && f.c == 0 && f.opx.extractLsb' 1 1 == 0 && f.fe == 0 && f.px == 0)
      let h ← headOf f.gp f.gn f.setf
      let w ← Width.ofCode f.width
      let o ← ordScopeOf f.ord f.scope
      let cp ← CacheP.ofCode f.cache
      return .ldg h w (bitOf (f.opx.extractLsb' 0 1)) o cp (Operand.ofCode f.dst) (Operand.ofCode f.a) (f.offset)
  | 0x207 => accept do
      must (f.dst == 0 && f.c == 0 && f.opx == 0 && f.fe == 0 && f.px == 0)
      let h ← headOf f.gp f.gn f.setf
      let w ← Width.ofCode f.width
      let o ← ordScopeOf f.ord f.scope
      let cp ← CacheP.ofCode f.cache
      return .stg h w o cp (Operand.ofCode f.a) (Operand.ofCode f.b) (f.offset)
  | 0x208 => accept do
      must (f.b == 0 && f.c == 0 && f.opx.extractLsb' 1 1 == 0 && f.fe == 0 && f.px == 0)
      let h ← headOf f.gp f.gn f.setf
      let w ← Width.ofCode f.width
      let o ← ordScopeOf f.ord f.scope
      let cp ← CacheP.ofCode f.cache
      return .ldx h w (bitOf (f.opx.extractLsb' 0 1)) o cp (Operand.ofCode f.dst) (Operand.ofCode f.a) (f.offset)
  | 0x209 => accept do
      must (f.dst == 0 && f.c == 0 && f.opx == 0 && f.fe == 0 && f.px == 0)
      let h ← headOf f.gp f.gn f.setf
      let w ← Width.ofCode f.width
      let o ← ordScopeOf f.ord f.scope
      let cp ← CacheP.ofCode f.cache
      return .stx h w o cp (Operand.ofCode f.a) (Operand.ofCode f.b) (f.offset)
  | 0x20A => accept do
      must (f.b == 0 && f.c == 0 && f.opx.extractLsb' 1 1 == 0 && f.fe == 0 && f.px == 0)
      let h ← headOf f.gp f.gn f.setf
      let w ← Width.ofCode f.width
      let o ← ordScopeOf f.ord f.scope
      let cp ← CacheP.ofCode f.cache
      return .ldh h w (bitOf (f.opx.extractLsb' 0 1)) o cp (Operand.ofCode f.dst) (Operand.ofCode f.a) (f.offset)
  | 0x20B => accept do
      must (f.dst == 0 && f.c == 0 && f.opx == 0 && f.fe == 0 && f.px == 0)
      let h ← headOf f.gp f.gn f.setf
      let w ← Width.ofCode f.width
      let o ← ordScopeOf f.ord f.scope
      let cp ← CacheP.ofCode f.cache
      return .sth h w o cp (Operand.ofCode f.a) (Operand.ofCode f.b) (f.offset)
  | 0x20C => accept do
      must (f.dst == 0 && f.b == 0 && f.c == 0 && f.setf == 0 && f.ord == 0 && f.scope == 0 && f.width == 4 && f.fe == 0 && f.px == 0)
      let cp ← CacheP.ofCode f.cache
      return .ldq (guardOf f.gp f.gn) (f.opx) cp (Operand.ofCode f.a) (f.offset)
  | 0x20D => accept do
      must (f.dst == 0 && f.b == 0 && f.c == 0 && f.ord == 0 && f.scope == 0 && f.cache == 0 && f.opx == 0 && f.width == 0 && f.fe == 0 && f.px == 0 && f.offset == 0)
      let h ← headOf f.gp f.gn f.setf
      return .qbpush h (Operand.ofCode f.a)
  | 0x20E => accept do
      must (f.a == 0 && f.b == 0 && f.c == 0 && f.setf == 0 && f.ord == 0 && f.scope == 0 && f.cache == 0 && f.opx == 0 && f.width == 0 && f.fe == 0 && f.px == 0 && f.offset == 0)
      let h ← headOf f.gp f.gn f.setf
      return .qbpop h (Operand.ofCode f.dst)
  | 0x210 => accept do
      must (f.a == 0 && f.b == 0 && f.c == 0 && f.setf == 0 && f.ord == 0 && f.scope == 0 && f.cache == 0 && f.opx == 0 && f.width == 0 && f.fe == 0 && f.px == 0 && f.offset == 0)
      return .qstat (guardOf f.gp f.gn) (Operand.ofCode f.dst)
  | 0x211 => accept do
      must (f.dst == 0 && f.b == 0 && f.c == 0 && f.ord == 0 && f.scope == 0 && f.opx == 0 && f.width == 0 && f.fe == 0 && f.px == 0)
      let h ← headOf f.gp f.gn f.setf
      let cp ← CacheP.ofCode f.cache
      return .pref h cp (Operand.ofCode f.a) (f.offset)
  | 0x215 => accept do
      must (f.dst == 0 && f.b == 0 && f.c == 0 && f.cache == 0 && f.width == 0 && f.fe == 0)
      let h ← headOf f.gp f.gn f.setf
      let op ← FeOp.ofCode f.opx
      let o ← ordScopeOf f.ord f.scope
      return .fetest h op o (f.px) (Operand.ofCode f.a) (f.offset)
  | _ => .error .illegalOpcode

/-- Decoding in format X: the opcode map's rows of that format (R54) and the fields of their chapters. -/
def decodeX (f : FX) : Except Reject Instr :=
  match f.op.toNat with
  | 0x212 => accept do
      must (f.zt == 0 && f.px == 0 && f.xctl.extractLsb' 1 20 == 0)
      let h ← headOf f.gp f.gn f.setf
      let ss ← Space.ofCode ((f.xop.extractLsb' 2 2).setWidth 3)
      let ds ← Space.ofCode ((f.xop.extractLsb' 0 2).setWidth 3)
      let ar ← acqRelOf f.acq f.rel f.scope
      return .acp h ss ds (bitOf (f.xctl.extractLsb' 0 1)) ar (Operand.ofCode f.dst) (Operand.ofCode f.a) (Operand.ofCode f.b) (Operand.ofCode f.c)
  | 0x213 => accept do
      must (f.a == 0 && f.b == 0 && f.c == 0 && f.acq == 0 && f.rel == 0 && f.scope == 0 && f.xop == 0 && f.zt == 0 && f.px == 0 && f.xctl == 0)
      let h ← headOf f.gp f.gn f.setf
      return .bclose h (Operand.ofCode f.dst)
  | 0x214 => accept do
      must (f.dst == 0 && f.b == 0 && f.c == 0 && f.acq == 0 && f.rel == 0 && f.scope == 0 && f.xop == 0 && f.zt == 0 && f.xctl == 0)
      let h ← headOf f.gp f.gn f.setf
      return .bwait h (Operand.ofCode f.a) (f.px)
  | 0x216 => accept do
      must (f.c == 0 && f.setf == 0 && f.acq == 0 && f.rel == 0 && f.scope == 0 && f.xop.extractLsb' 1 3 == 0 && f.zt == 0 && f.px == 0 && f.xctl == 0)
      return .kvlook (guardOf f.gp f.gn) (bitOf (f.xop.extractLsb' 0 1)) (Operand.ofCode f.dst) (Operand.ofCode f.a) (Operand.ofCode f.b)
  | 0x217 => accept do
      must (f.dst == 0 && f.xop.extractLsb' 3 1 == 0 && f.zt == 0 && f.px == 0 && f.xctl == 0)
      let h ← headOf f.gp f.gn f.setf
      let rows ← KvRows.ofCode (f.xop.extractLsb' 0 2)
      let ar ← acqRelOf f.acq f.rel f.scope
      return .kvgather h rows (bitOf (f.xop.extractLsb' 2 1)) ar (Operand.ofCode f.a) (Operand.ofCode f.b) (Operand.ofCode f.c)
  | 0x218 => accept do
      must (f.c == 0 && f.xop == 0 && f.zt == 0 && f.xctl == 0)
      let h ← headOf f.gp f.gn f.setf
      let ar ← acqRelOf f.acq f.rel f.scope
      return .kvappend h ar (Operand.ofCode f.dst) (Operand.ofCode f.a) (Operand.ofCode f.b) (f.px)
  | 0x219 => accept do
      must (f.xop == 0 && f.zt == 0 && f.xctl == 0)
      let h ← headOf f.gp f.gn f.setf
      let ar ← acqRelOf f.acq f.rel f.scope
      return .kvshare h ar (Operand.ofCode f.dst) (Operand.ofCode f.a) (Operand.ofCode f.b) (Operand.ofCode f.c) (f.px)
  | 0x300 => accept do
      must (f.acq == 0 && f.rel == 0 && f.scope == 0 && f.xop.extractLsb' 1 3 == 0 && f.zt == 0 && f.px == 0 && f.xctl.extractLsb' 17 4 == 0)
      let h ← headOf f.gp f.gn f.setf
      return .gmma h (bitOf (f.xop.extractLsb' 0 1)) ((f.xctl.extractLsb' 0 6)) ((f.xctl.extractLsb' 6 6)) ((f.xctl.extractLsb' 12 5)) (Operand.ofCode f.dst) (Operand.ofCode f.a) (Operand.ofCode f.b) (Operand.ofCode f.c)
  | 0x301 => accept do
      must (f.b == 0 && f.c == 0 && f.acq == 0 && f.rel == 0 && f.scope == 0 && f.xop.extractLsb' 1 3 == 0 && f.zt == 0 && f.px == 0 && f.xctl.extractLsb' 12 9 == 0)
      let h ← headOf f.gp f.gn f.setf
      return .cvtdxb h (bitOf (f.xop.extractLsb' 0 1)) ((f.xctl.extractLsb' 0 6)) ((f.xctl.extractLsb' 6 6)) (Operand.ofCode f.dst) (Operand.ofCode f.a)
  | 0x302 => accept do
      must (f.dst == 0 && f.xop == 0 && f.px == 0 && f.xctl.extractLsb' 13 8 == 0)
      let h ← headOf f.gp f.gn f.setf
      let ar ← acqRelOf f.acq f.rel f.scope
      return .lmma h ar (f.zt) ((f.xctl.extractLsb' 0 6)) ((f.xctl.extractLsb' 6 6)) (bitOf (f.xctl.extractLsb' 12 1)) (Operand.ofCode f.a) (Operand.ofCode f.b) (Operand.ofCode f.c)
  | 0x303 => accept do
      must (f.dst == 0 && f.xop == 0 && f.px == 0 && f.xctl.extractLsb' 14 7 == 0)
      let h ← headOf f.gp f.gn f.setf
      let ar ← acqRelOf f.acq f.rel f.scope
      return .lmmv h ar (f.zt) ((f.xctl.extractLsb' 0 6)) ((f.xctl.extractLsb' 6 5)) ((f.xctl.extractLsb' 11 3)) (Operand.ofCode f.a) (Operand.ofCode f.b) (Operand.ofCode f.c)
  | 0x304 => accept do
      must (f.dst == 0 && f.a == 0 && f.b == 0 && f.c == 0 && f.acq == 0 && f.rel == 0 && f.scope == 0 && f.xop == 0 && f.px == 0 && f.xctl == 0)
      let h ← headOf f.gp f.gn f.setf
      return .lzero h (f.zt)
  | 0x305 => accept do
      must (f.dst == 0 && f.c == 0 && f.xop.extractLsb' 1 3 == 0 && f.px == 0 && f.xctl.extractLsb' 6 15 == 0)
      let h ← headOf f.gp f.gn f.setf
      let ar ← acqRelOf f.acq f.rel f.scope
      return .lload h (bitOf (f.xop.extractLsb' 0 1)) ar (f.zt) ((f.xctl.extractLsb' 0 6)) (Operand.ofCode f.a) (Operand.ofCode f.b)
  | 0x306 => accept do
      must (f.dst == 0 && f.c == 0 && f.xop.extractLsb' 1 3 == 0 && f.px == 0 && f.xctl.extractLsb' 7 14 == 0)
      let h ← headOf f.gp f.gn f.setf
      let ar ← acqRelOf f.acq f.rel f.scope
      return .lstore h (bitOf (f.xop.extractLsb' 0 1)) (bitOf (f.xctl.extractLsb' 6 1)) ar (f.zt) ((f.xctl.extractLsb' 0 6)) (Operand.ofCode f.a) (Operand.ofCode f.b)
  | 0x307 => accept do
      must (f.b == 0 && f.c == 0 && f.acq == 0 && f.rel == 0 && f.scope == 0 && f.xop == 0 && f.px == 0 && f.xctl == 0)
      let h ← headOf f.gp f.gn f.setf
      return .lread h (f.zt) (Operand.ofCode f.dst) (Operand.ofCode f.a)
  | 0x308 => accept do
      must (f.dst == 0 && f.b == 0 && f.c == 0 && f.acq == 0 && f.rel == 0 && f.scope == 0 && f.xop == 0 && f.xctl.extractLsb' 12 9 == 0)
      let h ← headOf f.gp f.gn f.setf
      return .lcmd h (f.zt) ((f.xctl.extractLsb' 0 6)) ((f.xctl.extractLsb' 6 6)) (f.px) (Operand.ofCode f.a)
  | 0x309 => accept do
      must (f.b == 0 && f.xop == 0 && f.zt == 0 && f.px == 0 && f.xctl.extractLsb' 4 17 == 0)
      let h ← headOf f.gp f.gn f.setf
      let fmt ← RowFmt.ofCode (f.xctl.extractLsb' 2 2)
      let ar ← acqRelOf f.acq f.rel f.scope
      return .tmatch h ((f.xctl.extractLsb' 0 2)) fmt ar (Operand.ofCode f.dst) (Operand.ofCode f.a) (Operand.ofCode f.c)
  | 0x30A => accept do
      must (f.xop == 0 && f.zt == 0 && f.px == 0 && f.xctl.extractLsb' 13 8 == 0)
      let h ← headOf f.gp f.gn f.setf
      let fmt ← RowFmt.ofCode (f.xctl.extractLsb' 11 2)
      let ar ← acqRelOf f.acq f.rel f.scope
      return .tmerge h ((f.xctl.extractLsb' 0 11)) fmt ar (Operand.ofCode f.dst) (Operand.ofCode f.a) (Operand.ofCode f.b) (Operand.ofCode f.c)
  | 0x30B => accept do
      must (f.c == 0 && f.xop == 0 && f.zt == 0 && f.px == 0 && f.xctl.extractLsb' 13 8 == 0)
      let h ← headOf f.gp f.gn f.setf
      let fmt ← RowFmt.ofCode (f.xctl.extractLsb' 11 2)
      let ar ← acqRelOf f.acq f.rel f.scope
      return .tunmerge h ((f.xctl.extractLsb' 0 11)) fmt ar (Operand.ofCode f.dst) (Operand.ofCode f.a) (Operand.ofCode f.b)
  | 0x30C => accept do
      must (f.acq == 0 && f.rel == 0 && f.scope == 0 && f.xop.extractLsb' 1 3 == 0 && f.zt == 0 && f.px == 0 && f.xctl.extractLsb' 13 8 == 0)
      let h ← headOf f.gp f.gn f.setf
      return .smaxr h (bitOf (f.xop.extractLsb' 0 1)) ((f.xctl.extractLsb' 0 6)) (bitOf (f.xctl.extractLsb' 6 1)) (bitOf (f.xctl.extractLsb' 7 1)) ((f.xctl.extractLsb' 8 5)) (Operand.ofCode f.dst) (Operand.ofCode f.a) (Operand.ofCode f.b) (Operand.ofCode f.c)
  | 0x30D => accept do
      must (f.acq == 0 && f.rel == 0 && f.scope == 0 && f.xop == 0 && f.zt == 0 && f.px == 0 && f.xctl == 0)
      let h ← headOf f.gp f.gn f.setf
      return .tmask h (Operand.ofCode f.dst) (Operand.ofCode f.a) (Operand.ofCode f.b) (Operand.ofCode f.c)
  | _ => .error .illegalOpcode

/-- Decoding in format C: the opcode map's rows of that format (R54) and the fields of their chapters. -/
def decodeC (f : FC) : Except Reject Instr :=
  match f.op.toNat with
  | 0x180 => accept do
      must (f.dst == 0 && f.b == 0 && f.c == 0 && f.res == 0)
      return .bra (guardOf f.gp f.gn) (f.rtok) (f.disp) (Operand.ofCode f.a)
  | 0x181 => accept do
      must (f.dst == 0 && f.b == 0 && f.c == 0 && f.res == 0 && f.rtok == 0 && f.disp == 0)
      return .brx (guardOf f.gp f.gn) (Operand.ofCode f.a)
  | 0x182 => accept do
      must (f.a == 0 && f.b == 0 && f.c == 0 && f.res == 0 && f.rtok == 0)
      return .call (guardOf f.gp f.gn) (f.disp) (Operand.ofCode f.dst)
  | 0x183 => accept do
      must (f.dst == 0 && f.b == 0 && f.c == 0 && f.res == 0 && f.rtok == 0 && f.disp == 0)
      return .ret (guardOf f.gp f.gn) (Operand.ofCode f.a)
  | 0x184 => accept do
      must (f.dst == 0 && f.a == 0 && f.b == 0 && f.c == 0 && f.res == 0 && f.disp == 0)
      return .recon (guardOf f.gp f.gn) (f.rtok)
  | 0x185 => accept do
      must (f.dst == 0 && f.a == 0 && f.b == 0 && f.c == 0 && f.res == 0 && f.rtok == 0 && f.disp == 0)
      return .exit (guardOf f.gp f.gn)
  | 0x186 => accept do
      must (f.gp == 0 && f.gn == 0 && f.dst == 0 && f.a == 0 && f.b == 0 && f.c == 0 && f.res == 0 && f.rtok == 0 && f.disp == 0)
      return .nop
  | 0x187 => accept do
      must (f.dst == 0 && f.a == 0 && f.b == 0 && f.c == 0 && f.res == 0 && f.rtok == 0 && f.disp == 0)
      return .yield (guardOf f.gp f.gn)
  | 0x20F => accept do
      must (f.dst == 0 && f.a == 0 && f.b == 0 && f.c == 0 && f.res == 0 && f.rtok == 0)
      return .qsync (guardOf f.gp f.gn) (f.disp)
  | _ => .error .illegalOpcode

/-- Decoding in format Y: the opcode map's rows of that format (R54) and the fields of their chapters. -/
def decodeY (f : FY) : Except Reject Instr :=
  match f.op.toNat with
  | 0x280 => accept do
      must (f.c == 0 && f.px == 0 && f.yctl.extractLsb' 3 20 == 0)
      let h ← headOf f.gp f.gn f.setf
      let op ← AtomOp.ofCode f.yop
      let o ← ordScopeOf f.ord f.scope
      let w ← Width.ofCode f.width
      let sp ← Space.ofCode (f.yctl.extractLsb' 0 3)
      return .atom h op o w sp (Operand.ofCode f.dst) (Operand.ofCode f.a) (Operand.ofCode f.b)
  | 0x281 => accept do
      must (f.dst == 0 && f.c == 0 && f.px == 0 && f.yctl.extractLsb' 3 20 == 0)
      let h ← headOf f.gp f.gn f.setf
      let op ← AtomOp.ofCode f.yop
      let o ← ordScopeOf f.ord f.scope
      let w ← Width.ofCode f.width
      let sp ← Space.ofCode (f.yctl.extractLsb' 0 3)
      return .red h op o w sp (Operand.ofCode f.a) (Operand.ofCode f.b)
  | 0x282 => accept do
      must (f.yop == 0 && f.yctl.extractLsb' 3 20 == 0)
      let h ← headOf f.gp f.gn f.setf
      let o ← ordScopeOf f.ord f.scope
      let w ← Width.ofCode f.width
      let sp ← Space.ofCode (f.yctl.extractLsb' 0 3)
      return .cas h o w sp (Operand.ofCode f.dst) (Operand.ofCode f.a) (Operand.ofCode f.b) (Operand.ofCode f.c) (f.px)
  | 0x283 => accept do
      must (f.yop == 0 && f.width == 4 && f.yctl.extractLsb' 3 20 == 0)
      let h ← headOf f.gp f.gn f.setf
      let o ← ordScopeOf f.ord f.scope
      let sp ← Space.ofCode (f.yctl.extractLsb' 0 3)
      return .cas2 h o sp (Operand.ofCode f.dst) (Operand.ofCode f.a) (Operand.ofCode f.b) (Operand.ofCode f.c) (f.px)
  | 0x284 => accept do
      must (f.dst == 0 && f.c == 0 && f.px == 0 && f.width == 0 && f.yctl.extractLsb' 11 12 == 0)
      let h ← headOf f.gp f.gn f.setf
      let kind ← ObjKind.ofCode f.yop
      let o ← ordScopeOf f.ord f.scope
      return .obinit h kind o ((f.yctl.extractLsb' 0 2)) (bitOf (f.yctl.extractLsb' 2 1)) ((f.yctl.extractLsb' 3 8)) (Operand.ofCode f.a) (Operand.ofCode f.b)
  | 0x285 => accept do
      must (f.ord == 0 && f.scope == 0 && f.px == 0 && f.width == 0 && f.yctl == 0)
      let h ← headOf f.gp f.gn f.setf
      let op ← ObjOp.ofCode f.yop
      return .ann h op (Operand.ofCode f.dst) (Operand.ofCode f.a) (Operand.ofCode f.b) (Operand.ofCode f.c)
  | 0x286 => accept do
      must (f.b == 0 && f.c == 0 && f.ord == 0 && f.scope == 0 && f.yop == 0 && f.width == 0 && f.yctl == 0)
      let h ← headOf f.gp f.gn f.setf
      return .help h (Operand.ofCode f.dst) (Operand.ofCode f.a) (f.px)
  | 0x287 => accept do
      must (f.dst == 0 && f.c == 0 && f.yop.extractLsb' 1 3 == 0 && f.width == 0 && f.yctl == 0)
      let h ← headOf f.gp f.gn f.setf
      let o ← ordScopeOf f.ord f.scope
      return .barinit h (bitOf (f.yop.extractLsb' 0 1)) o (Operand.ofCode f.a) (Operand.ofCode f.b) (f.px)
  | 0x288 => accept do
      must (f.c == 0 && f.yop == 0 && f.px == 0 && f.width == 0 && f.yctl == 0)
      let h ← headOf f.gp f.gn f.setf
      let o ← ordScopeOf f.ord f.scope
      return .barv h o (Operand.ofCode f.dst) (Operand.ofCode f.a) (Operand.ofCode f.b)
  | 0x289 => accept do
      must (f.b == 0 && f.c == 0 && f.yop == 0 && f.px == 0 && f.width == 0 && f.yctl == 0)
      let h ← headOf f.gp f.gn f.setf
      let o ← ordScopeOf f.ord f.scope
      return .bardrop h o (Operand.ofCode f.dst) (Operand.ofCode f.a)
  | 0x28A => accept do
      must (f.dst == 0 && f.c == 0 && f.ord == 0 && f.scope == 0 && f.yop == 0 && f.px == 0 && f.width == 0 && f.yctl == 0)
      let h ← headOf f.gp f.gn f.setf
      return .btx h (Operand.ofCode f.a) (Operand.ofCode f.b)
  | 0x28B => accept do
      must (f.dst == 0 && f.c == 0 && f.yop == 0 && f.width == 0 && f.yctl == 0)
      let h ← headOf f.gp f.gn f.setf
      let o ← ordScopeOf f.ord f.scope
      return .btest h o (Operand.ofCode f.a) (Operand.ofCode f.b) (f.px)
  | 0x28C => accept do
      must (f.yop == 0 && f.px == 0 && f.width == 0 && f.yctl.extractLsb' 8 15 == 0)
      let h ← headOf f.gp f.gn f.setf
      let op ← SredOp.ofCode (f.yctl.extractLsb' 0 4)
      let o ← ordScopeOf f.ord f.scope
      return .sred h op ((f.yctl.extractLsb' 4 4)) o (Operand.ofCode f.dst) (Operand.ofCode f.a) (Operand.ofCode f.b) (Operand.ofCode f.c)
  | 0x28D => accept do
      must (f.dst == 0 && f.c == 0 && f.yop == 0 && f.width == 0 && f.yctl == 0)
      let h ← headOf f.gp f.gn f.setf
      let o ← ordScopeOf f.ord f.scope
      return .msend h o (Operand.ofCode f.a) (Operand.ofCode f.b) (f.px)
  | 0x28E => accept do
      must (f.a == 0 && f.b == 0 && f.c == 0 && f.yop == 0 && f.width == 0 && f.yctl.extractLsb' 3 20 == 0)
      let h ← headOf f.gp f.gn f.setf
      let o ← ordScopeOf f.ord f.scope
      return .mrecv h o ((f.yctl.extractLsb' 0 3)) (Operand.ofCode f.dst) (f.px)
  | 0x28F => accept do
      must (f.a == 0 && f.b == 0 && f.c == 0 && f.ord == 0 && f.scope == 0 && f.yop.extractLsb' 1 3 == 0 && f.px == 0 && f.width == 0 && f.yctl.extractLsb' 3 20 == 0)
      let h ← headOf f.gp f.gn f.setf
      return .mstat h (bitOf (f.yop.extractLsb' 0 1)) ((f.yctl.extractLsb' 0 3)) (Operand.ofCode f.dst)
  | 0x290 => accept do
      must (f.dst == 0 && f.b == 0 && f.c == 0 && f.ord == 0 && f.scope == 0 && f.yop.extractLsb' 1 3 == 0 && f.px == 0 && f.width == 0 && f.yctl.extractLsb' 10 13 == 0)
      let h ← headOf f.gp f.gn f.setf
      let sp ← Space.ofCode ((f.yctl.extractLsb' 0 2).setWidth 3)
      return .park h (bitOf (f.yop.extractLsb' 0 1)) sp ((f.yctl.extractLsb' 2 8)) (Operand.ofCode f.a)
  | 0x291 => accept do
      must (f.yop == 0 && f.px == 0 && f.width == 0 && f.yctl.extractLsb' 4 19 == 0)
      let h ← headOf f.gp f.gn f.setf
      let o ← ordScopeOf f.ord f.scope
      return .xscale h o ((f.yctl.extractLsb' 0 4)) (Operand.ofCode f.dst) (Operand.ofCode f.a) (Operand.ofCode f.b) (Operand.ofCode f.c)
  | 0x292 => accept do
      must (f.yop == 0 && f.px == 0 && f.width == 0 && f.yctl.extractLsb' 4 19 == 0)
      let h ← headOf f.gp f.gn f.setf
      let o ← ordScopeOf f.ord f.scope
      return .xred h o ((f.yctl.extractLsb' 0 4)) (Operand.ofCode f.dst) (Operand.ofCode f.a) (Operand.ofCode f.b) (Operand.ofCode f.c)
  | 0x293 => accept do
      must (f.dst == 0 && f.a == 0 && f.b == 0 && f.c == 0 && f.px == 0 && f.width == 0 && f.yctl == 0)
      let h ← headOf f.gp f.gn f.setf
      let fo ← fenceOf f.ord f.yop
      let scope ← Scope.ofCode f.scope
      return .fence h fo scope
  | 0x294 =>
    match f.yop.toNat with
    | 0 => accept do
        must (f.b == 0 && f.c == 0 && f.ord == 2 && f.yop == 0 && f.px == 0 && f.width == 0 && f.yctl == 0)
        let h ← headOf f.gp f.gn f.setf
        let scope ← Scope.ofCode f.scope
        return .drain h scope (Operand.ofCode f.dst) (Operand.ofCode f.a)
    | 1 => accept do
        must (f.dst == 0 && f.a == 0 && f.b == 0 && f.c == 0 && f.ord == 0 && f.scope == 0 && f.yop == 1 && f.px == 0 && f.width == 0 && f.yctl == 0)
        let h ← headOf f.gp f.gn f.setf
        return .drainNb h
    | _ => .error .illegalEncoding
  | _ => .error .illegalOpcode

/-- Decoding in format Z: the opcode map's rows of that format (R54) and the fields of their chapters. -/
def decodeZ (f : FZ) : Except Reject Instr :=
  match f.op.toNat with
  | 0x380 => accept do
      must (f.dst == 0 && f.b == 0 && f.c == 0 && f.zop == 0 && f.zctl.extractLsb' 6 26 == 0)
      let h ← headOf f.gp f.gn f.setf
      return .launch h ((f.zctl.extractLsb' 0 6)) (Operand.ofCode f.a)
  | 0x381 => accept do
      must (f.dst == 0 && f.a == 0 && f.b == 0 && f.c == 0 && f.zop == 0 && f.zctl == 0)
      let h ← headOf f.gp f.gn f.setf
      return .trigger h
  | 0x382 =>
    match f.zop.toNat with
    | 0 => accept do
        must (f.dst == 0 && f.b == 0 && f.c == 0 && f.zop == 0 && f.zctl == 0)
        let h ← headOf f.gp f.gn f.setf
        return .timerAbs h (Operand.ofCode f.a)
    | 1 => accept do
        must (f.dst == 0 && f.b == 0 && f.c == 0 && f.zop == 1 && f.zctl == 0)
        let h ← headOf f.gp f.gn f.setf
        return .timerRel h (Operand.ofCode f.a)
    | 2 => accept do
        must (f.dst == 0 && f.a == 0 && f.b == 0 && f.c == 0 && f.zop == 2 && f.zctl == 0)
        let h ← headOf f.gp f.gn f.setf
        return .timerOff h
    | _ => .error .illegalEncoding
  | 0x383 => accept do
      must (f.dst == 0 && f.a == 0 && f.b == 0 && f.c == 0 && f.zop == 0 && f.zctl == 0)
      let h ← headOf f.gp f.gn f.setf
      return .qend h
  | 0x384 => accept do
      must (f.dst == 0 && f.a == 0 && f.b == 0 && f.c == 0 && f.zop == 0 && f.zctl.extractLsb' 16 16 == 0)
      let h ← headOf f.gp f.gn f.setf
      return .trap h ((f.zctl.extractLsb' 0 16))
  | 0x385 => accept do
      must (f.dst == 0 && f.a == 0 && f.b == 0 && f.c == 0 && f.zop == 0 && f.zctl == 0)
      let h ← headOf f.gp f.gn f.setf
      return .trapret h
  | 0x386 => accept do
      must (f.dst == 0 && f.a == 0 && f.b == 0 && f.c == 0 && f.zop == 0 && f.zctl.extractLsb' 9 23 == 0)
      let h ← headOf f.gp f.gn f.setf
      return .replay h ((f.zctl.extractLsb' 0 3)) ((f.zctl.extractLsb' 3 6))
  | 0x387 => accept do
      must (f.a == 0 && f.b == 0 && f.c == 0 && f.zop == 0 && f.zctl.extractLsb' 4 28 == 0)
      let h ← headOf f.gp f.gn f.setf
      let r ← TrapReg.ofCode (f.zctl.extractLsb' 0 4)
      return .rdsr h r (Operand.ofCode f.dst)
  | 0x388 => accept do
      must (f.dst == 0 && f.b == 0 && f.c == 0 && f.zop == 0 && f.zctl.extractLsb' 4 28 == 0)
      let h ← headOf f.gp f.gn f.setf
      let r ← TrapReg.ofCode (f.zctl.extractLsb' 0 4)
      return .wrsr h r (Operand.ofCode f.a)
  | 0x389 => accept do
      must (f.dst == 0 && f.a == 0 && f.b == 0 && f.c == 0 && f.zop == 0 && f.zctl.extractLsb' 16 16 == 0)
      let h ← headOf f.gp f.gn f.setf
      return .bkpt h ((f.zctl.extractLsb' 0 16))
  | _ => .error .illegalOpcode

/-- The format of an opcode: classes 000-010 alternate V and I; the rest is the opcode map's (R36, R40, R54). -/
def decodeWord (w : BitVec 96) : Except Reject Instr :=
  let op := (w.extractLsb' 86 10).toNat
  if op < 0x180 then
    if op % 2 = 0 then decodeV (.unpack w) else decodeI (.unpack w)
  else if op < 0x200 then decodeC (.unpack w)
  else if op < 0x280 then
    if op = 0x20F then decodeC (.unpack w)
    else if (0x212 ≤ op ∧ op ≤ 0x214) ∨ (0x216 ≤ op ∧ op ≤ 0x219) then decodeX (.unpack w)
    else decodeM (.unpack w)
  else if op < 0x300 then decodeY (.unpack w)
  else if op < 0x380 then decodeX (.unpack w)
  else decodeZ (.unpack w)

/-- The word of an instruction; an event has none (R36-R54). -/
def encode : Instr → Option (BitVec 96)
  | .iadd h ty d a b => some (FV.pack { op := 0x0#10, gp := h.g.p, gn := ofBit h.g.neg, dst := d.code, a := a.code, b := b.code, setf := h.setf.code, ty := ty.code })
  | .iaddI h ty d a imm => some (FI.pack { op := 0x1#10, gp := h.g.p, gn := ofBit h.g.neg, dst := d.code, a := a.code, setf := h.setf.code, ty := ty.code, imm := imm })
  | .isub h ty d a b => some (FV.pack { op := 0x2#10, gp := h.g.p, gn := ofBit h.g.neg, dst := d.code, a := a.code, b := b.code, setf := h.setf.code, ty := ty.code })
  | .isubI h ty d a imm => some (FI.pack { op := 0x3#10, gp := h.g.p, gn := ofBit h.g.neg, dst := d.code, a := a.code, setf := h.setf.code, ty := ty.code, imm := imm })
  | .iaddc h alt d a b ps pd => some (FV.pack { op := 0x4#10, gp := h.g.p, gn := ofBit h.g.neg, dst := d.code, a := a.code, b := b.code, setf := h.setf.code, ty := 6, modx := 0#4 ++ (ofBit alt), pd := pd, ps := ps })
  | .iadds h ty d a b => some (FV.pack { op := 0x6#10, gp := h.g.p, gn := ofBit h.g.neg, dst := d.code, a := a.code, b := b.code, setf := h.setf.code, ty := ty.code })
  | .iaddsI h ty d a imm => some (FI.pack { op := 0x7#10, gp := h.g.p, gn := ofBit h.g.neg, dst := d.code, a := a.code, setf := h.setf.code, ty := ty.code, imm := imm })
  | .isubs h ty d a b => some (FV.pack { op := 0x8#10, gp := h.g.p, gn := ofBit h.g.neg, dst := d.code, a := a.code, b := b.code, setf := h.setf.code, ty := ty.code })
  | .isubsI h ty d a imm => some (FI.pack { op := 0x9#10, gp := h.g.p, gn := ofBit h.g.neg, dst := d.code, a := a.code, setf := h.setf.code, ty := ty.code, imm := imm })
  | .imul h ty d a b => some (FV.pack { op := 0xA#10, gp := h.g.p, gn := ofBit h.g.neg, dst := d.code, a := a.code, b := b.code, setf := h.setf.code, ty := ty.code })
  | .imulI h ty d a imm => some (FI.pack { op := 0xB#10, gp := h.g.p, gn := ofBit h.g.neg, dst := d.code, a := a.code, setf := h.setf.code, ty := ty.code, imm := imm })
  | .imulh h ty d a b => some (FV.pack { op := 0xC#10, gp := h.g.p, gn := ofBit h.g.neg, dst := d.code, a := a.code, b := b.code, setf := h.setf.code, ty := ty.code })
  | .imulhI h ty d a imm => some (FI.pack { op := 0xD#10, gp := h.g.p, gn := ofBit h.g.neg, dst := d.code, a := a.code, setf := h.setf.code, ty := ty.code, imm := imm })
  | .imad h ty d a b c => some (FV.pack { op := 0xE#10, gp := h.g.p, gn := ofBit h.g.neg, dst := d.code, a := a.code, b := b.code, c := c.code, setf := h.setf.code, ty := ty.code })
  | .imadI h ty d a imm c => some (FI.pack { op := 0xF#10, gp := h.g.p, gn := ofBit h.g.neg, dst := d.code, a := a.code, c := c.code, setf := h.setf.code, ty := ty.code, imm := imm })
  | .imadw h ty d a b c => some (FV.pack { op := 0x10#10, gp := h.g.p, gn := ofBit h.g.neg, dst := d.code, a := a.code, b := b.code, c := c.code, setf := h.setf.code, ty := ty.code })
  | .imadwI h ty d a imm c => some (FI.pack { op := 0x11#10, gp := h.g.p, gn := ofBit h.g.neg, dst := d.code, a := a.code, c := c.code, setf := h.setf.code, ty := ty.code, imm := imm })
  | .imin h ty d a b => some (FV.pack { op := 0x12#10, gp := h.g.p, gn := ofBit h.g.neg, dst := d.code, a := a.code, b := b.code, setf := h.setf.code, ty := ty.code })
  | .iminI h ty d a imm => some (FI.pack { op := 0x13#10, gp := h.g.p, gn := ofBit h.g.neg, dst := d.code, a := a.code, setf := h.setf.code, ty := ty.code, imm := imm })
  | .imax h ty d a b => some (FV.pack { op := 0x14#10, gp := h.g.p, gn := ofBit h.g.neg, dst := d.code, a := a.code, b := b.code, setf := h.setf.code, ty := ty.code })
  | .imaxI h ty d a imm => some (FI.pack { op := 0x15#10, gp := h.g.p, gn := ofBit h.g.neg, dst := d.code, a := a.code, setf := h.setf.code, ty := ty.code, imm := imm })
  | .iabs h ty sat d a => some (FV.pack { op := 0x16#10, gp := h.g.p, gn := ofBit h.g.neg, dst := d.code, a := a.code, setf := h.setf.code, ty := ty.code, modx := 0#3 ++ (ofBit sat) ++ 0#1 })
  | .ineg h ty sat d a => some (FV.pack { op := 0x18#10, gp := h.g.p, gn := ofBit h.g.neg, dst := d.code, a := a.code, setf := h.setf.code, ty := ty.code, modx := 0#3 ++ (ofBit sat) ++ 0#1 })
  | .idp4 h ty sat alt d a b c => some (FV.pack { op := 0x1A#10, gp := h.g.p, gn := ofBit h.g.neg, dst := d.code, a := a.code, b := b.code, c := c.code, setf := h.setf.code, ty := ty.code, modx := 0#3 ++ (ofBit sat) ++ (ofBit alt) })
  | .idp4I h ty sat alt d a imm c => some (FI.pack { op := 0x1B#10, gp := h.g.p, gn := ofBit h.g.neg, dst := d.code, a := a.code, c := c.code, setf := h.setf.code, ty := ty.code, modx := 0#3 ++ (ofBit sat) ++ (ofBit alt), imm := imm })
  | .and h ty d a b => some (FV.pack { op := 0x1C#10, gp := h.g.p, gn := ofBit h.g.neg, dst := d.code, a := a.code, b := b.code, setf := h.setf.code, ty := ty.code })
  | .andI h ty d a imm => some (FI.pack { op := 0x1D#10, gp := h.g.p, gn := ofBit h.g.neg, dst := d.code, a := a.code, setf := h.setf.code, ty := ty.code, imm := imm })
  | .or h ty d a b => some (FV.pack { op := 0x1E#10, gp := h.g.p, gn := ofBit h.g.neg, dst := d.code, a := a.code, b := b.code, setf := h.setf.code, ty := ty.code })
  | .orI h ty d a imm => some (FI.pack { op := 0x1F#10, gp := h.g.p, gn := ofBit h.g.neg, dst := d.code, a := a.code, setf := h.setf.code, ty := ty.code, imm := imm })
  | .xor h ty d a b => some (FV.pack { op := 0x20#10, gp := h.g.p, gn := ofBit h.g.neg, dst := d.code, a := a.code, b := b.code, setf := h.setf.code, ty := ty.code })
  | .xorI h ty d a imm => some (FI.pack { op := 0x21#10, gp := h.g.p, gn := ofBit h.g.neg, dst := d.code, a := a.code, setf := h.setf.code, ty := ty.code, imm := imm })
  | .andn h ty d a b => some (FV.pack { op := 0x22#10, gp := h.g.p, gn := ofBit h.g.neg, dst := d.code, a := a.code, b := b.code, setf := h.setf.code, ty := ty.code })
  | .andnI h ty d a imm => some (FI.pack { op := 0x23#10, gp := h.g.p, gn := ofBit h.g.neg, dst := d.code, a := a.code, setf := h.setf.code, ty := ty.code, imm := imm })
  | .orn h ty d a b => some (FV.pack { op := 0x24#10, gp := h.g.p, gn := ofBit h.g.neg, dst := d.code, a := a.code, b := b.code, setf := h.setf.code, ty := ty.code })
  | .ornI h ty d a imm => some (FI.pack { op := 0x25#10, gp := h.g.p, gn := ofBit h.g.neg, dst := d.code, a := a.code, setf := h.setf.code, ty := ty.code, imm := imm })
  | .not h ty d a => some (FV.pack { op := 0x26#10, gp := h.g.p, gn := ofBit h.g.neg, dst := d.code, a := a.code, setf := h.setf.code, ty := ty.code })
  | .lop3 h ty d a b c lut => some (FV.pack { op := 0x28#10, gp := h.g.p, gn := ofBit h.g.neg, dst := d.code, a := a.code, b := b.code, c := c.code, setf := h.setf.code, ty := ty.code, ctl := 0#12 ++ (lut) })
  | .shl h ty d a b => some (FV.pack { op := 0x2A#10, gp := h.g.p, gn := ofBit h.g.neg, dst := d.code, a := a.code, b := b.code, setf := h.setf.code, ty := ty.code })
  | .shlI h ty d a imm => some (FI.pack { op := 0x2B#10, gp := h.g.p, gn := ofBit h.g.neg, dst := d.code, a := a.code, setf := h.setf.code, ty := ty.code, imm := imm })
  | .shr h ty d a b => some (FV.pack { op := 0x2C#10, gp := h.g.p, gn := ofBit h.g.neg, dst := d.code, a := a.code, b := b.code, setf := h.setf.code, ty := ty.code })
  | .shrI h ty d a imm => some (FI.pack { op := 0x2D#10, gp := h.g.p, gn := ofBit h.g.neg, dst := d.code, a := a.code, setf := h.setf.code, ty := ty.code, imm := imm })
  | .sar h ty d a b => some (FV.pack { op := 0x2E#10, gp := h.g.p, gn := ofBit h.g.neg, dst := d.code, a := a.code, b := b.code, setf := h.setf.code, ty := ty.code })
  | .sarI h ty d a imm => some (FI.pack { op := 0x2F#10, gp := h.g.p, gn := ofBit h.g.neg, dst := d.code, a := a.code, setf := h.setf.code, ty := ty.code, imm := imm })
  | .rotl h ty d a b => some (FV.pack { op := 0x30#10, gp := h.g.p, gn := ofBit h.g.neg, dst := d.code, a := a.code, b := b.code, setf := h.setf.code, ty := ty.code })
  | .rotlI h ty d a imm => some (FI.pack { op := 0x31#10, gp := h.g.p, gn := ofBit h.g.neg, dst := d.code, a := a.code, setf := h.setf.code, ty := ty.code, imm := imm })
  | .fshl h d a b c => some (FV.pack { op := 0x32#10, gp := h.g.p, gn := ofBit h.g.neg, dst := d.code, a := a.code, b := b.code, c := c.code, setf := h.setf.code, ty := 13 })
  | .fshlI h d a imm c => some (FI.pack { op := 0x33#10, gp := h.g.p, gn := ofBit h.g.neg, dst := d.code, a := a.code, c := c.code, setf := h.setf.code, ty := 13, imm := imm })
  | .bfx h ty d a b => some (FV.pack { op := 0x34#10, gp := h.g.p, gn := ofBit h.g.neg, dst := d.code, a := a.code, b := b.code, setf := h.setf.code, ty := ty.code })
  | .bfxI h ty d a imm => some (FI.pack { op := 0x35#10, gp := h.g.p, gn := ofBit h.g.neg, dst := d.code, a := a.code, setf := h.setf.code, ty := ty.code, imm := imm })
  | .bfi h d a b c => some (FV.pack { op := 0x36#10, gp := h.g.p, gn := ofBit h.g.neg, dst := d.code, a := a.code, b := b.code, c := c.code, setf := h.setf.code, ty := 13 })
  | .bfiI h d a imm c => some (FI.pack { op := 0x37#10, gp := h.g.p, gn := ofBit h.g.neg, dst := d.code, a := a.code, c := c.code, setf := h.setf.code, ty := 13, imm := imm })
  | .popc h ty d a => some (FV.pack { op := 0x38#10, gp := h.g.p, gn := ofBit h.g.neg, dst := d.code, a := a.code, setf := h.setf.code, ty := ty.code })
  | .clz h ty d a => some (FV.pack { op := 0x3A#10, gp := h.g.p, gn := ofBit h.g.neg, dst := d.code, a := a.code, setf := h.setf.code, ty := ty.code })
  | .ctz h ty d a => some (FV.pack { op := 0x3C#10, gp := h.g.p, gn := ofBit h.g.neg, dst := d.code, a := a.code, setf := h.setf.code, ty := ty.code })
  | .brev h ty d a => some (FV.pack { op := 0x3E#10, gp := h.g.p, gn := ofBit h.g.neg, dst := d.code, a := a.code, setf := h.setf.code, ty := ty.code })
  | .bytep h d a b c => some (FV.pack { op := 0x40#10, gp := h.g.p, gn := ofBit h.g.neg, dst := d.code, a := a.code, b := b.code, c := c.code, setf := h.setf.code, ty := 13 })
  | .bytepI h d a imm c => some (FI.pack { op := 0x41#10, gp := h.g.p, gn := ofBit h.g.neg, dst := d.code, a := a.code, c := c.code, setf := h.setf.code, ty := 13, imm := imm })
  | .iset h ty cmp comb pd ps d a b => some (FV.pack { op := 0x42#10, gp := h.g.p, gn := ofBit h.g.neg, dst := d.code, a := a.code, b := b.code, setf := h.setf.code, ty := ty.code, pd := pd, ps := ps, ctl := 0#15 ++ (comb.code) ++ (cmp.code) })
  | .isetI h ty cmp px d a imm => some (FI.pack { op := 0x43#10, gp := h.g.p, gn := ofBit h.g.neg, dst := d.code, a := a.code, px := px, ctl3 := cmp.code, setf := h.setf.code, ty := ty.code, imm := imm })
  | .sel h ty d a b c ps => some (FV.pack { op := 0x44#10, gp := h.g.p, gn := ofBit h.g.neg, dst := d.code, a := a.code, b := b.code, c := c.code, setf := h.setf.code, ty := ty.code, ps := ps })
  | .selI h ty d a imm c px => some (FI.pack { op := 0x45#10, gp := h.g.p, gn := ofBit h.g.neg, dst := d.code, a := a.code, px := px, c := c.code, setf := h.setf.code, ty := ty.code, imm := imm })
  | .mov h ty d a => some (FV.pack { op := 0x46#10, gp := h.g.p, gn := ofBit h.g.neg, dst := d.code, a := a.code, setf := h.setf.code, ty := ty.code })
  | .movi h ty d imm => some (FI.pack { op := 0x49#10, gp := h.g.p, gn := ofBit h.g.neg, dst := d.code, setf := h.setf.code, ty := ty.code, imm := imm })
  | .lea h ty d a b sh => some (FV.pack { op := 0x4A#10, gp := h.g.p, gn := ofBit h.g.neg, dst := d.code, a := a.code, b := b.code, setf := h.setf.code, ty := ty.code, ctl := 0#17 ++ (sh) })
  | .leaI h ty d a imm sh => some (FI.pack { op := 0x4B#10, gp := h.g.p, gn := ofBit h.g.neg, dst := d.code, a := a.code, ctl3 := sh, setf := h.setf.code, ty := ty.code, imm := imm })
  | .fadd h ty rnd sat d a b => some (FV.pack { op := 0x80#10, gp := h.g.p, gn := ofBit h.g.neg, dst := d.code, a := a.code, b := b.code, setf := h.setf.code, ty := ty.code, modx := (rnd.code) ++ 0#1 ++ (ofBit sat) ++ 0#1 })
  | .faddI h ty rnd sat d a imm => some (FI.pack { op := 0x81#10, gp := h.g.p, gn := ofBit h.g.neg, dst := d.code, a := a.code, setf := h.setf.code, ty := ty.code, modx := (rnd.code) ++ 0#1 ++ (ofBit sat) ++ 0#1, imm := imm })
  | .fsub h ty rnd sat d a b => some (FV.pack { op := 0x82#10, gp := h.g.p, gn := ofBit h.g.neg, dst := d.code, a := a.code, b := b.code, setf := h.setf.code, ty := ty.code, modx := (rnd.code) ++ 0#1 ++ (ofBit sat) ++ 0#1 })
  | .fsubI h ty rnd sat d a imm => some (FI.pack { op := 0x83#10, gp := h.g.p, gn := ofBit h.g.neg, dst := d.code, a := a.code, setf := h.setf.code, ty := ty.code, modx := (rnd.code) ++ 0#1 ++ (ofBit sat) ++ 0#1, imm := imm })
  | .fmul h ty rnd sat d a b => some (FV.pack { op := 0x84#10, gp := h.g.p, gn := ofBit h.g.neg, dst := d.code, a := a.code, b := b.code, setf := h.setf.code, ty := ty.code, modx := (rnd.code) ++ 0#1 ++ (ofBit sat) ++ 0#1 })
  | .fmulI h ty rnd sat d a imm => some (FI.pack { op := 0x85#10, gp := h.g.p, gn := ofBit h.g.neg, dst := d.code, a := a.code, setf := h.setf.code, ty := ty.code, modx := (rnd.code) ++ 0#1 ++ (ofBit sat) ++ 0#1, imm := imm })
  | .ffma h ty rnd sat d a b c => some (FV.pack { op := 0x86#10, gp := h.g.p, gn := ofBit h.g.neg, dst := d.code, a := a.code, b := b.code, c := c.code, setf := h.setf.code, ty := ty.code, modx := (rnd.code) ++ 0#1 ++ (ofBit sat) ++ 0#1 })
  | .ffmaI h ty rnd sat d a imm c => some (FI.pack { op := 0x87#10, gp := h.g.p, gn := ofBit h.g.neg, dst := d.code, a := a.code, c := c.code, setf := h.setf.code, ty := ty.code, modx := (rnd.code) ++ 0#1 ++ (ofBit sat) ++ 0#1, imm := imm })
  | .fmin h ty d a b => some (FV.pack { op := 0x88#10, gp := h.g.p, gn := ofBit h.g.neg, dst := d.code, a := a.code, b := b.code, setf := h.setf.code, ty := ty.code })
  | .fminI h ty d a imm => some (FI.pack { op := 0x89#10, gp := h.g.p, gn := ofBit h.g.neg, dst := d.code, a := a.code, setf := h.setf.code, ty := ty.code, imm := imm })
  | .fmax h ty d a b => some (FV.pack { op := 0x8A#10, gp := h.g.p, gn := ofBit h.g.neg, dst := d.code, a := a.code, b := b.code, setf := h.setf.code, ty := ty.code })
  | .fmaxI h ty d a imm => some (FI.pack { op := 0x8B#10, gp := h.g.p, gn := ofBit h.g.neg, dst := d.code, a := a.code, setf := h.setf.code, ty := ty.code, imm := imm })
  | .fminm h ty d a b => some (FV.pack { op := 0x8C#10, gp := h.g.p, gn := ofBit h.g.neg, dst := d.code, a := a.code, b := b.code, setf := h.setf.code, ty := ty.code })
  | .fminmI h ty d a imm => some (FI.pack { op := 0x8D#10, gp := h.g.p, gn := ofBit h.g.neg, dst := d.code, a := a.code, setf := h.setf.code, ty := ty.code, imm := imm })
  | .fmaxm h ty d a b => some (FV.pack { op := 0x8E#10, gp := h.g.p, gn := ofBit h.g.neg, dst := d.code, a := a.code, b := b.code, setf := h.setf.code, ty := ty.code })
  | .fmaxmI h ty d a imm => some (FI.pack { op := 0x8F#10, gp := h.g.p, gn := ofBit h.g.neg, dst := d.code, a := a.code, setf := h.setf.code, ty := ty.code, imm := imm })
  | .fset h cmp comb pd ps a b => some (FV.pack { op := 0x90#10, gp := h.g.p, gn := ofBit h.g.neg, a := a.code, b := b.code, setf := h.setf.code, ty := 8, pd := pd, ps := ps, ctl := 0#15 ++ (comb.code) ++ (cmp.code) })
  | .fsetI h cmp px a imm => some (FI.pack { op := 0x91#10, gp := h.g.p, gn := ofBit h.g.neg, a := a.code, px := px, ctl3 := cmp.code, setf := h.setf.code, ty := 8, imm := imm })
  | .fclass h d a => some (FV.pack { op := 0x92#10, gp := h.g.p, gn := ofBit h.g.neg, dst := d.code, a := a.code, setf := h.setf.code, ty := 8 })
  | .frnd h rnd d a => some (FV.pack { op := 0x94#10, gp := h.g.p, gn := ofBit h.g.neg, dst := d.code, a := a.code, setf := h.setf.code, ty := 8, modx := (rnd.code) ++ 0#3 })
  | .ffrac h d a => some (FV.pack { op := 0x96#10, gp := h.g.p, gn := ofBit h.g.neg, dst := d.code, a := a.code, setf := h.setf.code, ty := 8 })
  | .fscale h rnd sat d a b => some (FV.pack { op := 0x98#10, gp := h.g.p, gn := ofBit h.g.neg, dst := d.code, a := a.code, b := b.code, setf := h.setf.code, ty := 8, modx := (rnd.code) ++ 0#1 ++ (ofBit sat) ++ 0#1 })
  | .fscaleI h rnd sat d a imm => some (FI.pack { op := 0x99#10, gp := h.g.p, gn := ofBit h.g.neg, dst := d.code, a := a.code, setf := h.setf.code, ty := 8, modx := (rnd.code) ++ 0#1 ++ (ofBit sat) ++ 0#1, imm := imm })
  | .fgetexp h d a => some (FV.pack { op := 0x9A#10, gp := h.g.p, gn := ofBit h.g.neg, dst := d.code, a := a.code, setf := h.setf.code, ty := 8 })
  | .frcp h rnd d a => some (FV.pack { op := 0x100#10, gp := h.g.p, gn := ofBit h.g.neg, dst := d.code, a := a.code, setf := h.setf.code, ty := 8, modx := (rnd.code) ++ 0#3 })
  | .frsq h d a => some (FV.pack { op := 0x102#10, gp := h.g.p, gn := ofBit h.g.neg, dst := d.code, a := a.code, setf := h.setf.code, ty := 8 })
  | .fsqrt h rnd d a => some (FV.pack { op := 0x104#10, gp := h.g.p, gn := ofBit h.g.neg, dst := d.code, a := a.code, setf := h.setf.code, ty := 8, modx := (rnd.code) ++ 0#3 })
  | .fexp2 h d a => some (FV.pack { op := 0x106#10, gp := h.g.p, gn := ofBit h.g.neg, dst := d.code, a := a.code, setf := h.setf.code, ty := 8 })
  | .flog2 h d a => some (FV.pack { op := 0x108#10, gp := h.g.p, gn := ofBit h.g.neg, dst := d.code, a := a.code, setf := h.setf.code, ty := 8 })
  | .fsin h d a => some (FV.pack { op := 0x10A#10, gp := h.g.p, gn := ofBit h.g.neg, dst := d.code, a := a.code, setf := h.setf.code, ty := 8 })
  | .fcos h d a => some (FV.pack { op := 0x10C#10, gp := h.g.p, gn := ofBit h.g.neg, dst := d.code, a := a.code, setf := h.setf.code, ty := 8 })
  | .ftanh h d a => some (FV.pack { op := 0x10E#10, gp := h.g.p, gn := ofBit h.g.neg, dst := d.code, a := a.code, setf := h.setf.code, ty := 8 })
  | .fsigm h d a => some (FV.pack { op := 0x110#10, gp := h.g.p, gn := ofBit h.g.neg, dst := d.code, a := a.code, setf := h.setf.code, ty := 8 })
  | .fcvt h ty sty rnd sto sat ed es d a => some (FV.pack { op := 0x112#10, gp := h.g.p, gn := ofBit h.g.neg, dst := d.code, a := a.code, setf := h.setf.code, ty := ty.code, modx := (rnd.code) ++ (ofBit sto) ++ (ofBit sat) ++ 0#1, ctl := 0#12 ++ (es) ++ (ed) ++ (sty.code) })
  | .icvt h ty sty sat d a => some (FV.pack { op := 0x114#10, gp := h.g.p, gn := ofBit h.g.neg, dst := d.code, a := a.code, setf := h.setf.code, ty := ty.code, modx := 0#3 ++ (ofBit sat) ++ 0#1, ctl := 0#16 ++ (sty.code) })
  | .plop h pd ps pb pc tbl => some (FV.pack { op := 0x116#10, gp := h.g.p, gn := ofBit h.g.neg, setf := h.setf.code, ty := 13, pd := pd, ps := ps, ctl := (tbl) ++ (pc) ++ (pb) })
  | .pmovv h d k n => some (FV.pack { op := 0x118#10, gp := h.g.p, gn := ofBit h.g.neg, dst := d.code, setf := h.setf.code, ty := 13, ctl := 0#9 ++ (n) ++ (k) })
  | .vmovp h a k n => some (FV.pack { op := 0x11A#10, gp := h.g.p, gn := ofBit h.g.neg, a := a.code, setf := h.setf.code, ty := 13, ctl := 0#9 ++ (n) ++ (k) })
  | .vote h mode t top d pd ps => some (FV.pack { op := 0x11C#10, gp := h.g.p, gn := ofBit h.g.neg, dst := d.code, setf := h.setf.code, ty := 13, pd := pd, ps := ps, ctl := 0#11 ++ (ofBit top) ++ (t) ++ (mode.code) })
  | .shfl h mode segw d a b pd => some (FV.pack { op := 0x11E#10, gp := h.g.p, gn := ofBit h.g.neg, dst := d.code, a := a.code, b := b.code, setf := h.setf.code, ty := 13, pd := pd, ctl := 0#15 ++ (segw) ++ (mode.code) })
  | .shflI h mode d a imm px => some (FI.pack { op := 0x11F#10, gp := h.g.p, gn := ofBit h.g.neg, dst := d.code, a := a.code, px := px, ctl3 := 0#1 ++ (mode.code), setf := h.setf.code, ty := 13, imm := imm })
  | .lred h ty op d a => some (FV.pack { op := 0x120#10, gp := h.g.p, gn := ofBit h.g.neg, dst := d.code, a := a.code, setf := h.setf.code, ty := ty.code, ctl := 0#16 ++ (op.code) })
  | .lscan h ty op excl d a => some (FV.pack { op := 0x122#10, gp := h.g.p, gn := ofBit h.g.neg, dst := d.code, a := a.code, setf := h.setf.code, ty := ty.code, ctl := 0#15 ++ (ofBit excl) ++ (op.code) })
  | .lbcast h ty d a b => some (FV.pack { op := 0x124#10, gp := h.g.p, gn := ofBit h.g.neg, dst := d.code, a := a.code, b := b.code, setf := h.setf.code, ty := ty.code })
  | .lbcastI h ty d a imm => some (FI.pack { op := 0x125#10, gp := h.g.p, gn := ofBit h.g.neg, dst := d.code, a := a.code, setf := h.setf.code, ty := ty.code, imm := imm })
  | .lfirst h ty d a => some (FV.pack { op := 0x126#10, gp := h.g.p, gn := ofBit h.g.neg, dst := d.code, a := a.code, setf := h.setf.code, ty := ty.code })
  | .bra g rtok disp a => some (FC.pack { op := 0x180#10, gp := g.p, gn := ofBit g.neg, a := a.code, rtok := rtok, disp := disp })
  | .brx g a => some (FC.pack { op := 0x181#10, gp := g.p, gn := ofBit g.neg, a := a.code })
  | .call g disp d => some (FC.pack { op := 0x182#10, gp := g.p, gn := ofBit g.neg, dst := d.code, disp := disp })
  | .ret g a => some (FC.pack { op := 0x183#10, gp := g.p, gn := ofBit g.neg, a := a.code })
  | .recon g rtok => some (FC.pack { op := 0x184#10, gp := g.p, gn := ofBit g.neg, rtok := rtok })
  | .exit g => some (FC.pack { op := 0x185#10, gp := g.p, gn := ofBit g.neg })
  | .nop => some (FC.pack { op := 0x186#10 })
  | .yield g => some (FC.pack { op := 0x187#10, gp := g.p, gn := ofBit g.neg })
  | .ldp h w sx o cp d a off => some (FM.pack { op := 0x200#10, gp := h.g.p, gn := ofBit h.g.neg, dst := d.code, a := a.code, setf := h.setf.code, ord := o.ord.code, scope := o.scope.code, cache := cp.code, opx := 0#1 ++ (ofBit sx), width := w.code, offset := off })
  | .stp h w o cp a b off => some (FM.pack { op := 0x201#10, gp := h.g.p, gn := ofBit h.g.neg, a := a.code, b := b.code, setf := h.setf.code, ord := o.ord.code, scope := o.scope.code, cache := cp.code, width := w.code, offset := off })
  | .lds h w sx o cp d a off take px => some (FM.pack { op := 0x202#10, gp := h.g.p, gn := ofBit h.g.neg, dst := d.code, a := a.code, setf := h.setf.code, ord := o.ord.code, scope := o.scope.code, cache := cp.code, opx := 0#1 ++ (ofBit sx), width := w.code, fe := (ofBit take) ++ 0#1, px := px, offset := off })
  | .sts h w o cp a b off fill px => some (FM.pack { op := 0x203#10, gp := h.g.p, gn := ofBit h.g.neg, a := a.code, b := b.code, setf := h.setf.code, ord := o.ord.code, scope := o.scope.code, cache := cp.code, width := w.code, fe := 0#1 ++ (ofBit fill), px := px, offset := off })
  | .ldd h w sx o cp d a off => some (FM.pack { op := 0x204#10, gp := h.g.p, gn := ofBit h.g.neg, dst := d.code, a := a.code, setf := h.setf.code, ord := o.ord.code, scope := o.scope.code, cache := cp.code, opx := 0#1 ++ (ofBit sx), width := w.code, offset := off })
  | .std h w o cp a b off => some (FM.pack { op := 0x205#10, gp := h.g.p, gn := ofBit h.g.neg, a := a.code, b := b.code, setf := h.setf.code, ord := o.ord.code, scope := o.scope.code, cache := cp.code, width := w.code, offset := off })
  | .ldg h w sx o cp d a off => some (FM.pack { op := 0x206#10, gp := h.g.p, gn := ofBit h.g.neg, dst := d.code, a := a.code, setf := h.setf.code, ord := o.ord.code, scope := o.scope.code, cache := cp.code, opx := 0#1 ++ (ofBit sx), width := w.code, offset := off })
  | .stg h w o cp a b off => some (FM.pack { op := 0x207#10, gp := h.g.p, gn := ofBit h.g.neg, a := a.code, b := b.code, setf := h.setf.code, ord := o.ord.code, scope := o.scope.code, cache := cp.code, width := w.code, offset := off })
  | .ldx h w sx o cp d a off => some (FM.pack { op := 0x208#10, gp := h.g.p, gn := ofBit h.g.neg, dst := d.code, a := a.code, setf := h.setf.code, ord := o.ord.code, scope := o.scope.code, cache := cp.code, opx := 0#1 ++ (ofBit sx), width := w.code, offset := off })
  | .stx h w o cp a b off => some (FM.pack { op := 0x209#10, gp := h.g.p, gn := ofBit h.g.neg, a := a.code, b := b.code, setf := h.setf.code, ord := o.ord.code, scope := o.scope.code, cache := cp.code, width := w.code, offset := off })
  | .ldh h w sx o cp d a off => some (FM.pack { op := 0x20A#10, gp := h.g.p, gn := ofBit h.g.neg, dst := d.code, a := a.code, setf := h.setf.code, ord := o.ord.code, scope := o.scope.code, cache := cp.code, opx := 0#1 ++ (ofBit sx), width := w.code, offset := off })
  | .sth h w o cp a b off => some (FM.pack { op := 0x20B#10, gp := h.g.p, gn := ofBit h.g.neg, a := a.code, b := b.code, setf := h.setf.code, ord := o.ord.code, scope := o.scope.code, cache := cp.code, width := w.code, offset := off })
  | .ldq g q cp a off => some (FM.pack { op := 0x20C#10, gp := g.p, gn := ofBit g.neg, a := a.code, cache := cp.code, opx := q, width := 4, offset := off })
  | .qbpush h a => some (FM.pack { op := 0x20D#10, gp := h.g.p, gn := ofBit h.g.neg, a := a.code, setf := h.setf.code })
  | .qbpop h d => some (FM.pack { op := 0x20E#10, gp := h.g.p, gn := ofBit h.g.neg, dst := d.code, setf := h.setf.code })
  | .qsync g disp => some (FC.pack { op := 0x20F#10, gp := g.p, gn := ofBit g.neg, disp := disp })
  | .qstat g d => some (FM.pack { op := 0x210#10, gp := g.p, gn := ofBit g.neg, dst := d.code })
  | .pref h cp a off => some (FM.pack { op := 0x211#10, gp := h.g.p, gn := ofBit h.g.neg, a := a.code, setf := h.setf.code, cache := cp.code, offset := off })
  | .acp h ss ds bar ar d a b c => some (FX.pack { op := 0x212#10, gp := h.g.p, gn := ofBit h.g.neg, dst := d.code, a := a.code, b := b.code, c := c.code, setf := h.setf.code, acq := ofBit ar.acq, rel := ofBit ar.rel, scope := ar.scope.code, xop := ((ss.code).setWidth 2) ++ ((ds.code).setWidth 2), xctl := 0#20 ++ (ofBit bar) })
  | .bclose h d => some (FX.pack { op := 0x213#10, gp := h.g.p, gn := ofBit h.g.neg, dst := d.code, setf := h.setf.code })
  | .bwait h a px => some (FX.pack { op := 0x214#10, gp := h.g.p, gn := ofBit h.g.neg, a := a.code, setf := h.setf.code, px := px })
  | .fetest h op o px a off => some (FM.pack { op := 0x215#10, gp := h.g.p, gn := ofBit h.g.neg, a := a.code, setf := h.setf.code, ord := o.ord.code, scope := o.scope.code, opx := op.code, px := px, offset := off })
  | .kvlook g inv d a b => some (FX.pack { op := 0x216#10, gp := g.p, gn := ofBit g.neg, dst := d.code, a := a.code, b := b.code, xop := 0#3 ++ (ofBit inv) })
  | .kvgather h rows toScratch ar a b c => some (FX.pack { op := 0x217#10, gp := h.g.p, gn := ofBit h.g.neg, a := a.code, b := b.code, c := c.code, setf := h.setf.code, acq := ofBit ar.acq, rel := ofBit ar.rel, scope := ar.scope.code, xop := 0#1 ++ (ofBit toScratch) ++ (rows.code) })
  | .kvappend h ar d a b px => some (FX.pack { op := 0x218#10, gp := h.g.p, gn := ofBit h.g.neg, dst := d.code, a := a.code, b := b.code, setf := h.setf.code, acq := ofBit ar.acq, rel := ofBit ar.rel, scope := ar.scope.code, px := px })
  | .kvshare h ar d a b c px => some (FX.pack { op := 0x219#10, gp := h.g.p, gn := ofBit h.g.neg, dst := d.code, a := a.code, b := b.code, c := c.code, setf := h.setf.code, acq := ofBit ar.acq, rel := ofBit ar.rel, scope := ar.scope.code, px := px })
  | .atom h op o w sp d a b => some (FY.pack { op := 0x280#10, gp := h.g.p, gn := ofBit h.g.neg, dst := d.code, a := a.code, b := b.code, setf := h.setf.code, ord := o.ord.code, scope := o.scope.code, yop := op.code, width := w.code, yctl := 0#20 ++ (sp.code) })
  | .red h op o w sp a b => some (FY.pack { op := 0x281#10, gp := h.g.p, gn := ofBit h.g.neg, a := a.code, b := b.code, setf := h.setf.code, ord := o.ord.code, scope := o.scope.code, yop := op.code, width := w.code, yctl := 0#20 ++ (sp.code) })
  | .cas h o w sp d a b c px => some (FY.pack { op := 0x282#10, gp := h.g.p, gn := ofBit h.g.neg, dst := d.code, a := a.code, b := b.code, c := c.code, setf := h.setf.code, ord := o.ord.code, scope := o.scope.code, px := px, width := w.code, yctl := 0#20 ++ (sp.code) })
  | .cas2 h o sp d a b c px => some (FY.pack { op := 0x283#10, gp := h.g.p, gn := ofBit h.g.neg, dst := d.code, a := a.code, b := b.code, c := c.code, setf := h.setf.code, ord := o.ord.code, scope := o.scope.code, px := px, width := 4, yctl := 0#20 ++ (sp.code) })
  | .obinit h kind o kcode xp pmask a b => some (FY.pack { op := 0x284#10, gp := h.g.p, gn := ofBit h.g.neg, a := a.code, b := b.code, setf := h.setf.code, ord := o.ord.code, scope := o.scope.code, yop := kind.code, yctl := 0#12 ++ (pmask) ++ (ofBit xp) ++ (kcode) })
  | .ann h op d a b c => some (FY.pack { op := 0x285#10, gp := h.g.p, gn := ofBit h.g.neg, dst := d.code, a := a.code, b := b.code, c := c.code, setf := h.setf.code, yop := op.code })
  | .help h d a px => some (FY.pack { op := 0x286#10, gp := h.g.p, gn := ofBit h.g.neg, dst := d.code, a := a.code, setf := h.setf.code, px := px })
  | .barinit h spn o a b px => some (FY.pack { op := 0x287#10, gp := h.g.p, gn := ofBit h.g.neg, a := a.code, b := b.code, setf := h.setf.code, ord := o.ord.code, scope := o.scope.code, yop := 0#3 ++ (ofBit spn), px := px })
  | .barv h o d a b => some (FY.pack { op := 0x288#10, gp := h.g.p, gn := ofBit h.g.neg, dst := d.code, a := a.code, b := b.code, setf := h.setf.code, ord := o.ord.code, scope := o.scope.code })
  | .bardrop h o d a => some (FY.pack { op := 0x289#10, gp := h.g.p, gn := ofBit h.g.neg, dst := d.code, a := a.code, setf := h.setf.code, ord := o.ord.code, scope := o.scope.code })
  | .btx h a b => some (FY.pack { op := 0x28A#10, gp := h.g.p, gn := ofBit h.g.neg, a := a.code, b := b.code, setf := h.setf.code })
  | .btest h o a b px => some (FY.pack { op := 0x28B#10, gp := h.g.p, gn := ofBit h.g.neg, a := a.code, b := b.code, setf := h.setf.code, ord := o.ord.code, scope := o.scope.code, px := px })
  | .sred h op n o d a b c => some (FY.pack { op := 0x28C#10, gp := h.g.p, gn := ofBit h.g.neg, dst := d.code, a := a.code, b := b.code, c := c.code, setf := h.setf.code, ord := o.ord.code, scope := o.scope.code, yctl := 0#15 ++ (n) ++ (op.code) })
  | .msend h o a b px => some (FY.pack { op := 0x28D#10, gp := h.g.p, gn := ofBit h.g.neg, a := a.code, b := b.code, setf := h.setf.code, ord := o.ord.code, scope := o.scope.code, px := px })
  | .mrecv h o port d px => some (FY.pack { op := 0x28E#10, gp := h.g.p, gn := ofBit h.g.neg, dst := d.code, setf := h.setf.code, ord := o.ord.code, scope := o.scope.code, px := px, yctl := 0#20 ++ (port) })
  | .mstat h clr port d => some (FY.pack { op := 0x28F#10, gp := h.g.p, gn := ofBit h.g.neg, dst := d.code, setf := h.setf.code, yop := 0#3 ++ (ofBit clr), yctl := 0#20 ++ (port) })
  | .park h msg sp mask a => some (FY.pack { op := 0x290#10, gp := h.g.p, gn := ofBit h.g.neg, a := a.code, setf := h.setf.code, yop := 0#3 ++ (ofBit msg), yctl := 0#13 ++ (mask) ++ ((sp.code).setWidth 2) })
  | .xscale h o coll d a b c => some (FY.pack { op := 0x291#10, gp := h.g.p, gn := ofBit h.g.neg, dst := d.code, a := a.code, b := b.code, c := c.code, setf := h.setf.code, ord := o.ord.code, scope := o.scope.code, yctl := 0#19 ++ (coll) })
  | .xred h o coll d a b c => some (FY.pack { op := 0x292#10, gp := h.g.p, gn := ofBit h.g.neg, dst := d.code, a := a.code, b := b.code, c := c.code, setf := h.setf.code, ord := o.ord.code, scope := o.scope.code, yctl := 0#19 ++ (coll) })
  | .fence h fo scope => some (FY.pack { op := 0x293#10, gp := h.g.p, gn := ofBit h.g.neg, setf := h.setf.code, ord := fo.ord, scope := scope.code, yop := fo.yop })
  | .drain h scope d a => some (FY.pack { op := 0x294#10, gp := h.g.p, gn := ofBit h.g.neg, dst := d.code, a := a.code, setf := h.setf.code, ord := 2, scope := scope.code })
  | .drainNb h => some (FY.pack { op := 0x294#10, gp := h.g.p, gn := ofBit h.g.neg, setf := h.setf.code, yop := 1 })
  | .gmma h bt fa fb rows d a b c => some (FX.pack { op := 0x300#10, gp := h.g.p, gn := ofBit h.g.neg, dst := d.code, a := a.code, b := b.code, c := c.code, setf := h.setf.code, xop := 0#3 ++ (ofBit bt), xctl := 0#4 ++ (rows) ++ (fb) ++ (fa) })
  | .cvtdxb h sto ss fb d a => some (FX.pack { op := 0x301#10, gp := h.g.p, gn := ofBit h.g.neg, dst := d.code, a := a.code, setf := h.setf.code, xop := 0#3 ++ (ofBit sto), xctl := 0#9 ++ (fb) ++ (ss) })
  | .lmma h ar zt fa fb sparse a b c => some (FX.pack { op := 0x302#10, gp := h.g.p, gn := ofBit h.g.neg, a := a.code, b := b.code, c := c.code, setf := h.setf.code, acq := ofBit ar.acq, rel := ofBit ar.rel, scope := ar.scope.code, zt := zt, xctl := 0#8 ++ (ofBit sparse) ++ (fb) ++ (fa) })
  | .lmmv h ar zt fw zx nb a b c => some (FX.pack { op := 0x303#10, gp := h.g.p, gn := ofBit h.g.neg, a := a.code, b := b.code, c := c.code, setf := h.setf.code, acq := ofBit ar.acq, rel := ofBit ar.rel, scope := ar.scope.code, zt := zt, xctl := 0#7 ++ (nb) ++ (zx) ++ (fw) })
  | .lzero h zt => some (FX.pack { op := 0x304#10, gp := h.g.p, gn := ofBit h.g.neg, setf := h.setf.code, zt := zt })
  | .lload h f32 ar zt fb a b => some (FX.pack { op := 0x305#10, gp := h.g.p, gn := ofBit h.g.neg, a := a.code, b := b.code, setf := h.setf.code, acq := ofBit ar.acq, rel := ofBit ar.rel, scope := ar.scope.code, xop := 0#3 ++ (ofBit f32), zt := zt, xctl := 0#15 ++ (fb) })
  | .lstore h f32 sat ar zt fb a b => some (FX.pack { op := 0x306#10, gp := h.g.p, gn := ofBit h.g.neg, a := a.code, b := b.code, setf := h.setf.code, acq := ofBit ar.acq, rel := ofBit ar.rel, scope := ar.scope.code, xop := 0#3 ++ (ofBit f32), zt := zt, xctl := 0#14 ++ (ofBit sat) ++ (fb) })
  | .lread h zt d a => some (FX.pack { op := 0x307#10, gp := h.g.p, gn := ofBit h.g.neg, dst := d.code, a := a.code, setf := h.setf.code, zt := zt })
  | .lcmd h zt fa fb px a => some (FX.pack { op := 0x308#10, gp := h.g.p, gn := ofBit h.g.neg, a := a.code, setf := h.setf.code, zt := zt, px := px, xctl := 0#9 ++ (fb) ++ (fa) })
  | .tmatch h dim fmt ar d a c => some (FX.pack { op := 0x309#10, gp := h.g.p, gn := ofBit h.g.neg, dst := d.code, a := a.code, c := c.code, setf := h.setf.code, acq := ofBit ar.acq, rel := ofBit ar.rel, scope := ar.scope.code, xctl := 0#17 ++ (fmt.code) ++ (dim) })
  | .tmerge h width fmt ar d a b c => some (FX.pack { op := 0x30A#10, gp := h.g.p, gn := ofBit h.g.neg, dst := d.code, a := a.code, b := b.code, c := c.code, setf := h.setf.code, acq := ofBit ar.acq, rel := ofBit ar.rel, scope := ar.scope.code, xctl := 0#8 ++ (fmt.code) ++ (width) })
  | .tunmerge h width fmt ar d a b => some (FX.pack { op := 0x30B#10, gp := h.g.p, gn := ofBit h.g.neg, dst := d.code, a := a.code, b := b.code, setf := h.setf.code, acq := ofBit ar.acq, rel := ofBit ar.rel, scope := ar.scope.code, xctl := 0#8 ++ (fmt.code) ++ (width) })
  | .smaxr h f16 cs sz msk rows d a b c => some (FX.pack { op := 0x30C#10, gp := h.g.p, gn := ofBit h.g.neg, dst := d.code, a := a.code, b := b.code, c := c.code, setf := h.setf.code, xop := 0#3 ++ (ofBit f16), xctl := 0#8 ++ (rows) ++ (ofBit msk) ++ (ofBit sz) ++ (cs) })
  | .tmask h d a b c => some (FX.pack { op := 0x30D#10, gp := h.g.p, gn := ofBit h.g.neg, dst := d.code, a := a.code, b := b.code, c := c.code, setf := h.setf.code })
  | .launch h pd a => some (FZ.pack { op := 0x380#10, gp := h.g.p, gn := ofBit h.g.neg, a := a.code, setf := h.setf.code, zctl := 0#26 ++ (pd) })
  | .trigger h => some (FZ.pack { op := 0x381#10, gp := h.g.p, gn := ofBit h.g.neg, setf := h.setf.code })
  | .timerAbs h a => some (FZ.pack { op := 0x382#10, gp := h.g.p, gn := ofBit h.g.neg, a := a.code, setf := h.setf.code })
  | .timerRel h a => some (FZ.pack { op := 0x382#10, gp := h.g.p, gn := ofBit h.g.neg, a := a.code, setf := h.setf.code, zop := 1 })
  | .timerOff h => some (FZ.pack { op := 0x382#10, gp := h.g.p, gn := ofBit h.g.neg, setf := h.setf.code, zop := 2 })
  | .qend h => some (FZ.pack { op := 0x383#10, gp := h.g.p, gn := ofBit h.g.neg, setf := h.setf.code })
  | .trap h n => some (FZ.pack { op := 0x384#10, gp := h.g.p, gn := ofBit h.g.neg, setf := h.setf.code, zctl := 0#16 ++ (n) })
  | .trapret h => some (FZ.pack { op := 0x385#10, gp := h.g.p, gn := ofBit h.g.neg, setf := h.setf.code })
  | .replay h i pd => some (FZ.pack { op := 0x386#10, gp := h.g.p, gn := ofBit h.g.neg, setf := h.setf.code, zctl := 0#23 ++ (pd) ++ (i) })
  | .rdsr h r d => some (FZ.pack { op := 0x387#10, gp := h.g.p, gn := ofBit h.g.neg, dst := d.code, setf := h.setf.code, zctl := 0#28 ++ (r.code) })
  | .wrsr h r a => some (FZ.pack { op := 0x388#10, gp := h.g.p, gn := ofBit h.g.neg, a := a.code, setf := h.setf.code, zctl := 0#28 ++ (r.code) })
  | .bkpt h n => some (FZ.pack { op := 0x389#10, gp := h.g.p, gn := ofBit h.g.neg, setf := h.setf.code, zctl := 0#16 ++ (n) })
  | _ => none

/-- The word that 12 bytes hold: bit `b` of the word is bit `b mod 8` of byte `b / 8` (R37). -/
def wordOfBytes : List Byte → Nat
  | [] => 0
  | b :: bs => b.toNat + 256 * wordOfBytes bs

/-- The `n` bytes that hold a number, lowest first (R3, R37). -/
def bytesOfWord : Nat → Nat → List Byte
  | 0, _ => []
  | n + 1, w => BitVec.ofNat 8 w :: bytesOfWord n (w / 256)

/-- The instruction that the first 12 bytes hold (R37). Fewer bytes than 12 hold no instruction. -/
def decode (bs : List Byte) : Except Reject Instr :=
  if 12 ≤ bs.length then decodeWord (BitVec.ofNat 96 (wordOfBytes (bs.take 12)))
  else .error .illegalEncoding

/-- The instruction the decoder reads from bits numbered as the opcode table numbers them. -/
def decodeTableWord (_nbits w : Nat) : Option Instr :=
  match decode (bytesOfWord 12 w) with
  | .ok i => some i
  | .error _ => none

/-- A line: its address, the five words and the line word (R44). -/
structure Line where
  addr : Nat
  words : List (BitVec 96)
  lw : BitVec 32
  deriving DecidableEq, Repr

/-- The number of ones in a byte. -/
def Byte.ones (b : Byte) : Nat := (List.range 8).foldl (fun n i => n + (b.getLsbD i).toNat) 0

/-- The parity of bytes, as the parity bit must make it even (R45). -/
def parityBit (bs : List Byte) : Bool := (bs.foldl (fun n b => n + Byte.ones b) 0) % 2 == 1

/-- The line that 64 bytes hold (R37, R44). -/
def Line.ofBytes (addr : Nat) (bs : List Byte) : Line where
  addr := addr
  words := (List.range 5).map fun i => BitVec.ofNat 96 (wordOfBytes ((bs.drop (12 * i)).take 12))
  lw := BitVec.ofNat 32 (wordOfBytes ((bs.drop 60).take 4))

/-- PARHI (R44). -/
def Line.parhi (l : Line) : Bool := l.lw.getLsbD 31
/-- PARLO (R44). -/
def Line.parlo (l : Line) : Bool := l.lw.getLsbD 30
/-- PAIR bit `i` (R44). -/
def Line.pair (l : Line) (i : Nat) : Bool := decide (i < 4) && l.lw.getLsbD (25 + i)
/-- TARGET bit `i` (R44). -/
def Line.target (l : Line) (i : Nat) : Bool := decide (i < 5) && l.lw.getLsbD (20 + i)
/-- SETB (R44). -/
def Line.setb (l : Line) : Nat := (l.lw.extractLsb' 16 4).toNat
/-- SETA (R44). -/
def Line.seta (l : Line) : Nat := (l.lw.extractLsb' 12 4).toNat
/-- WAIT bit `f` (R44). -/
def Line.wait (l : Line) (f : Nat) : Bool := decide (f < 12) && l.lw.getLsbD f

/-- The parity bits of a line's 64 bytes are correct (R44, R45). -/
def Line.parityOk (l : Line) (bs : List Byte) : Bool :=
  l.parlo == parityBit (bs.take 30) && l.parhi == parityBit ((bs.drop 30).take 30)

/-- NOP: opcode 0x186 and every other field zero (R55). -/
def nopWord : BitVec 96 := FC.pack { op := 0x186#10 }

/-- The bytes of a line that holds `w` in slot 0 and NOP in slots 1-4, slot 0 marked as a branch target,
no pair, no flag, no wait mask, and correct parity (R44, R45). -/
def lineBytes (w : BitVec 96) : List Byte :=
  let body := bytesOfWord 12 w.toNat ++ bytesOfWord 12 nopWord.toNat ++ bytesOfWord 12 nopWord.toNat ++
    bytesOfWord 12 nopWord.toNat ++ bytesOfWord 12 nopWord.toNat
  let lo := parityBit (body.take 30)
  let hi := parityBit (body.drop 30)
  body ++ bytesOfWord 4 (hi.toNat * 2 ^ 31 + lo.toNat * 2 ^ 30 + 2 ^ 20 + 15 * 2 ^ 16 + 15 * 2 ^ 12)

end Sys2Proof
end

