-- ==== Sys2Proof/Machine/State.lean ====
section
/-! DEFINITION. The state of the device: memory, context slots, clusters, launches, teams and groups, as
plain data, and the state right after reset. Each field cites the rule that names it. Fields marked
MODEL are the model's own (log 1, 3, 6). -/

namespace Sys2Proof.Machine

/-- The reasons for which a step of the model stops. -/
inductive Fault
  /-- Raised by the meaning of an instruction in a state whose cursor names no group: no agent issues it. The step
  never reaches this, since it issues only from a group it has selected. Safe: the model stops. -/
  | noAgent
  deriving DecidableEq, Repr

/-- The reasons for which an instruction is refused. -/
inductive Refusal
  /-- Raised by the dispatch arm of an instruction that has no meaning yet, under its mnemonic. Safe: the model stops. -/
  | notModelled (mnemonic : String)
  deriving DecidableEq, Repr

/-- The fault codes of R337. -/
inductive FCode
  | illegalOpcode | illegalEncoding | illegalOperand | illegalTarget | lineParity | pairConflict
  | divergenceDepth | qsyncSplit
  | addrRange | misaligned | sharedBound | privateBound | privateGrow | pageAbsent | permission
  | spaceMismatch | regspaceAccess | regspaceFault | peerWindow | peerRemote | linkDown | hostAbort
  | eccUncorrected | memTimeout | ptMalformed
  | queueUnderrun | queueOverrun | sliceDeadlock | asyncTimeout | kvRange | kvUnmapped
  | badFormat | matrixShape | tileBusy | sparseMeta | treeInvalid | tokenRange | mapStale
  | objRange | objKind | objArg | queueScope | barrierRange | mailboxFault | sredMismatch
  | collMismatch | collAbort
  | badDescriptor | badLaunch | launchOverflow | timer | userTrap | breakpoint | contextReset | signalFault
  deriving DecidableEq, Repr

/-- A fault as its record and frame name it (R343, R346): code, fault address, lowest faulting lane (255 for
none), FINFO[63:32], the queue of an A-slice fault (AORG), LATE, PAIR. -/
structure FaultInfo where
  code : FCode
  /-- Taken as class Fatal whatever the code's class is (R337's last paragraph, R348). -/
  fatal : Bool := false
  /-- Taken as class Direct: a store's late fault, which is reported as a fatal record (R75, log 107). -/
  direct : Bool := false
  addr : Nat := 0
  lane : Nat := 255
  info : Option Nat := none
  aorg : Option Nat := none
  late : Bool := false
  hi : Bool := false
  deriving DecidableEq, Repr

/-- Why an instruction does not retire: it stalls, or it faults before any effect (R48, R53, R58). -/
inductive Stop
  | stall
  /-- A named V register has no resident line: its fill is requested (R31). -/
  | fill (n : Nat)
  /-- A BWAIT stalls on these commands: its time counts from the first such stall (R99). -/
  | bwait (ids : List Nat)
  /-- A QBPOP finds QB empty (R88, R87). -/
  | qbpop
  | fault (f : FaultInfo)
  /-- The instruction would read or await its group's own buffered operation: the quantum ends first (R238, R377). -/
  | quantum
  deriving DecidableEq, Repr

/-- Sparse memory: (address, byte) pairs with rising addresses. -/
abbrev Mem := List Host.Cell

/-- A group's place: cluster, issue partition, slot (R13). -/
structure Gid where
  cluster : Nat
  part : Nat
  slot : Nat
  deriving DecidableEq, Repr

/-- A register an operation has still to write, or an instruction names (R49). -/
inductive RegRef
  | v (n : Nat) | s (n : Nat) | a (n : Nat) | p (n : Nat)
  deriving DecidableEq, Repr

/-- The kinds of R218, as the matrices order them. -/
inductive OKind
  | ld | st | at | aq | rl | eng | ah | pk | lt
  /-- An atomic with `.REL`, with `.ACQ` and with `.AR` takes the stronger cells of its parts (R218). -/
  | atAcq | atRel | atAr
  /-- The fences FENCE.ACQ, FENCE.REL and FENCE.SC. -/
  | fa | fr | fsc
  deriving DecidableEq, Repr

/-- What one Kiln or Spindle step does (R253, R257-R261, R269, R274). -/
inductive KAct
  | atom (op : AtomOp) (n v : Nat)
  | cas (n cmp new : Nat)
  | obinit (kind : ObjKind) (scope : Scope) (kcode : Nat) (xp : Bool) (pmask : Nat) (ws : List Nat)
  | ann (op : ObjOp) (arg0 arg1 mbox : Nat)
  | help
  | barinit (spn : Bool) (scope : Scope) (count : Nat)
  | barv (c : Nat)
  | bardrop
  | btx (bytes : Nat)
  | btest (token : Nat)
  | sred (op : SredOp) (ws : List Nat) (dst : Nat)
  deriving DecidableEq, Repr

/-- The spaces of loads and stores (R59): private, team shared, die scratchpad, global, peer, host. -/
inductive MSpace
  | p | s | d | g | x | h
  deriving DecidableEq, Repr

/-- A step asked for: the lane it serves, the virtual address, the memory key of the location, the act. -/
structure KStep where
  lane : Nat
  va : Nat
  key : Nat
  act : KAct
  deriving DecidableEq, Repr

/-- The result of a step: the lane, the old value, token or number, and the predicate. -/
structure KRes where
  lane : Nat
  val : Nat
  ok : Bool
  deriving DecidableEq, Repr

/-- A format block as captured at issue (R121): FMT, E, SADDR, SSP, BLEN = 16. -/
structure FmtBlock where
  fmt : Nat
  e : Int
  saddr : Nat
  ssp : Nat
  b16 : Bool
  deriving DecidableEq, Repr

/-- A stream descriptor (R191). -/
structure StreamDesc where
  aring : Nat
  bring : Nat
  astride : Nat
  bstride : Nat
  aslots : Nat
  bslots : Nat
  nstep : Nat
  ks : Nat
  sp : Bool
  zfirst : Bool
  cword : Nat
  deriving DecidableEq, Repr

/-- The engine commands (R95, R104-R106, R176-R196, R206-R209, R280). Addresses are tagged or virtual as the
instruction gave them. -/
inductive CmdKind
  | acp (ss ds : Space) (src dst len : Nat) (bar : Option Nat)
  | kvgather (rows : KvRows) (toScratch : Bool) (sd p0 n dst : Nat)
  | kvappend (d px list m : Nat)
  | kvshare (d px src dst m : Nat)
  | xscale (bar src dst nb coll : Nat)
  | xred (bar data scl nb coll : Nat)
  | lzero (zt : Nat)
  | lload (zt addr stride : Nat) (f32 : Bool) (fb : FmtBlock)
  | lstore (zt addr stride : Nat) (f32 sat : Bool) (fb : FmtBlock)
  | lread (zt d row : Nat)
  | lmma (zt a b k : Nat) (sparse : Bool) (fa fb : FmtBlock)
  | lmmv (zt zx w k n nb : Nat) (fw : FmtBlock)
  | stream (zt desc : Nat) (fa fb : FmtBlock) (sd : Option StreamDesc)
  | tmatch (map keys t r depth dim : Nat) (fmt : RowFmt)
  | tmerge (out inp map : Nat) (size : Option Nat) (width : Nat) (fmt : RowFmt)
  | tunmerge (out inp map width : Nat) (fmt : RowFmt)
  deriving DecidableEq, Repr

/-- An accepted engine command: its identifier, group, team, context slot, acquire and release, position
(next K-block or step, R195), the address of the instruction. -/
structure Cmd where
  id : Nat
  gid : Gid
  tag : Nat
  slot : Nat
  part : Nat
  lage : Nat
  ar : AcqRel
  kind : CmdKind
  pos : Nat := 0
  sub : Nat := 0
  /-- Writes that the command has decided on and still makes, in order: virtual address, bytes, value (R105). -/
  todo : List (Nat × Nat × Nat) := []
  /-- Suspended under a replayable record since this time, for this address (R96, R99). -/
  susp : Option (Nat × Nat) := none
  pc : Nat := 0
  /-- Other members' contributions that a collective has still to receive: the operation is sent (R280). -/
  sent : Bool := false
  deriving DecidableEq, Repr

/-- The engine that takes a command. -/
inductive EngineKind
  | copy | gather | link | lathe | trowel
  deriving DecidableEq, Repr

/-- An operation in flight. -/
inductive OpKind
  /-- A load: (lane, key) of each access, bytes, sign extension, destination, uniform, the predicate of a `.TAKE` (R68, R78). -/
  | load (acc : List (Nat × Nat)) (n : Nat) (sx : Bool) (d : Operand) (uni : Bool) (take : Option PReg)
  /-- A store: (lane, key, value) of each access, bytes (R68). -/
  | store (acc : List (Nat × Nat × Nat)) (n : Nat)
  /-- A `.FILL`: as a store, with the success predicate, and whether it is uniform (R78, R366). -/
  | fill (acc : List (Nat × Nat × Nat)) (n : Nat) (px : PReg) (uni : Bool)
  /-- An LDQ: queue, absolute position, the keys of the 128 bytes (R82). -/
  | ldq (q pos : Nat) (keys : List Nat)
  /-- D-mode: a FETEST.SET or FETEST.CLR: lane and granule of each access, whether it sets, the predicate (R79, R236). -/
  | fetest (acc : List (Nat × Nat)) (set : Bool) (px : PReg)
  /-- Steps still to take, results so far, destination, bytes a lane writes, predicate, uniform (R253). -/
  | kiln (todo : List KStep) (res : List KRes) (d : Option Operand) (n : Nat) (px : Option PReg) (uni : Bool)
  /-- A message: destination word, payload, the port's answer (R276). -/
  | msend (dst : Nat) (payload : List Word) (answer : Option Bool) (px : PReg)
  /-- A device-side launch: the packet's bytes (R302). -/
  | launch (packet : List Byte) (px : PReg)
  /-- An engine command whose registers are still to be written (R49, R105, R106, R182). -/
  | engine (cmd : Nat)
  /-- An XSCALE or XRED whose members have still to acknowledge (R48, R280). -/
  | coll (cmd : Nat)
  /-- D-mode: an engine command not yet accepted (R196). -/
  | accept (e : EngineKind) (c : Cmd)
  /-- D-mode: a TRIGGER waiting for its round (R303). -/
  | trigger
  /-- A FENCE.REL or DRAIN.NB that has retired, while accesses that it keeps before later ones are incomplete (R224). -/
  | marker
  deriving DecidableEq, Repr

/-- An operation of a group: identifier, path that issued it, kind, matrix kind and scope, flag it raised, registers it
will write, whether it counts in the acknowledgement counter, address and word of its instruction, issue time. -/
structure Op where
  id : Nat
  pid : Nat
  kind : OpKind
  ok : OKind
  scope : Scope
  flag : Option Nat
  /-- The flag of the REPLAY that injected it (R352). -/
  flag2 : Option Nat := none
  dsts : List RegRef
  counted : Bool
  pc : Nat
  word : BitVec 96
  /-- The space of a load or store. -/
  sp : MSpace := .g
  plain : Bool := false
  /-- The lanes that the issuing path held, and the first identifier of an operation issued since that path exists. -/
  held : Mask := 0
  born : Nat := 0
  /-- The address of each lane's access, as a replay entry keeps it (R344). -/
  addrs : List (Nat × Nat) := []
  time : Nat := 0
  /-- A long-latency fault that this operation has met and its group has still to take (R75, R250). -/
  late : Option FaultInfo := none
  deriving DecidableEq, Repr

/-- A position of a hod queue (R81, R83). -/
inductive QPos
  | reserved
  | data (v : LaneVec)
  | fault (f : FaultInfo)
  deriving DecidableEq, Repr

/-- A deferred path (R160): program counter, mask, its stack as entry identifiers. -/
structure Deferred where
  pc : Nat
  mask : Mask
  stack : List Nat
  deriving DecidableEq, Repr

/-- A reconvergence entry, shared by the paths whose stacks hold it (R160, R162): token, mask at the split, lanes held
before it, lanes arrived or exited, OR of the arrived paths' EXEC, a deferred path. -/
structure REntry where
  id : Nat
  tok : BitVec 6
  mask : Mask
  held : Mask
  arrived : Mask
  acc : Mask
  /-- The path that split, and the lanes that abandoned the entry (R162). -/
  owner : Nat
  gone : Mask
  deferred : Option Deferred
  deriving DecidableEq, Repr

/-- What keeps a path from issuing (R162, R278, R239). -/
inductive PStat
  | run
  | wait (entry : Nat)
  /-- Parked: key of the watched 64-byte line, port mask with `.MSG`, time the bound expires, whether a write or flit has woken it. -/
  | parked (line : Nat) (ports : Nat) (bound : Nat) (woken : Bool)
  deriving DecidableEq, Repr

/-- A path of a group (R160): identifier, program counter, EXEC, lanes held, stack (top first), split-table entry of a
fragment, status, the line entered (R46), time until which YIELD holds it and the candidates offered the slot since (R165), the time from
which it has waited to issue (R305). -/
structure Path where
  id : Nat
  pc : Nat
  exec : Mask
  held : Mask
  stack : List Nat := []
  split : Option Nat := none
  st : PStat := .run
  line : Option Line := none
  yield : Nat := 0
  passed : List (Gid × Nat) := []
  born : Nat := 0
  since : Nat := 0
  deriving DecidableEq, Repr

/-- The A-slice's activity (R83, R87). -/
inductive ASt
  | absent
  | run
  /-- Halted by a fault, with the queue of a faulting LDQ; `shown` once it has been delivered to the C-slice. -/
  | halted (f : FaultInfo) (q : Option Nat) (shown : Bool)
  | exited
  deriving DecidableEq, Repr

/-- A closed batch (R97): number, members unfinished, the failure. -/
structure Batch where
  num : Nat
  left : List Nat
  failed : Option FaultInfo
  deriving DecidableEq, Repr

/-- A stalled BWAIT (R99): since when its time counts, on which path, the commands it awaits, and since when its time has stood
still, if it does. -/
structure BWaiting where
  since : Nat
  pid : Nat
  ids : List Nat
  still : Option Nat := none
  deriving DecidableEq, Repr

/-- A replay entry (R344), with the operation it re-injects. -/
structure RqEntry where
  st : Nat
  op : Op
  mask : Mask
  code : Nat
  deriving DecidableEq, Repr

/-- The trap-state registers of the frame (R343, R353). -/
structure Frame where
  cpc : Nat
  apc : Nat
  ahalt : Bool
  fpc : Nat
  fcode : Nat
  faddr : Nat
  fmask : Mask
  finfo : Nat
  rqlive : Nat
  deriving DecidableEq, Repr

/-- Whether a group runs or is stopped (R338-R340, R356). -/
inductive GStat
  | run
  /-- A fault of class Fatal, Direct or User waits for the replies of R249 before the trap is taken (R339). -/
  | trapping (f : FaultInfo) (fpc cpc : Nat) (path : Nat)
  /-- Stopped under a replayable record: the fault, the faulting address and path, and the sequence number when it has been
  posted (R338, R347). -/
  | stopped (f : FaultInfo) (pc : Nat) (pid : Nat) (seq : Option Nat)
  /-- A fatal record has been posted; the group stays stopped (R340). -/
  | dead
  deriving DecidableEq, Repr

/-- The registers of a group (R20): V, S, A and P registers, and the special registers that are written (R23). -/
structure Regs where
  v : List LaneVec
  s : List Word
  a : List DWord
  p : List Mask
  slip : Nat
  tvec : DWord
  tcmp : DWord
  seed : Word
  fmtb : DWord
  deriving DecidableEq, Repr

/-- A cached translation (R326): context slot, virtual page of 64 KiB, leaf entry. -/
structure TlbEntry where
  slot : Nat
  page : Nat
  leaf : Nat
  deriving DecidableEq, Repr

/-- The translation look-aside buffers (R326): the L1 of each cluster and the L2 of each die. -/
structure Tlbs where
  l1 : List (List TlbEntry) := List.replicate 128 []
  l2 : List (List TlbEntry) := List.replicate 4 []
  deriving DecidableEq, Repr

/-- A group (R11, R20-R23). -/
structure Group where
  gid : Gid
  slot : Nat
  tag : Nat
  lage : Nat
  /-- Team linear index, and the coordinates (R237, TIDX). -/
  tlin : Nat
  tx : Nat
  ty : Nat
  tz : Nat
  gdim : DWord
  tgidx : Nat
  ridx : Nat
  role : Nat
  rgroups : Nat
  nroles : Nat
  tgroups : Nat
  part : Nat
  prio : Nat
  dmode : Bool
  quantum : Nat
  /-- Register budgets (R21). -/
  vbud : Nat
  sbud : Nat
  centry : Nat
  aentry : Nat
  rbase : DWord
  regs : Regs
  flags : List Nat
  /-- Hod queues, head first; absolute position of each head (R81). -/
  q : List (List QPos)
  qh : List Nat
  qb : List Word
  retired : BitVec 64
  /-- MODEL: the conditions raised by the instruction, or the pair, that issued last: one mask for each of P59-P63 (R127). -/
  raised : List Mask
  paths : List Path
  ents : List REntry
  nextPid : Nat
  apc : Nat
  /-- The time from which the A-slice has waited to issue, and the place in split-table order of the path that issued last (R305). -/
  asince : Nat := 0
  turn : Nat := 0
  ast : ASt
  aline : Option Line
  ayield : Nat
  apassed : List (Gid × Nat)
  /-- The A-slice is stalled on QBPOP with QB empty (R87). -/
  astall : Bool
  /-- Operations numbered below this one came before the last QSYNC: the A-slice's accesses follow them (R91). -/
  qbar : Nat
  /-- Operations issued and not complete, oldest first (R48). -/
  ops : List Op
  acks : Nat
  /-- Batches (R97): members of the open one unfinished, members so far, its failure; closed batches; last number; the
  BWAITs that stall, one of a path (R99). -/
  openLeft : List Nat
  openN : Nat
  openFail : Option FaultInfo
  batches : List Batch
  lastb : Word
  bwait : List BWaiting
  /-- The timer has not fired since the last write of TCMP (R29); a due timer is held (R341). -/
  armed : Bool
  held : Bool
  trig : Bool
  inh : Bool
  frame : Option Frame
  trapPaths : List Path
  trapEnts : List REntry
  trapAst : ASt
  rq : List RqEntry
  st : GStat
  /-- V registers with a resident register-cache line, most recently named last; those whose line is dirty; those written
  since group start; the register whose fill is asked for (R30-R32). -/
  vres : List Nat
  vdirty : List Nat
  vwr : List Nat
  vneed : Option Nat
  /-- V registers whose line holds an uncorrectable error (R362). -/
  vbad : List Nat
  /-- The lines of the state block and of the P, S and A registers as the last restore read them: offset in the register
  space, bytes (R35). -/
  filed : List (Nat × List Byte)
  /-- D-mode: retirements in this quantum, the quantum has ended, the commit buffer in program order (R236). -/
  qn : Nat
  qend : Bool
  cbuf : List Op
  /-- D-mode: the bytes that the group's stores have written at once since the last round, oldest first: key, the byte as the
  last round left it, the byte written (R236, R238). -/
  fresh : List (Nat × Byte × Byte)
  /-- A fault held over a save, with the address of its instruction and its path (R360). -/
  pend : Option (FaultInfo × Nat × Nat)
  /-- Floating-point operations counted for the intensity classifier (R296). -/
  flops : Nat := 0
  deriving DecidableEq, Repr

/-- A resident team (R12, R291). -/
structure Team where
  tag : Nat
  lage : Nat
  slot : Nat
  cluster : Nat
  part : Nat
  tlin : Nat
  tx : Nat
  ty : Nat
  tz : Nat
  pclass : Nat
  prio : Nat
  dmode : Bool
  shBase : Nat
  shBytes : Nat
  /-- The cluster's tiles that the team's Z0, Z1, ... are (R291). -/
  ztiles : List Nat
  /-- A save of the team has been asked for (R355), by the front end (R292). -/
  saving : Bool := false
  front : Bool := false
  /-- A D-mode team that is being saved at a round runs no further quantum (R315). -/
  leaving : Bool := false
  deriving DecidableEq, Repr

/-- A saved team (R356): the team, its groups, its shared bytes and full/empty bits by offset, its tiles by element
index, its unfinished Lathe and Trowel commands; saved by the front end. -/
structure SavedTeam where
  team : Team
  groups : List Group
  shared : List (Nat × Byte)
  fe : List Nat
  tiles : List (Nat × Word)
  cmds : List (EngineKind × Cmd)
  byFront : Bool
  /-- Where the cluster record holds the team (R357): its directory entry, its first tile and its first Lathe entry. -/
  dir : Nat
  zimg : Nat
  lbase : Nat
  deriving DecidableEq, Repr

/-- A role word of a descriptor (R15). -/
structure RoleWord where
  groups : Nat
  vregs : Nat
  sregs : Nat
  deriving DecidableEq, Repr

/-- A checked kernel descriptor (R15). -/
structure KDesc where
  centry : Nat
  aentry : Nat
  shbytes : Nat
  scbytes : Nat
  roles : List RoleWord
  deriving DecidableEq, Repr

/-- A launch from acceptance to completion (R284-R290, R298). -/
structure Launch where
  age : Nat
  slot : Nat
  kdesc : Nat
  argp : Nat
  gx : Nat
  gy : Nat
  gz : Nat
  deps : List Nat
  sigp : Nat
  map : Nat
  task : Bool
  zn : Nat
  cscope : Scope
  pclass : Nat
  part : Nat
  prio : Nat
  dmode : Bool
  quant : Nat
  /-- Dependences found satisfied (R289); time it became ready; the descriptor once checked (R16). -/
  satisfied : List Nat
  ready : Option Nat
  desc : Option KDesc
  /-- Teams dispatched, teams alive, levels risen (R290), time of the last dispatch. -/
  next : Nat
  alive : Nat
  risen : Nat
  lastDisp : Nat
  /-- The trigger word and the done word have been dealt with (R288); an account of a fault that keeps it from completing (R361). -/
  trigDone : Bool
  doneDone : Bool
  dead : Bool
  /-- The map step is skipped for the next team (R293); the map has been counted as ignored (R295). -/
  mapSkip : Bool
  mapBad : Bool
  /-- Task launches: the teams dispatched (R299), and the input and output slots read from each pending team's entry (R298). -/
  dispatched : List Nat
  entries : List (Nat × List Nat × List Nat) := []
  /-- The time from which the next team has found no room (R292). -/
  noRoom : Option Nat := none
  deriving DecidableEq, Repr

/-- A context's arithmetic-event block (R128): 28 counters by `4 · FMT + k`, THRESH, HIT. -/
structure Aevb where
  cnt : List Word
  thresh : Word
  hit : BitVec 7
  deriving DecidableEq, Repr

/-- The freeze record (R330). -/
structure Freeze where
  cause : Word
  who : Word
  addr : DWord
  pc : DWord
  count : Word
  deriving DecidableEq, Repr

/-- A kernel descriptor that is being measured (R296): its address, the launch, since when, the floating-point operations of
teams that have retired and of engines. -/
structure Measure where
  kdesc : Nat
  lage : Nat
  since : Nat
  flops : Nat
  deriving DecidableEq, Repr

/-- A replayable record not yet answered (R348): sequence number, the group or the engine command it names. -/
structure Replayable where
  seq : Nat
  gid : Option Gid
  cmd : Option Nat
  deriving DecidableEq, Repr

/-- The states of a context slot (R319). -/
inductive CState
  | free | active | frozen | closing
  deriving DecidableEq, Repr

/-- The pre-emption states (R354). -/
inductive PState
  | idle | draining | saving | saved | restoring | resetting
  deriving DecidableEq, Repr

/-- A context slot: the CCB (R319, R345), the doorbell block (R348), the launch status block (R285). -/
structure Context where
  state : CState := .free
  err : Byte := 0
  pasid : Word := 0
  ptbase : DWord := 0
  pvbase : DWord := 0
  plimit : Word := 0
  perm : Word := 0
  scratch : Word := 0
  kilnsh : Word := 0
  spnslot : Word := 0
  wintab : DWord := 0
  colltab : DWord := 0
  invaddr : DWord := 0
  /-- An invalidation is done once the accesses numbered below this have completed (R327). -/
  invTill : Nat := 0
  invNpage : Nat := 0
  invAll : Bool := false
  tqbase : DWord := 0
  csabase : DWord := 0
  freeze : Freeze := ⟨0, 0, 0, 0, 0⟩
  /-- The time of the violation that froze the context (R331). -/
  frozenAt : Nat := 0
  aevb : Aevb := ⟨List.replicate 28 0, 0, 0⟩
  mapGen : Word := 0
  scrBase : List Nat := [0, 0, 0, 0]
  /-- Doorbell (R348, R354). -/
  pDone : Bool := true
  pRej : Bool := false
  pState : PState := .idle
  pdead : Word := 200
  pmask : BitVec 128 := 0
  pStart : Nat := 0
  /-- A command that waits for the front end's saves: its level, 2 for a restore, 3 for a reset (R360). -/
  pWait : Option Nat := none
  /-- Launch status (R285). -/
  accepted : Nat := 0
  completed : Nat := 0
  refused : Nat := 0
  mapign : Nat := 0
  recs : List Replayable := []
  /-- MSI-X (R346): raises so far, time of the last, a raise held back; arithmetic interrupts sent (R129). -/
  msix : Nat := 0
  msixAt : Nat := 0
  msixHeld : Bool := false
  arith : Nat := 0
  /-- Cached windows: (index, words of the entry) (R332). -/
  wins : List (Nat × List Nat) := []
  /-- Collective operations issued on each entry (R279). -/
  collN : List Nat := List.replicate 16 0
  /-- Classes of kernel descriptors: (address, class) with 0 memory-bound, 1 balanced, 2 compute-bound (R296). -/
  classes : List (Nat × Nat) := []
  meas : List Measure := []
  /-- Clusters where dispatch is stopped (R355). -/
  stopMask : BitVec 128 := 0
  saved : List SavedTeam := []
  /-- The ready lists of the context's clusters: home cluster, launch age, team index, in append order (R299). -/
  ready : List (Nat × Nat × Nat) := []
  /-- Host packets that wait for a commit round (R311). -/
  hostq : List (List Byte) := []
  deriving DecidableEq, Repr

/-- A flit (R275): header and 16 payload words. -/
structure Flit where
  header : Word
  payload : List Word
  deriving DecidableEq, Repr

/-- A message port (R275, R277, R329). -/
structure Port where
  own : Byte := 0
  fifo : List Flit := []
  refused : Nat := 0
  deriving DecidableEq, Repr

/-- A cluster's engines, ports and key-value translation buffer. -/
structure Cluster where
  copy : List Cmd := []
  gather : List Cmd := []
  link : List Cmd := []
  lathe : List Cmd := []
  trowel : List Cmd := []
  ports : List Port := List.replicate 8 {}
  /-- KVTB (R102): (slot, KVSD address, logical block, physical block), most recently used last. -/
  kvtb : List (Nat × Nat × Nat × Nat) := []
  deriving DecidableEq, Repr

/-- An SRED contribution held at the Spindle (R274): the group's identifier, its team, the offset of its result in the
team's shared memory, op, words. -/
structure Contribution where
  lage : Nat
  tlin : Nat
  tgidx : Nat
  tag : Nat
  dst : Nat
  op : SredOp
  ws : List Nat
  deriving DecidableEq, Repr

/-- A Spindle slot in use (R273): context slot, barrier key, virtual address, whether the phase took a BARV, its contributions. -/
structure SpnSlot where
  slot : Nat
  key : Nat
  va : Nat
  mixed : Bool
  contribs : List Contribution
  /-- The phase is full, and waits for the Spindle to write results and to reflect it: the operation that completed it. -/
  full : Option Nat
  deriving DecidableEq, Repr

/-- A Tlanto or CXL port (R364): state 0 down, 1 training, 2 up, 3 failed; lanes, remote device, retrains or errors. -/
structure LinkPort where
  st : Nat := 0
  lanes : Nat := 0
  dev : Nat := 0
  count : Nat := 0
  deriving DecidableEq, Repr

/-- Firmware (R335): loaded, FWSTAT, the window's bytes, MEAS0-MEAS7, stage count. -/
structure Firmware where
  powered : Bool := true
  loaded : Bool := false
  stat : Nat := 0
  image : List (Nat × Byte) := []
  meas : List (BitVec 512) := List.replicate 8 0
  stages : Nat := 0
  deriving DecidableEq, Repr

/-- A quote mailbox (R336). -/
structure QuoteBox where
  nonce : BitVec 256 := 0
  done : Bool := true
  quote : List Byte := List.replicate 656 0
  deriving DecidableEq, Repr

/-- What the last step did (MODEL): the report that statements read. -/
inductive Last
  | idle
  /-- The instruction retired with its own effect. -/
  | retired
  | stalled
  /-- The instruction raised this fault. -/
  | faulted (c : FCode)
  /-- The event took place. -/
  | event
  /-- The event had nothing to act on, and nothing changed. -/
  | nothing
  deriving DecidableEq, Repr

/-- The issue stage's cursor (MODEL): group, slice, path, address and word of the instruction being issued, the numbers that
its line gives the set flags A and B (R48), and whether ISSUE_SELECTION has chosen them for the next step (R305). -/
structure Cursor where
  g : Nat := 0
  sl : Slice := .c
  p : Nat := 0
  addr : Nat := 0
  word : BitVec 96 := 0
  seta : Nat := 15
  setb : Nat := 15
  chosen : Bool := false
  deriving DecidableEq, Repr

/-- The state of the device. -/
structure State where
  /-- MODEL: the events that happen next, in order; empty: the default order (log 1). -/
  agenda : List Instr
  cur : Cursor
  /-- MODEL: while the second half of a pair executes, the registers as they stood before the first (R51). -/
  snap : Option Group
  last : Last
  /-- MODEL: the number of the next free value (log 6). -/
  free : Nat
  /-- MODEL: the next identifier of an operation, command or entry. -/
  nextId : Nat
  clock : BitVec 64
  mem : Mem
  /-- Full granules, as `cluster · 16384 + granule` (R77). -/
  fe : List Nat
  /-- Tile elements that are not zero, as `(cluster · 32 + tile) · 16384 + element` (R169). -/
  tiles : List (Nat × Word)
  groups : List Group
  teams : List Team
  launches : List Launch
  ctxs : List Context
  clusters : List Cluster
  tlbs : Tlbs
  spindle : List SpnSlot
  /-- Poisoned objects and lines, by key (R265). -/
  poison : List Nat
  /-- The posted records whose owner's context still exists: key of the record, owner's slot (R259, R322). -/
  mailers : List (Nat × Nat)
  /-- The partition that each object was created in: key of the object, partition (R230, R329, log 30). -/
  objPart : List (Nat × Nat)
  nextAge : Nat
  nextTag : Nat
  devnum : Nat
  partmap : List (BitVec 128)
  vfslot : List (BitVec 64)
  fw : Firmware
  quotes : List QuoteBox
  rsDone : Bool
  rsStat : Nat
  rsAddr : DWord
  snapshots : Nat
  /-- Error counts of R364, in its order, without the last address. -/
  errs : List Nat
  lastBad : Nat
  tlanto : List LinkPort
  cxl : List LinkPort
  /-- What the last host read returned (R283, R33). -/
  hostData : List Byte
  /-- The front end's pre-emption in progress in each partition (R292). -/
  fePre : List Nat
  deriving DecidableEq, Repr

/-- The state right after reset: no context is active and no group is resident; the fields hold the values that the spec
states, and otherwise those of log 4. -/
def State.reset : State where
  agenda := []
  cur := {}
  snap := none
  last := .idle
  free := 0
  nextId := 1
  clock := 0
  mem := []
  fe := []
  tiles := []
  groups := []
  teams := []
  launches := []
  ctxs := List.replicate 64 {}
  clusters := List.replicate 128 {}
  tlbs := {}
  spindle := []
  poison := []
  mailers := []
  objPart := []
  nextAge := 0
  nextTag := 1
  devnum := 0
  partmap := List.replicate 8 0
  vfslot := List.replicate 16 0
  fw := {}
  quotes := List.replicate 17 {}
  rsDone := true
  rsStat := 0
  rsAddr := 0
  snapshots := 0
  errs := List.replicate 7 0
  lastBad := 0
  tlanto := List.replicate 24 {}
  cxl := List.replicate 4 {}
  hostData := []
  fePre := []

end Sys2Proof.Machine
end

