-- ==== Sys2Proof/Machine/Ops.lean ====
section
/-! DEFINITION. The named operations over memory, translation, groups and contexts; faults, records,
freezing, taking a trap and the return from it. -/

namespace Sys2Proof.Machine

/-! ## Memory -/

/-- What an address that nothing has written reads as (log 2). -/
def unlisted : Byte := 0

/-- The byte at a key. -/
def Mem.get : Mem → Nat → Byte
  | [], _ => unlisted
  | (k, b) :: m, a => if a < k then unlisted else if a = k then b else Mem.get m a

/-- A byte put in front of a memory, unless it is what an unlisted address reads as. -/
def Mem.cons (a : Nat) (x : Byte) (m : Mem) : Mem := if x = unlisted then m else (a, x) :: m

/-- The memory with the byte at a key replaced; the canonical form is kept (log 2). -/
def Mem.set : Mem → Nat → Byte → Mem
  | [], a, x => Mem.cons a x []
  | (k, b) :: m, a, x =>
    if a < k then Mem.cons a x ((k, b) :: m)
    else if a = k then Mem.cons a x m
    else (k, b) :: Mem.set m a x

/-- The canonical form: addresses rise strictly from `lo`, and no entry equals what an unlisted address reads as. -/
def Mem.wfFrom : Nat → Mem → Bool
  | _, [] => true
  | lo, (k, b) :: m => decide (lo ≤ k) && decide (b ≠ unlisted) && Mem.wfFrom (k + 1) m

/-- The canonical form of a memory (log 2). -/
def Memory.wf (m : Mem) : Bool := Mem.wfFrom 0 m

/-- The bytes at keys, in order. -/
def Mem.getAll (m : Mem) (ks : List Nat) : List Byte := ks.map (Mem.get m)

/-- The memory with bytes written at keys, in order. -/
def Mem.setAll (m : Mem) : List (Nat × Byte) → Mem
  | [] => m
  | (k, b) :: r => Mem.setAll (Mem.set m k b) r

/-- The little-endian number in `n` bytes from a key (R3). -/
def Mem.num (m : Mem) (k n : Nat) : Nat := wordOfBytes (m.getAll ((List.range n).map (k + ·)))

/-- The memory with bytes written from a key on. -/
def Mem.setBytes (m : Mem) (k : Nat) (bs : List Byte) : Mem :=
  m.setAll (bs.zipIdx.map fun p => (k + p.2, p.1))

/-- The memory with a little-endian number written in `n` bytes (R3). -/
def Mem.setNum (m : Mem) (k n v : Nat) : Mem := m.setBytes k (bytesOfWord n v)

/-! ## Keys: one number for each byte of each space (R59, R61, R324) -/

/-- A byte of HBM or the CXL tier, by physical address. -/
def keyPhys (pa : Nat) : Nat := pa
/-- A byte of a cluster's team shared memory. -/
def keyShared (cl off : Nat) : Nat := 2 ^ 52 + cl * 2 ^ 20 + off
/-- A byte of a die's scratchpad. -/
def keyScratch (die off : Nat) : Nat := 2 ^ 53 + die * 2 ^ 26 + off
/-- A byte of host memory, which its bus address alone names: what a host makes of an access's PASID is the host's, so two contexts with
one host address share the byte (R73, log 113). Addresses that no leaf can hold, which only RSADDR can, lie above the peers' keys. -/
def keyHost (a : Nat) : Nat := if a < 2 ^ 54 then 2 ^ 54 + a else 2 ^ 80 + a
/-- A byte of a peer device's memory: device, context slot, remote virtual address (R332). -/
def keyPeer (dev slot va : Nat) : Nat := 2 ^ 56 + (dev * 64 + slot) * 2 ^ 56 + va

/-- The die of a cluster (R10). -/
def dieOf (cluster : Nat) : Nat := cluster / 32

/-- Whether a key is in host memory. -/
def isHostKey (k : Nat) : Bool := (decide (2 ^ 54 ≤ k) && decide (k < 2 ^ 55)) || decide (2 ^ 80 ≤ k)
/-- Whether a key is in a peer's memory. -/
def isPeerKey (k : Nat) : Bool := decide (2 ^ 56 ≤ k) && decide (k < 2 ^ 80)

/-- Whether a physical address lies in HBM (R324). -/
def inHbm (pa : Nat) : Bool := decide (pa < 12 * 2 ^ 36)
/-- Whether a physical address lies in HBM or the CXL tier (R324). -/
def inDram (pa : Nat) : Bool := inHbm pa || (decide (0x080000000000 ≤ pa) && decide (pa < 0x100000000000))
/-- Whether a physical range lies wholly in one row of R324. -/
def rangeDram (pa n : Nat) : Bool :=
  inDram pa && inDram (pa + n - 1) && inHbm pa == inHbm (pa + n - 1)
/-- The home die of a physical address (R9, R324). -/
def homeDie (pa : Nat) : Nat := if inHbm pa then pa / (3 * 2 ^ 36) else pa / 2 ^ 21 % 4

/-- The bytes of an access of `n` bytes: consecutive, or in the private layout (R61). -/
def byteKeys (pv : Bool) (k n : Nat) : List Nat :=
  (List.range n).map fun j => if pv then k + j / 4 * 128 + j % 4 else k + j

/-! ## Accessors -/

/-- The context of a slot. -/
def State.ctx (s : State) (k : Nat) : Context := s.ctxs.getD k {}
/-- The state with a context replaced. -/
def State.setCtx (s : State) (k : Nat) (c : Context) : State := { s with ctxs := s.ctxs.set k c }
/-- The cluster of a number. -/
def State.cl (s : State) (k : Nat) : Cluster := s.clusters.getD k {}
/-- The state with a cluster replaced. -/
def State.setCl (s : State) (k : Nat) (c : Cluster) : State := { s with clusters := s.clusters.set k c }
/-- The state with a group replaced. -/
def State.setG (s : State) (i : Nat) (g : Group) : State := { s with groups := s.groups.set i g }
/-- The state with a group changed. -/
def State.mapG (s : State) (i : Nat) (f : Group → Group) : State := { s with groups := s.groups.modify i f }
/-- The state with a report. -/
def State.report (s : State) (l : Last) : State := { s with last := l }
/-- Floating-point operations of an engine's command are counted for its launch while that is measured (R296). -/
def State.addFlops (s : State) (slot lage n : Nat) : State :=
  let c := s.ctx slot
  s.setCtx slot { c with meas := c.meas.map fun (m : Measure) => if m.lage == lage then { m with flops := m.flops + n } else m }
/-- Floating-point operations of a group are counted (R296). -/
def Group.countFlops (g : Group) (n : Nat) : Group := { g with flops := g.flops + n }
/-- The team of a tag. -/
def State.team (s : State) (tag : Nat) : Option Team := s.teams.find? (·.tag == tag)
/-- The launch of an age. -/
def State.launch (s : State) (age : Nat) : Option Launch := s.launches.find? (·.age == age)
/-- The state with a launch changed. -/
def State.mapL (s : State) (age : Nat) (f : Launch → Launch) : State :=
  { s with launches := s.launches.map fun l => if l.age == age then f l else l }
/-- The group in a place. -/
def State.groupAt (s : State) (id : Gid) : Option Nat := s.groups.findIdx? (·.gid == id)

/-- The path of an identifier. -/
def Group.path (g : Group) (pid : Nat) : Option Path := g.paths.find? (·.id == pid)
/-- The group with a path changed. -/
def Group.mapPath (g : Group) (pid : Nat) (f : Path → Path) : Group :=
  { g with paths := g.paths.map fun p => if p.id == pid then f p else p }
/-- The group with an entry changed. -/
def Group.mapEnt (g : Group) (id : Nat) (f : REntry → REntry) : Group :=
  { g with ents := g.ents.map fun e => if e.id == id then f e else e }
/-- The number of a completion flag raised by one. -/
def Group.raiseFlag (g : Group) (f : Option Nat) : Group :=
  match f with
  | some k => { g with flags := g.flags.modify k (· + 1) }
  | none => g
/-- A completion flag lowered by one (R48). -/
def Group.lowerFlag (g : Group) (f : Option Nat) : Group :=
  match f with
  | some k => { g with flags := g.flags.modify k (· - 1) }
  | none => g

/-- The bytes of an access lie in private layout, each word 128 bytes from the last (R61). -/
def Op.pv (o : Op) : Bool := o.sp == .p

/-- An operation joins the group's operations in flight, raises its flag and is counted (R48, R227). -/
def Group.addOp (g : Group) (o : Op) : Group :=
  let g := (g.raiseFlag o.flag).raiseFlag o.flag2
  { g with ops := g.ops ++ [o], acks := if o.counted then g.acks + 1 else g.acks }

/-- An operation joins the commit buffer of a D-mode group (R236). -/
def Group.bufOp (g : Group) (o : Op) : Group :=
  let g := (g.raiseFlag o.flag).raiseFlag o.flag2
  { g with cbuf := g.cbuf ++ [o], acks := if o.counted then g.acks + 1 else g.acks }

/-- A finished operation leaves: its flag falls and the acknowledgement counter with it (R48, R227). -/
def Group.dropOp (g : Group) (o : Op) : Group :=
  let g := (g.lowerFlag o.flag).lowerFlag o.flag2
  { g with ops := g.ops.filter (·.id != o.id), acks := if o.counted then g.acks - 1 else g.acks }

/-- An operation in flight replaced by a later form of itself. -/
def Group.setOp (g : Group) (o : Op) : Group :=
  { g with ops := g.ops.map fun p => if p.id == o.id then o else p }

/-- The aligned 64-byte line of a key. -/
def lineOf (k : Nat) : Nat := k / 64

/-- A path that watches one of the written lines is marked for waking (R278). -/
def Path.noteWrite (p : Path) (ls : List Nat) : Path := match p.st with
  | .parked line ports bound woken => { p with st := .parked line ports bound (woken || ls.contains line) }
  | _ => p

/-- The bytes of a step's location (R251), of an object that OBINIT writes or its header (R255, R257, R316), of a barrier (R267). -/
def KAct.bytes : KAct → Nat
  | .atom _ n _ | .cas n _ _ => n
  | .obinit _ _ k _ _ _ => 64 + 32 * (8 * 2 ^ k)
  | .ann _ _ _ _ | .help => 64
  | _ => 16

/-- The bytes, or the objects, that an operation accesses. -/
def Op.keys (o : Op) : List Nat :=
  match o.kind with
  | .load acc n _ _ _ _ => acc.flatMap fun p => byteKeys o.pv p.2 n
  | .store acc n => acc.flatMap fun p => byteKeys o.pv p.2.1 n
  | .fill acc n _ _ => acc.flatMap fun p => byteKeys o.pv p.2.1 n
  | .fetest acc _ _ => acc.flatMap fun p => byteKeys false (2 ^ 52 + 64 * p.2) 64
  | .kiln todo _ _ _ _ _ => todo.flatMap fun p => byteKeys false p.key p.act.bytes
  | _ => []

/-- X is before an operation of a path in program order (R213): the same path, a path that has ended or fused, or an
operation issued before the path existed. -/
def Group.before (g : Group) (x : Op) (pid born : Nat) : Bool :=
  x.pid == pid || decide (x.id < born) || !g.paths.any (·.id == x.pid)

/-- A path's watch of a line is armed once the path's earlier accesses to the line are performed (R278). -/
def Group.watches (g : Group) (p : Path) (line : Nat) : Bool :=
  !g.ops.any fun o => g.before o p.id p.born && o.keys.any fun k => lineOf k == line

/-- The paths of a group that watch written lines are marked for waking (R278). -/
def Group.noteWrite (g : Group) (ls : List Nat) : Group :=
  { g with paths := g.paths.map fun p => p.noteWrite (ls.filter (g.watches p)) }

/-- Bytes written to memory by any agent, in order; the watches on their lines are met (R278). -/
def State.write (s : State) (kvs : List (Nat × Byte)) : State :=
  let ls := (kvs.map fun p => lineOf p.1).eraseDups
  { s with
    mem := s.mem.setAll kvs,
    groups := s.groups.map fun g => g.noteWrite ls }

/-- A little-endian number of `n` bytes written at a key. -/
def State.writeNum (s : State) (k n v : Nat) : State :=
  s.write ((bytesOfWord n v).zipIdx.map fun p => (k + p.2, p.1))

/-- Bytes written from a key on. -/
def State.writeBytes (s : State) (k : Nat) (bs : List Byte) : State := s.write (bs.zipIdx.map fun p => (k + p.2, p.1))

/-! ## Fault codes (R337, R338) -/

/-- The classes of R338. -/
inductive FClass
  | replayable | fatal | direct | user | freeze | notice
  deriving DecidableEq, Repr

/-- The code of a fault (R337). -/
def FCode.num : FCode → Nat
  | .illegalOpcode => 0x0001 | .illegalEncoding => 0x0002 | .illegalOperand => 0x0003 | .illegalTarget => 0x0004
  | .lineParity => 0x0005 | .pairConflict => 0x0006 | .divergenceDepth => 0x0007 | .qsyncSplit => 0x0008
  | .addrRange => 0x0101 | .misaligned => 0x0102 | .sharedBound => 0x0103 | .privateBound => 0x0104
  | .privateGrow => 0x0105 | .pageAbsent => 0x0106 | .permission => 0x0107 | .spaceMismatch => 0x0108
  | .regspaceAccess => 0x0109 | .regspaceFault => 0x010A | .peerWindow => 0x010B | .peerRemote => 0x010C
  | .linkDown => 0x010D | .hostAbort => 0x010E | .eccUncorrected => 0x010F | .memTimeout => 0x0110
  | .ptMalformed => 0x0111
  | .queueUnderrun => 0x0201 | .queueOverrun => 0x0202 | .sliceDeadlock => 0x0203 | .asyncTimeout => 0x0204
  | .kvRange => 0x0205 | .kvUnmapped => 0x0206
  | .badFormat => 0x0301 | .matrixShape => 0x0302 | .tileBusy => 0x0303 | .sparseMeta => 0x0304
  | .treeInvalid => 0x0305 | .tokenRange => 0x0306 | .mapStale => 0x0307
  | .objRange => 0x0401 | .objKind => 0x0402 | .objArg => 0x0403 | .queueScope => 0x0404
  | .barrierRange => 0x0405 | .mailboxFault => 0x0406 | .sredMismatch => 0x0407 | .collMismatch => 0x0408
  | .collAbort => 0x0409
  | .badDescriptor => 0x0501 | .badLaunch => 0x0502 | .launchOverflow => 0x0503 | .timer => 0x0504
  | .userTrap => 0x0505 | .breakpoint => 0x0506 | .contextReset => 0x0507 | .signalFault => 0x0508

/-- The class of a code (R337). A notice code that a group's own instruction raises acts as Fatal (R338). -/
def FCode.cls : FCode → FClass
  | .privateGrow | .pageAbsent | .breakpoint => .replayable
  | .permission | .ptMalformed => .freeze
  | .regspaceFault | .memTimeout => .direct
  | .timer | .userTrap => .user
  | .mailboxFault | .sredMismatch | .collMismatch | .collAbort | .badDescriptor | .badLaunch | .launchOverflow
  | .contextReset | .signalFault => .notice
  | _ => .fatal

/-- The class of a fault: its code's; Fatal for one that a batch or a failed record brings (R337, R348); Direct for a store's late
fault (R75, log 107). -/
def FaultInfo.cls (f : FaultInfo) : FClass := if f.direct then .direct else if f.fatal then .fatal else f.code.cls

/-! ## Translation (R323-R327) -/

/-- Bit `i` of a table entry. -/
def ebit (e i : Nat) : Bool := e / 2 ^ i % 2 == 1
/-- Bits `[h:l]` of a table entry. -/
def ebits (e h l : Nat) : Nat := e / 2 ^ l % 2 ^ (h + 1 - l)

/-- The table or frame address in an entry. -/
def eaddr (e : Nat) : Nat := ebits e 51 13 * 2 ^ 13
/-- The page type of a leaf. -/
def etype (e : Nat) : Nat := ebits e 57 55
/-- The bytes of the page that a leaf maps. -/
def esize (e : Nat) : Nat := match ebits e 59 58 with
  | 0 => 2 ^ 16
  | 1 => 2 ^ 21
  | _ => 2 ^ 30

/-- A reserved field of an entry is not zero. -/
def eReserved (e : Nat) : Bool := ebits e 63 60 != 0 || ebits e 54 52 != 0 || ebits e 12 6 != 0

/-- A leaf at this level is well formed (R323-R325). -/
def leafOk (level e : Nat) : Bool :=
  !eReserved e && ebits e 59 58 != 3 && decide (etype e ≤ 4) &&
    ((level == 2 && ebits e 59 58 == 2) || (level == 1 && decide (ebits e 59 58 ≤ 1))) &&
    eaddr e % esize e == 0 &&
    (etype e == 1 || rangeDram (eaddr e) (esize e)) &&
    (etype e != 4 || (ebits e 59 58 == 0 && inHbm (eaddr e)))

/-- A non-leaf entry is well formed (R323-R325). -/
def tableOk (e : Nat) : Bool :=
  !eReserved e && ebits e 59 58 == 0 && etype e == 0 && rangeDram (eaddr e) (2 ^ 13)

/-- The walk of R323 from a table at a level: the leaf entry, PAGE_ABSENT, or PT_MALFORMED. -/
def walk (m : Mem) (va : Nat) : Nat → Nat → Except FCode Nat
  | 0, _ => .error .ptMalformed
  | level + 1, table =>
    let idx := va / 2 ^ (16 + 10 * level) % 1024
    let e := m.num (table + 8 * idx) 8
    if !ebit e 0 then .error .pageAbsent
    else if ebit e 1 then
      if leafOk (level + 1) e then .ok e else .error .ptMalformed
    else if level = 0 then .error .ptMalformed
    else if tableOk e then walk m va level (eaddr e)
    else .error .ptMalformed

/-- An agent in no cluster (the front end, the host, a Kiln): its translations are cached in no buffer (log 93). -/
def noCluster : Nat := 128

/-- A context's page in a translation buffer. -/
def tlbFind (es : List TlbEntry) (slot va : Nat) : Option Nat :=
  (es.find? fun e => e.slot == slot && e.page == va / 2 ^ 16).map (·.leaf)

/-- The leaf that a cluster's L1 TLB, or its die's L2 TLB, holds for a page (R326). -/
def State.cached (s : State) (cl slot va : Nat) : Option Nat :=
  match tlbFind (s.tlbs.l1.getD cl []) slot va with
  | some e => some e
  | none => tlbFind (s.tlbs.l2.getD (dieOf cl) []) slot va

/-- A context's walk of its tables (R323). -/
def State.walkOf (s : State) (slot va : Nat) : Except FCode Nat :=
  walk s.mem va 4 ((s.ctx slot).ptbase.toNat / 2 ^ 13 * 2 ^ 13 % 2 ^ 52)

/-- The leaf of a virtual address of a context, for an agent of a cluster: a cached one (R326), else a walk. -/
def State.leaf (s : State) (cl slot va : Nat) : Except FCode Nat :=
  match s.cached cl slot va with
  | some e => .ok e
  | none => s.walkOf slot va

/-- What an access needs of its page: its types, and RD, W, X, AT (R63, R325). -/
structure Need where
  types : List Nat
  r : Bool := false
  w : Bool := false
  x : Bool := false
  at_ : Bool := false
  deriving DecidableEq, Repr

/-- The key that a leaf gives a virtual address. -/
def leafKey (e va : Nat) : Nat :=
  let pa := eaddr e + va % esize e
  if etype e = 1 then keyHost pa else keyPhys pa

/-- Translation under R325: the type fault comes before PERMISSION. -/
def State.translate (s : State) (cl slot va : Nat) (n : Need) : Except FCode Nat :=
  match s.leaf cl slot va with
  | .error c => .error c
  | .ok e =>
    if !n.types.contains (etype e) then .error (if etype e = 3 then .regspaceAccess else .spaceMismatch)
    else if (n.r && !ebit e 2) || (n.w && !ebit e 3) || (n.x && !ebit e 4) || (n.at_ && !ebit e 5) then .error .permission
    else .ok (leafKey e va)

/-- An entry put into a translation buffer of `n` entries; a full buffer gives up the one that the device picks (R326, log 93). -/
def tlbPut (n pick : Nat) (e : TlbEntry) (es : List TlbEntry) : List TlbEntry :=
  if (tlbFind es e.slot (e.page * 2 ^ 16)).isSome then es
  else (if es.length < n then es else es.eraseIdx (pick % es.length)) ++ [e]

/-- The translation of a page, once used, is held by the cluster's L1 TLB and its die's L2 TLB (R326). -/
def State.noteTlb (s : State) (cl slot va : Nat) : State :=
  match s.leaf cl slot va with
  | .ok e =>
    let put (n : Nat) := tlbPut n (Config.tlbVictim s.free va) ⟨slot, va / 2 ^ 16, e⟩
    { s with tlbs := ⟨s.tlbs.l1.modify cl (put 256), s.tlbs.l2.modify (dieOf cl) (put 16384)⟩ }
  | .error _ => s

/-- The translations of several addresses are held. -/
def State.noteTlbs (s : State) (cl slot : Nat) (vas : List Nat) : State := vas.foldl (fun t v => t.noteTlb cl slot v) s

/-- A normal page to read. -/
def needR : Need := { types := [0], r := true }
/-- A normal page to write. -/
def needW : Need := { types := [0], w := true }

/-- The keys of `n` bytes from a virtual address, or the first fault and its address. -/
def State.rangeKeys (s : State) (cl slot va n : Nat) (nd : Need) : Except (FCode × Nat) (List Nat) :=
  (List.range n).mapM fun i => match s.translate cl slot ((va + i) % 2 ^ 64) nd with
    | .ok k => .ok k
    | .error c => .error (c, (va + i) % 2 ^ 64)

/-- A little-endian number read from a context's normal pages. -/
def State.readV (s : State) (cl slot va n : Nat) : Except (FCode × Nat) Nat :=
  match s.rangeKeys cl slot va n needR with
  | .ok ks => .ok (wordOfBytes (s.mem.getAll ks))
  | .error e => .error e

/-- A little-endian number written to a context's normal pages. -/
def State.writeV (s : State) (cl slot va n v : Nat) : Except (FCode × Nat) State :=
  match s.rangeKeys cl slot va n needW with
  | .ok ks => .ok (s.write (ks.zip (bytesOfWord n v)))
  | .error e => .error e

/-! ## Tlanto windows (R74, R332) -/

/-- The four words of a window entry: control, length, remote base, reserved parts zero. -/
structure Window where
  ok : Bool
  write : Bool
  atomic : Bool
  slot : Nat
  dev : Nat
  len : Nat
  rva : Nat
  deriving DecidableEq, Repr

/-- A window entry from its words (R332): a reserved bit that is set counts as V = 0. -/
def windowOf (ws : List Nat) : Window :=
  let c := ws.getD 0 0
  let len := ws.getD 1 0
  let rva := ws.getD 2 0
  let reserved := ebits c 7 3 != 0 || ebits c 15 14 != 0 || ebits c 63 28 != 0 || ws.getD 3 0 != 0 ||
    len % 2 ^ 16 != 0 || decide (2 ^ 50 < len) || rva % 2 ^ 16 != 0 || decide (2 ^ 56 ≤ rva)
  { ok := ebit c 0 && !reserved, write := ebit c 1, atomic := ebit c 2, slot := ebits c 13 8, dev := ebits c 27 16, len := len, rva := rva }

/-- The window `w` of a context: the cached entry, else the table's (R332). -/
def State.window (s : State) (slot w : Nat) : Window :=
  let c := s.ctx slot
  match c.wins.find? (·.1 == w) with
  | some p => windowOf p.2
  | none =>
    if c.wintab = 0 then windowOf []
    else windowOf ((List.range 4).map fun i => s.mem.num (c.wintab.toNat + 32 * w + 8 * i) 8)

/-- A window's entry enters the context's cache (R332). -/
def State.noteWin (s : State) (slot va : Nat) : State :=
  let c := s.ctx slot
  let w := va / 2 ^ 50 % 64
  if c.wins.any (·.1 == w) || c.wintab == 0 then s
  else s.setCtx slot { c with wins := c.wins ++ [(w, (List.range 4).map fun i => s.mem.num (c.wintab.toNat + 32 * w + 8 * i) 8)] }

/-- The key of a peer access of `n` bytes, or PEER_WINDOW (R74). -/
def State.peerKey (s : State) (slot va n : Nat) (wr at_ : Bool) : Except FCode Nat :=
  let w := s.window slot (va / 2 ^ 50 % 64)
  let o := va % 2 ^ 50
  if !w.ok || decide (w.len < o + n) || (wr && !w.write) || (at_ && !w.atomic) then .error .peerWindow
  else .ok (keyPeer w.dev w.slot ((w.rva + o) % 2 ^ 56))

/-! ## Scratchpad, shared and private bounds (R70-R72) -/

/-- The team of a group. -/
def State.teamOf (s : State) (g : Group) : Option Team := s.team g.tag

/-- The key of a team-shared access, or SHARED_BOUND (R70). -/
def State.sharedKey (s : State) (g : Group) (a n : Nat) : Except FCode Nat :=
  match s.teamOf g with
  | some t => if t.shBytes < a + n then .error .sharedBound else .ok (keyShared t.cluster (t.shBase + a))
  | none => .error .sharedBound

/-- The scratchpad bytes of a context on a die (R319). -/
def Context.scratchBytes (c : Context) (die : Nat) : Nat := c.scratch.toNat / 2 ^ (8 * die) % 256 * 2 ^ 20

/-- The key of a scratch access, or SHARED_BOUND (R71). -/
def State.scratchKey (s : State) (slot a n : Nat) : Except FCode Nat :=
  let c := s.ctx slot
  let die := a / 2 ^ 26 % 4
  let off := a % 2 ^ 26
  if 2 ^ 28 ≤ a ∨ c.scratchBytes die < off + n then .error .sharedBound
  else .ok (keyScratch die (c.scrBase.getD die 0 + off))

/-- The virtual address of lane `l`'s private byte `o` (R61, R62). -/
def privateVa (c : Context) (id : Gid) (l o : Nat) : Nat :=
  c.pvbase.toNat + (id.cluster * 64 + id.part * 16 + id.slot) * 32 * (c.plimit.toNat * 2048) + o / 4 * 128 + 4 * l + o % 4

/-- A 64-bit space (R59). -/
def MSpace.wide : MSpace → Bool
  | .g | .x | .h => true
  | _ => false

/-- check_space of R68: the key of one lane's access, or the fault and its address. `wr` a write, `at_` an atomic. -/
def State.spaceKey (s : State) (g : Group) (sp : MSpace) (l a n : Nat) (rd wr at_ : Bool) : Except (FCode × Nat) Nat :=
  let lift (x : Except FCode Nat) : Except (FCode × Nat) Nat := match x with
    | .ok k => .ok k
    | .error c => .error (c, a)
  match sp with
  | .s => lift (s.sharedKey g a n)
  | .d => lift (s.scratchKey g.slot a n)
  | .g => lift (s.translate g.gid.cluster g.slot a { types := if at_ then [0, 4] else [0], r := rd, w := wr, at_ := at_ })
  | .h => lift (s.translate g.gid.cluster g.slot a { types := [1], r := rd, w := wr, at_ := at_ })
  | .x => lift (s.peerKey g.slot a n wr at_)
  | .p =>
    let c := s.ctx g.slot
    if c.plimit.toNat * 2048 < a + n then .error (.privateBound, a)
    else
      let va := privateVa c g.gid l a
      match s.translate g.gid.cluster g.slot va { types := [2], r := rd, w := wr } with
      | .ok k => .ok k
      | .error .pageAbsent => .error (.privateGrow, va)
      | .error c => .error (c, va)

/-! ## Lines (R44-R46) -/

/-- The bytes of a line, or the fetch fault (R46). -/
def State.lineBytesAt (s : State) (cl slot la : Nat) : Except FCode (List Byte) :=
  if 2 ^ 56 ≤ la then .error .addrRange
  else match s.translate cl slot la { types := [0], x := true } with
    | .ok k => .ok (s.mem.getAll ((List.range 64).map (k + ·)))
    | .error c => .error c

/-- The offset of an address within its line names a slot (R46). -/
def slotOk (a : Nat) : Bool := decide (a % 64 ∈ [0, 12, 24, 36, 48])

/-- R158's check of a target: its form, and its line's TARGET bit. A line that cannot be fetched gives its fetch
fault, with the line's address (log 11). -/
def State.checkTarget (s : State) (cl slot a : Nat) : Except (FCode × Nat) Unit :=
  if 2 ^ 56 ≤ a ∨ !slotOk a then .error (.illegalTarget, a)
  else match s.lineBytesAt cl slot (a / 64 * 64) with
    | .error c => .error (c, a / 64 * 64)
    | .ok bs => if (Line.ofBytes (a / 64 * 64) bs).target (a % 64 / 12) then .ok () else .error (.illegalTarget, a)

/-- An address names a slot marked in TARGET (R29, R340). -/
def State.isTarget (s : State) (cl slot a : Nat) : Bool :=
  match s.checkTarget cl slot a with
  | .ok _ => true
  | .error _ => false

/-- The virtual addresses whose translations an access used. -/
def transVas (c : Context) (id : Gid) (sp : MSpace) (acc : List (Nat × Nat × Nat)) : List Nat :=
  match sp with
  | .g | .h => acc.map (fun p => p.2.1)
  | .p => acc.map fun p => privateVa c id p.1 p.2.1
  | _ => []

/-- The translations and windows that an access used enter the caches (R326, R332). -/
def State.noteAcc (s : State) (g : Group) (sp : MSpace) (acc : List (Nat × Nat × Nat)) : State :=
  match sp with
  | .x => acc.foldl (fun t p => t.noteWin g.slot p.2.1) s
  | _ => s.noteTlbs g.gid.cluster g.slot (transVas (s.ctx g.slot) g.gid sp acc)

/-- The address of the next slot (R159). -/
def nextAddr (a : Nat) : Nat := if a % 64 = 48 then a + 16 else a + 12

/-! ## Records and freezing (R330, R340, R345-R347) -/

/-- WHO of R330. -/
def Gid.who (g : Gid) : Nat := g.cluster + g.part * 2 ^ 7 + g.slot * 2 ^ 9

/-- The fields of a record (R346). -/
structure Rec where
  code : Nat
  kind : Nat
  stop : Bool := false
  nest : Bool := false
  master : Nat := 0
  addr : Nat := 0
  pc : Nat := 0
  apc : Nat := 0
  who : Nat := 0
  info : Nat := 0
  lage : Nat := 0
  tidx : Nat := 0
  deriving DecidableEq, Repr

/-- The physical address of a trap queue's header (R345). -/
def Context.tqHeader (c : Context) : Nat := c.tqbase.toNat / 64 * 64 % 2 ^ 52
/-- The capacity of a trap queue (R345). -/
def Context.tqN (c : Context) : Nat := 2 ^ (8 + c.tqbase.toNat % 16)

/-- The MSI-X vector is raised, or held back to the end of the microsecond (R346). -/
def State.raiseMsix (s : State) (slot : Nat) : State :=
  let c := s.ctx slot
  if c.msix = 0 ∨ c.msixAt + 3600 ≤ s.clock.toNat then
    s.setCtx slot { c with msix := c.msix + 1, msixAt := s.clock.toNat, msixHeld := false }
  else s.setCtx slot { c with msixHeld := true }

/-- The free records of a context's trap queue (R347). -/
def State.tqFree (s : State) (slot : Nat) : Nat :=
  let c := s.ctx slot
  let used := (s.mem.num c.tqHeader 4 + 2 ^ 32 - s.mem.num (c.tqHeader + 4) 4) % 2 ^ 32
  c.tqN - used

/-- The record is written, then PROD, and the vector raised (R346): its sequence number and the state. -/
def State.writeRec (s : State) (slot : Nat) (r : Rec) : Nat × State :=
  let c := s.ctx slot
  let h := c.tqHeader
  let prod := s.mem.num h 4
  let a := h + 64 + 64 * (prod % c.tqN)
  let code := r.code + r.kind * 2 ^ 16 + r.stop.toNat * 2 ^ 18 + r.nest.toNat * 2 ^ 19 + r.master * 2 ^ 20
  let m := (bytesOfWord 4 prod ++ bytesOfWord 4 code ++ bytesOfWord 8 r.addr ++ bytesOfWord 8 r.pc ++
    bytesOfWord 8 r.apc ++ bytesOfWord 4 r.who ++ bytesOfWord 4 r.info ++ bytesOfWord 8 r.lage ++ bytesOfWord 8 r.tidx ++
    bytesOfWord 8 0)
  let s := s.write (m.zipIdx.map fun p => (a + p.2, p.1))
  (prod, (s.writeNum h 4 (prod + 1)).raiseMsix slot)

/-- A fatal or notice record (R347): posted when one is free, else OVF rises, saturating. -/
def State.post (s : State) (slot : Nat) (r : Rec) : State :=
  if 1 ≤ s.tqFree slot then (s.writeRec slot r).2
  else
    let a := (s.ctx slot).tqHeader + 8
    s.writeNum a 4 (min (s.mem.num a 4 + 1) (2 ^ 32 - 1))

/-- The order in which a freeze record prefers its master (R331): by cluster, groups before engines, then issue partition and slot; the
front end, which has no cluster, comes last (log 109). -/
def freezeRank (master who : Nat) : Nat :=
  (if master = 5 then 128 else who % 2 ^ 7) * 2 ^ 7 + (if master = 0 then 0 else 2 ^ 6) + who / 2 ^ 7 % 4 * 2 ^ 4 + who / 2 ^ 9 % 2 ^ 4

/-- A violation (R330, R331): an active context freezes with its record and its vector is raised once; another violation in the cycle
that froze it takes the record over when its master comes first; otherwise only COUNT rises. -/
def State.freeze (s : State) (slot code master who addr pc : Nat) : State :=
  let c := s.ctx slot
  let n : Word := if c.freeze.count = 0xFFFFFFFF then c.freeze.count else c.freeze.count + 1
  let f : Freeze := ⟨BitVec.ofNat 32 (code + master * 2 ^ 16), BitVec.ofNat 32 who, BitVec.ofNat 64 addr, BitVec.ofNat 64 pc, n⟩
  let old := freezeRank (c.freeze.cause.toNat / 2 ^ 16) c.freeze.who.toNat
  match c.state with
  | .active => State.raiseMsix (s.setCtx slot { c with state := .frozen, freeze := f, frozenAt := s.clock.toNat }) slot
  | .frozen =>
    s.setCtx slot { c with freeze := if c.frozenAt = s.clock.toNat ∧ freezeRank master who < old then f else { c.freeze with count := n } }
  | _ => s.setCtx slot { c with freeze := { c.freeze with count := n } }

/-- The masters of a context go on: it is active, or it froze in this very cycle (R330, R331). -/
def State.going (s : State) (slot : Nat) : Bool :=
  let c := s.ctx slot
  c.state == .active || (c.state == .frozen && c.frozenAt == s.clock.toNat)

/-- TIDX of a group (R23). -/
def Group.tidx (g : Group) : Nat := g.tx + g.ty * 2 ^ 32 + g.tz * 2 ^ 48

/-! ## Stopping a group: replayable records (R338, R347) -/

/-- The A-slice address for a record or frame: with AHALT when the A-slice was halted by a fault (R343). -/
def Group.ahalted (g : Group) : Bool := match g.ast with
  | .halted _ _ _ => true
  | _ => false

/-- The INFO word of a fault's record (R346): FINFO[63:32], or the lowest faulting lane. -/
def FaultInfo.recInfo (f : FaultInfo) : Nat := f.info.getD f.lane

/-- A stopped group posts its replayable record when more than four are free and its context is active (R347). -/
def State.postReplayable (s : State) (gi : Nat) : State :=
  match s.groups[gi]? with
  | some g =>
    match g.st with
    | .stopped f pc pid none =>
      let c := s.ctx g.slot
      if c.state = .active ∧ 4 < s.tqFree g.slot then
        let (seq, s) := s.writeRec g.slot
          { code := f.code.num, kind := 0, addr := f.addr, pc := pc, apc := if f.aorg.isSome then g.apc else 0, who := g.gid.who,
            info := f.recInfo, lage := g.lage, tidx := g.tidx }
        let c := s.ctx g.slot
        (s.setCtx g.slot { c with recs := c.recs ++ [⟨seq, some g.gid, none⟩] }).setG gi { g with st := .stopped f pc pid (some seq) }
      else s
    | _ => s
  | none => s

/-- A group stops under a replayable fault: no path and no A-slice issues, no frame is written (R338). -/
def State.stopReplayable (s : State) (gi : Nat) (f : FaultInfo) (pc pid : Nat) : State :=
  (s.mapG gi fun g => { g with st := .stopped f pc pid none }).postReplayable gi

/-! ## Taking a trap (R339-R344) -/

/-- A plain load of R339. -/
def Op.isPlain (o : Op) : Bool := o.plain

/-- An operation whose reply a trap waits for (R249, R339 step 1): a Kiln request but RED's, a message, a launch, an
`.TAKE`, an LDQ in flight. -/
def Op.awaited (o : Op) : Bool :=
  match o.kind with
  | .kiln _ _ _ _ _ _ => o.ok != .st && o.ok != .rl
  | .msend _ _ _ _ => true
  | .launch _ _ => true
  | .ldq _ _ _ => true
  | .load _ _ _ _ _ _ => !o.plain
  | _ => false

/-- The replay entry of a cancelled load (R339, R344). -/
def Op.rqEntry (o : Op) : RqEntry :=
  let lanesOf : List Nat := match o.kind with
    | .load acc _ _ _ uni _ => if uni then [0] else acc.map (fun p => p.1)
    | _ => []
  { st := if o.late.isSome then 2 else 1, op := { o with late := none, flag2 := none }, mask := lanesOf.foldl (fun m l => m ||| (1#32 <<< l)) 0,
    code := match o.late with
      | some f => f.code.num
      | none => 0 }

/-- The base of a group's record in the context save area (R357). -/
def Context.csaGroup (c : Context) (id : Gid) : Nat :=
  c.csabase.toNat / 2 ^ 16 * 2 ^ 16 % 2 ^ 52 + 0x10000 + 0x8000 * (64 * id.cluster + 16 * id.part + id.slot)

/-- FINFO (R343). -/
def FaultInfo.finfo (f : FaultInfo) : Nat := f.lane % 256 + f.aorg.getD 0 * 2 ^ 8 + f.info.getD 0 * 2 ^ 32
/-- FCODE (R343). -/
def FaultInfo.fcode (f : FaultInfo) : Nat :=
  f.code.num + f.aorg.isSome.toNat * 2 ^ 16 + f.late.toNat * 2 ^ 17 + f.hi.toNat * 2 ^ 18

/-- Bytes of zero. -/
def zeros (n : Nat) : List Byte := List.replicate n 0

/-- The bytes of a replay entry (R344). -/
def RqEntry.bytes (r : RqEntry) : List Byte :=
  bytesOfWord 12 r.op.word.toNat ++ bytesOfWord 4 r.st ++ bytesOfWord 8 r.op.pc ++ bytesOfWord 4 r.code ++
    bytesOfWord 4 r.mask.toNat ++ bytesOfWord 4 (r.op.flag.getD 15) ++ zeros 28

/-- The operand block of a replay entry (R344): lane `l`'s address at `8 · l`. -/
def RqEntry.operands (r : RqEntry) : List Byte :=
  (List.range 64).flatMap fun l => bytesOfWord 8 (match r.op.addrs.find? (·.1 == l) with
    | some p => p.2
    | none => 0)

/-- The bytes of one queue's QSTATE (R343). -/
def qstateBytes (head : Nat) (q : List QPos) : List Byte :=
  let marks := q.zipIdx.foldl (fun m p => match p.1 with
    | .fault _ => m + 2 ^ ((head + p.2) % 16)
    | _ => m) 0
  bytesOfWord 8 (head % 16 + q.length * 2 ^ 4 + marks * 2 ^ 16)

/-- The fields CPC to RQLIVE of a frame (R343). -/
def Frame.bytes (f : Frame) : List Byte :=
  bytesOfWord 8 f.cpc ++ bytesOfWord 8 (f.apc + f.ahalt.toNat * 2 ^ 63) ++ bytesOfWord 8 f.fpc ++ bytesOfWord 8 f.faddr ++
  bytesOfWord 4 f.fcode ++ bytesOfWord 4 f.fmask.toNat ++ bytesOfWord 8 f.finfo ++ bytesOfWord 4 f.rqlive

/-- The replay entries of a frame (R343, R344). -/
def rqBytes (rq : List RqEntry) : List Byte :=
  (List.range 8).flatMap fun i => match rq[i]? with
    | some r => r.bytes
    | none => zeros 64

/-- The 1 KiB image of a trap frame or save frame (R343). -/
def Group.frameBytes (g : Group) (f : Frame) (npaths : Nat) : List Byte :=
  f.bytes ++ bytesOfWord 4 (g.inh.toNat + g.held.toNat * 2 + npaths * 16) ++ bytesOfWord 4 g.lastb.toNat ++ bytesOfWord 4 g.openN ++
  g.flags.flatMap (bytesOfWord 1) ++ bytesOfWord 4 0 ++
  ((List.range 4).flatMap fun i => qstateBytes (g.qh.getD i 0) (g.q.getD i [])) ++
  ((List.range 8).flatMap fun i => bytesOfWord 4 (g.qb.getD i 0).toNat) ++ bytesOfWord 4 g.qb.length ++
  zeros 108 ++ rqBytes g.rq ++ zeros 256

/-- The bytes of a stack entry (R357). -/
def entBytes (e : REntry) : List Byte :=
  bytesOfWord 4 (e.tok.toNat + e.deferred.isSome.toNat * 256) ++ bytesOfWord 4 e.mask.toNat ++
    bytesOfWord 8 (match e.deferred with
      | some d => d.pc
      | none => 0)

/-- The bytes of a path record (R357): a path without a split-table entry is the group's, one with an entry a detached fragment. -/
def pathBytes (ents : List REntry) (p : Path) : List Byte :=
  let stk := p.stack.reverse.filterMap fun i => ents.find? (·.id == i)
  let kind := match p.st with
    | .wait _ => 3
    | _ => if p.split.isNone then 1 else 2
  let parked := match p.st with
    | .parked _ _ _ _ => 16
    | _ => 0
  bytesOfWord 8 p.pc ++ bytesOfWord 4 p.exec.toNat ++ bytesOfWord 4 (kind + parked + p.split.getD 0 * 256) ++
    bytesOfWord 4 stk.length ++ zeros 12 ++
    ((List.range 16).flatMap fun i => match stk[i]? with
      | some e => entBytes e
      | none => zeros 16) ++ zeros 32

/-- The 3 KiB image of a path area (R357): nine paths at most (log 97). -/
def pathArea (ents : List REntry) (all : List Path) : List Byte :=
  let ps := all.take 9
  (ps.flatMap (pathBytes ents)) ++ zeros ((9 - ps.length) * 320) ++ zeros 192

/-- The frame, path area and operand blocks of a trap are written to the context save area (R343, R357). -/
def State.writeFrame (s : State) (g : Group) (f : Frame) (save : Bool) (ents : List REntry) (ps : List Path) : State :=
  let b := (s.ctx g.slot).csaGroup g.gid
  let ops := (List.range 8).flatMap fun i => match g.rq[i]? with
    | some r => r.operands
    | none => zeros 512
  ((s.writeBytes (b + (if save then 0x400 else 0)) (g.frameBytes f ps.length)).writeBytes
    (b + (if save then 0x1400 else 0x800)) (pathArea ents ps)).writeBytes (b + (if save then 0x3000 else 0x2000)) ops

/-- The mask with bit `i` set for each live replay entry (R343). -/
def rqLive (rq : List RqEntry) : Nat :=
  rq.zipIdx.foldl (fun m p => if p.1.st = 1 ∨ p.1.st = 2 then m + 2 ^ p.2 else m) 0

/-- The plain loads in flight are cancelled into the replay queue, their flags fall, and the others stay (R339, R48). -/
def Group.cancelLoads (g : Group) : Group :=
  let ls := g.ops.filter Op.isPlain
  let g' := ls.foldl (fun h o => (h.lowerFlag o.flag).lowerFlag o.flag2) g
  { g' with rq := (ls.map Op.rqEntry).take 8, ops := g.ops.filter (fun o => !o.isPlain) }

/-- A paused path: its latched line is dropped, since a resumption enters its line again (R47). -/
def Path.unlatch (p : Path) : Path := { p with line := none }

/-- A parked path resumes as if woken (R278). -/
def Path.wake (p : Path) : Path := match p.st with
  | .parked _ _ _ _ => { p with st := .run, line := none }
  | _ => p.unlatch

/-- The handler's path (R341). -/
def handlerPath (id pc now : Nat) : Path := { id := id, pc := pc, exec := 0xFFFFFFFF, held := 0xFFFFFFFF, since := now }

/-- HSTATE of a group's trap frame follows INH and a held timer (R341, R343, R351); `n` paths are kept. -/
def State.syncHstate (s : State) (gi n : Nat) : State :=
  match s.groups[gi]? with
  | some g =>
    if g.frame.isSome then
      s.writeNum ((s.ctx g.slot).csaGroup g.gid + 0x34) 4 (g.inh.toNat + g.held.toNat * 2 + n * 16)
    else s
  | none => s

/-- The fault is delivered (R340): the user handler is entered (R341), or a fatal record is posted and the context freezes. A
Direct fault keeps its code whatever TVEC holds (R34, log 94). -/
def State.deliver (s : State) (gi : Nat) (f : FaultInfo) (fpc : Nat) : State :=
  match s.groups[gi]? with
  | none => s
  | some g =>
    let tv := g.regs.tvec.toNat
    let cls := f.cls
    let marked := s.isTarget g.gid.cluster g.slot tv
    if cls ≠ .direct ∧ ¬ g.inh ∧ tv ≠ 0 ∧ marked then
      (s.setG gi { g with inh := true, st := .run, paths := [handlerPath g.nextPid tv s.clock.toNat], ents := [], nextPid := g.nextPid + 1 }).syncHstate gi g.trapPaths.length
    else
      let code : FCode := if cls ≠ .direct ∧ tv ≠ 0 ∧ ¬ marked then .illegalTarget else f.code
      let s := s.post g.slot
        { code := code.num, kind := 1, stop := true, nest := g.inh, addr := f.addr, pc := fpc, apc := if f.aorg.isSome then g.apc else 0,
          who := g.gid.who, info := f.recInfo, lage := g.lage, tidx := g.tidx }
      (s.freeze g.slot code.num 0 g.gid.who f.addr fpc).mapG gi fun g => { g with st := .dead }

/-- The trap frame of a trapping group (R339 step 5, R343). -/
def Group.trapFrame (g : Group) (f : FaultInfo) (fpc cpc pid : Nat) : Frame where
  cpc := cpc
  apc := g.apc
  ahalt := g.ahalted
  fpc := fpc
  fcode := f.fcode
  faddr := f.addr
  fmask := match g.path pid with
    | some p => p.exec
    | none => 0
  finfo := f.finfo
  rqlive := rqLive g.rq

/-- Taking a trap (R339): once no awaited operation is left, the plain loads are cancelled into the replay queue, the
frame is written, the paths are kept, and the fault is delivered. The faulting path stands first among the paths kept. -/
def State.takeTrap (s : State) (gi : Nat) : State :=
  match s.groups[gi]? with
  | none => s
  | some g =>
    match g.st with
    | .trapping f fpc cpc pid =>
      if g.ops.any Op.awaited then s
      else
        let g := g.cancelLoads
        let fr := g.trapFrame f fpc cpc pid
        let ps := ((g.paths.filter (·.id == pid)) ++ (g.paths.filter (·.id != pid))).map Path.wake
        let g := { g with frame := some fr, trapPaths := ps, trapEnts := g.ents, trapAst := g.ast, rq := g.rq }
        let s := (s.setG gi g).writeFrame g fr false g.ents ps
        s.deliver gi f fpc
    | _ => s

/-- A fault stops its group (R338): a replayable record, a freeze, or a trap taken as soon as it can be. `fpc` and `cpc`
are the faulting and the resume address, `pid` the faulting path. -/
def State.raise (s : State) (gi : Nat) (f : FaultInfo) (fpc cpc pid : Nat) : State :=
  match s.groups[gi]? with
  | none => s
  | some g =>
    match f.cls with
    | .replayable => s.stopReplayable gi f fpc pid
    | .freeze =>
      (s.freeze g.slot f.code.num 0 g.gid.who f.addr fpc).mapG gi fun g => { g with st := .dead }
    | _ => (s.setG gi { g with st := .trapping f fpc cpc pid, bwait := [] }).takeTrap gi

/-! ## Returning from a trap (R351, R344) -/

/-- The accesses of a load made anew at the captured addresses: checked and translated as they stand now (R344, R327). -/
def State.rekey (s : State) (g : Group) (o : Op) : Except FaultInfo (Op × List (Nat × Nat × Nat)) :=
  match o.kind with
  | .load acc n sx d uni take =>
    match (acc.zip o.addrs).mapM fun (p : (Nat × Nat) × (Nat × Nat)) =>
      (match s.spaceKey g o.sp p.1.1 p.2.2 n true false false with
      | .ok k => .ok (p.1.1, p.2.2, k)
      | .error e => .error { code := e.1, addr := e.2, lane := p.1.1, late := true } : Except FaultInfo (Nat × Nat × Nat)) with
    | .ok xs => .ok ({ o with kind := .load (xs.map fun x => (x.1, x.2.2)) n sx d uni take, late := none }, xs)
    | .error f => .error f
  | _ => .ok ({ o with late := none }, [])

/-- A load is injected again: its accesses are made for its lanes at the captured addresses, its flag rises, and its
registers are awaited; a fault that the addresses meet now is a late one of the load (R344, R48, R351). -/
def State.inject (s : State) (gi : Nat) (o : Op) : State :=
  match s.groups[gi]? with
  | none => s
  | some g =>
    let s1 := { s with nextId := s.nextId + 1 }
    match s.rekey g o with
    | .ok (o', xs) => (s1.noteAcc g o.sp xs).mapG gi fun g => g.addOp { o' with id := s.nextId }
    | .error f => s1.mapG gi fun g => g.addOp { o with id := s.nextId, late := some f }

/-- The live entries of a replay queue are injected in increasing order (R351). -/
def State.reinjectAll (s : State) (gi live : Nat) (rq : List (RqEntry × Nat)) : State :=
  rq.foldl (fun s p => if live / 2 ^ p.2 % 2 = 1 ∧ (p.1.st = 1 ∨ p.1.st = 2) then s.inject gi p.1.op else s) s

/-- The entries of a replay queue that are to be injected. -/
def liveCount (live : Nat) (rq : List RqEntry) : Nat :=
  (rq.zipIdx.filter fun p => live / 2 ^ p.2 % 2 == 1 && (p.1.st == 1 || p.1.st == 2)).length

/-- The plain loads that a group has in flight, eight at most (R339). -/
def Group.plainLoads (g : Group) : Nat := (g.ops.filter Op.isPlain).length

/-- The paths kept by a trap stand again; the faulting one, which is first, takes CPC and FMASK (R351). -/
def restoredPaths (f : Frame) (ps : List Path) : List Path :=
  match ps with
  | [] => []
  | p :: r => { p with pc := f.cpc, exec := f.fmask, line := none } :: r

/-- A halted A-slice runs again from its halted instruction; the position that holds its fault is given up, to be filled
by the LDQ that issues again (R85). -/
def Group.resumeA (g : Group) (apc : Nat) : Group :=
  match g.ast with
  | .halted _ (some k) _ => { g with ast := .run, apc := apc, aline := none, astall := false, q := g.q.modify k List.dropLast }
  | .halted _ none _ => { g with ast := .run, apc := apc, aline := none, astall := false }
  | .run => { g with apc := apc, aline := none, astall := false }
  | _ => g

/-- TRAPRET's restoration (R351): the paths, the replay entries, the A-slice; INH falls. -/
def State.trapReturn (s : State) (gi : Nat) : State :=
  match s.groups[gi]? with
  | none => s
  | some g =>
    match g.frame with
    | none => s
    | some f =>
      let g' := { g with paths := restoredPaths f g.trapPaths, ents := g.trapEnts, trapPaths := [], trapEnts := [], inh := false, ast := g.trapAst }
      let g' := g'.resumeA f.apc
      let s := s.setG gi { g' with rq := [] }
      (s.reinjectAll gi f.rqlive (g.rq.zipIdx)).syncHstate gi g.trapPaths.length

/-- A timer that is held, or is due, raises TIMER before the next issue: FPC is zero and CPC the path's next instruction
(R29, R309, R341, R343). -/
def State.takeTimer (s : State) (gi : Nat) : State :=
  match s.groups[gi]? with
  | none => s
  | some g =>
    if g.inh then (s.setG gi { g with held := true, armed := false }).syncHstate gi g.trapPaths.length
    else match g.paths with
      | [] => s
      | p :: _ => (s.setG gi { g with held := false, armed := false }).raise gi { code := .timer } 0 p.pc p.id

/-- CLOCK as a group reads it (R27): its own count in D-mode, else its die's reading of the device count. -/
def State.clockOf (s : State) (g : Group) : DWord :=
  if g.dmode then g.retired else s.clock + BitVec.ofNat 64 (Config.dieSkew (dieOf g.gid.cluster) % 5)

/-- The count that the timer compares (R27, R29). -/
def State.timerCount (s : State) (g : Group) : Nat := (s.clockOf g).toNat % 2 ^ 48

/-- The timer of a group is due (R29). -/
def State.timerDue (s : State) (g : Group) : Bool :=
  let t := g.regs.tcmp.toNat % 2 ^ 48
  g.armed && t != 2 ^ 48 - 1 && decide (t ≤ s.timerCount g)

end Sys2Proof.Machine
end

