-- ==== Sys2Proof/Machine/Flags.lean ====
section
/-! DEFINITION. Predicates and the sticky IEEE flags P59-P63 (R20, R39, R127), and the lane masks. -/

namespace Sys2Proof.Machine

/-- The mask of the lanes for which `f` holds. -/
def maskOf (f : Nat → Bool) : Mask := lanes.foldl (fun m l => if f l then m ||| (1#32 <<< l) else m) 0

/-- The lowest lane of a mask, or lane 0 when it is empty (R39). -/
def lowLane (m : Mask) : Nat := (lanes.find? (fun l => m.getLsbD l)).getD 0

/-- The number of lanes of a mask. -/
def laneCount (m : Mask) : Nat := (lanes.filter (fun l => m.getLsbD l)).length

/-- Predicate `p` in lane `l`; P0 reads true (R20). -/
def Group.pred (g : Group) (p l : Nat) : Bool := p == 0 || (g.regs.p.getD p 0).getLsbD l

/-- A predicate written in the lanes where `f` gives a value; writes to P0 are ignored (R20, R58). -/
def Group.setP (g : Group) (p : Nat) (f : Nat → Option Bool) : Group :=
  if p = 0 then g
  else { g with regs := { g.regs with p := g.regs.p.modify p fun old => maskOf fun l => (f l).getD (old.getLsbD l) } }

/-- A predicate written with one value in every lane of a mask (R39). -/
def Group.setPAll (g : Group) (p : Nat) (held : Mask) (b : Bool) : Group :=
  g.setP p fun l => if held.getLsbD l then some b else none

/-- sticky() of R58 for condition `k` (P59 + k): the lanes of a mask are set. -/
def Group.orSticky (g : Group) (k : Nat) (m : Mask) : Group :=
  { g with regs := { g.regs with p := g.regs.p.modify (59 + k) (· ||| m) }, raised := g.raised.modify k (· ||| m) }

/-- The conditions of each lane are ORed into P59-P63 (R127). -/
def Group.sticky (g : Group) (c : Nat → Cnd) : Group :=
  (List.range 5).foldl (fun g k => g.orSticky k (maskOf fun l => (c l).getLsbD k)) g

/-- The conditions raised by either half of a pair are ORed in after its explicit writes (R127). -/
def Group.resticky (g : Group) : Group :=
  (List.range 5).foldl (fun g k => g.orSticky k (g.raised.getD k 0)) g

/-- A guard in a lane (R39). -/
def Group.guardAt (g : Group) (gd : Guard) (l : Nat) : Bool := g.pred gd.p.toNat l != gd.neg

end Sys2Proof.Machine
end

