-- ==== Sys2Proof/Machine/Operands.lean ====
section
/-! DEFINITION. Operand forms: which operands an instruction has, their legality (R17-R25, R39, R42, R43,
R60, R65, R133, R134), and how operands are read and destinations written. -/

namespace Sys2Proof

open Machine

/-- 32-bit registers that hold a value of a type (R134). -/
def Ty.regs (t : Ty) : Nat := if t.is64 then 2 else 1

/-- The registers of an access width (R65). -/
def Width.regs : Width → Nat
  | .b64 => 2
  | .b128 => 4
  | _ => 1

/-- The bytes of an access width (R41). -/
def Width.bytes : Width → Nat
  | .b8 => 1
  | .b16 => 2
  | .b32 => 4
  | .b64 => 8
  | .b128 => 16

/-- The registers of a base address: a pair in a 64-bit space (R60). -/
def Space.baseRegs : Space → Nat
  | .shared | .scratch => 1
  | _ => 2

/-- The registers that a trap-state register fills (R353). -/
def TrapReg.regs : TrapReg → Nat
  | .fcode | .fmask | .rqlive => 1
  | _ => 2

/-- An S register. -/
def Operand.isS : Operand → Bool
  | .s _ => true
  | _ => false

/-- A V register. -/
def Operand.isV : Operand → Bool
  | .v _ => true
  | _ => false

/-- A special register. -/
def Operand.isSr : Operand → Bool
  | .sr _ => true
  | _ => false

/-- What an operand position accepts. -/
inductive UseClass
  /-- A source of classes 000-010 (R133). -/
  | src
  /-- A destination of classes 000-010 (R133, R25). -/
  | dst
  /-- ISET's destination and SEL's and BRA's A register, which only the A-slice has (R141, R142, R158). -/
  | adst | asrc | asrc0
  /-- A branch target or return address: an S pair, or an A register (R157). -/
  | tgt
  /-- V only; V or S; V, S or constant; S or constant; S only; A only. -/
  | vec | vs | vsc | sc | uni | areg
  /-- A V register, or the constant 0 (R170). -/
  | vz
  /-- The base of an address (R60); the data of a load or store (R65); a message's payload (R276); no operand (R200). -/
  | base | data | msg | none
  deriving DecidableEq, Repr

/-- An operand position: operand, class, 32-bit registers, alignment, whether it is a destination. -/
structure Use where
  o : Operand
  cls : UseClass
  n : Nat
  al : Nat
  dst : Bool
  deriving DecidableEq, Repr

/-- The S pair that a format-block code names (R167). -/
def fbUse (f : BitVec 6) : List Use := if f = 0x3F then [] else [⟨.s f, .uni, 2, 2, false⟩]

/-- The register operands of an instruction, the implied ones too (R57): operand, class, count, alignment, destination. -/
def Instr.uses : Instr → List Use
  | .iadd _ ty d a b => [⟨d, .dst, ty.regs, ty.regs, true⟩, ⟨a, .src, ty.regs, ty.regs, false⟩, ⟨b, .src, ty.regs, ty.regs, false⟩]
  | .iaddI _ ty d a _ => [⟨d, .dst, ty.regs, ty.regs, true⟩, ⟨a, .src, ty.regs, ty.regs, false⟩]
  | .isub _ ty d a b => [⟨d, .dst, ty.regs, ty.regs, true⟩, ⟨a, .src, ty.regs, ty.regs, false⟩, ⟨b, .src, ty.regs, ty.regs, false⟩]
  | .isubI _ ty d a _ => [⟨d, .dst, ty.regs, ty.regs, true⟩, ⟨a, .src, ty.regs, ty.regs, false⟩]
  | .iaddc _ _ d a b _ _ => [⟨d, .dst, 1, 1, true⟩, ⟨a, .src, 1, 1, false⟩, ⟨b, .src, 1, 1, false⟩]
  | .iadds _ ty d a b => [⟨d, .dst, ty.regs, ty.regs, true⟩, ⟨a, .src, ty.regs, ty.regs, false⟩, ⟨b, .src, ty.regs, ty.regs, false⟩]
  | .iaddsI _ ty d a _ => [⟨d, .dst, ty.regs, ty.regs, true⟩, ⟨a, .src, ty.regs, ty.regs, false⟩]
  | .isubs _ ty d a b => [⟨d, .dst, ty.regs, ty.regs, true⟩, ⟨a, .src, ty.regs, ty.regs, false⟩, ⟨b, .src, ty.regs, ty.regs, false⟩]
  | .isubsI _ ty d a _ => [⟨d, .dst, ty.regs, ty.regs, true⟩, ⟨a, .src, ty.regs, ty.regs, false⟩]
  | .imul _ ty d a b => [⟨d, .dst, ty.regs, ty.regs, true⟩, ⟨a, .src, ty.regs, ty.regs, false⟩, ⟨b, .src, ty.regs, ty.regs, false⟩]
  | .imulI _ ty d a _ => [⟨d, .dst, ty.regs, ty.regs, true⟩, ⟨a, .src, ty.regs, ty.regs, false⟩]
  | .imulh _ ty d a b => [⟨d, .dst, ty.regs, ty.regs, true⟩, ⟨a, .src, ty.regs, ty.regs, false⟩, ⟨b, .src, ty.regs, ty.regs, false⟩]
  | .imulhI _ ty d a _ => [⟨d, .dst, ty.regs, ty.regs, true⟩, ⟨a, .src, ty.regs, ty.regs, false⟩]
  | .imad _ ty d a b c => [⟨d, .dst, ty.regs, ty.regs, true⟩, ⟨a, .src, ty.regs, ty.regs, false⟩, ⟨b, .src, ty.regs, ty.regs, false⟩, ⟨c, .src, ty.regs, ty.regs, false⟩]
  | .imadI _ ty d a _ c => [⟨d, .dst, ty.regs, ty.regs, true⟩, ⟨a, .src, ty.regs, ty.regs, false⟩, ⟨c, .src, ty.regs, ty.regs, false⟩]
  | .imadw _ _ d a b c => [⟨d, .dst, 2, 2, true⟩, ⟨a, .src, 1, 1, false⟩, ⟨b, .src, 1, 1, false⟩, ⟨c, .src, 2, 2, false⟩]
  | .imadwI _ _ d a _ c => [⟨d, .dst, 2, 2, true⟩, ⟨a, .src, 1, 1, false⟩, ⟨c, .src, 2, 2, false⟩]
  | .imin _ ty d a b => [⟨d, .dst, ty.regs, ty.regs, true⟩, ⟨a, .src, ty.regs, ty.regs, false⟩, ⟨b, .src, ty.regs, ty.regs, false⟩]
  | .iminI _ ty d a _ => [⟨d, .dst, ty.regs, ty.regs, true⟩, ⟨a, .src, ty.regs, ty.regs, false⟩]
  | .imax _ ty d a b => [⟨d, .dst, ty.regs, ty.regs, true⟩, ⟨a, .src, ty.regs, ty.regs, false⟩, ⟨b, .src, ty.regs, ty.regs, false⟩]
  | .imaxI _ ty d a _ => [⟨d, .dst, ty.regs, ty.regs, true⟩, ⟨a, .src, ty.regs, ty.regs, false⟩]
  | .iabs _ ty _ d a => [⟨d, .dst, ty.regs, ty.regs, true⟩, ⟨a, .src, ty.regs, ty.regs, false⟩]
  | .ineg _ ty _ d a => [⟨d, .dst, ty.regs, ty.regs, true⟩, ⟨a, .src, ty.regs, ty.regs, false⟩]
  | .idp4 _ _ _ _ d a b c => [⟨d, .dst, 1, 1, true⟩, ⟨a, .src, 1, 1, false⟩, ⟨b, .src, 1, 1, false⟩, ⟨c, .src, 1, 1, false⟩]
  | .idp4I _ _ _ _ d a _ c => [⟨d, .dst, 1, 1, true⟩, ⟨a, .src, 1, 1, false⟩, ⟨c, .src, 1, 1, false⟩]
  | .and _ ty d a b => [⟨d, .dst, ty.regs, ty.regs, true⟩, ⟨a, .src, ty.regs, ty.regs, false⟩, ⟨b, .src, ty.regs, ty.regs, false⟩]
  | .andI _ ty d a _ => [⟨d, .dst, ty.regs, ty.regs, true⟩, ⟨a, .src, ty.regs, ty.regs, false⟩]
  | .or _ ty d a b => [⟨d, .dst, ty.regs, ty.regs, true⟩, ⟨a, .src, ty.regs, ty.regs, false⟩, ⟨b, .src, ty.regs, ty.regs, false⟩]
  | .orI _ ty d a _ => [⟨d, .dst, ty.regs, ty.regs, true⟩, ⟨a, .src, ty.regs, ty.regs, false⟩]
  | .xor _ ty d a b => [⟨d, .dst, ty.regs, ty.regs, true⟩, ⟨a, .src, ty.regs, ty.regs, false⟩, ⟨b, .src, ty.regs, ty.regs, false⟩]
  | .xorI _ ty d a _ => [⟨d, .dst, ty.regs, ty.regs, true⟩, ⟨a, .src, ty.regs, ty.regs, false⟩]
  | .andn _ ty d a b => [⟨d, .dst, ty.regs, ty.regs, true⟩, ⟨a, .src, ty.regs, ty.regs, false⟩, ⟨b, .src, ty.regs, ty.regs, false⟩]
  | .andnI _ ty d a _ => [⟨d, .dst, ty.regs, ty.regs, true⟩, ⟨a, .src, ty.regs, ty.regs, false⟩]
  | .orn _ ty d a b => [⟨d, .dst, ty.regs, ty.regs, true⟩, ⟨a, .src, ty.regs, ty.regs, false⟩, ⟨b, .src, ty.regs, ty.regs, false⟩]
  | .ornI _ ty d a _ => [⟨d, .dst, ty.regs, ty.regs, true⟩, ⟨a, .src, ty.regs, ty.regs, false⟩]
  | .not _ ty d a => [⟨d, .dst, ty.regs, ty.regs, true⟩, ⟨a, .src, ty.regs, ty.regs, false⟩]
  | .lop3 _ ty d a b c _ => [⟨d, .dst, ty.regs, ty.regs, true⟩, ⟨a, .src, ty.regs, ty.regs, false⟩, ⟨b, .src, ty.regs, ty.regs, false⟩, ⟨c, .src, ty.regs, ty.regs, false⟩]
  | .shl _ ty d a b => [⟨d, .dst, ty.regs, ty.regs, true⟩, ⟨a, .src, ty.regs, ty.regs, false⟩, ⟨b, .src, 1, 1, false⟩]
  | .shlI _ ty d a _ => [⟨d, .dst, ty.regs, ty.regs, true⟩, ⟨a, .src, ty.regs, ty.regs, false⟩]
  | .shr _ ty d a b => [⟨d, .dst, ty.regs, ty.regs, true⟩, ⟨a, .src, ty.regs, ty.regs, false⟩, ⟨b, .src, 1, 1, false⟩]
  | .shrI _ ty d a _ => [⟨d, .dst, ty.regs, ty.regs, true⟩, ⟨a, .src, ty.regs, ty.regs, false⟩]
  | .sar _ ty d a b => [⟨d, .dst, ty.regs, ty.regs, true⟩, ⟨a, .src, ty.regs, ty.regs, false⟩, ⟨b, .src, 1, 1, false⟩]
  | .sarI _ ty d a _ => [⟨d, .dst, ty.regs, ty.regs, true⟩, ⟨a, .src, ty.regs, ty.regs, false⟩]
  | .rotl _ ty d a b => [⟨d, .dst, ty.regs, ty.regs, true⟩, ⟨a, .src, ty.regs, ty.regs, false⟩, ⟨b, .src, 1, 1, false⟩]
  | .rotlI _ ty d a _ => [⟨d, .dst, ty.regs, ty.regs, true⟩, ⟨a, .src, ty.regs, ty.regs, false⟩]
  | .fshl _ d a b c => [⟨d, .dst, 1, 1, true⟩, ⟨a, .src, 1, 1, false⟩, ⟨b, .src, 1, 1, false⟩, ⟨c, .src, 1, 1, false⟩]
  | .fshlI _ d a _ c => [⟨d, .dst, 1, 1, true⟩, ⟨a, .src, 1, 1, false⟩, ⟨c, .src, 1, 1, false⟩]
  | .bfx _ _ d a b => [⟨d, .dst, 1, 1, true⟩, ⟨a, .src, 1, 1, false⟩, ⟨b, .src, 1, 1, false⟩]
  | .bfxI _ _ d a _ => [⟨d, .dst, 1, 1, true⟩, ⟨a, .src, 1, 1, false⟩]
  | .bfi _ d a b c => [⟨d, .dst, 1, 1, true⟩, ⟨a, .src, 1, 1, false⟩, ⟨b, .src, 1, 1, false⟩, ⟨c, .src, 1, 1, false⟩]
  | .bfiI _ d a _ c => [⟨d, .dst, 1, 1, true⟩, ⟨a, .src, 1, 1, false⟩, ⟨c, .src, 1, 1, false⟩]
  | .popc _ ty d a => [⟨d, .dst, 1, 1, true⟩, ⟨a, .src, ty.regs, ty.regs, false⟩]
  | .clz _ ty d a => [⟨d, .dst, 1, 1, true⟩, ⟨a, .src, ty.regs, ty.regs, false⟩]
  | .ctz _ ty d a => [⟨d, .dst, 1, 1, true⟩, ⟨a, .src, ty.regs, ty.regs, false⟩]
  | .brev _ ty d a => [⟨d, .dst, ty.regs, ty.regs, true⟩, ⟨a, .src, ty.regs, ty.regs, false⟩]
  | .bytep _ d a b c => [⟨d, .dst, 1, 1, true⟩, ⟨a, .src, 1, 1, false⟩, ⟨b, .src, 1, 1, false⟩, ⟨c, .src, 1, 1, false⟩]
  | .bytepI _ d a _ c => [⟨d, .dst, 1, 1, true⟩, ⟨a, .src, 1, 1, false⟩, ⟨c, .src, 1, 1, false⟩]
  | .iset _ ty _ _ _ _ d a b => [⟨d, .adst, 1, 1, true⟩, ⟨a, .src, ty.regs, ty.regs, false⟩, ⟨b, .src, ty.regs, ty.regs, false⟩]
  | .isetI _ ty _ _ d a _ => [⟨d, .adst, 1, 1, true⟩, ⟨a, .src, ty.regs, ty.regs, false⟩]
  | .sel _ ty d a b c _ => [⟨d, .dst, ty.regs, ty.regs, true⟩, ⟨a, .src, ty.regs, ty.regs, false⟩, ⟨b, .src, ty.regs, ty.regs, false⟩, ⟨c, .asrc, 1, 1, false⟩]
  | .selI _ ty d a _ c _ => [⟨d, .dst, ty.regs, ty.regs, true⟩, ⟨a, .src, ty.regs, ty.regs, false⟩, ⟨c, .asrc, 1, 1, false⟩]
  | .mov _ ty d a => [⟨d, .dst, ty.regs, ty.regs, true⟩, ⟨a, .src, ty.regs, ty.regs, false⟩]
  | .movi _ ty d _ => [⟨d, .dst, ty.regs, ty.regs, true⟩]
  | .lea _ ty d a b _ => [⟨d, .dst, 2, 2, true⟩, ⟨a, .src, 2, 2, false⟩, ⟨b, .src, ty.regs, ty.regs, false⟩]
  | .leaI _ _ d a _ _ => [⟨d, .dst, 2, 2, true⟩, ⟨a, .src, 2, 2, false⟩]
  | .fadd _ _ _ _ d a b => [⟨d, .dst, 1, 1, true⟩, ⟨a, .src, 1, 1, false⟩, ⟨b, .src, 1, 1, false⟩]
  | .faddI _ _ _ _ d a _ => [⟨d, .dst, 1, 1, true⟩, ⟨a, .src, 1, 1, false⟩]
  | .fsub _ _ _ _ d a b => [⟨d, .dst, 1, 1, true⟩, ⟨a, .src, 1, 1, false⟩, ⟨b, .src, 1, 1, false⟩]
  | .fsubI _ _ _ _ d a _ => [⟨d, .dst, 1, 1, true⟩, ⟨a, .src, 1, 1, false⟩]
  | .fmul _ _ _ _ d a b => [⟨d, .dst, 1, 1, true⟩, ⟨a, .src, 1, 1, false⟩, ⟨b, .src, 1, 1, false⟩]
  | .fmulI _ _ _ _ d a _ => [⟨d, .dst, 1, 1, true⟩, ⟨a, .src, 1, 1, false⟩]
  | .ffma _ _ _ _ d a b c => [⟨d, .dst, 1, 1, true⟩, ⟨a, .src, 1, 1, false⟩, ⟨b, .src, 1, 1, false⟩, ⟨c, .src, 1, 1, false⟩]
  | .ffmaI _ _ _ _ d a _ c => [⟨d, .dst, 1, 1, true⟩, ⟨a, .src, 1, 1, false⟩, ⟨c, .src, 1, 1, false⟩]
  | .fmin _ _ d a b => [⟨d, .dst, 1, 1, true⟩, ⟨a, .src, 1, 1, false⟩, ⟨b, .src, 1, 1, false⟩]
  | .fminI _ _ d a _ => [⟨d, .dst, 1, 1, true⟩, ⟨a, .src, 1, 1, false⟩]
  | .fmax _ _ d a b => [⟨d, .dst, 1, 1, true⟩, ⟨a, .src, 1, 1, false⟩, ⟨b, .src, 1, 1, false⟩]
  | .fmaxI _ _ d a _ => [⟨d, .dst, 1, 1, true⟩, ⟨a, .src, 1, 1, false⟩]
  | .fminm _ _ d a b => [⟨d, .dst, 1, 1, true⟩, ⟨a, .src, 1, 1, false⟩, ⟨b, .src, 1, 1, false⟩]
  | .fminmI _ _ d a _ => [⟨d, .dst, 1, 1, true⟩, ⟨a, .src, 1, 1, false⟩]
  | .fmaxm _ _ d a b => [⟨d, .dst, 1, 1, true⟩, ⟨a, .src, 1, 1, false⟩, ⟨b, .src, 1, 1, false⟩]
  | .fmaxmI _ _ d a _ => [⟨d, .dst, 1, 1, true⟩, ⟨a, .src, 1, 1, false⟩]
  | .fset _ _ _ _ _ a b => [⟨a, .src, 1, 1, false⟩, ⟨b, .src, 1, 1, false⟩]
  | .fsetI _ _ _ a _ => [⟨a, .src, 1, 1, false⟩]
  | .fclass _ d a => [⟨d, .dst, 1, 1, true⟩, ⟨a, .src, 1, 1, false⟩]
  | .frnd _ _ d a => [⟨d, .dst, 1, 1, true⟩, ⟨a, .src, 1, 1, false⟩]
  | .ffrac _ d a => [⟨d, .dst, 1, 1, true⟩, ⟨a, .src, 1, 1, false⟩]
  | .fscale _ _ _ d a b => [⟨d, .dst, 1, 1, true⟩, ⟨a, .src, 1, 1, false⟩, ⟨b, .src, 1, 1, false⟩]
  | .fscaleI _ _ _ d a _ => [⟨d, .dst, 1, 1, true⟩, ⟨a, .src, 1, 1, false⟩]
  | .fgetexp _ d a => [⟨d, .dst, 1, 1, true⟩, ⟨a, .src, 1, 1, false⟩]
  | .frcp _ _ d a => [⟨d, .dst, 1, 1, true⟩, ⟨a, .src, 1, 1, false⟩]
  | .frsq _ d a => [⟨d, .dst, 1, 1, true⟩, ⟨a, .src, 1, 1, false⟩]
  | .fsqrt _ _ d a => [⟨d, .dst, 1, 1, true⟩, ⟨a, .src, 1, 1, false⟩]
  | .fexp2 _ d a => [⟨d, .dst, 1, 1, true⟩, ⟨a, .src, 1, 1, false⟩]
  | .flog2 _ d a => [⟨d, .dst, 1, 1, true⟩, ⟨a, .src, 1, 1, false⟩]
  | .fsin _ d a => [⟨d, .dst, 1, 1, true⟩, ⟨a, .src, 1, 1, false⟩]
  | .fcos _ d a => [⟨d, .dst, 1, 1, true⟩, ⟨a, .src, 1, 1, false⟩]
  | .ftanh _ d a => [⟨d, .dst, 1, 1, true⟩, ⟨a, .src, 1, 1, false⟩]
  | .fsigm _ d a => [⟨d, .dst, 1, 1, true⟩, ⟨a, .src, 1, 1, false⟩]
  | .fcvt _ ty sty _ _ _ _ _ d a => [⟨d, .dst, ty.regs, ty.regs, true⟩, ⟨a, .src, sty.regs, sty.regs, false⟩]
  | .icvt _ ty sty _ d a => [⟨d, .dst, ty.regs, ty.regs, true⟩, ⟨a, .src, sty.regs, sty.regs, false⟩]
  | .plop _ _ _ _ _ _ => []
  | .pmovv _ d _ _ => [⟨d, .vec, 1, 1, true⟩]
  | .vmovp _ a _ _ => [⟨a, .vsc, 1, 1, false⟩]
  | .vote _ mode _ _ d _ _ => (if mode = .mask ∨ mode = .cnt then [⟨d, .vs, 1, 1, true⟩] else [])
  | .shfl _ _ _ d a b _ => [⟨d, .vec, 1, 1, true⟩, ⟨a, .src, 1, 1, false⟩, ⟨b, .src, 1, 1, false⟩]
  | .shflI _ _ d a _ _ => [⟨d, .vec, 1, 1, true⟩, ⟨a, .src, 1, 1, false⟩]
  | .lred _ ty _ d a => [⟨d, .vs, ty.regs, ty.regs, true⟩, ⟨a, .vec, ty.regs, ty.regs, false⟩]
  | .lscan _ ty _ _ d a => [⟨d, .vec, ty.regs, ty.regs, true⟩, ⟨a, .vec, ty.regs, ty.regs, false⟩]
  | .lbcast _ ty d a b => [⟨d, .vs, ty.regs, ty.regs, true⟩, ⟨a, .vec, ty.regs, ty.regs, false⟩, ⟨b, .sc, 1, 1, false⟩]
  | .lbcastI _ ty d a _ => [⟨d, .vs, ty.regs, ty.regs, true⟩, ⟨a, .vec, ty.regs, ty.regs, false⟩]
  | .lfirst _ ty d a => [⟨d, .vs, ty.regs, ty.regs, true⟩, ⟨a, .vec, ty.regs, ty.regs, false⟩]
  | .bra _ _ _ a => [⟨a, .asrc0, 1, 1, false⟩]
  | .brx _ a => [⟨a, .tgt, 2, 2, false⟩]
  | .call _ _ d => [⟨d, .tgt, 2, 2, true⟩]
  | .ret _ a => [⟨a, .tgt, 2, 2, false⟩]
  | .recon _ _ => []
  | .exit _ => []
  | .nop  => []
  | .yield _ => []
  | .ldp _ w _ _ _ d a _ => [⟨d, .data, w.regs, w.regs, true⟩, ⟨a, .base, 1, 1, false⟩]
  | .stp _ w _ _ a b _ => [⟨a, .base, 1, 1, false⟩, ⟨b, .data, w.regs, w.regs, false⟩]
  | .lds _ w _ _ _ d a _ _ _ => [⟨d, .data, w.regs, w.regs, true⟩, ⟨a, .base, 1, 1, false⟩]
  | .sts _ w _ _ a b _ _ _ => [⟨a, .base, 1, 1, false⟩, ⟨b, .data, w.regs, w.regs, false⟩]
  | .ldd _ w _ _ _ d a _ => [⟨d, .data, w.regs, w.regs, true⟩, ⟨a, .base, 1, 1, false⟩]
  | .std _ w _ _ a b _ => [⟨a, .base, 1, 1, false⟩, ⟨b, .data, w.regs, w.regs, false⟩]
  | .ldg _ w _ _ _ d a _ => [⟨d, .data, w.regs, w.regs, true⟩, ⟨a, .base, 2, 2, false⟩]
  | .stg _ w _ _ a b _ => [⟨a, .base, 2, 2, false⟩, ⟨b, .data, w.regs, w.regs, false⟩]
  | .ldx _ w _ _ _ d a _ => [⟨d, .data, w.regs, w.regs, true⟩, ⟨a, .base, 2, 2, false⟩]
  | .stx _ w _ _ a b _ => [⟨a, .base, 2, 2, false⟩, ⟨b, .data, w.regs, w.regs, false⟩]
  | .ldh _ w _ _ _ d a _ => [⟨d, .data, w.regs, w.regs, true⟩, ⟨a, .base, 2, 2, false⟩]
  | .sth _ w _ _ a b _ => [⟨a, .base, 2, 2, false⟩, ⟨b, .data, w.regs, w.regs, false⟩]
  | .ldq _ _ _ a _ => [⟨a, .areg, 1, 1, false⟩]
  | .qbpush _ a => [⟨a, .sc, 1, 1, false⟩]
  | .qbpop _ d => [⟨d, .areg, 1, 1, true⟩]
  | .qsync _ _ => []
  | .qstat _ d => [⟨d, .areg, 1, 1, true⟩]
  | .pref _ _ a _ => [⟨a, .base, 2, 2, false⟩]
  | .acp _ _ _ bar _ d a b c => (if bar then [⟨d, .uni, 2, 2, false⟩] else []) ++ [⟨a, .uni, 2, 2, false⟩, ⟨b, .uni, 2, 2, false⟩, ⟨c, .sc, 1, 1, false⟩]
  | .bclose _ d => [⟨d, .uni, 1, 1, true⟩]
  | .bwait _ a _ => [⟨a, .sc, 1, 1, false⟩]
  | .fetest _ _ _ _ a _ => [⟨a, .base, 1, 1, false⟩]
  | .kvlook _ _ d a b => [⟨d, .areg, 1, 1, true⟩, ⟨a, .areg, 1, 1, false⟩, ⟨b, .areg, 1, 1, false⟩]
  | .kvgather _ _ _ _ a b c => [⟨a, .uni, 2, 2, false⟩, ⟨b, .uni, 2, 2, false⟩, ⟨c, .uni, 1, 1, false⟩]
  | .kvappend _ _ d a b _ => [⟨d, .uni, 1, 1, true⟩, ⟨a, .uni, 2, 2, false⟩, ⟨b, .sc, 1, 1, false⟩]
  | .kvshare _ _ d a b c _ => [⟨d, .uni, 1, 1, true⟩, ⟨a, .uni, 2, 2, false⟩, ⟨b, .uni, 2, 2, false⟩, ⟨c, .uni, 1, 1, false⟩]
  | .atom _ _ _ w sp d a b => [⟨d, .vs, w.regs, w.regs, true⟩, ⟨a, .base, sp.baseRegs, sp.baseRegs, false⟩, ⟨b, .vsc, w.regs, w.regs, false⟩]
  | .red _ _ _ w sp a b => [⟨a, .base, sp.baseRegs, sp.baseRegs, false⟩, ⟨b, .vsc, w.regs, w.regs, false⟩]
  | .cas _ _ w sp d a b c _ => [⟨d, .vs, w.regs, w.regs, true⟩, ⟨a, .base, sp.baseRegs, sp.baseRegs, false⟩, ⟨b, .vsc, w.regs, w.regs, false⟩, ⟨c, .vsc, w.regs, w.regs, false⟩]
  | .cas2 _ _ sp d a b c _ => [⟨d, .vs, 4, 4, true⟩, ⟨a, .base, sp.baseRegs, sp.baseRegs, false⟩, ⟨b, .vs, 4, 4, false⟩, ⟨c, .vs, 4, 4, false⟩]
  | .obinit _ _ _ _ _ _ a b => [⟨a, .uni, 2, 2, false⟩, ⟨b, .uni, 8, 8, false⟩]
  | .ann _ _ d a b c => [⟨d, .uni, 1, 1, true⟩, ⟨a, .uni, 2, 2, false⟩, ⟨b, .uni, 4, 4, false⟩, ⟨c, .uni, 2, 2, false⟩]
  | .help _ d a _ => [⟨d, .uni, 1, 1, true⟩, ⟨a, .uni, 2, 2, false⟩]
  | .barinit _ _ _ a b _ => [⟨a, .uni, 2, 2, false⟩, ⟨b, .sc, 1, 1, false⟩]
  | .barv _ _ d a b => [⟨d, .uni, 1, 1, true⟩, ⟨a, .uni, 2, 2, false⟩, ⟨b, .sc, 1, 1, false⟩]
  | .bardrop _ _ d a => [⟨d, .uni, 1, 1, true⟩, ⟨a, .uni, 2, 2, false⟩]
  | .btx _ a b => [⟨a, .uni, 2, 2, false⟩, ⟨b, .sc, 1, 1, false⟩]
  | .btest _ _ a b _ => [⟨a, .uni, 2, 2, false⟩, ⟨b, .uni, 1, 1, false⟩]
  | .sred _ _ n _ d a b c => [⟨d, .uni, 1, 1, true⟩, ⟨a, .uni, 2, 2, false⟩, ⟨b, .uni, n.toNat + 1, 1, false⟩, ⟨c, .uni, 1, 1, false⟩]
  | .msend _ _ a b _ => [⟨a, .uni, 1, 1, false⟩, ⟨b, .msg, 1, 1, false⟩]
  | .mrecv _ _ _ d _ => [⟨d, .vec, 1, 1, true⟩]
  | .mstat _ _ _ d => [⟨d, .uni, 1, 1, true⟩]
  | .park _ _ sp _ a => [⟨a, .uni, sp.baseRegs, sp.baseRegs, false⟩]
  | .xscale _ _ _ d a b c => [⟨d, .uni, 2, 2, false⟩, ⟨a, .uni, 2, 2, false⟩, ⟨b, .uni, 2, 2, false⟩, ⟨c, .uni, 1, 1, false⟩]
  | .xred _ _ _ d a b c => [⟨d, .uni, 2, 2, false⟩, ⟨a, .uni, 2, 2, false⟩, ⟨b, .uni, 2, 2, false⟩, ⟨c, .uni, 1, 1, false⟩]
  | .fence _ _ _ => []
  | .drain _ _ d a => [⟨d, .uni, 1, 1, true⟩, ⟨a, .uni, 2, 2, false⟩]
  | .drainNb _ => []
  | .gmma _ _ fa fb _ d a b c => [⟨d, .vec, 8, 8, true⟩, ⟨a, .vec, 4, 4, false⟩, ⟨b, .vec, 4, 4, false⟩, ⟨c, .vz, 8, 8, false⟩] ++ fbUse fa ++ fbUse fb
  | .cvtdxb _ _ ss fb d a => [⟨d, .vec, 1, 1, true⟩, ⟨.s ss, .uni, 1, 1, true⟩, ⟨a, .vec, 4, 4, false⟩] ++ fbUse fb
  | .lmma _ _ _ fa fb _ a b c => [⟨a, .uni, 2, 2, false⟩, ⟨b, .uni, 2, 2, false⟩, ⟨c, .uni, 1, 1, false⟩] ++ fbUse fa ++ fbUse fb
  | .lmmv _ _ _ fw _ _ a b c => [⟨a, .uni, 2, 2, false⟩, ⟨b, .uni, 1, 1, false⟩, ⟨c, .uni, 1, 1, false⟩] ++ fbUse fw
  | .lzero _ _ => []
  | .lload _ f32 _ _ fb a b => [⟨a, .uni, 2, 2, false⟩, ⟨b, .uni, 1, 1, false⟩] ++ (if f32 then [] else fbUse fb)
  | .lstore _ f32 _ _ _ fb a b => [⟨a, .uni, 2, 2, false⟩, ⟨b, .uni, 1, 1, false⟩] ++ (if f32 then [] else fbUse fb)
  | .lread _ _ d a => [⟨d, .vec, 4, 4, true⟩, ⟨a, .sc, 1, 1, false⟩]
  | .lcmd _ _ fa fb _ a => [⟨a, .uni, 1, 1, false⟩] ++ fbUse fa ++ fbUse fb
  | .tmatch _ _ _ _ d a c => [⟨d, .uni, 2, 2, false⟩, ⟨a, .uni, 2, 2, false⟩, ⟨c, .uni, 2, 2, false⟩]
  | .tmerge _ _ _ _ d a b c => [⟨d, .uni, 2, 2, false⟩, ⟨a, .uni, 2, 2, false⟩, ⟨b, .uni, 2, 2, false⟩] ++ (if c = .v 0 then [] else [⟨c, .uni, 2, 2, false⟩])
  | .tunmerge _ _ _ _ d a b => [⟨d, .uni, 2, 2, false⟩, ⟨a, .uni, 2, 2, false⟩, ⟨b, .uni, 2, 2, false⟩]
  | .smaxr _ _ cs sz msk _ d a b c => [⟨d, .vec, 8, 8, true⟩, ⟨a, .vec, 8, 8, false⟩, ⟨b, .vec, 2, 2, false⟩] ++ (if msk || sz then [⟨c, .vec, 2, 2, false⟩] else [⟨c, .none, 1, 1, false⟩]) ++ [⟨.s cs, .uni, 1, 1, false⟩]
  | .tmask _ d a b c => [⟨d, .vec, 1, 1, true⟩, ⟨a, .vec, 2, 2, false⟩, ⟨b, .uni, 2, 2, false⟩, ⟨c, .uni, 1, 1, false⟩]
  | .launch _ _ a => [⟨a, .uni, 2, 2, false⟩]
  | .trigger _ => []
  | .timerAbs _ a => [⟨a, .uni, 2, 2, false⟩]
  | .timerRel _ a => [⟨a, .sc, 1, 1, false⟩]
  | .timerOff _ => []
  | .qend _ => []
  | .trap _ _ => []
  | .trapret _ => []
  | .replay _ _ _ => []
  | .rdsr _ r d => [⟨d, .uni, r.regs, r.regs, true⟩]
  | .wrsr _ r a => [⟨a, .uni, r.regs, r.regs, false⟩]
  | .bkpt _ _ => []
  | _ => []

/-- The predicates an instruction reads besides its guard. -/
def Instr.predReads : Instr → List Nat
  | .iaddc _ _ _ _ _ ps _ => [ps.toNat]
  | .iset _ _ _ _ _ ps _ _ _ => [ps.toNat]
  | .sel _ _ _ _ _ _ ps => [ps.toNat]
  | .selI _ _ _ _ _ _ px => [px.toNat]
  | .fset _ _ _ _ ps _ _ => [ps.toNat]
  | .plop _ _ ps pb pc _ => [ps.toNat, pb.toNat, pc.toNat]
  | .pmovv _ _ k n => (List.range (n.toNat + 1)).map (k.toNat + ·)
  | .vote _ _ _ _ _ _ ps => [ps.toNat]
  | _ => []

/-- The predicate destinations of an instruction; P0 is none (R20). -/
def Instr.predWrites : Instr → List Nat
  | .iaddc _ _ _ _ _ _ pd => [pd.toNat]
  | .iset _ _ _ _ pd _ _ _ _ => [pd.toNat]
  | .isetI _ _ _ px _ _ _ => [px.toNat]
  | .fset _ _ _ pd _ _ _ => [pd.toNat]
  | .fsetI _ _ px _ _ => [px.toNat]
  | .plop _ pd _ _ _ _ => [pd.toNat]
  | .vmovp _ _ k n => (List.range (n.toNat + 1)).map (k.toNat + ·)
  | .vote _ _ _ _ _ pd _ => [pd.toNat]
  | .shfl _ _ _ _ _ _ pd => [pd.toNat]
  | .shflI _ _ _ _ _ px => [px.toNat]
  | .lds _ _ _ _ _ _ _ _ _ px => [px.toNat]
  | .sts _ _ _ _ _ _ _ _ px => [px.toNat]
  | .bwait _ _ px => [px.toNat]
  | .fetest _ _ _ px _ _ => [px.toNat]
  | .kvappend _ _ _ _ _ px => [px.toNat]
  | .kvshare _ _ _ _ _ _ px => [px.toNat]
  | .cas _ _ _ _ _ _ _ _ px => [px.toNat]
  | .cas2 _ _ _ _ _ _ _ px => [px.toNat]
  | .help _ _ _ px => [px.toNat]
  | .barinit _ _ _ _ _ px => [px.toNat]
  | .btest _ _ _ _ px => [px.toNat]
  | .msend _ _ _ _ px => [px.toNat]
  | .mrecv _ _ _ _ px => [px.toNat]
  | .lcmd _ _ _ _ px _ => [px.toNat]
  | .launch _ pd _ => [pd.toNat]
  | .replay _ _ pd => [pd.toNat]
  | _ => []

/-- Combinations of operands that the chapters rule out: a V source beside an S destination of a uniform access (R66, log 12);
a 64-bit special register as the pair that an instruction of a narrower type writes (R25). -/
def Instr.badMix : Instr → Bool
  | .ldp _ _ _ _ _ d a _ => d.isS && a.isV
  | .lds _ _ _ _ _ d a _ _ _ => d.isS && a.isV
  | .ldd _ _ _ _ _ d a _ => d.isS && a.isV
  | .ldg _ _ _ _ _ d a _ => d.isS && a.isV
  | .ldx _ _ _ _ _ d a _ => d.isS && a.isV
  | .ldh _ _ _ _ _ d a _ => d.isS && a.isV
  | .atom _ _ _ _ _ d a b => d.isS && (a.isV || b.isV)
  | .cas _ _ _ _ d a b c _ => d.isS && (a.isV || b.isV || c.isV)
  | .cas2 _ _ _ d a b c _ => d.isS && (a.isV || b.isV || c.isV)
  | .lea _ ty d _ _ _ => d.isSr && !ty.is64
  | .leaI _ ty d _ _ _ => d.isSr && !ty.is64
  | .imadw _ ty d _ _ _ => d.isSr && !ty.is64
  | .imadwI _ ty d _ _ _ => d.isSr && !ty.is64
  | _ => false

/-- The guard of an instruction. NOP has none. -/
def Instr.guard : Instr → Guard
  | .iadd h _ _ _ _ => h.g
  | .iaddI h _ _ _ _ => h.g
  | .isub h _ _ _ _ => h.g
  | .isubI h _ _ _ _ => h.g
  | .iaddc h _ _ _ _ _ _ => h.g
  | .iadds h _ _ _ _ => h.g
  | .iaddsI h _ _ _ _ => h.g
  | .isubs h _ _ _ _ => h.g
  | .isubsI h _ _ _ _ => h.g
  | .imul h _ _ _ _ => h.g
  | .imulI h _ _ _ _ => h.g
  | .imulh h _ _ _ _ => h.g
  | .imulhI h _ _ _ _ => h.g
  | .imad h _ _ _ _ _ => h.g
  | .imadI h _ _ _ _ _ => h.g
  | .imadw h _ _ _ _ _ => h.g
  | .imadwI h _ _ _ _ _ => h.g
  | .imin h _ _ _ _ => h.g
  | .iminI h _ _ _ _ => h.g
  | .imax h _ _ _ _ => h.g
  | .imaxI h _ _ _ _ => h.g
  | .iabs h _ _ _ _ => h.g
  | .ineg h _ _ _ _ => h.g
  | .idp4 h _ _ _ _ _ _ _ => h.g
  | .idp4I h _ _ _ _ _ _ _ => h.g
  | .and h _ _ _ _ => h.g
  | .andI h _ _ _ _ => h.g
  | .or h _ _ _ _ => h.g
  | .orI h _ _ _ _ => h.g
  | .xor h _ _ _ _ => h.g
  | .xorI h _ _ _ _ => h.g
  | .andn h _ _ _ _ => h.g
  | .andnI h _ _ _ _ => h.g
  | .orn h _ _ _ _ => h.g
  | .ornI h _ _ _ _ => h.g
  | .not h _ _ _ => h.g
  | .lop3 h _ _ _ _ _ _ => h.g
  | .shl h _ _ _ _ => h.g
  | .shlI h _ _ _ _ => h.g
  | .shr h _ _ _ _ => h.g
  | .shrI h _ _ _ _ => h.g
  | .sar h _ _ _ _ => h.g
  | .sarI h _ _ _ _ => h.g
  | .rotl h _ _ _ _ => h.g
  | .rotlI h _ _ _ _ => h.g
  | .fshl h _ _ _ _ => h.g
  | .fshlI h _ _ _ _ => h.g
  | .bfx h _ _ _ _ => h.g
  | .bfxI h _ _ _ _ => h.g
  | .bfi h _ _ _ _ => h.g
  | .bfiI h _ _ _ _ => h.g
  | .popc h _ _ _ => h.g
  | .clz h _ _ _ => h.g
  | .ctz h _ _ _ => h.g
  | .brev h _ _ _ => h.g
  | .bytep h _ _ _ _ => h.g
  | .bytepI h _ _ _ _ => h.g
  | .iset h _ _ _ _ _ _ _ _ => h.g
  | .isetI h _ _ _ _ _ _ => h.g
  | .sel h _ _ _ _ _ _ => h.g
  | .selI h _ _ _ _ _ _ => h.g
  | .mov h _ _ _ => h.g
  | .movi h _ _ _ => h.g
  | .lea h _ _ _ _ _ => h.g
  | .leaI h _ _ _ _ _ => h.g
  | .fadd h _ _ _ _ _ _ => h.g
  | .faddI h _ _ _ _ _ _ => h.g
  | .fsub h _ _ _ _ _ _ => h.g
  | .fsubI h _ _ _ _ _ _ => h.g
  | .fmul h _ _ _ _ _ _ => h.g
  | .fmulI h _ _ _ _ _ _ => h.g
  | .ffma h _ _ _ _ _ _ _ => h.g
  | .ffmaI h _ _ _ _ _ _ _ => h.g
  | .fmin h _ _ _ _ => h.g
  | .fminI h _ _ _ _ => h.g
  | .fmax h _ _ _ _ => h.g
  | .fmaxI h _ _ _ _ => h.g
  | .fminm h _ _ _ _ => h.g
  | .fminmI h _ _ _ _ => h.g
  | .fmaxm h _ _ _ _ => h.g
  | .fmaxmI h _ _ _ _ => h.g
  | .fset h _ _ _ _ _ _ => h.g
  | .fsetI h _ _ _ _ => h.g
  | .fclass h _ _ => h.g
  | .frnd h _ _ _ => h.g
  | .ffrac h _ _ => h.g
  | .fscale h _ _ _ _ _ => h.g
  | .fscaleI h _ _ _ _ _ => h.g
  | .fgetexp h _ _ => h.g
  | .frcp h _ _ _ => h.g
  | .frsq h _ _ => h.g
  | .fsqrt h _ _ _ => h.g
  | .fexp2 h _ _ => h.g
  | .flog2 h _ _ => h.g
  | .fsin h _ _ => h.g
  | .fcos h _ _ => h.g
  | .ftanh h _ _ => h.g
  | .fsigm h _ _ => h.g
  | .fcvt h _ _ _ _ _ _ _ _ _ => h.g
  | .icvt h _ _ _ _ _ => h.g
  | .plop h _ _ _ _ _ => h.g
  | .pmovv h _ _ _ => h.g
  | .vmovp h _ _ _ => h.g
  | .vote h _ _ _ _ _ _ => h.g
  | .shfl h _ _ _ _ _ _ => h.g
  | .shflI h _ _ _ _ _ => h.g
  | .lred h _ _ _ _ => h.g
  | .lscan h _ _ _ _ _ => h.g
  | .lbcast h _ _ _ _ => h.g
  | .lbcastI h _ _ _ _ => h.g
  | .lfirst h _ _ _ => h.g
  | .bra g _ _ _ => g
  | .brx g _ => g
  | .call g _ _ => g
  | .ret g _ => g
  | .recon g _ => g
  | .exit g => g
  | .yield g => g
  | .ldp h _ _ _ _ _ _ _ => h.g
  | .stp h _ _ _ _ _ _ => h.g
  | .lds h _ _ _ _ _ _ _ _ _ => h.g
  | .sts h _ _ _ _ _ _ _ _ => h.g
  | .ldd h _ _ _ _ _ _ _ => h.g
  | .std h _ _ _ _ _ _ => h.g
  | .ldg h _ _ _ _ _ _ _ => h.g
  | .stg h _ _ _ _ _ _ => h.g
  | .ldx h _ _ _ _ _ _ _ => h.g
  | .stx h _ _ _ _ _ _ => h.g
  | .ldh h _ _ _ _ _ _ _ => h.g
  | .sth h _ _ _ _ _ _ => h.g
  | .ldq g _ _ _ _ => g
  | .qbpush h _ => h.g
  | .qbpop h _ => h.g
  | .qsync g _ => g
  | .qstat g _ => g
  | .pref h _ _ _ => h.g
  | .acp h _ _ _ _ _ _ _ _ => h.g
  | .bclose h _ => h.g
  | .bwait h _ _ => h.g
  | .fetest h _ _ _ _ _ => h.g
  | .kvlook g _ _ _ _ => g
  | .kvgather h _ _ _ _ _ _ => h.g
  | .kvappend h _ _ _ _ _ => h.g
  | .kvshare h _ _ _ _ _ _ => h.g
  | .atom h _ _ _ _ _ _ _ => h.g
  | .red h _ _ _ _ _ _ => h.g
  | .cas h _ _ _ _ _ _ _ _ => h.g
  | .cas2 h _ _ _ _ _ _ _ => h.g
  | .obinit h _ _ _ _ _ _ _ => h.g
  | .ann h _ _ _ _ _ => h.g
  | .help h _ _ _ => h.g
  | .barinit h _ _ _ _ _ => h.g
  | .barv h _ _ _ _ => h.g
  | .bardrop h _ _ _ => h.g
  | .btx h _ _ => h.g
  | .btest h _ _ _ _ => h.g
  | .sred h _ _ _ _ _ _ _ => h.g
  | .msend h _ _ _ _ => h.g
  | .mrecv h _ _ _ _ => h.g
  | .mstat h _ _ _ => h.g
  | .park h _ _ _ _ => h.g
  | .xscale h _ _ _ _ _ _ => h.g
  | .xred h _ _ _ _ _ _ => h.g
  | .fence h _ _ => h.g
  | .drain h _ _ _ => h.g
  | .drainNb h => h.g
  | .gmma h _ _ _ _ _ _ _ _ => h.g
  | .cvtdxb h _ _ _ _ _ => h.g
  | .lmma h _ _ _ _ _ _ _ _ => h.g
  | .lmmv h _ _ _ _ _ _ _ _ => h.g
  | .lzero h _ => h.g
  | .lload h _ _ _ _ _ _ => h.g
  | .lstore h _ _ _ _ _ _ _ => h.g
  | .lread h _ _ _ => h.g
  | .lcmd h _ _ _ _ _ => h.g
  | .tmatch h _ _ _ _ _ _ => h.g
  | .tmerge h _ _ _ _ _ _ _ => h.g
  | .tunmerge h _ _ _ _ _ _ => h.g
  | .smaxr h _ _ _ _ _ _ _ _ _ => h.g
  | .tmask h _ _ _ _ => h.g
  | .launch h _ _ => h.g
  | .trigger h => h.g
  | .timerAbs h _ => h.g
  | .timerRel h _ => h.g
  | .timerOff h => h.g
  | .qend h => h.g
  | .trap h _ => h.g
  | .trapret h => h.g
  | .replay h _ _ => h.g
  | .rdsr h _ _ => h.g
  | .wrsr h _ _ => h.g
  | .bkpt h _ => h.g
  | _ => ⟨0, false⟩

/-- The SETF code of an instruction (R48). -/
def Instr.setf : Instr → SetF
  | .iadd h _ _ _ _ => h.setf
  | .iaddI h _ _ _ _ => h.setf
  | .isub h _ _ _ _ => h.setf
  | .isubI h _ _ _ _ => h.setf
  | .iaddc h _ _ _ _ _ _ => h.setf
  | .iadds h _ _ _ _ => h.setf
  | .iaddsI h _ _ _ _ => h.setf
  | .isubs h _ _ _ _ => h.setf
  | .isubsI h _ _ _ _ => h.setf
  | .imul h _ _ _ _ => h.setf
  | .imulI h _ _ _ _ => h.setf
  | .imulh h _ _ _ _ => h.setf
  | .imulhI h _ _ _ _ => h.setf
  | .imad h _ _ _ _ _ => h.setf
  | .imadI h _ _ _ _ _ => h.setf
  | .imadw h _ _ _ _ _ => h.setf
  | .imadwI h _ _ _ _ _ => h.setf
  | .imin h _ _ _ _ => h.setf
  | .iminI h _ _ _ _ => h.setf
  | .imax h _ _ _ _ => h.setf
  | .imaxI h _ _ _ _ => h.setf
  | .iabs h _ _ _ _ => h.setf
  | .ineg h _ _ _ _ => h.setf
  | .idp4 h _ _ _ _ _ _ _ => h.setf
  | .idp4I h _ _ _ _ _ _ _ => h.setf
  | .and h _ _ _ _ => h.setf
  | .andI h _ _ _ _ => h.setf
  | .or h _ _ _ _ => h.setf
  | .orI h _ _ _ _ => h.setf
  | .xor h _ _ _ _ => h.setf
  | .xorI h _ _ _ _ => h.setf
  | .andn h _ _ _ _ => h.setf
  | .andnI h _ _ _ _ => h.setf
  | .orn h _ _ _ _ => h.setf
  | .ornI h _ _ _ _ => h.setf
  | .not h _ _ _ => h.setf
  | .lop3 h _ _ _ _ _ _ => h.setf
  | .shl h _ _ _ _ => h.setf
  | .shlI h _ _ _ _ => h.setf
  | .shr h _ _ _ _ => h.setf
  | .shrI h _ _ _ _ => h.setf
  | .sar h _ _ _ _ => h.setf
  | .sarI h _ _ _ _ => h.setf
  | .rotl h _ _ _ _ => h.setf
  | .rotlI h _ _ _ _ => h.setf
  | .fshl h _ _ _ _ => h.setf
  | .fshlI h _ _ _ _ => h.setf
  | .bfx h _ _ _ _ => h.setf
  | .bfxI h _ _ _ _ => h.setf
  | .bfi h _ _ _ _ => h.setf
  | .bfiI h _ _ _ _ => h.setf
  | .popc h _ _ _ => h.setf
  | .clz h _ _ _ => h.setf
  | .ctz h _ _ _ => h.setf
  | .brev h _ _ _ => h.setf
  | .bytep h _ _ _ _ => h.setf
  | .bytepI h _ _ _ _ => h.setf
  | .iset h _ _ _ _ _ _ _ _ => h.setf
  | .isetI h _ _ _ _ _ _ => h.setf
  | .sel h _ _ _ _ _ _ => h.setf
  | .selI h _ _ _ _ _ _ => h.setf
  | .mov h _ _ _ => h.setf
  | .movi h _ _ _ => h.setf
  | .lea h _ _ _ _ _ => h.setf
  | .leaI h _ _ _ _ _ => h.setf
  | .fadd h _ _ _ _ _ _ => h.setf
  | .faddI h _ _ _ _ _ _ => h.setf
  | .fsub h _ _ _ _ _ _ => h.setf
  | .fsubI h _ _ _ _ _ _ => h.setf
  | .fmul h _ _ _ _ _ _ => h.setf
  | .fmulI h _ _ _ _ _ _ => h.setf
  | .ffma h _ _ _ _ _ _ _ => h.setf
  | .ffmaI h _ _ _ _ _ _ _ => h.setf
  | .fmin h _ _ _ _ => h.setf
  | .fminI h _ _ _ _ => h.setf
  | .fmax h _ _ _ _ => h.setf
  | .fmaxI h _ _ _ _ => h.setf
  | .fminm h _ _ _ _ => h.setf
  | .fminmI h _ _ _ _ => h.setf
  | .fmaxm h _ _ _ _ => h.setf
  | .fmaxmI h _ _ _ _ => h.setf
  | .fset h _ _ _ _ _ _ => h.setf
  | .fsetI h _ _ _ _ => h.setf
  | .fclass h _ _ => h.setf
  | .frnd h _ _ _ => h.setf
  | .ffrac h _ _ => h.setf
  | .fscale h _ _ _ _ _ => h.setf
  | .fscaleI h _ _ _ _ _ => h.setf
  | .fgetexp h _ _ => h.setf
  | .frcp h _ _ _ => h.setf
  | .frsq h _ _ => h.setf
  | .fsqrt h _ _ _ => h.setf
  | .fexp2 h _ _ => h.setf
  | .flog2 h _ _ => h.setf
  | .fsin h _ _ => h.setf
  | .fcos h _ _ => h.setf
  | .ftanh h _ _ => h.setf
  | .fsigm h _ _ => h.setf
  | .fcvt h _ _ _ _ _ _ _ _ _ => h.setf
  | .icvt h _ _ _ _ _ => h.setf
  | .plop h _ _ _ _ _ => h.setf
  | .pmovv h _ _ _ => h.setf
  | .vmovp h _ _ _ => h.setf
  | .vote h _ _ _ _ _ _ => h.setf
  | .shfl h _ _ _ _ _ _ => h.setf
  | .shflI h _ _ _ _ _ => h.setf
  | .lred h _ _ _ _ => h.setf
  | .lscan h _ _ _ _ _ => h.setf
  | .lbcast h _ _ _ _ => h.setf
  | .lbcastI h _ _ _ _ => h.setf
  | .lfirst h _ _ _ => h.setf
  | .ldp h _ _ _ _ _ _ _ => h.setf
  | .stp h _ _ _ _ _ _ => h.setf
  | .lds h _ _ _ _ _ _ _ _ _ => h.setf
  | .sts h _ _ _ _ _ _ _ _ => h.setf
  | .ldd h _ _ _ _ _ _ _ => h.setf
  | .std h _ _ _ _ _ _ => h.setf
  | .ldg h _ _ _ _ _ _ _ => h.setf
  | .stg h _ _ _ _ _ _ => h.setf
  | .ldx h _ _ _ _ _ _ _ => h.setf
  | .stx h _ _ _ _ _ _ => h.setf
  | .ldh h _ _ _ _ _ _ _ => h.setf
  | .sth h _ _ _ _ _ _ => h.setf
  | .qbpush h _ => h.setf
  | .qbpop h _ => h.setf
  | .pref h _ _ _ => h.setf
  | .acp h _ _ _ _ _ _ _ _ => h.setf
  | .bclose h _ => h.setf
  | .bwait h _ _ => h.setf
  | .fetest h _ _ _ _ _ => h.setf
  | .kvgather h _ _ _ _ _ _ => h.setf
  | .kvappend h _ _ _ _ _ => h.setf
  | .kvshare h _ _ _ _ _ _ => h.setf
  | .atom h _ _ _ _ _ _ _ => h.setf
  | .red h _ _ _ _ _ _ => h.setf
  | .cas h _ _ _ _ _ _ _ _ => h.setf
  | .cas2 h _ _ _ _ _ _ _ => h.setf
  | .obinit h _ _ _ _ _ _ _ => h.setf
  | .ann h _ _ _ _ _ => h.setf
  | .help h _ _ _ => h.setf
  | .barinit h _ _ _ _ _ => h.setf
  | .barv h _ _ _ _ => h.setf
  | .bardrop h _ _ _ => h.setf
  | .btx h _ _ => h.setf
  | .btest h _ _ _ _ => h.setf
  | .sred h _ _ _ _ _ _ _ => h.setf
  | .msend h _ _ _ _ => h.setf
  | .mrecv h _ _ _ _ => h.setf
  | .mstat h _ _ _ => h.setf
  | .park h _ _ _ _ => h.setf
  | .xscale h _ _ _ _ _ _ => h.setf
  | .xred h _ _ _ _ _ _ => h.setf
  | .fence h _ _ => h.setf
  | .drain h _ _ _ => h.setf
  | .drainNb h => h.setf
  | .gmma h _ _ _ _ _ _ _ _ => h.setf
  | .cvtdxb h _ _ _ _ _ => h.setf
  | .lmma h _ _ _ _ _ _ _ _ => h.setf
  | .lmmv h _ _ _ _ _ _ _ _ => h.setf
  | .lzero h _ => h.setf
  | .lload h _ _ _ _ _ _ => h.setf
  | .lstore h _ _ _ _ _ _ _ => h.setf
  | .lread h _ _ _ => h.setf
  | .lcmd h _ _ _ _ _ => h.setf
  | .tmatch h _ _ _ _ _ _ => h.setf
  | .tmerge h _ _ _ _ _ _ _ => h.setf
  | .tunmerge h _ _ _ _ _ _ => h.setf
  | .smaxr h _ _ _ _ _ _ _ _ _ => h.setf
  | .tmask h _ _ _ _ => h.setf
  | .launch h _ _ => h.setf
  | .trigger h => h.setf
  | .timerAbs h _ => h.setf
  | .timerRel h _ => h.setf
  | .timerOff h => h.setf
  | .qend h => h.setf
  | .trap h _ => h.setf
  | .trapret h => h.setf
  | .replay h _ _ => h.setf
  | .rdsr h _ _ => h.setf
  | .wrsr h _ _ => h.setf
  | .bkpt h _ => h.setf
  | _ => .none

/-- The class of an instruction: bits [95:93] of its word (R36, R54). -/
def Instr.cls : Instr → Nat
  | .fadd _ _ _ _ _ _ _ => 1
  | .faddI _ _ _ _ _ _ _ => 1
  | .fsub _ _ _ _ _ _ _ => 1
  | .fsubI _ _ _ _ _ _ _ => 1
  | .fmul _ _ _ _ _ _ _ => 1
  | .fmulI _ _ _ _ _ _ _ => 1
  | .ffma _ _ _ _ _ _ _ _ => 1
  | .ffmaI _ _ _ _ _ _ _ _ => 1
  | .fmin _ _ _ _ _ => 1
  | .fminI _ _ _ _ _ => 1
  | .fmax _ _ _ _ _ => 1
  | .fmaxI _ _ _ _ _ => 1
  | .fminm _ _ _ _ _ => 1
  | .fminmI _ _ _ _ _ => 1
  | .fmaxm _ _ _ _ _ => 1
  | .fmaxmI _ _ _ _ _ => 1
  | .fset _ _ _ _ _ _ _ => 1
  | .fsetI _ _ _ _ _ => 1
  | .fclass _ _ _ => 1
  | .frnd _ _ _ _ => 1
  | .ffrac _ _ _ => 1
  | .fscale _ _ _ _ _ _ => 1
  | .fscaleI _ _ _ _ _ _ => 1
  | .fgetexp _ _ _ => 1
  | .frcp _ _ _ _ => 2
  | .frsq _ _ _ => 2
  | .fsqrt _ _ _ _ => 2
  | .fexp2 _ _ _ => 2
  | .flog2 _ _ _ => 2
  | .fsin _ _ _ => 2
  | .fcos _ _ _ => 2
  | .ftanh _ _ _ => 2
  | .fsigm _ _ _ => 2
  | .fcvt _ _ _ _ _ _ _ _ _ _ => 2
  | .icvt _ _ _ _ _ _ => 2
  | .plop _ _ _ _ _ _ => 2
  | .pmovv _ _ _ _ => 2
  | .vmovp _ _ _ _ => 2
  | .vote _ _ _ _ _ _ _ => 2
  | .shfl _ _ _ _ _ _ _ => 2
  | .shflI _ _ _ _ _ _ => 2
  | .lred _ _ _ _ _ => 2
  | .lscan _ _ _ _ _ _ => 2
  | .lbcast _ _ _ _ _ => 2
  | .lbcastI _ _ _ _ _ => 2
  | .lfirst _ _ _ _ => 2
  | .bra _ _ _ _ => 3
  | .brx _ _ => 3
  | .call _ _ _ => 3
  | .ret _ _ => 3
  | .recon _ _ => 3
  | .exit _ => 3
  | .nop  => 3
  | .yield _ => 3
  | .ldp _ _ _ _ _ _ _ _ => 4
  | .stp _ _ _ _ _ _ _ => 4
  | .lds _ _ _ _ _ _ _ _ _ _ => 4
  | .sts _ _ _ _ _ _ _ _ _ => 4
  | .ldd _ _ _ _ _ _ _ _ => 4
  | .std _ _ _ _ _ _ _ => 4
  | .ldg _ _ _ _ _ _ _ _ => 4
  | .stg _ _ _ _ _ _ _ => 4
  | .ldx _ _ _ _ _ _ _ _ => 4
  | .stx _ _ _ _ _ _ _ => 4
  | .ldh _ _ _ _ _ _ _ _ => 4
  | .sth _ _ _ _ _ _ _ => 4
  | .ldq _ _ _ _ _ => 4
  | .qbpush _ _ => 4
  | .qbpop _ _ => 4
  | .qsync _ _ => 4
  | .qstat _ _ => 4
  | .pref _ _ _ _ => 4
  | .acp _ _ _ _ _ _ _ _ _ => 4
  | .bclose _ _ => 4
  | .bwait _ _ _ => 4
  | .fetest _ _ _ _ _ _ => 4
  | .kvlook _ _ _ _ _ => 4
  | .kvgather _ _ _ _ _ _ _ => 4
  | .kvappend _ _ _ _ _ _ => 4
  | .kvshare _ _ _ _ _ _ _ => 4
  | .atom _ _ _ _ _ _ _ _ => 5
  | .red _ _ _ _ _ _ _ => 5
  | .cas _ _ _ _ _ _ _ _ _ => 5
  | .cas2 _ _ _ _ _ _ _ _ => 5
  | .obinit _ _ _ _ _ _ _ _ => 5
  | .ann _ _ _ _ _ _ => 5
  | .help _ _ _ _ => 5
  | .barinit _ _ _ _ _ _ => 5
  | .barv _ _ _ _ _ => 5
  | .bardrop _ _ _ _ => 5
  | .btx _ _ _ => 5
  | .btest _ _ _ _ _ => 5
  | .sred _ _ _ _ _ _ _ _ => 5
  | .msend _ _ _ _ _ => 5
  | .mrecv _ _ _ _ _ => 5
  | .mstat _ _ _ _ => 5
  | .park _ _ _ _ _ => 5
  | .xscale _ _ _ _ _ _ _ => 5
  | .xred _ _ _ _ _ _ _ => 5
  | .fence _ _ _ => 5
  | .drain _ _ _ _ => 5
  | .drainNb _ => 5
  | .gmma _ _ _ _ _ _ _ _ _ => 6
  | .cvtdxb _ _ _ _ _ _ => 6
  | .lmma _ _ _ _ _ _ _ _ _ => 6
  | .lmmv _ _ _ _ _ _ _ _ _ => 6
  | .lzero _ _ => 6
  | .lload _ _ _ _ _ _ _ => 6
  | .lstore _ _ _ _ _ _ _ _ => 6
  | .lread _ _ _ _ => 6
  | .lcmd _ _ _ _ _ _ => 6
  | .tmatch _ _ _ _ _ _ _ => 6
  | .tmerge _ _ _ _ _ _ _ _ => 6
  | .tunmerge _ _ _ _ _ _ _ => 6
  | .smaxr _ _ _ _ _ _ _ _ _ _ => 6
  | .tmask _ _ _ _ _ => 6
  | .launch _ _ _ => 7
  | .trigger _ => 7
  | .timerAbs _ _ => 7
  | .timerRel _ _ => 7
  | .timerOff _ => 7
  | .qend _ => 7
  | .trap _ _ => 7
  | .trapret _ => 7
  | .replay _ _ _ => 7
  | .rdsr _ _ _ => 7
  | .wrsr _ _ _ => 7
  | .bkpt _ _ => 7
  | _ => 0

/-- A special-function instruction (R50). -/
def Instr.isSfu : Instr → Bool
  | .frcp _ _ _ _ | .frsq _ _ _ | .fsqrt _ _ _ _ | .fexp2 _ _ _ | .flog2 _ _ _ | .fsin _ _ _ | .fcos _ _ _ | .ftanh _ _ _
  | .fsigm _ _ _ => true
  | _ => false

/-- The instructions that only the A-slice executes (R17). -/
def Instr.aOnly : Instr → Bool
  | .ldq _ _ _ _ _ | .qbpop _ _ | .kvlook _ _ _ _ _ | .qstat _ _ => true
  | _ => false

/-- The instructions that the A-slice executes (R17, R134). -/
def Instr.aOk (i : Instr) : Bool :=
  i.aOnly || i.cls == 3 || (i.cls == 0 && match i with
    | .iaddc _ _ _ _ _ _ _ | .idp4 _ _ _ _ _ _ _ _ | .idp4I _ _ _ _ _ _ _ _ => false
    | _ => true)

/-- The instructions that need an A-slice beside their operands (R18). -/
def Instr.needsA : Instr → Bool
  | .qbpush _ _ | .qsync _ _ => true
  | _ => false

/-- The fields whose values a slice restricts (R141, R142, R158): ILLEGAL_ENCODING when they break it. -/
def Instr.encCtx (i : Instr) (sl : Slice) : Bool :=
  match i, sl with
  | .iset _ _ _ _ _ _ d _ _, .c => d == .v 0
  | .iset _ _ _ comb pd ps _ _ _, .a => comb == .none && pd == 0 && ps == 0
  | .isetI _ _ _ _ d _ _, .c => d == .v 0
  | .isetI _ _ _ px _ _ _, .a => px == 0
  | .sel _ _ _ _ _ c _, .c => c == .v 0
  | .sel _ _ _ _ _ _ ps, .a => ps == 0
  | .selI _ _ _ _ _ c _, .c => c == .v 0
  | .selI _ _ _ _ _ _ px, .a => px == 0
  | .bra _ _ _ a, .c => a == .v 0
  | .bra _ rtok _ _, .a => rtok == 0
  | _, _ => true

/-- The tiles that an instruction names (R169, R188). -/
def Instr.tiles : Instr → List Nat
  | .lmma _ _ zt _ _ _ _ _ _ => [zt.toNat]
  | .lmmv _ _ zt _ zx _ _ _ _ => [zt.toNat, zx.toNat]
  | .lzero _ zt => [zt.toNat]
  | .lload _ _ _ zt _ _ _ => [zt.toNat]
  | .lstore _ _ _ _ zt _ _ _ => [zt.toNat]
  | .lread _ zt _ _ => [zt.toNat]
  | .lcmd _ zt _ _ _ _ => [zt.toNat]
  | _ => []

/-- Special registers that have an RW field (R23). -/
def SReg.rw : SReg → Bool
  | .exec | .slip | .tvec | .tcmp | .seed | .fmtb => true
  | _ => false

/-- The 64-bit special registers (R23). -/
def SReg.wide : SReg → Bool
  | .tidx | .gdim | .clock | .retired | .rbase | .tvec | .tcmp | .fmtb => true
  | _ => false

/-- A uniform instruction of classes 000-010: its destination is an S or a special register (R133, R25). -/
def uniformMode (us : List Use) : Bool :=
  us.any fun u => u.cls == .dst && match u.o with
    | .s _ | .sr _ => true
    | _ => false

/-- The registers of an operand position lie in the budget and are aligned (R21, R65, R134). -/
def Use.fits (u : Use) (n bud : Nat) : Bool := n % u.al == 0 && decide (n + u.n ≤ bud)

/-- An operand position is legal in a slice of a group (R17-R25, R42, R43, R60, R65, R133, R134). -/
def Use.ok (u : Use) (g : Group) (sl : Slice) (uniform : Bool) : Bool :=
  match u.o with
  | .v n => match u.cls with
    | .src => sl == .c && !uniform && u.fits n.toNat g.vbud
    | .dst | .vec | .vs | .vsc | .vz | .base | .data | .msg => sl == .c && u.fits n.toNat g.vbud
    | .adst | .asrc => sl == .c
    | .asrc0 => n == 0
    | .none => n == 0
    | _ => false
  | .s n => match u.cls with
    | .src | .dst | .tgt | .vs | .vsc | .sc | .uni | .base => sl == .c && u.fits n.toNat g.sbud
    | .data => sl == .c && decide (u.n ≤ 2) && u.fits n.toNat g.sbud
    | .msg => sl == .c && n.toNat % 16 == 0 && decide (n.toNat + 16 ≤ g.sbud)
    | _ => false
  | .a _ => match u.cls with
    | .src | .dst | .adst | .asrc | .asrc0 | .tgt | .areg => sl == .a
    | _ => false
  | .q _ => u.cls == .src && sl == .c && !uniform && u.n == 1 && g.aentry != 0
  | .sr r => match u.cls with
    | .src => if sl == .a then r != .exec && r != .lane else !uniform || r != .lane
    | .dst => sl == .c && r.rw && r.wide == (u.n == 2)
    | _ => false
  | .const k => match u.cls with
    | .src | .sc | .vsc | .base => !u.dst
    | .vz => k == 0
    | .data => !u.dst && u.n == 1
    | _ => false
  | .qb => false
  | .unassigned _ => false

/-- The registers of an operand position (R49, R57). -/
def Use.refs (u : Use) : List RegRef :=
  match u.o, u.cls with
  | .v _, .adst | .v _, .asrc | .v _, .asrc0 | .v _, .none => []
  | .v n, _ => (List.range u.n).map fun i => .v (n.toNat + i)
  | .s n, .msg => (List.range 16).map fun i => .s (n.toNat + i)
  | .s n, _ => (List.range u.n).map fun i => .s (n.toNat + i)
  | .a n, _ => [.a n.toNat]
  | _, _ => []

/-- Predicate operands as registers; P0 is none (R20). -/
def predRefs (ps : List Nat) : List RegRef := (ps.filter (· != 0)).map .p

/-- The instructions that compute in floating point and OR their conditions into P59-P63 (R127). -/
def Instr.setsSticky (i : Instr) : Bool :=
  match i with
  | .icvt _ _ _ _ _ _ | .fclass _ _ _ => false
  | .lred _ ty _ _ _ => ty.isFloat
  | .lscan _ ty _ _ _ _ => ty.isFloat
  | .cvtdxb _ _ _ _ _ _ | .smaxr _ _ _ _ _ _ _ _ _ _ => true
  | _ => i.cls == 1 || i.isSfu

/-- The floating-point operations of a lane of an instruction (R296): two for a fused multiply-add, one for another operation, for
each element of a packed lane. GMMA counts its own. -/
def Instr.laneFlops (i : Instr) : Nat := match i with
  | .ffma _ ty _ _ _ _ _ _ | .ffmaI _ ty _ _ _ _ _ _ => 2 * ty.count
  | .fadd _ ty _ _ _ _ _ | .faddI _ ty _ _ _ _ _ | .fsub _ ty _ _ _ _ _ | .fsubI _ ty _ _ _ _ _
  | .fmul _ ty _ _ _ _ _ | .fmulI _ ty _ _ _ _ _ => ty.count
  | .fmin _ ty _ _ _ | .fminI _ ty _ _ _ | .fmax _ ty _ _ _ | .fmaxI _ ty _ _ _
  | .fminm _ ty _ _ _ | .fminmI _ ty _ _ _ | .fmaxm _ ty _ _ _ | .fmaxmI _ ty _ _ _ => ty.count
  | i => if i.setsSticky || i.cls == 1 then 1 else 0

/-- The registers an instruction reads or writes (R49): its operands, its guard, its predicates, and the sticky predicates
that it may set. -/
def Instr.refs (i : Instr) : List RegRef :=
  i.uses.flatMap Use.refs ++ predRefs (i.guard.p.toNat :: i.predReads ++ i.predWrites ++ (if i.setsSticky then [59, 60, 61, 62, 63] else []))

/-- The register and predicate destinations of an instruction (R50). -/
def Instr.dsts (i : Instr) : List RegRef :=
  (i.uses.filter (·.dst)).flatMap Use.refs ++ predRefs i.predWrites

/-- The V registers that an instruction names (R31). -/
def Instr.vregs (i : Instr) : List Nat := i.refs.filterMap fun r => match r with
  | .v n => some n
  | _ => none

/-- The special registers that an instruction writes (R25). -/
def Instr.srDsts (i : Instr) : List SReg := (i.uses.filter (·.dst)).filterMap fun u => match u.o with
  | .sr r => some r
  | _ => none

/-- The queue of an LDQ, whose fault its position holds (R83). -/
def Instr.ldqOf : Instr → Option Nat
  | .ldq _ q _ _ _ => some q.toNat
  | _ => none

/-- The queues an instruction pops, each once (R19). -/
def Instr.queues (i : Instr) : List Nat := (i.uses.filterMap fun u => match u.o with
  | .q n => some n.toNat
  | _ => none).eraseDups

/-- The V sources of an instruction, a packed destination that FCVT reads among them (R50, R148). -/
def Instr.vsrcs (i : Instr) : List Nat :=
  ((i.uses.filter fun u => !u.dst).flatMap Use.refs).filterMap (fun r => match r with
    | .v n => some n
    | _ => none) ++ match i with
    | .fcvt _ ty _ _ _ _ _ _ (.v n) _ => if ty.count = 1 then [] else [n.toNat]
    | _ => []

/-- An instruction of the vector class (R50). -/
def Instr.vectorClass (i : Instr) : Bool := [0, 1, 2, 4, 6].contains i.cls

/-- A special-function, memory or matrix instruction (R50). -/
def Instr.heavy (i : Instr) : Bool := i.isSfu || i.cls == 4 || i.cls == 6

/-- A pair that breaks R50. -/
def pairConflict (i j : Instr) : Bool :=
  !(i.vectorClass && j.vectorClass) ||
  ((i.dsts.filter j.dsts.contains).any fun r => match r with
    | .p k => decide (k < 59)
    | _ => true) ||
  i.srDsts.any j.srDsts.contains ||
  decide (3 < (((i.vsrcs ++ j.vsrcs).map (· % 4)).eraseDups).length) ||
  (i.heavy && j.heavy)

end Sys2Proof

namespace Sys2Proof.Machine

/-! ## Reading -/

/-- What an issuing instruction sees: the state it issues in, its group as its registers are read (R49, R51), its path,
slice, guard, popped entries, and the completion flag it raises. -/
structure Env where
  s : State
  g : Group
  gi : Nat
  p : Path
  sl : Slice
  gd : Guard
  pops : List (Nat × LaneVec)
  flag : Option Nat
  addr : Nat
  deriving Repr

/-- ulane() (R58). -/
def Env.ulane (e : Env) : Nat := lowLane e.p.exec
/-- The uniform guard; the A-slice has none (R39). -/
def Env.uguard (e : Env) : Bool := e.sl == .a || e.g.guardAt e.gd e.ulane
/-- Whether a lane is active (R58). -/
def Env.isActive (e : Env) (l : Nat) : Bool := e.p.exec.getLsbD l && e.g.guardAt e.gd l
/-- active(EXEC) of R58. -/
def Env.active (e : Env) : List Nat := lanes.filter e.isActive

/-- Lane `l` of V register `n`. -/
def Group.vlane (g : Group) (n l : Nat) : Word := (g.regs.v.getD n []).getD l 0
/-- S register `n`. -/
def Group.sreg (g : Group) (n : Nat) : Word := g.regs.s.getD n 0
/-- A register `n`. -/
def Group.areg (g : Group) (n : Nat) : DWord := g.regs.a.getD n 0
/-- A 64-bit value from its words, the low word first (R20). -/
def join (lo hi : Word) : DWord := hi ++ lo
/-- The S pair from `n`. -/
def Group.spair (g : Group) (n : Nat) : DWord := join (g.sreg n) (g.sreg (n + 1))

/-- The FP32 pattern of a floating-point constant 0x1F0 + `k` (R43). -/
def fpConst (k : Nat) : Word :=
  [0x3F000000, 0xBF000000, 0x3F800000, 0xBF800000, 0x40000000, 0xC0000000, 0x40800000, 0xC0800000, 0x3E800000, 0x3E22F983,
   0x3F317218, 0x3FB8AA3B, 0x40490FDB, 0x7F800000, 0xFF800000, 0x7F7FFFFF].getD k 0

/-- The integer of an integer constant (R43). -/
def intConst (k : Nat) : Int := if k < 32 then k else (k : Int) - 48

/-- An inline constant in an integer source, 64 bits wide (R43). -/
def constInt (k : BitVec 6) : DWord :=
  if k.toNat < 48 then BitVec.ofInt 64 (intConst k.toNat) else (fpConst (k.toNat - 48)).setWidth 64

/-- A value of `b` bits replicated over a lane word. -/
def replicateBits (b v : Nat) : Word :=
  match b with
  | 16 => BitVec.ofNat 32 (v + v * 2 ^ 16)
  | 8 => BitVec.ofNat 32 (v * 0x01010101)
  | _ => BitVec.ofNat 32 v

/-- An inline constant in a source of format `t` (R43). -/
def constFp (k : BitVec 6) (t : Ty) : Word :=
  if k.toNat < 48 then
    let v := intConst k.toNat
    replicateBits (Ty.bits t) (roundFx (fmtOf t) (.dir .rne) false (.fin (decide (v < 0)) v.natAbs 0)).1
  else
    let w := fpConst (k.toNat - 48)
    if t = .f32 then w
    else replicateBits (Ty.bits t) (roundFx (fmtOf t) (.dir .rne) false (F32.decode w.toNat)).1

/-- GIDX (R23). -/
def Group.gidx (g : Group) : Nat := g.tgidx + g.ridx * 2 ^ 8
/-- TDIM (R23). -/
def Group.tdim (g : Group) : Nat := g.tgroups + g.nroles * 2 ^ 8 + g.rgroups * 2 ^ 16
/-- CLUS (R23). -/
def Gid.clus (i : Gid) : Nat := i.cluster + i.part * 2 ^ 8 + i.slot * 2 ^ 10

/-- The value of a special register in a lane, 64 bits wide (R23, R24, R26, R27). -/
def Env.special (e : Env) (r : SReg) (l : Nat) : DWord :=
  let g := e.g
  match r with
  | .exec => e.p.exec.setWidth 64
  | .lane => BitVec.ofNat 64 l
  | .gidx => BitVec.ofNat 64 g.gidx
  | .tidx => BitVec.ofNat 64 g.tidx
  | .tdim => BitVec.ofNat 64 g.tdim
  | .gdim => g.gdim
  | .role => BitVec.ofNat 64 g.role
  | .clus => BitVec.ofNat 64 g.gid.clus
  | .dieid => BitVec.ofNat 64 (dieOf g.gid.cluster + e.s.devnum * 2 ^ 16)
  | .ctxid => BitVec.ofNat 64 (g.slot + g.part * 2 ^ 6 + g.prio * 2 ^ 9 + (e.s.ctx g.slot).pasid.toNat % 2 ^ 20 * 2 ^ 12)
  | .clock => e.s.clockOf g
  | .retired => g.retired
  | .quantum => BitVec.ofNat 64 (if g.dmode then g.quantum else 0)
  | .slip => BitVec.ofNat 64 g.regs.slip
  | .rbase => g.rbase
  | .tvec => g.regs.tvec
  | .tcmp => g.regs.tcmp
  | .seed => g.regs.seed.setWidth 64
  | .fmtb => g.regs.fmtb

/-- src(f, l) of R58: lane `l` of an operand as 64 bits; a 32-bit position takes the low 32 (R24, R43). -/
def Env.rd (e : Env) (o : Operand) (w64 : Bool) (l : Nat) : DWord :=
  let x : DWord := match o with
    | .v n => join (e.g.vlane n.toNat l) (if w64 then e.g.vlane (n.toNat + 1) l else 0)
    | .s n => join (e.g.sreg n.toNat) (if w64 then e.g.sreg (n.toNat + 1) else 0)
    | .a n => e.g.areg n.toNat
    | .q n => match e.pops.find? (·.1 == n.toNat) with
      | some p => (p.2.getD l 0).setWidth 64
      | none => 0
    | .sr r => e.special r l
    | .const k => constInt k
    | .qb => 0
    | .unassigned _ => 0
  if w64 then x else (x.setWidth 32).setWidth 64

/-- A 32-bit word of an operand. -/
def Env.rd32 (e : Env) (o : Operand) (l : Nat) : Word := (e.rd o false l).setWidth 32

/-- A lane word of a floating-point source of type `t` (R43). -/
def Env.rdF (e : Env) (o : Operand) (t : Ty) (l : Nat) : Word :=
  match o with
  | .const k => constFp k t
  | _ => e.rd32 o l

/-- A uniform 32-bit operand. -/
def Env.u32 (e : Env) (o : Operand) : Nat := (e.rd32 o e.ulane).toNat
/-- A uniform 64-bit operand. -/
def Env.u64 (e : Env) (o : Operand) : Nat := (e.rd o true e.ulane).toNat

/-- The word `i` of consecutive registers from an operand, in a lane; a constant is sign-extended (R20, R43, R251). -/
def Env.word (e : Env) (o : Operand) (i l : Nat) : Word :=
  match o with
  | .v n => e.g.vlane (n.toNat + i) l
  | .s n => e.g.sreg (n.toNat + i)
  | .const k => (constInt k >>> (32 * i)).setWidth 32
  | _ => 0

/-- The number in `n` consecutive registers from an operand, in a lane. -/
def Env.num (e : Env) (o : Operand) (n l : Nat) : Nat :=
  (List.range n).foldl (fun a i => a + (e.word o i l).toNat * 2 ^ (32 * i)) 0

/-! ## Writing -/

/-- The words of a V register replaced in the lanes where `f` gives a value. -/
def Group.fillV (g : Group) (n : Nat) (f : Nat → Option Word) : Group :=
  { g with regs := { g.regs with v := g.regs.v.modify n fun old => lanes.map fun l => (f l).getD (old.getD l 0) } }

/-- V register `n` has been written, and its line is dirty (R30, R31). -/
def Group.markV (g : Group) (n : Nat) : Group :=
  { g with vwr := if g.vwr.contains n then g.vwr else g.vwr ++ [n], vdirty := if g.vdirty.contains n then g.vdirty else g.vdirty ++ [n] }

/-- A V register written in the lanes where `f` gives a value; where it gives none, nothing is written. -/
def Group.setV (g : Group) (n : Nat) (f : Nat → Option Word) : Group :=
  if lanes.any fun l => (f l).isSome then (g.fillV n f).markV n else g

/-- An S register written. -/
def Group.setS (g : Group) (n : Nat) (x : Word) : Group := { g with regs := { g.regs with s := g.regs.s.set n x } }
/-- An A register written. -/
def Group.setA (g : Group) (n : Nat) (x : DWord) : Group := { g with regs := { g.regs with a := g.regs.a.set n x } }
/-- The S pair from `n` written. -/
def Group.setSPair (g : Group) (n : Nat) (x : DWord) : Group :=
  (g.setS n (x.setWidth 32)).setS (n + 1) ((x >>> 32).setWidth 32)

/-- The SLIP value that a write stores (R28). -/
def slipOf (x : DWord) : Nat :=
  let k := x.toNat % 32
  if k = 0 then 1 else min k 16

/-- A special register written (R25, R26, R28, R29); reserved bits store zero (R5). -/
def Group.setSr (g : Group) (pid : Nat) (r : SReg) (x : DWord) : Group :=
  match r with
  | .exec => g.mapPath pid fun p => { p with exec := x.setWidth 32 &&& p.held }
  | .slip => { g with regs := { g.regs with slip := slipOf x } }
  | .tvec => { g with regs := { g.regs with tvec := x &&& 0x00FFFFFFFFFFFFFF } }
  | .tcmp => { g with regs := { g.regs with tcmp := x }, armed := true }
  | .seed => { g with regs := { g.regs with seed := x.setWidth 32 } }
  | .fmtb => { g with regs := { g.regs with fmtb := x &&& 0x3FFFFFFFFFFFFF3F } }
  | _ => g

/-- dst(l) := v of R58: a destination written in the lanes where `f` gives a value; a uniform destination takes the value
of the lane `u`, an A register that of lane 0. -/
def Group.writeD (g : Group) (pid u : Nat) (d : Operand) (w64 : Bool) (f : Nat → Option DWord) : Group :=
  match d with
  | .v n =>
    let g := g.setV n.toNat fun l => (f l).map fun x => x.setWidth 32
    if w64 then g.setV (n.toNat + 1) fun l => (f l).map fun (x : DWord) => BitVec.setWidth 32 (x >>> (32 : Nat)) else g
  | .s n => match f u with
    | some x => if w64 then g.setSPair n.toNat x else g.setS n.toNat (x.setWidth 32)
    | none => g
  | .a n => match f 0 with
    | some x => g.setA n.toNat x
    | none => g
  | .sr r => match f u with
    | some x => g.setSr pid r x
    | none => g
  | _ => g

/-- What one lane of an instruction gives: a value, a predicate, conditions. -/
structure LaneOut where
  val : DWord := 0
  p : Bool := false
  cnd : Cnd := 0
  deriving DecidableEq, Repr

/-- The lanes in which an instruction with destination `d` takes effect (R133): per lane, once in ulane(), or once. -/
def Env.takes (e : Env) (d : Operand) (l : Nat) : Bool :=
  match d with
  | .s _ | .sr _ => l == e.ulane && e.uguard
  | .a _ => l == 0
  | _ => e.isActive l

/-- The destination of an instruction of classes 000-010 takes what each lane that writes it gives (R133). -/
def Group.aluDest (g : Group) (e : Env) (hasD : Bool) (d : Operand) (w64 : Bool) (f : Nat → LaneOut) : Group :=
  if hasD then g.writeD e.p.id e.ulane d w64 fun l => if e.takes d l then some (f l).val else none else g

/-- The predicate destination takes each active lane's result, or one result in every lane of the path where the instruction is
uniform (R39, R133). -/
def Group.aluPred (g : Group) (e : Env) (d : Operand) (pd : Nat) (f : Nat → LaneOut) : Group :=
  match d with
  | .s _ | .sr _ => if e.uguard then g.setPAll pd e.p.held (f e.ulane).p else g
  | _ => g.setP pd fun l => if e.takes d l then some (f l).p else none

/-- An instruction of classes 000-010 (R133): the destination, a predicate destination, and the sticky conditions are
written from what each lane gives. `d` is V0 for an instruction that has a predicate destination only, when `hasD` is false. -/
def Group.alu (g : Group) (e : Env) (hasD : Bool) (d : Operand) (w64 : Bool) (pd : Nat) (f : Nat → LaneOut) : Group :=
  ((g.aluDest e hasD d w64 f).aluPred e d pd f).sticky fun l => if e.takes d l then (f l).cnd else 0

end Sys2Proof.Machine
end

