-- ==== Sys2Proof/Machine/Issue.lean ====
section
/-! DEFINITION. Issuing one instruction: the checks of R53, the interlocks of R49, the pops of R19, the effect, and
retirement (R27, R48), or the stall or fault that ends it. -/

namespace Sys2Proof.Machine

/-- The completion flag that a SETF code names through the line (R41, R48). -/
def flagOf (f : SetF) (c : Cursor) : Option Nat :=
  match f with
  | .none => none
  | .a => some c.seta
  | .b => some c.setb

/-- The tiles an instruction names exist (R169); LMMV's differ (R188). -/
def tilesOk (ts : List Nat) (zn : Nat) : Bool := ts.all (fun t => decide (t < zn)) && ts.eraseDups == ts

/-- Rank 3 of R53: fields and codes that depend on the slice or the line (R38, R48). -/
def encodingOk (i : Instr) (c : Cursor) : Bool :=
  i.encCtx c.sl && match flagOf i.setf c with
    | none => true
    | some k => c.sl == .c && decide (k < 12)

/-- Rank 4 of R53: the operands and the slice (R17-R19, R21, R23, R25, R39, R42, R43, R169). -/
def operandsOk (i : Instr) (g : Group) (zn : Nat) (c : Cursor) : Bool :=
  (match c.sl with
    | .a => i.aOk && i.guard == ⟨0, false⟩
    | .c => !i.aOnly) &&
  (!i.needsA || g.aentry != 0) &&
  i.uses.all (fun u => u.ok g c.sl (uniformMode i.uses)) && !i.badMix && tilesOk i.tiles zn

/-- The tiles of a group's team (R169). -/
def State.znOf (s : State) (g : Group) : Nat := match s.teamOf g with
  | some t => t.ztiles.length
  | none => 0

/-- The decode fault of an instruction in its slice and group, ranks 3 and 4 of R53. -/
def decodeFault (i : Instr) (g : Group) (s : State) : Option FCode :=
  if !encodingOk i s.cur then some .illegalEncoding
  else if !operandsOk i g (s.znOf g) s.cur then some .illegalOperand
  else none

/-- The registers that issued operations of a group have still to write (R49). -/
def Group.awaited (g : Group) : List RegRef := g.ops.flatMap (·.dsts)
/-- The registers that a group's buffered operations have still to write (R238). -/
def Group.buffered (g : Group) : List RegRef := g.cbuf.flatMap (·.dsts)

/-- Popping a queue (R19, R83, R84, R87): the entry and the group without it, a stall, or a fault. -/
def Group.popQ (g : Group) (q : Nat) : Except Stop (LaneVec × Group) :=
  match g.q.getD q [] with
  | .data v :: r => .ok (v, { g with q := g.q.set q r, qh := g.qh.modify q (fun h => (h + 1) % 16) })
  | .reserved :: _ => .error .stall
  | .fault f :: _ => .error (.fault { f with aorg := some q, lane := 255 })
  | [] => match g.ast with
    | .halted f _ _ => .error (.fault { f with aorg := some q, lane := 255 })
    | .run => .error (if g.astall then .fault { code := .sliceDeadlock } else .stall)
    | _ => .error (.fault { code := .queueUnderrun })

/-- Popping several queues in order. -/
def Group.popAll : Group → List Nat → Except Stop (List (Nat × LaneVec) × Group)
  | g, [] => .ok ([], g)
  | g, q :: qs => match g.popQ q with
    | .error e => .error e
    | .ok (v, g) => match Group.popAll g qs with
      | .error e => .error e
      | .ok (vs, g) => .ok ((q, v) :: vs, g)

/-- A named V register without a resident line (R31). -/
def Group.missing (g : Group) (ns : List Nat) : Option Nat :=
  ns.find? fun n => !g.vres.contains n

/-- The named lines become the most recently named (R31). -/
def Group.touch (g : Group) (ns : List Nat) : Group :=
  { g with vres := g.vres.filter (fun n => !ns.contains n) ++ g.vres.filter ns.contains }

/-- The path of the cursor, as the group's registers are read; the A-slice has no lanes. -/
def Group.curPath (g : Group) (c : Cursor) : Path :=
  match c.sl, g.path c.p with
  | .c, some p => p
  | _, _ => { id := c.p, pc := g.apc, exec := 0, held := 0 }

/-- The next instruction of the path or of the A-slice is the following slot (R47). -/
def Group.advance (g : Group) (c : Cursor) : Group :=
  match c.sl with
  | .c => g.mapPath c.p fun p => { p with pc := nextAddr c.addr }
  | .a => { g with apc := nextAddr c.addr }

/-- The environment of an instruction and the group after its pops, its program counter at the next slot; or why it does
not issue (R53, R49, R31, R21, R19, R238, R362, R377). -/
def prepare (i : Instr) (g : Group) (s : State) : Except Stop (Env × Group) :=
  let regs := s.snap.getD g
  let fl := flagOf i.setf s.cur
  match decodeFault i g s with
  | some c => .error (.fault { code := c })
  | none =>
    if i.refs.any regs.buffered.contains then .error .quantum
    else if i.refs.any regs.awaited.contains then .error .stall
    else match g.missing i.vregs with
      | some n => .error (.fill n)
      | none =>
        if i.vregs.any g.vbad.contains then .error (.fault { code := .eccUncorrected })
        else if fl.any (fun f => g.flags.getD f 0 ≥ 255) then
          .error (if g.cbuf.any (fun o => o.flag == fl) then .quantum else .stall)
        else match g.popAll i.queues with
          | .error e => .error e
          | .ok (pops, g') =>
            let e : Env := { s := s, g := regs, gi := s.cur.g, p := regs.curPath s.cur, sl := s.cur.sl, gd := i.guard, pops := pops, flag := fl, addr := s.cur.addr }
            let g' := if s.snap.isNone then { g' with raised := [0, 0, 0, 0, 0] } else g'
            .ok (e, (g'.touch i.vregs).advance s.cur)

/-- A fault halts the A-slice; a faulting LDQ keeps its position, which holds the fault (R83). -/
def Group.haltA (g : Group) (f : FaultInfo) (q : Option Nat) : Group :=
  let g := { g with ast := .halted f q false }
  match q with
  | some k => { g with q := g.q.modify k (· ++ [.fault f]) }
  | none => g

/-- A BWAIT of a path stalls on these commands; its time counts from its first stall (R99). -/
def Group.noteBwait (g : Group) (pid now : Nat) (ids : List Nat) : Group :=
  if g.bwait.any (·.pid == pid) then { g with bwait := g.bwait.map fun w => if w.pid == pid then { w with ids := ids } else w }
  else { g with bwait := g.bwait ++ [{ since := now, pid := pid, ids := ids }] }

/-- The time of the stalled BWAITs of a group, resident or not, stands still while a replayable record of an awaited command is
posted and not replayed, and while the group is not resident (R99). -/
def Group.tuneBwait (g : Group) (now : Nat) (away : Bool) (posted : List Nat) : Group :=
  { g with bwait := g.bwait.map fun w =>
      match w.still, away || w.ids.any posted.contains with
      | none, true => { w with still := some now }
      | some t, false => { w with since := w.since + (now - t), still := none }
      | _, _ => w }

/-- The commands of a context that have a replayable record posted and not answered (R348). -/
def Context.posted (c : Context) : List Nat := c.recs.filterMap (·.cmd)

/-- An instruction that does not retire: a stall, the end of a quantum, or a fault, which is precise (R51, R75, R338). -/
def State.stop (s : State) (st : Stop) (q : Option Nat) : State :=
  let base := match s.snap with
    | some g0 => { s.setG s.cur.g g0 with snap := none }
    | none => s
  let gi := s.cur.g
  match st with
  | .stall => base.report .stalled
  | .fill n => (base.mapG gi fun g => { g with vneed := some n }).report .stalled
  | .bwait ids => (base.mapG gi fun g =>
      (g.noteBwait s.cur.p s.clock.toNat ids).tuneBwait s.clock.toNat false (s.ctx g.slot).posted).report .stalled
  | .qbpop => (base.mapG gi fun g => { g with astall := true }).report .stalled
  | .quantum => (base.mapG gi fun g => { g with qend := true }).report .stalled
  | .fault f =>
    match s.cur.sl with
    | .a => (base.mapG gi fun g => g.haltA f q).report (.faulted f.code)
    | .c =>
      let fpc := if s.snap.isSome then s.cur.addr - 12 else s.cur.addr
      (base.raise gi { f with hi := s.snap.isSome } fpc fpc s.cur.p).report (.faulted f.code)

/-- Retirement (R27, R236): RETIRED counts a C-slice instruction whether its guard held or not; its floating-point operations are
counted for the intensity classifier (R296). -/
def Group.retire (g : Group) (sl : Slice) (second : Bool) (flops : Nat) : Group :=
  match sl with
  | .a => { g with astall := false }
  | .c =>
    let g := if second then g.resticky else g
    { g with retired := g.retired + 1, qn := g.qn + 1, flops := g.flops + flops }

/-- Issuing an instruction with an effect: it retires in a next state, stalls, or faults with no effect (R53, R58). -/
def issue (i : Instr) (body : Env → State → Except Stop State) (s : State) : Host.Outcome State Fault Refusal :=
  match s.groups[s.cur.g]? with
  | none => .fault .noAgent
  | some g =>
    match prepare i g s with
    | .error st => .next (s.stop st none)
    | .ok (e, g') =>
      match body e (s.setG s.cur.g g') with
      | .error st => .next (s.stop st i.ldqOf)
      | .ok t => .next ((t.mapG s.cur.g fun g => g.retire s.cur.sl s.snap.isSome (i.laneFlops * e.active.length)).report .retired)

/-- An effect on the group alone. -/
def groupBody (f : Env → Group → Group) : Env → State → Except Stop State :=
  fun e s => .ok (s.mapG e.gi (f e))

/-- Nothing happens (an effect whose guard is false, a hint). -/
def nopBody : Env → State → Except Stop State := fun _ s => .ok s

/-- An effect under the uniform guard (R39). -/
def whenGuard (body : Env → State → Except Stop State) : Env → State → Except Stop State :=
  fun e s => if e.uguard then body e s else .ok s

/-- A fault with an address. -/
def faultAt (c : FCode) (a : Nat) : Except Stop α := .error (.fault { code := c, addr := a })

/-- A result lifted to the body: a fault with its address, and the lowest faulting lane. -/
def liftF (x : Except (FCode × Nat) α) (lane : Nat := 255) : Except Stop α :=
  match x with
  | .ok v => .ok v
  | .error p => .error (.fault { code := p.1, addr := p.2, lane := lane })

/-- An event that takes place. -/
def event (s : State) : Host.Outcome State Fault Refusal := .next (s.report .event)
/-- An event that has nothing to act on. -/
def noEvent (s : State) : Host.Outcome State Fault Refusal := .next (s.report .nothing)

end Sys2Proof.Machine
end

