-- ==== Sys2Proof/Machine/Control.lean ====
section
/-! DEFINITION. Class 011: control, divergence and reconvergence (R157-R165). -/

namespace Sys2Proof.Machine

/-- The target of a format-C displacement: the base plus `4 · DISP` (R40, R158). -/
def dispTarget (base : Nat) (disp : BitVec 32) : Nat := (((base : Int) + 4 * disp.toInt) % 2 ^ 64).toNat

/-- Control moves to a target; its line is entered anew (R46). -/
def Group.jump (g : Group) (e : Env) (a : Nat) : Group :=
  match e.sl with
  | .c => g.mapPath e.p.id fun p => { p with pc := a, line := none }
  | .a => { g with apc := a, aline := none }

/-- The target of BRX and RET: an S pair or an A register (R157). -/
def Env.target (e : Env) (a : Operand) : Nat := (e.rd a true e.ulane).toNat

/-- The split-table entries in use in an issue partition (R160, R307). -/
def State.splitsUsed (s : State) (id : Gid) : List Nat :=
  (s.groups.filter fun g => g.gid.cluster == id.cluster && g.gid.part == id.part).flatMap fun g =>
    (g.paths ++ g.trapPaths).filterMap (·.split)

/-- A free entry of the 8-entry split table (R160). -/
def State.freeSplit (s : State) (id : Gid) : Option Nat :=
  (List.range 8).find? fun k => !(s.splitsUsed id).contains k

/-- The entries that some path or deferred path still names. -/
def Group.liveEnts (g : Group) : List REntry :=
  let used := g.paths.flatMap (fun p => p.stack ++ match p.st with
    | .wait k => [k]
    | _ => [])
  let defs := g.ents.flatMap (fun e => match e.deferred with
    | some d => d.stack
    | none => [])
  g.ents.filter fun e => (used ++ defs).contains e.id

/-- The paths waiting at an entry fuse (R162, R26): the path that split goes on, or the one that arrived last, with the OR
of the EXEC values and the lanes held before the split; the others end and free their split-table entries. -/
def Group.fuse (g : Group) (e : REntry) (last : Nat) : Group :=
  let ws := g.paths.filter fun p => p.st == .wait e.id
  match ws with
  | [] => g
  | w :: _ =>
    let arr := (ws.find? (·.id == last)).getD w
    let (keep, split) := match ws.find? (·.id == e.owner) with
      | some p => (p.id, p.split)
      | none => (arr.id, none)
    let ps := g.paths.filterMap fun p =>
      if p.id == keep then
        some { p with st := .run, exec := e.acc, held := e.held &&& ~~~e.gone, pc := arr.pc, line := arr.line, stack := arr.stack, split := split }
      else if p.st == .wait e.id then none
      else some p
    { g with paths := ps, ents := g.ents.filter (·.id != e.id) }

/-- Every entry whose lanes have all arrived or exited, and at which a path waits, fuses (R162, R163). -/
def Group.settle (g : Group) (last : Nat) : Group :=
  let g := g.ents.foldl (fun g e => if e.mask &&& ~~~e.arrived = 0 then g.fuse e last else g) g
  let g := { g with ents := g.liveEnts }
  match g.paths with
  | [p] => if g.ents.isEmpty then { g with paths := [{ p with held := 0xFFFFFFFF, split := none }] } else g
  | _ => g

/-- The deferred path of entry `j` resumes as a path of its own, at its program counter, with its mask and its stack; the entry
no longer holds it (R162, R163). It is ordered after what was issued before its split. -/
def Group.resume (g : Group) (j : Nat) (d : Deferred) (now : Nat) : Group :=
  let g := g.mapEnt j fun (e : REntry) => { e with deferred := none }
  { g with
    paths := g.paths ++ [{ id := g.nextPid, pc := d.pc, exec := d.mask, held := d.mask, stack := d.stack, born := j, since := now }],
    nextPid := g.nextPid + 1 }

/-- The lanes of a path count as arrived at an entry; the EXEC of a path that fuses there is kept. -/
def REntry.arrive (e : REntry) (p : Path) (fuses gone : Bool) : REntry :=
  { e with arrived := e.arrived ||| p.held, acc := if fuses then e.acc ||| p.exec else e.acc, gone := if gone then e.gone ||| p.held else e.gone }

/-- The topmost entry of a stack that holds a deferred path. -/
def Group.topDeferred (g : Group) (stk : List Nat) : Option (Nat × Deferred) :=
  stk.findSome? fun k => (g.ents.find? (·.id == k)).bind fun e => e.deferred.map fun d => (k, d)

/-- RECON of a path (R162): it arrives and stops; a deferred path of the entry, or of an abandoned one, resumes, topmost first. -/
def Group.recon (g : Group) (p : Path) (tok : BitVec 6) (now : Nat) : Group :=
  match p.stack.find? (fun k => (g.ents.find? (·.id == k)).any (·.tok == tok)) with
  | none => g
  | some k =>
    let above := p.stack.takeWhile (· != k)
    let rest := (p.stack.dropWhile (· != k)).drop 1
    let g := { g with ents := g.ents.map fun (e : REntry) =>
      if e.id == k then e.arrive p true false else if above.contains e.id then e.arrive p false true else e }
    let stopped := g.mapPath p.id fun q => { q with st := .wait k, stack := rest }
    match g.topDeferred (above ++ [k]) with
    | some (j, d) => (stopped.resume j d now).settle p.id
    | none => stopped.settle p.id

/-- The group has ended: no path is left, the A-slice ends, and what its queues hold is dropped (R163, R86, R87, R341). -/
def Group.finish (g : Group) : Group :=
  { g with
    paths := [], ents := [], trapPaths := [], trapEnts := [], rq := [], inh := false, ast := .exited, aline := none, astall := false,
    q := [[], [], [], []], qb := [], ops := g.ops.filter (fun o => match o.kind with
      | .ldq _ _ _ => false
      | _ => true) }

/-- EXIT of a path (R163): it ends, its split-table entry with it; a deferred path of its stack resumes; the group ends with its
last path. -/
def Group.exit (g : Group) (p : Path) (now : Nat) : Group :=
  let g := { g with
    ents := g.ents.map fun (e : REntry) => if p.stack.contains e.id then e.arrive p false false else e,
    paths := g.paths.filter (·.id != p.id) }
  match g.topDeferred p.stack with
  | some (j, d) => (g.resume j d now).settle p.id
  | none => if g.paths.isEmpty then g.finish else g.settle p.id

/-- The split of R160: the majority goes on in place, the minority detaches or is deferred. -/
def State.split (s : State) (e : Env) (rtok : BitVec 6) (T N : Mask) (target : Nat) : State :=
  match s.groups[e.gi]? with
  | none => s
  | some g =>
    let p := e.p
    let fall := nextAddr e.addr
    let taken := decide (laneCount N ≤ laneCount T)
    let (majM, majPc, minM, minPc) := if taken then (T, target, N, fall) else (N, fall, T, target)
    let id := s.nextId
    let stk := id :: p.stack
    let sp := if g.dmode then none else s.freeSplit g.gid
    let d : Option Deferred := match sp with
      | some _ => none
      | none => some ⟨minPc, minM, stk⟩
    let ent : REntry :=
      { id := id, tok := rtok, mask := p.exec, held := p.held, arrived := 0, acc := 0, owner := p.id, gone := 0, deferred := d }
    let g := { g with ents := g.ents ++ [ent] }
    let g := g.mapPath p.id fun q =>
      { q with pc := majPc, exec := majM, held := majM, stack := stk, line := if taken then none else q.line }
    let g := match sp with
      | some k =>
        { g with paths := g.paths ++ [{ id := g.nextPid, pc := minPc, exec := minM, held := minM, stack := stk, split := some k, born := s.nextId, since := s.clock.toNat }], nextPid := g.nextPid + 1 }
      | none => g
    { s.setG e.gi g with nextId := s.nextId + 1 }

/-- BRA (R158, R160). -/
def braBody (rtok : BitVec 6) (disp : BitVec 32) (a : Operand) : Env → State → Except Stop State := fun e s =>
  let t := dispTarget e.addr disp
  match s.checkTarget e.g.gid.cluster e.g.slot t with
  | .error x => liftF (.error x)
  | .ok _ =>
    match e.sl with
    | .a =>
      let take := match a with
        | .a n => e.g.areg n.toNat != 0
        | _ => true
      .ok (if take then s.mapG e.gi fun g => g.jump e t else s)
    | .c =>
      let T := maskOf e.isActive
      let N := e.p.exec &&& ~~~T
      if N = 0 then .ok (s.mapG e.gi fun g => g.jump e t)
      else if T = 0 then .ok s
      else if 16 ≤ e.p.stack.length then .error (.fault { code := .divergenceDepth })
      else .ok (s.split e rtok T N t)

/-- A branch to an address once its target is good; under the uniform guard (R158, R39). -/
def jumpBody (target : Env → Nat) (f : Env → Group → Group) : Env → State → Except Stop State := fun e s =>
  let t := target e
  match s.checkTarget e.g.gid.cluster e.g.slot t with
  | .error x => liftF (.error x)
  | .ok _ => .ok (if e.uguard then s.mapG e.gi fun g => (f e g).jump e t else s)

/-- CALL's return address (R159). -/
def callLink (d : Operand) (e : Env) (g : Group) : Group :=
  g.writeD e.p.id e.ulane d true fun _ => some (BitVec.ofNat 64 (nextAddr e.addr))

/-- RECON (R162); a NOP in the A-slice, which has one path. -/
def reconBody (tok : BitVec 6) : Env → State → Except Stop State := fun e s =>
  match e.sl with
  | .a => .ok s
  | .c => .ok (if e.uguard then s.mapG e.gi fun g => match g.path e.p.id with
      | some p => g.recon p tok s.clock.toNat
      | none => g
    else s)

/-- EXIT (R163); it ends a D-mode quantum (R239). -/
def exitBody : Env → State → Except Stop State := fun e s =>
  match e.sl with
  | .a => .ok (s.mapG e.gi fun g => { g with ast := .exited, aline := none })
  | .c => .ok (if e.uguard then s.mapG e.gi fun g => match g.path e.p.id with
      | some p => { g.exit p s.clock.toNat with qend := g.qend || g.dmode }
      | none => g
    else s)

/-- YIELD (R165): the path, or the A-slice, gives way until the others have been offered the slot or 64 cycles pass. -/
def yieldBody : Env → State → Except Stop State := fun e s =>
  let t := s.clock.toNat + 64
  .ok (if e.uguard then s.mapG e.gi fun g => match e.sl with
    | .c => g.mapPath e.p.id fun p => { p with yield := t, passed := [] }
    | .a => { g with ayield := t, apassed := [] }
  else s)


/-- BRA (R158, R160). -/
def execBra (g : Guard) (rtok : BitVec 6) (disp : BitVec 32) (a : Operand) (s : State) : Host.Outcome State Fault Refusal :=
  issue (.bra g rtok disp a) (braBody rtok disp a) s

/-- BRX (R158). -/
def execBrx (g : Guard) (a : Operand) (s : State) : Host.Outcome State Fault Refusal :=
  issue (.brx g a) (jumpBody (fun e => e.target a) (fun _ g => g)) s

/-- CALL (R158, R159). -/
def execCall (g : Guard) (disp : BitVec 32) (d : Operand) (s : State) : Host.Outcome State Fault Refusal :=
  issue (.call g disp d) (jumpBody (fun e => dispTarget e.addr disp) (callLink d)) s

/-- RET (R158). -/
def execRet (g : Guard) (a : Operand) (s : State) : Host.Outcome State Fault Refusal :=
  issue (.ret g a) (jumpBody (fun e => e.target a) (fun _ g => g)) s

/-- RECON (R162). -/
def execRecon (g : Guard) (rtok : BitVec 6) (s : State) : Host.Outcome State Fault Refusal :=
  issue (.recon g rtok) (reconBody rtok) s

/-- EXIT (R163). -/
def execExit (g : Guard) (s : State) : Host.Outcome State Fault Refusal :=
  issue (.exit g) (exitBody) s

/-- NOP (R55). -/
def execNop (s : State) : Host.Outcome State Fault Refusal :=
  issue .nop (nopBody) s

/-- YIELD (R165). -/
def execYield (g : Guard) (s : State) : Host.Outcome State Fault Refusal :=
  issue (.yield g) (yieldBody) s

end Sys2Proof.Machine
end

