-- ==== Sys2Proof/Machine/Order.lean ====
section
/-! DEFINITION. The ordering matrices (R218, R220, R224) and when an operation in flight may be performed. -/

namespace Sys2Proof.Machine

/-- A cell of a matrix (R220), weakest first. -/
inductive OCell
  | none | addr | kept
  deriving DecidableEq, Repr

/-- The stronger of two cells (R218). -/
def OCell.max (a b : OCell) : OCell :=
  match a, b with
  | .kept, _ => .kept
  | _, .kept => .kept
  | .addr, _ => .addr
  | _, .addr => .addr
  | .none, .none => .none

/-- The matrix of .GRP (R224). -/
def cellGrp (x y : OKind) : OCell :=
  match x with
  | .eng | .pk => .none
  | .lt => if y = .lt then .kept else .none
  | _ => .kept

/-- The matrices of .TEAM, .CLU, .DIE and .DEV (R224). -/
def cellDev (x y : OKind) : OCell :=
  match x with
  | .eng | .pk => .none
  | .lt => if y = .lt then .kept else .none
  | .aq | .fa | .fsc | .ah => .kept
  | .fr => if y = .ld ∨ y = .aq ∨ y = .pk then .none else .kept
  | _ =>
    if y = .ld ∨ y = .st ∨ y = .at ∨ y = .aq ∨ y = .pk then .addr
    else if y = .fa ∧ (x = .st ∨ x = .rl) then .none
    else .kept

/-- The matrix of .SYS (R224). -/
def cellSys (x y : OKind) : OCell :=
  if y = .lt then .none
  else match x with
    | .ah => if y = .rl ∨ y = .fa ∨ y = .fr ∨ y = .fsc ∨ y = .eng then .kept else .addr
    | .ld | .st | .at | .rl => if y = .ah then .addr else cellDev x y
    | .lt => .none
    | _ => cellDev x y

/-- The kinds whose cells an operation takes together (R218). -/
def OKind.parts : OKind → List OKind
  | .atAcq => [.at, .aq]
  | .atRel => [.at, .rl]
  | .atAr => [.at, .aq, .rl]
  | k => [k]

/-- The cell of two operations in the matrix of a scope, the strongest of their parts (R218, R224). -/
def cell (sc : Scope) (x y : OKind) : OCell :=
  let m := match sc with
    | .grp => cellGrp
    | .sys => cellSys
    | _ => cellDev
  (x.parts.flatMap fun a => y.parts.map fun b => m a b).foldl OCell.max .none

/-- X is kept before Y (R220, R224): by its cell at device scope, the common matrix of the scopes (log 13). -/
def blocks (x y : OKind) (kx ky : List Nat) : Bool :=
  match cell .dev x y with
  | .kept => true
  | .addr => kx.any ky.contains
  | .none => false

/-- The operations, in order, that have still to be performed: a marker with nothing to keep is gone. -/
def Group.pending (g : Group) (xs : List Op) : List Op :=
  xs.foldl (fun acc x => match x.kind with
    | .marker => if acc.any (fun w => g.before w x.pid x.born && blocks w.ok x.ok w.keys []) then acc ++ [x] else acc
    | .engine _ => acc
    | .coll _ => acc
    | .ldq _ _ _ => acc
    | _ => acc ++ [x]) []

/-- Some earlier operation of the path is kept before an operation of this kind and these bytes. -/
def Group.mustWait (g : Group) (xs : List Op) (pid born : Nat) (k : OKind) (ks : List Nat) : Bool :=
  (g.pending xs).any fun x => g.before x pid born && blocks x.ok k x.keys ks

/-- An operation in flight may be performed: nothing earlier that is kept before it is incomplete. An LDQ is not ordered (R91). -/
def Group.mayPerform (g : Group) (o : Op) : Bool :=
  match o.kind with
  | .ldq _ _ _ => true
  | _ => !g.mustWait (g.ops.takeWhile fun x => x.id != o.id) o.pid o.born o.ok o.keys

/-- The operation of an identifier in a group. -/
def State.findOp (s : State) (gi k : Nat) : Option (Group × Op) :=
  match s.groups[gi]? with
  | some g => (g.ops.find? (·.id == k)).map fun o => (g, o)
  | none => none

/-- An operation leaves its group, and markers with nothing left to keep leave with it. -/
def Group.complete (g : Group) (o : Op) : Group :=
  let g := g.dropOp o
  let live := (g.pending g.ops).map (·.id)
  { g with ops := g.ops.filter fun x => x.kind != .marker || live.contains x.id }

/-- An operation of an instruction in flight. -/
def Env.op (e : Env) (kind : OpKind) (ok : OKind) (scope : Scope) (dsts : List RegRef) (counted : Bool) : Op :=
  { id := e.s.nextId, pid := e.p.id, kind := kind, ok := ok, scope := scope, flag := e.flag, dsts := dsts, counted := counted,
    pc := e.addr, word := e.s.cur.word, held := e.p.held, born := e.p.born, time := e.s.clock.toNat }

/-- An operation is issued: in flight, or in the commit buffer of a D-mode group, which ends its quantum when the buffer
is full (R48, R236). -/
def State.issueOp (s : State) (e : Env) (o : Op) (buffered : Bool) : Except Stop State :=
  let s := { s with nextId := s.nextId + 1 }
  if e.g.dmode && buffered then
    if 512 ≤ e.g.cbuf.length then .error .quantum
    else .ok (s.mapG e.gi fun g => g.bufOp o)
  else .ok (s.mapG e.gi fun g => g.addOp o)

end Sys2Proof.Machine
end

