-- ==== Sys2Proof/Machine/RegSpace.lean ====
section
/-! DEFINITION. The register space of a group (R30-R35): its layout, the register-cache lines of the V registers, and the
switch of a group's registers. -/

namespace Sys2Proof.Machine

/-- The keys of `n` bytes at an offset in a group's register space (R30, R33). -/
def State.regKeys (s : State) (g : Group) (off n : Nat) (wr : Bool) : Except Nat (List Nat) :=
  match s.rangeKeys g.gid.cluster g.slot (g.rbase.toNat + off) n { types := [3], r := !wr, w := wr } with
  | .ok ks => .ok ks
  | .error p => .error p.2

/-- Bytes written back to a register space, or the address that does not translate (R34). -/
def State.regWrite (s : State) (g : Group) (off : Nat) (bs : List Byte) : Except Nat State :=
  match s.regKeys g off bs.length true with
  | .ok ks => .ok (s.write (ks.zip bs))
  | .error a => .error a

/-- Bytes filled from a register space. -/
def State.regRead (s : State) (g : Group) (off n : Nat) : Except Nat Nat :=
  match s.regKeys g off n false with
  | .ok ks => .ok (wordOfBytes (s.mem.getAll ks))
  | .error a => .error a

/-- The offset of V register `n` in a register space (R30). -/
def vOffset (n : Nat) : Nat := 0x800 + 128 * n

/-- The bytes of V register `n`. -/
def Group.vline (g : Group) (n : Nat) : List Byte := lanes.flatMap fun l => bytesOfWord 4 (g.vlane n l).toNat
/-- A V register filled from its bytes as a number. -/
def Group.setVline (g : Group) (n v : Nat) : Group := g.fillV n fun l => some (BitVec.ofNat 32 (v / 2 ^ (32 * l)))

/-- A group whose register-cache line cannot be moved stops, and REGSPACE_FAULT is posted (R34). -/
def State.regFault (s : State) (gi a : Nat) : State :=
  match s.groups[gi]? with
  | none => s
  | some g => match g.paths with
    | p :: _ => s.raise gi { code := .regspaceFault, addr := a } p.pc p.pc p.id
    | [] => s.deliver gi { code := .regspaceFault, addr := a } 0

/-- A dirty V line written back; one that holds an uncorrectable error is not (R31, R362). -/
def State.spill (s : State) (g : Group) (n : Nat) : Except Nat State :=
  if g.vbad.contains n then .error (g.rbase.toNat + vOffset n) else s.regWrite g (vOffset n) (g.vline n)

/-- A resident line given up: it is neither resident nor dirty. -/
def Group.evict (g : Group) (n : Nat) : Group :=
  { g with vres := g.vres.filter (· != n), vdirty := g.vdirty.filter (· != n), vbad := g.vbad.filter (· != n) }

/-- The line of V register `n` filled, or zero when the register was never written (R31, R32). -/
def State.fillLine (s : State) (gi n : Nat) (g : Group) : Except Nat State :=
  if g.vwr.contains n then
    match s.regRead g (vOffset n) 128 with
    | .ok v => .ok (s.mapG gi fun g => ({ g with vres := g.vres ++ [n] } : Group).setVline n v)
    | .error a => .error a
  else .ok (s.mapG gi fun g => ({ g with vres := g.vres ++ [n] } : Group).setVline n 0)

/-- A V register's line made resident (R31, R32): where 128 lines are resident, the least recently named of them gives way,
written back first when it is dirty. -/
def State.lineIn (s : State) (gi n : Nat) : Except Nat State :=
  match s.groups[gi]? with
  | none => .ok s
  | some g =>
    if g.vres.contains n then .ok s
    else if g.vres.length < 128 then s.fillLine gi n g
    else
      let m := g.vres.headD 0
      match (if g.vdirty.contains m then s.spill g m else .ok s) with
      | .error a => .error a
      | .ok t => (t.mapG gi fun g => g.evict m).fillLine gi n g

/-- The V registers among register references. -/
def vRefs (rs : List RegRef) : List Nat := rs.filterMap fun r => match r with
  | .v n => some n
  | _ => none

/-- The lines of the V registers that an operation is about to write are resident (R31). -/
def State.linesIn (s : State) (gi : Nat) (ns : List Nat) : Except Nat State :=
  ns.foldl (fun (acc : Except Nat State) n => match acc with
    | .ok t => t.lineIn gi n
    | .error a => .error a) (.ok s)

/-- An operation's registers are written once their lines are resident; where one cannot be moved, the group stops (R31, R34). -/
def State.withLines (s : State) (gi : Nat) (rs : List RegRef) (f : State → State) : State :=
  match s.linesIn gi (vRefs rs) with
  | .ok t => f t
  | .error a => s.regFault gi a

/-- REGISTER_LINE_FILL (R31, R32): the line that an instruction has named is made resident. With `ecc`, a resident line is
found to hold an error that cannot be corrected (R362). -/
def registerFillBody (gi n : Nat) (ecc : Bool) (s : State) : Option State :=
  match s.groups[gi]? with
  | none => none
  | some g =>
    if ecc then
      if g.vres.contains n ∧ ¬ g.vbad.contains n then
        some { (s.mapG gi fun g => { g with vbad := g.vbad ++ [n] }) with errs := s.errs.modify 3 (· + 1) }
      else none
    else if g.vneed ≠ some n then none
    else
      let s := s.mapG gi fun g => { g with vneed := none }
      match s.lineIn gi n with
      | .ok t => some t
      | .error a => some (s.regFault gi a)

/-- The written vector (R30). -/
def Group.writtenVector (g : Group) : Nat := g.vwr.foldl (fun m n => m ||| 2 ^ n) 0

/-- The group state block (R30). EXEC of a split group is that of its first path: R26 gives each path an EXEC of its own, and
R30 does not say which one the block holds (log 95). -/
def Group.stateBlock (g : Group) : List Byte :=
  let exec : Nat := match g.paths with
    | p :: _ => p.exec.toNat
    | [] => 0
  bytesOfWord 4 exec ++ bytesOfWord 4 g.regs.slip ++ bytesOfWord 4 g.regs.seed.toNat ++ zeros 4 ++ bytesOfWord 8 g.regs.tvec.toNat ++
    bytesOfWord 8 g.regs.tcmp.toNat ++ bytesOfWord 8 g.regs.fmtb.toNat ++ bytesOfWord 8 g.retired.toNat ++ bytesOfWord 32 g.writtenVector ++ zeros 176

/-- The lines below the V registers, each with its offset (R30): the group state block, and the lines of P, S and A. -/
def Group.smallLines (g : Group) : List (Nat × List Byte) :=
  (0, g.stateBlock) ::
    ((List.range 2).map fun k => (0x100 + 128 * k, (List.range 32).flatMap fun i =>
      bytesOfWord 4 (if 32 * k + i = 0 then 0xFFFFFFFF else (g.regs.p.getD (32 * k + i) 0).toNat))) ++
    ((List.range 2).map fun k => (0x200 + 128 * k, (List.range 32).flatMap fun i => bytesOfWord 4 (g.sreg (32 * k + i)).toNat)) ++
    ((List.range 4).map fun k => (0x300 + 128 * k, (List.range 16).flatMap fun i => bytesOfWord 8 (g.areg (16 * k + i)).toNat))

/-- The V lines that a switch writes back, those that are dirty, before the others (R35). -/
def State.switchV (s : State) (g : Group) : Except Nat State :=
  g.vdirty.foldl (fun (acc : Except Nat State) n => match acc with
    | .ok t => t.spill g n
    | .error a => .error a) (.ok s)

/-- The small lines that a switch writes back: those that have changed since the group was restored; all of a group that
never was (R35). -/
def Group.changedLines (g : Group) : List (Nat × List Byte) := g.smallLines.filter fun p => !g.filed.contains p

/-- A group's registers are written back: the dirty V lines first, then the small lines that have changed (R35). -/
def State.switchOut (s : State) (g : Group) : Except Nat State :=
  g.changedLines.foldl (fun (acc : Except Nat State) (p : Nat × List Byte) => match acc with
    | .ok t => t.regWrite g p.1 p.2
    | .error a => .error a) (s.switchV g)

/-- The words of a number, from its lowest. -/
def wordsFrom (w n v : Nat) : List (BitVec w) := (List.range n).map fun i => BitVec.ofNat w (v / 2 ^ (w * i))

/-- A group's small registers are filled again (R35, R358); its V lines fill on demand (R31, R32). -/
def State.switchIn (s : State) (g : Group) : Except Nat Group :=
  match s.regRead g 0 0x50, s.regRead g 0x100 256, s.regRead g 0x200 256, s.regRead g 0x300 512 with
  | .ok b, .ok p, .ok r, .ok a =>
    let w := (List.range 256).filter fun i => ebit (ebits b 639 384) i && decide (i < g.vbud)
    let g := { g with
      retired := BitVec.ofNat 64 (ebits b 383 320), vwr := w, vres := [], vdirty := [], vbad := [],
      regs := { g.regs with
        slip := slipOf (BitVec.ofNat 64 (ebits b 63 32)), seed := BitVec.ofNat 32 (ebits b 95 64), tvec := BitVec.ofNat 64 (ebits b 191 128) &&& 0x00FFFFFFFFFFFFFF,
        tcmp := BitVec.ofNat 64 (ebits b 255 192), fmtb := BitVec.ofNat 64 (ebits b 319 256) &&& 0x3FFFFFFFFFFFFF3F,
        p := (wordsFrom 32 64 p).set 0 0xFFFFFFFF, s := wordsFrom 32 64 r, a := wordsFrom 64 64 a } }
    .ok { g with filed := g.smallLines }
  | .error e, _, _, _ => .error e
  | _, .error e, _, _ => .error e
  | _, _, .error e, _ => .error e
  | _, _, _, .error e => .error e

end Sys2Proof.Machine
end

