-- ==== Sys2Proof/Machine/Mem.lean ====
section
/-! DEFINITION. Loads and stores of the six spaces, full/empty slots, PREF (R59-R79, R93), and their completion. -/

namespace Sys2Proof.Machine

/-- The address of a lane's access (R60). -/
def Env.address (e : Env) (sp : MSpace) (a : Operand) (off : BitVec 21) (l : Nat) : Nat :=
  if sp.wide then (e.rd a true l + off.signExtend 64).toNat
  else (e.rd32 a l + off.signExtend 32).toNat

/-- The checks of one lane's access, in the order of R68: its key. -/
def State.laneKey (s : State) (g : Group) (sp : MSpace) (n l a : Nat) (rd wr at_ : Bool) : Except Stop Nat :=
  if sp.wide ∧ 2 ^ 56 ≤ a then .error (.fault { code := .addrRange, addr := a, lane := l })
  else if a % n ≠ 0 then .error (.fault { code := .misaligned, addr := a, lane := l })
  else liftF (s.spaceKey g sp l a n rd wr at_) l

/-- The check pass over the lanes (R68): lane, address and key of each. -/
def State.checkPass (s : State) (g : Group) (sp : MSpace) (n : Nat) (ls : List Nat) (addr : Nat → Nat) (rd wr at_ : Bool) :
    Except Stop (List (Nat × Nat × Nat)) :=
  ls.mapM fun l => match s.laneKey g sp n l (addr l) rd wr at_ with
    | .ok k => .ok (l, addr l, k)
    | .error e => .error e

/-- The lanes of an access: ulane() under the uniform guard, or the active lanes (R66, R68). -/
def Env.accLanes (e : Env) (uni : Bool) : List Nat := if uni then (if e.uguard then [e.ulane] else []) else e.active

/-- The register numbers from an operand. -/
def destRefs (d : Operand) (n : Nat) : List RegRef := Use.refs ⟨d, .vs, n, 1, true⟩

/-- The kind of a load or of a store (R218). -/
def ldKind (o : Ord) : OKind := if o = .acq ∨ o = .ar then .aq else .ld
/-- The kind of a store (R218). -/
def stKind (o : Ord) : OKind := if o = .rel ∨ o = .ar then .rl else .st

/-- A granule of team shared memory, as `State.fe` numbers it (R77). -/
def granuleOf (key : Nat) : Nat := (key - 2 ^ 52) / 64

/-- The bytes of a store's accesses, in lane order (R68). -/
def storeBytes (pv : Bool) (n : Nat) (acc : List (Nat × Nat × Nat)) : List (Nat × Byte) :=
  acc.flatMap fun p => (byteKeys pv p.2.1 n).zip (bytesOfWord n p.2.2)

/-- The newest byte that a group's buffered stores hold for a key (R238). -/
def bufByte (buf : List Op) (k : Nat) : Option Byte :=
  buf.foldl (fun (r : Option Byte) (o : Op) => match o.kind with
    | .store acc n => (storeBytes o.pv n acc).foldl (fun (r : Option Byte) (p : Nat × Byte) => if p.1 == k then some p.2 else r) r
    | _ => r) none

/-- The byte that the last round of a context left at a key: what a D-mode group has stored there at once since is not part
of it (R238). -/
def State.committed (s : State) (slot k : Nat) : Byte :=
  match s.groups.findSome? fun g => if g.slot == slot then (g.fresh.find? fun p => p.1 == k).map (·.2.1) else none with
  | some b => b
  | none => s.mem.get k

/-- The newest byte that a group's own stores have written at once at a key since the last round. -/
def Group.own (g : Group) (k : Nat) : Option Byte := (g.fresh.reverse.find? fun p => p.1 == k).map (·.2.2)

/-- A byte as an access of a group sees it: memory; for a D-mode group the state committed at the last round and its own stores
since, overlaid with its own buffered stores numbered below `upto`, which come before it (R236, R238). -/
def State.seen (s : State) (g : Group) (upto k : Nat) : Byte :=
  match bufByte (g.cbuf.filter fun o => decide (o.id < upto)) k with
  | some b => b
  | none => if g.dmode then (g.own k).getD (s.committed g.slot k) else s.mem.get k

/-- The stores of a D-mode group that are performed at once are noted until the round (R238). -/
def State.noteFresh (s : State) (gi : Nat) (bs : List (Nat × Byte)) : State :=
  s.mapG gi fun g => if g.dmode then { g with fresh := g.fresh ++ bs.map fun p => (p.1, s.committed g.slot p.1, p.2) } else g

/-- The value of one access of a load (R68). -/
def State.loadVal (s : State) (g : Group) (upto : Nat) (pv : Bool) (k n : Nat) (sx : Bool) : Nat :=
  let v := wordOfBytes ((byteKeys pv k n).map (s.seen g upto))
  if sx ∧ n < 4 ∧ 2 ^ (8 * n - 1) ≤ v then v + 2 ^ 32 - 2 ^ (8 * n) else v

/-- Consecutive registers from a destination written with a number in each of some lanes; an S destination takes the first. -/
def Group.writeRegs (g : Group) (d : Operand) (words : Nat) (vals : List (Nat × Nat)) : Group :=
  (List.range words).foldl (fun g i =>
    let w (v : Nat) : Word := BitVec.ofNat 32 (v / 2 ^ (32 * i))
    match d with
    | .v n => g.setV (n.toNat + i) fun l => (vals.find? (·.1 == l)).map fun p => w p.2
    | .s n => match vals with
      | p :: _ => g.setS (n.toNat + i) (w p.2)
      | [] => g
    | _ => g) g

/-- A predicate result: per lane, or once for every lane of the path (R39, R78). -/
def Group.writePred (g : Group) (px : PReg) (uni : Bool) (held : Mask) (vals : List (Nat × Bool)) : Group :=
  if uni then match vals with
    | p :: _ => g.setPAll px.toNat held p.2
    | [] => g
  else g.setP px.toNat fun l => (vals.find? (·.1 == l)).map (·.2)

/-- The registers that `n` bytes fill. -/
def wordsOf (n : Nat) : Nat := if n ≤ 4 then 1 else n / 4

/-- A load's accesses are performed and its destination written (R68, R78). With `.TAKE` the lanes whose granule is full
read, and those granules become empty. -/
def State.performLoad (s : State) (gi : Nat) (g : Group) (o : Op) : State :=
  match o.kind with
  | .load acc n sx d uni take =>
    let vals (xs : List (Nat × Nat)) := xs.map fun p => (p.1, s.loadVal g o.id o.pv p.2 n sx)
    match take with
    | none => s.setG gi (g.writeRegs d (wordsOf n) (vals acc))
    | some px =>
      let got := acc.filter fun (p : Nat × Nat) => s.fe.contains (granuleOf p.2)
      let g := g.writeRegs d (wordsOf n) (vals got)
      let g := g.writePred px uni o.held (acc.map fun (p : Nat × Nat) => (p.1, s.fe.contains (granuleOf p.2)))
      { s.setG gi g with fe := s.fe.filter fun k => !(got.map fun p => granuleOf p.2).contains k }
  | _ => s

/-- A store's accesses are performed (R68, R78). With `.FILL` the lanes whose granule is empty write, and those granules
become full. -/
def State.performStore (s : State) (gi : Nat) (o : Op) : State :=
  match o.kind with
  | .store acc n => (s.noteFresh gi (storeBytes o.pv n acc)).write (storeBytes o.pv n acc)
  | .fill acc n px uni =>
    let got := acc.filter fun (p : Nat × Nat × Nat) => !s.fe.contains (granuleOf p.2.1)
    let ok := acc.map fun (p : Nat × Nat × Nat) => (p.1, !s.fe.contains (granuleOf p.2.1))
    let s := s.write (storeBytes o.pv n got)
    let s := { s with fe := s.fe ++ (got.map fun (p : Nat × Nat × Nat) => granuleOf p.2.1).eraseDups }
    s.mapG gi fun g => g.writePred px uni o.held ok
  | _ => s

/-- A load (R64-R68, R78): the check pass, then an operation in flight, which LOAD_COMPLETION performs. -/
def loadBody (sp : MSpace) (w : Width) (sx : Bool) (o : OrdScope) (d a : Operand) (off : BitVec 21) (take : Option PReg) :
    Env → State → Except Stop State := fun e s =>
  let uni := d.isS
  match s.checkPass e.g sp w.bytes (e.accLanes uni) (e.address sp a off) true false false with
  | .error x => .error x
  | .ok acc =>
    let s := s.noteAcc e.g sp acc
    if acc.isEmpty then .ok s
    else if take.isNone ∧ 8 ≤ e.g.plainLoads then .error .stall
    else
      let dsts := destRefs d w.regs ++ (match take with
        | some px => predRefs [px.toNat]
        | none => [])
      let op := e.op (.load (acc.map fun p => (p.1, p.2.2)) w.bytes sx d uni take) (ldKind o.ord) o.scope dsts false
      let op := { op with sp := sp, plain := take.isNone, addrs := acc.map fun p => (if uni then 0 else p.1, p.2.1) }
      if e.g.dmode ∧ take.isSome then
        if e.g.mustWait e.g.ops e.p.id e.p.born op.ok op.keys then .error .stall
        else .ok (({ s with nextId := s.nextId + 1 }.performLoad e.gi ((s.groups[e.gi]?).getD e.g)) { op with flag := none })
      else s.issueOp e op false

/-- A D-mode store is buffered when it is a `.FILL` (R366), at `.TEAM` or wider, or when it writes a byte that a buffered store holds (R236). -/
def dmodeBuffers (g : Group) (sp : MSpace) (o : OrdScope) (fill : Bool) (ks : List Nat) : Bool :=
  fill || (sp != .p && o.scope != .grp) || g.cbuf.any fun x => match x.kind with
    | .store _ _ | .fill _ _ _ _ => x.keys.any ks.contains
    | _ => false

/-- A store (R64-R68, R78): the check pass, then an operation in flight, which ACKNOWLEDGEMENT performs. -/
def storeBody (sp : MSpace) (w : Width) (o : OrdScope) (a b : Operand) (off : BitVec 21) (fill : Option PReg) :
    Env → State → Except Stop State := fun e s =>
  let uni := !a.isV && !b.isV
  match s.checkPass e.g sp w.bytes (e.accLanes uni) (e.address sp a off) false true false with
  | .error x => .error x
  | .ok acc =>
    let s := s.noteAcc e.g sp acc
    if acc.isEmpty then .ok s
    else
      let vals := acc.map fun p => (p.1, p.2.2, e.num b w.regs p.1 % 2 ^ (8 * w.bytes))
      let kind : OpKind := match fill with
        | some px => .fill vals w.bytes px uni
        | none => .store vals w.bytes
      let dsts := match fill with
        | some px => predRefs [px.toNat]
        | none => []
      let op := { e.op kind (stKind o.ord) o.scope dsts true with sp := sp }
      s.issueOp e op (dmodeBuffers e.g sp o fill.isSome op.keys)

/-- An operation in flight tests or changes the full/empty bit of one of these granules (R78). -/
def Op.onGranules (o : Op) (ks : List Nat) : Bool :=
  match o.kind with
  | .load acc _ _ _ _ (some _) => acc.any fun p => ks.contains (granuleOf p.2)
  | .fill acc _ _ _ => acc.any fun p => ks.contains (granuleOf p.2.1)
  | _ => false

/-- FETEST's effect: every lane reads its granule's bit before any change; `.SET` and `.CLR` then change the granules (R79). -/
def State.fetest (s : State) (gi : Nat) (gs : List (Nat × Nat)) (op : FeOp) (px : PReg) : State :=
  let s' := s.mapG gi fun g => g.setP px.toNat fun l => (gs.find? (·.1 == l)).map fun (p : Nat × Nat) => s.fe.contains p.2
  let named := (gs.map (·.2)).eraseDups
  match op with
  | .test => s'
  | .set => { s' with fe := s'.fe ++ named.filter fun k => !s'.fe.contains k }
  | .clr => { s' with fe := s'.fe.filter fun k => !named.contains k }

/-- The kind of a FETEST (R218). A test with `.REL`, which R79 allows and the matrices have no row for, is ordered as the plain
load it is (log 96). -/
def feKind (op : FeOp) (o : Ord) : OKind := match op, o with
  | .test, .acq => .aq
  | .test, _ => .ld
  | _, .rlx => .at
  | _, .acq => .atAcq
  | _, _ => .atRel

/-- FETEST (R79). It waits as its kind does, and for the path's earlier operations on its granules (R224). In D-mode a `.SET` or
`.CLR` is an atomic, which is buffered (R218, R236). -/
def fetestBody (op : FeOp) (o : OrdScope) (px : PReg) (a : Operand) (off : BitVec 21) : Env → State → Except Stop State := fun e s =>
  match e.active.mapM (fun l =>
    let x := e.address .s a off l
    (match s.sharedKey e.g x 1 with
    | .ok k => .ok (l, granuleOf k)
    | .error c => .error (Stop.fault { code := c, addr := x, lane := l }) : Except Stop (Nat × Nat))) with
  | .error x => .error x
  | .ok gs =>
    let kind := feKind op o.ord
    if e.g.dmode ∧ op ≠ .test then
      if gs.isEmpty then .ok s else s.issueOp e (e.op (.fetest gs (op == .set) px) kind o.scope (predRefs [px.toNat]) false) true
    else if e.g.mustWait e.g.ops e.p.id e.p.born kind [] ∨
        e.g.ops.any (fun x => e.g.before x e.p.id e.p.born && x.onGranules (gs.map (·.2))) then .error .stall
    else .ok (s.fetest e.gi gs op px)

/-- An uncorrectable error is counted: in HBM with its physical address, or in an SRAM (R364). -/
def State.countEcc (s : State) (k : Nat) : State :=
  if inDram k then { s with errs := s.errs.modify 1 (· + 1), lastBad := k } else { s with errs := s.errs.modify 3 (· + 1) }

/-- Errors that ECC has corrected are counted where they were met: in HBM or in an SRAM (R362, R364). -/
def State.countCorrected (s : State) (key n : Nat) : State := { s with errs := s.errs.modify (if inDram key then 0 else 2) (· + n) }

/-- LOAD_COMPLETION (R75, R68): a load whose turn it is under R224 reads memory and writes its destination, whose lines are
resident by then (R31). `n` errors are corrected on the way (R362). -/
def loadCompletionBody (gi k n : Nat) (s : State) : Option State :=
  match s.findOp gi k with
  | some (g, o) =>
    match o.kind with
    | .load _ _ _ _ _ _ =>
      if g.mayPerform o ∧ o.late.isNone then
        match s.linesIn gi (vRefs o.dsts) with
        | .error a => some (s.regFault gi a)
        | .ok t => (t.groups[gi]?).map fun g => (t.countCorrected (o.keys.headD 0) n).performLoad gi (g.complete o) o
      else none
    | _ => none
  | none => none

/-- ACKNOWLEDGEMENT (R8, R227): a store whose turn it is under R224 is performed and acknowledged. -/
def acknowledgementBody (gi k : Nat) (s : State) : Option State :=
  match s.findOp gi k with
  | some (g, o) =>
    match o.kind with
    | .store _ _ | .fill _ _ _ _ => if g.mayPerform o ∧ o.late.isNone then some ((s.performStore gi o).mapG gi fun g => g.complete o) else none
    | _ => none
  | none => none

/-- An event that may have nothing to act on. -/
def eventOf (s : State) (t : Option State) : Host.Outcome State Fault Refusal :=
  match t with
  | some t => event t
  | none => noEvent s

/-- LOAD_COMPLETION. -/
def execLoadCompletion (g k : Nat) (s : State) (n : Nat := 0) : Host.Outcome State Fault Refusal := eventOf s (loadCompletionBody g k n s)

/-- REGISTER_LINE_FILL. -/
def execRegisterLineFill (g n : Nat) (s : State) (ecc : Bool := false) : Host.Outcome State Fault Refusal := eventOf s (registerFillBody g n ecc s)


/-- LDP (R64-R68). -/
def execLdp (h : Head) (w : Width) (sx : Bool) (o : OrdScope) (cp : CacheP) (d : Operand) (a : Operand) (off : BitVec 21) (s : State) : Host.Outcome State Fault Refusal :=
  issue (.ldp h w sx o cp d a off) (loadBody .p w sx o d a off none) s

/-- STP (R64-R68). -/
def execStp (h : Head) (w : Width) (o : OrdScope) (cp : CacheP) (a : Operand) (b : Operand) (off : BitVec 21) (s : State) : Host.Outcome State Fault Refusal :=
  issue (.stp h w o cp a b off) (storeBody .p w o a b off none) s

/-- LDS (R64-R68). -/
def execLds (h : Head) (w : Width) (sx : Bool) (o : OrdScope) (cp : CacheP) (d : Operand) (a : Operand) (off : BitVec 21) (take : Bool) (px : PReg) (s : State) : Host.Outcome State Fault Refusal :=
  issue (.lds h w sx o cp d a off take px) (loadBody .s w sx o d a off (if take then some px else none)) s

/-- STS (R64-R68). -/
def execSts (h : Head) (w : Width) (o : OrdScope) (cp : CacheP) (a : Operand) (b : Operand) (off : BitVec 21) (fill : Bool) (px : PReg) (s : State) : Host.Outcome State Fault Refusal :=
  issue (.sts h w o cp a b off fill px) (storeBody .s w o a b off (if fill then some px else none)) s

/-- LDD (R64-R68). -/
def execLdd (h : Head) (w : Width) (sx : Bool) (o : OrdScope) (cp : CacheP) (d : Operand) (a : Operand) (off : BitVec 21) (s : State) : Host.Outcome State Fault Refusal :=
  issue (.ldd h w sx o cp d a off) (loadBody .d w sx o d a off none) s

/-- STD (R64-R68). -/
def execStd (h : Head) (w : Width) (o : OrdScope) (cp : CacheP) (a : Operand) (b : Operand) (off : BitVec 21) (s : State) : Host.Outcome State Fault Refusal :=
  issue (.std h w o cp a b off) (storeBody .d w o a b off none) s

/-- LDG (R64-R68). -/
def execLdg (h : Head) (w : Width) (sx : Bool) (o : OrdScope) (cp : CacheP) (d : Operand) (a : Operand) (off : BitVec 21) (s : State) : Host.Outcome State Fault Refusal :=
  issue (.ldg h w sx o cp d a off) (loadBody .g w sx o d a off none) s

/-- STG (R64-R68). -/
def execStg (h : Head) (w : Width) (o : OrdScope) (cp : CacheP) (a : Operand) (b : Operand) (off : BitVec 21) (s : State) : Host.Outcome State Fault Refusal :=
  issue (.stg h w o cp a b off) (storeBody .g w o a b off none) s

/-- LDX (R64-R68). -/
def execLdx (h : Head) (w : Width) (sx : Bool) (o : OrdScope) (cp : CacheP) (d : Operand) (a : Operand) (off : BitVec 21) (s : State) : Host.Outcome State Fault Refusal :=
  issue (.ldx h w sx o cp d a off) (loadBody .x w sx o d a off none) s

/-- STX (R64-R68). -/
def execStx (h : Head) (w : Width) (o : OrdScope) (cp : CacheP) (a : Operand) (b : Operand) (off : BitVec 21) (s : State) : Host.Outcome State Fault Refusal :=
  issue (.stx h w o cp a b off) (storeBody .x w o a b off none) s

/-- LDH (R64-R68). -/
def execLdh (h : Head) (w : Width) (sx : Bool) (o : OrdScope) (cp : CacheP) (d : Operand) (a : Operand) (off : BitVec 21) (s : State) : Host.Outcome State Fault Refusal :=
  issue (.ldh h w sx o cp d a off) (loadBody .h w sx o d a off none) s

/-- STH (R64-R68). -/
def execSth (h : Head) (w : Width) (o : OrdScope) (cp : CacheP) (a : Operand) (b : Operand) (off : BitVec 21) (s : State) : Host.Outcome State Fault Refusal :=
  issue (.sth h w o cp a b off) (storeBody .h w o a b off none) s

/-- FETEST (R79). -/
def execFetest (h : Head) (op : FeOp) (o : OrdScope) (px : PReg) (a : Operand) (off : BitVec 21) (s : State) : Host.Outcome State Fault Refusal :=
  issue (.fetest h op o px a off) (fetestBody op o px a off) s

/-- PREF (R93): no value changes, and no access fault is raised. -/
def execPref (h : Head) (cp : CacheP) (a : Operand) (off : BitVec 21) (s : State) : Host.Outcome State Fault Refusal :=
  issue (.pref h cp a off) (nopBody) s

end Sys2Proof.Machine
end

