-- ==== Sys2Proof/Machine/Queue.lean ====
section
/-! DEFINITION. Hod queues and the queue back to the A-slice: LDQ, QBPUSH, QBPOP, QSYNC, QSTAT (R81-R92). -/

namespace Sys2Proof.Machine

/-- The keys of `n` bytes at an address with a space tag, after the checks of R82, or the fault. `al` is the alignment. R82 gives
no order of its checks: bits outside the tag's address come first, then the alignment, then the bounds and the pages (log 99). -/
def State.taggedKeys (s : State) (g : Group) (a n al : Nat) (nd : Need) : Except (FCode × Nat) (List Nat) :=
  let span (x : Except FCode Nat) : Except (FCode × Nat) (List Nat) := match x with
    | .ok k => .ok ((List.range n).map (k + ·))
    | .error c => .error (c, a)
  match a / 2 ^ 62 with
  | 0 =>
    if a / 2 ^ 56 % 64 ≠ 0 then .error (.addrRange, a)
    else if a % al ≠ 0 then .error (.misaligned, a)
    else s.rangeKeys g.gid.cluster g.slot a n nd
  | 3 => .error (.addrRange, a)
  | t =>
    if a / 2 ^ 32 % 2 ^ 30 ≠ 0 then .error (.sharedBound, a)
    else if a % al ≠ 0 then .error (.misaligned, a)
    else span (if t = 1 then s.sharedKey g (a % 2 ^ 32) n else s.scratchKey g.slot (a % 2 ^ 32) n)

/-- The pages of a global range, for the translation cache (R326). -/
def pagesOf (a n : Nat) : List Nat := if a / 2 ^ 62 = 0 ∧ 0 < n then [a, a + n - 1] else []

/-- A C-slice access that came before the last QSYNC is incomplete: the A-slice's next access follows it (R91). -/
def Group.qsyncWaits (g : Group) : Bool := g.ops.any fun o => match o.kind with
  | .ldq _ _ _ => false
  | .engine _ => false
  | _ => decide (o.id < g.qbar)

/-- An LDQ stalls: its queue is at the limit of SLIP (R81), or the last QSYNC is not passed (R91). -/
def Group.ldqStalls (g : Group) (q : Nat) : Bool := decide (g.regs.slip ≤ (g.q.getD q []).length) || g.qsyncWaits

/-- LDQ (R81-R83): the tail position is reserved, and the read is in flight. A fault of its checks halts the A-slice
and its position holds the fault (`State.stop`). -/
def ldqBody (q : BitVec 2) (a : Operand) (off : BitVec 21) : Env → State → Except Stop State := fun e s =>
  let qs := e.g.q.getD q.toNat []
  if e.g.ldqStalls q.toNat then .error .stall
  else
    let x := (e.rd a true 0 + off.signExtend 64).toNat
    match s.taggedKeys e.g x 128 4 needR with
    | .error f => liftF (.error f)
    | .ok ks =>
      let pos := (e.g.qh.getD q.toNat 0 + qs.length) % 16
      let s := s.noteTlbs e.g.gid.cluster e.g.slot (pagesOf x 128)
      let op := { e.op (.ldq q.toNat pos ks) .ld .grp [] false with addrs := [(0, x)] }
      let s := s.mapG e.gi fun g => { g with q := g.q.modify q.toNat (· ++ [QPos.reserved]) }
      s.issueOp e op false

/-- QBPUSH (R88, R83, R87). -/
def qbpushBody (a : Operand) : Env → State → Except Stop State := whenGuard fun e s =>
  if e.g.qb.length < 8 then .ok (s.mapG e.gi fun g => { g with qb := g.qb ++ [e.rd32 a e.ulane], astall := false })
  else match e.g.ast with
    | .halted f _ _ => .error (.fault { f with aorg := some 4, lane := 255 })
    | .run => .error .stall
    | _ => .error (.fault { code := .queueOverrun })

/-- QBPOP (R88): the oldest entry of QB, zero-extended; it stalls while QB is empty. -/
def qbpopBody (d : Operand) : Env → State → Except Stop State := fun e s =>
  match e.g.qb with
  | [] => .error .qbpop
  | x :: r => .ok (s.mapG e.gi fun g => ({ g with qb := r } : Group).writeD e.p.id 0 d true fun _ => some (x.setWidth 64))

/-- The word of QSTAT (R89). -/
def Group.qstat (g : Group) : DWord :=
  let flt := g.q.any fun q => q.any fun p => match p with
    | .fault _ => true
    | _ => false
  let n (k : Nat) : Nat := (g.q.getD k []).length
  BitVec.ofNat 64 (n 0 + n 1 * 2 ^ 8 + n 2 * 2 ^ 16 + n 3 * 2 ^ 24 + g.qb.length * 2 ^ 32 + flt.toNat * 2 ^ 36)

/-- QSTAT (R89). -/
def qstatBody (d : Operand) : Env → State → Except Stop State :=
  groupBody fun e g => g.writeD e.p.id 0 d true fun _ => some e.g.qstat

/-- The group is split into fragments (R90, R160): it has a second path, or a deferred one. -/
def Group.isSplit (g : Group) : Bool := decide (1 < g.paths.length) || g.ents.any (·.deferred.isSome)

/-- QSYNC (R90): the queues are emptied, LDQs in flight cancelled, and the A-slice runs again at its label. -/
def qsyncBody (disp : BitVec 32) : Env → State → Except Stop State := whenGuard fun e s =>
  if e.g.isSplit then .error (.fault { code := .qsyncSplit })
  else
    let t := dispTarget e.g.aentry disp
    match s.checkTarget e.g.gid.cluster e.g.slot t with
    | .error x => liftF (.error x)
    | .ok _ => .ok (s.mapG e.gi fun g =>
      { g with
        q := [[], [], [], []], qb := [], apc := t, ast := .run, aline := none, astall := false, ayield := 0, apassed := [], qbar := s.nextId,
        ops := g.ops.filter fun o => match o.kind with
          | .ldq _ _ _ => false
          | _ => true })

/-- LDQ_DATA_RETURN (R81, R84): the data, or ECC_UNCORRECTED with the address that was read, enters the position that the LDQ
reserved; the error is counted (R364). -/
def ldqReturnBody (gi k : Nat) (ecc : Bool) (s : State) : Option State :=
  match s.findOp gi k with
  | some (g, o) =>
    match o.kind with
    | .ldq q pos ks =>
      let w (l : Nat) : Word := BitVec.ofNat 32 (wordOfBytes ((ks.drop (4 * l)).take 4 |>.map (s.seen g s.nextId)))
      let v : QPos := if ecc then .fault { code := .eccUncorrected, addr := (o.addrs.headD (0, 0)).2 } else .data (lanes.map w)
      let s := if ecc then s.countEcc (ks.headD 0) else s
      let i := (pos + 16 - g.qh.getD q 0) % 16
      let g := g.complete o
      some (s.setG gi { g with q := g.q.modify q fun ps => ps.set i v })
    | _ => none
  | none => none

/-- LDQ_DATA_RETURN. -/
def execLdqDataReturn (g k : Nat) (ecc : Bool) (s : State) : Host.Outcome State Fault Refusal := eventOf s (ldqReturnBody g k ecc s)


/-- LDQ (R82). -/
def execLdq (g : Guard) (q : BitVec 2) (cp : CacheP) (a : Operand) (off : BitVec 21) (s : State) : Host.Outcome State Fault Refusal :=
  issue (.ldq g q cp a off) (ldqBody q a off) s

/-- QBPUSH (R88). -/
def execQbpush (h : Head) (a : Operand) (s : State) : Host.Outcome State Fault Refusal :=
  issue (.qbpush h a) (qbpushBody a) s

/-- QBPOP (R88). -/
def execQbpop (h : Head) (d : Operand) (s : State) : Host.Outcome State Fault Refusal :=
  issue (.qbpop h d) (qbpopBody d) s

/-- QSYNC (R90). -/
def execQsync (g : Guard) (disp : BitVec 32) (s : State) : Host.Outcome State Fault Refusal :=
  issue (.qsync g disp) (qsyncBody disp) s

/-- QSTAT (R89). -/
def execQstat (g : Guard) (d : Operand) (s : State) : Host.Outcome State Fault Refusal :=
  issue (.qstat g d) (qstatBody d) s

end Sys2Proof.Machine
end

