-- ==== Sys2Proof/Machine/Kiln.lean ====
section
/-! DEFINITION. Steps at the Kiln and the Spindle: atomics, announced objects, free-list takes, barriers, SRED
(R245-R274). -/

namespace Sys2Proof.Machine

/-! ## Atomics (R252) -/

/-- A number of `w` bits as a signed integer. -/
def signedOf (w v : Nat) : Int := if 2 ^ (w - 1) ≤ v then (v : Int) - 2 ^ w else v

/-- The new value of an atomic of `w` bits (R252). -/
def atomVal (op : AtomOp) (w old v : Nat) : Nat :=
  match op with
  | .add => (old + v) % 2 ^ w
  | .and => old &&& v
  | .or => old ||| v
  | .xor => old ^^^ v
  | .min => if signedOf w v < signedOf w old then v else old
  | .max => if signedOf w old < signedOf w v then v else old
  | .minu => min old v
  | .maxu => max old v
  | .exch => v
  | .incw => if v ≤ old then 0 else old + 1
  | .decw => if old = 0 ∨ v < old then v else old - 1
  | .fadd => (fpAdd F32 .rne false old v).1

/-! ## Who asks for a step (R230) -/

/-- The identity that travels with a request: place, context slot, team tag, partition. -/
structure Asker where
  gid : Gid
  slot : Nat
  tag : Nat
  part : Nat
  deriving DecidableEq, Repr

/-- A group asks. -/
def Group.asker (g : Group) : Asker := ⟨g.gid, g.slot, g.tag, g.part⟩
/-- An engine asks for the group of its command. -/
def Cmd.asker (c : Cmd) : Asker := ⟨c.gid, c.slot, c.tag, c.part⟩

/-- A context has the cross-partition permission (R319). -/
def Context.xp (c : Context) : Bool := c.perm.getLsbD 11

/-- The partition of a cluster (R328): the lowest-numbered mask that names it, or 8 when none does. -/
def State.partOf (s : State) (cl : Nat) : Nat :=
  ((List.range 8).find? fun i => (s.partmap.getD i 0).getLsbD cl).getD 8

/-! ## Announced objects (R255-R266) -/

/-- A field of an object's header. -/
def State.fld (s : State) (key off n : Nat) : Nat := s.mem.num (key + off) n
/-- K (R255). -/
def State.objK (s : State) (key : Nat) : Nat := 8 * 2 ^ ebits (s.fld key 0 4) 9 8
/-- The state words W0-W3. -/
def State.objW (s : State) (key : Nat) : List Nat := (List.range 4).map fun i => s.fld key (0x10 + 8 * i) 8
/-- The creator's context slot. -/
def State.objSlot (s : State) (key : Nat) : Nat := ebits (s.fld key 0x30 4) 12 7

/-- The object and its ring lie within the 64 KiB page of its address (R255, R257). -/
def objFits (va k : Nat) : Bool := decide (va % 2 ^ 16 + 64 + 32 * k ≤ 2 ^ 16)

/-- The partition that an object was created in: the creating group's, as OBINIT's request brought it; of an object that no OBINIT of
this machine has made, its creator's cluster's (R230, R329, log 30). -/
def State.creatorPart (s : State) (key : Nat) : Nat :=
  match s.objPart.find? (·.1 == key) with
  | some p => p.2
  | none => s.partOf (ebits (s.fld key 0x30 4) 6 0)

/-- The creator's group, as WHO names it (R255, R330). -/
def creatorWho (cr : Nat) : Nat := ebits cr 6 0 + ebits cr 14 13 * 2 ^ 7 + ebits cr 18 15 * 2 ^ 9

/-- The object admits a requester (R230, R329). -/
def State.admits (s : State) (key : Nat) (a : Asker) : Bool :=
  let ctrl := s.fld key 0 4
  let cr := s.fld key 0x30 4
  let cc := ebits cr 6 0
  let tagged := s.fld key 0x34 4 == a.tag
  let own := a.slot == ebits cr 12 7 && a.part == s.creatorPart key
  let cross := ebit ctrl 10 && (s.ctx a.slot).xp && decide (a.part < 8) && ebit (s.fld key 0x38 4) a.part
  (own || cross) && match ebits ctrl 6 4 with
    | 0 => tagged && a.gid.cluster == cc && a.gid.part == ebits cr 14 13 && a.gid.slot == ebits cr 18 15
    | 1 => tagged
    | 2 => a.gid.cluster == cc
    | 3 => dieOf a.gid.cluster == dieOf cc
    | _ => true

/-- The operation of a code (R258). -/
def objOpOf (n : Nat) : ObjOp := (ObjOp.ofCode (BitVec.ofNat 4 n)).getD .push

/-- The ATOM operation of a code (R252). -/
def atomOpOf (n : Nat) : AtomOp := (AtomOp.ofCode (BitVec.ofNat 4 n)).getD .add

/-- The argument limits of R258, side addresses aligned. -/
def objArgsOk (op : ObjOp) (a0 a1 : Nat) : Bool :=
  match op with
  | .push => a0 % 16 == 0 && a1 == 0
  | .pop | .deq => a0 == 0 && a1 == 0
  | .enq | .give => a1 == 0
  | .take => decide (1 ≤ a0) && decide (a0 ≤ 128) && a1 % 4 == 0
  | .fop => a1 % 4 == a1 % 16 && decide (a1 < 9 * 16)
  | .mcas => a0 % 64 == 0 && decide (0 < a1) && decide (a1 < 16)

/-- What OBINIT requires of the state words (R258). -/
def objWordsOk (k : ObjKind) (ws : List Nat) : Bool :=
  let w (i : Nat) : Nat := ws.getD i 0
  match k with
  | .queue => w 0 % 8 == 0 && decide (1 ≤ w 1) && decide (w 1 ≤ 2 ^ 32) && decide (w 2 ≤ w 3) && decide (w 3 ≤ w 2 + w 1)
  | .freelist => w 0 % 4 == 0 && decide (w 2 ≤ w 1)
  | _ => true

/-- The keys of a side access, in normal pages of the creator's context, or its fault and the faulting address (R258). -/
def State.sideKeys (s : State) (slot va n : Nat) (nd : Need) : Except (FCode × Nat) (List Nat) :=
  if 2 ^ 56 ≤ va then .error (.addrRange, va) else s.rangeKeys noCluster slot va n nd

/-- An applied effect: the state words, RESULT, STATUS, and the side store. -/
structure Applied where
  ws : List Nat
  res : Nat
  stat : Nat
  side : List (Nat × Byte) := []
  deriving DecidableEq, Repr

/-- The effect of an operation on state words (R258), side accesses made in a context. -/
def State.objEffect (s : State) (slot : Nat) (op : ObjOp) (a0 a1 : Nat) (ws : List Nat) : Except (FCode × Nat) Applied :=
  let w (i : Nat) : Nat := ws.getD i 0
  let M := 2 ^ 64
  match op with
  | .push => match s.sideKeys slot a0 8 needW with
    | .error c => .error c
    | .ok ks =>
      let d := (w 1 + 1) % M
      .ok { ws := (ws.set 0 a0).set 1 d, res := d, stat := 1, side := ks.zip (bytesOfWord 8 (w 0)) }
  | .pop =>
    if w 0 = 0 then .ok { ws := ws, res := 0, stat := 2 }
    else match s.sideKeys slot (w 0) 8 needR with
      | .error c => .error c
      | .ok ks => .ok { ws := (ws.set 0 (wordOfBytes (s.mem.getAll ks))).set 1 ((w 1 + M - 1) % M), res := w 0, stat := 1 }
  | .enq =>
    if w 1 ≤ (w 3 + M - w 2) % M then .ok { ws := ws, res := 0, stat := 3 }
    else match s.sideKeys slot ((w 0 + 8 * (w 3 % w 1)) % M) 8 needW with
      | .error c => .error c
      | .ok ks => .ok { ws := ws.set 3 ((w 3 + 1) % M), res := w 3, stat := 1, side := ks.zip (bytesOfWord 8 a0) }
  | .deq =>
    if w 3 = w 2 then .ok { ws := ws, res := 0, stat := 2 }
    else match s.sideKeys slot ((w 0 + 8 * (w 2 % w 1)) % M) 8 needR with
      | .error c => .error c
      | .ok ks => .ok { ws := ws.set 2 ((w 2 + 1) % M), res := wordOfBytes (s.mem.getAll ks), stat := 1 }
  | .take =>
    if w 2 < a0 then .ok { ws := ws, res := 0, stat := 2 }
    else
      let src := (List.range a0).mapM fun i => s.sideKeys slot ((w 0 + 4 * (w 2 - 1 - i)) % M) 4 needR
      let dst := s.sideKeys slot a1 (4 * a0) needW
      match src, dst with
      | .ok ss, .ok ds => .ok { ws := ws.set 2 (w 2 - a0), res := a0, stat := 1, side := ds.zip (s.mem.getAll ss.flatten) }
      | .error c, _ => .error c
      | _, .error c => .error c
  | .give =>
    if w 1 ≤ w 2 then .ok { ws := ws, res := 0, stat := 3 }
    else match s.sideKeys slot ((w 0 + 4 * w 2) % M) 4 needW with
      | .error c => .error c
      | .ok ks => .ok { ws := ws.set 2 ((w 2 + 1) % M), res := (w 2 + 1) % M, stat := 1, side := ks.zip (bytesOfWord 4 a0) }
  | .fop =>
    let i := a1 % 4
    .ok { ws := ws.set i (atomVal (atomOpOf (a1 / 16 % 16)) 64 (w i) a0), res := w i, stat := 1 }
  | .mcas => match s.sideKeys slot a0 64 needR with
    | .error c => .error c
    | .ok ks =>
      let d (i : Nat) : Nat := wordOfBytes (s.mem.getAll ((ks.drop (8 * i)).take 8))
      let named := (List.range 4).filter fun i => ebit a1 i
      let diff := (named.filter fun i => w i != d i).foldl (fun m i => m + 2 ^ i) 0
      if diff ≠ 0 then .ok { ws := ws, res := diff, stat := 5 }
      else .ok { ws := named.foldl (fun l i => l.set i (d (4 + i))) ws, res := 0, stat := 1 }

/-- The number a fault shows outside a freeze record: a malformed entry gives PERMISSION (R325). -/
def FCode.shown (c : FCode) : Nat := if c = .ptMalformed then FCode.num .permission else c.num

/-- A list of keyed entries without those of a key. -/
def dropKey (l : List (Nat × Nat)) (k : Nat) : List (Nat × Nat) := l.filter fun p => p.1 != k

/-- The mailbox of the record at `r` is written, or MAILBOX_FAULT is posted to the owner's context; nothing when the context that
posted the record no longer exists (R256, R259, R322). -/
def State.mailbox (s : State) (r owner va mb seq res stat : Nat) : State :=
  let t := { s with mailers := dropKey s.mailers r }
  if !s.mailers.contains (r, owner) then t
  else match t.sideKeys owner mb 16 needW with
    | .ok ks => t.write (ks.zip (bytesOfWord 8 res ++ bytesOfWord 4 seq ++ bytesOfWord 4 stat))
    | .error _ => t.post owner { code := FCode.num .mailboxFault, kind := 2, master := 7, addr := va, info := seq }

/-- The address of a record of a ring. -/
def recKey (key i : Nat) : Nat := key + 64 + 32 * i

/-- The record at HEAD leaves POSTED, with HEAD and COUNT (R259). -/
def State.popRecord (s : State) (key : Nat) : State :=
  let head := s.fld key 4 4
  let r := recKey key head
  let st := s.mem.num r 4
  ((s.writeNum r 4 (st / 4 * 4)).writeNum (key + 4) 4 ((head + 1) % s.objK key)).writeNum (key + 8) 4 (s.fld key 8 4 - 1)

/-- apply(obj, record at HEAD) of R259: the state and the record's SEQ. -/
def State.applyRec (s : State) (key va : Nat) : State × Nat :=
  let r := recKey key (s.fld key 4 4)
  let st := s.mem.num r 4
  let seq := s.mem.num (r + 4) 4
  let mb := s.mem.num (r + 24) 8
  let slot := s.objSlot key
  let (s1, res, stat) : State × Nat × Nat :=
    match s.objEffect slot (objOpOf (ebits st 5 2)) (s.mem.num (r + 8) 8) (s.mem.num (r + 16) 8) (s.objW key) with
    | .ok a =>
      let s := s.write a.side
      ((List.range 4).foldl (fun t i => t.writeNum (key + 0x10 + 8 * i) 8 (a.ws.getD i 0)) s, a.res, a.stat)
    | .error e => (if e.1.cls = .freeze then s.freeze slot e.1.num 7 (creatorWho (s.fld key 0x30 4)) e.2 0 else s, e.1.shown, 4)
  ((s1.popRecord key).mailbox r (ebits st 24 19) va mb seq res stat, seq)

/-- Every POSTED record is applied, oldest first (R263). -/
def State.applyAll : Nat → State → Nat → Nat → State
  | 0, s, _, _ => s
  | n + 1, s, key, va => if s.fld key 8 4 = 0 then s else State.applyAll n (s.applyRec key va).1 key va

/-- The first check of a step on an object: it lies within its page, and admits the requester (R230, R250). -/
def State.objCheck (s : State) (a : Asker) (key va : Nat) : Except FCode Unit :=
  if !objFits va (s.objK key) then .error .objRange
  else if !s.admits key a then .error .queueScope
  else .ok ()

/-- ANN's step (R260): the state and the sequence number. -/
def State.annStep (s : State) (a : Asker) (key va : Nat) (op : ObjOp) (a0 a1 mb : Nat) : Except FCode (State × Nat) :=
  match s.objCheck a key va with
  | .error c => .error c
  | .ok _ =>
    if ebits (s.fld key 0 4) 3 0 ≠ op.code.toNat / 2 then .error .objKind
    else if !objArgsOk op a0 a1 then .error .objArg
    else
      let k := s.objK key
      let s := if k ≤ s.fld key 8 4 then (s.applyRec key va).1 else s
      let count := s.fld key 8 4
      let i := (s.fld key 4 4 + count) % k
      let seq := s.fld key 12 4
      let owner := a.gid.cluster + a.gid.part * 2 ^ 7 + a.gid.slot * 2 ^ 9 + a.slot * 2 ^ 13
      let bytes := bytesOfWord 4 (1 + op.code.toNat * 4 + owner * 2 ^ 6) ++ bytesOfWord 4 seq ++ bytesOfWord 8 a0 ++ bytesOfWord 8 a1 ++
        bytesOfWord 8 mb
      let s := s.write (bytes.zipIdx.map fun p => (recKey key i + p.2, p.1))
      let s := { s with mailers := dropKey s.mailers (recKey key i) ++ [(recKey key i, a.slot)] }
      .ok ((s.writeNum (key + 8) 4 (count + 1)).writeNum (key + 12) 4 (if seq = 2 ^ 32 - 1 then 1 else seq + 1), seq)

/-- HELP's step (R261): the state, whether a record was applied, and the number. -/
def State.helpStep (s : State) (a : Asker) (key va : Nat) : Except FCode (State × Bool × Nat) :=
  match s.objCheck a key va with
  | .error c => .error c
  | .ok _ =>
    if 0 < s.fld key 8 4 then
      let (t, seq) := s.applyRec key va
      .ok (t, true, seq)
    else .ok (s, false, s.fld key 12 4)

/-- OBINIT's step (R257): the header, every record's STATE as EMPTY; records posted before are discarded without a mailbox write. -/
def State.obinitStep (s : State) (a : Asker) (key : Nat) (kind : ObjKind) (scope kcode : Nat) (xp : Bool) (pmask : Nat) (ws : List Nat) : State :=
  let ctrl := kind.code.toNat + scope * 2 ^ 4 + kcode * 2 ^ 8 + xp.toNat * 2 ^ 10
  let cr := a.gid.cluster + a.slot * 2 ^ 7 + a.gid.part * 2 ^ 13 + a.gid.slot * 2 ^ 15
  let h := bytesOfWord 4 ctrl ++ bytesOfWord 4 0 ++ bytesOfWord 4 0 ++ bytesOfWord 4 1 ++ ws.flatMap (bytesOfWord 8) ++
    bytesOfWord 4 cr ++ bytesOfWord 4 a.tag ++ bytesOfWord 4 pmask ++ bytesOfWord 4 0
  let s := s.write (h.zipIdx.map fun p => (key + p.2, p.1))
  let s := { s with
    mailers := s.mailers.filter (fun p => decide (p.1 < key) || decide (recKey key (8 * 2 ^ kcode) ≤ p.1))
    objPart := dropKey s.objPart key ++ [(key, a.part)] }
  (List.range (8 * 2 ^ kcode)).foldl (fun t i => t.writeNum (recKey key i) 1 (t.mem.num (recKey key i) 1 / 4 * 4)) s

/-- The take of R263: a refusal of the first step changes nothing; otherwise every posted record is applied, and then all of `n`
blocks are taken, or none. An entry that cannot be read ends the take after the records. -/
def State.takeBlocks (s : State) (a : Asker) (key va n : Nat) : State × Except (FCode × Nat) (Option (List Nat)) :=
  if ebits (s.fld key 0 4) 3 0 ≠ 2 then (s, .error (.objKind, va))
  else match s.objCheck a key va with
  | .error c => (s, .error (c, va))
  | .ok _ =>
    let s := s.applyAll (s.fld key 8 4) key va
    let w (i : Nat) : Nat := (s.objW key).getD i 0
    if w 2 < n then (s, .ok none)
    else match (List.range n).mapM fun i => s.sideKeys (s.objSlot key) ((w 0 + 4 * (w 2 - 1 - i)) % 2 ^ 64) 4 needR with
      | .error e => (s, .error e)
      | .ok ks => (s.writeNum (key + 0x20) 8 (w 2 - n), .ok (some (ks.map fun k => wordOfBytes (s.mem.getAll k))))

/-- The ring indexes of an object's POSTED records, oldest first. -/
def State.postedIdx (s : State) (key : Nat) : List Nat :=
  (List.range (min (s.fld key 8 4) (s.objK key))).map fun i => (s.fld key 4 4 + i) % s.objK key

/-- A record of a poisoned object leaves POSTED with FAILED in its mailbox (R265). -/
def State.failRecord (s : State) (key va i : Nat) : State :=
  let r := recKey key i
  let st := s.mem.num r 4
  (s.writeNum r 4 (st / 4 * 4)).mailbox r (ebits st 24 19) va (s.mem.num (r + 24) 8) (s.mem.num (r + 4) 4) 0x10F 4

/-- An announced object is poisoned (R265): its POSTED records are completed with FAILED, oldest first, but for those in `bad`,
whose bytes cannot be read; these stay, and one notice names their number. -/
def State.poisonObject (s : State) (key va : Nat) (bad : List Nat) : State :=
  let idx := s.postedIdx key
  let kept := idx.filter bad.contains
  let t := (idx.filter fun i => !bad.contains i).foldl (fun t i => t.failRecord key va i) s
  let t := (t.writeNum (key + 4) 4 (kept.headD ((s.fld key 4 4 + idx.length) % s.objK key))).writeNum (key + 8) 4 kept.length
  let t := { t with poison := t.poison ++ [key] }
  if kept.isEmpty then t
  else t.post (s.objSlot key) { code := FCode.num .eccUncorrected, kind := 2, master := 7, addr := va, who := creatorWho (s.fld key 0x30 4), info := kept.length }

/-! ## Barriers (R267-R274) -/

/-- A barrier's fields (R267). -/
structure Bar where
  expect : Nat
  arrive : Nat
  phase : Nat
  pend : Nat
  drops : Nat
  scope : Nat
  spn : Bool
  deriving DecidableEq, Repr

/-- A barrier read from memory. -/
def readBar (m : Mem) (key : Nat) : Bar :=
  let v := m.num key 16
  { expect := ebits v 19 0, arrive := ebits v 39 20, phase := ebits v 47 40, pend := ebits v 87 48, drops := ebits v 107 88, scope := ebits v 110 108, spn := ebit v 111 }

/-- A barrier as a number; its reserved bits are zero. -/
def Bar.num (b : Bar) : Nat :=
  b.expect % 2 ^ 20 + b.arrive % 2 ^ 20 * 2 ^ 20 + b.phase % 2 ^ 8 * 2 ^ 40 + b.pend % 2 ^ 40 * 2 ^ 48 + b.drops % 2 ^ 20 * 2 ^ 88 +
    b.scope % 2 ^ 3 * 2 ^ 108 + b.spn.toNat * 2 ^ 111

/-- A barrier written to memory. -/
def State.writeBar (s : State) (key : Nat) (b : Bar) : State := s.writeNum key 16 b.num

/-- The phase completes when every expected arrival has come and no byte is pending (R269). -/
def Bar.complete (b : Bar) : Bool := b.expect != 0 && b.arrive == b.expect && b.pend == 0
/-- The next phase (R269). -/
def Bar.turn (b : Bar) : Bar := { b with phase := (b.phase + 1) % 256, arrive := 0, expect := b.expect - b.drops, drops := 0 }
/-- The completion check (R269): the barrier, and whether its phase completed. -/
def Bar.check (b : Bar) : Bar × Bool := if b.complete then (b.turn, true) else (b, false)

/-- BARV of `c` arrivals, before the completion check (R269). -/
def Bar.arriveN (b : Bar) (c : Nat) : Except FCode Bar :=
  if b.expect = 0 ∨ c = 0 ∨ 0xFFFFF < c ∨ b.expect < b.arrive + c then .error .barrierRange
  else .ok { b with arrive := b.arrive + c }
/-- BARDROP, before the completion check (R269). -/
def Bar.drop (b : Bar) : Except FCode Bar :=
  if b.expect = 0 ∨ b.expect < b.arrive + 1 ∨ b.expect < b.drops + 1 then .error .barrierRange
  else .ok { b with arrive := b.arrive + 1, drops := b.drops + 1 }
/-- BTX, before the completion check (R269). -/
def Bar.expectBytes (b : Bar) (n : Nat) : Except FCode Bar :=
  if b.spn then .error .barrierRange else .ok { b with pend := (b.pend + n) % 2 ^ 40 }
/-- A credit, before the completion check (R269). -/
def Bar.credit (b : Bar) (n : Nat) : Except FCode Bar :=
  if b.spn then .error .barrierRange else .ok { b with pend := (b.pend + 2 ^ 40 - n % 2 ^ 40) % 2 ^ 40 }

/-- The token of an arrival (R268). -/
def token (phase : Nat) (done : Bool) : Nat := phase + done.toNat * 256

/-- A step on a Kiln-homed barrier (R269): the state and the token. -/
def State.barStep (s : State) (key : Nat) (f : Bar → Except FCode Bar) : Except FCode (State × Nat) :=
  let b := readBar s.mem key
  match f b with
  | .error c => .error c
  | .ok b' =>
    let (b'', done) := b'.check
    .ok (s.writeBar key b'', token b.phase done)

/-- An ACP, XSCALE or XRED credit (R269). -/
def State.creditStep (s : State) (key n : Nat) : Except FCode State :=
  match s.barStep key (fun b => b.credit n) with
  | .ok p => .ok p.1
  | .error c => .error c

/-- A context's Spindle slot for a barrier. -/
def State.spnAt (s : State) (key : Nat) : Option Nat := s.spindle.findIdx? (·.key == key)

/-- BARINIT's step (R269, R273): the state, and whether the barrier is Spindle-homed. -/
def State.barinitStep (s : State) (slot key va : Nat) (want : Bool) (scope count : Nat) : Except FCode (State × Bool) :=
  if count = 0 ∨ 0xFFFFF < count then .error .barrierRange
  else
    let freed := s.spindle.filter (·.key != key)
    let room := decide ((freed.filter (·.slot == slot)).length < ebits (s.ctx slot).spnslot.toNat 16 8)
    let spn := want && room
    let s := { s with spindle := if spn then freed ++ [SpnSlot.mk slot key va false [] none] else freed }
    .ok (s.writeBar key { expect := count, arrive := 0, phase := 0, pend := 0, drops := 0, scope := scope, spn := spn }, spn)

/-- A word of an SRED (R274). -/
def sredWord (op : SredOp) (x y : Nat) : Nat :=
  let sx (v : Nat) : Int := signedOf 32 v
  match op with
  | .addN32 => (x + y) % 2 ^ 32
  | .addN64 => (x + y) % 2 ^ 64
  | .minI => if sx y < sx x then y else x
  | .maxI => if sx x < sx y then y else x
  | .minN => min x y
  | .maxN => max x y
  | .and => x &&& y
  | .or => x ||| y
  | .xor => x ^^^ y
  | .fadd => x

/-- The sum of values in the order given, 32 to a block (R274, R124-R126). -/
def blockSum : Nat → Nat → List Nat → Nat
  | 0, acc, _ => acc
  | _, acc, [] => acc
  | n + 1, acc, xs =>
    let b := xs.take 32
    let ls := (b.map fun x => (some (F32.decode x), cNone)) ++ List.replicate (32 - b.length) (none, cNone)
    blockSum n (accumulate acc (treeSum ls).1) (xs.drop 32)

/-- The order of group identifiers (R237). -/
def Contribution.before (a b : Contribution) : Bool :=
  decide (a.lage < b.lage) || (a.lage == b.lage && (decide (a.tlin < b.tlin) || (a.tlin == b.tlin && decide (a.tgidx ≤ b.tgidx))))

/-- The words of a value list in 64-bit pairs. -/
def pairsOf : List Nat → List Nat
  | a :: b :: r => (a + b * 2 ^ 32) :: pairsOf r
  | l => l

/-- The reduction of the contributions of one phase, in increasing group identifier (R274). -/
def sredResult (op : SredOp) (cs : List Contribution) : List Nat :=
  match cs with
  | [] => []
  | c :: r =>
    let n := c.ws.length
    match op with
    | .fadd => (List.range n).map fun i => blockSum cs.length 0 (cs.map fun x => x.ws.getD i 0)
    | .addN64 =>
      let v := r.foldl (fun acc x => (acc.zip (pairsOf x.ws)).map fun p => sredWord op p.1 p.2) (pairsOf c.ws)
      v.flatMap fun x => [x % 2 ^ 32, x / 2 ^ 32]
    | _ => r.foldl (fun acc x => (acc.zip x.ws).map fun p => sredWord op p.1 p.2) c.ws

/-- Result words written into a participant's team shared memory, or into its saved image (R274, R356). -/
def State.writeShared (s : State) (slot tag off : Nat) (bs : List Byte) : State :=
  match s.team tag with
  | some t => s.write (bs.zipIdx.map fun p => (keyShared t.cluster (t.shBase + off + p.2), p.1))
  | none =>
    let c := s.ctx slot
    let img (sv : SavedTeam) : SavedTeam :=
      if sv.team.tag == tag then
        { sv with shared := (sv.shared.filter fun q => decide (q.1 < off) || decide (off + bs.length ≤ q.1)) ++ bs.zipIdx.map fun p => (off + p.2, p.1) }
      else sv
    s.setCtx slot { c with saved := c.saved.map img }

/-- The phase of a Spindle-homed barrier completes (R273, R274): results are written, then PHASE is reflected. -/
def State.spnComplete (s : State) (i : Nat) : State :=
  match s.spindle[i]? with
  | none => s
  | some p =>
    if p.full.isNone then s
    else
      let cs := p.contribs.mergeSort Contribution.before
      let agree := match cs with
        | [] => true
        | c :: r => !p.mixed && r.all fun x => x.op == c.op && x.ws.length == c.ws.length
      let res (c : Contribution) : List Byte :=
        if agree then (sredResult c.op cs).flatMap (bytesOfWord 4) else zeros (4 * c.ws.length)
      let s := cs.foldl (fun t c => t.writeShared p.slot c.tag c.dst (res c)) s
      let s := if agree then s else s.post p.slot { code := FCode.num .sredMismatch, kind := 2, addr := p.va }
      let s := s.writeBar p.key (readBar s.mem p.key).turn
      { s with spindle := s.spindle.set i { p with mixed := false, contribs := [], full := none } }

/-- An arrival by the operation `op` at a Spindle-homed barrier (R273, R269): a phase whose last arrival is in is completed first. -/
def State.spnArrive (s : State) (op key : Nat) (f : Bar → Except FCode Bar) (note : SpnSlot → SpnSlot) : Except FCode (State × Nat) :=
  match s.spnAt key with
  | none => .error .barrierRange
  | some i =>
    let s := s.spnComplete i
    let b := readBar s.mem key
    match f b with
    | .error c => .error c
    | .ok b' =>
      let done := b'.complete
      .ok ({ s.writeBar key b' with spindle := s.spindle.modify i fun p => { note p with full := if done then some op else none } }, token b.phase done)

/-! ## One step of an instruction (R246, R253) -/

/-- A location is poisoned (R265). -/
def State.poisoned (s : State) (key : Nat) : Bool := s.poison.contains key || s.poison.contains (key / 64 * 64)

/-- A location is rewritten, and is no longer poisoned (R265). -/
def State.cured (s : State) (key : Nat) : State := { s with poison := s.poison.filter (· != key) }

/-- The arrival of an SRED, as the Spindle keeps it (R274). -/
def Group.contribution (g : Group) (op : SredOp) (ws : List Nat) (dst : Nat) : Contribution :=
  ⟨g.lage, g.tlin, g.tgidx, g.tag, dst, op, ws⟩

/-- The step on a barrier that an arrival or a drop makes, and what the Spindle notes of it (R269, R273, R274). -/
def Group.arrival (g : Group) (act : KAct) : Option ((Bar → Except FCode Bar) × (SpnSlot → SpnSlot)) :=
  match act with
  | .barv c => some (fun b => b.arriveN c, fun p => { p with mixed := true })
  | .bardrop => some (Bar.drop, id)
  | .sred op ws dst => some (fun b => b.arriveN 1, fun p => { p with contribs := p.contribs ++ [g.contribution op ws dst] })
  | _ => none

/-- A step that the operation `op` of a group's instruction asks for: the state and its result, or a refusal, which changes nothing (R250). -/
def State.kilnAct (s : State) (g : Group) (op : Nat) (st : KStep) : Except FCode (State × KRes) :=
  let res (v : Nat) (ok : Bool) : KRes := ⟨st.lane, v, ok⟩
  let k := st.key
  let bar (f : Bar → Except FCode Bar) (note : SpnSlot → SpnSlot) : Except FCode (State × KRes) :=
    match (if (readBar s.mem k).spn then s.spnArrive op k f note else s.barStep k f) with
    | .ok p => .ok (p.1, res p.2 true)
    | .error c => .error c
  match st.act with
  | .obinit kind sc kcode xp pmask ws => .ok ((s.cured k).obinitStep g.asker k kind sc.code.toNat kcode xp pmask ws, res 0 true)
  | .barinit spn sc count => match s.barinitStep g.slot k st.va spn sc.code.toNat count with
    | .ok p => .ok (p.1.cured k, res 0 (p.2 == spn))
    | .error c => .error c
  | act =>
    if s.poisoned k then .error .eccUncorrected
    else match act with
    | .atom op n v =>
      let old := s.mem.num k n
      .ok (s.writeNum k n (atomVal op (8 * n) old v), res old true)
    | .cas n cmp new =>
      let old := s.mem.num k n
      .ok (if old = cmp then s.writeNum k n new else s, res old (old == cmp))
    | .ann op a0 a1 mb => match s.annStep g.asker k st.va op a0 a1 mb with
      | .ok p => .ok (p.1, res p.2 true)
      | .error c => .error c
    | .help => match s.helpStep g.asker k st.va with
      | .ok p => .ok (p.1, res p.2.2 p.2.1)
      | .error c => .error c
    | .btx n => bar (fun b => b.expectBytes n) id
    | .btest t => .ok (s, res 0 ((readBar s.mem k).phase != t % 256))
    | .sred _ _ _ =>
      if !(readBar s.mem k).spn then .error .barrierRange
      else match g.arrival act with
        | some p => bar p.1 p.2
        | none => .ok (s, res 0 true)
    | act => match g.arrival act with
      | some p => bar p.1 p.2
      | none => .ok (s, res 0 true)

end Sys2Proof.Machine
end

