-- ==== Sys2Proof/Machine/Async.lean ====
section
/-! DEFINITION. Engine commands and batches, ACP, BCLOSE, BWAIT (R94-R99), the paged key-value cache (R100-R107), and
ENGINE_OPERATION for the copy and gather engines. -/

namespace Sys2Proof.Machine

/-! ## Accepting and ending a command -/

/-- The commands of an engine. -/
def Cluster.queue (c : Cluster) : EngineKind → List Cmd
  | .copy => c.copy | .gather => c.gather | .link => c.link | .lathe => c.lathe | .trowel => c.trowel
/-- The commands of an engine replaced. -/
def Cluster.setQueue (c : Cluster) (e : EngineKind) (q : List Cmd) : Cluster := match e with
  | .copy => { c with copy := q } | .gather => { c with gather := q } | .link => { c with link := q }
  | .lathe => { c with lathe := q } | .trowel => { c with trowel := q }
/-- The commands of an engine of a cluster changed. -/
def State.mapQueue (s : State) (cl : Nat) (e : EngineKind) (f : List Cmd → List Cmd) : State :=
  let c := s.cl cl
  s.setCl cl (c.setQueue e (f (c.queue e)))
/-- The engines of a cluster. -/
def allEngines : List EngineKind := [.copy, .gather, .link, .lathe, .trowel]
/-- The engine and the command of an identifier. -/
def Cluster.findCmd (c : Cluster) (k : Nat) : Option (EngineKind × Cmd) :=
  allEngines.findSome? fun e => ((c.queue e).find? (·.id == k)).map fun x => (e, x)

/-- The engine's number as a master (R330). -/
def EngineKind.master : EngineKind → Nat
  | .copy => 1 | .gather => 2 | .lathe => 3 | .trowel => 4 | .link => 6

/-- A command of a group, from one of its instructions. -/
def Env.cmd (e : Env) (ar : AcqRel) (kind : CmdKind) : Cmd :=
  { id := e.s.nextId, gid := e.g.gid, tag := e.g.tag, slot := e.g.slot, part := e.g.part, lage := e.g.lage, ar := ar, kind := kind,
    pc := e.addr }

/-- The command joins the open batch (R97). -/
def Group.join (g : Group) (id : Nat) : Group := { g with openLeft := g.openLeft ++ [id], openN := g.openN + 1 }

/-- The operation that keeps a command's result registers awaited (R49, R105). -/
def Env.engineOp (e : Env) (id : Nat) (dsts : List RegRef) : Op :=
  { e.op (.engine id) .eng .grp dsts false with flag := none }

/-- An engine command is accepted (R48, R97), or enters the commit buffer of a D-mode group (R196, R236). It joins the
open batch at issue when `batch`. -/
def State.command (s : State) (e : Env) (eng : EngineKind) (c : Cmd) (batch : Bool) (dsts : List RegRef) : Except Stop State :=
  let s := { s with nextId := s.nextId + 1 }
  let s := if batch then s.mapG e.gi fun g => g.join c.id else s
  if e.g.dmode then
    if 512 ≤ e.g.cbuf.length then .error .quantum
    else .ok (s.mapG e.gi fun g => g.bufOp (e.op (.accept eng c) .eng .grp dsts false))
  else
    let s := s.mapQueue e.g.gid.cluster eng (· ++ [c])
    .ok (if dsts.isEmpty then s else s.mapG e.gi fun g => g.addOp (e.engineOp c.id dsts))

/-- A group changed wherever it is: resident, or in a saved team. -/
def State.mapOwner (s : State) (gid : Gid) (tag slot : Nat) (f : Group → Group) : State :=
  match s.groups.findIdx? fun g => g.gid == gid && g.tag == tag with
  | some i => s.mapG i f
  | none =>
    let c := s.ctx slot
    let fix (g : Group) : Group := if g.gid == gid && g.tag == tag then f g else g
    s.setCtx slot { c with saved := c.saved.map fun (t : SavedTeam) => { t with groups := t.groups.map fix } }

/-- A member of a batch has finished, or failed (R96, R97). -/
def Batch.finish (b : Batch) (id : Nat) (f : Option FaultInfo) : Batch :=
  if b.left.contains id then { b with left := b.left.filter (· != id), failed := b.failed <|> f } else b

/-- A group's batches when a member has finished, or failed; what waits for its registers completes (R48, R97). -/
def Group.finishCmd (g : Group) (id : Nat) (f : Option FaultInfo) : Group :=
  let fail := if g.openLeft.contains id then g.openFail <|> f else g.openFail
  let g := { g with openLeft := g.openLeft.filter (· != id), openFail := fail, batches := g.batches.map fun (b : Batch) => b.finish id f }
  match g.ops.find? (fun o => o.kind == .engine id) with
  | some o => g.dropOp o
  | none => g

/-- A command leaves its engine (R96). -/
def State.endCmd (s : State) (cl : Nat) (eng : EngineKind) (c : Cmd) (f : Option FaultInfo) : State :=
  (s.mapQueue cl eng fun q => q.filter (·.id != c.id)).mapOwner c.gid c.tag c.slot fun g => g.finishCmd c.id f

/-- A command replaced by a later form of itself. -/
def State.putCmd (s : State) (cl : Nat) (eng : EngineKind) (c : Cmd) : State :=
  s.mapQueue cl eng fun q => q.map fun x => if x.id == c.id then c else x

/-- The BWAITs of a group that await a command count their time again, or no longer (R99). -/
def State.tuneOwner (s : State) (gid : Gid) (tag slot : Nat) : State :=
  let away := !s.groups.any fun g => g.gid == gid && g.tag == tag
  s.mapOwner gid tag slot fun g => g.tuneBwait s.clock.toNat away (s.ctx slot).posted

/-- A suspended command posts its replayable record when more than four are free and its context is active (R96, R347). -/
def State.postCmd (s : State) (eng : EngineKind) (c : Cmd) (code : FCode) (addr : Nat) : State :=
  let x := s.ctx c.slot
  if x.state = .active ∧ 4 < s.tqFree c.slot ∧ !x.recs.any (·.cmd == some c.id) then
    let (seq, s) := s.writeRec c.slot
      { code := code.num, kind := 0, master := eng.master, addr := addr, pc := c.pc, who := c.gid.who, info := 255, lage := c.lage }
    let x := s.ctx c.slot
    (s.setCtx c.slot { x with recs := x.recs ++ [⟨seq, none, some c.id⟩] }).tuneOwner c.gid c.tag c.slot
  else s

/-- What one run of a command comes to: finished, or stopped by a fault at an address. -/
inductive EngEnd
  | fin
  | fault (c : FCode) (a : Nat)
  deriving DecidableEq, Repr

/-- The keys of `n` bytes of a team's shared memory. -/
def State.teamKeys (s : State) (tag a n : Nat) : Except FCode (List Nat) :=
  match s.team tag with
  | some t => if t.shBytes < a + n then .error .sharedBound else .ok ((List.range n).map fun i => keyShared t.cluster (t.shBase + a + i))
  | none => .error .sharedBound

/-- A stream's completion word is written, where its descriptor gives it a place (R193). -/
def State.writeCword (s : State) (c : Cmd) (w : Nat) : State :=
  match c.kind with
  | .stream _ _ _ _ (some d) => match s.teamKeys c.tag d.cword 4 with
    | .ok ks => if d.cword % 4 = 0 then s.write (ks.zip (bytesOfWord 4 w)) else s
    | .error _ => s
  | _ => s

/-- A stream fails (R194): its completion word with FAIL, and a fatal record that names the LCMD. -/
def State.failStream (s : State) (c : Cmd) (f : FCode) (a : Nat) : State :=
  match c.kind with
  | .stream _ _ _ _ _ => (s.writeCword c (2 ^ 30 + c.pos % 2 ^ 24)).post c.slot
      { code := f.num, kind := 1, master := 3, addr := a, pc := c.pc, who := c.gid.who, info := 255, lage := c.lage }
  | _ => s

/-- A command may run: it is not suspended, its context is active, its team is resident, and every access its group made
before it is complete (R178, R224 note 3, R330). -/
def State.cmdReady (s : State) (c : Cmd) : Bool :=
  c.susp.isNone && s.going c.slot && (s.team c.tag).isSome &&
    !s.groups.any fun g => g.gid == c.gid && g.tag == c.tag && g.ops.any fun o => match o.kind with
      | .engine _ | .coll _ | .accept _ _ | .ldq _ _ _ | .marker => false
      | _ => decide (o.id < c.id)

/-! ## Addresses of an engine -/

/-- The keys of `n` bytes that a command accesses in a space (R95, R96). -/
def State.engKeys (s : State) (c : Cmd) (sp : Space) (a n : Nat) (wr : Bool) : Except (FCode × Nat) (List Nat) :=
  let lift (x : Except FCode (List Nat)) : Except (FCode × Nat) (List Nat) := match x with
    | .ok k => .ok k
    | .error f => .error (f, a)
  let run (x : Except FCode Nat) : Except FCode (List Nat) := match x with
    | .ok k => .ok ((List.range n).map (k + ·))
    | .error f => .error f
  match sp with
  | .glob => if 2 ^ 56 < a + n then .error (.addrRange, a) else s.rangeKeys c.gid.cluster c.slot a n { types := [0, 1], r := !wr, w := wr }
  | .shared => lift (s.teamKeys c.tag a n)
  | .scratch => lift (run (s.scratchKey c.slot a n))
  | _ => lift (run (s.peerKey c.slot a n wr false))

/-- A read of normal pages by a command. -/
def State.engRead (s : State) (c : Cmd) (a n : Nat) : Except (FCode × Nat) Nat :=
  if 2 ^ 56 < a + n then .error (.addrRange, a) else s.readV c.gid.cluster c.slot a n
/-- A write to normal pages by a command. -/
def State.engWrite (s : State) (c : Cmd) (a n v : Nat) : Except (FCode × Nat) State :=
  if 2 ^ 56 < a + n then .error (.addrRange, a) else s.writeV c.gid.cluster c.slot a n v

/-- The key of a sync object that an engine reaches, or OBJ_RANGE (R245, R268, R282, R325). -/
def State.syncKey (s : State) (cl slot va n al : Nat) : Except FCode Nat :=
  if 2 ^ 56 ≤ va ∨ va % al ≠ 0 ∨ 2 ^ 16 < va % 2 ^ 16 + n then .error .objRange
  else match s.translate cl slot va { types := [4], r := true, w := true, at_ := true } with
    | .ok k => .ok k
    | .error c => .error (match c with
      | .spaceMismatch | .regspaceAccess => .objRange
      | c => c)

/-! ## ACP (R94-R96) -/

/-- A copy in increasing address order, 16 bytes at a time, from a position on (R95). -/
def State.copyFrom : Nat → State → Cmd → Space → Space → Nat → Nat → State × Cmd × EngEnd
  | 0, s, c, _, _, _, _ => (s, c, .fin)
  | n + 1, s, c, ss, ds, src, dst =>
    let o := 16 * c.pos
    match s.engKeys c ss (src + o) 16 false, s.engKeys c ds (dst + o) 16 true with
    | .ok ks, .ok kd => State.copyFrom n (s.write (kd.zip (s.mem.getAll ks))) { c with pos := c.pos + 1 } ss ds src dst
    | .error p, _ => (s, c, .fault p.1 p.2)
    | _, .error p => (s, c, .fault p.1 p.2)

/-- The credit of a command to its barrier, in one Kiln step (R95, R269). -/
def State.credit (s : State) (c : Cmd) (bar n : Nat) : State × Cmd × EngEnd :=
  match s.syncKey c.gid.cluster c.slot bar 16 16 with
  | .error f => (s, c, .fault f bar)
  | .ok k =>
    if s.poisoned k then (s, c, .fault .eccUncorrected bar)
    else match s.creditStep k n with
      | .ok t => (t, c, .fin)
      | .error f => (s, c, .fault f bar)

/-- The copy engine's run of a command. -/
def State.runCopy (s : State) (c : Cmd) : State × Cmd × EngEnd :=
  match c.kind with
  | .acp ss ds src dst len bar =>
    match State.copyFrom (len / 16 - c.pos) s c ss ds src dst with
    | (s, c, .fin) => match bar with
      | some b => s.credit c b len
      | none => (s, c, .fin)
    | r => r
  | _ => (s, c, .fin)

/-- One address of ACP, as checked at issue (R95). -/
def State.acpCheck (s : State) (g : Group) (sp : Space) (a n : Nat) (wr : Bool) : Except FCode Unit :=
  let un (x : Except FCode Nat) : Except FCode Unit := match x with
    | .ok _ => .ok ()
    | .error c => .error c
  match sp with
  | .shared => if 2 ^ 32 ≤ a then .error .sharedBound else un (s.sharedKey g a n)
  | .scratch => if 2 ^ 32 ≤ a then .error .sharedBound else un (s.scratchKey g.slot a n)
  | .peer => if 2 ^ 56 ≤ a then .error .addrRange else un (s.peerKey g.slot a n wr false)
  | _ => if 2 ^ 56 ≤ a ∨ 2 ^ 56 < a + n then .error .addrRange else .ok ()

/-- The pages of 64 KiB that a range touches, by their first addresses. -/
def pagesIn (a n : Nat) : List Nat := (List.range ((a % 2 ^ 16 + n + (2 ^ 16 - 1)) / 2 ^ 16)).map fun i => a / 2 ^ 16 * 2 ^ 16 + i * 2 ^ 16

/-- The first address of a global range that lies in a register-space page (R33). -/
def State.regspaceAt (s : State) (cl slot a n : Nat) : Option Nat :=
  ((pagesIn a n).find? fun p => match s.leaf cl slot p with
    | .ok e => etype e == 3
    | .error _ => false).map fun p => max p a

/-- REGSPACE_ACCESS at issue for the global ranges, each an address and a length, that an engine command names (R33): precise, before
any byte is read or written. -/
def Env.regspace (e : Env) (s : State) (rs : List (Nat × Nat)) (next : Except Stop State) : Except Stop State :=
  match rs.findSome? fun r => s.regspaceAt e.g.gid.cluster e.g.slot r.1 r.2 with
  | some a => faultAt .regspaceAccess a
  | none => next

/-- The range of an ACP address when it is global. -/
def globRange (sp : Space) (a n : Nat) : List (Nat × Nat) := if sp = .glob then [(a, n)] else []

/-- ACP (R94, R95). The address of MISALIGNED is the misaligned value, the length's own where it is the length (log 100). -/
def acpBody (ss ds : Space) (bar : Bool) (ar : AcqRel) (d a b c : Operand) : Env → State → Except Stop State := whenGuard fun e s =>
  let src := e.u64 a
  let dst := e.u64 b
  let len := e.u32 c
  match [src, dst, len].find? (fun x => x % 16 != 0) with
  | some x => faultAt .misaligned x
  | none => match s.acpCheck e.g ss src len false, s.acpCheck e.g ds dst len true with
    | .error f, _ => faultAt f src
    | _, .error f => faultAt f dst
    | .ok _, .ok _ =>
      let s := if ss = .peer then s.noteWin e.g.slot src else s
      let s := if ds = .peer then s.noteWin e.g.slot dst else s
      e.regspace s (globRange ss src len ++ globRange ds dst len) <|
        s.command e .copy (e.cmd ar (.acp ss ds src dst len (if bar then some (e.u64 d) else none))) true []

/-! ## Batches (R97-R99) -/

/-- BCLOSE (R98). -/
def bcloseBody (d : Operand) : Env → State → Except Stop State := whenGuard <| groupBody fun e g =>
  let n := g.lastb + 1
  let g := { g with batches := g.batches ++ [Batch.mk n.toNat g.openLeft g.openFail], openLeft := [], openN := 0, openFail := none, lastb := n }
  g.writeD e.p.id e.ulane d false fun _ => some (n.setWidth 64)

/-- The closed batches that a BWAIT of `n` awaits (R98). -/
def Group.awaitedBatches (g : Group) (n : Word) : List Batch :=
  if (g.lastb - n).toNat < 2 ^ 31 then g.batches.filter fun b => decide ((g.lastb - n).toNat ≤ (g.lastb - BitVec.ofNat 32 b.num).toNat)
  else g.batches

/-- BWAIT (R98, R377, R239). The fault of a failed batch is Fatal, whatever the class of its code (R337). -/
def bwaitBody (a : Operand) (px : PReg) : Env → State → Except Stop State := whenGuard fun e s =>
  let n := e.rd32 a e.ulane
  let bs := e.g.awaitedBatches n
  let left := bs.flatMap (·.left)
  let unaccepted := e.g.cbuf.any fun o => match o.kind with
    | .accept _ c => left.contains c.id
    | _ => false
  if unaccepted then .error .quantum
  else if !left.isEmpty then .error (.bwait left)
  else match bs.findSome? fun b => b.failed.map fun f => (b.num, f) with
    | some (k, f) => .error (.fault { f with info := some k, fatal := true })
    | none => .ok (s.mapG e.gi fun g =>
      let g := g.setPAll px.toNat e.p.held (decide ((e.g.lastb - n).toNat < 2 ^ 31))
      { g with batches := g.batches.filter (fun b => !bs.contains b), bwait := g.bwait.filter (·.pid != e.p.id), qend := g.qend || g.dmode })

/-- A stalled BWAIT's time is over: 2 ms, not counting when it stood still (R99). -/
def BWaiting.over (w : BWaiting) (now : Nat) : Bool := w.still.isNone && decide (w.since + 7200000 ≤ now)

/-- ASYNC_TIMEOUT (R99): a BWAIT that has stalled for 2 ms takes the fault, and the commands that still run stop. The registers of a
KVAPPEND or KVSHARE that is stopped so keep what they held (log 101). -/
def asyncTimeoutBody (gi : Nat) (s : State) : Option State :=
  match s.groups[gi]? with
  | none => none
  | some g =>
    let cl := g.gid.cluster
    let live (w : BWaiting) : List (EngineKind × Cmd) := w.ids.filterMap fun k => (s.cl cl).findCmd k
    match g.bwait.find? fun w => w.over s.clock.toNat && !(live w).isEmpty with
    | none => none
    | some w => match g.path w.pid with
      | none => none
      | some p =>
        if g.st == .run && p.st == .run && (s.ctx g.slot).state == .active then
          let s := (live w).foldl (fun t x => t.endCmd cl x.1 x.2 none) s
          some (s.raise gi { code := .asyncTimeout } p.pc p.pc p.id)
        else none

/-! ## The paged key-value cache (R100-R107) -/

/-- A sequence descriptor with its pool descriptor (R100, R101). -/
structure KvDesc where
  table : Nat
  len : Nat
  cap : Nat
  pool : Nat
  freel : Nat
  refc : Nat
  nblk : Nat
  rb : Nat
  deriving DecidableEq, Repr

/-- The row length of a GEOM word, or none when it is reserved (R100, R101). -/
def geomRow (g : Nat) : Option Nat :=
  let d := ebits g 2 0
  let f := ebits g 6 4
  if ebit g 3 || g / 2 ^ 7 != 0 || decide (3 < d) || decide (4 < f) then none
  else some (32 * 2 ^ d * (if f < 2 then 2 else if f < 4 then 1 else 4))

/-- The descriptors at a KVSD address (R100), read with `rd`. R100 gives no outcome for a KVSD, a KVPD or a POOL that is not aligned as
it states: they are read as they stand (log 102). KV_RANGE names the descriptor that is at fault. -/
def kvDesc (rd : Nat → Nat → Except (FCode × Nat) Nat) (sd : Nat) : Except (FCode × Nat) KvDesc :=
  match rd sd 32 with
  | .error f => .error f
  | .ok v => match rd (ebits v 127 64) 64 with
    | .error f => .error f
    | .ok w => match geomRow (ebits w 255 224) with
      | none => .error (.kvRange, ebits v 127 64)
      | some rb =>
        if v / 2 ^ 192 ≠ 0 then .error (.kvRange, sd)
        else if w / 2 ^ 256 ≠ 0 then .error (.kvRange, ebits v 127 64)
        else .ok { table := ebits v 63 0, len := ebits v 159 128, cap := ebits v 191 160, pool := ebits w 63 0, freel := ebits w 127 64, refc := ebits w 191 128, nblk := ebits w 223 192, rb := rb }

/-- The key of a KVTB entry (R102). -/
def isKv (slot sd lb : Nat) (p : Nat × Nat × Nat × Nat) : Bool := p.1 == slot && p.2.1 == sd && p.2.2.1 == lb

/-- A block number enters the KVTB, or becomes the most recently used (R102). -/
def State.kvNote (s : State) (cl slot sd lb b : Nat) : State :=
  let c := s.cl cl
  let q := c.kvtb.filter (fun p => !isKv slot sd lb p) ++ [(slot, sd, lb, b)]
  s.setCl cl { c with kvtb := q.drop (q.length - 512) }

/-- The block of a logical block through a cluster's KVTB (R103): the state and the block. -/
def State.kvBlock (s : State) (cl slot sd lb : Nat) (d : KvDesc) (rd : Nat → Nat → Except (FCode × Nat) Nat) :
    Except (FCode × Nat) (State × Nat) :=
  let ta := d.table + 4 * lb
  let b : Except (FCode × Nat) Nat := match (s.cl cl).kvtb.find? (isKv slot sd lb) with
    | some p => .ok p.2.2.2
    | none => rd ta 4
  match b with
  | .error f => .error f
  | .ok b =>
    if b = 0xFFFFFFFF then .error (.kvUnmapped, ta)
    else if d.nblk ≤ b then .error (.kvRange, ta)
    else .ok (s.kvNote cl slot sd lb b, b)

/-- The address of a row: block `b`, token `t` (R101). -/
def KvDesc.row (d : KvDesc) (b t : Nat) (v : Bool) : Nat := (d.pool + b * 32 * d.rb + (if v then 16 + t else t) * d.rb) % 2 ^ 64

/-- A read under R61 and R73. -/
def State.readG (s : State) (cl slot a n : Nat) : Except (FCode × Nat) Nat :=
  if 2 ^ 56 ≤ a ∨ 2 ^ 56 < a + n then .error (.addrRange, a) else s.readV cl slot a n

/-- KVLOOK (R103). The KVSD and its KVPD are read first, for `.INV` too: R103 does not say when the KVPD is read (log 103). -/
def kvlookBody (inv : Bool) (d a b : Operand) : Env → State → Except Stop State := fun e s =>
  if e.g.qsyncWaits then .error .stall
  else
    let sd := (e.rd a true 0).toNat
    let p := (e.rd b true 0).toNat
    let cl := e.g.gid.cluster
    let rd := s.readG cl e.g.slot
    if 2 ^ 32 ≤ p then faultAt .kvRange sd
    else match kvDesc rd sd with
      | .error f => liftF (.error f)
      | .ok k =>
        let put (s : State) (x : Nat) : State := s.mapG e.gi fun g => g.writeD e.p.id 0 d true fun _ => some (BitVec.ofNat 64 x)
        if k.cap ≤ p / 16 then faultAt .kvRange sd
        else if inv then
          let c := s.cl cl
          .ok (put (s.setCl cl { c with kvtb := c.kvtb.filter fun q => !(q.1 == e.g.slot && q.2.1 == sd) }) 0)
        else match s.kvBlock cl e.g.slot sd (p / 16) k rd with
          | .error f => liftF (.error f)
          | .ok r => .ok (put r.1 (k.row r.2 (p % 16) false))

/-- KVGATHER's checks and command (R104); each row is taken at its limit of 1,024 bytes. -/
def kvgatherBody (rows : KvRows) (toScratch : Bool) (ar : AcqRel) (a b c : Operand) : Env → State → Except Stop State := whenGuard fun e s =>
  let r := e.u64 b
  let n := r / 2 ^ 32
  let dst := e.u32 c
  let total := (if rows = .kv then 2 * n else n) * 1024
  if n = 0 ∨ 4096 < n then faultAt .kvRange 0
  else if dst % 16 ≠ 0 then faultAt .misaligned dst
  else match (if toScratch then s.scratchKey e.g.slot dst total else s.sharedKey e.g dst total) with
    | .error f => faultAt f dst
    | .ok _ => e.regspace s [(e.u64 a, 32)] <| s.command e .gather (e.cmd ar (.kvgather rows toScratch (e.u64 a) (r % 2 ^ 32) n dst)) true []

/-- KVAPPEND's command (R105). -/
def kvappendBody (ar : AcqRel) (d a b : Operand) (px : PReg) : Env → State → Except Stop State := whenGuard fun e s =>
  let m := e.u32 b
  if m = 0 ∨ 1024 < m then faultAt .kvRange 0
  else
    let dn := match d with
      | .s n => n.toNat
      | _ => 0
    e.regspace s [(e.u64 a, 16 * m)] <| s.command e .gather (e.cmd ar (.kvappend dn px.toNat (e.u64 a) m)) true (destRefs d 1 ++ predRefs [px.toNat])

/-- KVSHARE's command (R106). -/
def kvshareBody (ar : AcqRel) (d a b c : Operand) (px : PReg) : Env → State → Except Stop State := whenGuard fun e s =>
  let dn := match d with
    | .s n => n.toNat
    | _ => 0
  e.regspace s [(e.u64 a, 32), (e.u64 b, 32)] <| s.command e .gather (e.cmd ar (.kvshare dn px.toNat (e.u64 a) (e.u64 b) (e.u32 c))) true (destRefs d 1 ++ predRefs [px.toNat])

/-- The rows of a gather, from a position on (R104). A position `p0 + i` past 2^32 - 1 is neither wrapped nor refused for that: R104 does
not say (log 104). -/
def State.gatherFrom : Nat → State → Cmd → Nat → KvRows → Bool → Nat → Nat → Nat → Nat → State × Cmd × EngEnd
  | 0, s, c, _, _, _, _, _, _, _ => (s, c, .fin)
  | f + 1, s, c, cl, rows, sc, sd, p0, n, dst =>
    let i := c.pos % n
    let isV := rows == .v || decide (n ≤ c.pos)
    let rd := s.engRead c
    match kvDesc rd sd with
    | .error e => (s, c, .fault e.1 e.2)
    | .ok k =>
      let p := p0 + i
      if k.cap ≤ p / 16 then (s, c, .fault .kvRange sd)
      else match s.kvBlock cl c.slot sd (p / 16) k rd with
        | .error e => (s, c, .fault e.1 e.2)
        | .ok (t, b) =>
          match t.engRead c (k.row b (p % 16) isV) k.rb, t.engKeys c (if sc then .scratch else .shared) (dst + c.pos * k.rb) k.rb true with
          | .ok v, .ok ks => State.gatherFrom f (t.write (ks.zip (bytesOfWord k.rb v))) { c with pos := c.pos + 1 } cl rows sc sd p0 n dst
          | .error e, _ => (t, c, .fault e.1 e.2)
          | _, .error e => (t, c, .fault e.1 e.2)

/-- The writes that a command has decided on, in order. -/
def State.runTodo : List (Nat × Nat × Nat) → State → Cmd → State × Cmd × EngEnd
  | [], s, c => (s, { c with todo := [] }, .fin)
  | (a, n, v) :: r, s, c =>
    match s.engWrite c a n v with
    | .ok t => State.runTodo r t c
    | .error e => (s, { c with todo := (a, n, v) :: r }, .fault e.1 e.2)

/-- Blocks that `n` tokens need. -/
def blocksFor (n : Nat) : Nat := (n + 15) / 16

/-- What a part of KVAPPEND or KVSHARE comes to: go on, stop with a reason and a count of tokens, or a fault (R105, R106). -/
inductive KvEnd
  | go
  | stop (reason tokens : Nat)
  | fault (c : FCode) (a : Nat)
  deriving DecidableEq, Repr

/-- One append entry is read and decided: a reason that stops the operation, or the writes to make (R105). -/
def State.appendEntry (s : State) (c : Cmd) (list : Nat) : Except (FCode × Nat) (State × Except KvEnd (List (Nat × Nat × Nat))) :=
  match s.engRead c (list + 16 * c.pos) 16 with
  | .error e => .error e
  | .ok v =>
    let sd := ebits v 63 0
    let a := ebits v 95 64
    match kvDesc (s.engRead c) sd with
    | .error e => .error e
    | .ok k =>
      let old := blocksFor k.len
      let new := blocksFor (k.len + a)
      if 1024 < a ∨ v / 2 ^ 96 ≠ 0 then .ok (s, .error (.stop 3 0))
      else if k.cap < new then .ok (s, .error (.stop 2 0))
      else
        let fin := (sd + 16, 4, k.len + a)
        if new ≤ old then .ok (s, .ok [fin])
        else match s.syncKey c.gid.cluster c.slot k.freel 64 64 with
          | .error f => .error (f, k.freel)
          | .ok key =>
            if s.poisoned key then .error (.eccUncorrected, k.freel)
            else match s.takeBlocks c.asker key k.freel (new - old) with
              | (t, .error e) => .ok (t, .error (.fault e.1 e.2))
              | (t, .ok none) => .ok (t, .error (.stop 1 0))
              | (t, .ok (some bs)) =>
                .ok (t, .ok ((bs.zipIdx.map fun p => (k.table + 4 * (old + p.2), 4, p.1)) ++ (bs.map fun b => (k.refc + 4 * b, 4, 1)) ++ [fin]))

/-- The entries of an append, one after another: the reason that ends it (R105). -/
def State.appendFrom : Nat → State → Cmd → Nat → State × Cmd × EngEnd × Nat
  | 0, s, c, _ => (s, c, .fin, 0)
  | f + 1, s, c, list =>
    let go (s : State) (c : Cmd) (ws : List (Nat × Nat × Nat)) : State × Cmd × EngEnd := State.runTodo ws s c
    if c.todo.isEmpty then
      match s.appendEntry c list with
      | .error e => (s, c, .fault e.1 e.2, 4)
      | .ok (t, .error (.fault f a)) => (t, c, .fault f a, 4)
      | .ok (t, .error (.stop reason _)) => (t, c, .fin, reason)
      | .ok (t, .error .go) => (t, c, .fin, 0)
      | .ok (t, .ok ws) => match go t c ws with
        | (t, c, .fin) => State.appendFrom f t { c with pos := c.pos + 1 } list
        | (t, c, r) => (t, c, r, 4)
    else match go s c c.todo with
      | (t, c, .fin) => State.appendFrom f t { c with pos := c.pos + 1 } list
      | (t, c, r) => (t, c, r, 4)

/-- A result word and predicate written when an operation ends (R105, R106); the predicate in every lane of the path
that issued it (R39). -/
def State.writeResult (s : State) (c : Cmd) (d px v : Nat) (ok : Bool) : State :=
  s.mapOwner c.gid c.tag c.slot fun g =>
    let held := match g.ops.find? (fun o => o.kind == .engine c.id) with
      | some o => o.held
      | none => 0
    (g.setS d (BitVec.ofNat 32 v)).setPAll px held ok

/-- KVAPPEND's run (R105); a fault writes its result when the command ends (`State.failResult`). -/
def State.runAppend (s : State) (c : Cmd) (d px list m : Nat) : State × Cmd × EngEnd :=
  match State.appendFrom (m - c.pos) s c list with
  | (s, c, .fin, reason) => (s.writeResult c d px (reason * 2 ^ 16 + c.pos) (c.pos == m), c, .fin)
  | (s, c, r, _) => (s, c, r)

/-- The count of a shared block rises by one Kiln step, unless it is 0xFFFFFFFF: whether it did, or a fault (R106). -/
def State.countUp (s : State) (c : Cmd) (a : Nat) : Except (FCode × Nat) (Option State) :=
  match s.engRead c a 4 with
  | .error e => .error e
  | .ok v => if v = 0xFFFFFFFF then .ok none else match s.engWrite c a 4 (v + 1) with
    | .ok t => .ok (some t)
    | .error e => .error e

/-- The full blocks of KVSHARE (R106): each is read, counted and installed. `sub` holds a counted block and one. -/
def State.shareBlocks : Nat → State → Cmd → KvDesc → KvDesc → State × Cmd × KvEnd
  | 0, s, c, _, _ => (s, c, .go)
  | f + 1, s, c, src, dst =>
    let i := c.pos
    let install (s : State) (b : Nat) : State × Cmd × KvEnd :=
      match s.engWrite c (dst.table + 4 * i) 4 b with
      | .error e => (s, { c with sub := b + 1 }, .fault e.1 e.2)
      | .ok t => State.shareBlocks f t { c with pos := i + 1, sub := 0 } src dst
    if c.sub ≠ 0 then install s (c.sub - 1)
    else match s.engRead c (src.table + 4 * i) 4 with
      | .error e => (s, c, .fault e.1 e.2)
      | .ok b => match s.countUp c (src.refc + 4 * b) with
        | .error e => (s, c, .fault e.1 e.2)
        | .ok none => (s, c, .stop 5 (16 * i))
        | .ok (some t) => install t b

/-- The rows of a partial block are copied, up to the first that faults (R106, R96). -/
def State.copyRows (s : State) (c : Cmd) (src dst : KvDesc) (b nb r : Nat) : State × Option (FCode × Nat) :=
  (List.range (2 * r)).foldl (fun (acc : State × Option (FCode × Nat)) i => match acc with
    | (t, some e) => (t, some e)
    | (t, none) => match t.engRead c (src.row b (i % r) (decide (r ≤ i))) src.rb with
      | .error e => (t, some e)
      | .ok v => match t.engWrite c (dst.row nb (i % r) (decide (r ≤ i))) src.rb v with
        | .ok u => (u, none)
        | .error e => (t, some e)) (s, none)

/-- The partial block of KVSHARE (R106). `sub` holds the block taken and one. Where the two KVPDs name one POOL and differ in the rest,
the shared blocks are counted in the source's REFC, and the fresh block comes from the destination's FREEL and is counted in its REFC
(log 105). -/
def State.sharePartial (s : State) (c : Cmd) (src dst : KvDesc) (m : Nat) : State × Cmd × KvEnd :=
  let f := m / 16
  let r := m % 16
  let fill (s : State) (c : Cmd) (nb : Nat) : State × Cmd × KvEnd :=
    let c := { c with sub := nb + 1 }
    match s.engRead c (src.table + 4 * f) 4 with
    | .error e => (s, c, .fault e.1 e.2)
    | .ok b => match s.copyRows c src dst b nb r with
      | (t, some e) => (t, c, .fault e.1 e.2)
      | (t, none) => (t, { c with sub := 0, pos := f + 1, todo := [(dst.table + 4 * f, 4, nb), (dst.refc + 4 * nb, 4, 1)] }, .go)
  if c.sub ≠ 0 then fill s c (c.sub - 1)
  else match s.syncKey c.gid.cluster c.slot dst.freel 64 64 with
    | .error e => (s, c, .fault e dst.freel)
    | .ok key =>
      if s.poisoned key then (s, c, .fault .eccUncorrected dst.freel)
      else match s.takeBlocks c.asker key dst.freel 1 with
        | (t, .error e) => (t, c, .fault e.1 e.2)
        | (t, .ok (some [nb])) => fill t c nb
        | (t, .ok _) => (t, c, .stop 1 (16 * f))

/-- KVSHARE up to its last write of LEN (R106). -/
def State.shareBody (s : State) (c : Cmd) (srcA dstA m : Nat) : State × Cmd × KvEnd :=
  match kvDesc (s.engRead c) srcA, kvDesc (s.engRead c) dstA with
  | .error e, _ => (s, c, .fault e.1 e.2)
  | _, .error e => (s, c, .fault e.1 e.2)
  | .ok src, .ok dst =>
    let fresh := c.pos == 0 && c.sub == 0 && c.todo.isEmpty
    if fresh ∧ (dst.len ≠ 0 ∨ dst.pool ≠ src.pool) then (s, c, .stop 3 0)
    else if fresh ∧ (src.len < m ∨ dst.cap < blocksFor m) then (s, c, .stop 2 0)
    else match State.shareBlocks (m / 16 - c.pos) s c src dst with
      | (s, c, .go) =>
        let (s, c, r) := if m % 16 ≠ 0 ∧ c.pos = m / 16 then s.sharePartial c src dst m else (s, c, .go)
        match r with
        | .go => match State.runTodo c.todo s c with
          | (s, c, .fin) => (s, c, .go)
          | (s, c, .fault f a) => (s, c, .fault f a)
        | r => (s, c, r)
      | r => r

/-- The destination tokens that KVSHARE has written (R106). -/
def Cmd.shared (c : Cmd) (m : Nat) : Nat := if m / 16 < c.pos then (if c.todo.length ≤ 1 then m else 16 * (m / 16)) else 16 * c.pos

/-- KVSHARE's run (R106): a finished operation and a reason other than 2 and 3 write the destination's LEN last; a fault writes its
result when the command ends (`State.failResult`). A match length above 65,535, which R106 rules out and gives no outcome, makes the
count of tokens run into the reason (log 106). -/
def State.runShare (s : State) (c : Cmd) (d px srcA dstA m : Nat) : State × Cmd × EngEnd :=
  let ends (s : State) (c : Cmd) (reason tokens : Nat) : State × Cmd × EngEnd :=
    (s.writeResult c d px (reason * 2 ^ 16 + tokens) (reason == 0), c, .fin)
  let last (s : State) (c : Cmd) (reason tokens : Nat) : State × Cmd × EngEnd := match s.engWrite c (dstA + 16) 4 tokens with
    | .ok t => ends t c reason tokens
    | .error e => (s, c, .fault e.1 e.2)
  match s.shareBody c srcA dstA m with
  | (s, c, .fault f a) => (s, c, .fault f a)
  | (s, c, .stop reason tokens) => if reason = 2 ∨ reason = 3 then ends s c reason tokens else last s c reason tokens
  | (s, c, .go) => last s c 0 m

/-- What a KVAPPEND or KVSHARE that a fault ends writes: reason 4 with the entries served, or the tokens shared after LEN, which is not
written when the fault lies on the destination's own KVSD (R105, R106). -/
def State.failResult (s : State) (c : Cmd) (a : Nat) : State :=
  match c.kind with
  | .kvappend d px _ _ => s.writeResult c d px (4 * 2 ^ 16 + c.pos) false
  | .kvshare d px _ dstA m =>
    let t := if dstA ≤ a ∧ a < dstA + 32 then s else match s.engWrite c (dstA + 16) 4 (c.shared m) with
      | .ok t => t
      | .error _ => s
    t.writeResult c d px (4 * 2 ^ 16 + c.shared m) false
  | _ => s

/-- After a run (R96): a finished command ends; PAGE_ABSENT suspends it under a record; another fault ends it, with the result
that its registers take, fails its batch or its stream, and freezes the context when it is a PERMISSION. -/
def State.settleCmd (s : State) (cl : Nat) (eng : EngineKind) (c : Cmd) (r : EngEnd) : State :=
  match r with
  | .fin => s.endCmd cl eng c none
  | .fault .pageAbsent a => ((s.putCmd cl eng { c with susp := some (s.clock.toNat, a) }).postCmd eng c .pageAbsent a)
  | .fault code a =>
    let s := ((s.failResult c a).failStream c code a).endCmd cl eng c (some { code := code, addr := a })
    if code.cls = .freeze then s.freeze c.slot code.num eng.master c.gid.who a 0 else s

/-- The gather engine's run of a command. -/
def State.runGather (s : State) (cl : Nat) (c : Cmd) : State × Cmd × EngEnd :=
  match c.kind with
  | .kvgather rows sc sd p0 n dst => State.gatherFrom ((if rows = .kv then 2 * n else n) - c.pos) s c cl rows sc sd p0 n dst
  | .kvappend d px list m => s.runAppend c d px list m
  | .kvshare d px src dst m => s.runShare c d px src dst m
  | _ => (s, c, .fin)


/-- ACP (R94, R95). -/
def execAcp (h : Head) (ss : Space) (ds : Space) (bar : Bool) (ar : AcqRel) (d : Operand) (a : Operand) (b : Operand) (c : Operand) (s : State) : Host.Outcome State Fault Refusal :=
  issue (.acp h ss ds bar ar d a b c) (acpBody ss ds bar ar d a b c) s

/-- BCLOSE (R98). -/
def execBclose (h : Head) (d : Operand) (s : State) : Host.Outcome State Fault Refusal :=
  issue (.bclose h d) (bcloseBody d) s

/-- BWAIT (R98). -/
def execBwait (h : Head) (a : Operand) (px : PReg) (s : State) : Host.Outcome State Fault Refusal :=
  issue (.bwait h a px) (bwaitBody a px) s

/-- KVLOOK (R103). The KVSD and its KVPD are read first, for `.INV` too: R103 does not say when the KVPD is read (log 103). -/
def execKvlook (g : Guard) (inv : Bool) (d : Operand) (a : Operand) (b : Operand) (s : State) : Host.Outcome State Fault Refusal :=
  issue (.kvlook g inv d a b) (kvlookBody inv d a b) s

/-- KVGATHER (R104). -/
def execKvgather (h : Head) (rows : KvRows) (toScratch : Bool) (ar : AcqRel) (a : Operand) (b : Operand) (c : Operand) (s : State) : Host.Outcome State Fault Refusal :=
  issue (.kvgather h rows toScratch ar a b c) (kvgatherBody rows toScratch ar a b c) s

/-- KVAPPEND (R105). -/
def execKvappend (h : Head) (ar : AcqRel) (d : Operand) (a : Operand) (b : Operand) (px : PReg) (s : State) : Host.Outcome State Fault Refusal :=
  issue (.kvappend h ar d a b px) (kvappendBody ar d a b px) s

/-- KVSHARE (R106). -/
def execKvshare (h : Head) (ar : AcqRel) (d : Operand) (a : Operand) (b : Operand) (c : Operand) (px : PReg) (s : State) : Host.Outcome State Fault Refusal :=
  issue (.kvshare h ar d a b c px) (kvshareBody ar d a b c px) s

/-- ASYNC_TIMEOUT. -/
def execAsyncTimeout (g : Nat) (s : State) : Host.Outcome State Fault Refusal := eventOf s (asyncTimeoutBody g s)

end Sys2Proof.Machine
end

