-- ==== Sys2Proof/Machine/Link.lean ====
section
/-! DEFINITION. The link engine: XSCALE and XRED (R130-R132, R279-R281, R333), ENGINE_OPERATION (R96) and
COLLECTIVE_COMPLETION (R280). -/

namespace Sys2Proof.Machine

/-- The page starts that a range touches after its first address. -/
def pageSteps (va n : Nat) : List Nat :=
  (List.range ((va % 2 ^ 16 + n - 1) / 2 ^ 16)).map fun i => va / 2 ^ 16 * 2 ^ 16 + (i + 1) * 2 ^ 16

/-- Every page of a range translates (R61, R73), or the first fault and its address. -/
def State.rangeCheck (s : State) (cl slot va n : Nat) (nd : Need) : Except (FCode × Nat) Unit :=
  if 2 ^ 56 ≤ va ∨ 2 ^ 56 < va + n then .error (.addrRange, va)
  else (va :: pageSteps va n).foldl (fun (acc : Except (FCode × Nat) Unit) a => match acc with
    | .error e => .error e
    | .ok _ => match s.translate cl slot a nd with
      | .ok _ => .ok ()
      | .error c => .error (c, a)) (.ok ())

/-- The control word of a collective's entry, zero without a table (R319, R333). -/
def State.collCtrl (s : State) (slot coll : Nat) : Nat :=
  let t := (s.ctx slot).colltab.toNat
  if t = 0 then 0 else s.mem.num (t + 512 * coll) 4

/-- The members of a collective (R333). -/
def collN (ctrl : Nat) : Nat := ebits ctrl 15 8 + 1

/-- An entry is valid for R280: V, rank below N, N from 2, and no reserved bit set (R333). -/
def State.collValid (s : State) (slot coll : Nat) : Bool :=
  let t := (s.ctx slot).colltab.toNat + 512 * coll
  let w := s.collCtrl slot coll
  ebit w 0 && ebits w 7 1 == 0 && ebits w 31 24 == 0 && decide (2 ≤ collN w) && decide (ebits w 23 16 < collN w) &&
    s.mem.num (t + 4) 60 == 0 && s.mem.num (t + 0x140) 192 == 0

/-- Every member but this device is reached by a window that may be written (R333). -/
def State.collWindows (s : State) (slot coll : Nat) : Bool :=
  let t := (s.ctx slot).colltab.toNat + 512 * coll
  let w := s.collCtrl slot coll
  (List.range (collN w)).all fun i =>
    i == ebits w 23 16 ||
      let k := s.mem.num (t + 0x40 + i) 1
      decide (k < 64) && (s.window slot k).ok && (s.window slot k).write

/-- A link operation is issued (R280, R48): the instruction completes when every member has acknowledged. -/
def State.linkCommand (s : State) (e : Env) (c : Cmd) (coll : Nat) : Except Stop State :=
  let x := s.ctx e.g.slot
  let s := s.setCtx e.g.slot { x with collN := x.collN.modify coll (· + 1) }
  let s := { s with nextId := s.nextId + 1 }
  if e.g.dmode then
    if 512 ≤ e.g.cbuf.length then .error .quantum
    else .ok (s.mapG e.gi fun g => g.bufOp (e.op (.accept .link c) .eng .grp [] false))
  else
    let s := s.mapQueue e.g.gid.cluster .link (· ++ [c])
    .ok (s.mapG e.gi fun g => g.addOp (e.op (.coll c.id) .eng .grp [] false))

/-- The release of a link operation, from its ordering field. -/
def linkAr (o : OrdScope) : AcqRel := ⟨false, o.ord == .rel, o.scope⟩

/-- XSCALE (R280). -/
def xscaleBody (o : OrdScope) (coll : BitVec 4) (d a b c : Operand) : Env → State → Except Stop State := whenGuard fun e s =>
  let src := e.u64 a
  let dst := e.u64 b
  let nb := e.u32 c
  if nb = 0 ∨ 65536 < nb ∨ !s.collValid e.g.slot coll.toNat then faultAt .objArg 0
  else if src % 128 ≠ 0 then faultAt .misaligned src
  else if dst % 8 ≠ 0 then faultAt .misaligned dst
  else match s.rangeCheck e.g.gid.cluster e.g.slot src (128 * nb) needR, s.rangeCheck e.g.gid.cluster e.g.slot dst (8 * nb) needW with
    | .error f, _ => liftF (.error f)
    | _, .error f => liftF (.error f)
    | .ok _, .ok _ => s.linkCommand e (e.cmd (linkAr o) (.xscale (e.u64 d) src dst nb coll.toNat)) coll.toNat

/-- XRED (R280). -/
def xredBody (o : OrdScope) (coll : BitVec 4) (d a b c : Operand) : Env → State → Except Stop State := whenGuard fun e s =>
  let data := e.u64 a
  let scl := e.u64 b
  let nb := e.u32 c
  if nb = 0 ∨ 65536 < nb ∨ !s.collValid e.g.slot coll.toNat then faultAt .objArg 0
  else if data % 128 ≠ 0 then faultAt .misaligned data
  else if scl % 8 ≠ 0 then faultAt .misaligned scl
  else match s.rangeCheck e.g.gid.cluster e.g.slot data (128 * nb) { types := [0], r := true, w := true }, s.rangeCheck e.g.gid.cluster e.g.slot scl (8 * nb) needR with
    | .error f, _ => liftF (.error f)
    | _, .error f => liftF (.error f)
    | .ok _, .ok _ => s.linkCommand e (e.cmd (linkAr o) (.xred (e.u64 d) data scl nb coll.toNat)) coll.toNat

/-- A link operation stops on this device (R281): the device posts the fault, and the context freezes on a PERMISSION. -/
def State.linkFault (s : State) (cl : Nat) (c : Cmd) (f : FCode) (a : Nat) : State :=
  let s := s.endCmd cl .link c none
  if f.cls = .freeze then s.freeze c.slot f.num 6 c.gid.who a 0
  else s.post c.slot { code := f.num, kind := 1, master := 6, addr := a, pc := c.pc, who := c.gid.who, info := 255, lage := c.lage }

/-- A link operation ends without a result (R281): a notice, and no credit. -/
def State.linkNotice (s : State) (cl : Nat) (c : Cmd) (f : FCode) : State :=
  (s.endCmd cl .link c none).post c.slot
    { code := f.num, kind := 2, master := 6, pc := c.pc, who := c.gid.who, info := 255, lage := c.lage }

/-- The words of a range of 32-bit elements. -/
def State.readWords (s : State) (c : Cmd) (a n : Nat) : Except (FCode × Nat) (List Nat) :=
  (List.range n).mapM fun i => s.engRead c (a + 4 * i) 4

/-- What this device contributes to a collective (R130, R131), with the place of each word: XSCALE's scale words, or
XRED's integers followed by the scale words they were made with. -/
def State.linkWords (s : State) (c : Cmd) : Except (FCode × Nat) (List (Nat × Nat × Nat)) :=
  match c.kind with
  | .xscale _ src dst nb _ => (List.range nb).mapM fun b => match s.readWords c (src + 128 * b) 32 with
    | .ok xs => .ok (dst + 8 * b, 8, (xscaleWord xs).toNat)
    | .error e => .error e
  | .xred _ data scl nb _ =>
    let blocks : Except (FCode × Nat) (List (List (Nat × Nat × Nat) × (Nat × Nat × Nat))) := (List.range nb).mapM fun b =>
      match s.engRead c (scl + 8 * b) 8, s.readWords c (data + 128 * b) 32 with
      | .ok w, .ok xs =>
        let X := (BitVec.ofNat 16 w).toInt
        let q (i x : Nat) : Nat := if ebit w (32 + i) then 0 else (BitVec.ofInt 64 (xredQuant X x)).toNat
        .ok ((xs.zipIdx.map fun p => (data + 128 * b + 4 * p.2, 4, q p.2 p.1)), (scl + 8 * b, 8, w))
      | .error e, _ => .error e
      | _, .error e => .error e
    match blocks with
    | .ok bs => .ok (bs.flatMap (·.1) ++ bs.map (·.2))
    | .error e => .error e
  | _ => .ok []

/-- The collective of a link operation. -/
def CmdKind.coll : CmdKind → Nat
  | .xscale _ _ _ _ k | .xred _ _ _ _ k => k
  | _ => 0

/-- The link engine sends this device's contribution (R280, R281). -/
def State.sendLink (s : State) (cl : Nat) (c : Cmd) : State :=
  if !s.collWindows c.slot c.kind.coll then s.linkFault cl c .peerWindow 0
  else match s.linkWords c with
    | .error e => s.linkFault cl c e.1 e.2
    | .ok ws => s.putCmd cl .link { c with todo := ws, sent := true }

/-- The contributions of one place, added to this device's (R130, R131). -/
def combineAt (f : DWord → DWord → DWord) (own : Nat) (i : Nat) (others : List (List DWord)) : DWord :=
  others.foldl (fun acc o => f acc (o.getD i 0)) (BitVec.ofNat 64 own)

/-- The writes of a collective's result, and its credit (R280). -/
def linkResult (c : Cmd) (others : List (List DWord)) : List (Nat × Nat × Nat) × Nat × Nat :=
  match c.kind with
  | .xscale bar _ _ nb _ =>
    (c.todo.zipIdx.map fun p => (p.1.1, 8, (combineAt xscaleCombine p.1.2.2 p.2 others).toNat), bar, 8 * nb)
  | .xred bar _ _ nb _ =>
    let words := (c.todo.drop (32 * nb)).map fun p => p.2.2
    let res (i own : Nat) : Nat :=
      let w := words.getD (i / 32) 0
      xredResult (BitVec.ofNat 16 w).toInt (ebit w (32 + i % 32)) (combineAt (· + ·) own i others)
    (((c.todo.take (32 * nb)).zipIdx.map fun p => (p.1.1, 4, res p.2 p.1.2.2)), bar, 128 * nb)
  | _ => ([], 0, 0)

/-- An XRED. -/
def CmdKind.isXred : CmdKind → Bool
  | .xred _ _ _ _ _ => true
  | _ => false

/-- The keys of a command's writes, or the first fault and its address. -/
def State.writeKeys (s : State) (c : Cmd) (ws : List (Nat × Nat × Nat)) : Except (FCode × Nat) (List (List Nat)) :=
  ws.mapM fun w => s.rangeKeys c.gid.cluster c.slot w.1 w.2.1 needW

/-- COLLECTIVE_COMPLETION (R280, R281). `others` holds what each other member has sent: whether its operation is an XRED, and its words
in the order of this device's. A member that aborts sends nothing. A collective of N members (R333) takes N - 1 lists and no more (R132).
Every word can be written, or none is. -/
def collectiveBody (cl k : Nat) (others : List (Bool × List DWord)) (s : State) : Option State :=
  match (s.cl cl).link.find? (·.id == k) with
  | none => none
  | some c =>
    let n := collN (s.collCtrl c.slot c.kind.coll)
    let want := match c.kind with
      | .xscale _ _ _ nb _ => nb
      | .xred _ _ _ nb _ => 32 * nb
      | _ => 0
    if !c.sent ∨ (s.ctx c.slot).state ≠ .active ∨ n < others.length + 1 then none
    else if others.length + 1 < n then some (s.linkNotice cl c .collAbort)
    else if others.any (fun o => o.1 != c.kind.isXred || o.2.length != want) then some (s.linkNotice cl c .collMismatch)
    else
      let (ws, bar, n) := linkResult c (others.map (·.2))
      match s.writeKeys c ws with
      | .error e => some (s.linkFault cl c e.1 e.2)
      | .ok ks =>
        let t := (ks.zip ws).foldl (fun t p => t.write (p.1.zip (bytesOfWord p.2.2.1 p.2.2.2))) s
        match t.credit c bar n with
        | (_, _, .fault f a) => some (s.linkFault cl c f a)
        | (t, c, .fin) => some (t.endCmd cl .link c none)

/-- ACKNOWLEDGEMENT of an XSCALE or XRED (R48, R244, R280): every member has acknowledged this device's contribution. An operation that
ended before has nothing more to wait for (R281, log 45). -/
def collAckBody (gi k : Nat) (s : State) : Option State :=
  match s.findOp gi k with
  | some (g, o) => match o.kind with
    | .coll id => if ((s.cl g.gid.cluster).link.find? (·.id == id)).all (·.sent) then some (s.setG gi (g.complete o)) else none
    | _ => none
  | none => none

/-- ACKNOWLEDGEMENT: of a store's accesses, or of a device's contribution to a collective. -/
def execAcknowledgement (g k : Nat) (s : State) : Host.Outcome State Fault Refusal :=
  eventOf s (match acknowledgementBody g k s with
    | some t => some t
    | none => collAckBody g k s)

/-- The engine list of an ENGINE_OPERATION. -/
def engineKind : Engine → EngineKind
  | .copy => .copy | .gather => .gather | .link => .link

/-- ENGINE_OPERATION (R96): an engine performs an accepted command, which ends finished, failed or suspended. -/
def engineOperationBody (cl : Nat) (e : Engine) (k : Nat) (s : State) : Option State :=
  match ((s.cl cl).queue (engineKind e)).find? (·.id == k) with
  | none => none
  | some c =>
    if !s.cmdReady c ∨ c.sent then none
    else match e with
      | .copy => let r := s.runCopy c
                 some (r.1.settleCmd cl .copy r.2.1 r.2.2)
      | .gather => let r := s.runGather cl c
                   some (r.1.settleCmd cl .gather r.2.1 r.2.2)
      | .link => some (s.sendLink cl c)

/-- ENGINE_OPERATION. -/
def execEngineOperation (cl : Nat) (e : Engine) (k : Nat) (s : State) : Host.Outcome State Fault Refusal :=
  eventOf s (engineOperationBody cl e k s)

/-- COLLECTIVE_COMPLETION. -/
def execCollectiveCompletion (cl k : Nat) (others : List (Bool × List DWord)) (s : State) : Host.Outcome State Fault Refusal :=
  eventOf s (collectiveBody cl k others s)


/-- XSCALE (R280). -/
def execXscale (h : Head) (o : OrdScope) (coll : BitVec 4) (d : Operand) (a : Operand) (b : Operand) (c : Operand) (s : State) : Host.Outcome State Fault Refusal :=
  issue (.xscale h o coll d a b c) (xscaleBody o coll d a b c) s

/-- XRED (R280). -/
def execXred (h : Head) (o : OrdScope) (coll : BitVec 4) (d : Operand) (a : Operand) (b : Operand) (c : Operand) (s : State) : Host.Outcome State Fault Refusal :=
  issue (.xred h o coll d a b c) (xredBody o coll d a b c) s

end Sys2Proof.Machine
end

