-- ==== Sys2Proof/Machine/Sync.lean ====
section
/-! DEFINITION. Class 101: atomics, announced objects, barriers, messages, PARK, FENCE, DRAIN (R225-R228, R243-R278),
the steps and replies that complete them, and long-latency faults (R75, R250). -/

namespace Sys2Proof.Machine

/-! ## What FENCE waits for (R226) -/

/-- A store, atomic or message (R226). -/
def Op.storeLike (o : Op) : Bool := o.late.isNone && match o.kind with
  | .store _ _ | .fill _ _ _ _ | .msend _ _ _ _ => true
  | .kiln _ _ _ _ _ _ => o.ok != .ld && o.ok != .aq
  | _ => false

/-- A load or atomic that awaits a value (R226). -/
def Op.valued (o : Op) : Bool := o.late.isNone && match o.kind with
  | .load _ _ _ _ _ _ | .fill _ _ _ _ => true
  | .kiln _ _ _ _ _ _ => o.ok != .st && o.ok != .rl
  | _ => false

/-- A release of a path has to wait (R226). -/
def Env.relWaits (e : Env) : Bool := e.g.ops.any fun o => e.g.before o e.p.id e.p.born && o.storeLike
/-- An acquire of a path has to wait (R226). -/
def Env.acqWaits (e : Env) : Bool := e.g.ops.any fun o => e.g.before o e.p.id e.p.born && o.valued

/-- The kind of an atomic (R218). -/
def atKind : Ord → OKind
  | .rlx => .at | .acq => .atAcq | .rel => .atRel | .ar => .atAr

/-- An order that releases. -/
def relOrd (o : Ord) : Bool := o == .rel || o == .ar

/-! ## Atomics (R251-R254) -/

/-- The space of an atomic's address (R251). -/
def mspaceOf : Space → MSpace
  | .glob => .g | .shared => .s | .scratch => .d | .peer => .x | .host => .h

/-- The check pass of an atomic over its lanes (R253): lane, address, key. A host atomic other than those of R254 raises
SPACE_MISMATCH. -/
def State.atomCheck (s : State) (e : Env) (sp : Space) (hostOk uni : Bool) (n : Nat) (a : Operand) : Except Stop (List (Nat × Nat × Nat)) :=
  let ls := e.accLanes uni
  if sp = .host ∧ !hostOk ∧ !ls.isEmpty then faultAt .spaceMismatch ((ls.map (e.address (mspaceOf sp) a 0)).headD 0)
  else s.checkPass e.g (mspaceOf sp) n ls (e.address (mspaceOf sp) a 0) true true true

/-- An atomic is issued (R253): its steps are in flight, or in the commit buffer. -/
def State.issueAtomic (s : State) (e : Env) (o : OrdScope) (k : OKind) (sp : Space) (hostOk uni : Bool) (n : Nat) (a : Operand)
    (d : Option Operand) (px : Option PReg) (act : Nat → KAct) : Except Stop State :=
  match s.atomCheck e sp hostOk uni n a with
  | .error x => .error x
  | .ok acc =>
    let s := s.noteAcc e.g (mspaceOf sp) acc
    if acc.isEmpty then .ok s
    else if relOrd o.ord && e.relWaits then .error .stall
    else
      let dsts := (match d with
        | some d => destRefs d (wordsOf n)
        | none => []) ++ match px with
        | some p => predRefs [p.toNat]
        | none => []
      let todo := acc.map fun p => KStep.mk p.1 p.2.1 p.2.2 (act p.1)
      s.issueOp e (e.op (.kiln todo [] d n px uni) k o.scope dsts true) true

/-- The operand of an atomic in a lane: an FP32 constant for `.FADD` (R43, R252). -/
def Env.atomArg (e : Env) (op : AtomOp) (w : Width) (b : Operand) (l : Nat) : Nat :=
  if op = .fadd then (e.rdF b .f32 l).toNat else e.num b w.regs l

/-- ATOM (R251-R254). -/
def atomBody (op : AtomOp) (o : OrdScope) (w : Width) (sp : Space) (d a b : Operand) : Env → State → Except Stop State := fun e s =>
  s.issueAtomic e o (atKind o.ord) sp (op == .add || op == .exch) d.isS w.bytes a (some d) none
    fun l => .atom op w.bytes (e.atomArg op w b l)

/-- RED (R251-R254). -/
def redBody (op : AtomOp) (o : OrdScope) (w : Width) (sp : Space) (a b : Operand) : Env → State → Except Stop State := fun e s =>
  s.issueAtomic e o (if o.ord = .rel then .rl else .st) sp (op == .add) (!a.isV && !b.isV) w.bytes a none none
    fun l => .atom op w.bytes (e.atomArg op w b l)

/-- CAS and CAS2 (R251-R254). -/
def casBody (o : OrdScope) (w : Width) (sp : Space) (d a b c : Operand) (px : PReg) : Env → State → Except Stop State := fun e s =>
  s.issueAtomic e o (atKind o.ord) sp true d.isS w.bytes a (some d) (some px)
    fun l => .cas w.bytes (e.num b w.regs l) (e.num c w.regs l)

/-! ## Objects and barriers (R257-R274) -/

/-- One step on an object or barrier is issued; a flag that the instruction names falls as it retires (R48). -/
def State.issueStep (s : State) (e : Env) (k : OKind) (sc : Scope) (va key : Nat) (act : KAct) (d : Option Operand) (px : Option PReg)
    (buffered : Bool) : Except Stop State :=
  let dsts := (match d with
    | some d => destRefs d 1
    | none => []) ++ match px with
    | some p => predRefs [p.toNat]
    | none => []
  let s := s.noteTlb e.g.gid.cluster e.g.slot va
  s.issueOp e { e.op (.kiln [⟨255, va, key, act⟩] [] d 4 px true) k sc dsts (k != .ld && k != .aq) with flag := none } buffered

/-- OBINIT (R257). -/
def obinitBody (kind : ObjKind) (o : OrdScope) (kcode : BitVec 2) (xp : Bool) (pmask : BitVec 8) (a b : Operand) :
    Env → State → Except Stop State := whenGuard fun e s =>
  let va := e.u64 a
  let ws := (List.range 4).map fun i => (e.num b 8 e.ulane) / 2 ^ (64 * i) % 2 ^ 64
  match s.syncKey e.g.gid.cluster e.g.slot va (64 + 32 * (8 * 2 ^ kcode.toNat)) 64 with
  | .error f => faultAt f va
  | .ok key =>
    if !objWordsOk kind ws then faultAt .objArg va
    else if xp && !(s.ctx e.g.slot).xp then faultAt .permission va
    else if relOrd o.ord && e.relWaits then .error .stall
    else s.issueStep e (atKind o.ord) o.scope va key (.obinit kind o.scope kcode.toNat xp pmask.toNat ws) none none true

/-- ANN (R260): the mailbox is checked at issue. -/
def annBody (op : ObjOp) (d a b c : Operand) : Env → State → Except Stop State := whenGuard fun e s =>
  let va := e.u64 a
  let mb := e.u64 c
  let args := e.num b 4 e.ulane
  if 2 ^ 56 ≤ mb then faultAt .addrRange mb
  else if mb % 16 ≠ 0 then faultAt .misaligned mb
  else match s.translate e.g.gid.cluster e.g.slot mb needW with
    | .error f => faultAt f mb
    | .ok _ => match s.syncKey e.g.gid.cluster e.g.slot va 64 64 with
      | .error f => faultAt f va
      | .ok key => (s.noteTlb e.g.gid.cluster e.g.slot mb).issueStep e .ah .dev va key (.ann op (args % 2 ^ 64) (args / 2 ^ 64) mb) (some d) none true

/-- HELP (R261). -/
def helpBody (d a : Operand) (px : PReg) : Env → State → Except Stop State := whenGuard fun e s =>
  let va := e.u64 a
  match s.syncKey e.g.gid.cluster e.g.slot va 64 64 with
  | .error f => faultAt f va
  | .ok key => s.issueStep e .ah .dev va key .help (some d) (some px) true

/-- A barrier instruction (R268): its address, then its step. -/
def barBody (o : OrdScope) (a : Operand) (d : Option Operand) (px : Option PReg) (act : Env → KAct) : Env → State → Except Stop State :=
  whenGuard fun e s =>
    let va := e.u64 a
    match s.syncKey e.g.gid.cluster e.g.slot va 16 16 with
    | .error f => faultAt f va
    | .ok key =>
      if relOrd o.ord && e.relWaits then .error .stall
      else s.issueStep e (atKind o.ord) o.scope va key (act e) d px true

/-- BTEST (R272): one read of the barrier. -/
def btestBody (o : OrdScope) (a b : Operand) (px : PReg) : Env → State → Except Stop State := whenGuard fun e s =>
  let va := e.u64 a
  if 2 ^ 56 ≤ va ∨ va % 16 ≠ 0 then faultAt .objRange va
  else match s.translate e.g.gid.cluster e.g.slot va { types := [4], r := true } with
    | .error f => faultAt (match f with
      | .spaceMismatch | .regspaceAccess => .objRange
      | f => f) va
    | .ok key => s.issueStep e (if o.ord = .acq then .aq else .ld) o.scope va key (.btest (e.u32 b)) none (some px) false

/-- SRED (R274): the result range is checked at issue. -/
def sredBody (op : SredOp) (n : BitVec 4) (o : OrdScope) (d a b c : Operand) : Env → State → Except Stop State := whenGuard fun e s =>
  let va := e.u64 a
  let dst := e.u32 c
  let k := n.toNat + 1
  match s.syncKey e.g.gid.cluster e.g.slot va 16 16 with
  | .error f => faultAt f va
  | .ok key =>
    if dst % 16 ≠ 0 then faultAt .misaligned dst
    else match s.sharedKey e.g dst (4 * k) with
      | .error f => faultAt f dst
      | .ok _ =>
        if relOrd o.ord && e.relWaits then .error .stall
        else
          let ws := (List.range k).map fun i => (e.word b i e.ulane).toNat
          s.issueStep e (atKind o.ord) o.scope va key (.sred op ws dst) (some d) none true

/-! ## Messages (R275-R277) -/

/-- The payload of a message (R276). -/
def Env.payload (e : Env) (b : Operand) : List Word :=
  (List.range 16).map fun i => match b with
    | .v n => e.g.vlane n.toNat i
    | .s n => e.g.sreg (n.toNat + i)
    | _ => 0

/-- MSEND (R276). -/
def msendBody (o : OrdScope) (a b : Operand) (px : PReg) : Env → State → Except Stop State := whenGuard fun e s =>
  if relOrd o.ord && e.relWaits then .error .stall
  else s.issueOp e (e.op (.msend (e.u32 a) (e.payload b) none px) (if o.ord = .rel then .rl else .st) o.scope (predRefs [px.toNat]) true) true

/-- A message port of a cluster. -/
def State.port (s : State) (cl p : Nat) : Port := (s.cl cl).ports.getD p {}
/-- A message port replaced. -/
def State.setPort (s : State) (cl p : Nat) (x : Port) : State :=
  let c := s.cl cl
  s.setCl cl { c with ports := c.ports.set p x }
/-- The context slot that owns a port, if it is valid (R329). -/
def Port.owner (p : Port) : Option Nat := if p.own.getLsbD 7 then some (p.own.toNat % 64) else none

/-- A port admits a sender's context (R329). -/
def State.portAdmits (s : State) (p : Port) (slot : Nat) : Bool :=
  match p.owner with
  | none => false
  | some o => o == slot || ((s.ctx o).xp && (s.ctx slot).xp)

/-- Parked paths of a cluster that watch a port are marked for waking (R278). -/
def State.wakePort (s : State) (cl p : Nat) : State :=
  { s with groups := s.groups.map fun (g : Group) =>
      if g.gid.cluster == cl then { g with paths := g.paths.map fun (q : Path) => match q.st with
        | .parked line ports bound woken => { q with st := .parked line ports bound (woken || ebit ports p) }
        | _ => q }
      else g }

/-- A flit reaches a port (R276): taken, or refused, which a full FIFO counts. -/
def State.deliverFlit (s : State) (g : Group) (dst : Nat) (payload : List Word) : State × Bool :=
  let cl := ebits dst 6 0
  let p := ebits dst 9 7
  let x := s.port cl p
  if ebits dst 15 10 ≠ 0 ∨ !s.portAdmits x g.slot then (s, false)
  else if 16 ≤ x.fifo.length then (s.setPort cl p { x with refused := min (x.refused + 1) 255 }, false)
  else
    let h : Word := BitVec.ofNat 32 (g.gid.cluster + g.gid.part * 2 ^ 7 + g.gid.slot * 2 ^ 9 + dst / 2 ^ 16 * 2 ^ 16)
    ((s.setPort cl p { x with fifo := x.fifo ++ [⟨h, payload⟩] }).wakePort cl p, true)

/-- MRECV (R277): the oldest flit of the cluster's own port. -/
def mrecvBody (o : OrdScope) (port : BitVec 3) (d : Operand) (px : PReg) : Env → State → Except Stop State := whenGuard fun e s =>
  if e.g.mustWait e.g.ops e.p.id e.p.born (ldKind o.ord) [] then .error .stall
  else
    let cl := e.g.gid.cluster
    let x := s.port cl port.toNat
    match x.fifo with
    | f :: r =>
      if x.owner = some e.g.slot then
        let v (l : Nat) : Word := if l < 16 then f.payload.getD l 0 else if l = 16 then f.header else 0
        let s := s.setPort cl port.toNat { x with fifo := r }
        .ok (s.mapG e.gi fun g => (match d with
          | .v n => g.setV n.toNat fun l => some (v l)
          | _ => g).setPAll px.toNat e.p.held true)
      else .ok (s.mapG e.gi fun g => g.setPAll px.toNat e.p.held false)
    | [] => .ok (s.mapG e.gi fun g => g.setPAll px.toNat e.p.held false)

/-- MSTAT (R277). -/
def mstatBody (clr : Bool) (port : BitVec 3) (d : Operand) : Env → State → Except Stop State := whenGuard fun e s =>
  let cl := e.g.gid.cluster
  let x := s.port cl port.toNat
  let own := x.owner == some e.g.slot
  let v := if own then x.fifo.length + x.refused * 2 ^ 8 + 2 ^ 16 else 0
  let s := if own && clr then s.setPort cl port.toNat { x with refused := 0 } else s
  .ok (s.mapG e.gi fun g => g.writeD e.p.id e.ulane d false fun _ => some (BitVec.ofNat 64 v))

/-! ## PARK (R278) -/

/-- The key of a watched address, after its checks (R278). -/
def State.parkKey (s : State) (g : Group) (sp : Space) (a : Nat) : Except FCode Nat :=
  match sp with
  | .shared => s.sharedKey g a 1
  | .scratch => s.scratchKey g.slot a 1
  | _ => if 2 ^ 56 ≤ a then .error .addrRange else s.translate g.gid.cluster g.slot a { types := [0, 4] }

/-- PARK (R278, R239): the path is not selected until it wakes. Writes meet the watch once it is armed (`Group.watches`). -/
def parkBody (msg : Bool) (sp : Space) (mask : BitVec 8) (a : Operand) : Env → State → Except Stop State := whenGuard fun e s =>
  let x := if sp = .glob then e.u64 a else e.u32 a
  match s.parkKey e.g sp x with
  | .error f => faultAt f x
  | .ok key =>
    let ports := if msg then mask.toNat else 0
    let there := (List.range 8).any fun p => ebit ports p && !(s.port e.g.gid.cluster p).fifo.isEmpty
    let pb := min (e.g.regs.tcmp.toNat / 2 ^ 48) 3600
    let s := if sp = .glob then s.noteTlb e.g.gid.cluster e.g.slot x else s
    if pb = 0 ∧ !e.g.dmode then .ok s
    else .ok (s.mapG e.gi fun g =>
      { g.mapPath e.p.id fun p => { p with st := .parked (lineOf key) ports (s.clock.toNat + 64 * pb) there } with qend := g.qend || g.dmode })

/-! ## FENCE and DRAIN (R225-R228) -/

/-- A fence that keeps later accesses behind earlier loads, once it has retired (R224). -/
def State.leaveMarker (s : State) (e : Env) (sc : Scope) : State :=
  let s' := { s with nextId := s.nextId + 1 }
  if e.g.ops.any Op.valued then s'.mapG e.gi fun g => g.addOp { e.op .marker .fr sc [] false with flag := none } else s

/-- FENCE (R225, R226). -/
def fenceBody (fo : FenceOrd) (sc : Scope) : Env → State → Except Stop State := whenGuard fun e s =>
  let rel := fo != .acq
  let acq := fo != .rel
  if (rel && e.relWaits) || (acq && e.acqWaits) then .error .stall
  else
    let s := if fo = .rel then s.leaveMarker e sc else s
    .ok (s.mapG e.gi fun g => { g with qend := g.qend || (g.dmode && fo == .sc) })

/-- DRAIN waits until the outstanding-acknowledgement counter is zero; a buffered operation ends a D-mode quantum
(R228, R377). -/
def Env.drainStop (e : Env) : Option Stop :=
  if e.g.acks = 0 then none else if e.g.cbuf.any (·.counted) then some .quantum else some .stall

/-- DRAIN with an arrival (R228). -/
def drainBody (sc : Scope) (d a : Operand) : Env → State → Except Stop State := whenGuard fun e s =>
  match e.drainStop with
  | some x => .error x
  | none =>
    let va := e.u64 a
    match s.syncKey e.g.gid.cluster e.g.slot va 16 16 with
    | .error f => faultAt f va
    | .ok key =>
      let s := s.leaveMarker e sc
      ({ e with s := s } : Env) |> fun e => s.issueStep e .atRel sc va key (.barv 1) (some d) none true

/-- DRAIN.NB (R228). -/
def drainNbBody : Env → State → Except Stop State := whenGuard fun e s =>
  match e.drainStop with
  | some x => .error x
  | none => .ok (s.leaveMarker e .sys)

/-! ## Steps, replies and deliveries -/

/-- A step goes to the Spindle: an arrival at a Spindle-homed barrier (R273). -/
def State.toSpindle (s : State) (st : KStep) : Bool :=
  match st.act with
  | .barv _ | .bardrop | .sred _ _ _ => (readBar s.mem st.key).spn
  | _ => false

/-- The number that FINFO gives a fault of a step on an announced object (R343): NEXTSEQ, which the step has not taken (log 108). -/
def State.objSeq (s : State) (st : KStep) : Option Nat :=
  match st.act with
  | .ann _ _ _ _ | .help => some (s.fld st.key 12 4)
  | _ => none

/-- A step of a request is refused, which changes nothing and its group learns later (R250). -/
def State.refuseStep (s : State) (gi : Nat) (o : Op) (st : KStep) (c : FCode) : State :=
  s.mapG gi fun g => g.setOp { o with late := some { code := c, addr := st.va, lane := st.lane, info := s.objSeq st, late := true } }

/-- The next step of a request is taken, or refused (R246, R250). -/
def State.stepOp (s : State) (gi : Nat) (g : Group) (o : Op) : State :=
  match o.kind with
  | .kiln (st :: todo) res d n px uni =>
    match s.kilnAct g o.id st with
    | .ok (t, r) => t.mapG gi fun g => g.setOp { o with kind := .kiln todo (res ++ [r]) d n px uni }
    | .error c => s.refuseStep gi o st c
  | _ => s

/-! ### Arrivals of one cycle (R271, R273) -/

/-- An arrival or a drop that reaches a barrier: the group and the operation that bring it, its step on the barrier. -/
structure Arrival where
  gi : Nat
  g : Group
  op : Op
  st : KStep

/-- The arrival that an operation in flight may make now. -/
def State.arrivalOf (s : State) (spindle : Bool) (p : Nat × Nat) : Option Arrival :=
  match s.findOp p.1 p.2 with
  | some (g, o) => match o.kind with
    | .kiln [st] [] _ _ _ _ =>
      if (g.arrival st.act).isSome ∧ s.toSpindle st = spindle ∧ (spindle ∨ !(readBar s.mem st.key).spn) ∧ g.mayPerform o ∧ o.late.isNone ∧
          !s.poisoned st.key then some ⟨p.1, g, o, st⟩ else none
    | _ => none
  | none => none

/-- Arrivals applied in order, each one's refusal check seeing those before: the state, the barrier, and the last one that was not
refused (R271). The token's completion bit waits for the check at the end. -/
def State.arrive (s : State) (b : Bar) : List Arrival → State × Bar × Option Arrival
  | [] => (s, b, none)
  | a :: r =>
    match a.g.arrival a.st.act with
    | none => s.arrive b r
    | some (f, note) => match f b with
      | .error c => (s.refuseStep a.gi a.op a.st c).arrive b r
      | .ok b' =>
        let t := s.mapG a.gi fun g => g.setOp { a.op with kind := match a.op.kind with
          | .kiln _ _ d n px uni => .kiln [] [⟨a.st.lane, token b.phase false, true⟩] d n px uni
          | k => k }
        let t := { t with spindle := t.spindle.map fun (p : SpnSlot) => if p.key == a.st.key then note p else p }
        let (u, b'', l) := t.arrive b' r
        (u, b'', l <|> some a)

/-- The token of an arrival takes bit 8: the phase completed with it (R268). -/
def Op.completing (o : Op) : Op := match o.kind with
  | .kiln [] [r] d n px uni => { o with kind := .kiln [] [{ r with val := r.val + 256 }] d n px uni }
  | _ => o

/-- The arrivals and drops that reach one barrier in one cycle: one step, with one check at its end, in increasing cluster number
(R271). The last of them that is not refused completes the phase, when it completes (log 29). -/
def State.combined (s : State) (spindle : Bool) (as : List Arrival) : Option State :=
  match as with
  | [] => none
  | a :: r =>
    let k := a.st.key
    if r.any (fun x => x.st.key != k) || !(as.map fun x => x.op.id).Nodup then none
    else
      let s := match s.spnAt k with
        | some i => if spindle then s.spnComplete i else s
        | none => s
      let (t, b, last) := s.arrive (readBar s.mem k) (as.mergeSort fun x y => decide (x.g.gid.cluster ≤ y.g.gid.cluster))
      let done := b.complete && last.isSome
      let t := match last with
        | some l => if done then t.mapG l.gi fun g => { g with ops := g.ops.map fun (o : Op) => if o.id == l.op.id then o.completing else o } else t
        | none => t
      some (if !done then t.writeBar k b
        else if spindle then
          { t.writeBar k b with spindle := t.spindle.map fun (p : SpnSlot) => if p.key == k then { p with full := last.map fun l => l.op.id } else p }
        else t.writeBar k b.turn)

/-- The results of a request are written and it is acknowledged (R253, R48, R227). -/
def State.replyOp (s : State) (gi : Nat) (o : Op) : State :=
  match o.kind with
  | .kiln _ res d n px uni => s.mapG gi fun g =>
    let g := match d with
      | some d => g.writeRegs d (wordsOf n) (res.map fun (r : KRes) => (r.lane, r.val))
      | none => g
    let g := match px with
      | some p => g.writePred p uni o.held (res.map fun (r : KRes) => (r.lane, r.ok))
      | none => g
    g.complete o
  | _ => s

/-- KILN_STEP and SPINDLE_ARRIVAL: the request's next step, where it goes to the place named (R246, R273); with `more`, the arrivals of
one cycle at one barrier (R271). -/
def stepBody (spindle : Bool) (gi k : Nat) (more : List (Nat × Nat)) (s : State) : Option State :=
  if !more.isEmpty then match ((gi, k) :: more).mapM (s.arrivalOf spindle) with
    | some as => s.combined spindle as
    | none => none
  else match s.findOp gi k with
  | some (g, o) => match o.kind with
    | .kiln (st :: _) _ _ _ _ _ =>
      if s.toSpindle st = spindle ∧ g.mayPerform o ∧ o.late.isNone then some (s.stepOp gi g o) else none
    | _ => none
  | none => none

/-- KILN_REPLY (R253). The ticket of an arrival that completed a phase at the Spindle follows the writing of its results (R274). -/
def kilnReplyBody (gi k : Nat) (s : State) : Option State :=
  match s.findOp gi k with
  | some (_, o) => match o.kind with
    | .kiln [] _ _ _ _ _ =>
      if o.late.isNone ∧ !s.spindle.any (fun p => p.full == some k) then some (s.withLines gi o.dsts fun t => t.replyOp gi o) else none
    | _ => none
  | none => none

/-- Flits of one group to one port arrive in program order (R276). -/
def Group.flitWaits (g : Group) (o : Op) (dst : Nat) : Bool :=
  (g.ops.takeWhile fun x => x.id != o.id).any fun x => match x.kind with
    | .msend d _ none _ => d % 2 ^ 10 == dst % 2 ^ 10
    | _ => false

/-- FLIT_DELIVERY (R276). -/
def flitDeliveryBody (gi k : Nat) (s : State) : Option State :=
  match s.findOp gi k with
  | some (g, o) => match o.kind with
    | .msend dst payload none px =>
      if g.mayPerform o ∧ !g.flitWaits o dst then
        let (t, ok) := s.deliverFlit g dst payload
        some (t.mapG gi fun g => g.setOp { o with kind := .msend dst payload (some ok) px })
      else none
    | _ => none
  | none => none

/-- MSEND_ANSWER (R276). -/
def msendAnswerBody (gi k : Nat) (s : State) : Option State :=
  match s.findOp gi k with
  | some (g, o) => match o.kind with
    | .msend _ _ (some ok) px => some (s.setG gi ((g.setPAll px.toNat o.held ok).complete o))
    | _ => none
  | none => none

/-- SPINDLE_PHASE_COMPLETION (R273, R274). -/
def spindlePhaseBody (k : Nat) (s : State) : Option State :=
  if (s.spindle[k]?).any (·.full.isSome) then some (s.spnComplete k) else none

/-- A parked path resumes (R278). -/
def parkEnd (gi p : Nat) (ok : State → Nat → Bool → Bool) (s : State) : Option State :=
  match s.groups[gi]? with
  | none => none
  | some g => match g.path p with
    | none => none
    | some q => match q.st with
      | .parked _ _ bound woken => if !g.dmode ∧ ok s bound woken then some (s.mapG gi fun g => g.mapPath p Path.wake) else none
      | _ => none

/-! ## Long-latency faults (R75, R250, R247) -/

/-- The faults that an access may meet after issue (R75, R76, R332). -/
def lateCode (n : Nat) (o : Op) : Option FCode :=
  let ks : List Nat := match o.kind with
    | .load acc _ _ _ _ _ => acc.map (·.2)
    | .store acc _ | .fill acc _ _ _ => acc.map fun p => p.2.1
    | .kiln todo _ _ _ _ _ => todo.map (·.key)
    | _ => []
  if ks.isEmpty then none
  else if n = 0x10C then (if ks.any isPeerKey then some .peerRemote else none)
  else if n = 0x10D then (if ks.any isPeerKey then some .linkDown else none)
  else if n = 0x10E then (if ks.any isHostKey then some .hostAbort else none)
  else if n = 0x10F then (if ks.any fun k => !isPeerKey k && !isHostKey k then some .eccUncorrected else none)
  else none

/-- An uncorrectable error under a Kiln step poisons the object or line (R265). `bad` are the ring places whose records cannot be read. -/
def State.poisonStep (s : State) (o : Op) (bad : List Nat) : State :=
  match o.kind with
  | .kiln (st :: _) _ _ _ _ _ => match st.act with
    | .ann _ _ _ _ | .help => s.poisonObject st.key st.va bad
    | .atom _ _ _ | .cas _ _ _ => { s with poison := s.poison ++ [st.key / 64 * 64] }
    | _ => { s with poison := s.poison ++ [st.key] }
  | _ => s

/-- An uncorrectable error that an engine command meets at an address is counted where it lies (R364); the free list or the barrier that it
lies in is poisoned (R265). -/
def State.poisonCmd (s : State) (cl : Nat) (c : Cmd) (addr : Nat) (bad : List Nat) : State :=
  match s.translate cl c.slot addr { types := [0, 4] } with
  | .error _ => s.countEcc (keyShared cl 0)
  | .ok k =>
    let s := s.countEcc k
    match s.translate cl c.slot addr { types := [4] } with
    | .error _ => s
    | .ok k => match c.kind with
      | .kvappend _ _ _ _ | .kvshare _ _ _ _ _ => s.poisonObject k addr bad
      | _ => { s with poison := s.poison ++ [k] }

/-- A group has exited while an access of it was in flight: the record carries STOP, the context freezes, and its launch
does not complete (R361). -/
def State.afterExit (s : State) (g : Group) (o : Op) (f : FaultInfo) : State :=
  let s := s.post g.slot { code := f.code.num, kind := 1, stop := true, addr := f.addr, pc := o.pc, who := g.gid.who, info := f.recInfo, lage := g.lage, tidx := g.tidx }
  (s.freeze g.slot f.code.num 0 g.gid.who f.addr o.pc).mapL g.lage fun l => { l with dead := true }

/-- A store (R75). -/
def Op.isStore (o : Op) : Bool := match o.kind with
  | .store _ _ | .fill _ _ _ _ => true
  | _ => false

/-- Issue has stopped for a save of a group's team (R356, R315). -/
def State.stopping (s : State) (g : Group) : Bool := (s.team g.tag).any fun (t : Team) => t.leaving || (t.saving && !t.dmode)

/-- A long-latency fault reaches its group (R75, R250, R339): a plain load stays, to appear FAULTED in the replay queue;
another instruction ends without a result; a team that is being saved holds the fault (R360). FPC names the instruction, CPC the path's
next one. That of a store is reported as a fatal record, and enters no handler (log 107). -/
def State.lateFault (s : State) (gi : Nat) (o : Op) (f : FaultInfo) : State :=
  let f := { f with late := true, direct := o.isStore }
  let s := s.mapG gi fun g => if o.isPlain then g.setOp { o with late := some f } else g.complete o
  match s.groups[gi]? with
  | none => s
  | some g => match g.path o.pid <|> g.paths.head? with
    | none => (s.mapG gi fun g => g.complete o).afterExit g o f
    | some p =>
      if s.stopping g then s.mapG gi fun g => { g with pend := g.pend <|> some (f, o.pc, p.id) }
      else if g.st = .run then s.raise gi f o.pc p.pc p.id else s.takeTrap gi

/-- The address of an operation's lane, or of its first one. -/
def Op.addrOf (o : Op) (lane : Nat) : Nat :=
  match o.addrs.find? (·.1 == lane) with
  | some p => p.2
  | none => match o.kind with
    | .kiln (st :: _) _ _ _ _ _ => st.va
    | _ => (o.addrs.map (·.2)).headD 0

/-- A cancelled load's entry becomes FAULTED (R339 step 3, R344). -/
def State.faultEntry (s : State) (gi k : Nat) (g : Group) (code : Nat) : Option State :=
  match g.rq.findIdx? fun r => r.op.id == k && r.st == 1 with
  | none => none
  | some i =>
    let s := s.setG gi { g with rq := g.rq.modify i fun (r : RqEntry) => { r with st := 2, code := code } }
    let a := (s.ctx g.slot).csaGroup g.gid + 0x100 + 64 * i
    some ((s.writeNum (a + 0x0C) 4 2).writeNum (a + 0x18) 4 code)

/-- LONG_LATENCY_FAULT (R75, R250, R96): a refusal already met is delivered; otherwise the fault named is met: by a lane of an operation,
or by an engine command at an address. `bad`: the records that cannot be read of an object found in error (R265). -/
def longLatencyBody (gi k code lane addr : Nat) (bad : List Nat) (s : State) : Option State :=
  match s.groups[gi]? with
  | none => none
  | some g =>
    let live := g.st == .run || match g.st with
      | .trapping _ _ _ _ => true
      | _ => false
    match g.ops.find? (·.id == k) with
    | some o =>
      if !live then none
      else match o.late with
        | some f => if o.isPlain ∧ (g.st ≠ .run ∨ s.stopping g) then none else some (s.lateFault gi o f)
        | none => match lateCode code o with
          | none => none
          | some c =>
            let f : FaultInfo := { code := c, addr := o.addrOf lane, lane := lane, info := match o.kind with
              | .kiln (st :: _) _ _ _ _ _ => s.objSeq st
              | _ => none }
            let s := if c = .eccUncorrected then (s.poisonStep o bad).countEcc (o.keys.headD 0) else s
            some (s.lateFault gi o f)
    | none => match (s.cl g.gid.cluster).findCmd k with
      | some (e, c) =>
        let named := [(0x10C, FCode.peerRemote), (0x10D, .linkDown), (0x10E, .hostAbort), (0x10F, .eccUncorrected)]
        match named.find? (·.1 == code) with
        | none => none
        | some p =>
          if (s.ctx c.slot).state ≠ .active then none
          else
            let s := if p.2 = .eccUncorrected then s.poisonCmd g.gid.cluster c addr bad else s
            some (if e = .link then s.linkFault g.gid.cluster c p.2 addr else s.settleCmd g.gid.cluster e c (.fault p.2 addr))
      | none => if [0x10C, 0x10D, 0x10E, 0x10F].contains code then s.faultEntry gi k g code else none

/-- MEM_TIMEOUT (R247): a step, message or launch whose reply is missing 2 ms after issue. -/
def memTimeoutBody (gi k : Nat) (s : State) : Option State :=
  match s.findOp gi k with
  | some (g, o) =>
    let waits : Bool := match o.kind with
      | .kiln _ _ _ _ _ _ | .msend _ _ _ _ | .launch _ _ => true
      | _ => false
    let live : Bool := g.st == .run || match g.st with
      | .trapping _ _ _ _ => true
      | _ => false
    if waits && live && decide (o.time + 7200000 ≤ s.clock.toNat) then
      let s := { s with errs := s.errs.modify 5 (· + 1) }
      some (s.lateFault gi o { code := .memTimeout, addr := o.addrOf 255 })
    else none
  | none => none

/-- KILN_STEP. -/
def execKilnStep (g k : Nat) (s : State) (more : List (Nat × Nat) := []) : Host.Outcome State Fault Refusal := eventOf s (stepBody false g k more s)
/-- SPINDLE_ARRIVAL. -/
def execSpindleArrival (g k : Nat) (s : State) (more : List (Nat × Nat) := []) : Host.Outcome State Fault Refusal := eventOf s (stepBody true g k more s)
/-- KILN_REPLY. -/
def execKilnReply (g k : Nat) (s : State) : Host.Outcome State Fault Refusal := eventOf s (kilnReplyBody g k s)
/-- SPINDLE_PHASE_COMPLETION. -/
def execSpindlePhaseCompletion (k : Nat) (s : State) : Host.Outcome State Fault Refusal := eventOf s (spindlePhaseBody k s)
/-- FLIT_DELIVERY. -/
def execFlitDelivery (g k : Nat) (s : State) : Host.Outcome State Fault Refusal := eventOf s (flitDeliveryBody g k s)
/-- MSEND_ANSWER. -/
def execMsendAnswer (g k : Nat) (s : State) : Host.Outcome State Fault Refusal := eventOf s (msendAnswerBody g k s)
/-- PARK_WAKE_BY_WRITE: the watched line was written, or a masked port holds a flit. -/
def execParkWakeByWrite (g p : Nat) (s : State) : Host.Outcome State Fault Refusal :=
  eventOf s (parkEnd g p (fun _ _ woken => woken) s)
/-- PARK_BOUND_EXPIRY. -/
def execParkBoundExpiry (g p : Nat) (s : State) : Host.Outcome State Fault Refusal :=
  eventOf s (parkEnd g p (fun s bound _ => decide (bound ≤ s.clock.toNat)) s)
/-- SPURIOUS_WAKE_UP. -/
def execSpuriousWakeUp (g p : Nat) (s : State) : Host.Outcome State Fault Refusal :=
  eventOf s (parkEnd g p (fun _ _ _ => true) s)
/-- LONG_LATENCY_FAULT. -/
def execLongLatencyFault (g k code lane : Nat) (s : State) (addr : Nat := 0) (bad : List Nat := []) : Host.Outcome State Fault Refusal :=
  eventOf s (longLatencyBody g k code lane addr bad s)
/-- MEM_TIMEOUT. -/
def execMemTimeout (g k : Nat) (s : State) : Host.Outcome State Fault Refusal := eventOf s (memTimeoutBody g k s)


/-- ATOM (R251). -/
def execAtom (h : Head) (op : AtomOp) (o : OrdScope) (w : Width) (sp : Space) (d : Operand) (a : Operand) (b : Operand) (s : State) : Host.Outcome State Fault Refusal :=
  issue (.atom h op o w sp d a b) (atomBody op o w sp d a b) s

/-- RED (R251). -/
def execRed (h : Head) (op : AtomOp) (o : OrdScope) (w : Width) (sp : Space) (a : Operand) (b : Operand) (s : State) : Host.Outcome State Fault Refusal :=
  issue (.red h op o w sp a b) (redBody op o w sp a b) s

/-- CAS (R251). -/
def execCas (h : Head) (o : OrdScope) (w : Width) (sp : Space) (d : Operand) (a : Operand) (b : Operand) (c : Operand) (px : PReg) (s : State) : Host.Outcome State Fault Refusal :=
  issue (.cas h o w sp d a b c px) (casBody o w sp d a b c px) s

/-- CAS2 (R251). -/
def execCas2 (h : Head) (o : OrdScope) (sp : Space) (d : Operand) (a : Operand) (b : Operand) (c : Operand) (px : PReg) (s : State) : Host.Outcome State Fault Refusal :=
  issue (.cas2 h o sp d a b c px) (casBody o .b128 sp d a b c px) s

/-- OBINIT (R257). -/
def execObinit (h : Head) (kind : ObjKind) (o : OrdScope) (kcode : BitVec 2) (xp : Bool) (pmask : BitVec 8) (a : Operand) (b : Operand) (s : State) : Host.Outcome State Fault Refusal :=
  issue (.obinit h kind o kcode xp pmask a b) (obinitBody kind o kcode xp pmask a b) s

/-- ANN (R260). -/
def execAnn (h : Head) (op : ObjOp) (d : Operand) (a : Operand) (b : Operand) (c : Operand) (s : State) : Host.Outcome State Fault Refusal :=
  issue (.ann h op d a b c) (annBody op d a b c) s

/-- HELP (R261). -/
def execHelp (h : Head) (d : Operand) (a : Operand) (px : PReg) (s : State) : Host.Outcome State Fault Refusal :=
  issue (.help h d a px) (helpBody d a px) s

/-- BARINIT (R268, R269). -/
def execBarinit (h : Head) (spn : Bool) (o : OrdScope) (a : Operand) (b : Operand) (px : PReg) (s : State) : Host.Outcome State Fault Refusal :=
  issue (.barinit h spn o a b px) (barBody o a none (some px) (fun e => .barinit spn o.scope (e.u32 b))) s

/-- BARV (R268, R269). -/
def execBarv (h : Head) (o : OrdScope) (d : Operand) (a : Operand) (b : Operand) (s : State) : Host.Outcome State Fault Refusal :=
  issue (.barv h o d a b) (barBody o a (some d) none (fun e => .barv (e.u32 b))) s

/-- BARDROP (R268, R269). -/
def execBardrop (h : Head) (o : OrdScope) (d : Operand) (a : Operand) (s : State) : Host.Outcome State Fault Refusal :=
  issue (.bardrop h o d a) (barBody o a (some d) none (fun _ => .bardrop)) s

/-- BTX (R268, R269). -/
def execBtx (h : Head) (a : Operand) (b : Operand) (s : State) : Host.Outcome State Fault Refusal :=
  issue (.btx h a b) (barBody ⟨.rlx, .grp⟩ a none none (fun e => .btx (e.u32 b))) s

/-- BTEST (R272). -/
def execBtest (h : Head) (o : OrdScope) (a : Operand) (b : Operand) (px : PReg) (s : State) : Host.Outcome State Fault Refusal :=
  issue (.btest h o a b px) (btestBody o a b px) s

/-- SRED (R274). -/
def execSred (h : Head) (op : SredOp) (n : BitVec 4) (o : OrdScope) (d : Operand) (a : Operand) (b : Operand) (c : Operand) (s : State) : Host.Outcome State Fault Refusal :=
  issue (.sred h op n o d a b c) (sredBody op n o d a b c) s

/-- MSEND (R276). -/
def execMsend (h : Head) (o : OrdScope) (a : Operand) (b : Operand) (px : PReg) (s : State) : Host.Outcome State Fault Refusal :=
  issue (.msend h o a b px) (msendBody o a b px) s

/-- MRECV (R277). -/
def execMrecv (h : Head) (o : OrdScope) (port : BitVec 3) (d : Operand) (px : PReg) (s : State) : Host.Outcome State Fault Refusal :=
  issue (.mrecv h o port d px) (mrecvBody o port d px) s

/-- MSTAT (R277). -/
def execMstat (h : Head) (clr : Bool) (port : BitVec 3) (d : Operand) (s : State) : Host.Outcome State Fault Refusal :=
  issue (.mstat h clr port d) (mstatBody clr port d) s

/-- PARK (R278). -/
def execPark (h : Head) (msg : Bool) (sp : Space) (mask : BitVec 8) (a : Operand) (s : State) : Host.Outcome State Fault Refusal :=
  issue (.park h msg sp mask a) (parkBody msg sp mask a) s

/-- FENCE (R225, R226). -/
def execFence (h : Head) (fo : FenceOrd) (scope : Scope) (s : State) : Host.Outcome State Fault Refusal :=
  issue (.fence h fo scope) (fenceBody fo scope) s

/-- DRAIN (R228). -/
def execDrain (h : Head) (scope : Scope) (d : Operand) (a : Operand) (s : State) : Host.Outcome State Fault Refusal :=
  issue (.drain h scope d a) (drainBody scope d a) s

/-- DRAIN.NB (R228). -/
def execDrainNb (h : Head) (s : State) : Host.Outcome State Fault Refusal :=
  issue (.drainNb h) (drainNbBody) s

end Sys2Proof.Machine
end

