-- ==== Sys2Proof/Machine/Matrix.lean ====
section
/-! DEFINITION. Format blocks (R121, R122, R167), arithmetic-event counters (R128, R129), GMMA, CVTDXB, TMASK and SMAXR
(R166-R175, R197-R202). -/

namespace Sys2Proof.Machine

/-! ## Format blocks -/

/-- A format block is DXB. -/
def FmtBlock.dxb (f : FmtBlock) : Bool := decide (f.fmt < 3)
/-- BLEN as a count. -/
def FmtBlock.bl (f : FmtBlock) : Nat := if f.b16 then 16 else 32

/-- A format block breaks R122. -/
def fmtBad (v sbud : Nat) : Bool :=
  let fmt := v % 8
  let ssp := ebits v 4 3
  ebits v 63 62 != 0 || ebits v 7 6 != 0 || fmt == 7 || ssp == 3 ||
    (decide (3 ≤ fmt) && (ebits v 61 56 != 0 || ebits v 55 8 != 0 || ebit v 5 || ssp != 0)) ||
    decide (sbud ≤ ebits v 61 56) || (ssp != 0 && ebits v 55 32 != 0)

/-- The format block that a code names, read with its E at issue (R121, R122, R167): BAD_FORMAT, or a stall on an E that
is still to be written (R49). -/
def Env.fmtBlock (e : Env) (f : BitVec 6) : Except Stop FmtBlock :=
  let v := (if f = 0x3F then e.g.regs.fmtb else e.g.spair f.toNat).toNat
  let er := ebits v 61 56
  if fmtBad v e.g.sbud then .error (.fault { code := .badFormat })
  else if e.g.awaited.contains (.s er) then .error .stall
  else if e.g.buffered.contains (.s er) then .error .quantum
  else .ok { fmt := v % 8, e := ((e.g.sreg er).setWidth 8).toInt, saddr := ebits v 55 8 * 2 ^ 8, ssp := ebits v 4 3, b16 := ebit v 5 }

/-- The formats of A and B form a pair of R170. -/
def pairFmt (a b : FmtBlock) : Bool := (a.dxb && b.dxb) || (!a.dxb && a.fmt == b.fmt)

/-- The value of an element code under a format block and its scale byte (R110, R120). -/
def FmtBlock.elem (f : FmtBlock) (scale x : Nat) : Fx :=
  if f.dxb then dxbDecode (dxbK f.fmt) f.e scale x else (fmtOf (fmtTy f.fmt)).decode x

/-- A tagged address from a space code of R121 and an address. -/
def tagAddr (ssp a : Nat) : Nat := ssp * 2 ^ 62 + a

/-- The keys of a group's scale byte at issue, under R70, R71 and R73. -/
def State.scaleAt (s : State) (g : Group) (f : FmtBlock) (j : Nat) : Except (FCode × Nat) (List Nat) :=
  s.taggedKeys g (tagAddr f.ssp (f.saddr + j)) 1 1 needR

/-! ## Arithmetic events (R128, R129) -/

/-- The class of a result: 0 NaN, 1 infinite, 2 non-zero subnormal, none otherwise. -/
def resultClass (f : Fmt) (x : Nat) : Option Nat :=
  match f.decode x with
  | .nan => some 0
  | .inf _ => some 1
  | .fin _ m _ => if m ≠ 0 ∧ x / 2 ^ f.frac % 2 ^ f.ebits = 0 then some 2 else none

/-- One counter of a context's block rises by one (R129). -/
def Context.bump (c : Context) (fmt k : Nat) : Context :=
  let i := 4 * fmt + k
  let old := c.aevb.cnt.getD i 0
  let new := if old = 0xFFFFFFFF then old else old + 1
  let hit := decide (c.aevb.thresh ≠ 0 ∧ old.toNat < c.aevb.thresh.toNat ∧ c.aevb.thresh.toNat ≤ new.toNat)
  let h := if hit then c.aevb.hit ||| (1#7 <<< fmt) else c.aevb.hit
  { c with aevb := { c.aevb with cnt := c.aevb.cnt.set i new, hit := h }, arith := if c.aevb.hit = 0 ∧ h ≠ 0 then c.arith + 1 else c.arith }

/-- A counted result: its format, its bits, and whether every input element was finite (R128). -/
structure Counted where
  f : Fmt
  bits : Nat
  finite : Bool
  deriving DecidableEq, Repr

/-- A context's counters after a result. -/
def Context.count (c : Context) (fmt : Nat) (r : Counted) : Context :=
  match resultClass r.f r.bits with
  | some 0 => c.bump fmt 0
  | some 1 => let c := c.bump fmt 1
              if r.finite then c.bump fmt 2 else c
  | some _ => c.bump fmt 3
  | none => c

/-- A context's counters after several results (R128, R129). -/
def State.countAll (s : State) (slot fmt : Nat) (rs : List Counted) : State :=
  s.setCtx slot (rs.foldl (fun c r => c.count fmt r) (s.ctx slot))

/-- A value is finite. -/
def Fx.isFin : Fx → Bool
  | .fin _ _ _ => true
  | _ => false

/-- A dot product of 32 leaf positions added to an accumulator (R124-R126): the result, and whether the sum was present and
every input finite. -/
def dotStep (acc : Nat) (xs ys : List (Option Fx)) : Nat × Bool × Bool :=
  let leaves := (xs.zip ys).map fun (p : Option Fx × Option Fx) => match p.1, p.2 with
    | some x, some y => some (x, y)
    | _, _ => none
  let ls := leaves.map fun l => match l with
    | some (x, y) => let q := mulFx x y
                     (some q.1, q.2)
    | none => (none, cNone)
  let fin := Fx.isFin (F32.decode acc) && leaves.all fun l => match l with
    | some (x, y) => Fx.isFin x && Fx.isFin y
    | none => true
  let S := (treeSum ls).1
  (accumulate acc S, S.isSome, fin)

/-! ## GMMA (R170-R172) -/

/-- The bytes of four consecutive V registers (R171). -/
def Group.vbytes (g : Group) (n words : Nat) : List Byte :=
  (List.range words).flatMap fun q => lanes.flatMap fun l => bytesOfWord 4 (g.vlane (n + q) l).toNat

/-- Element `i` of the row of `rb` bytes at row `m` of a byte array (R109, R119). -/
def rowElem (bs : List Byte) (rb eb m i : Nat) : Nat := wordOfBytes ((bs.drop (m * rb)).take rb) / 2 ^ (eb * i) % 2 ^ eb

/-- The number of a V operand. -/
def vnumOf : Operand → Nat
  | .v n => n.toNat
  | _ => 0

/-- The elements of a row of a GMMA operand; K = 16 leaves the upper half absent (R172). -/
def gmmaRow (f : FmtBlock) (sc : Nat → Nat) (x : Nat → Nat) : List (Option Fx) :=
  (List.range 32).map fun i => if !f.dxb && decide (16 ≤ i) then none else some (f.elem (sc (i / f.bl)) (x i))

/-- The keys of the scale bytes of `rows` rows of an operand, `32 / BLEN` each (R171). -/
def State.gmmaScales (s : State) (g : Group) (f : FmtBlock) (rows : Nat) : Except (FCode × Nat) (List Nat) :=
  if !f.dxb then .ok []
  else match (List.range (rows * (32 / f.bl))).mapM fun j => s.scaleAt g f j with
    | .ok ks => .ok ks.flatten
    | .error e => .error e

/-- The row count of a ROWS code (R170, R200). -/
def rowsOf (r : BitVec 5) : Nat := if r = 0 then 16 else r.toNat

/-- GMMA (R170-R172). Its scale-byte reads are relaxed loads of the path, which wait as R224 has it. -/
def gmmaBody (bt : Bool) (fa fb : BitVec 6) (rows : BitVec 5) (d a b c : Operand) : Env → State → Except Stop State := whenGuard fun e s =>
  match e.fmtBlock fa, e.fmtBlock fb with
  | .error x, _ => .error x
  | _, .error x => .error x
  | .ok A, .ok B =>
    if !pairFmt A B ∨ (bt ∧ A.dxb) then .error (.fault { code := .badFormat })
    else
      let R := rowsOf rows
      match s.gmmaScales e.g A R, s.gmmaScales e.g B 16 with
      | .error x, _ => liftF (.error x)
      | _, .error x => liftF (.error x)
      | .ok ka, .ok kb =>
        if ka ++ kb ≠ [] ∧ e.g.mustWait e.g.ops e.p.id e.p.born .ld (ka ++ kb) then .error .stall
        else
        let sa := ka.map fun k => (s.seen e.g s.nextId k).toNat
        let sb := kb.map fun k => (s.seen e.g s.nextId k).toNat
        let K := if A.dxb then 32 else 16
        let ab := e.g.vbytes (vnumOf a) 4
        let bb := e.g.vbytes (vnumOf b) 4
        let ea := elemBits A.fmt
        let eb := elemBits B.fmt
        let arow (m : Nat) : List (Option Fx) :=
          gmmaRow A (fun h => sa.getD (m * (32 / A.bl) + h) 0) fun i => rowElem ab (K * ea / 8) ea m i
        let bcol (n : Nat) : List (Option Fx) :=
          gmmaRow B (fun h => sb.getD (n * (32 / B.bl) + h) 0) fun i =>
            if bt then rowElem bb (16 * eb / 8) eb i n else rowElem bb (K * eb / 8) eb n i
        let acc (m n : Nat) : Nat := match c with
          | .v k => (e.g.vlane (k.toNat + n / 2) (16 * (n % 2) + m)).toNat
          | _ => 0
        let out (m n : Nat) : Nat × Bool × Bool := dotStep (acc m n) (arow m) (bcol n)
        let cells := (List.range R).flatMap fun m => (List.range 16).map fun n => (m, n, out m n)
        let s := s.countAll e.g.slot A.fmt (cells.map fun p => ⟨F32, p.2.2.1, p.2.2.2.2⟩)
        .ok (s.mapG e.gi fun g => (List.range 8).foldl (fun (g : Group) j =>
          g.setV (vnumOf d + j) fun l =>
            (cells.find? fun p => p.1 == l % 16 && p.2.1 == 2 * j + l / 16).map fun p => BitVec.ofNat 32 p.2.2.1) (g.countFlops (2 * R * 16 * K)))

/-! ## CVTDXB (R174, R175) -/

/-- CVTDXB (R174, R175). -/
def cvtdxbBody (sto : Bool) (ss fb : BitVec 6) (d a : Operand) : Env → State → Except Stop State := whenGuard fun e s =>
  match e.fmtBlock fb with
  | .error x => .error x
  | .ok f =>
    if !f.dxb then .error (.fault { code := .badFormat })
    else if f.b16 ∧ (ss.toNat % 2 ≠ 0 ∨ e.g.sbud ≤ ss.toNat + 1) then .error (.fault { code := .illegalOperand })
    else if f.b16 ∧ e.g.awaited.contains (.s (ss.toNat + 1)) then .error .stall
    else if f.b16 ∧ e.g.buffered.contains (.s (ss.toNat + 1)) then .error .quantum
    else
      let k := dxbK f.fmt
      let x (i : Nat) : Nat := (e.g.vlane (vnumOf a + i / 32) (i % 32)).toNat
      let deltas := (List.range (128 / f.bl)).map fun b => dxbDeltas k f.e ((List.range f.bl).map fun i => x (b * f.bl + i))
      let code (i : Nat) : Nat × Cnd :=
        let p := deltas.getD (i / f.bl) (0, 0)
        let m (w : BitVec 32) : RMode := if sto then .sto (draw e.g.regs.seed (i % 32) (i / 32) w) else .dir .rne
        dxbEncode k f.e p.1 p.2 m (x i)
      let codes := (List.range 128).map code
      let num := codes.zipIdx.foldl (fun acc p => acc + p.1.1 * 2 ^ (p.2 * (k + 2))) 0
      let scales := deltas.zipIdx.foldl (fun acc p => acc + (p.1.1 * 16 + p.1.2) * 2 ^ (8 * p.2)) 0
      .ok (s.mapG e.gi fun g =>
        let g := g.setV (vnumOf d) fun l => some (BitVec.ofNat 32 (num / 2 ^ (32 * l)))
        let g := if f.b16 then g.setSPair ss.toNat (BitVec.ofNat 64 scales) else g.setS ss.toNat (BitVec.ofNat 32 scales)
        g.sticky fun l => (List.range 4).foldl (fun c q => c ||| (codes.getD (32 * q + l) (0, 0)).2) 0)

/-! ## TMASK (R198, R199) -/

/-- anc(j, i) of R199, following parents for at most `n` steps. -/
def ancestor (parent : Nat → Nat) (j : Nat) : Nat → Nat → Bool
  | 0, i => i == j
  | n + 1, i => i == j || (parent i != 0xFFFFFFFF && ancestor parent j n (parent i))

/-- TMASK (R198, R199). -/
def tmaskBody (d a b c : Operand) : Env → State → Except Stop State := whenGuard fun e s =>
  let sc := e.u32 c
  let N := ebits sc 6 0
  let H := ebits sc 9 7 + 1
  let n0 := ebits sc 15 10
  let parent (i : Nat) : Nat := (e.g.vlane (vnumOf a + i / 32) (i % 32)).toNat
  if N = 0 ∨ 64 < N ∨ N ≤ n0 ∨ sc / 2 ^ 16 ≠ 0 then .error (.fault { code := .matrixShape })
  else if (List.range N).any fun i => parent i != 0xFFFFFFFF && decide (i ≤ parent i) then .error (.fault { code := .treeInvalid })
  else
    let C := (e.word b 0 e.ulane).toNat
    let kb := (e.word b 1 e.ulane).toNat
    let NR := H * min (16 / H) (N - n0)
    let mask (l : Nat) : Nat :=
      if NR ≤ l then 0
      else
        let i := n0 + l / H
        (List.range 16).foldl (fun m n =>
          let p := kb + n
          if p < C ∨ (p < C + N ∧ ancestor parent (p - C) 64 i) then m + 2 ^ n else m) 0
    .ok (s.mapG e.gi fun g => g.setV (vnumOf d) fun l => some (BitVec.ofNat 32 (mask l)))

/-! ## SMAXR (R200-R202) -/

/-- What one row of SMAXR gives: the P elements, the maximum, the sum, the factor, the conditions. -/
structure SmaxRow where
  p : List Nat
  mx : Nat
  sum : Nat
  fac : Nat
  cnd : Cnd
  deriving DecidableEq, Repr

/-- One row of SMAXR (R201): the scale, the state, the logits, presence, sizes. -/
def smaxRow (f16 sz : Bool) (c mo lo : Nat) (x : Nat → Nat) (present : Nat → Bool) (size : Nat → Nat) : SmaxRow :=
  let ninf := 0xFF800000
  let ns := List.range 16
  let ts := ns.map fun n =>
    if present n then
      let q := fpMul F32 .rne false (x n) c
      if sz then
        let l := fpLog2 (size n)
        let r := fpAdd F32 .rne false q.1 l.1
        (some r.1, q.2 ||| l.2 ||| r.2)
      else (some q.1, q.2)
    else (none, cNone)
  let bmax := match ts.filterMap (·.1) with
    | [] => ninf
    | t :: r => r.foldl (fun m t => fpMinMax F32 true false m t) t
  let mn := fpMinMax F32 true false mo bmax
  let fac := if mn = ninf then (0x3F800000, cNone)
    else
      let dm := fpSub F32 .rne false mo mn
      let r := fpExp2 dm.1
      (r.1, dm.2 ||| r.2)
  let ps := ts.map fun t => match t.1 with
    | some t =>
      let dm := fpSub F32 .rne false t mn
      let r := fpExp2 dm.1
      (some r.1, dm.2 ||| r.2)
    | none => (none, cNone)
  let tree := treeSum ((ps.map fun p => (p.1.map F32.decode, cNone)) ++ List.replicate 16 (none, cNone))
  let sum := match tree.1 with
    | some v => (roundFx F32 (.dir .rne) false v).1
    | none => 0
  let al := fpMul F32 .rne false fac.1 lo
  let ln := fpAdd F32 .rne false al.1 sum
  let outs := ps.map fun p => match p.1 with
    | some v => cvtFF (if f16 then .f16 else .bf16) .f32 (.dir .rne) false v
    | none => (0, cNone)
  let cs := (ts.map (·.2)) ++ (ps.map (·.2)) ++ (outs.map (·.2)) ++ [fac.2, tree.2, al.2, ln.2]
  { p := outs.map (·.1), mx := mn, sum := ln.1, fac := fac.1, cnd := cs.foldl (· ||| ·) 0 }

/-- SMAXR (R200, R201). -/
def smaxrBody (f16 : Bool) (cs : BitVec 6) (sz msk : Bool) (rows : BitVec 5) (d a b c : Operand) : Env → State → Except Stop State :=
  whenGuard fun e s =>
    let R := rowsOf rows
    let w (r l : Nat) : Nat := (e.g.vlane r l).toNat
    let row (m : Nat) : SmaxRow :=
      smaxRow f16 sz (e.g.sreg cs.toNat).toNat (w (vnumOf b) m) (w (vnumOf b + 1) m) (fun n => w (vnumOf a + n / 2) (16 * (n % 2) + m))
        (fun n => !msk || ebit (w (vnumOf c) m) n) (fun n => w (vnumOf c + 1) n)
    let rs := (List.range R).map row
    let at_ (m : Nat) : Option SmaxRow := rs[m]?
    let st (f : SmaxRow → Nat) (l : Nat) : Option Word := (at_ (l % 16)).map fun r => BitVec.ofNat 32 (f r)
    .ok (s.mapG e.gi fun g =>
      let g := (List.range 4).foldl (fun (g : Group) q => g.setV (vnumOf d + q) fun l =>
        (at_ (4 * q + l / 8)).map fun r => BitVec.ofNat 32 (r.p.getD (2 * (l % 8)) 0 + r.p.getD (2 * (l % 8) + 1) 0 * 2 ^ 16)) g
      let g := ((g.setV (vnumOf d + 4) (st (·.mx))).setV (vnumOf d + 5) (st (·.sum))).setV (vnumOf d + 6) (st (·.fac))
      g.sticky fun l => match at_ (l % 16) with
        | some r => r.cnd
        | none => 0)


/-- GMMA (R170-R172). -/
def execGmma (h : Head) (bt : Bool) (fa : BitVec 6) (fb : BitVec 6) (rows : BitVec 5) (d : Operand) (a : Operand) (b : Operand) (c : Operand) (s : State) : Host.Outcome State Fault Refusal :=
  issue (.gmma h bt fa fb rows d a b c) (gmmaBody bt fa fb rows d a b c) s

/-- CVTDXB (R174, R175). -/
def execCvtdxb (h : Head) (sto : Bool) (ss : BitVec 6) (fb : BitVec 6) (d : Operand) (a : Operand) (s : State) : Host.Outcome State Fault Refusal :=
  issue (.cvtdxb h sto ss fb d a) (cvtdxbBody sto ss fb d a) s

/-- SMAXR (R200, R201). -/
def execSmaxr (h : Head) (f16 : Bool) (cs : BitVec 6) (sz : Bool) (msk : Bool) (rows : BitVec 5) (d : Operand) (a : Operand) (b : Operand) (c : Operand) (s : State) : Host.Outcome State Fault Refusal :=
  issue (.smaxr h f16 cs sz msk rows d a b c) (smaxrBody f16 cs sz msk rows d a b c) s

/-- TMASK (R198, R199). -/
def execTmask (h : Head) (d : Operand) (a : Operand) (b : Operand) (c : Operand) (s : State) : Host.Outcome State Fault Refusal :=
  issue (.tmask h d a b c) (tmaskBody d a b c) s

end Sys2Proof.Machine
end

