-- ==== Sys2Proof/Machine/Lathe.lean ====
section
/-! DEFINITION. The Lathe (R176-R196): LZERO, LLOAD, LSTORE, LREAD, LMMA, LMMV, LCMD, and LATHE_K_BLOCK,
STREAM_ACCEPTANCE, STREAM_STEP. -/

namespace Sys2Proof.Machine

/-! ## Tiles (R169) -/

/-- The first element of a tile, as `State.tiles` numbers them. -/
def tileBase (cl z : Nat) : Nat := (cl * 32 + z) * 16384

/-- `n` elements from `k` on, with zeros where none is listed. -/
def denseFrom : Nat → Nat → List (Nat × Word) → List Word
  | 0, _, _ => []
  | n + 1, k, [] => 0 :: denseFrom n (k + 1) []
  | n + 1, k, (i, w) :: r => if i = k then w :: denseFrom n (k + 1) r else 0 :: denseFrom n (k + 1) ((i, w) :: r)

/-- The elements of a tile from `l` on. -/
def State.tileElems (s : State) (cl z l n : Nat) : List Word :=
  let b := tileBase cl z + l
  denseFrom n b (s.tiles.filter fun p => decide (b ≤ p.1) && decide (p.1 < b + n))

/-- The elements of a tile from `l` on replaced. -/
def State.setTile (s : State) (cl z l : Nat) (ws : List Word) : State :=
  let b := tileBase cl z + l
  let new := (ws.zipIdx.map fun p => (b + p.2, p.1)).filter fun p => p.2 != 0
  { s with tiles := s.tiles.filter (fun p => decide (p.1 < b)) ++ new ++ s.tiles.filter (fun p => decide (b + ws.length ≤ p.1)) }

/-- The tile that a team's tile number names (R169, R291). -/
def State.teamTile (s : State) (tag zt : Nat) : Nat := match s.team tag with
  | some t => t.ztiles.getD zt 0
  | none => zt

/-! ## Addresses (R168) -/

/-- The space that a tag names (R82). -/
def tagSpace (a : Nat) : Space := match a / 2 ^ 62 with
  | 1 => .shared
  | 2 => .scratch
  | _ => .glob

/-- The checks at issue of a tagged address: its tag, its other bits, its alignment (R82, R168). -/
def tagForm (a al : Nat) (tags : List Nat) : Except (FCode × Nat) Unit :=
  let t := a / 2 ^ 62
  if t = 3 then .error (.addrRange, a)
  else if !tags.contains t then .error (.spaceMismatch, a)
  else if t = 0 ∧ a / 2 ^ 56 % 64 ≠ 0 then .error (.addrRange, a)
  else if t ≠ 0 ∧ a / 2 ^ 32 % 2 ^ 30 ≠ 0 then .error (.sharedBound, a)
  else if a % al ≠ 0 then .error (.misaligned, a)
  else .ok ()

/-- The bounds of a range known at issue (R168); a register-space page in it is found at once (R33). -/
def State.tagBound (s : State) (g : Group) (a n : Nat) : Except (FCode × Nat) Unit :=
  let un (x : Except FCode Nat) : Except (FCode × Nat) Unit := match x with
    | .ok _ => .ok ()
    | .error c => .error (c, a)
  match a / 2 ^ 62 with
  | 0 =>
    if 2 ^ 56 < a + n then .error (.addrRange, a)
    else match s.regspaceAt g.gid.cluster g.slot a n with
      | some x => .error (.regspaceAccess, x)
      | none => .ok ()
  | 1 => un (s.sharedKey g (a % 2 ^ 32) n)
  | _ => un (s.scratchKey g.slot (a % 2 ^ 32) n)

/-- The checks at issue of a range at a tagged address (R168). -/
def State.tagCheck (s : State) (g : Group) (a n al : Nat) (tags : List Nat) : Except (FCode × Nat) Unit :=
  match tagForm a al tags with
  | .error e => .error e
  | .ok _ => s.tagBound g a n

/-- The first of several checks that fails. -/
def allOk (xs : List (Except (FCode × Nat) Unit)) : Except (FCode × Nat) Unit :=
  xs.foldl (fun acc x => match acc with
    | .ok _ => x
    | .error e => .error e) (.ok ())

/-- The check of an operand's `n` scale bytes (R121, R168). -/
def State.scaleCheck (s : State) (g : Group) (f : FmtBlock) (n : Nat) : Except (FCode × Nat) Unit :=
  if f.dxb ∧ 0 < n then s.tagCheck g (tagAddr f.ssp f.saddr) n 1 [0, 1, 2] else .ok ()

/-- The keys of `n` bytes of a tagged range that a command accesses: shared, scratchpad or normal pages. -/
def State.tagKeys (s : State) (c : Cmd) (a n : Nat) (wr : Bool) : Except (FCode × Nat) (List Nat) :=
  match tagSpace a with
  | .glob => if 2 ^ 56 < a + n then .error (.addrRange, a) else s.rangeKeys c.gid.cluster c.slot a n (if wr then needW else needR)
  | sp => s.engKeys c sp (a % 2 ^ 62) n wr

/-- A little-endian number read by a command at a tagged address. -/
def State.tagRead (s : State) (c : Cmd) (a n : Nat) : Except (FCode × Nat) Nat :=
  match s.tagKeys c a n false with
  | .ok ks => .ok (wordOfBytes (s.mem.getAll ks))
  | .error e => .error e

/-- A little-endian number written by a command at a tagged address. -/
def State.tagWrite (s : State) (c : Cmd) (a n v : Nat) : Except (FCode × Nat) State :=
  match s.tagKeys c a n true with
  | .ok ks => .ok (s.write (ks.zip (bytesOfWord n v)))
  | .error e => .error e

/-! ## Rows of 32 elements (R184, R185, R189) -/

/-- 32 consecutive elements at an address, with the scale bytes from another on. -/
def State.denseChunk (s : State) (c : Cmd) (f : FmtBlock) (a sc : Nat) : Except (FCode × Nat) (List (Option Fx)) :=
  let eb := elemBits f.fmt
  match s.tagRead c a (4 * eb), (if f.dxb then s.tagRead c sc (32 / f.bl) else .ok 0) with
  | .ok v, .ok ss => .ok ((List.range 32).map fun i => some (f.elem (ss / 2 ^ (8 * (i / f.bl)) % 256) (v / 2 ^ (eb * i) % 2 ^ eb)))
  | .error e, _ => .error e
  | _, .error e => .error e

/-- 32 logical positions of a 2:4-compressed row (R185): 16 stored elements, 4 bytes of metadata, one scale byte. -/
def State.sparseChunk (s : State) (c : Cmd) (f : FmtBlock) (a mdat sc : Nat) : Except (FCode × Nat) (List (Option Fx)) :=
  let eb := elemBits f.fmt
  match s.tagRead c a (2 * eb), s.tagRead c mdat 4, (if f.dxb then s.tagRead c sc 1 else .ok 0) with
  | .ok v, .ok m, .ok ss =>
    let p0 (g : Nat) : Nat := m / 2 ^ (4 * g) % 4
    let p1 (g : Nat) : Nat := m / 2 ^ (4 * g + 2) % 4
    if (List.range 8).any fun g => decide (p1 g ≤ p0 g) then .error (.sparseMeta, mdat)
    else .ok ((List.range 32).map fun i =>
      let el (j : Nat) : Fx := f.elem ss (v / 2 ^ (eb * j) % 2 ^ eb)
      let g := i / 4
      if p0 g = i % 4 then some (el (2 * g)) else if p1 g = i % 4 then some (el (2 * g + 1)) else none)
  | .error e, _, _ => .error e
  | _, .error e, _ => .error e
  | _, _, .error e => .error e

/-- Where the rows of an operand of K columns lie (R184, R185, R191): elements, metadata, scale bytes. -/
structure Rows where
  addr : Nat
  mdat : Nat
  scale : Nat
  k : Nat
  sparse : Bool
  deriving DecidableEq, Repr

/-- An operand in memory, with its scale array at the format block's address (R184). -/
def rowsAt (f : FmtBlock) (a k : Nat) (sparse : Bool) : Rows :=
  { addr := a, mdat := a + 128 * (k * elemBits f.fmt / 8) / 2, scale := tagAddr f.ssp f.saddr, k := k, sparse := sparse }

/-- The chunk of row `m` in K-block `kb`. -/
def State.chunk (s : State) (c : Cmd) (f : FmtBlock) (r : Rows) (kb m : Nat) : Except (FCode × Nat) (List (Option Fx)) :=
  let eb := elemBits f.fmt
  let ra := r.k * eb / 8
  let sc := r.scale + m * (r.k / f.bl) + kb * (32 / f.bl)
  if r.sparse then s.sparseChunk c f (r.addr + m * (ra / 2) + 2 * eb * kb) (r.mdat + m * (r.k / 8) + 4 * kb) sc
  else s.denseChunk c f (r.addr + m * ra + 4 * eb * kb) sc

/-- The chunks of 128 rows. -/
def State.chunks (s : State) (c : Cmd) (f : FmtBlock) (r : Rows) (kb : Nat) : Except (FCode × Nat) (List (List (Option Fx))) :=
  (List.range 128).mapM fun m => s.chunk c f r kb m

/-- One K-block of a matrix product on a tile (R186): a block sum that is absent writes nothing and counts nothing. -/
def State.matBlock (s : State) (c : Cmd) (zt : Nat) (fa fb : FmtBlock) (ra rb : Rows) (kb : Nat) : Except (FCode × Nat) State :=
  match s.chunks c fa ra kb, s.chunks c fb rb kb with
  | .ok A, .ok B =>
    let z := s.teamTile c.tag zt
    let old := s.tileElems c.gid.cluster z 0 16384
    let rs := old.zipIdx.map fun p => dotStep p.1.toNat (A.getD (p.2 / 128) []) (B.getD (p.2 % 128) [])
    let s := s.countAll c.slot fa.fmt ((rs.filter fun r => r.2.1).map fun r => ⟨F32, r.1, r.2.2⟩)
    .ok ((s.setTile c.gid.cluster z 0 (rs.map fun r => BitVec.ofNat 32 r.1)).addFlops c.slot c.lage (2 * 16384 * 32))
  | .error e, _ => .error e
  | _, .error e => .error e

/-- One step of LMMV: row group `g`, K-block `kb` (R189). -/
def State.vecBlock (s : State) (c : Cmd) (zt zx w k n nb : Nat) (fw : FmtBlock) (g kb : Nat) : Except (FCode × Nat) State :=
  let r := rowsAt fw w k false
  match ((List.range (min n (128 * g + 128) - 128 * g)).mapM fun i => s.chunk c fw r kb (128 * g + i)) with
  | .error e => .error e
  | .ok W =>
    let cl := c.gid.cluster
    let z := s.teamTile c.tag zt
    let xs := (List.range nb).map fun b => (s.tileElems cl (s.teamTile c.tag zx) (b * k + 32 * kb) 32).map fun x => some (F32.decode x.toNat)
    let one (t : State) (b : Nat) : State :=
      let l := b * n + 128 * g
      let rs := (t.tileElems cl z l W.length).zipIdx.map fun p => dotStep p.1.toNat (W.getD p.2 []) (xs.getD b [])
      let t := t.countAll c.slot fw.fmt ((rs.filter fun r => r.2.1).map fun r => ⟨F32, r.1, r.2.2⟩)
      t.setTile cl z l (rs.map fun r => BitVec.ofNat 32 r.1)
    .ok (((List.range nb).foldl one s).addFlops c.slot c.lage (2 * W.length * nb * 32))

/-! ## LLOAD and LSTORE rows (R180, R181) -/

/-- The bytes of a row of 128 elements (R180). -/
def rowBytes (f32 : Bool) (f : FmtBlock) : Nat := if f32 then 512 else 16 * elemBits f.fmt

/-- The address of the scale bytes of row `m`. -/
def FmtBlock.rowScale (f : FmtBlock) (m : Nat) : Nat := tagAddr f.ssp (f.saddr + m * (128 / f.bl))

/-- LLOAD of row `m` (R181). -/
def State.loadRow (s : State) (c : Cmd) (zt a : Nat) (f32 : Bool) (f : FmtBlock) (m : Nat) : Except (FCode × Nat) State :=
  match s.tagRead c a (rowBytes f32 f), (if !f32 && f.dxb then s.tagRead c (f.rowScale m) (128 / f.bl) else .ok 0) with
  | .ok v, .ok ss =>
    let eb := if f32 then 32 else elemBits f.fmt
    let el (n : Nat) : Word :=
      let x := v / 2 ^ (eb * n) % 2 ^ eb
      BitVec.ofNat 32 (if f32 then x else (roundFx F32 (.dir .rne) false (f.elem (ss / 2 ^ (8 * (n / f.bl)) % 256) x)).1)
    .ok (s.setTile c.gid.cluster (s.teamTile c.tag zt) (128 * m) ((List.range 128).map el))
  | .error e, _ => .error e
  | _, .error e => .error e

/-- LSTORE of row `m` (R181): a narrow conversion is counted (R128). -/
def State.storeRow (s : State) (c : Cmd) (zt a : Nat) (f32 sat : Bool) (f : FmtBlock) (m : Nat) : Except (FCode × Nat) State :=
  let xs := (s.tileElems c.gid.cluster (s.teamTile c.tag zt) (128 * m) 128).map BitVec.toNat
  let pack (eb : Nat) (vs : List Nat) : Nat := vs.zipIdx.foldl (fun acc p => acc + p.1 * 2 ^ (eb * p.2)) 0
  if f32 then s.tagWrite c a 512 (pack 32 xs)
  else if f.dxb then
    let k := dxbK f.fmt
    let ds := (List.range (128 / f.bl)).map fun b => dxbDeltas k f.e ((xs.drop (b * f.bl)).take f.bl)
    let codes := xs.zipIdx.map fun p =>
      let d := ds.getD (p.2 / f.bl) (0, 0)
      (dxbEncode k f.e d.1 d.2 (fun _ => .dir .rne) p.1).1
    match s.tagWrite c a (rowBytes false f) (pack (k + 2) codes) with
    | .error e => .error e
    | .ok t => t.tagWrite c (f.rowScale m) (128 / f.bl) (pack 8 (ds.map fun d => d.1 * 16 + d.2))
  else
    let fm := fmtOf (fmtTy f.fmt)
    let vs := xs.map fun x => (cvtFF (fmtTy f.fmt) .f32 (.dir .rne) sat x).1
    match s.tagWrite c a (rowBytes false f) (pack (elemBits f.fmt) vs) with
    | .error e => .error e
    | .ok t => .ok (t.countAll c.slot f.fmt ((xs.zip vs).map fun p => ⟨fm, p.2, Fx.isFin (F32.decode p.1)⟩))

/-- Rows from the command's position on. -/
def State.rowsFrom (f : State → Nat → Except (FCode × Nat) State) : Nat → State → Cmd → State × Cmd × EngEnd
  | 0, s, c => (s, c, .fin)
  | n + 1, s, c => match f s c.pos with
    | .ok t => State.rowsFrom f n t { c with pos := c.pos + 1 }
    | .error e => (s, c, .fault e.1 e.2)

/-! ## Streams (R190-R194) -/

/-- A command is a stream. -/
def Cmd.isStream (c : Cmd) : Bool := match c.kind with
  | .stream _ _ _ _ _ => true
  | _ => false
/-- A stream that the Lathe has accepted. -/
def Cmd.accepted (c : Cmd) : Bool := match c.kind with
  | .stream _ _ _ _ none => false
  | _ => true

/-- The tiles that a command names (R177). -/
def CmdKind.tiles : CmdKind → List Nat
  | .lzero z | .lload z _ _ _ _ | .lstore z _ _ _ _ _ | .lread z _ _ | .lmma z _ _ _ _ _ _ | .stream z _ _ _ _ => [z]
  | .lmmv z x _ _ _ _ _ => [z, x]
  | _ => []

/-- The bytes of scale of a slot. -/
def slotScales (f : FmtBlock) (ks : Nat) : Nat := if f.dxb then 128 * (ks / f.bl) else 0
/-- The bytes of an A slot, or of a B slot with `sp` false (R191). -/
def slotBytes (f : FmtBlock) (ks : Nat) (sp : Bool) : Nat :=
  let ra := ks * elemBits f.fmt / 8
  (if sp then 128 * ra / 2 + 128 * (ks / 8) else 128 * ra) + slotScales f ks

/-- The rows of a slot at a team offset: elements, metadata, scale bytes (R191). -/
def slotRows (f : FmtBlock) (off ks : Nat) (sp : Bool) : Rows :=
  let r := rowsAt f (tagAddr 1 off) ks sp
  { r with scale := tagAddr 1 (off + slotBytes f ks sp - slotScales f ks) }

/-- A reserved bit of a descriptor is set (R191). -/
def streamReserved (v : Nat) : Bool := ebits v 223 208 / 4 != 0 || v / 2 ^ 256 != 0

/-- The fields of a descriptor's 64 bytes (R191). -/
def streamOf (v : Nat) : StreamDesc :=
  let fl := ebits v 223 208
  { aring := ebits v 31 0, bring := ebits v 63 32, astride := ebits v 95 64, bstride := ebits v 127 96,
    aslots := ebits v 143 128, bslots := ebits v 159 144, nstep := ebits v 191 160, ks := ebits v 207 192,
    sp := ebit fl 0, zfirst := ebit fl 1, cword := ebits v 255 224 }

/-- The Lathe's checks of a descriptor at acceptance (R191). -/
def StreamDesc.ok (d : StreamDesc) (fa fb : FmtBlock) (sh : Nat) : Bool :=
  let within (ring stride slots bytes : Nat) : Bool :=
    ring % 64 == 0 && stride % 64 == 0 && decide (1 ≤ slots) && decide (slots ≤ 256) && decide (bytes ≤ stride) &&
      decide (ring + (slots - 1) * stride + bytes ≤ sh)
  decide (1 ≤ d.nstep) && decide (d.nstep ≤ 2 ^ 24) && d.ks % 32 == 0 && decide (32 ≤ d.ks) && decide (d.ks ≤ 1024) &&
    within d.aring d.astride d.aslots (slotBytes fa d.ks d.sp) && within d.bring d.bstride d.bslots (slotBytes fb d.ks false) &&
    d.cword % 4 == 0 && decide (d.cword + 4 ≤ sh)

/-- The Lathe accepts a stream (R191, R194): it reads the descriptor, and the stream's flag falls; a fault fails it. -/
def State.acceptStream (s : State) (cl : Nat) (c : Cmd) : State :=
  match c.kind with
  | .stream zt desc fa fb _ =>
    let s := s.mapOwner c.gid c.tag c.slot fun g => g.finishCmd c.id none
    match s.teamKeys c.tag desc 64 with
    | .error f => s.settleCmd cl .lathe c (.fault f desc)
    | .ok ks =>
      let v := wordOfBytes (s.mem.getAll ks)
      let d := streamOf v
      let c := { c with kind := .stream zt desc fa fb (some d) }
      let sh := match s.team c.tag with
        | some t => t.shBytes
        | none => 0
      if streamReserved v || !d.ok fa fb sh then s.settleCmd cl .lathe c (.fault .matrixShape desc)
      else if d.sp && fa.b16 then s.settleCmd cl .lathe c (.fault .badFormat desc)
      else s.putCmd cl .lathe c
  | _ => s

/-- The granule of a slot at a team offset is in `State.fe` as this number (R77, R192). -/
def State.slotGranule (s : State) (tag off : Nat) : Nat := match s.team tag with
  | some t => granuleOf (keyShared t.cluster (t.shBase + off))
  | none => 0

/-- The offsets of a stream's current A and B slots (R192). -/
def StreamDesc.slotsAt (d : StreamDesc) (step : Nat) : Nat × Nat :=
  (d.aring + step % d.aslots * d.astride, d.bring + step % d.bslots * d.bstride)

/-- The slots of a stream's current step are full (R192). -/
def State.slotsFull (s : State) (c : Cmd) (d : StreamDesc) : Bool :=
  let p := d.slotsAt c.pos
  s.fe.contains (s.slotGranule c.tag p.1) && s.fe.contains (s.slotGranule c.tag p.2)

/-- STREAM_ACCEPTANCE (R191, R194): streams are accepted in the order they reached the Lathe. -/
def streamAcceptanceBody (cl k : Nat) (s : State) : Option State :=
  match (s.cl cl).lathe.find? (fun c => c.isStream && !c.accepted) with
  | some c => if c.id = k ∧ s.cmdReady c then some (s.acceptStream cl c) else none
  | none => none

/-- STREAM_STEP (R192, R193): a step whose K-blocks are done empties its slots and writes the completion word. -/
def streamStepBody (cl k : Nat) (s : State) : Option State :=
  match (s.cl cl).lathe.find? (·.id == k) with
  | none => none
  | some c => match c.kind with
    | .stream _ _ _ _ (some d) =>
      if !s.cmdReady c ∨ c.sub ≠ d.ks / 32 then none
      else
        let p := d.slotsAt c.pos
        let gs := [s.slotGranule c.tag p.1, s.slotGranule c.tag p.2]
        let s := { s with fe := s.fe.filter fun x => !gs.contains x }
        let n := c.pos + 1
        let c := { c with pos := n, sub := 0 }
        let done := d.nstep ≤ n
        let s := s.writeCword c (n % 2 ^ 24 + (if done then 2 ^ 31 else 0))
        some (if done then s.endCmd cl .lathe c none else s.putCmd cl .lathe c)
    | _ => none

/-! ## The Lathe's work (R177, R186) -/

/-- A general command holds one of the sixteen general entries of its cluster: it is among the oldest sixteen (R176). Only a round of
D-mode groups can leave more waiting, in commit order. -/
def State.entered (s : State) (cl : Nat) (c : Cmd) : Bool :=
  c.isStream || ((s.cl cl).lathe.filter fun x => !x.isStream).findIdx (·.id == c.id) < 16

/-- A command can do its next K-block (R177): its entry, tile order and, for a stream, its slots. -/
def State.latheReady (s : State) (cl : Nat) (c : Cmd) : Bool :=
  s.cmdReady c && c.accepted && s.entered cl c &&
    !((s.cl cl).lathe.takeWhile fun x => x.id != c.id).any (fun x => x.tag == c.tag && x.kind.tiles.any c.kind.tiles.contains) &&
    match c.kind with
    | .stream _ _ _ _ (some d) => decide (c.sub < d.ks / 32) && s.slotsFull c d
    | _ => true

/-- What a K-block leads to: the command goes on at a later position, or ends. -/
def State.latheStep (s : State) (cl : Nat) (c : Cmd) (r : Except (FCode × Nat) State) (next : Cmd) (last : Bool) : State :=
  match r with
  | .error e => s.settleCmd cl .lathe c (.fault e.1 e.2)
  | .ok t => if last then t.settleCmd cl .lathe next .fin else t.putCmd cl .lathe next

/-- A row of a tile is written to its group's registers, whose lines are resident by then, and the command ends (R182, R31). -/
def State.readRow (s : State) (cl : Nat) (c : Cmd) (zt d row : Nat) : State :=
  let xs := s.tileElems cl (s.teamTile c.tag zt) (128 * row) 128
  match s.groups.findIdx? fun g => g.gid == c.gid && g.tag == c.tag with
  | none => s.endCmd cl .lathe c none
  | some gi => match s.linesIn gi ((List.range 4).map (d + ·)) with
    | .error a => (s.endCmd cl .lathe c none).regFault gi a
    | .ok t => (t.mapG gi fun g =>
        (List.range 4).foldl (fun g q => g.setV (d + q) fun l => some (xs.getD (32 * q + l) 0)) g).endCmd cl .lathe c none

/-- ZFIRST: a stream's tile is zeroed before its step 0 (R191). -/
def State.zeroFirst (s : State) (cl : Nat) (c : Cmd) (zt : Nat) (d : StreamDesc) : State :=
  if d.zfirst && c.pos == 0 && c.sub == 0 then s.setTile cl (s.teamTile c.tag zt) 0 (List.replicate 16384 0) else s

/-- The next K-block of a command, or all of a command that has none (R177, R179-R192). -/
def State.latheWork (s : State) (cl : Nat) (c : Cmd) : State :=
  match c.kind with
  | .lzero zt => (s.setTile cl (s.teamTile c.tag zt) 0 (List.replicate 16384 0)).endCmd cl .lathe c none
  | .lread zt d row => s.readRow cl c zt d row
  | .lload zt a st f32 f =>
    let r := State.rowsFrom (fun s m => s.loadRow c zt (a + m * st) f32 f m) (128 - c.pos) s c
    r.1.settleCmd cl .lathe r.2.1 r.2.2
  | .lstore zt a st f32 sat f =>
    let r := State.rowsFrom (fun s m => s.storeRow c zt (a + m * st) f32 sat f m) (128 - c.pos) s c
    r.1.settleCmd cl .lathe r.2.1 r.2.2
  | .lmma zt a b k sp fa fb =>
    let t := s.matBlock c zt fa fb (rowsAt fa a k sp) (rowsAt fb b k false) c.pos
    s.latheStep cl c t { c with pos := c.pos + 1 } (decide (k / 32 ≤ c.pos + 1))
  | .lmmv zt zx w k n nb fw =>
    let nk := k / 32
    let t := s.vecBlock c zt zx w k n nb fw (c.pos / nk) (c.pos % nk)
    s.latheStep cl c t { c with pos := c.pos + 1 } (decide (nk * ((n + 127) / 128) ≤ c.pos + 1))
  | .stream zt _ fa fb (some d) =>
    let p := d.slotsAt c.pos
    let s := s.zeroFirst cl c zt d
    let t := s.matBlock c zt fa fb (slotRows fa p.1 d.ks d.sp) (slotRows fb p.2 d.ks false) c.sub
    s.latheStep cl c t { c with sub := c.sub + 1 } false
  | _ => s

/-- A group's operation that waited for a command to be accepted completes: its flag falls; the registers that the command will write
stay awaited (R48, R49, R196). -/
def Group.admitOp (g : Group) (ids : List Nat) (o : Op) : Group := match o.kind with
  | .accept _ c =>
    if !ids.contains c.id then g
    else if o.dsts.isEmpty then g.dropOp o
    else (g.lowerFlag o.flag).setOp { o with kind := .engine c.id, flag := none }
  | _ => g

/-- The commands that have taken an entry are accepted: their flags fall (R48, R176). -/
def State.admitLathe (s : State) (cl : Nat) : State :=
  let ids := ((s.cl cl).lathe.filter fun c => s.entered cl c).map (·.id)
  { s with groups := s.groups.map fun (g : Group) => if g.gid.cluster == cl then g.ops.foldl (fun h o => h.admitOp ids o) g else g }

/-- LATHE_K_BLOCK (R177): the next K-block of the oldest accepted command that is ready. -/
def latheKBlockBody (cl : Nat) (s : State) : Option State :=
  ((s.cl cl).lathe.find? fun c => s.latheReady cl c).map fun c => (s.latheWork cl c).admitLathe cl

/-! ## Issue -/

/-- An accepted stream of the team holds one of the tiles (R194). -/
def State.tileBusy (s : State) (g : Group) (ts : List Nat) : Bool :=
  (s.cl g.gid.cluster).lathe.any fun c => c.isStream && c.accepted && c.tag == g.tag && c.kind.tiles.any ts.contains

/-- The general commands that a D-mode group holds in its commit buffer. -/
def Group.bufferedGeneral (g : Group) : Nat :=
  (g.cbuf.filter fun o => match o.kind with
    | .accept .lathe c => !c.isStream
    | _ => false).length

/-- A general command takes an entry: after TILE_BUSY, and once one of the sixteen is free (R176, R194). A D-mode group's commands take
entries at its round (R196); a group that has sixteen of them in its buffer ends its quantum first (log 57). -/
def State.general (s : State) (e : Env) (c : Cmd) (batch : Bool) (dsts : List RegRef) (next : State → Except Stop State) : Except Stop State :=
  if s.tileBusy e.g c.kind.tiles then .error (.fault { code := .tileBusy })
  else if e.g.dmode then (if 16 ≤ e.g.bufferedGeneral then .error .quantum else s.command e .lathe c batch dsts)
  else if 16 ≤ ((s.cl e.g.gid.cluster).lathe.filter fun x => !x.isStream).length then .error .stall
  else next s

/-- A general command that the Lathe has work for. -/
def State.enter (s : State) (e : Env) (c : Cmd) (batch : Bool) (dsts : List RegRef) : Except Stop State :=
  s.general e c batch dsts fun s => s.command e .lathe c batch dsts

/-- The acquire and release of a command that takes none. -/
def noAr : AcqRel := ⟨false, false, .grp⟩

/-- LZERO (R179). -/
def lzeroBody (zt : BitVec 5) : Env → State → Except Stop State := whenGuard fun e s =>
  s.enter e (e.cmd noAr (.lzero zt.toNat)) false []

/-- LREAD (R182). -/
def lreadBody (zt : BitVec 5) (d a : Operand) : Env → State → Except Stop State := whenGuard fun e s =>
  let r := e.u32 a
  if 127 < r then .error (.fault { code := .matrixShape })
  else s.enter e (e.cmd noAr (.lread zt.toNat (vnumOf d) r)) true (destRefs d 4)

/-- The format block of LLOAD and LSTORE, which `.F32` does not read (R180). -/
def Env.tileFmt (e : Env) (f32 : Bool) (fb : BitVec 6) : Except Stop FmtBlock :=
  if f32 then .ok ⟨0, 0, 0, 0, false⟩ else e.fmtBlock fb

/-- The checks of LLOAD and LSTORE: the shape, then the range (R168, R180). -/
def State.tileMove (s : State) (e : Env) (a st : Nat) (f32 : Bool) (f : FmtBlock) : Except Stop Nat :=
  let rb := rowBytes f32 f
  let stride := if st = 0 then rb else st
  if (st ≠ 0 ∧ (st % 16 ≠ 0 ∨ st < rb)) ∨ ((a / 2 ^ 62 = 1 ∨ a / 2 ^ 62 = 2) ∧ a / 2 ^ 28 % 16 ≠ 0) then
    .error (.fault { code := .matrixShape, addr := a })
  else match allOk [s.tagCheck e.g a (127 * stride + rb) 16 [0, 1, 2], if f32 then .ok () else s.scaleCheck e.g f (128 * (128 / f.bl))] with
    | .error x => liftF (.error x)
    | .ok _ => .ok stride

/-- LLOAD (R180, R181). -/
def lloadBody (f32 : Bool) (ar : AcqRel) (zt : BitVec 5) (fb : BitVec 6) (a b : Operand) : Env → State → Except Stop State :=
  whenGuard fun e s =>
    match e.tileFmt f32 fb with
    | .error x => .error x
    | .ok f => match s.tileMove e (e.u64 a) (e.u32 b) f32 f with
      | .error x => .error x
      | .ok st => s.enter e (e.cmd ar (.lload zt.toNat (e.u64 a) st f32 f)) true []

/-- LSTORE (R180, R181); `.SAT` beside a DXB format is a code that this chapter does not accept (R38, log 40). -/
def lstoreBody (f32 sat : Bool) (ar : AcqRel) (zt : BitVec 5) (fb : BitVec 6) (a b : Operand) : Env → State → Except Stop State :=
  whenGuard fun e s =>
    match e.tileFmt f32 fb with
    | .error x => .error x
    | .ok f =>
      if sat && !f32 && f.dxb then .error (.fault { code := .illegalEncoding })
      else match s.tileMove e (e.u64 a) (e.u32 b) f32 f with
        | .error x => .error x
        | .ok st => s.enter e (e.cmd ar (.lstore zt.toNat (e.u64 a) st f32 sat f)) true []

/-- LMMA (R183-R186); K = 0 completes at acceptance as a finished member of the batch. -/
def lmmaBody (ar : AcqRel) (zt : BitVec 5) (fa fb : BitVec 6) (sp : Bool) (a b c : Operand) : Env → State → Except Stop State :=
  whenGuard fun e s =>
    match e.fmtBlock fa, e.fmtBlock fb with
    | .error x, _ => .error x
    | _, .error x => .error x
    | .ok A, .ok B =>
      let k := e.u32 c
      let ra := k * elemBits A.fmt / 8
      if !pairFmt A B ∨ (sp ∧ A.b16) then .error (.fault { code := .badFormat })
      else if k % 32 ≠ 0 ∨ 65536 < k then .error (.fault { code := .matrixShape })
      else
        let an := if sp then 128 * ra / 2 + 128 * (k / 8) else 128 * ra
        match allOk [s.tagCheck e.g (e.u64 a) an 16 [1, 2], s.tagCheck e.g (e.u64 b) (128 * (k * elemBits B.fmt / 8)) 16 [1, 2],
            s.scaleCheck e.g A (128 * (k / A.bl)), s.scaleCheck e.g B (128 * (k / B.bl))] with
        | .error x => liftF (.error x)
        | .ok _ =>
          s.general e (e.cmd ar (.lmma zt.toNat (e.u64 a) (e.u64 b) k sp A B)) true [] fun s =>
            if k = 0 then .ok (s.mapG e.gi fun g => { g with openN := g.openN + 1 })
            else s.command e .lathe (e.cmd ar (.lmma zt.toNat (e.u64 a) (e.u64 b) k sp A B)) true []

/-- LMMV (R188, R189). -/
def lmmvBody (ar : AcqRel) (zt : BitVec 5) (fw : BitVec 6) (zx : BitVec 5) (nb : BitVec 3) (a b c : Operand) : Env → State → Except Stop State :=
  whenGuard fun e s =>
    match e.fmtBlock fw with
    | .error x => .error x
    | .ok W =>
      let k := e.u32 b
      let n := e.u32 c
      let m := nb.toNat + 1
      if k % 32 ≠ 0 ∨ k = 0 ∨ n = 0 ∨ 16384 < k * m ∨ 16384 < n * m then .error (.fault { code := .matrixShape })
      else match allOk [s.tagCheck e.g (e.u64 a) (n * (k * elemBits W.fmt / 8)) 16 [0, 2], s.scaleCheck e.g W (n * (k / W.bl))] with
        | .error x => liftF (.error x)
        | .ok _ => s.enter e (e.cmd ar (.lmmv zt.toNat zx.toNat (e.u64 a) k n m W)) true []

/-- The sixteen stream entries of a cluster are taken (R176). -/
def State.streamsFull (s : State) (cl : Nat) : Bool := decide (16 ≤ ((s.cl cl).lathe.filter Cmd.isStream).length)

/-- LCMD (R190, R176). Its flag falls when the Lathe has accepted it (R48); in D-mode its predicate is written at its
round (R238). -/
def lcmdBody (zt : BitVec 5) (fa fb : BitVec 6) (px : PReg) (a : Operand) : Env → State → Except Stop State := whenGuard fun e s =>
  match e.fmtBlock fa, e.fmtBlock fb with
  | .error x, _ => .error x
  | _, .error x => .error x
  | .ok A, .ok B =>
    let desc := e.u32 a
    let c := e.cmd noAr (.stream zt.toNat desc A B none)
    if !pairFmt A B then .error (.fault { code := .badFormat })
    else if desc % 64 ≠ 0 then faultAt .misaligned desc
    else match s.sharedKey e.g desc 64 with
      | .error f => faultAt f desc
      | .ok _ =>
        if s.tileBusy e.g [zt.toNat] then .error (.fault { code := .tileBusy })
        else if e.g.dmode then s.command e .lathe c false (predRefs [px.toNat])
        else if s.streamsFull e.g.gid.cluster then .ok (s.mapG e.gi fun g => g.setPAll px.toNat e.p.held false)
        else
          let s := ({ s with nextId := s.nextId + 1 } : State).mapQueue e.g.gid.cluster .lathe (· ++ [c])
          .ok (s.mapG e.gi fun g => (g.setPAll px.toNat e.p.held true).addOp (e.op (.engine c.id) .eng .grp [] false))

/-- LATHE_K_BLOCK. -/
def execLatheKBlock (cl : Nat) (s : State) : Host.Outcome State Fault Refusal := eventOf s (latheKBlockBody cl s)
/-- STREAM_ACCEPTANCE. -/
def execStreamAcceptance (cl k : Nat) (s : State) : Host.Outcome State Fault Refusal := eventOf s (streamAcceptanceBody cl k s)
/-- STREAM_STEP. -/
def execStreamStep (cl k : Nat) (s : State) : Host.Outcome State Fault Refusal := eventOf s (streamStepBody cl k s)


/-- LMMA (R183-R186). -/
def execLmma (h : Head) (ar : AcqRel) (zt : BitVec 5) (fa : BitVec 6) (fb : BitVec 6) (sparse : Bool) (a : Operand) (b : Operand) (c : Operand) (s : State) : Host.Outcome State Fault Refusal :=
  issue (.lmma h ar zt fa fb sparse a b c) (lmmaBody ar zt fa fb sparse a b c) s

/-- LMMV (R188, R189). -/
def execLmmv (h : Head) (ar : AcqRel) (zt : BitVec 5) (fw : BitVec 6) (zx : BitVec 5) (nb : BitVec 3) (a : Operand) (b : Operand) (c : Operand) (s : State) : Host.Outcome State Fault Refusal :=
  issue (.lmmv h ar zt fw zx nb a b c) (lmmvBody ar zt fw zx nb a b c) s

/-- LZERO (R179). -/
def execLzero (h : Head) (zt : BitVec 5) (s : State) : Host.Outcome State Fault Refusal :=
  issue (.lzero h zt) (lzeroBody zt) s

/-- LLOAD (R180, R181). -/
def execLload (h : Head) (f32 : Bool) (ar : AcqRel) (zt : BitVec 5) (fb : BitVec 6) (a : Operand) (b : Operand) (s : State) : Host.Outcome State Fault Refusal :=
  issue (.lload h f32 ar zt fb a b) (lloadBody f32 ar zt fb a b) s

/-- LSTORE (R180, R181). -/
def execLstore (h : Head) (f32 : Bool) (sat : Bool) (ar : AcqRel) (zt : BitVec 5) (fb : BitVec 6) (a : Operand) (b : Operand) (s : State) : Host.Outcome State Fault Refusal :=
  issue (.lstore h f32 sat ar zt fb a b) (lstoreBody f32 sat ar zt fb a b) s

/-- LREAD (R182). -/
def execLread (h : Head) (zt : BitVec 5) (d : Operand) (a : Operand) (s : State) : Host.Outcome State Fault Refusal :=
  issue (.lread h zt d a) (lreadBody zt d a) s

/-- LCMD (R190). -/
def execLcmd (h : Head) (zt : BitVec 5) (fa : BitVec 6) (fb : BitVec 6) (px : PReg) (a : Operand) (s : State) : Host.Outcome State Fault Refusal :=
  issue (.lcmd h zt fa fb px a) (lcmdBody zt fa fb px a) s

end Sys2Proof.Machine
end

