-- ==== Sys2Proof/Machine/Trowel.lean ====
section
/-! DEFINITION. The Trowel (R203-R209): TMATCH, TMERGE, TUNMERGE, and TROWEL_COMMAND. -/

namespace Sys2Proof.Machine

/-- The bytes of an element of a row or key (R206, R208). -/
def rowFmtBytes : RowFmt → Nat
  | .f32 => 4
  | _ => 2
/-- The type of an element of a row or key (R206, R208). -/
def rowFmtTy : RowFmt → Ty
  | .f32 => .f32 | .bf16 => .bf16 | .f16 => .f16

/-- A fault of a Trowel range is TOKEN_RANGE (R208), but for an absent page, which suspends (R96), a malformed table (R325) and a
register-space page (R33); log 42. -/
def tokenRange (x : Except (FCode × Nat) α) : Except (FCode × Nat) α := match x with
  | .error (.pageAbsent, a) => .error (.pageAbsent, a)
  | .error (.ptMalformed, a) => .error (.ptMalformed, a)
  | .error (.regspaceAccess, a) => .error (.regspaceAccess, a)
  | .error (_, a) => .error (.tokenRange, a)
  | .ok v => .ok v

/-! ## The unmerge map (R204, R205) -/

/-- A map read from memory. -/
structure TMap where
  src : Nat
  kept : Nat
  ctrl : Nat
  gen : Nat
  spare : Nat
  deriving DecidableEq, Repr

/-- The bytes of a map (R204). -/
def TMap.bytes (m : TMap) : Nat := 32 + 4 * m.src + 8 * m.kept

/-- The header of a map (R204). -/
def State.mapHead (s : State) (c : Cmd) (a : Nat) : Except (FCode × Nat) TMap :=
  match s.tagRead c a 32 with
  | .error e => .error e
  | .ok v => .ok { src := ebits v 31 0, kept := ebits v 63 32, ctrl := ebits v 95 64, gen := ebits v 127 96, spare := v / 2 ^ 128 }

/-- The words of an array that a command reads. -/
def State.tagWords (s : State) (c : Cmd) (a n : Nat) : Except (FCode × Nat) (List Nat) :=
  match s.tagRead c a (4 * n) with
  | .error e => .error e
  | .ok v => .ok ((List.range n).map fun i => v / 2 ^ (32 * i) % 2 ^ 32)

/-- The checks of a header, in the order of R205. -/
def State.mapCheck (s : State) (c : Cmd) (a : Nat) (m : TMap) : Except (FCode × Nat) Unit :=
  if m.gen ≠ (s.ctx c.slot).mapGen.toNat ∨ ebit m.ctrl 8 then .error (.mapStale, a)
  else if m.spare ≠ 0 ∨ ebits m.ctrl 7 4 ≠ 0 ∨ ebits m.ctrl 31 9 ≠ 0 ∨ ebits m.ctrl 3 0 = 0 ∨ 8 < ebits m.ctrl 3 0 ∨ m.src < m.kept then
    .error (.tokenRange, a)
  else .ok ()

/-- Two tagged ranges share a byte. -/
def overlaps (a n b m : Nat) : Bool := decide (a < b + m) && decide (b < a + n) && decide (0 < n) && decide (0 < m)

/-! ## TMATCH (R207) -/

/-- The dot product of two keys, 32 elements to a block (R207, R124-R126). -/
def keyScore (x y : List Fx) : Nat → Nat → Nat
  | 0, acc => acc
  | n + 1, acc =>
    let ls := ((x.drop (x.length - 32 * (n + 1))).take 32).zip ((y.drop (y.length - 32 * (n + 1))).take 32)
    keyScore x y n (accumulate acc (treeSum (ls.map fun p => let q := mulFx p.1 p.2
                                                             (some q.1, q.2))).1)

/-- A score is strictly greater: a NaN ranks below every number (R207). -/
def scoreLt (a b : Nat) : Bool :=
  let x := F32.decode a
  let y := F32.decode b
  if x.isNan then !y.isNan else ltFx x y

/-- The member with the greatest score, the first on a tie, of members in rising order. -/
def bestOf (l : List (Nat × Nat)) : Nat × Nat := match l with
  | [] => (0, 0)
  | p :: r => r.foldl (fun b q => if scoreLt b.2 q.2 then q else b) p

/-- The `n` members with the greatest scores, ties to the lower: the first best one is taken each time. -/
def topN : Nat → List (Nat × Nat) → List Nat
  | 0, _ => []
  | _, [] => []
  | n + 1, l => let b := bestOf l
                b.1 :: topN n (l.filter fun q => q.1 != b.1)

/-- The FP32 bits of a count. -/
def f32OfNat (n : Nat) : Nat := (roundFx F32 (.dir .rne) false (.fin false n 0)).1

/-- The arrays of a map from the keys (R207): DST, KIDX, KSIZE. -/
def matchKeys (keys : List (List Fx)) (r : Nat) : List Nat × List Nat × List Nat :=
  let T := keys.length
  let A := (List.range T).filter fun i => i % 2 == 0
  let B := (List.range T).filter fun i => i % 2 == 1
  let score (a b : Nat) : Nat := keyScore (keys.getD a []) (keys.getD b []) ((keys.getD a []).length / 32) 0
  let best := A.map fun a => (a, bestOf (B.map fun b => (b, score a b)))
  let E := topN r (best.map fun p => (p.1, p.2.2))
  let kept := (List.range T).filter fun i => !E.contains i
  let at_ (i : Nat) : Nat := kept.findIdx (· == i)
  let dst := (List.range T).map fun i =>
    if E.contains i then match best.find? (·.1 == i) with
      | some p => at_ p.2.1
      | none => 0
    else at_ i
  let size := (List.range kept.length).map fun j => f32OfNat (dst.filter (· == j)).length
  (dst, kept, size)

/-- Several writes one after another. -/
def State.tagWrites (c : Cmd) : List (Nat × Nat × Nat) → State → State × Cmd × EngEnd
  | [], s => (s, c, .fin)
  | (a, n, v) :: r, s => match s.tagWrite c a n v with
    | .ok t => State.tagWrites c r t
    | .error e => (s, c, .fault e.1 e.2)

/-- Words at consecutive addresses. -/
def wordsAt (a : Nat) (ws : List Nat) : List (Nat × Nat × Nat) := ws.zipIdx.map fun p => (a + 4 * p.2, 4, p.1)

/-- The keys of a TMATCH. -/
def State.readKeys (s : State) (c : Cmd) (a t dim : Nat) (f : RowFmt) : Except (FCode × Nat) (List (List Fx)) :=
  let w := rowFmtBytes f
  (List.range t).mapM fun i => match s.tagRead c (a + i * dim * w) (dim * w) with
    | .error e => .error e
    | .ok v => .ok ((List.range dim).map fun j => (fmtOf (rowFmtTy f)).decode (v / 2 ^ (8 * w * j) % 2 ^ (8 * w)))

/-- TMATCH's run (R207): the header's fields are written last. -/
def State.runMatch (s : State) (c : Cmd) (map keys t r depth dim : Nat) (f : RowFmt) : State × Cmd × EngEnd :=
  match s.readKeys c keys t dim f with
  | .error e => (s, c, .fault e.1 e.2)
  | .ok ks =>
    let (dst, kidx, size) := matchKeys ks r
    let kept := t - r
    let pairs := (t + 1) / 2 * (t / 2)
    State.tagWrites c (wordsAt (map + 0x20) dst ++ wordsAt (map + 0x20 + 4 * t) kidx ++ wordsAt (map + 0x20 + 4 * t + 4 * kept) size ++
      wordsAt map [t, kept, depth, (s.ctx c.slot).mapGen.toNat]) (s.addFlops c.slot c.lage (2 * pairs * dim))

/-! ## TMERGE and TUNMERGE (R208, R209) -/

/-- `round(acc / S)` in the row's format; a quotient that no rule states is a free value (log 6, 41). -/
def mergeDiv (f : RowFmt) (acc S : Nat) : Nat :=
  let fm := fmtOf (rowFmtTy f)
  match F32.decode acc, F32.decode S with
  | .nan, _ => fm.nan
  | _, .nan => fm.nan
  | .fin a m e, .fin b n g =>
    if n = 0 then (Config.quotient (BitVec.ofNat 32 acc) (BitVec.ofNat 32 S)).toNat % 2 ^ (8 * rowFmtBytes f)
    else if m = 0 then (if a != b then fm.signBit else 0)
    else
      let p := scale2 m n (e - g)
      (roundFrac fm (.dir .rne) false (a != b) p.1 p.2).1
  | .fin a _ _, .inf b => if a != b then fm.signBit else 0
  | .inf a, .fin b n _ => if n = 0 then (Config.quotient (BitVec.ofNat 32 acc) (BitVec.ofNat 32 S)).toNat % 2 ^ (8 * rowFmtBytes f) else fm.infBits (a != b)
  | .inf _, .inf _ => (Config.quotient (BitVec.ofNat 32 acc) (BitVec.ofNat 32 S)).toNat % 2 ^ (8 * rowFmtBytes f)

/-- One merged row and its size, from its sources' sizes and rows, each as FP32 bits; a single source is copied (R208). -/
def mergeRow (f : RowFmt) (width : Nat) (src : List (Nat × Nat)) : Nat × Nat :=
  let w := 8 * rowFmtBytes f
  let el (row e : Nat) : Nat := row / 2 ^ (w * e) % 2 ^ w
  let toF32 (x : Nat) : Nat := (roundFx F32 (.dir .rne) false ((fmtOf (rowFmtTy f)).decode x)).1
  match src with
  | [p] => (p.2, p.1)
  | _ =>
    let S := src.foldl (fun t p => (fpAdd F32 .rne false t p.1).1) 0
    let out (e : Nat) : Nat := mergeDiv f (src.foldl (fun t p => (fpFma F32 .rne false p.1 (toF32 (el p.2 e)) t).1) 0) S
    ((List.range width).foldl (fun acc e => acc + out e * 2 ^ (w * e)) 0, S)

/-- A merge's or unmerge's map: its header checked, the ranges checked against one another and for their access, then
DST (R205, R208). `ro` are the ranges read. -/
def State.openMap (s : State) (c : Cmd) (map : Nat) (out outN : TMap → Nat) (ro : TMap → List (Nat × Nat)) (wr : TMap → List (Nat × Nat)) :
    Except (FCode × Nat) (TMap × List Nat) :=
  match s.mapHead c map with
  | .error e => .error e
  | .ok m => match s.mapCheck c map m with
    | .error e => .error e
    | .ok _ =>
      if (ro m ++ [(map, m.bytes)]).any fun r => overlaps (out m) (outN m) r.1 r.2 then .error (.tokenRange, out m)
      else
        let chk (wrt : Bool) (r : Nat × Nat) : Except (FCode × Nat) Unit := match s.tagKeys c r.1 r.2 wrt with
          | .ok _ => .ok ()
          | .error e => .error e
        match tokenRange (allOk (((map, m.bytes) :: ro m).map (chk false) ++ ((out m, outN m) :: wr m).map (chk true))) with
        | .error e => .error e
        | .ok _ => match s.tagWords c (map + 0x20) m.src with
          | .error e => .error e
          | .ok dst => if dst.any fun x => decide (m.kept ≤ x) then .error (.tokenRange, map) else .ok (m, dst)

/-- The rows of a merge, one after another. -/
def State.mergeRows (c : Cmd) (f : RowFmt) (out inp width ks : Nat) (dst sizes : List Nat) : List Nat → State → State × Cmd × EngEnd
  | [], s => (s, c, .fin)
  | j :: r, s =>
    let rb := width * rowFmtBytes f
    let is_ := (List.range dst.length).filter fun i => dst.getD i 0 == j
    let one (i : Nat) : Except (FCode × Nat) (Nat × Nat) := match s.tagRead c (inp + i * rb) rb with
      | .ok v => .ok (sizes.getD i 0, v)
      | .error e => .error e
    match is_.mapM one with
    | .error e => (s, c, .fault e.1 e.2)
    | .ok src =>
      let (row, S) := mergeRow f width src
      match State.tagWrites c [(out + j * rb, rb, row), (ks + 4 * j, 4, S)] s with
      | (t, _, .fin) => State.mergeRows c f out inp width ks dst sizes r t
      | x => x

/-- TMERGE's run (R208). -/
def State.runMerge (s : State) (c : Cmd) (out inp map : Nat) (size : Option Nat) (width : Nat) (f : RowFmt) : State × Cmd × EngEnd :=
  let rb := width * rowFmtBytes f
  let arr (m : TMap) : List (Nat × Nat) := match size with
    | some a => [(a, 4 * m.src)]
    | none => []
  match s.openMap c map (fun _ => out) (fun m => m.src * rb) (fun m => (inp, m.src * rb) :: arr m) (fun m => [(map + 0x20 + 4 * m.src + 4 * m.kept, 4 * m.kept)]) with
  | .error e => (s, c, .fault e.1 e.2)
  | .ok (m, dst) =>
    match (match size with
      | some a => s.tagWords c a m.src
      | none => .ok (List.replicate m.src 0x3F800000)) with
    | .error e => (s, c, .fault e.1 e.2)
    | .ok sizes => State.mergeRows c f out inp width (map + 0x20 + 4 * m.src + 4 * m.kept) dst sizes (List.range m.kept) s

/-- The rows of an unmerge, one after another. -/
def State.unmergeRows (c : Cmd) (out inp rb : Nat) : List (Nat × Nat) → State → State × Cmd × EngEnd
  | [], s => (s, c, .fin)
  | (d, i) :: r, s => match s.tagRead c (inp + d * rb) rb with
    | .error e => (s, c, .fault e.1 e.2)
    | .ok v => match s.tagWrite c (out + i * rb) rb v with
      | .error e => (s, c, .fault e.1 e.2)
      | .ok t => State.unmergeRows c out inp rb r t

/-- TUNMERGE's run (R209). -/
def State.runUnmerge (s : State) (c : Cmd) (out inp map width : Nat) (f : RowFmt) : State × Cmd × EngEnd :=
  let rb := width * rowFmtBytes f
  match s.openMap c map (fun _ => out) (fun m => m.src * rb) (fun m => [(inp, m.kept * rb)]) (fun _ => [(map, 32)]) with
  | .error e => (s, c, .fault e.1 e.2)
  | .ok (m, dst) => match State.unmergeRows c out inp rb dst.zipIdx s with
    | (t, _, .fin) => State.tagWrites c [(map + 8, 4, m.ctrl + 2 ^ 8)] t
    | x => x

/-- The Trowel's run of a command, from its beginning (R195). -/
def State.runTrowel (s : State) (c : Cmd) : State × Cmd × EngEnd :=
  match c.kind with
  | .tmatch map keys t r depth dim f => s.runMatch c map keys t r depth dim f
  | .tmerge out inp map size width f => s.runMerge c out inp map size width f
  | .tunmerge out inp map width f => s.runUnmerge c out inp map width f
  | _ => (s, c, .fin)

/-- TROWEL_COMMAND (R203): the oldest command of the cluster, which no later one overtakes. -/
def trowelCommandBody (cl : Nat) (s : State) : Option State :=
  match (s.cl cl).trowel with
  | [] => none
  | c :: _ =>
    if s.cmdReady c then
      let r := s.runTrowel c
      some (r.1.settleCmd cl .trowel r.2.1 r.2.2)
    else none

/-! ## Issue -/

/-- TMATCH (R206). -/
def tmatchBody (dim : BitVec 2) (f : RowFmt) (ar : AcqRel) (d a c : Operand) : Env → State → Except Stop State := whenGuard fun e s =>
  let prm := e.u64 c
  let t := ebits prm 31 0
  let r := ebits prm 47 32
  let depth := ebits prm 51 48
  let dm := 32 * 2 ^ dim.toNat
  if t = 0 ∨ 65535 < t ∨ depth = 0 ∨ 8 < depth ∨ prm / 2 ^ 52 ≠ 0 ∨ (t + 1) / 2 < r ∨ (r ≠ 0 ∧ t = 1) then .error (.fault { code := .tokenRange })
  else match allOk [s.tagCheck e.g (e.u64 d) (32 + 4 * t + 8 * (t - r)) 16 [0, 2], s.tagCheck e.g (e.u64 a) (t * dm * rowFmtBytes f) 16 [0, 1, 2]] with
    | .error x => liftF (.error x)
    | .ok _ => s.command e .trowel (e.cmd ar (.tmatch (e.u64 d) (e.u64 a) t r depth dm f)) true []

/-- The checks at issue of a tagged address whose range is known only once the map has been read: its form, and its first byte's page
(R168, R208, R33). -/
def State.tagStart (s : State) (g : Group) (a : Nat) : Except (FCode × Nat) Unit :=
  match tagForm a 16 [0, 1, 2] with
  | .error e => .error e
  | .ok _ => if a / 2 ^ 62 = 0 then match s.regspaceAt g.gid.cluster g.slot a 1 with
    | some x => .error (.regspaceAccess, x)
    | none => .ok ()
  else .ok ()

/-- TMERGE (R208): the header of the map is the range known at issue. -/
def tmergeBody (width : BitVec 11) (f : RowFmt) (ar : AcqRel) (d a b c : Operand) : Env → State → Except Stop State := whenGuard fun e s =>
  let sz : Option Nat := match c with
    | .s _ => some (e.u64 c)
    | .v n => if n = 0 then none else some (e.u64 c)
    | _ => some (e.u64 c)
  let szCheck : Except (FCode × Nat) Unit := match sz with
    | some x => s.tagStart e.g x
    | none => .ok ()
  match allOk [s.tagStart e.g (e.u64 d), s.tagStart e.g (e.u64 a), s.tagCheck e.g (e.u64 b) 32 16 [0, 2], szCheck] with
  | .error x => liftF (.error x)
  | .ok _ => s.command e .trowel (e.cmd ar (.tmerge (e.u64 d) (e.u64 a) (e.u64 b) sz (16 * width.toNat) f)) true []

/-- TUNMERGE (R209). -/
def tunmergeBody (width : BitVec 11) (f : RowFmt) (ar : AcqRel) (d a b : Operand) : Env → State → Except Stop State := whenGuard fun e s =>
  match allOk [s.tagStart e.g (e.u64 d), s.tagStart e.g (e.u64 a), s.tagCheck e.g (e.u64 b) 32 16 [0, 2]] with
  | .error x => liftF (.error x)
  | .ok _ => s.command e .trowel (e.cmd ar (.tunmerge (e.u64 d) (e.u64 a) (e.u64 b) (16 * width.toNat) f)) true []

/-- TROWEL_COMMAND. -/
def execTrowelCommand (cl : Nat) (s : State) : Host.Outcome State Fault Refusal := eventOf s (trowelCommandBody cl s)


/-- TMATCH (R206, R207). -/
def execTmatch (h : Head) (dim : BitVec 2) (fmt : RowFmt) (ar : AcqRel) (d : Operand) (a : Operand) (c : Operand) (s : State) : Host.Outcome State Fault Refusal :=
  issue (.tmatch h dim fmt ar d a c) (tmatchBody dim fmt ar d a c) s

/-- TMERGE (R208). -/
def execTmerge (h : Head) (width : BitVec 11) (fmt : RowFmt) (ar : AcqRel) (d : Operand) (a : Operand) (b : Operand) (c : Operand) (s : State) : Host.Outcome State Fault Refusal :=
  issue (.tmerge h width fmt ar d a b c) (tmergeBody width fmt ar d a b c) s

/-- TUNMERGE (R209). -/
def execTunmerge (h : Head) (width : BitVec 11) (fmt : RowFmt) (ar : AcqRel) (d : Operand) (a : Operand) (b : Operand) (s : State) : Host.Outcome State Fault Refusal :=
  issue (.tunmerge h width fmt ar d a b) (tunmergeBody width fmt ar d a b) s

end Sys2Proof.Machine
end

