-- ==== Sys2Proof/Machine/System.lean ====
section
/-! DEFINITION. Class 111: LAUNCH, TRIGGER, TIMER, QEND (R300-R310) and the trap instructions (R349-R353). -/

namespace Sys2Proof.Machine

/-- LAUNCH (R302): its address is checked for its tag and bounds and then its alignment; once the group's earlier accesses are
performed (R224, R233), the packet is read by the group and sent to the front end. It names no flag beyond its retirement (R48). -/
def launchBody (pd : PReg) (a : Operand) : Env → State → Except Stop State := whenGuard fun e s =>
  let x := e.u64 a
  match s.taggedKeys e.g x 64 1 needR with
  | .error f => liftF (.error f)
  | .ok ks =>
    if x % 64 ≠ 0 then faultAt .misaligned x
    else if e.relWaits ∨ e.g.mustWait e.g.ops e.p.id e.p.born .lt [] ∨ e.g.mustWait e.g.ops e.p.id e.p.born .ld ks then .error .stall
    else
      let s := s.noteTlbs e.g.gid.cluster e.g.slot (pagesOf x 64)
      s.issueOp e { e.op (.launch (ks.map (s.seen e.g s.nextId)) pd) .lt .dev (predRefs [pd.toNat]) false with flag := none } true

/-- TRIGGER (R301, R303): the mark is set once the group's earlier accesses are performed (R224); in D-mode it is set at the
commit. -/
def triggerBody : Env → State → Except Stop State := whenGuard fun e s =>
  if e.relWaits ∨ e.g.mustWait e.g.ops e.p.id e.p.born .lt [] then .error .stall
  else if e.g.dmode then s.issueOp e { e.op .trigger .lt .dev [] false with flag := none } true
  else .ok (s.mapG e.gi fun g => { g with trig := true })

/-- TCMP with its TCOMP field written; the timer can fire once more (R23, R29, R308). -/
def Group.setTcomp (g : Group) (v : Nat) : Group :=
  { g with regs := { g.regs with tcmp := g.regs.tcmp / 2 ^ 48 * 2 ^ 48 + BitVec.ofNat 64 (v % 2 ^ 48) }, armed := true }

/-- TIMER.ABS (R308). -/
def timerAbsBody (a : Operand) : Env → State → Except Stop State := whenGuard <| groupBody fun e g => g.setTcomp (e.u64 a)

/-- TIMER.REL (R308): the count at the retirement, which in D-mode counts the TIMER itself. -/
def timerRelBody (a : Operand) : Env → State → Except Stop State := whenGuard fun e s =>
  .ok (s.mapG e.gi fun g => g.setTcomp ((s.clockOf g).toNat + g.dmode.toNat + e.u32 a))

/-- TIMER.OFF (R308). -/
def timerOffBody : Env → State → Except Stop State := whenGuard <| groupBody fun _ g => g.setTcomp (2 ^ 48 - 1)

/-- QEND (R310). -/
def qendBody : Env → State → Except Stop State := whenGuard <| groupBody fun _ g => { g with qend := g.qend || g.dmode }

/-- TRAP (R350): USER_TRAP, taken after the TRAP retires, with the next slot as the resume address. -/
def trapBody (n : BitVec 16) : Env → State → Except Stop State := whenGuard fun e s =>
  .ok (s.raise e.gi { code := .userTrap, info := some n.toNat } e.addr (nextAddr e.addr) e.p.id)

/-- BKPT (R350): BREAKPOINT, a replayable stop after the BKPT retires. -/
def bkptBody (n : BitVec 16) : Env → State → Except Stop State := whenGuard fun e s =>
  .ok (s.raise e.gi { code := .breakpoint, info := some n.toNat } e.addr (nextAddr e.addr) e.p.id)

/-- The check of a resume address: as R158 without the TARGET bit (R351). -/
def resumeOk (a : Nat) : Bool := decide (a < 2 ^ 56) && slotOk a

/-- The A-slice of a trapped group resumes at APC (R351). -/
def Group.trapAResumes (g : Group) : Bool := match g.trapAst with
  | .run => true
  | .halted _ _ _ => true
  | _ => false

/-- TRAPRET (R351): the addresses are checked, what the trap kept stands again, and a held timer is taken now. It stalls while the
loads that it injects and those in flight would be more than eight (R339). -/
def trapretBody : Env → State → Except Stop State := whenGuard fun e s =>
  if !e.g.inh then .error (.fault { code := .illegalOperand })
  else match e.g.frame with
    | none => .error (.fault { code := .illegalOperand })
    | some f =>
      if !resumeOk f.cpc then faultAt .illegalTarget f.cpc
      else if e.g.trapAResumes && !resumeOk f.apc then faultAt .illegalTarget f.apc
      else if 8 < e.g.plainLoads + liveCount f.rqlive e.g.rq then .error .stall
      else
        let t := s.trapReturn e.gi
        .ok (if e.g.held then t.takeTimer e.gi else t)

/-- A trap-state register of the group's frame changed, and a replay entry's state with it; in its record of the save area only
the fields that hold them change (R343, R352, R353). -/
def State.mapFrame (s : State) (gi : Nat) (f : Frame → Frame) : State :=
  match s.groups[gi]? with
  | none => s
  | some g => match g.frame with
    | none => s
    | some fr =>
      let b := (s.ctx g.slot).csaGroup g.gid
      ((s.setG gi { g with frame := some (f fr) }).writeBytes b (f fr).bytes).writeBytes (b + 0x100) (rqBytes g.rq)

/-- REPLAY (R352). Its flag, and the one the entry names, fall when the load completes. With eight plain loads in flight it
stalls (R339). -/
def replayBody (i : BitVec 3) (pd : PReg) : Env → State → Except Stop State := whenGuard fun e s =>
  if !e.g.inh then .error (.fault { code := .illegalOperand })
  else
    let live : Bool := match e.g.frame with
      | some f => f.rqlive / 2 ^ i.toNat % 2 == 1
      | none => false
    match e.g.rq[i.toNat]? with
    | some r =>
      if live ∧ (r.st = 1 ∨ r.st = 2) then
        if 8 ≤ e.g.plainLoads then .error .stall
        else
          let op := { r.op with flag2 := e.flag, pid := e.p.id, held := e.p.held, born := e.p.born }
          let s := (s.inject e.gi op).mapG e.gi fun g =>
            { g.setPAll pd.toNat e.p.held true with rq := g.rq.modify i.toNat fun (q : RqEntry) => { q with st := 3 } }
          .ok (s.mapFrame e.gi fun f => { f with rqlive := f.rqlive - 2 ^ i.toNat })
      else .ok (s.mapG e.gi fun g => g.setPAll pd.toNat e.p.held false)
    | none => .ok (s.mapG e.gi fun g => g.setPAll pd.toNat e.p.held false)

/-- A trap-state register (R353). -/
def Frame.get (f : Frame) : TrapReg → Nat
  | .cpc => f.cpc
  | .apc => f.apc + f.ahalt.toNat * 2 ^ 63
  | .fpc => f.fpc
  | .fcode => f.fcode
  | .faddr => f.faddr
  | .fmask => f.fmask.toNat
  | .finfo => f.finfo
  | .rqlive => f.rqlive

/-- RDSR (R353): zero when the group has never trapped. -/
def rdsrBody (r : TrapReg) (d : Operand) : Env → State → Except Stop State := whenGuard <| groupBody fun e g =>
  let v := match e.g.frame with
    | some f => f.get r
    | none => 0
  g.writeD e.p.id e.ulane d (r.regs == 2) fun _ => some (BitVec.ofNat 64 v)

/-- The lanes of the path that faulted (R353). -/
def Group.faultLanes (g : Group) : Mask := match g.trapPaths with
  | p :: _ => p.held
  | [] => 0

/-- WRSR (R353). CPC and APC keep the bits above 55, which TRAPRET checks as R158 does (log 44). -/
def wrsrBody (r : TrapReg) (a : Operand) : Env → State → Except Stop State := whenGuard fun e s =>
  if !e.g.inh then .error (.fault { code := .illegalOperand })
  else match r with
    | .cpc => .ok (s.mapFrame e.gi fun f => { f with cpc := e.u64 a })
    | .apc => .ok (s.mapFrame e.gi fun f => { f with apc := e.u64 a % 2 ^ 63 })
    | .fmask => .ok (s.mapFrame e.gi fun f => { f with fmask := e.rd32 a e.ulane &&& e.g.faultLanes })
    | .rqlive => .ok (s.mapFrame e.gi fun f => { f with rqlive := e.u32 a % 2 ^ 8 })
    | _ => .error (.fault { code := .illegalOperand })


/-- LAUNCH (R302). -/
def execLaunch (h : Head) (pd : PReg) (a : Operand) (s : State) : Host.Outcome State Fault Refusal :=
  issue (.launch h pd a) (launchBody pd a) s

/-- TRIGGER (R301). -/
def execTrigger (h : Head) (s : State) : Host.Outcome State Fault Refusal :=
  issue (.trigger h) (triggerBody) s

/-- TIMER.ABS (R308). -/
def execTimerAbs (h : Head) (a : Operand) (s : State) : Host.Outcome State Fault Refusal :=
  issue (.timerAbs h a) (timerAbsBody a) s

/-- TIMER.REL (R308). -/
def execTimerRel (h : Head) (a : Operand) (s : State) : Host.Outcome State Fault Refusal :=
  issue (.timerRel h a) (timerRelBody a) s

/-- TIMER.OFF (R308). -/
def execTimerOff (h : Head) (s : State) : Host.Outcome State Fault Refusal :=
  issue (.timerOff h) (timerOffBody) s

/-- QEND (R310). -/
def execQend (h : Head) (s : State) : Host.Outcome State Fault Refusal :=
  issue (.qend h) (qendBody) s

/-- TRAP (R350). -/
def execTrap (h : Head) (n : BitVec 16) (s : State) : Host.Outcome State Fault Refusal :=
  issue (.trap h n) (trapBody n) s

/-- TRAPRET (R351). -/
def execTrapret (h : Head) (s : State) : Host.Outcome State Fault Refusal :=
  issue (.trapret h) (trapretBody) s

/-- REPLAY (R352). -/
def execReplay (h : Head) (i : BitVec 3) (pd : PReg) (s : State) : Host.Outcome State Fault Refusal :=
  issue (.replay h i pd) (replayBody i pd) s

/-- RDSR (R353). -/
def execRdsr (h : Head) (r : TrapReg) (d : Operand) (s : State) : Host.Outcome State Fault Refusal :=
  issue (.rdsr h r d) (rdsrBody r d) s

/-- WRSR (R353). -/
def execWrsr (h : Head) (r : TrapReg) (a : Operand) (s : State) : Host.Outcome State Fault Refusal :=
  issue (.wrsr h r a) (wrsrBody r a) s

/-- BKPT (R350). -/
def execBkpt (h : Head) (n : BitVec 16) (s : State) : Host.Outcome State Fault Refusal :=
  issue (.bkpt h n) (bkptBody n) s

end Sys2Proof.Machine
end

