-- ==== Sys2Proof/Machine/FrontEnd.lean ====
section
/-! DEFINITION. The front end: packets and the launch queue (R283-R289), dispatch and placement (R290-R296, R13-R16,
R22), tasks (R298, R299), signals, retirement and completion (R234, R288, R304). -/

namespace Sys2Proof.Machine

/-! ## Functions (R334) -/

/-- The function that a context slot belongs to: the lowest virtual one that names it, or the physical one. -/
def State.slotFn (s : State) (k : Nat) : Nat := ((List.range 16).find? fun i => (s.vfslot.getD i 0).getLsbD k).getD 16

/-- The context slot that a function shows at place `j`: the physical one every slot, a virtual one its own, in increasing order. -/
def State.slotOf (s : State) (fn j : Nat) : Option Nat :=
  if fn = 16 then (if j < 64 then some j else none) else ((List.range 64).filter fun k => s.slotFn k == fn)[j]?

/-- What a host does at place `j` of a function, to the slot that it shows there, or to none. -/
def State.atSlot (s : State) (fn j : Nat) (f : Nat → State → State) : State := match s.slotOf fn j with
  | some k => f k s
  | none => s

/-! ## Packets (R286, R287) -/

/-- The launch that the 64 bytes of a packet describe (R286). -/
def launchOf (slot age : Nat) (bs : List Byte) : Launch :=
  let w (i : Nat) : Nat := wordOfBytes ((bs.drop (8 * i)).take 8)
  let c := w 3
  let nd := ebits c 54 53
  { age := age, slot := slot, kdesc := w 0, argp := w 1, gx := ebits (w 2) 32 0, gy := ebits (w 2) 49 33, gz := ebits c 16 0,
    deps := [w 4, w 5].take nd, sigp := w 6, map := w 7, task := ebit c 52, zn := ebits c 51 46,
    cscope := if ebits c 45 43 = 5 then .sys else .dev, pclass := ebits c 42 41, part := ebits c 40 38, prio := ebits c 37 35,
    dmode := ebit c 34, quant := if ebits c 33 17 = 0 then 4096 else ebits c 33 17, satisfied := [], ready := none, desc := none,
    next := 0, alive := 0, risen := 0, lastDisp := 0, trigDone := false, doneDone := false, dead := false, mapSkip := false,
    mapBad := false, dispatched := [] }

/-- The teams of a launch (R14, R286). -/
def Launch.total (l : Launch) : Nat := l.gx * l.gy * l.gz

/-- The fields and codes of a packet are in order (R286, R287). -/
def packetFormOk (bs : List Byte) : Bool :=
  let w (i : Nat) : Nat := wordOfBytes ((bs.drop (8 * i)).take 8)
  let c := w 3
  let nd := ebits c 54 53
  let q := ebits c 33 17
  let gx := ebits (w 2) 32 0
  let gy := ebits (w 2) 49 33
  let gz := ebits c 16 0
  bs.length == 64 && w 0 % 64 == 0 && decide (w 0 < 2 ^ 56) && decide (w 1 < 2 ^ 56) && decide (w 2 < 2 ^ 50) &&
    decide (c < 2 ^ 55) && w 4 % 8 == 0 && decide (w 4 < 2 ^ 56) && w 5 % 8 == 0 && decide (w 5 < 2 ^ 56) &&
    (nd != 0 || w 4 == 0) && (decide (2 ≤ nd) || w 5 == 0) && w 6 % 16 == 0 && decide (w 6 < 2 ^ 56) &&
    w 7 % 64 == 0 && decide (w 7 < 2 ^ 56) &&
    nd != 3 && decide (ebits c 51 46 ≤ 32) && (ebits c 45 43 == 4 || ebits c 45 43 == 5) && decide (ebits c 42 41 ≤ 1) &&
    (q == 0 || (decide (8 ≤ q) && decide (q ≤ 65536))) &&
    decide (gx ≤ 2 ^ 32) && decide (gy ≤ 65536) && decide (gz ≤ 65536) && decide (gx * gy * gz ≤ 2 ^ 32)

/-- A signal word lies on a normal or sync page (R287). -/
def State.signalPage (s : State) (slot a : Nat) : Bool := match s.translate noCluster slot a { types := [0, 4] } with
  | .ok _ => true
  | .error _ => false

/-- R287: the packet is accepted in a context. -/
def State.packetOk (s : State) (slot : Nat) (bs : List Byte) : Bool :=
  let l := launchOf slot 0 bs
  let c := s.ctx slot
  packetFormOk bs && c.perm.getLsbD l.part && decide (ebits c.perm.toNat 10 8 ≤ l.prio) &&
    l.deps.all (s.signalPage slot) && (l.sigp == 0 || (s.signalPage slot l.sigp && s.signalPage slot (l.sigp + 8)))

/-- A launch has teams still to dispatch, or has dispatched none and not completed (R284). -/
def Launch.queued (l : Launch) : Bool := decide (l.next < l.total) || l.total == 0
/-- QDEPTH (R284, R285). -/
def State.qdepth (s : State) (slot : Nat) : Nat := (s.launches.filter fun l => l.slot == slot && l.queued).length

/-- A saturating 32-bit count rises. -/
def sat32 (n : Nat) : Nat := min (n + 1) (2 ^ 32 - 1)

/-- A notice of the front end (R346). -/
def State.notice (s : State) (slot : Nat) (code : FCode) (addr lage info : Nat) : State :=
  s.post slot { code := code.num, kind := 2, master := 5, addr := addr, lage := lage, info := info }

/-- The key-value translations of a context are dropped on every cluster (R102). -/
def State.dropKv (s : State) (slot : Nat) : State :=
  { s with clusters := s.clusters.map fun (c : Cluster) => { c with kvtb := c.kvtb.filter fun p => p.1 != slot } }

/-- The key-value translations of a context on one cluster are dropped (R102). -/
def State.dropKvAt (s : State) (cl slot : Nat) : State :=
  let c := s.cl cl
  s.setCl cl { c with kvtb := c.kvtb.filter fun p => p.1 != slot }

/-- COMPLETED rises by one (R285), and the context's key-value translations are dropped (R102). -/
def State.countCompleted (s : State) (slot : Nat) : State :=
  let c := s.ctx slot
  (s.setCtx slot { c with completed := c.completed + 1 }).dropKv slot

/-- A launch leaves. -/
def State.dropLaunch (s : State) (age : Nat) : State := { s with launches := s.launches.filter (·.age != age) }

/-- The entries of a launch in its context's ready lists are taken out (R299). -/
def State.dropReady (s : State) (slot age : Nat) : State :=
  let c := s.ctx slot
  s.setCtx slot { c with ready := c.ready.filter fun r => r.2.1 != age }

/-- A launch is refused after it has taken its age (R16, R287, R289, R298). -/
def State.refuse (s : State) (l : Launch) (code : FCode) (addr : Nat) : State :=
  (((s.dropLaunch l.age).dropReady l.slot l.age).notice l.slot code addr l.age 0).countCompleted l.slot

/-- A refusal by the front end's own read: a freeze, or BAD_LAUNCH. -/
def State.frontFault (s : State) (l : Launch) (c : FCode) (a : Nat) : State :=
  if c.cls = .freeze then s.freeze l.slot c.num 5 0 a 0 else s.refuse l .badLaunch a

/-- The context has live D-mode groups (R311). -/
def State.liveD (s : State) (slot : Nat) : Bool := s.groups.any fun g => g.slot == slot && g.dmode && !g.paths.isEmpty

/-! ## Signals (R288) -/

/-- A decrement of a signal word: one Kiln step, or the account of its fault (R288). -/
def State.decrement (s : State) (l : Launch) (a : Nat) : State :=
  match s.translate noCluster l.slot a { types := [0, 4], r := true, w := true, at_ := true } with
  | .ok k => if s.poisoned k then s.notice l.slot .signalFault a l.age (FCode.num .eccUncorrected) else s.writeNum k 8 (s.mem.num k 8 + 2 ^ 64 - 1)
  | .error c => if c.cls = .freeze then s.freeze l.slot c.num 5 0 a 0 else s.notice l.slot .signalFault a l.age c.num

/-- A ready zero-size launch makes both decrements and completes (R304). -/
def State.finishZero (s : State) (l : Launch) : State :=
  let s := if l.sigp = 0 then s else (s.decrement l l.sigp).decrement l (l.sigp + 8)
  (s.dropLaunch l.age).countCompleted l.slot

/-! ## The entries of a task launch (R298, R299) -/

/-- A team of a task launch is pending: among the first 65,536 that have not dispatched (R299). -/
def Launch.pendingTask (l : Launch) (t : Nat) : Bool :=
  decide (t < l.total) && !l.dispatched.contains t && decide (t - (l.dispatched.filter (· < t)).length < 65536)

/-- The pending teams of a task launch, in increasing index. -/
def Launch.pendingTasks (l : Launch) : List Nat :=
  (List.range (min l.total (65536 + l.dispatched.length))).filter l.pendingTask

/-- The addresses that do not lie on sync pages; a malformed table is an error of its own (R298). -/
def State.offSync (s : State) (slot : Nat) (as : List Nat) : Except FCode (List Nat) :=
  as.foldlM (fun bad a => match s.translate noCluster slot a { types := [4] } with
    | .ok _ => .ok bad
    | .error c => if c.cls = .freeze then .error c else .ok (a :: bad)) []

/-- The addresses of a task's input and output slots, or none when its entry breaks R298. -/
def State.taskSlots (s : State) (l : Launch) (t : Nat) : Except FCode (Option (List Nat × List Nat)) :=
  if 2 ^ 56 < l.map + 128 * t + 128 then .error .addrRange
  else match s.readV noCluster l.slot (l.map + 128 * t) 128 with
  | .error p => .error p.1
  | .ok v =>
    let c := ebits v 63 0
    let ni := ebits c 3 0
    let no := ebits c 7 4
    let ss := (List.range (ni + no)).map fun i => ebits v (127 + 64 * i) (64 + 64 * i)
    if l.map = 0 ∨ 15 < ni + no ∨ c / 2 ^ 8 ≠ 0 ∨ ss.any (fun a => a % 8 != 0 || decide (2 ^ 56 ≤ a)) then .ok none
    else match s.offSync l.slot ss with
      | .error c => .error c
      | .ok bad => .ok (if bad.isEmpty then some (ss.take ni, ss.drop ni) else none)

/-- The entry of a team that has become pending is read (R298); one that breaks the layout refuses the launch. -/
def State.readEntry (s : State) (age t : Nat) : State :=
  match s.launch age with
  | none => s
  | some l =>
    if (s.ctx l.slot).state ≠ .active ∨ l.entries.any (·.1 == t) then s
    else if l.map = 0 then s.refuse l .badLaunch 0
    else match s.taskSlots l t with
      | .error c => s.frontFault l c (l.map + 128 * t)
      | .ok none => s.refuse l .badLaunch (l.map + 128 * t)
      | .ok (some (ins, outs)) => s.mapL age fun l => { l with entries := l.entries ++ [(t, ins, outs)] }

/-- The entries of the teams of a task launch that have become pending are read, in team order (R298, R299). -/
def State.readEntries (s : State) (age : Nat) : State :=
  match s.launch age with
  | some l => if l.task then l.pendingTasks.foldl (fun t i => t.readEntry age i) s else s
  | none => s

/-- A launch becomes ready (R289); a zero-size one completes, unless it waits for a round (R304, R311). The entries of a task
launch's first teams are read (R298). -/
def State.makeReady (s : State) (l : Launch) : State :=
  let now := s.clock.toNat
  if l.total = 0 ∧ ¬(l.dmode ∧ s.liveD l.slot) then s.finishZero l
  else (s.mapL l.age fun l => { l with ready := some now, lastDisp := now }).readEntries l.age

/-- A packet is enqueued with a new launch age (R284). -/
def State.enqueue (s : State) (slot : Nat) (bs : List Byte) : State :=
  let l := launchOf slot s.nextAge bs
  let c := s.ctx slot
  let s := { (s.setCtx slot { c with accepted := c.accepted + 1 }) with nextAge := s.nextAge + 1, launches := s.launches ++ [l] }
  if l.deps.isEmpty then s.makeReady l else s

/-- A host packet is accepted, refused with its age, or discarded when the queue is full (R284, R287). -/
def State.hostPacket (s : State) (slot : Nat) (bs : List Byte) : State :=
  if 4096 ≤ s.qdepth slot then
    let c := s.ctx slot
    (s.setCtx slot { c with refused := sat32 c.refused }).notice slot .launchOverflow 0 0 0
  else if s.packetOk slot bs then s.enqueue slot bs
  else
    let c := s.ctx slot
    let age := s.nextAge
    let s := { (s.setCtx slot { c with accepted := c.accepted + 1 }) with nextAge := age + 1 }
    (s.notice slot .badLaunch 0 age 0).countCompleted slot

/-- HOST_LAUNCH_PACKET: a posted write to a launch window (R283, R330). A packet waits for a commit round while the context has live
D-mode groups, or earlier packets of it still wait, since packets are enqueued in the order received (R284, R311). -/
def hostPacketBody (slot off : Nat) (bs : List Byte) (s : State) : State :=
  let c := s.ctx slot
  if c.state ≠ .active ∨ bs.length ≠ 64 ∨ off % 64 ≠ 0 ∨ 0xFC0 < off + 64 then s.setCtx slot { c with refused := sat32 c.refused }
  else if s.liveD slot || !c.hostq.isEmpty then s.setCtx slot { c with hostq := c.hostq ++ [bs] }
  else s.hostPacket slot bs

/-! ## Dependences (R289) -/

/-- One read of an unsatisfied signal word: satisfied or not, or why the launch is refused or the context freezes. -/
def State.readSignal (s : State) (slot a : Nat) : Except FCode Bool :=
  match s.translate noCluster slot a { types := [0, 4], r := true } with
  | .ok k => if s.poisoned k then .error .eccUncorrected else .ok (decide ((BitVec.ofNat 64 (s.mem.num k 8)).toInt ≤ 0))
  | .error c => .error c

/-- The unsatisfied signal words of a launch are read, in order (R289). -/
def State.pollDeps (s : State) (l : Launch) : List Nat → State
  | [] =>
    match s.launch l.age with
    | some l' => if l'.satisfied.length = l.deps.length then s.makeReady l' else s
    | none => s
  | i :: r =>
    if ((s.launch l.age).map (·.satisfied.contains i)).getD true then s.pollDeps l r
    else match s.readSignal l.slot (l.deps.getD i 0) with
      | .ok true => State.pollDeps (s.mapL l.age fun l => { l with satisfied := l.satisfied ++ [i] }) l r
      | .ok false => s.pollDeps l r
      | .error c => if c.cls = .freeze then s.freeze l.slot c.num 5 0 (l.deps.getD i 0) 0 else s.refuse l .badLaunch (l.deps.getD i 0)

/-- DEPENDENCE_POLL (R289, R304). -/
def dependencePollBody (age : Nat) (s : State) : Option State :=
  match s.launch age with
  | some l => if l.ready.isSome ∨ (s.ctx l.slot).state ≠ .active then none else some (s.pollDeps l (List.range l.deps.length))
  | none => none

/-! ## Kernel descriptors (R15, R16) -/

/-- A role word (R15); its reserved bits must be zero. -/
def roleWordOf (w : Nat) : RoleWord := { groups := ebits w 6 0, vregs := 8 * ebits w 15 8, sregs := ebits w 22 16 }

/-- The clusters of a partition, counting up. -/
def State.partClusters (s : State) (pt : Nat) : List Nat := (List.range 128).filter fun c => s.partOf c == pt

/-- The dies that hold a cluster of a partition. -/
def State.partDies (s : State) (pt : Nat) : List Nat :=
  (List.range 4).filter fun d => (List.range 32).any fun i => s.partOf (32 * d + i) == pt

/-- R16's checks of a descriptor's 64 bytes. -/
def State.descOf (s : State) (slot pt v : Nat) : Option KDesc :=
  let c := s.ctx slot
  let centry := ebits v 63 0
  let aentry := ebits v 127 64
  let sh := ebits v 159 128
  let sc := ebits v 191 160
  let n := ebits v 193 192 + 1
  let ws := (List.range 4).map fun i => ebits v (287 + 32 * i) (256 + 32 * i)
  let roles := (ws.take n).map roleWordOf
  let ok := ebits v 255 194 == 0 && v / 2 ^ 384 == 0 && decide (centry < 2 ^ 56) && decide (aentry < 2 ^ 56) &&
    (ws.take n).all (fun w => decide (w < 2 ^ 23) && !ebit w 7) && (ws.drop n).all (· == 0) &&
    roles.all (fun r => decide (1 ≤ r.groups) && decide (r.groups ≤ 64) && decide (8 ≤ r.vregs) && decide (r.vregs ≤ 256) &&
      decide (1 ≤ r.sregs) && decide (r.sregs ≤ 64)) &&
    decide ((roles.map (·.groups)).sum ≤ 64) && decide (sh ≤ 2 ^ 20) &&
    s.isTarget noCluster slot centry && (aentry == 0 || s.isTarget noCluster slot aentry) &&
    (s.partDies pt).all fun d => decide ((sc + 2 ^ 20 - 1) / 2 ^ 20 * 2 ^ 20 ≤ c.scratchBytes d)
  if ok then some { centry := centry, aentry := aentry, shbytes := sh, scbytes := sc, roles := roles } else none

/-- DESCRIPTOR_CHECK (R16): the descriptor is read and checked; a launch that fails is refused, or freezes its context. -/
def State.checkDesc (s : State) (l : Launch) : State :=
  match s.rangeKeys noCluster l.slot l.kdesc 64 needR with
  | .error p => if p.1.cls = .freeze then s.freeze l.slot p.1.num 5 0 p.2 0 else s.refuse l .badDescriptor l.kdesc
  | .ok ks => match s.descOf l.slot l.part (wordOfBytes (s.mem.getAll ks)) with
    | some d => s.mapL l.age fun l => { l with desc := some d }
    | none => s.refuse l .badDescriptor l.kdesc

/-- A launch that is ready in an active context. -/
def State.isReady (s : State) (l : Launch) : Bool := l.ready.isSome && s.going l.slot && decide (l.next < l.total)

/-! ## Fitting (R13, R291, R292) -/

/-- A group whose slot has been released (R292). -/
def Group.gone (g : Group) : Bool := g.paths.isEmpty && g.acks == 0 && g.cbuf.isEmpty && g.st == .run
/-- The free slots of an issue partition, lowest first (R13). -/
def State.freeSlots (s : State) (cl pt : Nat) : List Nat :=
  (List.range 16).filter fun k => !s.groups.any fun g => g.gid == ⟨cl, pt, k⟩ && !g.gone

/-- Places for `n` groups: each takes the next issue partition that has a free slot, and its lowest one (R13). -/
def places : Nat → Nat → List (List Nat) → Option (List (Nat × Nat))
  | 0, _, _ => some []
  | n + 1, ptr, free =>
    match (List.range 4).find? fun i => !(free.getD ((ptr + i) % 4) []).isEmpty with
    | none => none
    | some i =>
      let pt := (ptr + i) % 4
      match free.getD pt [] with
      | [] => none
      | k :: r => (places n (pt + 1) (free.set pt r)).map fun l => (pt, k) :: l

/-- Bytes rounded up to 4 KiB (R291). -/
def round4k (n : Nat) : Nat := (n + 4095) / 4096 * 4096

/-- The lowest contiguous free range of shared memory of a cluster, in 4 KiB units (R291). -/
def State.sharedRange (s : State) (cl n : Nat) : Option Nat :=
  if n = 0 then some 0
  else
    let used := s.teams.filter fun t => t.cluster == cl && t.shBytes != 0
    ((List.range 256).map (· * 4096)).find? fun b => decide (b + round4k n ≤ 2 ^ 20) &&
      used.all fun t => decide (b + round4k n ≤ t.shBase) || decide (t.shBase + round4k t.shBytes ≤ b)

/-- The free tiles of a cluster. -/
def State.freeTiles (s : State) (cl : Nat) : List Nat :=
  (List.range 32).filter fun z => !s.teams.any fun t => t.cluster == cl && t.ztiles.contains z

/-- The resources that a team takes on a cluster (R291). -/
structure Fit where
  slots : List (Nat × Nat)
  shBase : Nat
  tiles : List Nat
  deriving DecidableEq, Repr

/-- A team fits a cluster, with what it takes (R291). -/
def State.fits (s : State) (cl : Nat) (l : Launch) (d : KDesc) : Option Fit :=
  match places (d.roles.map (·.groups)).sum 0 ((List.range 4).map (s.freeSlots cl)), s.sharedRange cl d.shbytes with
  | some ps, some b =>
    let z := s.freeTiles cl
    if z.length < l.zn then none else some { slots := ps, shBase := b, tiles := z.take l.zn }
  | _, _ => none

/-! ## Placement (R293-R296) -/

/-- The sampled pages' addresses of a team under a map, `none` when the map is to be ignored; the empty list when no entry
covers the team (R294, R295). -/
def State.mapPages (s : State) (l : Launch) (t : Nat) : Option (List Nat) :=
  let rd (a n : Nat) : Option Nat := if 2 ^ 56 < a + n then none else match s.readV noCluster l.slot a n with
    | .ok v => some v
    | .error _ => none
  match rd l.map 64 with
  | none => none
  | some h =>
    let n := ebits h 31 0
    if n = 0 ∨ 4096 < n ∨ h / 2 ^ 32 ≠ 0 then none
    else match (List.range n).mapM fun e => rd (l.map + 64 + 32 * e) 32 with
      | none => none
      | some es =>
        let bad (v : Nat) : Bool := ebits v 63 32 == 0 || decide (1 < ebits v 95 64) || ebits v 127 96 == 0 || decide (16 < ebits v 127 96) ||
          decide (2 ^ 56 ≤ ebits v 191 128) || (ebits v 95 64 == 0 && v / 2 ^ 192 != 0)
        if es.any bad then none
        else match es.find? fun v => decide (ebits v 31 0 ≤ t) && decide (t < ebits v 31 0 + ebits v 63 32) with
          | none => some []
          | some v =>
            let i := t - ebits v 31 0
            let np := ebits v 127 96
            let a := ebits v 191 128
            if ebits v 95 64 = 0 then (List.range np).mapM fun k => rd (a + 8 * (np * i + k)) 8
            else some ((List.range np).map fun k => ((a + i * (v / 2 ^ 192)) / 2 ^ 16 + k) * 2 ^ 16 % 2 ^ 64)

/-- The home die of a sampled page; an absent page or a host page does not count (R294). -/
def State.pageDie (s : State) (slot a : Nat) : Option Nat :=
  if 2 ^ 56 ≤ a then none else match s.leaf noCluster slot a with
    | .ok e => if etype e = 1 then none else some (homeDie (leafKey e a))
    | .error _ => none

/-- The dies that hold the most of a team's sampled pages (R293 step 2). -/
def State.mapDies (s : State) (slot : Nat) (pages : List Nat) : List Nat :=
  let ds := pages.filterMap (s.pageDie slot)
  let n (d : Nat) : Nat := ds.count d
  let best := (List.range 4).foldl (fun m d => max m (n d)) 0
  if best = 0 then [] else (List.range 4).filter fun d => n d == best

/-- The candidates that satisfy a criterion, or all when none does (R293). -/
def keepBest (cs : List Nat) (p : Nat → Bool) : List Nat := let k := cs.filter p
  if k.isEmpty then cs else k

/-- The class of a kernel (R296). -/
def Context.classOf (c : Context) (kdesc : Nat) : Option Nat := (c.classes.find? (·.1 == kdesc)).map (·.2)

/-- The cluster for the next team of a launch (R293), and whether the map was found bad; none while the map's dies are full.
Which instruction caches hold CENTRY's line is a free value (log 6). -/
def State.placeTeam (s : State) (l : Launch) (d : KDesc) (t : Nat) : Option Nat × Bool :=
  let c := s.ctx l.slot
  let c1 := (List.range 128).filter fun cl => s.partOf cl == l.part && !c.stopMask.getLsbD cl && (s.fits cl l d).isSome
  let pages := if l.map = 0 ∨ l.task ∨ l.mapBad then some [] else s.mapPages l t
  let dies := s.mapDies l.slot (pages.getD [])
  let c2 := if dies.isEmpty then c1 else c1.filter fun cl => dies.contains (dieOf cl)
  if c2.isEmpty ∧ ¬ l.mapSkip then (none, pages.isNone)
  else
    let c2 := if c2.isEmpty then c1 else c2
    let c3 := keepBest c2 fun cl => Config.holdsLine s.free cl
    let free (cl : Nat) : Nat := ((List.range 4).map fun p => (s.freeSlots cl p).length).sum
    let least := c3.foldl (fun m cl => min m (free cl)) 64
    let c3 := keepBest c3 fun cl => free cl == least
    let c4 := match c.classOf l.kdesc with
      | some 1 => c3
      | none => c3
      | some k => keepBest c3 fun cl => s.teams.any fun t => t.cluster == cl && match s.launch t.lage with
          | some l' => (s.ctx l'.slot).classOf l'.kdesc == some (2 - k)
          | none => false
    (c4.head?, pages.isNone)

/-! ## Dispatch (R290, R12, R13, R22) -/

/-- The role of a team-wide index, with the index in the role (R12). -/
def roleAt : List RoleWord → Nat → Nat → Option (Nat × Nat × RoleWord)
  | [], _, _ => none
  | r :: rs, n, i => if i < r.groups then some (n, i, r) else roleAt rs (n + 1) (i - r.groups)

/-- GDIM (R23). -/
def Launch.gdim (l : Launch) : DWord := BitVec.ofNat 64 ((l.gx - 1) + (l.gy - 1) * 2 ^ 32 + (l.gz - 1) * 2 ^ 48)

/-- The registers at group start (R22, R23). -/
def startRegs (vbud argp : Nat) : Regs :=
  let a := BitVec.ofNat 64 argp
  { v := List.replicate vbud (List.replicate 32 0), s := [a.setWidth 32, (a >>> 32).setWidth 32] ++ List.replicate 62 0,
    a := a :: List.replicate 63 0, p := 0xFFFFFFFF :: List.replicate 63 0, slip := 16, tvec := 0, tcmp := 0x0E10FFFFFFFFFFFF,
    seed := 0, fmtb := 0 }

/-- A new group of a team (R22). -/
def newGroup (l : Launch) (d : KDesc) (t : Team) (i : Nat) (place : Nat × Nat) (rbase : BitVec 40) (now : Nat) : Group :=
  let (role, ri, rw) := (roleAt d.roles 0 i).getD (0, 0, ⟨1, 8, 1⟩)
  { gid := ⟨t.cluster, place.1, place.2⟩, slot := l.slot, tag := t.tag, lage := l.age, tlin := t.tlin, tx := t.tx, ty := t.ty, tz := t.tz,
    gdim := l.gdim, tgidx := i, ridx := ri, role := role, rgroups := rw.groups, nroles := d.roles.length - 1,
    tgroups := (d.roles.map (·.groups)).sum, part := l.part, prio := l.prio, dmode := l.dmode, quantum := if l.dmode then l.quant else 0,
    vbud := rw.vregs, sbud := rw.sregs, centry := d.centry, aentry := d.aentry, rbase := rbase.setWidth 64 <<< 16,
    regs := startRegs rw.vregs l.argp, flags := List.replicate 12 0, q := [[], [], [], []], qh := [0, 0, 0, 0], qb := [], retired := 0,
    raised := List.replicate 5 0, paths := [{ id := 0, pc := d.centry, exec := 0xFFFFFFFF, held := 0xFFFFFFFF, since := now }], ents := [],
    nextPid := 1, apc := d.aentry, ast := if d.aentry = 0 then .absent else .run, aline := none, ayield := 0, astall := false, qbar := 0,
    ops := [], acks := 0, openLeft := [], openN := 0, openFail := none, batches := [], lastb := 0, bwait := [], armed := true,
    held := false, trig := false, inh := false, frame := none, trapPaths := [], trapEnts := [], trapAst := .absent, rq := [], st := .run,
    vres := if rw.vregs ≤ 128 then List.range rw.vregs else [], vdirty := [], vwr := [], vneed := none, vbad := [], filed := [], qn := 0, qend := false,
    cbuf := [], fresh := [], pend := none, apassed := [], asince := now }

/-- The first launch of a kernel descriptor that has no class begins to be measured (R296). -/
def State.beginMeasure (s : State) (l : Launch) : State :=
  let c := s.ctx l.slot
  if (c.classOf l.kdesc).isSome || c.meas.any (fun (m : Measure) => m.kdesc == l.kdesc) then s
  else s.setCtx l.slot { c with meas := c.meas ++ [⟨l.kdesc, l.age, s.clock.toNat, 0⟩] }

/-- A team is dispatched to a cluster with what it takes (R22, R77, R169, R291); a further team of a task launch becomes pending (R299).
Team tags are 32 bits wide and never 0 (R255). -/
def State.startTeam (s : State) (l : Launch) (d : KDesc) (cl t : Nat) (f : Fit) : State :=
  let team : Team :=
    { tag := s.nextTag, lage := l.age, slot := l.slot, cluster := cl, part := l.part, tlin := t, tx := t % l.gx, ty := t / l.gx % l.gy,
      tz := t / (l.gx * l.gy), pclass := l.pclass, prio := l.prio, dmode := l.dmode, shBase := f.shBase, shBytes := d.shbytes, ztiles := f.tiles }
  let now := s.clock.toNat
  let gs := f.slots.zipIdx.map fun p => newGroup l d team p.2 p.1 (Config.rbase l.slot (s.free + p.2)) now
  let g0 := granuleOf (keyShared cl f.shBase)
  let isTile (k : Nat) : Bool := f.tiles.any fun z => decide (tileBase cl z ≤ k) && decide (k < tileBase cl (z + 1))
  let s := { s with
    nextTag := if s.nextTag + 1 = 2 ^ 32 then 1 else s.nextTag + 1, free := s.free + gs.length, teams := s.teams ++ [team], groups := s.groups ++ gs,
    fe := s.fe.filter (fun x => !(decide (g0 ≤ x) && decide (x < g0 + round4k d.shbytes / 64))),
    tiles := s.tiles.filter fun p => !isTile p.1 }
  let used := (s.ctx l.slot).classes.filter (·.1 == l.kdesc)
  let c := s.ctx l.slot
  let s := (s.setCtx l.slot { c with classes := c.classes.filter (·.1 != l.kdesc) ++ used }).beginMeasure l
  (s.mapL l.age fun l => { l with
    next := l.next + 1, alive := l.alive + 1, lastDisp := now, noRoom := none, mapSkip := false,
    dispatched := if l.task then l.dispatched ++ [t] else l.dispatched, entries := l.entries.filter (·.1 != t) }).readEntries l.age

/-- The level of a launch risen by its waiting (R290). -/
def Launch.aged (l : Launch) (now : Nat) : Launch := match l.ready with
  | some t => { l with risen := max l.risen (min l.prio ((now - t) / 3600000)) }
  | none => l
/-- The effective priority (R290). -/
def Launch.eff (l : Launch) : Nat := l.prio - l.risen

/-- The first launch in the order of R290: effective priority, then age. -/
def firstLaunch (ls : List Launch) : Option Launch := match ls with
  | [] => none
  | l :: r => some (r.foldl (fun a b => if b.eff < a.eff ∨ (b.eff = a.eff ∧ b.age < a.age) then b else a) l)

/-- The first launch has waited 1 ms at effective priority 0 since its last team (R290). -/
def Launch.holds (l : Launch) (now : Nat) : Bool := match l.ready with
  | some t => l.eff == 0 && decide (max l.lastDisp (t + l.prio * 3600000) + 3600000 ≤ now)
  | none => false

/-! ## Who comes first on a cluster (R290, R299, R355) -/

/-- The head of a cluster's ready list of a context, if it is not empty (R299). -/
def State.readyHead (s : State) (cl slot : Nat) : Option (Nat × Nat × Nat) := (s.ctx slot).ready.find? fun r => r.1 == cl

/-- Launches dispatch in the context of a slot at this moment: D-mode ones only at a round of their own context (R290, R311). -/
def Launch.inTurn (l : Launch) (round : Option Nat) : Bool := !l.dmode || round == some l.slot

/-- A ready launch would take a cluster now: its next team fits and may be placed there, or it is a task launch whose task stands at
the head of the cluster's list and fits. A launch whose descriptor has still to be checked counts. -/
def State.wants (s : State) (round : Option Nat) (cl : Nat) (l : Launch) : Bool :=
  s.isReady l && s.partOf cl == l.part && l.inTurn round && match l.desc with
    | none => true
    | some d =>
      if l.task then (s.readyHead cl l.slot).any (fun r => r.2.1 == l.age) && !(s.ctx l.slot).stopMask.getLsbD cl && (s.fits cl l d).isSome
      else (s.placeTeam l d l.next).1 == some cl

/-- The priority of a saved team: its launch's (R355). -/
def State.savedPrio (s : State) (t : SavedTeam) : Nat := match s.launch t.team.lage with
  | some l => l.eff
  | none => t.team.prio

/-- The split-table entries that the fragments of a saved group hold (R160, R357). -/
def Group.splits (g : Group) : List Nat := (g.paths ++ g.trapPaths).filterMap fun (p : Path) => p.split

/-- The resources of a saved team on its cluster: its slots are free, the split-table entries of its fragments are free, and it has a
shared range and tiles (R358, R291, R307, log 98). -/
def State.restoreFit (s : State) (t : SavedTeam) : Option Fit :=
  let free (g : Group) : Bool := g.gone || ((!s.groups.any fun x => x.gid == g.gid && !x.gone) && !g.splits.any (s.splitsUsed g.gid).contains)
  let z := s.freeTiles t.team.cluster
  match s.sharedRange t.team.cluster t.team.shBytes with
  | some b => if t.groups.all free ∧ t.team.ztiles.length ≤ z.length then some ⟨[], b, z.take t.team.ztiles.length⟩ else none
  | none => none

/-- A team that the front end has saved waits for its cluster, and can have it now: it goes ahead of teams not yet dispatched at its
priority (R355). D-mode teams come back at rounds only (R315). -/
def State.restoreFirst (s : State) (round : Option Nat) (cl pri : Nat) : Bool :=
  s.ctxs.any fun (c : Context) => c.state == .active && !c.stopMask.getLsbD cl && c.saved.any fun (t : SavedTeam) =>
    t.byFront && t.team.cluster == cl && (!t.team.dmode || round == some t.team.slot) && decide (s.savedPrio t ≤ pri) && (s.restoreFit t).isSome

/-- The first launch of the partition has waited 1 ms, and this one comes after it (R290). -/
def State.heldBack (s : State) (l : Launch) : Bool :=
  let now := s.clock.toNat
  match firstLaunch ((s.launches.filter fun (x : Launch) => s.isReady x && x.part == l.part).map fun (x : Launch) => x.aged now) with
  | some f => f.age != l.age && f.holds now
  | none => false

/-! ## The offer -/

/-- The offer of a cluster to the launches, in the order of R290: the age and the fit of the one whose next team it takes. D-mode
launches are passed over but at a round of their own context (R311); a team that the front end has saved goes before (R355). -/
def State.offer : Nat → State → Option Nat → Bool → Nat → List Launch → Option (Launch × KDesc × Fit) × List Nat
  | 0, _, _, _, _, _ => (none, [])
  | n + 1, s, round, first, cl, ls =>
    match firstLaunch ls with
    | none => (none, [])
    | some l =>
      let rest := ls.filter (·.age != l.age)
      let p : Option (Launch × KDesc × Fit) × Bool := match l.desc with
        | none => (none, false)
        | some d =>
          if l.task ∨ ¬ l.inTurn round ∨ s.restoreFirst round cl l.eff then (none, false)
          else
            let (c, bad) := s.placeTeam l d l.next
            if c = some cl then ((s.fits cl l d).map fun f => (l, d, f), bad) else (none, bad)
      let note := if p.2 then [l.age] else []
      match p.1 with
      | some r => (some r, note)
      | none =>
        if first && l.holds s.clock.toNat then (none, note)
        else
          let r := State.offer n s round false cl rest
          (r.1, note ++ r.2)

/-- Every ready launch of a partition that has not been checked has its descriptor checked (R16). -/
def State.checkDescs (s : State) (pt : Nat) (round : Option Nat) : State :=
  (s.launches.filter fun l => s.isReady l && l.part == pt && l.desc.isNone && l.inTurn round).foldl (fun t l => t.checkDesc l) s

/-- A map found bad is counted once (R295). -/
def State.noteMaps (s : State) (ages : List Nat) : State :=
  ages.foldl (fun t a => match t.launch a with
    | some l => if l.mapBad then t else
      let c := t.ctx l.slot
      (t.setCtx l.slot { c with mapign := sat32 c.mapign }).mapL a fun l => { l with mapBad := true }
    | none => t) s

/-- A launch asks for room: its next team, or its first eligible task (R292). -/
def State.seeks (s : State) (round : Option Nat) (pt : Nat) (l : Launch) : Bool :=
  l.part == pt && s.isReady l && l.desc.isSome && l.inTurn round && (!l.task || (s.ctx l.slot).ready.any fun r => r.2.1 == l.age)

/-- No cluster of its partition has room for the next team of a launch. -/
def State.roomless (s : State) (l : Launch) : Bool := match l.desc with
  | some d => (s.partClusters l.part).all fun cl => (s.ctx l.slot).stopMask.getLsbD cl || (s.fits cl l d).isNone
  | none => false

/-- From when the next team of each launch of a partition has found no room (R292). -/
def State.noteRoom (s : State) (round : Option Nat) (pt : Nat) : State :=
  { s with launches := s.launches.map fun (l : Launch) =>
      if s.seeks round pt l then { l with noRoom := if s.roomless l then some (l.noRoom.getD s.clock.toNat) else none } else l }

/-- A cluster's free resources are offered once (R290). -/
def State.offerCluster (s : State) (cl : Nat) (round : Option Nat) : Option State :=
  let pt := s.partOf cl
  if 8 ≤ pt then none
  else
    let now := s.clock.toNat
    let s1 := s.checkDescs pt round
    let s1 := { s1 with launches := s1.launches.map fun l => l.aged now }
    let o := State.offer s1.launches.length s1 round true cl (s1.launches.filter fun l => s1.isReady l && l.part == pt)
    let s2 := (s1.noteMaps o.2).noteRoom round pt
    match o.1 with
    | some (l, d, f) => some ({ s2 with free := s2.free + 1 }.startTeam l d cl l.next f)
    | none => if s2 = s then none else some s2

/-- The read of a descriptor meets an error that cannot be corrected: the first ready launch of a cluster's partition that has not
been checked is refused (R16). -/
def State.badDescRead (s : State) (cl : Nat) : Option State :=
  let pt := s.partOf cl
  match firstLaunch (s.launches.filter fun (l : Launch) => s.isReady l && l.part == pt && l.desc.isNone) with
  | none => none
  | some l => match s.rangeKeys noCluster l.slot l.kdesc 64 needR with
    | .ok ks => some ((s.countEcc (ks.headD 0)).refuse l .badDescriptor l.kdesc)
    | .error _ => none

/-- TEAM_DISPATCH (R290, R16). -/
def teamDispatchBody (cl : Nat) (ecc : Bool) (s : State) : Option State := if ecc then s.badDescRead cl else s.offerCluster cl none

/-- PRIORITY_AGING (R290). -/
def priorityAgingBody (age : Nat) (s : State) : Option State :=
  match s.launch age with
  | some l =>
    let l' := l.aged s.clock.toNat
    if s.isReady l ∧ l.risen < l'.risen then some (s.mapL age fun _ => l') else none
  | none => none

/-- PLACEMENT_MAP_TIMEOUT (R293): step 2 is skipped for a team that has waited 10 µs. -/
def placementTimeoutBody (age : Nat) (s : State) : Option State :=
  match s.launch age with
  | some l => if s.isReady l ∧ l.map ≠ 0 ∧ ¬ l.task ∧ ¬ l.mapSkip ∧ l.lastDisp + 36000 ≤ s.clock.toNat then some (s.mapL age fun l => { l with mapSkip := true }) else none
  | none => none

/-- The floating-point operations of the groups of a launch, resident or saved, so far (R296). -/
def State.flopsOf (s : State) (slot lage : Nat) : Nat :=
  let of (gs : List Group) : Nat := ((gs.filter fun (g : Group) => g.lage == lage).map fun (g : Group) => g.flops).sum
  of s.groups + ((s.ctx slot).saved.map fun (t : SavedTeam) => of t.groups).sum

/-- The class of a ratio of operations to bytes (R296): memory-bound, balanced or compute-bound; of nothing counted, a free value. -/
def intensityClass (flops bytes pick : Nat) : Nat :=
  if flops = 0 ∧ bytes = 0 then Config.idleClass pick % 3
  else if flops < 64 * bytes then 0 else if 512 * bytes < flops then 2 else 1

/-- INTENSITY_MEASUREMENT_END (R296): 20 µs after the first team of the first launch of a kernel descriptor, or when that launch is
over, the descriptor has its class, for up to 256 of them. The operations are counted; the bytes that its clusters moved to and
from the memory slices, and over Tlanto and PCIe, come with the event, since the model has no caches (log 62). -/
def intensityBody (slot kdesc mem link : Nat) (s : State) : Option State :=
  let c := s.ctx slot
  match c.meas.find? fun (m : Measure) => m.kdesc == kdesc with
  | none => none
  | some m =>
    if c.state ≠ .active ∨ (s.clock.toNat < m.since + 72000 ∧ (s.launch m.lage).isSome) then none
    else
      let l := c.classes ++ [(kdesc, intensityClass (m.flops + s.flopsOf slot m.lage) (mem + link) s.free)]
      some { (s.setCtx slot { c with classes := l.drop (l.length - 256), meas := c.meas.filter (· != m) }) with free := s.free + 1 }

/-! ## Tasks (R298, R299) -/

/-- Bit 0 of the slot-state words at addresses on sync pages. -/
def State.slotBits (s : State) (slot : Nat) (as : List Nat) : Except (FCode × Nat) (List Bool) :=
  as.mapM fun a => match s.translate noCluster slot a { types := [4], r := true } with
    | .ok k => .ok (s.mem.num k 8 % 2 == 1)
    | .error c => .error (c, a)

/-- An eligibility test (R299): an eligible task joins the ready list of its home cluster. -/
def State.testTask (s : State) (l : Launch) (t : Nat) : Option State :=
  match l.entries.find? (·.1 == t) with
    | none => none
    | some (_, ins, outs) => match s.slotBits l.slot ins, s.slotBits l.slot outs with
      | .error p, _ => some (s.frontFault l p.1 p.2)
      | _, .error p => some (s.frontFault l p.1 p.2)
      | .ok xs, .ok ys =>
        let cs := s.partClusters l.part
        if !xs.all id || ys.any id || cs.isEmpty then none
        else
          let c := s.ctx l.slot
          some (s.setCtx l.slot { c with ready := c.ready ++ [(cs.getD (t % cs.length) 0, l.age, t)] })

/-- A task may be tested: its launch is ready and it is pending and not yet eligible. -/
def State.taskPending (s : State) (l : Launch) (t : Nat) : Bool :=
  l.task && s.isReady l && l.pendingTask t && !(s.ctx l.slot).ready.any fun r => r.2.1 == l.age && r.2.2 == t

/-- TASK_ELIGIBILITY_TEST (R298, R299); the launch's descriptor is checked first (R16). -/
def taskTestBody (age t : Nat) (s : State) : Option State :=
  match s.launch age with
  | some l =>
    if !s.taskPending l t || l.dmode then none
    else if l.desc.isNone then some (s.checkDesc l)
    else s.testTask l t
  | none => none

/-- An entry of a ready list may be taken on a cluster now: the cluster is of the launch's partition (R328), and is not kept for a
launch that has waited or for a saved team (R290, R355); D-mode tasks are taken at rounds only (R311). -/
def State.taskNow (s : State) (round : Option Nat) (cl : Nat) (r : Nat × Nat × Nat) : Bool := match s.launch r.2.1 with
  | none => false
  | some l => l.inTurn round && s.isReady l && s.partOf cl == l.part && !(s.ctx l.slot).stopMask.getLsbD cl && !s.heldBack l &&
      !s.restoreFirst round cl l.eff

/-- An entry of a ready list is taken on a cluster: dispatched when it fits (R299). -/
def State.takeTask (s : State) (cl slot : Nat) (r : Nat × Nat × Nat) : Option State :=
  match s.launch r.2.1 with
  | none => none
  | some l => match l.desc with
    | none => none
    | some d =>
      let c := s.ctx slot
      (s.fits cl l d).map fun f => (s.setCtx slot { c with ready := c.ready.filter (· != r) }).startTeam l d cl r.2.2 f

/-- TASK_TAKE (R299). -/
def taskTakeBody (round : Option Nat) (cl slot : Nat) (s : State) : Option State :=
  match s.readyHead cl slot with
  | some r => if s.taskNow round cl r then s.takeTask cl slot r else none
  | none => none

/-- The cluster of the partition whose ready list is longest, the lowest on a tie (R299). -/
def State.victim (s : State) (cl slot : Nat) : Option Nat :=
  let len (c : Nat) : Nat := ((s.ctx slot).ready.filter fun r => r.1 == c).length
  match s.partClusters (s.partOf cl) with
  | [] => none
  | c :: cs =>
    let b := cs.foldl (fun m x => if len m < len x then x else m) c
    if len b = 0 then none else some b

/-- TASK_STEAL (R299): a task that does not fit goes back to the tail of its home list. -/
def taskStealBody (round : Option Nat) (cl slot : Nat) (s : State) : Option State :=
  if (s.readyHead cl slot).isSome ∨ 8 ≤ s.partOf cl ∨ (List.range 4).all (fun p => (s.freeSlots cl p).isEmpty) then none
  else match s.victim cl slot with
    | none => none
    | some v => match s.readyHead v slot with
      | none => none
      | some r =>
        if !s.taskNow round cl r then none
        else match s.takeTask cl slot r with
          | some t => some t
          | none =>
            let c := s.ctx slot
            some (s.setCtx slot { c with ready := c.ready.filter (· != r) ++ [r] })

/-! ## Retirement and completion (R234, R292, R301, R288) -/

/-- The engine commands of a team that are unfinished, streams apart. -/
def State.teamBusy (s : State) (t : Team) : Bool :=
  allEngines.any fun e => ((s.cl t.cluster).queue e).any fun c => c.tag == t.tag && !c.isStream

/-- A team has ended: every group has exited with its counter at zero, and its commands are finished (R234). -/
def State.teamEnded (s : State) (t : Team) : Bool :=
  (s.groups.all fun g => g.tag != t.tag || g.gone) && !s.teamBusy t

/-- The resources of a team are released with its groups; its streams are cancelled (R194, R292). The operations that its groups
have counted stay with the measurement of its launch (R296). -/
def State.releaseTeam (s : State) (t : Team) (flops : Nat) : State :=
  let s := (s.addFlops t.slot t.lage flops)
  let s := allEngines.foldl (fun (s : State) e => s.mapQueue t.cluster e fun q => q.filter (·.tag != t.tag)) s
  { s with teams := s.teams.filter (·.tag != t.tag), groups := s.groups.filter (·.tag != t.tag), cur := {} }

/-- The floating-point operations that the groups of a team have counted (R296). -/
def State.teamFlops (s : State) (t : Team) : Nat := ((s.groups.filter fun (g : Group) => g.tag == t.tag).map fun (g : Group) => g.flops).sum

/-- A level-0 drain or a save is over when no team of the context is left on the named clusters that it waits for: PSTAT
reports it saved (R355). -/
def State.checkDrained (s : State) (slot : Nat) : State :=
  let c := s.ctx slot
  let busy := s.teams.any fun t => t.slot == slot && c.pmask.getLsbD t.cluster
  if (c.pState = .draining ∨ c.pState = .saving) ∧ ¬ busy then s.setCtx slot { c with pState := .saved, pDone := true } else s

/-- TEAM_RETIREMENT (R234, R292). -/
def teamRetirementBody (tag : Nat) (s : State) : Option State :=
  match s.team tag with
  | none => none
  | some t =>
    if s.teamEnded t then some (((s.releaseTeam t (s.teamFlops t)).mapL t.lage fun l => { l with alive := l.alive - 1 }).checkDrained t.slot)
    else none

/-- Every group of the launch that is still there has triggered, or has exited with its counter at zero (R232, R301). -/
def State.allTriggered (s : State) (l : Launch) : Bool :=
  let ok (g : Group) : Bool := g.lage != l.age || g.trig || g.gone
  l.ready.isSome && decide (0 < l.total) && l.next == l.total && s.groups.all ok &&
    (s.ctx l.slot).saved.all fun (t : SavedTeam) => t.groups.all ok

/-- A launch may make its trigger or done decrement (R288, R301, R234, R361). -/
def State.canSignal (s : State) (l : Launch) (done : Bool) : Bool :=
  (s.ctx l.slot).state == .active && !l.dead && s.allTriggered l &&
    (if done then l.trigDone && !l.doneDone && l.alive == 0 else !l.trigDone)

/-- The trigger word or the done word of a launch is decremented (R288). -/
def State.signal (s : State) (l : Launch) (done : Bool) : State :=
  let s := if l.sigp = 0 then s else s.decrement l (l.sigp + (if done then 8 else 0))
  s.mapL l.age fun l => if done then { l with doneDone := true } else { l with trigDone := true }

/-- SIGNAL_DECREMENT (R288); the words of a D-mode launch are decremented at rounds while D-mode groups live (R311). -/
def signalBody (age : Nat) (done : Bool) (s : State) : Option State :=
  match s.launch age with
  | some l => if s.canSignal l done && !(l.dmode && s.liveD l.slot) then some (s.signal l done) else none
  | none => none

/-- LAUNCH_COMPLETION (R234, R285): the launch is counted once its done word has been dealt with. -/
def launchCompletionBody (age : Nat) (s : State) : Option State :=
  match s.launch age with
  | some l => if l.doneDone then some ((s.dropLaunch age).countCompleted l.slot) else none
  | none => none


/-- HOST_LAUNCH_PACKET. -/
def execHostLaunchPacket (slot off : Nat) (bytes : List (BitVec 8)) (s : State) (fn : Nat := 16) : Host.Outcome State Fault Refusal :=
  event (s.atSlot fn slot fun k => hostPacketBody k off bytes)

/-- DEPENDENCE_POLL. -/
def execDependencePoll (age : Nat) (s : State) : Host.Outcome State Fault Refusal := eventOf s (dependencePollBody age s)

/-- TEAM_DISPATCH. -/
def execTeamDispatch (cl : Nat) (s : State) (ecc : Bool := false) : Host.Outcome State Fault Refusal := eventOf s (teamDispatchBody cl ecc s)

/-- PRIORITY_AGING. -/
def execPriorityAging (age : Nat) (s : State) : Host.Outcome State Fault Refusal := eventOf s (priorityAgingBody age s)

/-- PLACEMENT_MAP_TIMEOUT. -/
def execPlacementMapTimeout (age : Nat) (s : State) : Host.Outcome State Fault Refusal := eventOf s (placementTimeoutBody age s)

/-- INTENSITY_MEASUREMENT_END. -/
def execIntensityMeasurementEnd (slot kdesc mem link : Nat) (s : State) : Host.Outcome State Fault Refusal := eventOf s (intensityBody slot kdesc mem link s)

/-- TASK_ELIGIBILITY_TEST. -/
def execTaskEligibilityTest (age t : Nat) (s : State) : Host.Outcome State Fault Refusal := eventOf s (taskTestBody age t s)

/-- TASK_TAKE. -/
def execTaskTake (cl slot : Nat) (s : State) : Host.Outcome State Fault Refusal := eventOf s (taskTakeBody none cl slot s)

/-- TASK_STEAL. -/
def execTaskSteal (cl slot : Nat) (s : State) : Host.Outcome State Fault Refusal := eventOf s (taskStealBody none cl slot s)

/-- TEAM_RETIREMENT. -/
def execTeamRetirement (tag : Nat) (s : State) : Host.Outcome State Fault Refusal := eventOf s (teamRetirementBody tag s)

/-- SIGNAL_DECREMENT. -/
def execSignalDecrement (age : Nat) (done : Bool) (s : State) : Host.Outcome State Fault Refusal := eventOf s (signalBody age done s)

/-- LAUNCH_COMPLETION. -/
def execLaunchCompletion (age : Nat) (s : State) : Host.Outcome State Fault Refusal := eventOf s (launchCompletionBody age s)

end Sys2Proof.Machine
end

