-- ==== Sys2Proof/Machine/Preempt.lean ====
section
/-! DEFINITION. Saving and restoring teams, and pre-emption (R292, R354-R360). -/

namespace Sys2Proof.Machine

/-! ## The context save area (R357) -/

/-- A range of memory replaced by an image given by its non-zero bytes. -/
def State.image (s : State) (k n : Nat) (bs : List (Nat × Byte)) : State :=
  let near (l : Nat) : Bool := decide (lineOf k ≤ l) && decide (l ≤ lineOf (k + n - 1))
  let mark (g : Group) (p : Path) : Path := match p.st with
    | .parked line ports bound woken => { p with st := .parked line ports bound (woken || (near line && g.watches p line)) }
    | _ => p
  { s with
    mem := Mem.setAll (s.mem.filter fun p => !(decide (k ≤ p.1) && decide (p.1 < k + n))) bs,
    groups := s.groups.map fun g => { g with paths := g.paths.map (mark g) } }

/-- Bytes from a key on, as an image. -/
def atKey (k : Nat) (bs : List Byte) : List (Nat × Byte) := bs.zipIdx.map fun p => (k + p.2, p.1)

/-- The physical base of a cluster's record (R357). -/
def Context.csaCluster (c : Context) (cl : Nat) : Nat :=
  c.csabase.toNat / 2 ^ 16 * 2 ^ 16 % 2 ^ 52 + 0x11000000 + 0x400000 * cl

/-- The path that a frame of a group speaks of: the one of an identifier, else the first. -/
def Group.framePath (g : Group) (pid : Option Nat) : Nat × Mask :=
  match pid.bind g.path with
  | some p => (p.pc, p.exec)
  | none => match g.paths with
    | p :: _ => (p.pc, p.exec)
    | [] => (0, 0)

/-- The save frame of a group (R343, R356): as a trap frame, with the fault held over the save (R360). -/
def Group.saveFrame (g : Group) : Frame :=
  let p := g.framePath (g.pend.map fun x => x.2.2)
  let (fpc, code, addr, info) : Nat × Nat × Nat × Nat := match g.pend with
    | some (f, pc, _) => (pc, f.fcode, f.addr, f.finfo)
    | none => (0, 0, 0, 255)
  { cpc := p.1, apc := g.apc, ahalt := g.ahalted, fpc := fpc, fcode := code, faddr := addr, fmask := p.2, finfo := info, rqlive := rqLive g.rq }

/-- The hod-queue positions of a group's record (R357): the data of each entry at its position's index. -/
def Group.hodBytes (g : Group) (b : Nat) : List (Nat × Byte) :=
  (List.range 4).flatMap fun n => (g.q.getD n []).zipIdx.flatMap fun p => match p.1 with
    | .data v => atKey (b + 0x4000 + 0x800 * n + 128 * ((g.qh.getD n 0 + p.2) % 16)) (v.flatMap fun w => bytesOfWord 4 w.toNat)
    | _ => []

/-- A group's record is written at a save (R356 steps 1 and 4): the cancelled loads are the save frame's replay queue, and their flags
have fallen (R48). -/
def State.writeGroupRecord (s : State) (g : Group) : State :=
  let h := g.cancelLoads
  let s := s.writeFrame h h.saveFrame true g.ents g.paths
  let b := (s.ctx g.slot).csaGroup g.gid
  s.image (b + 0x4000) 0x4000 (g.hodBytes b)

/-- The first place of `n` units among `cap`, clear of the ranges in use; `cap` where there is none. -/
def firstFit (cap n : Nat) (used : List (Nat × Nat)) : Nat :=
  ((List.range cap).find? fun b => decide (b + n ≤ cap) && used.all fun u => decide (b + n ≤ u.1) || decide (u.1 + u.2 ≤ b)).getD cap

/-- The Lathe commands that a save keeps. -/
def SavedTeam.latheCmds (t : SavedTeam) : List Cmd := (t.cmds.filter fun p => p.1 == .lathe).map (·.2)

/-- The bytes of a save's Lathe entry `i` (R357): how they hold the command, its team and its position is free (log 43). -/
def latheEntryBytes (pick i : Nat) : List Byte := (List.range 512).map fun j => Config.latheEntry (pick + i) j

/-- The cluster record's share of a team (R357, R356 step 6): its directory entry, shared image, full/empty bits, Lathe entries and
tiles. -/
def State.writeTeamRecord (s : State) (t : SavedTeam) : State :=
  let k := t.dir
  let z := t.zimg
  let b := (s.ctx t.team.slot).csaCluster t.team.cluster
  let mask := (t.groups.map fun g => 2 ^ (16 * g.gid.part + g.gid.slot)).foldl (· ||| ·) 0
  let dir := bytesOfWord 8 t.team.lage ++ bytesOfWord 8 (t.team.tx + t.team.ty * 2 ^ 32 + t.team.tz * 2 ^ 48) ++ bytesOfWord 4 t.team.shBase ++
    bytesOfWord 4 t.team.shBytes ++ bytesOfWord 4 t.team.ztiles.length ++ bytesOfWord 4 z ++ bytesOfWord 8 mask ++ bytesOfWord 8 1 ++ zeros 16
  let n := round4k t.team.shBytes
  let fe := t.fe.foldl (fun m i => m ||| 2 ^ i) 0
  let s := if k < 64 then s.image (b + 64 * k) 64 (atKey (b + 64 * k) dir) else s
  let s := s.image (b + 0x1000 + t.team.shBase) n (t.shared.map fun p => (b + 0x1000 + t.team.shBase + p.1, p.2))
  let s := s.image (b + 0x101000 + t.team.shBase / 512) (n / 512) (atKey (b + 0x101000 + t.team.shBase / 512) (bytesOfWord (n / 512) fe))
  let es := if t.lbase < 32 then t.latheCmds else []
  let s := es.zipIdx.foldl (fun (u : State) p => u.writeBytes (b + 0x101800 + 512 * (t.lbase + p.2)) (latheEntryBytes s.free p.2)) s
  let s := { s with free := s.free + es.length }
  if z < 32 then s.image (b + 0x200000 + 65536 * z) (65536 * t.team.ztiles.length)
    (t.tiles.flatMap fun p => atKey (b + 0x200000 + 65536 * z + 4 * p.1) (bytesOfWord 4 p.2.toNat))
  else s

/-- A restored team's entries in the cluster record are given up: its directory entry is valid no more, its Lathe entries are empty
(R357, log 43). -/
def State.freeTeamRecord (s : State) (t : SavedTeam) : State :=
  let b := (s.ctx t.team.slot).csaCluster t.team.cluster
  let s := if t.dir < 64 then s.image (b + 64 * t.dir + 0x28) 8 [] else s
  if t.lbase < 32 then s.image (b + 0x101800 + 512 * t.lbase) (512 * t.latheCmds.length) [] else s

/-! ## Saving a team (R356) -/

/-- A group has stopped for a save: its awaited replies are in, and its counter is zero (R356 steps 1-2). -/
def Group.quiet (g : Group) : Bool :=
  g.acks == 0 && !g.ops.any Op.awaited && g.cbuf.isEmpty && match g.st with
    | .trapping _ _ _ _ => false
    | _ => true

/-- A team can be saved: its groups are quiet, and the copy, gather, key-value and link engines have finished its
operations (R356 step 3). -/
def State.teamQuiet (s : State) (t : Team) : Bool :=
  (s.groups.all fun g => g.tag != t.tag || g.quiet) &&
    [EngineKind.copy, .gather, .link].all fun e => !((s.cl t.cluster).queue e).any (·.tag == t.tag)

/-- A command as a save records it: a command without restart points begins again (R195). -/
def Cmd.saved (c : Cmd) : Cmd := match c.kind with
  | .lload _ _ _ _ _ | .lstore _ _ _ _ _ _ | .tmatch _ _ _ _ _ _ _ | .tmerge _ _ _ _ _ _ | .tunmerge _ _ _ _ _ => { c with pos := 0, todo := [] }
  | _ => c

/-- What a save keeps of a group: a path enters its line again (R358), a parked one is still parked (R356), and the time of its BWAITs
stands still (R99). -/
def Group.stored (g : Group) (now : Nat) : Group :=
  ({ g with paths := g.paths.map Path.unlatch, aline := none, vneed := none } : Group).tuneBwait now true []

/-- What a save keeps of a team, with its places in the cluster record among the teams that are saved from the cluster already. -/
def State.savedOf (s : State) (t : Team) : SavedTeam :=
  let gs := (s.groups.filter (·.tag == t.tag)).map fun g => g.stored s.clock.toNat
  let same := (s.ctx t.slot).saved.filter fun (x : SavedTeam) => x.team.cluster == t.cluster
  let lo := keyShared t.cluster t.shBase
  let g0 := granuleOf lo
  let cl := s.cl t.cluster
  let cmds (e : EngineKind) : List (EngineKind × Cmd) := ((cl.queue e).filter (·.tag == t.tag)).map fun c => (e, c.saved)
  { team := { t with saving := false, front := false, leaving := false }, groups := gs,
    shared := (s.mem.filter fun p => decide (lo ≤ p.1) && decide (p.1 < lo + t.shBytes)).map fun p => (p.1 - lo, p.2),
    fe := (s.fe.filter fun x => decide (g0 ≤ x) && decide (x < g0 + round4k t.shBytes / 64)).map (· - g0),
    tiles := t.ztiles.zipIdx.flatMap fun p => (s.tiles.filter fun q => decide (tileBase t.cluster p.1 ≤ q.1) && decide (q.1 < tileBase t.cluster (p.1 + 1))).map fun q =>
      (p.2 * 16384 + (q.1 - tileBase t.cluster p.1), q.2),
    cmds := cmds .lathe ++ cmds .trowel, byFront := t.front,
    dir := firstFit 64 1 (same.map fun (x : SavedTeam) => (x.dir, 1)),
    zimg := firstFit 32 t.ztiles.length (same.map fun (x : SavedTeam) => (x.zimg, x.team.ztiles.length)),
    lbase := firstFit 32 (cmds .lathe).length (same.map fun (x : SavedTeam) => (x.lbase, x.latheCmds.length)) }

/-- TEAM_SAVE (R356): the groups' records, the register spaces, the cluster record; the team's resources are released, and the
context's key-value translations on the cluster dropped (R102). -/
def State.saveTeam (s : State) (t : Team) : State :=
  let sv := s.savedOf t
  let s1 := sv.groups.foldl (fun (t : State) g => t.writeGroupRecord g) s
  let out : Except (Gid × Nat) State := sv.groups.foldl (fun (acc : Except (Gid × Nat) State) g => match acc with
    | .error e => .error e
    | .ok u => match u.switchOut g with
      | .ok v => .ok v
      | .error a => .error (g.gid, a)) (.ok s1)
  match out with
  | .error (id, a) => match s1.groupAt id with
    | some gi => s1.regFault gi a
    | none => s1
  | .ok u =>
    let u := (u.writeTeamRecord sv).dropKvAt t.cluster t.slot
    let c := u.ctx t.slot
    (u.setCtx t.slot { c with saved := c.saved ++ [sv] }).releaseTeam t 0

/-- The front end's requests that are over (R292). -/
def State.settleFront (s : State) : State :=
  { s with fePre := s.fePre.filter fun p => s.teams.any fun t => t.front && t.part == p }

/-- A team can be saved at this moment: a save has been asked for, at a round since then where it is a D-mode team (R315), and the
team is quiet. -/
def State.saveNow (s : State) (t : Team) : Bool :=
  t.saving && (!t.dmode || t.leaving) && (s.ctx t.slot).state == .active && s.teamQuiet t

/-- At a round of a context, after its commits, its D-mode teams that a save has been asked for run no further (R315). -/
def State.leave (s : State) (slot : Nat) : State :=
  { s with teams := s.teams.map fun (t : Team) => if t.slot == slot && t.dmode && t.saving then { t with leaving := true } else t }

/-- Every team that a save has been asked for, and that can be saved now, is saved (R355, R356). -/
def State.saveReady (s : State) : State :=
  let s := s.teams.foldl (fun (u : State) t => if u.saveNow t then u.saveTeam t else u) s
  (List.range 64).foldl (fun u k => u.checkDrained k) s.settleFront

/-- Some save that has been asked for can be made now. -/
def State.canSave (s : State) : Bool := s.teams.any s.saveNow

/-! ## Restoring a team (R358) -/

/-- A restored group's held fault is taken, on the path that met it, before its first issue (R358, R360). -/
def State.deliverPend (s : State) (gi : Nat) : State :=
  match s.groups[gi]? with
  | none => s
  | some g => match g.pend with
    | some (f, fpc, pid) =>
      if g.st = .run then State.takeTrap (s.setG gi { g with pend := none, st := .trapping f fpc (g.framePath (some pid)).1 pid, bwait := [] }) gi
      else s
    | none => s

/-- A group put back: parked paths resume as if woken (R356), its plain loads wait to be injected, and the time of its BWAITs goes on
(R99). -/
def Group.putBack (g : Group) (now : Nat) (posted : List Nat) : Group :=
  ({ g.cancelLoads with rq := g.rq, paths := g.paths.map Path.wake } : Group).tuneBwait now false posted

/-- A load of a save frame in flight again (R358): injected, or still at fault where its group has that fault to take, or is stopped. -/
def State.resumeLoad (s : State) (gi : Nat) (old : Group) (o : Op) : State :=
  if o.late.isSome ∧ (old.pend.isSome ∨ old.st ≠ .run) then
    { s with nextId := s.nextId + 1 }.mapG gi fun g => g.addOp { o with id := s.nextId, flag2 := none }
  else s.inject gi { o with flag2 := none }

/-- A restored group: its registers, the loads that its save frame holds, in order, and its held fault (R358). -/
def State.resumeGroup (s : State) (gi : Nat) (old : Group) : State :=
  match s.groups[gi]? with
  | none => s
  | some g => match s.switchIn g with
    | .ok g' =>
      let s := s.setG gi g'
      (((old.ops.filter Op.isPlain).take 8).foldl (fun (u : State) o => u.resumeLoad gi old o) s).deliverPend gi
    | .error a => s.regFault gi a

/-- TEAM_RESTORE's effect (R358). -/
def State.putBack (s : State) (t : SavedTeam) (f : Fit) : State :=
  let cl := t.team.cluster
  let new := keyShared cl f.shBase
  let g0 := granuleOf new
  let s := s.freeTeamRecord t
  let team := { t.team with shBase := f.shBase, ztiles := f.tiles }
  let c := s.ctx t.team.slot
  let s := s.setCtx t.team.slot { c with saved := c.saved.filter (· != t) }
  let s := s.image new t.team.shBytes (t.shared.map fun p => (new + p.1, p.2))
  let s := { s with
    fe := s.fe.filter (fun x => !(decide (g0 ≤ x) && decide (x < g0 + round4k t.team.shBytes / 64))) ++ t.fe.map (g0 + ·), teams := s.teams ++ [team] }
  let s := f.tiles.zipIdx.foldl (fun (u : State) p =>
    u.setTile cl p.1 0 (denseFrom 16384 (p.2 * 16384) (t.tiles.filter fun q => decide (p.2 * 16384 ≤ q.1) && decide (q.1 < (p.2 + 1) * 16384)))) s
  let s := t.cmds.foldl (fun (u : State) p => u.mapQueue cl p.1 (· ++ [p.2])) s
  let n := s.groups.length
  let s := { s with groups := s.groups ++ t.groups.map fun (g : Group) => g.putBack s.clock.toNat c.posted }
  t.groups.zipIdx.foldl (fun (u : State) p => u.resumeGroup (n + p.2) p.1) (s.admitLathe cl)

/-- A restore command is over when none of its teams is left saved (R355). -/
def State.checkRestored (s : State) (slot : Nat) : State :=
  let c := s.ctx slot
  let left := c.saved.any fun (t : SavedTeam) => !t.byFront && c.pmask.getLsbD t.team.cluster
  if c.pState = .restoring ∧ ¬ left then s.setCtx slot { c with pState := .idle, pDone := true } else s

/-- A saved team may be restored now: by command, or the front end's own, when no launch at a higher priority would take its
cluster (R355, R290); a D-mode team at its context's rounds only (R315). -/
def State.mayRestore (s : State) (round : Option Nat) (t : SavedTeam) : Bool :=
  let c := s.ctx t.team.slot
  c.state == .active && (!t.team.dmode || round == some t.team.slot) &&
    if t.byFront then
      !c.stopMask.getLsbD t.team.cluster && !s.launches.any fun (l : Launch) => decide (l.eff < s.savedPrio t) && s.wants round t.team.cluster l
    else c.pState == .restoring && c.pmask.getLsbD t.team.cluster

/-- A saved team is restored if it can be. -/
def State.tryRestore (s : State) (round : Option Nat) (t : SavedTeam) : Option State :=
  if s.mayRestore round t then (s.restoreFit t).map fun f => (s.putBack t f).checkRestored t.team.slot else none

/-- TEAM_RESTORE (R358). -/
def teamRestoreBody (tag : Nat) (s : State) : Option State :=
  match s.ctxs.findSome? fun c => c.saved.find? fun (t : SavedTeam) => t.team.tag == tag with
  | some t => s.tryRestore none t
  | none => none

/-! ## Commands (R354, R355, R360) -/

/-- The front end is saving teams on a cluster that the command names (R360). -/
def State.frontSaves (s : State) (slot : Nat) : Bool :=
  let c := s.ctx slot
  s.teams.any fun t => t.front && t.saving && c.pmask.getLsbD t.cluster

/-- A pre-emption at level 0 or 1 begins (R355). -/
def State.preempt (s : State) (slot level : Nat) : State :=
  let c := s.ctx slot
  let s := s.setCtx slot { c with pState := if level = 0 then .draining else .saving, stopMask := c.stopMask ||| c.pmask }
  let mark (t : Team) : Team := if t.slot == slot && t.pclass == 1 && c.pmask.getLsbD t.cluster then { t with saving := true } else t
  if level = 0 then s.checkDrained slot else { s with teams := s.teams.map mark }.saveReady

/-- A restore command begins (R355). -/
def State.restore (s : State) (slot : Nat) : State :=
  let c := s.ctx slot
  let s := s.setCtx slot { c with pState := .restoring, stopMask := c.stopMask &&& ~~~c.pmask }
  ((s.ctx slot).saved.foldl (fun (u : State) t => if t.byFront then u else (u.tryRestore none t).getD u) s).checkRestored slot

/-- The forced reset of a context (R359). -/
def State.forceReset (s : State) (slot : Nat) : State :=
  let ended := s.launches.filter fun l => l.slot == slot && decide (0 < l.next)
  let s := ((s.teams.filter (·.slot == slot)).foldl (fun (u : State) t => u.releaseTeam t (u.teamFlops t)) s).dropKv slot
  let c := s.ctx slot
  let s := s.setCtx slot { c with
    saved := [], recs := [], mapGen := c.mapGen + 1, pState := .idle, pDone := true, pWait := none, completed := c.completed + ended.length,
    ready := c.ready.filter fun r => !ended.any (·.age == r.2.1) }
  let s := ended.foldl (fun (u : State) l => (u.dropLaunch l.age).post slot { code := FCode.num .contextReset, kind := 2, master := 5, lage := l.age }) s
  s.settleFront

/-- A reset command begins (R359): at once, or at the round that ends the quantum of the context's D-mode groups (R239). -/
def State.beginReset (s : State) (slot : Nat) : State :=
  let c := s.ctx slot
  if s.liveD slot then s.setCtx slot { c with pState := .resetting } else s.forceReset slot

/-- A command that waits is served, once the front end saves no team on its clusters (R360): REJ and DONE fall, and it acts (R354). -/
def State.servePcmd (s : State) (slot : Nat) : State :=
  let c := s.ctx slot
  match c.pWait with
  | none => s
  | some k =>
    if s.frontSaves slot then s
    else
      let s := s.setCtx slot { c with pWait := none, pRej := false, pDone := false, pStart := s.clock.toNat }
      if k = 2 then s.restore slot else if k = 3 then s.beginReset slot else s.preempt slot k

/-- A PCMD write that acts (R354): ignored with REJ while a command is in progress. One that names clusters where the front end is
saving teams waits, and PSTAT stays as it is until it is served (R360); a later one takes its place (log 111). -/
def pcmdBody (slot k : Nat) (s : State) : State :=
  let c := s.ctx slot
  if !c.pDone then s.setCtx slot { c with pRej := true } else (s.setCtx slot { c with pWait := some k }).servePcmd slot

/-- PCMD_NONE (R354). -/
def pcmdNoneBody (slot : Nat) (s : State) : State :=
  let c := s.ctx slot
  s.setCtx slot { c with pRej := !c.pDone }

/-- The deadline of a command in µs (R348). -/
def Context.deadline (c : Context) : Nat := max 1 (c.pdead.toNat % 2 ^ 16)

/-- FORCED_RESET (R359). -/
def forcedResetBody (slot : Nat) (s : State) : Option State :=
  let c := s.ctx slot
  if !c.pDone && decide (c.pStart + 3600 * c.deadline ≤ s.clock.toNat) then some (s.forceReset slot) else none

/-! ## The front end's own pre-emption (R292) -/

/-- The teams of a cluster that a launch may pre-empt, greatest PRIO first, then youngest launch. -/
def State.victims (s : State) (cl : Nat) (l : Launch) : List Team :=
  (s.teams.filter fun t => t.cluster == cl && t.pclass == 1 && decide (l.prio < t.prio) && !t.saving).mergeSort fun a b =>
    decide (b.prio < a.prio) || (a.prio == b.prio && decide (b.lage ≤ a.lage))

/-- The resources once some teams are gone, as far as fitting asks. -/
def State.without (s : State) (ts : List Team) : State :=
  { s with teams := s.teams.filter fun t => !ts.any (·.tag == t.tag), groups := s.groups.filter fun g => !ts.any (·.tag == g.tag) }

/-- The fewest victims on a cluster that let a launch's next team fit (R292). -/
def State.victimsFor (s : State) (cl : Nat) (l : Launch) (d : KDesc) : Option (List Team) :=
  let vs := s.victims cl l
  ((List.range vs.length).map fun i => vs.take (i + 1)).find? fun ts => ((s.without ts).fits cl l d).isSome

/-- FRONT_END_PREEMPTION (R292). -/
def frontPreemptBody (age : Nat) (s : State) : Option State :=
  match s.launch age with
  | none => none
  | some l => match l.desc with
    | none => none
    | some d =>
      let cs := s.partClusters l.part
      let stopped (c : Nat) : Bool := (s.ctx l.slot).stopMask.getLsbD c
      if !s.isReady l || s.fePre.contains l.part || !l.noRoom.any (fun t => decide (t + 72000 ≤ s.clock.toNat)) || !s.roomless l then none
      else ((cs.filter fun c => !stopped c).findSome? fun c => s.victimsFor c l d).map fun ts =>
        let mark (t : Team) : Team := if ts.any (·.tag == t.tag) then { t with saving := true, front := true } else t
        { s with fePre := s.fePre ++ [l.part], teams := s.teams.map mark }.saveReady


/-- TEAM_RESTORE. -/
def execTeamRestore (tag : Nat) (s : State) : Host.Outcome State Fault Refusal := eventOf s (teamRestoreBody tag s)

/-- PREEMPT_TEAM_BOUNDARY (R355). -/
def execPreemptTeamBoundary (slot : Nat) (s : State) (fn : Nat := 16) : Host.Outcome State Fault Refusal := event (s.atSlot fn slot fun k => pcmdBody k 0)

/-- PREEMPT_INSTRUCTION_LEVEL (R355). -/
def execPreemptInstructionLevel (slot : Nat) (s : State) (fn : Nat := 16) : Host.Outcome State Fault Refusal := event (s.atSlot fn slot fun k => pcmdBody k 1)

/-- PCMD_RESTORE (R355). -/
def execPcmdRestore (slot : Nat) (s : State) (fn : Nat := 16) : Host.Outcome State Fault Refusal := event (s.atSlot fn slot fun k => pcmdBody k 2)

/-- PCMD_RESET (R359). -/
def execPcmdReset (slot : Nat) (s : State) (fn : Nat := 16) : Host.Outcome State Fault Refusal := event (s.atSlot fn slot fun k => pcmdBody k 3)

/-- PCMD_NONE (R354). -/
def execPcmdNone (slot : Nat) (s : State) (fn : Nat := 16) : Host.Outcome State Fault Refusal := event (s.atSlot fn slot fun k => pcmdNoneBody k)

/-- FORCED_RESET. -/
def execForcedReset (slot : Nat) (s : State) : Host.Outcome State Fault Refusal := eventOf s (forcedResetBody slot s)

/-- FRONT_END_PREEMPTION. -/
def execFrontEndPreemption (age : Nat) (s : State) : Host.Outcome State Fault Refusal := eventOf s (frontPreemptBody age s)

end Sys2Proof.Machine
end

