-- ==== Sys2Proof/Machine/Round.lean ====
section
/-! DEFINITION. Replies and timers of a group, replayable records and their answers (R302, R309, R339, R347, R348), the ends
of quanta, and commit rounds (R236-R239, R303, R311, R315, R377). -/

namespace Sys2Proof.Machine

/-! ## Replies, timers, traps -/

/-- The front end's answer to a LAUNCH (R302): BAD_LAUNCH, a full queue, or a launch enqueued. -/
def State.launchReply (s : State) (gi : Nat) (g : Group) (o : Op) (bs : List Byte) (px : PReg) : State :=
  if !s.packetOk g.slot bs then s.lateFault gi o { code := .badLaunch }
  else
    let full := decide (4096 ≤ s.qdepth g.slot)
    let s := s.setG gi ((g.setPAll px.toNat o.held (!full)).complete o)
    if full then s else s.enqueue g.slot bs

/-- LAUNCH_REPLY (R302): the answer comes once the accesses that are kept before the LAUNCH are performed (R224). -/
def launchReplyBody (gi k : Nat) (s : State) : Option State :=
  match s.findOp gi k with
  | some (g, o) => match o.kind with
    | .launch bs px => if o.late.isNone ∧ g.mayPerform o ∧ (s.ctx g.slot).state = .active then some (s.launchReply gi g o bs px) else none
    | _ => none
  | none => none

/-- A group issues: it runs, it has a path, its context is active, and its team is not being saved (R330, R338, R356). -/
def State.issues (s : State) (g : Group) : Bool :=
  g.st == .run && !g.paths.isEmpty && s.going g.slot &&
    (s.teamOf g).any fun (t : Team) => !t.leaving && (!t.saving || t.dmode)

/-- TIMER_FIRE (R29, R309). -/
def timerFireBody (gi : Nat) (s : State) : Option State :=
  match s.groups[gi]? with
  | some g => if s.issues g && (s.timerDue g || (g.held && !g.inh)) then some (s.takeTimer gi) else none
  | none => none

/-- TAKE_TRAP (R339): the replies that the trap waits for have come. -/
def takeTrapBody (gi : Nat) (s : State) : Option State :=
  match s.groups[gi]? with
  | some g => match g.st with
    | .trapping _ _ _ _ => if g.ops.any Op.awaited then none else some (s.takeTrap gi)
    | _ => none
  | none => none

/-- REPLAYABLE_FAULT_STOP (R338, R347): a stopped group's record is posted. -/
def replayableStopBody (gi : Nat) (s : State) : Option State :=
  match s.groups[gi]? with
  | some g => match g.st with
    | .stopped _ _ _ none => if (s.ctx g.slot).state = .active ∧ 4 < s.tqFree g.slot then some (s.postReplayable gi) else none
    | _ => none
  | none => none

/-- The cluster and the engine that hold a command. -/
def State.anyCmd (s : State) (id : Nat) : Option (Nat × EngineKind × Cmd) :=
  (List.range 128).findSome? fun cl => ((s.cl cl).findCmd id).map fun x => (cl, x.1, x.2)

/-- REPLAYABLE_RECORD_RETRY (R347): a record that could not be posted is tried again, of group `k`, or of the engine command `k`. -/
def recordRetryBody (slot k : Nat) (s : State) : Option State :=
  match s.groups[k]? with
  | some g => if g.slot = slot then
      match replayableStopBody k s with
      | some t => some t
      | none => cmd
    else cmd
  | none => cmd
where
  /-- The retry of a suspended command. -/
  cmd : Option State := match s.anyCmd k with
    | some (_, e, c) => match c.susp with
      | some (_, a) =>
        let t := s.postCmd e c .pageAbsent a
        if c.slot = slot ∧ t ≠ s then some t else none
      | none => none
    | none => none

/-- MSIX_DEFERRED_RAISE (R346): the raise held back, at the end of the microsecond. -/
def msixDeferredBody (slot : Nat) (s : State) : Option State :=
  let c := s.ctx slot
  if c.msixHeld ∧ c.msixAt + 3600 ≤ s.clock.toNat then
    some (s.setCtx slot { c with msix := c.msix + 1, msixAt := s.clock.toNat, msixHeld := false })
  else none

/-! ## Answers to replayable records (R348) -/

/-- The unanswered record at an index. -/
def Context.record (c : Context) (idx : Nat) : Option Replayable := c.recs.find? fun r => r.seq % c.tqN == idx

/-- A group stopped under a replayable record goes on: the faulting instruction runs again, or for a BREAKPOINT the next one;
for a fault of the A-slice its halted instruction runs again also (R348, R85). -/
def Group.retry (g : Group) : Group :=
  match g.st with
  | .stopped f _ _ _ =>
    let g := { g with st := .run, paths := g.paths.map Path.unlatch }
    if f.aorg.isSome then g.resumeA g.apc else g
  | _ => g

/-- The loads of a group that a late fault of theirs has stopped are made anew (R348, R344). -/
def State.retryLoads (s : State) (gi : Nat) : State :=
  match s.groups[gi]? with
  | none => s
  | some g => (g.ops.filter fun o => o.isPlain && o.late.isSome).foldl (fun (u : State) o => (u.mapG gi fun g => g.dropOp o).inject gi o) s

/-- A resident group is retried (R348); a fault held over a save is then taken before its first issue (R360). -/
def State.retryGroup (s : State) (gi : Nat) : State := ((s.mapG gi Group.retry).retryLoads gi).deliverPend gi

/-- A command goes on, and its group's BWAITs count their time again (R99). -/
def State.retryCmd (s : State) (cl : Nat) (e : EngineKind) (c : Cmd) : State :=
  (s.putCmd cl e { c with susp := none }).tuneOwner c.gid c.tag c.slot

/-- The unfinished commands of a context's saved teams changed. -/
def State.mapSavedCmds (s : State) (slot : Nat) (f : List (EngineKind × Cmd) → List (EngineKind × Cmd)) : State :=
  let c := s.ctx slot
  s.setCtx slot { c with saved := c.saved.map fun (t : SavedTeam) => { t with cmds := f t.cmds } }

/-- A saved team's command goes on when the team is restored (R360). -/
def State.retrySavedCmd (s : State) (slot id : Nat) : State :=
  s.mapSavedCmds slot fun l => l.map fun p => if p.2.id == id then (p.1, { p.2 with susp := none }) else p

/-- What a command that a record's answer ends leaves in its batch: the fault, taken as Fatal (R96, R337). -/
def Cmd.failed (c : Cmd) : FaultInfo := { code := .pageAbsent, addr := (c.susp.map (·.2)).getD 0, fatal := true }

/-- A saved team's command ends failed (R348, R96). -/
def State.failSavedCmd (s : State) (slot id : Nat) : State :=
  match (s.ctx slot).saved.findSome? fun (t : SavedTeam) => t.cmds.find? fun p => p.2.id == id with
  | some (_, c) => (s.mapSavedCmds slot fun l => l.filter fun p => p.2.id != id).mapOwner c.gid c.tag c.slot fun g => g.finishCmd id (some c.failed)
  | none => s

/-- The group that a record names, where it is saved: stopped under that record. -/
def isStoppedBy (seq : Nat) (id : Gid) (g : Group) : Bool := g.gid == id && match g.st with
  | .stopped _ _ _ q => q == some seq
  | _ => false

/-- The group of a saved team that a record names changed. -/
def State.mapSaved (s : State) (slot seq : Nat) (id : Gid) (f : Group → Group) : State :=
  let c := s.ctx slot
  s.setCtx slot { c with saved := c.saved.map fun (t : SavedTeam) => { t with groups := t.groups.map fun g => if isStoppedBy seq id g then f g else g } }

/-- A record has been answered. -/
def State.answered (s : State) (slot : Nat) (r : Replayable) : State :=
  let c := s.ctx slot
  s.setCtx slot { c with recs := c.recs.filter (· != r) }

/-- An answer to the record at an index of an active context (R348): to the group, resident or saved, or to the engine command. -/
def State.answer (s : State) (slot idx : Nat) (here : State → Nat → State) (saved : Group → Group)
    (cmd : State → Nat → EngineKind → Cmd → State) (cmdSaved : State → Nat → State) : Option State :=
  let c := s.ctx slot
  if c.state ≠ .active then none
  else match c.record idx with
    | none => none
    | some r =>
      let s := s.answered slot r
      match r.gid, r.cmd with
      | some id, _ => match s.groups.findIdx? (isStoppedBy r.seq id) with
        | some gi => some (here s gi)
        | none => some (s.mapSaved slot r.seq id saved)
      | none, some k => match s.anyCmd k with
        | some (cl, e, c) => some (cmd s cl e c)
        | none => some (cmdSaved s k)
      | none, none => some s

/-- REPLAY_RETRY (R348). -/
def replayRetryBody (slot idx : Nat) (s : State) : Option State :=
  s.answer slot idx State.retryGroup Group.retry State.retryCmd fun s k => s.retrySavedCmd slot k

/-- A stopped group's fault is delivered as a fatal one (R348, R340), and a fault held over a save after it (R360). -/
def State.failGroup (s : State) (gi : Nat) : State :=
  match s.groups[gi]? with
  | none => s
  | some g => match g.st with
    | .stopped f pc pid _ =>
      let cpc := match g.path pid with
        | some p => p.pc
        | none => pc
      ((s.setG gi { g with st := .trapping { f with fatal := true } pc cpc pid }).takeTrap gi).deliverPend gi
    | _ => s

/-- A saved group holds the fault until it is restored (R348, R358). -/
def Group.failSaved (g : Group) : Group := match g.st with
  | .stopped f pc pid _ => { g with st := .run, pend := g.pend <|> some ({ f with fatal := true }, pc, pid) }
  | _ => g

/-- A suspended command ends failed (R348, R96); KVAPPEND and KVSHARE report what they have done (R105, R106). -/
def State.failCmd (s : State) (cl : Nat) (e : EngineKind) (c : Cmd) : State :=
  (((s.failResult c c.failed.addr).failStream c .pageAbsent c.failed.addr).endCmd cl e c (some c.failed)).tuneOwner c.gid c.tag c.slot

/-- REPLAY_FAIL (R348). -/
def replayFailBody (slot idx : Nat) (s : State) : Option State :=
  s.answer slot idx State.failGroup Group.failSaved State.failCmd fun s k => s.failSavedCmd slot k

/-! ## Commit rounds -/

/-- A group's quantum has ended (R236, R239). -/
def Group.ended (g : Group) : Bool := g.qend || decide (g.quantum ≤ g.qn)

/-- QUANTUM_END (R236). -/
def quantumEndBody (gi : Nat) (s : State) : Option State :=
  match s.groups[gi]? with
  | some g => if g.dmode && !g.qend && decide (g.quantum ≤ g.qn) then some (s.setG gi { g with qend := true }) else none
  | none => none

/-- An operation performed at issue has completed, or is an engine's (R236). -/
def Op.performed (o : Op) : Bool := match o.kind with
  | .engine _ | .coll _ | .accept _ _ | .ldq _ _ _ | .marker => true
  | _ => false

/-- A group of a team that leaves the live groups of its context's rounds for a save (R315). -/
def State.leaves (s : State) (g : Group) : Bool := (s.teamOf g).any fun (t : Team) => t.leaving

/-- A commit round may take place (R237): the context is active, and every live D-mode group of it has ended its quantum and has
no access still in flight. A group that is being saved, or is saved, is no live group (R315, log 110). -/
def State.roundReady (s : State) (slot : Nat) : Bool :=
  (s.ctx slot).state == .active && s.groups.all fun g =>
    g.slot != slot || !g.dmode || g.paths.isEmpty || s.leaves g || (g.ended && g.ops.all Op.performed)

/-- The buffered operations of a group become operations in flight, to be performed in order. -/
def Group.unbuffer (g : Group) : Group := { g with ops := g.ops ++ g.cbuf, cbuf := [] }

/-- The Kiln steps of a request, one after another. -/
def State.allSteps : Nat → State → Nat → Nat → State
  | 0, s, _, _ => s
  | n + 1, s, gi, k => match s.findOp gi k with
    | some (g, o) => if o.late.isSome then s else State.allSteps n (s.stepOp gi g o) gi k
    | none => s

/-- Every Spindle slot that is full completes its phase (R273). -/
def State.spindleAll (s : State) : State :=
  (List.range s.spindle.length).foldl (fun (u : State) k => if (u.spindle[k]?).any (·.full.isSome) then u.spnComplete k else u) s

/-- A request is performed and replied to, or refused (R237). -/
def State.commitKiln (s : State) (gi k n : Nat) : State :=
  let s := (State.allSteps n s gi k).spindleAll
  match s.findOp gi k with
  | some (_, o) => match o.late with
    | some f => s.lateFault gi o f
    | none => s.replyOp gi o
  | none => s

/-- The Lathe works until a command of a cluster has ended: the commands before it in the queue that can go on, and it (R182, R238).
A command that something outside the Lathe holds up is left to end later. -/
def State.drainTo : Nat → State → Nat → Nat → State
  | 0, s, _, _ => s
  | n + 1, s, cl, id =>
    let q := (s.cl cl).lathe
    match q.find? (·.id == id) with
    | none => s
    | some c => match (q.takeWhile (fun (x : Cmd) => x.id != id) ++ [c]).find? fun (x : Cmd) => !x.isStream && s.latheReady cl x with
      | none => s
      | some x => State.drainTo n ((s.latheWork cl x).admitLathe cl) cl id

/-- An engine command is accepted at its commit (R196, R236-R238). A stream that finds the Lathe full is refused; KVAPPEND, KVSHARE
and LREAD are performed, since their results are written at the commit; a general command of the Lathe waits for one of its sixteen
entries, and its flag with it (R176, log 57). -/
def State.commitAccept (s : State) (gi : Nat) (g : Group) (o : Op) (e : EngineKind) (c : Cmd) : State :=
  let cl := g.gid.cluster
  let held : Op := { o with kind := .engine c.id, flag := none, flag2 := none, counted := false }
  match c.kind with
  | .stream _ _ _ _ _ =>
    let full := s.streamsFull cl
    let px := match o.dsts with
      | .p n :: _ => n
      | _ => 0
    let s := s.setG gi ((g.setPAll px o.held (!full)).complete o)
    if full then s else (s.mapQueue cl .lathe (· ++ [c])).acceptStream cl c
  | .xscale _ _ _ _ _ | .xred _ _ _ _ _ =>
    (s.setG gi (g.setOp { o with kind := .coll c.id })).mapQueue cl .link (· ++ [c])
  | .kvappend _ _ _ _ | .kvshare _ _ _ _ _ =>
    let s := (s.setG gi ((g.complete o).addOp held)).mapQueue cl .gather (· ++ [c])
    let r := s.runGather cl c
    r.1.settleCmd cl .gather r.2.1 r.2.2
  | .lmma _ _ _ 0 _ _ _ => s.setG gi ((g.complete o).finishCmd c.id none)
  | _ =>
    if e = .lathe then
      let s := (s.mapQueue cl .lathe (· ++ [c])).admitLathe cl
      match c.kind with
      | .lread _ _ _ => s.drainTo (2 ^ 21) cl c.id
      | _ => s
    else
      let g := g.complete o
      (s.setG gi (if o.dsts.isEmpty then g else g.addOp held)).mapQueue cl e (· ++ [c])

/-- A buffered operation is performed on its group (R237, R303). -/
def State.commitAt (s : State) (gi k : Nat) : State :=
  match s.findOp gi k with
  | none => s
  | some (g, o) => match o.kind with
    | .store _ _ | .fill _ _ _ _ => (s.setG gi (g.complete o)).performStore gi o
    | .fetest acc set px => (s.setG gi (g.complete o)).fetest gi acc (if set then .set else .clr) px
    | .kiln todo _ _ _ _ _ => s.commitKiln gi k todo.length
    | .msend dst payload _ px =>
      let (t, ok) := s.deliverFlit g dst payload
      t.mapG gi fun g => (g.setPAll px.toNat o.held ok).complete o
    | .launch bs px => s.launchReply gi g o bs px
    | .accept e c => s.commitAccept gi g o e c
    | .trigger => s.setG gi { g.complete o with trig := true }
    | _ => s

/-- A buffered operation is performed, once the lines of the registers that it writes are resident (R237, R31). -/
def State.commitOp (s : State) (gi k : Nat) : State :=
  match s.findOp gi k with
  | none => s
  | some (_, o) => s.withLines gi o.dsts fun t => t.commitAt gi k

/-- A group's buffer is applied in program order; a trap that an operation led to is taken after it (R237, R339). -/
def State.commitGroup (s : State) (gi : Nat) : State :=
  match s.groups[gi]? with
  | none => s
  | some g =>
    let ks := g.cbuf.map (·.id)
    (ks.foldl (fun (u : State) k => u.commitOp gi k) (s.setG gi g.unbuffer)).takeTrap gi

/-- The identifier of R237 orders two groups. -/
def Group.idLe (a b : Group) : Bool :=
  decide (a.lage < b.lage) || (a.lage == b.lage && (decide (a.tlin < b.tlin) || (a.tlin == b.tlin && decide (a.tgidx ≤ b.tgidx))))

/-- The resident D-mode groups of a context, in increasing identifier (R237). -/
def State.roundGroups (s : State) (slot : Nat) : List Nat :=
  ((s.groups.zipIdx.filter fun p => p.1.slot == slot && p.1.dmode).mergeSort fun a b => a.1.idLe b.1).map (·.2)

/-- The bytes that more than one group has stored at once since the last round end as the last of those groups in the order of R237
left them, whatever the order of the stores in time (R240, log 112). -/
def State.settleFresh (s : State) (gis : List Nat) : State :=
  let logs := gis.map fun gi => match s.groups[gi]? with
    | some g => g.fresh
    | none => []
  let keys := logs.flatMap fun l => (l.map (·.1)).eraseDups
  s.write (logs.flatMap fun l => (l.filter fun p => decide (1 < keys.count p.1)).map fun p => (p.1, p.2.2))

/-- A group starts its next quantum; a parked path resumes (R239). What its stores have written at once is committed state (R238). -/
def Group.nextQuantum (g : Group) : Group := { g with qn := 0, qend := false, fresh := [], paths := g.paths.map Path.wake }

/-- The D-mode launches of a context, oldest first. -/
def State.dLaunches (s : State) (slot : Nat) : List Launch := s.launches.filter fun l => l.slot == slot && l.dmode

/-- The trigger and done decrements that wait for a round, and zero-size launches that have become ready (R311, R304). -/
def State.roundSignals (s : State) (slot : Nat) : State :=
  (s.dLaunches slot).foldl (fun (u : State) l =>
    if l.total = 0 then (if l.ready.isSome then u.finishZero l else u)
    else
      let u := match u.launch l.age with
        | some l => if u.canSignal l false then u.signal l false else u
        | none => u
      match u.launch l.age with
      | some l => if u.canSignal l true then u.signal l true else u
      | none => u) s

/-- The saves and restores that wait for a round (R315). -/
def State.roundSaves (s : State) (slot : Nat) : State :=
  let s := (s.leave slot).saveReady
  ((s.ctx slot).saved.filter fun (t : SavedTeam) => t.team.dmode).foldl (fun (u : State) t => (u.tryRestore (some slot) t).getD u) s

/-- A reset command that waits for the round is carried out (R239, R359). -/
def State.roundReset (s : State) (slot : Nat) : State := if (s.ctx slot).pState = .resetting then s.forceReset slot else s

/-- The host packets that have waited are accepted in the order they came (R311). -/
def State.roundPackets (s : State) (slot : Nat) : State :=
  let c := s.ctx slot
  c.hostq.foldl (fun (u : State) bs => u.hostPacket slot bs) (s.setCtx slot { c with hostq := [] })

/-- A step repeated while it applies, at most `n` times. -/
def untilNone (f : State → Option State) : Nat → State → State
  | 0, s => s
  | n + 1, s => match f s with
    | some t => untilNone f n t
    | none => s

/-- The eligibility tests of a context's D-mode task launches, in team order (R299, R311). -/
def State.roundTests (s : State) (slot : Nat) : State :=
  ((s.dLaunches slot).filter (·.task)).foldl (fun (u : State) l =>
    let u := if u.isReady l && l.desc.isNone then u.checkDesc l else u
    l.pendingTasks.foldl (fun (u : State) t =>
      match u.launch l.age with
      | some l => if u.taskPending l t then (u.testTask l t).getD u else u
      | none => u) u) s

/-- Dispatch at a round: the clusters in increasing number, each as long as it takes a team (R237, R290); then tasks are tested,
taken and stolen (R299, R311). -/
def State.roundDispatch (s : State) (slot : Nat) : State :=
  let each (f : Nat → State → State) (s : State) : State := (List.range 128).foldl (fun (u : State) cl => f cl u) s
  let waits (u : State) : Bool := (u.dLaunches slot).any u.isReady
  let s := if waits s then untilNone (fun u => (List.range 128).findSome? fun cl => u.offerCluster cl (some slot)) 8192 s else s
  let s := s.roundTests slot
  if (s.ctx slot).ready.isEmpty then s
  else
    let s := each (fun cl => untilNone (taskTakeBody (some slot) cl slot) 64) s
    each (fun cl u => (taskStealBody (some slot) cl slot u).getD u) s

/-- COMMIT_ROUND (R237, R239, R311, R315). -/
def commitRoundBody (slot : Nat) (s : State) : Option State :=
  if !s.roundReady slot then none
  else
    let gis := s.roundGroups slot
    let s := gis.foldl (fun (u : State) gi => u.commitGroup gi) (s.settleFresh gis)
    let live (g : Group) : Bool := g.slot == slot && g.dmode && !s.leaves g
    let s := { s with groups := s.groups.map fun (g : Group) => if live g then g.nextQuantum else g }
    some (((((s.roundSignals slot).roundReset slot).roundSaves slot).roundPackets slot).roundDispatch slot)


/-- LAUNCH_REPLY. -/
def execLaunchReply (g k : Nat) (s : State) : Host.Outcome State Fault Refusal := eventOf s (launchReplyBody g k s)

/-- TIMER_FIRE. -/
def execTimerFire (g : Nat) (s : State) : Host.Outcome State Fault Refusal := eventOf s (timerFireBody g s)

/-- TAKE_TRAP. -/
def execTakeTrap (g : Nat) (s : State) : Host.Outcome State Fault Refusal := eventOf s (takeTrapBody g s)

/-- REPLAYABLE_FAULT_STOP. -/
def execReplayableFaultStop (g : Nat) (s : State) : Host.Outcome State Fault Refusal := eventOf s (replayableStopBody g s)

/-- REPLAYABLE_RECORD_RETRY. -/
def execReplayableRecordRetry (slot k : Nat) (s : State) : Host.Outcome State Fault Refusal := eventOf s (recordRetryBody slot k s)

/-- MSIX_DEFERRED_RAISE. -/
def execMsixDeferredRaise (slot : Nat) (s : State) : Host.Outcome State Fault Refusal := eventOf s (msixDeferredBody slot s)

/-- QUANTUM_END. -/
def execQuantumEnd (g : Nat) (s : State) : Host.Outcome State Fault Refusal := eventOf s (quantumEndBody g s)

/-- COMMIT_ROUND. -/
def execCommitRound (slot : Nat) (s : State) : Host.Outcome State Fault Refusal := eventOf s (commitRoundBody slot s)

/-- REPLAY_RETRY. -/
def execReplayRetry (slot idx : Nat) (s : State) (fn : Nat := 16) : Host.Outcome State Fault Refusal := eventOf s ((s.slotOf fn slot).bind fun k => replayRetryBody k idx s)

/-- REPLAY_FAIL. -/
def execReplayFail (slot idx : Nat) (s : State) (fn : Nat := 16) : Host.Outcome State Fault Refusal := eventOf s ((s.slotOf fn slot).bind fun k => replayFailBody k idx s)

end Sys2Proof.Machine
end

