-- ==== Sys2Proof/Machine/Context.lean ====
section
/-! DEFINITION. Context slots: the control block, activation, release and invalidation (R319-R322, R326, R327), and the
registers that a host writes (R4, R5, R128, R319, R328, R329, R334, R348). A host acts through a function: 0-15 a virtual one, 16 the
physical one. -/

namespace Sys2Proof.Machine

/-! ## Activation (R321, R345) -/

/-- The slots other than `slot` that hold resources (R321). -/
def State.holders (s : State) (slot : Nat) : List Context :=
  ((List.range 64).filter fun k => k != slot && (s.ctx k).state != .free).map s.ctx

/-- Bits of a field that must be zero are not. -/
def badBits (x : Nat) (hi lo : Nat) : Bool := decide (2 ^ (hi + 1) ≤ x) || x % 2 ^ lo != 0

/-- A range of physical addresses lies in HBM or the CXL tier, or the field is zero where zero means none. -/
def tableRange (x n : Nat) (none : Bool) : Bool := (none && x == 0) || rangeDram x n

/-- Checks 2 and 3 of R321, with R345's. -/
def Context.fieldsOk (c : Context) : Bool :=
  let tq := c.tqbase.toNat
  !badBits c.pasid.toNat 19 0 && !badBits c.ptbase.toNat 51 13 && !badBits c.pvbase.toNat 55 16 && !badBits c.plimit.toNat 16 0 &&
    !badBits c.perm.toNat 12 0 && !badBits c.spnslot.toNat 16 0 && !badBits c.wintab.toNat 51 11 && !badBits c.colltab.toNat 51 13 &&
    !badBits c.invaddr.toNat 55 16 && !badBits c.csabase.toNat 51 16 && decide (tq < 2 ^ 52) && tq / 16 % 4 == 0 && decide (tq % 16 ≤ 8) &&
    tableRange c.ptbase.toNat (2 ^ 13) false && tableRange c.wintab.toNat (2 ^ 11) true && tableRange c.colltab.toNat (2 ^ 13) true &&
    decide (1 ≤ c.plimit.toNat) && decide (c.plimit.toNat ≤ 65536) && tq != 0 &&
    tableRange c.tqHeader (64 + 64 * c.tqN) false && tableRange c.csabase.toNat 0x31000000 false &&
    (List.range 4).all (fun d => decide (c.scratch.toNat / 2 ^ (8 * d) % 256 ≤ 64) && decide (c.kilnsh.toNat / 2 ^ (8 * d) % 256 ≤ 128)) &&
    decide (c.spnslot.toNat % 256 + c.spnslot.toNat / 2 ^ 8 % 512 ≤ 256)

/-- The Spindle slots of a context. -/
def Context.spnRange (c : Context) : Nat × Nat := (c.spnslot.toNat % 256, c.spnslot.toNat % 256 + c.spnslot.toNat / 2 ^ 8 % 512)

/-- The lowest free scratchpad range of a context's request on a die, in bytes (log 20). -/
def State.scratchRange (s : State) (slot d : Nat) : Option Nat :=
  let n := (s.ctx slot).scratchBytes d
  let used := ((s.holders slot).map fun c => (c.scrBase.getD d 0, c.scratchBytes d)).filter fun p => p.2 != 0
  if n = 0 then some 0
  else ((List.range 64).map (· * 2 ^ 20)).find? fun b => decide (b + n ≤ 2 ^ 26) && used.all fun p => decide (b + n ≤ p.1) || decide (p.1 + p.2 ≤ b)

/-- Check 4 of R321: the scratchpad ranges, or none when a resource is not available. -/
def State.resources (s : State) (slot : Nat) : Option (List Nat) :=
  let c := s.ctx slot
  let hs := s.holders slot
  let sum (f : Context → Nat) : Nat := ((c :: hs).map f).sum
  let scr := (List.range 4).all fun d => decide (sum (fun c => c.scratch.toNat / 2 ^ (8 * d) % 256) ≤ 64)
  let kiln := (List.range 4).all fun d => decide (sum (fun c => c.kilnsh.toNat / 2 ^ (8 * d) % 256) ≤ 128)
  let r := c.spnRange
  let spn := hs.all fun h => decide (r.2 ≤ h.spnRange.1) || decide (h.spnRange.2 ≤ r.1) || r.1 == r.2 || h.spnRange.1 == h.spnRange.2
  if scr && kiln && spn then (List.range 4).mapM (s.scratchRange slot) else none

/-- The trap queue's header at activation (R346). -/
def State.initTq (s : State) (slot : Nat) : State :=
  let c := s.ctx slot
  s.writeBytes c.tqHeader (zeros 12 ++ bytesOfWord 4 c.tqN)

/-- CONTEXT_ACTIVATION (R320, R321): a write of 1 to STATE. -/
def activate (slot : Nat) (s : State) : State :=
  let c := s.ctx slot
  let err (n : Byte) : State := s.setCtx slot { c with err := n }
  if c.state ≠ .free then s
  else if !s.fw.loaded then err 3
  else if !c.fieldsOk then err 1
  else match s.resources slot with
    | none => err 2
    | some bs => (s.setCtx slot { c with
        state := .active, err := 0, scrBase := bs, mapGen := 1, aevb := { c.aevb with cnt := List.replicate 28 0, hit := 0 },
        accepted := 0, completed := 0, collN := List.replicate 16 0, freeze := { c.freeze with count := 0 }, msix := 0, msixHeld := false, arith := 0 }).initTq slot

/-! ## Release (R322) -/

/-- A release begins: no group is saved, the engine commands are cancelled, the launches discarded. -/
def State.closeCtx (s : State) (slot : Nat) : State :=
  let s := allEngines.foldl (fun (u : State) e => (List.range 128).foldl (fun (u : State) cl => u.mapQueue cl e fun q => q.filter (·.slot != slot)) u) s
  let c := s.ctx slot
  let s := s.setCtx slot { c with
    state := .closing, recs := [], saved := [], ready := [], hostq := [], pState := .idle, pDone := true, pWait := none }
  let s : State := { s with
    launches := s.launches.filter (·.slot != slot), teams := s.teams.map fun t => if t.slot == slot then { t with saving := false, front := false, leaving := false } else t,
    groups := s.groups.map fun g => if g.slot == slot then { g with cbuf := [], bwait := [] } else g }
  s.settleFront

/-- A request of a context is still to complete or to fault (R322). -/
def State.outstanding (s : State) (slot : Nat) : Bool :=
  s.groups.any fun g => g.slot == slot && g.ops.any fun o => o.late.isNone && match o.kind with
    | .load _ _ _ _ _ _ | .store _ _ | .fill _ _ _ _ | .ldq _ _ _ | .kiln _ _ _ _ _ _ | .msend _ _ _ _ | .launch _ _ => true
    | _ => false

/-- The translations that `p` selects leave every buffer (R322, R327). -/
def State.dropTlb (s : State) (p : TlbEntry → Bool) : State :=
  let keep (es : List TlbEntry) : List TlbEntry := es.filter fun e => !p e
  { s with tlbs := ⟨s.tlbs.l1.map keep, s.tlbs.l2.map keep⟩ }

/-- A release ends: the context's resources are free, and its slot (R322). -/
def State.freeCtx (s : State) (slot : Nat) : State :=
  let s := ((s.teams.filter (·.slot == slot)).foldl (fun (u : State) t => u.releaseTeam t 0) s).dropKv slot
  let c := s.ctx slot
  let s := (s.setCtx slot { c with state := .free, wins := [], classes := [], meas := [], stopMask := 0 }).dropTlb fun e => e.slot == slot
  { s with spindle := s.spindle.filter (·.slot != slot), mailers := s.mailers.filter (·.2 != slot) }

/-- CONTEXT_RELEASE (R320, R322): a write of 0 to STATE of an active or frozen context; at a closing one, the end of the release. -/
def releaseBody (slot : Nat) (s : State) : Option State :=
  match (s.ctx slot).state with
  | .free => none
  | .closing => if s.outstanding slot then none else some (s.freeCtx slot)
  | _ => some (s.closeCtx slot)

/-! ## Invalidation (R327) -/

/-- An operation keeps addresses that were translated when it was issued. -/
def Op.translated (o : Op) : Bool := match o.kind with
  | .load _ _ _ _ _ _ | .store _ _ | .fill _ _ _ _ | .ldq _ _ _ | .kiln _ _ _ _ _ _ | .fetest _ _ _ => true
  | _ => false

/-- An access of a context that was issued before its last invalidation is still in flight, or in a commit buffer (R327). -/
def State.invBusy (s : State) (slot : Nat) : Bool :=
  s.groups.any fun g => g.slot == slot && (g.ops ++ g.cbuf).any fun o => o.translated && decide (o.id < (s.ctx slot).invTill)

/-- An invalidation of the entries that `p` selects, and of the window cache with `all`; ignored while one is in progress. -/
def State.invalidate (s : State) (slot npage : Nat) (all : Bool) : State :=
  if s.invBusy slot then s
  else
    let c := s.ctx slot
    let lo := c.invaddr.toNat % 2 ^ 56 / 2 ^ 16
    let hit (e : TlbEntry) : Bool :=
      let n := esize e.leaf / 2 ^ 16
      let b := e.page / n * n
      e.slot == slot && (all || (decide (b < lo + npage) && decide (lo < b + n)))
    let c := { c with invNpage := npage, invAll := all }
    if npage = 0 ∧ !all then s.setCtx slot c
    else (s.setCtx slot { c with invTill := s.nextId, wins := if all then [] else c.wins }).dropTlb hit

/-- INVALIDATION (R327). -/
def invalidationBody (slot npage : Nat) (s : State) : State := s.invalidate slot (npage % 2 ^ 16) false
/-- INVALIDATE_ALL (R327): the page count that is written does not matter, but INVCTL keeps it. -/
def invalidateAllBody (slot npage : Nat) (s : State) : State := s.invalidate slot (npage % 2 ^ 16) true

/-! ## Register writes -/

/-- A write to the context of the slot that a function shows at a place (R334). -/
def State.ctxWrite (s : State) (fn j : Nat) (f : Context → Context) : State := s.atSlot fn j fun k s => s.setCtx k (f (s.ctx k))

/-- A write to a field of a CCB that is writable only while the slot is FREE, and through the physical function where `pfOnly` (R319). -/
def State.ccbWrite (s : State) (fn : Nat) (pfOnly : Bool) (j : Nat) (f : Context → Context) : State :=
  s.ctxWrite fn j fun c => if c.state ≠ .free ∨ (pfOnly ∧ fn ≠ 16) then c else f c

/-- A write to a register of the physical function's own. -/
def whenPf (fn : Nat) (s t : State) : State := if fn = 16 then t else s

/-- A write of INVCTL (R327): with GO an invalidation, else NPAGE and ALL take their values. -/
def State.invctlWrite (s : State) (slot v : Nat) : State :=
  if ebit v 0 then s.invalidate slot (ebits v 23 8) (ebit v 1)
  else s.setCtx slot { s.ctx slot with invNpage := ebits v 23 8, invAll := ebit v 1 }

/-- REGISTER_WRITE (R4, R5, R319, R334): the field takes the value, but for its reserved bits where it keeps none. -/
def registerWriteBody (fn : Nat) (r : HostReg) (v : Nat) (s : State) : State :=
  let w32 : Word := BitVec.ofNat 32 v
  let w64 : DWord := BitVec.ofNat 64 v
  match r with
  | .pasid k => s.ccbWrite fn false k fun c => { c with pasid := w32 }
  | .ptbase k => s.ccbWrite fn false k fun c => { c with ptbase := w64 }
  | .pvbase k => s.ccbWrite fn false k fun c => { c with pvbase := w64 }
  | .plimit k => s.ccbWrite fn false k fun c => { c with plimit := w32 }
  | .perm k => s.ccbWrite fn true k fun c => { c with perm := w32 }
  | .scratch k => s.ccbWrite fn true k fun c => { c with scratch := w32 }
  | .kilnsh k => s.ccbWrite fn true k fun c => { c with kilnsh := w32 }
  | .spnslot k => s.ccbWrite fn true k fun c => { c with spnslot := w32 }
  | .wintab k => s.ccbWrite fn false k fun c => { c with wintab := w64 }
  | .colltab k => s.ccbWrite fn false k fun c => { c with colltab := w64 }
  | .tqbase k => s.ccbWrite fn false k fun c => { c with tqbase := w64 }
  | .csabase k => s.ccbWrite fn false k fun c => { c with csabase := w64 }
  | .invaddr k => s.ctxWrite fn k fun c => { c with invaddr := w64 }
  | .invctl k => s.atSlot fn k fun k s => s.invctlWrite k v
  | .aevCount k f i => s.ctxWrite fn k fun c => if 7 ≤ f ∨ 4 ≤ i then c else { c with aevb := { c.aevb with cnt := c.aevb.cnt.set (4 * f + i) w32 } }
  | .aevThresh k => s.ctxWrite fn k fun c => { c with aevb := { c.aevb with thresh := w32 } }
  | .aevStatus k => s.ctxWrite fn k fun c => { c with aevb := { c.aevb with hit := c.aevb.hit &&& ~~~(BitVec.ofNat 7 v) } }
  | .pdead k => s.ctxWrite fn k fun c => { c with pdead := BitVec.ofNat 32 (v % 2 ^ 16) }
  | .pmask k => s.ctxWrite fn k fun c => { c with pmask := BitVec.ofNat 128 v }
  | .partmap i => whenPf fn s { s with partmap := s.partmap.set i (BitVec.ofNat 128 v) }
  | .vfslot i => whenPf fn s { s with vfslot := s.vfslot.set i w64 }
  | .nonce => { s with quotes := s.quotes.modify fn fun (q : QuoteBox) => { q with nonce := BitVec.ofNat 256 v } }
  | .rsaddr => whenPf fn s { s with rsAddr := BitVec.ofNat 64 (v % 2 ^ 64 / 2 ^ 12 * 2 ^ 12) }
  | .devnum => { s with devnum := v % 2 ^ 12 }
  | .fwImage off => whenPf fn s (if off < 2 ^ 24 then { s with fw := { s.fw with image := s.fw.image.filter (·.1 != off) ++ [(off, BitVec.ofNat 8 v)] } } else s)
  | .readOnly => s

/-- PORTOWN_WRITE (R329): a change of a port's owner empties its FIFO and clears REFUSED. -/
def portownBody (cl port : Nat) (v : BitVec 8) (s : State) : State :=
  let x := s.port cl port
  let own : Byte := v &&& 0xBF
  if x.own = own then s else s.setPort cl port { x with own := own, fifo := [], refused := 0 }


/-- CONTEXT_ACTIVATION. -/
def execContextActivation (slot : Nat) (s : State) (fn : Nat := 16) : Host.Outcome State Fault Refusal := event (s.atSlot fn slot activate)

/-- CONTEXT_RELEASE. -/
def execContextRelease (slot : Nat) (s : State) (fn : Nat := 16) : Host.Outcome State Fault Refusal := eventOf s ((s.slotOf fn slot).bind fun k => releaseBody k s)

/-- INVALIDATION. -/
def execInvalidation (slot npage : Nat) (s : State) (fn : Nat := 16) : Host.Outcome State Fault Refusal := event (s.atSlot fn slot fun k => invalidationBody k npage)

/-- INVALIDATE_ALL. -/
def execInvalidateAll (slot : Nat) (s : State) (npage : Nat := 0) (fn : Nat := 16) : Host.Outcome State Fault Refusal := event (s.atSlot fn slot fun k => invalidateAllBody k npage)

/-- REGISTER_WRITE. -/
def execRegisterWrite (fn : Nat) (r : HostReg) (val : Nat) (s : State) : Host.Outcome State Fault Refusal := event (registerWriteBody fn r val s)

/-- PORTOWN_WRITE. -/
def execPortownWrite (cl port : Nat) (val : BitVec 8) (s : State) : Host.Outcome State Fault Refusal := event (portownBody cl port val s)

end Sys2Proof.Machine
end

