-- ==== Sys2Proof/Machine/Int.lean ====
section
/-! DEFINITION. Class 000: integer arithmetic, logic, shifts, bit fields, compare, select, move (R138-R142). -/

namespace Sys2Proof.Machine

/-- Source B: an operand, or the immediate of an I form (R40). -/
inductive Src
  | r (o : Operand)
  | i (imm : Word)
  deriving DecidableEq, Repr

/-- The immediate as a source of a type (R136). -/
def immVal (ty : Ty) (imm : Word) : DWord := if ty = .i64 then imm.signExtend 64 else imm.setWidth 64

/-- Source B in a lane, for an instruction of type `ty` (R136). -/
def Env.srcB (e : Env) (ty : Ty) (b : Src) (l : Nat) : DWord :=
  match b with
  | .r o => e.rd o ty.is64 l
  | .i imm => immVal ty imm

/-- A 32-bit Source B in a lane: a count, a control word, a selector (R140). -/
def Env.srcB32 (e : Env) (b : Src) (l : Nat) : Word :=
  match b with
  | .r o => e.rd32 o l
  | .i imm => imm

/-- An integer source (R109, R135). -/
def Env.int (e : Env) (ty : Ty) (o : Operand) (l : Nat) : Int := intOf ty (e.rd o ty.is64 l).toNat

/-- Source B as an integer. -/
def Env.intB (e : Env) (ty : Ty) (b : Src) (l : Nat) : Int := intOf ty (e.srcB ty b l).toNat

/-- An exact integer as a lane's result, wrapped to the type and extended by its signedness (R135, R138). -/
def outInt (ty : Ty) (x : Int) : LaneOut := { val := extInt ty x }

/-- Two integers to one (R138). -/
def intBody (ty : Ty) (d a : Operand) (b : Src) (f : Int → Int → Int) : Env → State → Except Stop State :=
  groupBody fun e g => g.alu e true d ty.is64 0 fun l => outInt ty (f (e.int ty a l) (e.intB ty b l))

/-- One integer to one (R138). -/
def int1Body (ty : Ty) (d a : Operand) (f : Int → Int) : Env → State → Except Stop State :=
  groupBody fun e g => g.alu e true d ty.is64 0 fun l => outInt ty (f (e.int ty a l))

/-- IADDC's lane (R139): the sum or difference and the carry or borrow. -/
def iaddcOut (alt : Bool) (x y : Nat) (cin : Bool) : LaneOut :=
  let r : Int := if alt then (x : Int) - y - cin.toNat else (x : Int) + y + cin.toNat
  { val := extInt .n32 r, p := if alt then decide (r < 0) else decide (2 ^ 32 ≤ r) }

/-- IADDC (R139). -/
def iaddcBody (alt : Bool) (d a b : Operand) (ps pd : PReg) : Env → State → Except Stop State :=
  groupBody fun e g => g.alu e true d false pd.toNat fun l =>
    iaddcOut alt (e.rd32 a l).toNat (e.rd32 b l).toNat (e.g.pred ps.toNat l)

/-- IMAD (R138). -/
def imadBody (ty : Ty) (d a : Operand) (b : Src) (c : Operand) : Env → State → Except Stop State :=
  groupBody fun e g => g.alu e true d ty.is64 0 fun l => outInt ty (e.int ty a l * e.intB ty b l + e.int ty c l)

/-- IMADW: a 64-bit sum of a 32-bit product (R138). -/
def imadwBody (ty : Ty) (d a : Operand) (b : Src) (c : Operand) : Env → State → Except Stop State :=
  groupBody fun e g => g.alu e true d true 0 fun l =>
    { val := BitVec.ofInt 64 (e.int ty a l * e.intB ty b l + (e.rd c true l).toNat) }

/-- Byte `j` of a word as an integer. -/
def byteInt (signed : Bool) (x : Word) (j : Nat) : Int :=
  let b := (x >>> (8 * j)).setWidth 8
  if signed then b.toInt else b.toNat

/-- IDP4's lane (R139). -/
def idp4Of (ty : Ty) (sat alt : Bool) (x y c : Word) : DWord :=
  let sg := ty == .i8
  let t : Ty := if sg then .i32 else .n32
  let r := intOf t c.toNat + byteInt sg x 0 * byteInt (sg && !alt) y 0 + byteInt sg x 1 * byteInt (sg && !alt) y 1 +
    byteInt sg x 2 * byteInt (sg && !alt) y 2 + byteInt sg x 3 * byteInt (sg && !alt) y 3
  extInt t (if sat then satInt t r else r)

/-- IDP4 (R139). -/
def idp4Body (ty : Ty) (sat alt : Bool) (d a : Operand) (b : Src) (c : Operand) : Env → State → Except Stop State :=
  groupBody fun e g => g.alu e true d false 0 fun l => { val := idp4Of ty sat alt (e.rd32 a l) (e.srcB32 b l) (e.rd32 c l) }

/-- A bit pattern at the width of `.B32` or `.N64`; `.B32` zero-extends (R134). -/
def clip (ty : Ty) (x : DWord) : DWord := if ty.is64 then x else (x.setWidth 32).setWidth 64

/-- Two bit patterns to one (R140). -/
def logicBody (ty : Ty) (d a : Operand) (b : Src) (f : DWord → DWord → DWord) : Env → State → Except Stop State :=
  groupBody fun e g => g.alu e true d ty.is64 0 fun l => { val := clip ty (f (e.rd a ty.is64 l) (e.srcB ty b l)) }

/-- One bit pattern to one (R140, R142). -/
def logic1Body (ty : Ty) (d a : Operand) (f : DWord → DWord) : Env → State → Except Stop State :=
  groupBody fun e g => g.alu e true d ty.is64 0 fun l => { val := clip ty (f (e.rd a ty.is64 l)) }

/-- Where `a` and `b` have the bits of index `k`. -/
def minterm (k : Nat) (a b : DWord) : DWord :=
  (if k % 2 = 1 then a else ~~~a) &&& (if k / 2 % 2 = 1 then b else ~~~b)

/-- LOP3 (R140): G0 in bits [3:0] where `c` is 0, G1 in bits [7:4] where it is 1. -/
def lop3Of (lut : BitVec 8) (a b c : DWord) : DWord :=
  (List.range 4).foldl (fun x k =>
    x ||| (if lut.getLsbD k then minterm k a b &&& ~~~c else 0) ||| (if lut.getLsbD (k + 4) then minterm k a b &&& c else 0)) 0

/-- LOP3 (R140). -/
def lop3Body (ty : Ty) (d a b c : Operand) (lut : BitVec 8) : Env → State → Except Stop State :=
  groupBody fun e g => g.alu e true d ty.is64 0 fun l =>
    { val := clip ty (lop3Of lut (e.rd a ty.is64 l) (e.rd b ty.is64 l) (e.rd c ty.is64 l)) }

/-- SHL at width `w` (R140). -/
def shlOf (w : Nat) (x : DWord) (n : Word) : DWord :=
  let k := n.toNat % 256
  if w ≤ k then 0 else BitVec.ofNat 64 (x.toNat * 2 ^ k % 2 ^ w)
/-- SHR at width `w` (R140). -/
def shrOf (w : Nat) (x : DWord) (n : Word) : DWord :=
  let k := n.toNat % 256
  if w ≤ k then 0 else BitVec.ofNat 64 (x.toNat % 2 ^ w / 2 ^ k)
/-- SAR at width `w` (R140): a count of `w` or more leaves copies of bit `w - 1`. -/
def sarOf (w : Nat) (x : DWord) (n : Word) : DWord :=
  let y := x.toNat % 2 ^ w
  let v : Int := if 2 ^ (w - 1) ≤ y then (y : Int) - 2 ^ w else y
  BitVec.ofInt 64 (v / 2 ^ (n.toNat % 256) % 2 ^ w)
/-- ROTL at width `w` (R140). -/
def rotlOf (w : Nat) (x : DWord) (n : Word) : DWord :=
  let y := x.toNat % 2 ^ w
  let k := n.toNat % w
  BitVec.ofNat 64 (y * 2 ^ k % 2 ^ w + y / 2 ^ (w - k))

/-- A shift or rotate (R140). -/
def shiftBody (ty : Ty) (d a : Operand) (b : Src) (f : DWord → Word → DWord) : Env → State → Except Stop State :=
  groupBody fun e g => g.alu e true d ty.is64 0 fun l => { val := clip ty (f (e.rd a ty.is64 l) (e.srcB32 b l)) }

/-- FSHL (R140): bits [63:32] of `a:c` shifted left. -/
def fshlOf (a n c : Word) : Word := (((a ++ c : DWord) <<< (n.toNat % 32)) >>> 32).setWidth 32

/-- BFI (R140). -/
def bfiOf (a ctl c : Word) : Word :=
  let pos := ctl.toNat % 256
  let len := ctl.toNat / 256 % 256
  if len = 0 ∨ 32 ≤ pos then a
  else
    let m := BitVec.ofNat 32 ((2 ^ len - 1) * 2 ^ pos)
    (a &&& ~~~m) ||| (BitVec.ofNat 32 (c.toNat * 2 ^ pos) &&& m)

/-- BYTEP (R140). -/
def bytepOf (a sel c : Word) : Word :=
  let byte (j : Nat) : BitVec 8 :=
    let k := sel.toNat / 2 ^ (4 * j) % 16
    if 8 ≤ k then 0 else ((c ++ a : DWord) >>> (8 * k)).setWidth 8
  byte 3 ++ byte 2 ++ byte 1 ++ byte 0

/-- Three words to one; `b` is the second (R140). -/
def word3Body (d a : Operand) (b : Src) (c : Operand) (f : Word → Word → Word → Word) : Env → State → Except Stop State :=
  groupBody fun e g => g.alu e true d false 0 fun l => { val := (f (e.rd32 a l) (e.srcB32 b l) (e.rd32 c l)).setWidth 64 }

/-- BFX (R140): positions above 31 read as the sign for `.I32`, as zero for `.N32`. -/
def bfxOf (ty : Ty) (a ctl : Word) : Int :=
  let pos := ctl.toNat % 256
  let len := ctl.toNat / 256 % 256
  let m := intOf ty a.toNat / 2 ^ pos % 2 ^ len
  if ty.isSigned ∧ 0 < len ∧ 2 ^ (len - 1) ≤ m then m - 2 ^ len else m

/-- BFX (R140). -/
def bfxBody (ty : Ty) (d a : Operand) (b : Src) : Env → State → Except Stop State :=
  groupBody fun e g => g.alu e true d false 0 fun l => outInt ty (bfxOf ty (e.rd32 a l) (e.srcB32 b l))

/-- Ones in the low `w` bits (R140). -/
def popcOf (w : Nat) (x : DWord) : Nat := ((List.range w).filter fun i => x.getLsbD i).length
/-- Zeros above the highest one of the low `w` bits (R140). -/
def clzOf (w : Nat) (x : DWord) : Nat := ((List.range w).find? fun i => x.getLsbD (w - 1 - i)).getD w
/-- Zeros below the lowest one of the low `w` bits (R140). -/
def ctzOf (w : Nat) (x : DWord) : Nat := ((List.range w).find? fun i => x.getLsbD i).getD w

/-- POPC, CLZ, CTZ: a 32-bit count (R140). -/
def countBody (ty : Ty) (d a : Operand) (f : DWord → Nat) : Env → State → Except Stop State :=
  groupBody fun e g => g.alu e true d false 0 fun l => { val := BitVec.ofNat 64 (f (e.rd a ty.is64 l)) }

/-- BREV of the low `w` bits (R140). -/
def brevOf (w : Nat) (x : DWord) : DWord :=
  (List.range w).foldl (fun y i => if x.getLsbD (w - 1 - i) then y ||| (1#64 <<< i) else y) 0

/-- The comparisons of R141. -/
def cmpInt (c : CmpOp) (x y : Int) : Bool :=
  match c with
  | .eq => decide (x = y)
  | .ne => decide (x ≠ y)
  | .lt => decide (x < y)
  | .le => decide (x ≤ y)
  | .gt => decide (y < x)
  | .ge => decide (y ≤ x)
  | .un => false
  | .ord => true

/-- The combination with PS (R141). -/
def combineP (k : Combine) (x ps : Bool) : Bool :=
  match k with
  | .none => x
  | .and => x && ps
  | .or => x || ps
  | .xor => x != ps

/-- ISET (R141): a predicate in the C-slice, 1 or 0 in an A register. -/
def isetBody (ty : Ty) (c : CmpOp) (k : Combine) (ps pd : PReg) (d a : Operand) (b : Src) : Env → State → Except Stop State :=
  groupBody fun e g => g.alu e (e.sl == .a) d false pd.toNat fun l =>
    let r := combineP k (cmpInt c (e.int ty a l) (e.intB ty b l)) (e.g.pred ps.toNat l)
    { val := if r then 1 else 0, p := r }

/-- SEL (R142). -/
def selBody (ty : Ty) (ps : PReg) (d a : Operand) (b : Src) (c : Operand) : Env → State → Except Stop State :=
  groupBody fun e g => g.alu e true d ty.is64 0 fun l =>
    let k := match e.sl with
      | .c => e.g.pred ps.toNat l
      | .a => e.rd c true l != 0
    { val := clip ty (if k then e.rd a ty.is64 l else e.srcB ty b l) }

/-- MOVI (R142). -/
def moviBody (ty : Ty) (d : Operand) (imm : Word) : Env → State → Except Stop State :=
  groupBody fun e g => g.alu e true d ty.is64 0 fun _ => { val := immVal ty imm }

/-- LEA's sum (R142). -/
def leaOf (ty : Ty) (a b : DWord) (sh : Nat) : DWord :=
  let b' : DWord := match ty with
    | .i32 => (b.setWidth 32).signExtend 64
    | .n32 => (b.setWidth 32).setWidth 64
    | _ => b
  a + (b' <<< sh)

/-- LEA (R142): a 64-bit sum. -/
def leaBody (ty : Ty) (sh : BitVec 3) (d a : Operand) (b : Src) : Env → State → Except Stop State :=
  groupBody fun e g => g.alu e true d true 0 fun l => { val := leaOf ty (e.rd a true l) (e.srcB ty b l) sh.toNat }


/-- IADD (R138). -/
def execIadd (h : Head) (ty : Ty) (d : Operand) (a : Operand) (b : Operand) (s : State) : Host.Outcome State Fault Refusal :=
  issue (.iadd h ty d a b) (intBody ty d a (.r b) (fun x y => x + y)) s

/-- IADD (R138), I form (R136). -/
def execIaddI (h : Head) (ty : Ty) (d : Operand) (a : Operand) (imm : Word) (s : State) : Host.Outcome State Fault Refusal :=
  issue (.iaddI h ty d a imm) (intBody ty d a (.i imm) (fun x y => x + y)) s

/-- ISUB (R138). -/
def execIsub (h : Head) (ty : Ty) (d : Operand) (a : Operand) (b : Operand) (s : State) : Host.Outcome State Fault Refusal :=
  issue (.isub h ty d a b) (intBody ty d a (.r b) (fun x y => x - y)) s

/-- ISUB (R138), I form (R136). -/
def execIsubI (h : Head) (ty : Ty) (d : Operand) (a : Operand) (imm : Word) (s : State) : Host.Outcome State Fault Refusal :=
  issue (.isubI h ty d a imm) (intBody ty d a (.i imm) (fun x y => x - y)) s

/-- IADDS (R138). -/
def execIadds (h : Head) (ty : Ty) (d : Operand) (a : Operand) (b : Operand) (s : State) : Host.Outcome State Fault Refusal :=
  issue (.iadds h ty d a b) (intBody ty d a (.r b) (fun x y => satInt ty (x + y))) s

/-- IADDS (R138), I form (R136). -/
def execIaddsI (h : Head) (ty : Ty) (d : Operand) (a : Operand) (imm : Word) (s : State) : Host.Outcome State Fault Refusal :=
  issue (.iaddsI h ty d a imm) (intBody ty d a (.i imm) (fun x y => satInt ty (x + y))) s

/-- ISUBS (R138). -/
def execIsubs (h : Head) (ty : Ty) (d : Operand) (a : Operand) (b : Operand) (s : State) : Host.Outcome State Fault Refusal :=
  issue (.isubs h ty d a b) (intBody ty d a (.r b) (fun x y => satInt ty (x - y))) s

/-- ISUBS (R138), I form (R136). -/
def execIsubsI (h : Head) (ty : Ty) (d : Operand) (a : Operand) (imm : Word) (s : State) : Host.Outcome State Fault Refusal :=
  issue (.isubsI h ty d a imm) (intBody ty d a (.i imm) (fun x y => satInt ty (x - y))) s

/-- IMUL (R138). -/
def execImul (h : Head) (ty : Ty) (d : Operand) (a : Operand) (b : Operand) (s : State) : Host.Outcome State Fault Refusal :=
  issue (.imul h ty d a b) (intBody ty d a (.r b) (fun x y => x * y)) s

/-- IMUL (R138), I form (R136). -/
def execImulI (h : Head) (ty : Ty) (d : Operand) (a : Operand) (imm : Word) (s : State) : Host.Outcome State Fault Refusal :=
  issue (.imulI h ty d a imm) (intBody ty d a (.i imm) (fun x y => x * y)) s

/-- IMULH (R138). -/
def execImulh (h : Head) (ty : Ty) (d : Operand) (a : Operand) (b : Operand) (s : State) : Host.Outcome State Fault Refusal :=
  issue (.imulh h ty d a b) (intBody ty d a (.r b) (fun x y => x * y / 2 ^ ty.bits)) s

/-- IMULH (R138), I form (R136). -/
def execImulhI (h : Head) (ty : Ty) (d : Operand) (a : Operand) (imm : Word) (s : State) : Host.Outcome State Fault Refusal :=
  issue (.imulhI h ty d a imm) (intBody ty d a (.i imm) (fun x y => x * y / 2 ^ ty.bits)) s

/-- IMIN (R138). -/
def execImin (h : Head) (ty : Ty) (d : Operand) (a : Operand) (b : Operand) (s : State) : Host.Outcome State Fault Refusal :=
  issue (.imin h ty d a b) (intBody ty d a (.r b) (fun x y => min x y)) s

/-- IMIN (R138), I form (R136). -/
def execIminI (h : Head) (ty : Ty) (d : Operand) (a : Operand) (imm : Word) (s : State) : Host.Outcome State Fault Refusal :=
  issue (.iminI h ty d a imm) (intBody ty d a (.i imm) (fun x y => min x y)) s

/-- IMAX (R138). -/
def execImax (h : Head) (ty : Ty) (d : Operand) (a : Operand) (b : Operand) (s : State) : Host.Outcome State Fault Refusal :=
  issue (.imax h ty d a b) (intBody ty d a (.r b) (fun x y => max x y)) s

/-- IMAX (R138), I form (R136). -/
def execImaxI (h : Head) (ty : Ty) (d : Operand) (a : Operand) (imm : Word) (s : State) : Host.Outcome State Fault Refusal :=
  issue (.imaxI h ty d a imm) (intBody ty d a (.i imm) (fun x y => max x y)) s

/-- IADDC (R139). -/
def execIaddc (h : Head) (alt : Bool) (d : Operand) (a : Operand) (b : Operand) (ps : PReg) (pd : PReg) (s : State) : Host.Outcome State Fault Refusal :=
  issue (.iaddc h alt d a b ps pd) (iaddcBody alt d a b ps pd) s

/-- IMAD (R138). -/
def execImad (h : Head) (ty : Ty) (d : Operand) (a : Operand) (b : Operand) (c : Operand) (s : State) : Host.Outcome State Fault Refusal :=
  issue (.imad h ty d a b c) (imadBody ty d a (.r b) c) s

/-- IMAD (R138), I form (R136). -/
def execImadI (h : Head) (ty : Ty) (d : Operand) (a : Operand) (imm : Word) (c : Operand) (s : State) : Host.Outcome State Fault Refusal :=
  issue (.imadI h ty d a imm c) (imadBody ty d a (.i imm) c) s

/-- IMADW (R138). -/
def execImadw (h : Head) (ty : Ty) (d : Operand) (a : Operand) (b : Operand) (c : Operand) (s : State) : Host.Outcome State Fault Refusal :=
  issue (.imadw h ty d a b c) (imadwBody ty d a (.r b) c) s

/-- IMADW (R138), I form (R136). -/
def execImadwI (h : Head) (ty : Ty) (d : Operand) (a : Operand) (imm : Word) (c : Operand) (s : State) : Host.Outcome State Fault Refusal :=
  issue (.imadwI h ty d a imm c) (imadwBody ty d a (.i imm) c) s

/-- IABS (R138). -/
def execIabs (h : Head) (ty : Ty) (sat : Bool) (d : Operand) (a : Operand) (s : State) : Host.Outcome State Fault Refusal :=
  issue (.iabs h ty sat d a) (int1Body ty d a (fun x => if sat then satInt ty x.natAbs else x.natAbs)) s

/-- INEG (R138). -/
def execIneg (h : Head) (ty : Ty) (sat : Bool) (d : Operand) (a : Operand) (s : State) : Host.Outcome State Fault Refusal :=
  issue (.ineg h ty sat d a) (int1Body ty d a (fun x => if sat then satInt ty (-x) else -x)) s

/-- IDP4 (R139). -/
def execIdp4 (h : Head) (ty : Ty) (sat : Bool) (alt : Bool) (d : Operand) (a : Operand) (b : Operand) (c : Operand) (s : State) : Host.Outcome State Fault Refusal :=
  issue (.idp4 h ty sat alt d a b c) (idp4Body ty sat alt d a (.r b) c) s

/-- IDP4 (R139), I form (R136). -/
def execIdp4I (h : Head) (ty : Ty) (sat : Bool) (alt : Bool) (d : Operand) (a : Operand) (imm : Word) (c : Operand) (s : State) : Host.Outcome State Fault Refusal :=
  issue (.idp4I h ty sat alt d a imm c) (idp4Body ty sat alt d a (.i imm) c) s

/-- AND (R140). -/
def execAnd (h : Head) (ty : Ty) (d : Operand) (a : Operand) (b : Operand) (s : State) : Host.Outcome State Fault Refusal :=
  issue (.and h ty d a b) (logicBody ty d a (.r b) (fun x y => x &&& y)) s

/-- AND (R140), I form (R136). -/
def execAndI (h : Head) (ty : Ty) (d : Operand) (a : Operand) (imm : Word) (s : State) : Host.Outcome State Fault Refusal :=
  issue (.andI h ty d a imm) (logicBody ty d a (.i imm) (fun x y => x &&& y)) s

/-- OR (R140). -/
def execOr (h : Head) (ty : Ty) (d : Operand) (a : Operand) (b : Operand) (s : State) : Host.Outcome State Fault Refusal :=
  issue (.or h ty d a b) (logicBody ty d a (.r b) (fun x y => x ||| y)) s

/-- OR (R140), I form (R136). -/
def execOrI (h : Head) (ty : Ty) (d : Operand) (a : Operand) (imm : Word) (s : State) : Host.Outcome State Fault Refusal :=
  issue (.orI h ty d a imm) (logicBody ty d a (.i imm) (fun x y => x ||| y)) s

/-- XOR (R140). -/
def execXor (h : Head) (ty : Ty) (d : Operand) (a : Operand) (b : Operand) (s : State) : Host.Outcome State Fault Refusal :=
  issue (.xor h ty d a b) (logicBody ty d a (.r b) (fun x y => x ^^^ y)) s

/-- XOR (R140), I form (R136). -/
def execXorI (h : Head) (ty : Ty) (d : Operand) (a : Operand) (imm : Word) (s : State) : Host.Outcome State Fault Refusal :=
  issue (.xorI h ty d a imm) (logicBody ty d a (.i imm) (fun x y => x ^^^ y)) s

/-- ANDN (R140). -/
def execAndn (h : Head) (ty : Ty) (d : Operand) (a : Operand) (b : Operand) (s : State) : Host.Outcome State Fault Refusal :=
  issue (.andn h ty d a b) (logicBody ty d a (.r b) (fun x y => x &&& ~~~y)) s

/-- ANDN (R140), I form (R136). -/
def execAndnI (h : Head) (ty : Ty) (d : Operand) (a : Operand) (imm : Word) (s : State) : Host.Outcome State Fault Refusal :=
  issue (.andnI h ty d a imm) (logicBody ty d a (.i imm) (fun x y => x &&& ~~~y)) s

/-- ORN (R140). -/
def execOrn (h : Head) (ty : Ty) (d : Operand) (a : Operand) (b : Operand) (s : State) : Host.Outcome State Fault Refusal :=
  issue (.orn h ty d a b) (logicBody ty d a (.r b) (fun x y => x ||| ~~~y)) s

/-- ORN (R140), I form (R136). -/
def execOrnI (h : Head) (ty : Ty) (d : Operand) (a : Operand) (imm : Word) (s : State) : Host.Outcome State Fault Refusal :=
  issue (.ornI h ty d a imm) (logicBody ty d a (.i imm) (fun x y => x ||| ~~~y)) s

/-- NOT (R140). -/
def execNot (h : Head) (ty : Ty) (d : Operand) (a : Operand) (s : State) : Host.Outcome State Fault Refusal :=
  issue (.not h ty d a) (logic1Body ty d a (fun x => ~~~x)) s

/-- LOP3 (R140). -/
def execLop3 (h : Head) (ty : Ty) (d : Operand) (a : Operand) (b : Operand) (c : Operand) (lut : BitVec 8) (s : State) : Host.Outcome State Fault Refusal :=
  issue (.lop3 h ty d a b c lut) (lop3Body ty d a b c lut) s

/-- SHL (R140). -/
def execShl (h : Head) (ty : Ty) (d : Operand) (a : Operand) (b : Operand) (s : State) : Host.Outcome State Fault Refusal :=
  issue (.shl h ty d a b) (shiftBody ty d a (.r b) (shlOf (Ty.bits ty))) s

/-- SHL (R140), I form (R136). -/
def execShlI (h : Head) (ty : Ty) (d : Operand) (a : Operand) (imm : Word) (s : State) : Host.Outcome State Fault Refusal :=
  issue (.shlI h ty d a imm) (shiftBody ty d a (.i imm) (shlOf (Ty.bits ty))) s

/-- SHR (R140). -/
def execShr (h : Head) (ty : Ty) (d : Operand) (a : Operand) (b : Operand) (s : State) : Host.Outcome State Fault Refusal :=
  issue (.shr h ty d a b) (shiftBody ty d a (.r b) (shrOf (Ty.bits ty))) s

/-- SHR (R140), I form (R136). -/
def execShrI (h : Head) (ty : Ty) (d : Operand) (a : Operand) (imm : Word) (s : State) : Host.Outcome State Fault Refusal :=
  issue (.shrI h ty d a imm) (shiftBody ty d a (.i imm) (shrOf (Ty.bits ty))) s

/-- SAR (R140). -/
def execSar (h : Head) (ty : Ty) (d : Operand) (a : Operand) (b : Operand) (s : State) : Host.Outcome State Fault Refusal :=
  issue (.sar h ty d a b) (shiftBody ty d a (.r b) (sarOf (Ty.bits ty))) s

/-- SAR (R140), I form (R136). -/
def execSarI (h : Head) (ty : Ty) (d : Operand) (a : Operand) (imm : Word) (s : State) : Host.Outcome State Fault Refusal :=
  issue (.sarI h ty d a imm) (shiftBody ty d a (.i imm) (sarOf (Ty.bits ty))) s

/-- ROTL (R140). -/
def execRotl (h : Head) (ty : Ty) (d : Operand) (a : Operand) (b : Operand) (s : State) : Host.Outcome State Fault Refusal :=
  issue (.rotl h ty d a b) (shiftBody ty d a (.r b) (rotlOf (Ty.bits ty))) s

/-- ROTL (R140), I form (R136). -/
def execRotlI (h : Head) (ty : Ty) (d : Operand) (a : Operand) (imm : Word) (s : State) : Host.Outcome State Fault Refusal :=
  issue (.rotlI h ty d a imm) (shiftBody ty d a (.i imm) (rotlOf (Ty.bits ty))) s

/-- FSHL (R140). -/
def execFshl (h : Head) (d : Operand) (a : Operand) (b : Operand) (c : Operand) (s : State) : Host.Outcome State Fault Refusal :=
  issue (.fshl h d a b c) (word3Body d a (.r b) c fshlOf) s

/-- FSHL (R140), I form (R136). -/
def execFshlI (h : Head) (d : Operand) (a : Operand) (imm : Word) (c : Operand) (s : State) : Host.Outcome State Fault Refusal :=
  issue (.fshlI h d a imm c) (word3Body d a (.i imm) c fshlOf) s

/-- BFI (R140). -/
def execBfi (h : Head) (d : Operand) (a : Operand) (b : Operand) (c : Operand) (s : State) : Host.Outcome State Fault Refusal :=
  issue (.bfi h d a b c) (word3Body d a (.r b) c bfiOf) s

/-- BFI (R140), I form (R136). -/
def execBfiI (h : Head) (d : Operand) (a : Operand) (imm : Word) (c : Operand) (s : State) : Host.Outcome State Fault Refusal :=
  issue (.bfiI h d a imm c) (word3Body d a (.i imm) c bfiOf) s

/-- BYTEP (R140). -/
def execBytep (h : Head) (d : Operand) (a : Operand) (b : Operand) (c : Operand) (s : State) : Host.Outcome State Fault Refusal :=
  issue (.bytep h d a b c) (word3Body d a (.r b) c bytepOf) s

/-- BYTEP (R140), I form (R136). -/
def execBytepI (h : Head) (d : Operand) (a : Operand) (imm : Word) (c : Operand) (s : State) : Host.Outcome State Fault Refusal :=
  issue (.bytepI h d a imm c) (word3Body d a (.i imm) c bytepOf) s

/-- BFX (R140). -/
def execBfx (h : Head) (ty : Ty) (d : Operand) (a : Operand) (b : Operand) (s : State) : Host.Outcome State Fault Refusal :=
  issue (.bfx h ty d a b) (bfxBody ty d a (.r b)) s

/-- BFX (R140), I form (R136). -/
def execBfxI (h : Head) (ty : Ty) (d : Operand) (a : Operand) (imm : Word) (s : State) : Host.Outcome State Fault Refusal :=
  issue (.bfxI h ty d a imm) (bfxBody ty d a (.i imm)) s

/-- POPC (R140). -/
def execPopc (h : Head) (ty : Ty) (d : Operand) (a : Operand) (s : State) : Host.Outcome State Fault Refusal :=
  issue (.popc h ty d a) (countBody ty d a (popcOf (Ty.bits ty))) s

/-- CLZ (R140). -/
def execClz (h : Head) (ty : Ty) (d : Operand) (a : Operand) (s : State) : Host.Outcome State Fault Refusal :=
  issue (.clz h ty d a) (countBody ty d a (clzOf (Ty.bits ty))) s

/-- CTZ (R140). -/
def execCtz (h : Head) (ty : Ty) (d : Operand) (a : Operand) (s : State) : Host.Outcome State Fault Refusal :=
  issue (.ctz h ty d a) (countBody ty d a (ctzOf (Ty.bits ty))) s

/-- BREV (R140). -/
def execBrev (h : Head) (ty : Ty) (d : Operand) (a : Operand) (s : State) : Host.Outcome State Fault Refusal :=
  issue (.brev h ty d a) (logic1Body ty d a (brevOf (Ty.bits ty))) s

/-- ISET (R141). -/
def execIset (h : Head) (ty : Ty) (cmp : CmpOp) (comb : Combine) (pd : PReg) (ps : PReg) (d : Operand) (a : Operand) (b : Operand) (s : State) : Host.Outcome State Fault Refusal :=
  issue (.iset h ty cmp comb pd ps d a b) (isetBody ty cmp comb ps pd d a (.r b)) s

/-- ISET, I form (R141). -/
def execIsetI (h : Head) (ty : Ty) (cmp : CmpOp) (px : PReg) (d : Operand) (a : Operand) (imm : Word) (s : State) : Host.Outcome State Fault Refusal :=
  issue (.isetI h ty cmp px d a imm) (isetBody ty cmp .none 0 px d a (.i imm)) s

/-- SEL (R142). -/
def execSel (h : Head) (ty : Ty) (d : Operand) (a : Operand) (b : Operand) (c : Operand) (ps : PReg) (s : State) : Host.Outcome State Fault Refusal :=
  issue (.sel h ty d a b c ps) (selBody ty ps d a (.r b) c) s

/-- SEL, I form (R142). -/
def execSelI (h : Head) (ty : Ty) (d : Operand) (a : Operand) (imm : Word) (c : Operand) (px : PReg) (s : State) : Host.Outcome State Fault Refusal :=
  issue (.selI h ty d a imm c px) (selBody ty px d a (.i imm) c) s

/-- MOV (R142). -/
def execMov (h : Head) (ty : Ty) (d : Operand) (a : Operand) (s : State) : Host.Outcome State Fault Refusal :=
  issue (.mov h ty d a) (logic1Body ty d a (fun x => x)) s

/-- MOVI (R142). -/
def execMovi (h : Head) (ty : Ty) (d : Operand) (imm : Word) (s : State) : Host.Outcome State Fault Refusal :=
  issue (.movi h ty d imm) (moviBody ty d imm) s

/-- LEA (R142). -/
def execLea (h : Head) (ty : Ty) (d : Operand) (a : Operand) (b : Operand) (sh : BitVec 3) (s : State) : Host.Outcome State Fault Refusal :=
  issue (.lea h ty d a b sh) (leaBody ty sh d a (.r b)) s

/-- LEA, I form (R142). -/
def execLeaI (h : Head) (ty : Ty) (d : Operand) (a : Operand) (imm : Word) (sh : BitVec 3) (s : State) : Host.Outcome State Fault Refusal :=
  issue (.leaI h ty d a imm sh) (leaBody ty sh d a (.i imm)) s

end Sys2Proof.Machine
end

