-- ==== Sys2Proof/Machine/Float.lean ====
section
/-! DEFINITION. Class 001 and the functions and conversions of class 010: floating-point arithmetic, special functions,
FCVT, ICVT (R143-R149). -/

namespace Sys2Proof.Machine

/-- A lane word of Source B in a floating-point instruction (R43, R136). -/
def Env.srcF (e : Env) (t : Ty) (b : Src) (l : Nat) : Word :=
  match b with
  | .r o => e.rdF o t l
  | .i imm => imm

/-- Element `j` of a lane word of type `t` (R109). -/
def elem (t : Ty) (w : Word) (j : Nat) : Nat := w.toNat / 2 ^ (Ty.bits t * j) % 2 ^ Ty.bits t

/-- A lane word with element `j` replaced. -/
def putElem (t : Ty) (w : Word) (j v : Nat) : Word :=
  BitVec.ofNat 32 (w.toNat - elem t w j * 2 ^ (Ty.bits t * j) + v % 2 ^ Ty.bits t * 2 ^ (Ty.bits t * j))

/-- The elements' results and their conditions as a lane's result (R143). -/
def packed (t : Ty) (f : Nat → Nat × Cnd) : LaneOut :=
  (List.range t.count).foldl (fun o j =>
    let r := f j
    { val := o.val + BitVec.ofNat 64 (r.1 % 2 ^ Ty.bits t * 2 ^ (Ty.bits t * j)), cnd := o.cnd ||| r.2 }) {}

/-- Two floating-point sources to one, element by element (R143, R144). -/
def fp2Body (ty : Ty) (d a : Operand) (b : Src) (f : Nat → Nat → Nat × Cnd) : Env → State → Except Stop State :=
  groupBody fun e g => g.alu e true d false 0 fun l =>
    packed ty fun j => f (elem ty (e.rdF a ty l) j) (elem ty (e.srcF ty b l) j)

/-- FFMA (R143). -/
def ffmaBody (ty : Ty) (rnd : Rnd) (sat : Bool) (d a : Operand) (b : Src) (c : Operand) : Env → State → Except Stop State :=
  groupBody fun e g => g.alu e true d false 0 fun l =>
    packed ty fun j => fpFma (fmtOf ty) rnd sat (elem ty (e.rdF a ty l) j) (elem ty (e.srcF ty b l) j) (elem ty (e.rdF c ty l) j)

/-- One FP32 source to a word (R146, R147). -/
def fp1Body (d a : Operand) (f : Nat → Nat × Cnd) : Env → State → Except Stop State :=
  groupBody fun e g => g.alu e true d false 0 fun l =>
    let r := f (e.rdF a .f32 l).toNat
    { val := BitVec.ofNat 64 r.1, cnd := r.2 }

/-- FSCALE (R143): `b` is an integer. -/
def fscaleBody (rnd : Rnd) (sat : Bool) (d a : Operand) (b : Src) : Env → State → Except Stop State :=
  groupBody fun e g => g.alu e true d false 0 fun l =>
    let r := fpScale rnd sat (e.rdF a .f32 l).toNat (e.srcB32 b l).toInt
    { val := BitVec.ofNat 64 r.1, cnd := r.2 }

/-- FSET (R145). -/
def fsetBody (c : CmpOp) (k : Combine) (ps pd : PReg) (a : Operand) (b : Src) : Env → State → Except Stop State :=
  groupBody fun e g => g.alu e false (.v 0) false pd.toNat fun l =>
    let r := fpCmp c (e.rdF a .f32 l).toNat (e.srcF .f32 b l).toNat
    { p := combineP k r.1 (e.g.pred ps.toNat l), cnd := r.2 }

/-- The rounding of a conversion: a mode, or the draw of R116 under STO (R115, R148). -/
def cvtMode (rnd : Rnd) (sto : Bool) (seed : Word) (l j : Nat) (xbits : Word) : RMode :=
  if sto then .sto (draw seed l j xbits) else .dir rnd

/-- FCVT's element (R118, R148): bits and conditions. -/
def fcvtElem (ty sty : Ty) (m : RMode) (rnd : Rnd) (sat : Bool) (x : Nat) : Nat × Cnd :=
  if sty.isFloat then
    if ty.isFloat then cvtFF ty sty m sat x
    else
      let r := cvtFI ty sty rnd x
      ((extInt ty r.1).toNat, r.2)
  else cvtIF ty m sat (intOf sty x)

/-- FCVT (R148). -/
def fcvtBody (ty sty : Ty) (rnd : Rnd) (sto sat : Bool) (ed es : Nat) (d a : Operand) : Env → State → Except Stop State :=
  groupBody fun e g => g.alu e true d ty.is64 0 fun l =>
    let x := if sty.isFloat then elem sty (e.rdF a sty l) es else (e.rd a sty.is64 l).toNat
    let xb : Word := BitVec.ofNat 32 (if sty.isFloat then x else (e.rd a sty.is64 l).toNat % 2 ^ Ty.bits sty)
    let r := fcvtElem ty sty (cvtMode rnd sto e.g.regs.seed l ed xb) rnd sat x
    if ty.count = 1 then { val := BitVec.ofNat 64 r.1, cnd := r.2 }
    else { val := (putElem ty (e.rd32 d l) ed r.1).setWidth 64, cnd := r.2 }

/-- ICVT (R118, R149): the low bits of a narrower type, which SAT clamps; a wider type takes the value extended by the source's signedness.
SAT between types of one width, for which no row of R118 stands, clamps too (log 114). -/
def icvtBody (ty sty : Ty) (sat : Bool) (d a : Operand) : Env → State → Except Stop State :=
  groupBody fun e g => g.alu e true d ty.is64 0 fun l =>
    let x := e.int sty a l
    outInt ty (if sat && decide (ty.bits ≤ sty.bits) then satInt ty x else x)


/-- FADD (R143). -/
def execFadd (h : Head) (ty : Ty) (rnd : Rnd) (sat : Bool) (d : Operand) (a : Operand) (b : Operand) (s : State) : Host.Outcome State Fault Refusal :=
  issue (.fadd h ty rnd sat d a b) (fp2Body ty d a (.r b) (fpAdd (fmtOf ty) rnd sat)) s

/-- FADD (R143), I form (R136). -/
def execFaddI (h : Head) (ty : Ty) (rnd : Rnd) (sat : Bool) (d : Operand) (a : Operand) (imm : Word) (s : State) : Host.Outcome State Fault Refusal :=
  issue (.faddI h ty rnd sat d a imm) (fp2Body ty d a (.i imm) (fpAdd (fmtOf ty) rnd sat)) s

/-- FSUB (R143). -/
def execFsub (h : Head) (ty : Ty) (rnd : Rnd) (sat : Bool) (d : Operand) (a : Operand) (b : Operand) (s : State) : Host.Outcome State Fault Refusal :=
  issue (.fsub h ty rnd sat d a b) (fp2Body ty d a (.r b) (fpSub (fmtOf ty) rnd sat)) s

/-- FSUB (R143), I form (R136). -/
def execFsubI (h : Head) (ty : Ty) (rnd : Rnd) (sat : Bool) (d : Operand) (a : Operand) (imm : Word) (s : State) : Host.Outcome State Fault Refusal :=
  issue (.fsubI h ty rnd sat d a imm) (fp2Body ty d a (.i imm) (fpSub (fmtOf ty) rnd sat)) s

/-- FMUL (R143). -/
def execFmul (h : Head) (ty : Ty) (rnd : Rnd) (sat : Bool) (d : Operand) (a : Operand) (b : Operand) (s : State) : Host.Outcome State Fault Refusal :=
  issue (.fmul h ty rnd sat d a b) (fp2Body ty d a (.r b) (fpMul (fmtOf ty) rnd sat)) s

/-- FMUL (R143), I form (R136). -/
def execFmulI (h : Head) (ty : Ty) (rnd : Rnd) (sat : Bool) (d : Operand) (a : Operand) (imm : Word) (s : State) : Host.Outcome State Fault Refusal :=
  issue (.fmulI h ty rnd sat d a imm) (fp2Body ty d a (.i imm) (fpMul (fmtOf ty) rnd sat)) s

/-- FFMA (R143). -/
def execFfma (h : Head) (ty : Ty) (rnd : Rnd) (sat : Bool) (d : Operand) (a : Operand) (b : Operand) (c : Operand) (s : State) : Host.Outcome State Fault Refusal :=
  issue (.ffma h ty rnd sat d a b c) (ffmaBody ty rnd sat d a (.r b) c) s

/-- FFMA (R143), I form (R136). -/
def execFfmaI (h : Head) (ty : Ty) (rnd : Rnd) (sat : Bool) (d : Operand) (a : Operand) (imm : Word) (c : Operand) (s : State) : Host.Outcome State Fault Refusal :=
  issue (.ffmaI h ty rnd sat d a imm c) (ffmaBody ty rnd sat d a (.i imm) c) s

/-- FMIN (R144). -/
def execFmin (h : Head) (ty : Ty) (d : Operand) (a : Operand) (b : Operand) (s : State) : Host.Outcome State Fault Refusal :=
  issue (.fmin h ty d a b) (fp2Body ty d a (.r b) (fun x y => (fpMinMax (fmtOf ty) false false x y, cNone))) s

/-- FMIN (R144), I form (R136). -/
def execFminI (h : Head) (ty : Ty) (d : Operand) (a : Operand) (imm : Word) (s : State) : Host.Outcome State Fault Refusal :=
  issue (.fminI h ty d a imm) (fp2Body ty d a (.i imm) (fun x y => (fpMinMax (fmtOf ty) false false x y, cNone))) s

/-- FMAX (R144). -/
def execFmax (h : Head) (ty : Ty) (d : Operand) (a : Operand) (b : Operand) (s : State) : Host.Outcome State Fault Refusal :=
  issue (.fmax h ty d a b) (fp2Body ty d a (.r b) (fun x y => (fpMinMax (fmtOf ty) true false x y, cNone))) s

/-- FMAX (R144), I form (R136). -/
def execFmaxI (h : Head) (ty : Ty) (d : Operand) (a : Operand) (imm : Word) (s : State) : Host.Outcome State Fault Refusal :=
  issue (.fmaxI h ty d a imm) (fp2Body ty d a (.i imm) (fun x y => (fpMinMax (fmtOf ty) true false x y, cNone))) s

/-- FMINM (R144). -/
def execFminm (h : Head) (ty : Ty) (d : Operand) (a : Operand) (b : Operand) (s : State) : Host.Outcome State Fault Refusal :=
  issue (.fminm h ty d a b) (fp2Body ty d a (.r b) (fun x y => (fpMinMax (fmtOf ty) false true x y, cNone))) s

/-- FMINM (R144), I form (R136). -/
def execFminmI (h : Head) (ty : Ty) (d : Operand) (a : Operand) (imm : Word) (s : State) : Host.Outcome State Fault Refusal :=
  issue (.fminmI h ty d a imm) (fp2Body ty d a (.i imm) (fun x y => (fpMinMax (fmtOf ty) false true x y, cNone))) s

/-- FMAXM (R144). -/
def execFmaxm (h : Head) (ty : Ty) (d : Operand) (a : Operand) (b : Operand) (s : State) : Host.Outcome State Fault Refusal :=
  issue (.fmaxm h ty d a b) (fp2Body ty d a (.r b) (fun x y => (fpMinMax (fmtOf ty) true true x y, cNone))) s

/-- FMAXM (R144), I form (R136). -/
def execFmaxmI (h : Head) (ty : Ty) (d : Operand) (a : Operand) (imm : Word) (s : State) : Host.Outcome State Fault Refusal :=
  issue (.fmaxmI h ty d a imm) (fp2Body ty d a (.i imm) (fun x y => (fpMinMax (fmtOf ty) true true x y, cNone))) s

/-- FSET (R145). -/
def execFset (h : Head) (cmp : CmpOp) (comb : Combine) (pd : PReg) (ps : PReg) (a : Operand) (b : Operand) (s : State) : Host.Outcome State Fault Refusal :=
  issue (.fset h cmp comb pd ps a b) (fsetBody cmp comb ps pd a (.r b)) s

/-- FSET, I form (R145). -/
def execFsetI (h : Head) (cmp : CmpOp) (px : PReg) (a : Operand) (imm : Word) (s : State) : Host.Outcome State Fault Refusal :=
  issue (.fsetI h cmp px a imm) (fsetBody cmp .none 0 px a (.i imm)) s

/-- FCLASS (R146). -/
def execFclass (h : Head) (d : Operand) (a : Operand) (s : State) : Host.Outcome State Fault Refusal :=
  issue (.fclass h d a) (fp1Body d a (fun x => (fpClass x, cNone))) s

/-- FRND (R146). -/
def execFrnd (h : Head) (rnd : Rnd) (d : Operand) (a : Operand) (s : State) : Host.Outcome State Fault Refusal :=
  issue (.frnd h rnd d a) (fp1Body d a (fun x => (fpRnd rnd x, cNone))) s

/-- FFRAC (R146). -/
def execFfrac (h : Head) (d : Operand) (a : Operand) (s : State) : Host.Outcome State Fault Refusal :=
  issue (.ffrac h d a) (fp1Body d a fpFrac) s

/-- FSCALE (R143). -/
def execFscale (h : Head) (rnd : Rnd) (sat : Bool) (d : Operand) (a : Operand) (b : Operand) (s : State) : Host.Outcome State Fault Refusal :=
  issue (.fscale h rnd sat d a b) (fscaleBody rnd sat d a (.r b)) s

/-- FSCALE (R143), I form (R136). -/
def execFscaleI (h : Head) (rnd : Rnd) (sat : Bool) (d : Operand) (a : Operand) (imm : Word) (s : State) : Host.Outcome State Fault Refusal :=
  issue (.fscaleI h rnd sat d a imm) (fscaleBody rnd sat d a (.i imm)) s

/-- FGETEXP (R146). -/
def execFgetexp (h : Head) (d : Operand) (a : Operand) (s : State) : Host.Outcome State Fault Refusal :=
  issue (.fgetexp h d a) (fp1Body d a fpGetExp) s

/-- FRCP (R147). -/
def execFrcp (h : Head) (rnd : Rnd) (d : Operand) (a : Operand) (s : State) : Host.Outcome State Fault Refusal :=
  issue (.frcp h rnd d a) (fp1Body d a (fpRcp rnd)) s

/-- FRSQ (R147). -/
def execFrsq (h : Head) (d : Operand) (a : Operand) (s : State) : Host.Outcome State Fault Refusal :=
  issue (.frsq h d a) (fp1Body d a fpRsq) s

/-- FSQRT (R147). -/
def execFsqrt (h : Head) (rnd : Rnd) (d : Operand) (a : Operand) (s : State) : Host.Outcome State Fault Refusal :=
  issue (.fsqrt h rnd d a) (fp1Body d a (fpSqrt rnd)) s

/-- FEXP2 (R147). -/
def execFexp2 (h : Head) (d : Operand) (a : Operand) (s : State) : Host.Outcome State Fault Refusal :=
  issue (.fexp2 h d a) (fp1Body d a fpExp2) s

/-- FLOG2 (R147). -/
def execFlog2 (h : Head) (d : Operand) (a : Operand) (s : State) : Host.Outcome State Fault Refusal :=
  issue (.flog2 h d a) (fp1Body d a fpLog2) s

/-- FSIN (R147). -/
def execFsin (h : Head) (d : Operand) (a : Operand) (s : State) : Host.Outcome State Fault Refusal :=
  issue (.fsin h d a) (fp1Body d a fpSin) s

/-- FCOS (R147). -/
def execFcos (h : Head) (d : Operand) (a : Operand) (s : State) : Host.Outcome State Fault Refusal :=
  issue (.fcos h d a) (fp1Body d a fpCos) s

/-- FTANH (R147). -/
def execFtanh (h : Head) (d : Operand) (a : Operand) (s : State) : Host.Outcome State Fault Refusal :=
  issue (.ftanh h d a) (fp1Body d a fpTanh) s

/-- FSIGM (R147). -/
def execFsigm (h : Head) (d : Operand) (a : Operand) (s : State) : Host.Outcome State Fault Refusal :=
  issue (.fsigm h d a) (fp1Body d a fpSigm) s

/-- FCVT (R148). -/
def execFcvt (h : Head) (ty : Ty) (sty : Ty) (rnd : Rnd) (sto : Bool) (sat : Bool) (ed : BitVec 2) (es : BitVec 2) (d : Operand) (a : Operand) (s : State) : Host.Outcome State Fault Refusal :=
  issue (.fcvt h ty sty rnd sto sat ed es d a) (fcvtBody ty sty rnd sto sat ed.toNat es.toNat d a) s

/-- ICVT (R149). -/
def execIcvt (h : Head) (ty : Ty) (sty : Ty) (sat : Bool) (d : Operand) (a : Operand) (s : State) : Host.Outcome State Fault Refusal :=
  issue (.icvt h ty sty sat d a) (icvtBody ty sty sat d a) s

end Sys2Proof.Machine
end

