-- ==== Sys2Proof/Machine/Cross.lean ====
section
/-! DEFINITION. Predicate and cross-lane instructions of class 010 (R150-R156). -/

namespace Sys2Proof.Machine

/-- PLOP (R150). -/
def plopBody (pd ps pb pc : PReg) (tbl : BitVec 8) : Env → State → Except Stop State :=
  groupBody fun e g => g.alu e false (.v 0) false pd.toNat fun l =>
    { p := tbl.getLsbD (4 * (e.g.pred ps.toNat l).toNat + 2 * (e.g.pred pb.toNat l).toNat + (e.g.pred pc.toNat l).toNat) }

/-- PMOVV (R151): `n + 1` predicates from `k` on. -/
def pmovvBody (d : Operand) (k n : Nat) : Env → State → Except Stop State :=
  groupBody fun e g => g.alu e true d false 0 fun l =>
    { val := (List.range (n + 1)).foldl (fun x j => if e.g.pred (k + j) l then x ||| (1#64 <<< j) else x) 0 }

/-- VMOVP (R151). -/
def vmovpBody (a : Operand) (k n : Nat) : Env → State → Except Stop State :=
  groupBody fun e g => (List.range (n + 1)).foldl (fun g j =>
    g.setP (k + j) fun l => if e.isActive l then some ((e.rd32 a l).getLsbD j) else none) g

/-- A result for every lane: an S register takes it once whatever the guard in ulane(), a V register in every active
lane (R152, R154-R156). -/
def Group.writeAll (g : Group) (e : Env) (d : Operand) (w64 : Bool) (x : DWord) : Group :=
  match d with
  | .s _ => g.writeD e.p.id e.ulane d w64 fun _ => some x
  | _ => g.writeD e.p.id e.ulane d w64 fun l => if e.isActive l then some x else none

/-- VOTE (R152). -/
def voteBody (mode : VoteMode) (t : Nat) (top : Bool) (d : Operand) (pd ps : PReg) : Env → State → Except Stop State :=
  groupBody fun e g =>
    let held := e.active.filter fun l => e.g.pred ps.toNat l
    let c := held.length
    let n := e.active.length
    let put (b : Bool) := g.setP pd.toNat fun l => if e.isActive l then some b else none
    match mode with
    | .mask => g.writeAll e d false ((maskOf held.contains).setWidth 64)
    | .cnt => g.writeAll e d false (BitVec.ofNat 64 c)
    | .ge => put (if top then decide (n ≤ c + t) else decide (t ≤ c))
    | .same => put (c == 0 || c == n)

/-- SHFL's source position within a segment of width `w`, for position `i` (R153). -/
def shflPos (mode : ShflMode) (w i : Nat) (k : Word) : Int :=
  match mode with
  | .idx => k.toNat
  | .rot => (i + k.toNat) % w
  | .sh => i + k.toInt
  | .xor => i ^^^ k.toNat

/-- SHFL (R153). -/
def shflBody (mode : ShflMode) (w : Nat) (d a : Operand) (b : Src) (pd : PReg) : Env → State → Except Stop State :=
  groupBody fun e g => g.alu e true d false pd.toNat fun l =>
    let i := l % w
    let j := shflPos mode w i (e.srcB32 b l)
    if 0 ≤ j ∧ j < w then
      let src := l - i + j.toNat
      { val := e.rd a false src, p := e.p.exec.getLsbD src }
    else { val := e.rd a false l, p := false }

/-- A combination of two values in a reduction, with its conditions (R154). -/
def redCombine (op : RedOp) (ty : Ty) (x y : DWord) : DWord × Cnd :=
  let i (f : Int → Int → Int) : DWord × Cnd := (clip ty (extInt ty (f (intOf ty x.toNat) (intOf ty y.toNat))), cNone)
  match op with
  | .iadd => i fun a b => a + b
  | .imin => i fun a b => min a b
  | .imax => i fun a b => max a b
  | .and => (x &&& y, cNone)
  | .or => (x ||| y, cNone)
  | .xor => (x ^^^ y, cNone)
  | .fadd =>
    let r := fpAdd F32 .rne false x.toNat y.toNat
    (BitVec.ofNat 64 r.1, r.2)
  | .fmin => (BitVec.ofNat 64 (fpMinMax F32 false false x.toNat y.toNat), cNone)
  | .fmax => (BitVec.ofNat 64 (fpMinMax F32 true false x.toNat y.toNat), cNone)

/-- The identity of a reduction (R154). -/
def redIdentity (op : RedOp) (ty : Ty) : DWord :=
  match op with
  | .imin => clip ty (BitVec.ofInt 64 (Ty.hi ty))
  | .imax => clip ty (BitVec.ofInt 64 (Ty.lo ty))
  | .and => clip ty (-1)
  | .fmin => 0x7F800000
  | .fmax => 0xFF800000
  | _ => 0

/-- A floating-point result that is a NaN is the canonical NaN (R112), even where one lane's value passes. -/
def redCanon (op : RedOp) (x : DWord) : DWord :=
  match op with
  | .fadd | .fmin | .fmax => if (F32.decode x.toNat).isNan then BitVec.ofNat 64 F32.nan else x
  | _ => x

/-- The values of the active lanes folded in increasing lane order, from the first one's value. -/
def redFold (op : RedOp) (ty : Ty) : List DWord → DWord × Cnd
  | [] => (redIdentity op ty, cNone)
  | x :: xs =>
    let r := xs.foldl (fun a y =>
      let r := redCombine op ty a.1 y
      (r.1, a.2 ||| r.2)) (x, cNone)
    (redCanon op r.1, r.2)

/-- LRED's value: FADD takes the tree with inactive lanes absent (R154, R124, R125). -/
def lredOf (op : RedOp) (ty : Ty) (v : Nat → DWord) (act : Nat → Bool) : DWord × Cnd :=
  match op with
  | .fadd =>
    let r := treeSum (lanes.map fun l => (if act l then some (F32.decode (v l).toNat) else none, cNone))
    (match r.1 with
      | some x => BitVec.ofNat 64 (roundFx F32 (.dir .rne) false x).1
      | none => 0, r.2)
  | _ => redFold op ty ((lanes.filter act).map v)

/-- LRED (R154). -/
def lredBody (ty : Ty) (op : RedOp) (d a : Operand) : Env → State → Except Stop State :=
  groupBody fun e g =>
    let r := lredOf op ty (e.rd a ty.is64) e.isActive
    let g := g.writeAll e d ty.is64 r.1
    g.sticky fun l => if (if d.isS then l == e.ulane else e.isActive l) then r.2 else cNone

/-- The lanes that a scan folds for lane `l` (R154). -/
def scanLanes (excl : Bool) (e : Env) (l : Nat) : List Nat :=
  e.active.filter fun m => if excl then decide (m < l) else decide (m ≤ l)

/-- LSCAN (R154). -/
def lscanBody (ty : Ty) (op : RedOp) (excl : Bool) (d a : Operand) : Env → State → Except Stop State :=
  groupBody fun e g =>
    let r (l : Nat) := redFold op ty ((scanLanes excl e l).map (e.rd a ty.is64))
    let c := e.active.foldl (fun c l => c ||| (r l).2) cNone
    g.alu e true d ty.is64 0 fun l => { val := (r l).1, cnd := c }

/-- LBCAST (R155). -/
def lbcastBody (ty : Ty) (d a : Operand) (b : Src) : Env → State → Except Stop State :=
  groupBody fun e g => g.writeAll e d ty.is64 (e.rd a ty.is64 ((e.srcB32 b e.ulane).toNat % 32))

/-- LFIRST (R156). -/
def lfirstBody (ty : Ty) (d a : Operand) : Env → State → Except Stop State :=
  groupBody fun e g => g.writeAll e d ty.is64 (match e.active with
    | l :: _ => e.rd a ty.is64 l
    | [] => 0)


/-- PLOP (R150). -/
def execPlop (h : Head) (pd : PReg) (ps : PReg) (pb : PReg) (pc : PReg) (tbl : BitVec 8) (s : State) : Host.Outcome State Fault Refusal :=
  issue (.plop h pd ps pb pc tbl) (plopBody pd ps pb pc tbl) s

/-- PMOVV (R151). -/
def execPmovv (h : Head) (d : Operand) (k : PReg) (n : BitVec 5) (s : State) : Host.Outcome State Fault Refusal :=
  issue (.pmovv h d k n) (pmovvBody d k.toNat n.toNat) s

/-- VMOVP (R151). -/
def execVmovp (h : Head) (a : Operand) (k : PReg) (n : BitVec 5) (s : State) : Host.Outcome State Fault Refusal :=
  issue (.vmovp h a k n) (vmovpBody a k.toNat n.toNat) s

/-- VOTE (R152). -/
def execVote (h : Head) (mode : VoteMode) (t : BitVec 6) (top : Bool) (d : Operand) (pd : PReg) (ps : PReg) (s : State) : Host.Outcome State Fault Refusal :=
  issue (.vote h mode t top d pd ps) (voteBody mode t.toNat top d pd ps) s

/-- SHFL (R153). -/
def execShfl (h : Head) (mode : ShflMode) (segw : BitVec 3) (d : Operand) (a : Operand) (b : Operand) (pd : PReg) (s : State) : Host.Outcome State Fault Refusal :=
  issue (.shfl h mode segw d a b pd) (shflBody mode (32 >>> segw.toNat) d a (.r b) pd) s

/-- SHFL, I form (R153). -/
def execShflI (h : Head) (mode : ShflMode) (d : Operand) (a : Operand) (imm : Word) (px : PReg) (s : State) : Host.Outcome State Fault Refusal :=
  issue (.shflI h mode d a imm px) (shflBody mode 32 d a (.i imm) px) s

/-- LRED (R154). -/
def execLred (h : Head) (ty : Ty) (op : RedOp) (d : Operand) (a : Operand) (s : State) : Host.Outcome State Fault Refusal :=
  issue (.lred h ty op d a) (lredBody ty op d a) s

/-- LSCAN (R154). -/
def execLscan (h : Head) (ty : Ty) (op : RedOp) (excl : Bool) (d : Operand) (a : Operand) (s : State) : Host.Outcome State Fault Refusal :=
  issue (.lscan h ty op excl d a) (lscanBody ty op excl d a) s

/-- LBCAST (R155). -/
def execLbcast (h : Head) (ty : Ty) (d : Operand) (a : Operand) (b : Operand) (s : State) : Host.Outcome State Fault Refusal :=
  issue (.lbcast h ty d a b) (lbcastBody ty d a (.r b)) s

/-- LBCAST (R155), I form (R136). -/
def execLbcastI (h : Head) (ty : Ty) (d : Operand) (a : Operand) (imm : Word) (s : State) : Host.Outcome State Fault Refusal :=
  issue (.lbcastI h ty d a imm) (lbcastBody ty d a (.i imm)) s

/-- LFIRST (R156). -/
def execLfirst (h : Head) (ty : Ty) (d : Operand) (a : Operand) (s : State) : Host.Outcome State Fault Refusal :=
  issue (.lfirst h ty d a) (lfirstBody ty d a) s

end Sys2Proof.Machine
end

