-- ==== Sys2Proof/Machine/HostSide.lean ====
section
/-! DEFINITION. What a host does over PCIe (R33, R283, R285, R319, R348, R363, R364), firmware and quotes (R335, R336), peer
devices and links (R74, R281, R332, R364), the patrol and dirty lines (R362), power and reset. -/

namespace Sys2Proof.Machine

/-! ## Register images -/

/-- The number of a state of a slot (R319). -/
def CState.num : CState → Nat
  | .free => 0 | .active => 1 | .frozen => 2 | .closing => 3
/-- The number of a pre-emption state (R354). -/
def PState.num : PState → Nat
  | .idle => 0 | .draining => 1 | .saving => 2 | .saved => 3 | .restoring => 4 | .resetting => 5

/-- CTRL (R319). -/
def Context.ctrl (c : Context) : Nat := c.state.num + c.err.toNat * 2 ^ 8
/-- PSTAT (R354). -/
def Context.pstat (c : Context) : Nat := c.pState.num + c.pRej.toNat * 2 ^ 30 + c.pDone.toNat * 2 ^ 31
/-- The freeze record (R330). -/
def Freeze.bytes (f : Freeze) : List Byte :=
  bytesOfWord 4 f.cause.toNat ++ bytesOfWord 4 f.who.toNat ++ bytesOfWord 8 f.addr.toNat ++ bytesOfWord 8 f.pc.toNat ++
    bytesOfWord 4 f.count.toNat ++ zeros 4
/-- The arithmetic-event block (R128). -/
def Aevb.bytes (a : Aevb) : List Byte :=
  (a.cnt.flatMap fun w => bytesOfWord 4 w.toNat) ++ bytesOfWord 4 a.thresh.toNat ++ bytesOfWord 4 a.hit.toNat ++ zeros 8

/-- The 256 bytes of a CCB as a host reads them (R319, R345). -/
def State.ccbBytes (s : State) (slot : Nat) : List Byte :=
  let c := s.ctx slot
  bytesOfWord 4 c.ctrl ++ bytesOfWord 4 c.pasid.toNat ++ bytesOfWord 8 c.ptbase.toNat ++ bytesOfWord 8 c.pvbase.toNat ++
  bytesOfWord 4 c.plimit.toNat ++ bytesOfWord 4 c.perm.toNat ++ bytesOfWord 4 c.scratch.toNat ++ bytesOfWord 4 c.kilnsh.toNat ++
  bytesOfWord 4 c.spnslot.toNat ++ zeros 4 ++ bytesOfWord 8 c.wintab.toNat ++ bytesOfWord 8 c.colltab.toNat ++
  bytesOfWord 8 c.invaddr.toNat ++ bytesOfWord 4 (c.invAll.toNat * 2 + c.invNpage * 2 ^ 8 + (!s.invBusy slot).toNat * 2 ^ 31) ++ zeros 4 ++
  bytesOfWord 8 c.tqbase.toNat ++ bytesOfWord 8 c.csabase.toNat ++ c.freeze.bytes ++ c.aevb.bytes

/-- The launch status block (R285). -/
def State.launchStatus (s : State) (slot : Nat) : List Byte :=
  let c := s.ctx slot
  bytesOfWord 8 c.accepted ++ bytesOfWord 8 c.completed ++ bytesOfWord 4 c.refused ++ bytesOfWord 4 (s.qdepth slot) ++
    bytesOfWord 4 c.mapign ++ zeros 36

/-- The doorbell block (R348, R354). -/
def Context.doorbell (c : Context) : List Byte :=
  zeros 8 ++ bytesOfWord 4 c.pstat ++ bytesOfWord 4 c.pdead.toNat ++ bytesOfWord 16 c.pmask.toNat ++ zeros 32

/-- The bytes that a read of eight at an offset returns. -/
def at8 (bs : List Byte) (off : Nat) : List Byte := (bs.drop off).take 8

/-- The control word of a quote mailbox as it reads (R336, R4). -/
def QuoteBox.ctl (q : QuoteBox) : Nat := q.done.toNat * 2 ^ 31

/-- Bytes of the host's memory from an address on. -/
def State.writeHost (s : State) (a : Nat) (bs : List Byte) : State := s.write (bs.zipIdx.map fun p => (keyHost (a + p.2), p.1))

/-- HOST_ACCESS: memory over PCIe (R33), and reads of registers through a function; a read leaves its data in `hostData`. What a function
does not show reads as zero (R4, R5, R334). -/
def hostAccessBody (fn : Nat) (op : HostOp) (s : State) : State :=
  let out (bs : List Byte) : State := { s with hostData := bs }
  let slot (j : Nat) (f : Nat → List Byte) : State := out (match s.slotOf fn j with
    | some k => f k
    | none => zeros 8)
  let pf (bs : List Byte) : State := out (if fn = 16 then bs else zeros bs.length)
  let q := s.quotes.getD fn {}
  match op with
  | .memWrite pa bs => if rangeDram pa bs.length then s.writeBytes (keyPhys pa) bs else s
  | .memRead pa n => if rangeDram pa n then out (s.mem.getAll ((List.range n).map fun i => keyPhys (pa + i))) else s
  | .readCcb j off => slot j fun k => at8 (s.ccbBytes k) off
  | .readLaunch j off => slot j fun k => if off < 0xFC0 then zeros 8 else at8 (s.launchStatus k) (off - 0xFC0)
  | .readDoorbell j off => slot j fun k => at8 (s.ctx k).doorbell off
  | .readPartmap i => pf (bytesOfWord 16 (s.partmap.getD i 0).toNat)
  | .readVfslot i => pf (bytesOfWord 8 (s.vfslot.getD i 0).toNat)
  | .readPort cl p => pf (bytesOfWord 1 (s.port cl p).own.toNat)
  | .readResync => pf (bytesOfWord 4 0 ++ bytesOfWord 4 (s.rsStat + s.rsDone.toNat * 2 ^ 31) ++ bytesOfWord 8 s.rsAddr.toNat)
  | .readFwstat => pf (bytesOfWord 4 s.fw.stat)
  | .readMeas i => pf (bytesOfWord 64 (s.fw.meas.getD i 0).toNat)
  | .readQuote off => out (at8 q.quote off)
  | .readQuoteCtl => out (bytesOfWord 4 q.ctl)
  | .readNonce _ => out (zeros 8)
  | .hostWrite a bs => s.writeHost a bs
  | .peerWrite dev slot va bs => s.writeBytes (keyPeer dev slot va) bs

/-! ## RESYNC (R363, R364) -/

/-- The entry of a context in the summary (R364). -/
def State.resyncCtx (s : State) (slot : Nat) : List Byte :=
  let c := s.ctx slot
  if c.state = .free then bytesOfWord 4 c.ctrl ++ zeros 252
  else
    let h := c.tqHeader
    let idx := (c.recs.map fun r => r.seq % c.tqN).take 16
    bytesOfWord 4 c.ctrl ++ bytesOfWord 4 c.pstat ++ bytesOfWord 8 c.accepted ++ bytesOfWord 8 c.completed ++
      bytesOfWord 4 (s.qdepth slot) ++ bytesOfWord 4 c.refused ++ bytesOfWord 4 (s.mem.num h 4) ++ bytesOfWord 4 (s.mem.num (h + 4) 4) ++
      bytesOfWord 4 (s.mem.num (h + 8) 4) ++ bytesOfWord 4 c.recs.length ++
      bytesOfWord 4 (s.groups.filter fun g => g.slot == slot && !g.gone).length ++ bytesOfWord 4 c.saved.length ++
      bytesOfWord 4 c.mapGen.toNat ++ bytesOfWord 4 c.freeze.count.toNat ++ c.freeze.bytes ++
      ((List.range 16).flatMap fun i => bytesOfWord 4 (idx.getD i (2 ^ 32 - 1))) ++ bytesOfWord 4 c.aevb.hit.toNat ++ zeros 92

/-- The status of a port in the summary (R364). -/
def LinkPort.bytes (p : LinkPort) : List Byte :=
  bytesOfWord 4 (p.st % 4 + p.lanes % 16 * 2 ^ 2 + p.dev % 2 ^ 12 * 2 ^ 16) ++ bytesOfWord 4 p.count

/-- The summary (R364). -/
def State.summary (s : State) : List Byte :=
  bytesOfWord 4 1 ++ bytesOfWord 4 0x4600 ++ bytesOfWord 8 s.clock.toNat ++ bytesOfWord 8 s.snapshots ++ bytesOfWord 4 s.fw.stat ++
    bytesOfWord 4 s.fw.stages ++ zeros 32 ++ (s.fw.meas.flatMap fun m => bytesOfWord 64 m.toNat) ++
    (s.errs.flatMap fun n => bytesOfWord 8 n) ++ bytesOfWord 8 s.lastBad ++ zeros 192 ++ s.tlanto.flatMap LinkPort.bytes ++
    s.cxl.flatMap LinkPort.bytes ++ zeros 480 ++ (List.range 64).flatMap s.resyncCtx

/-- RESYNC (R363): the summary is written to the host, or its write has failed. -/
def resyncBody (ok : Bool) (s : State) : State :=
  let s := { s with snapshots := s.snapshots + 1, rsStat := (!ok).toNat, rsDone := true }
  if ok then s.writeHost s.rsAddr.toNat s.summary else s

/-! ## Firmware and quotes (R335, R336) -/

/-- The image that the firmware window holds, up to the last byte written. -/
def Firmware.bytes (f : Firmware) : List Byte :=
  let n := f.image.foldl (fun m p => max m (p.1 + 1)) 0
  (List.range n).map fun i => ((f.image.find? (·.1 == i)).map (·.2)).getD 0

/-- FIRMWARE_LOAD (R335): the boot ROM checks the image, measures its stages and starts Lumed. -/
def firmwareBody (s : State) : Option State :=
  let f := s.fw
  let bs := f.bytes
  if !f.powered ∨ f.loaded then none
  else if !Config.fwFormatOk bs then some { s with fw := { f with stat := 2 } }
  else if !Config.fwSignatureOk bs then some { s with fw := { f with stat := 3 } }
  else if !Config.fwVersionOk bs then some { s with fw := { f with stat := 4 } }
  else
    let ms := (Config.fwStages bs).take 6
    some { s with fw := { f with stat := 1, loaded := true, meas := ms ++ List.replicate (8 - ms.length) 0, stages := ms.length } }

/-- The quote of a mailbox (R336). -/
def State.quoteBytes (s : State) (q : QuoteBox) : List Byte :=
  let bs := bytesOfWord 4 1 ++ bytesOfWord 4 s.fw.stages ++ zeros 8 ++ bytesOfWord 32 q.nonce.toNat ++
    bytesOfWord 32 Config.identityKey.toNat ++ s.fw.meas.flatMap fun m => bytesOfWord 64 m.toNat
  bs ++ bytesOfWord 64 (Config.quoteSignature bs).toNat

/-- QUOTE (R336): a write of GO makes DONE fall, and is ignored while DONE is 0; the quote engine's answer makes it rise again. -/
def quoteBody (fn : Nat) (go : Bool) (s : State) : Option State :=
  match s.quotes[fn]? with
  | none => none
  | some q =>
    if go then some { s with quotes := s.quotes.set fn { q with done := false } }
    else if q.done then none
    else some { s with quotes := s.quotes.set fn { q with quote := s.quoteBytes q, done := true } }

/-! ## Peers and links (R74, R281, R332) -/

/-- The keys that a peer's access reaches, or none: the answer is PEER_REMOTE (R332). -/
def State.peerKeys (s : State) (slot va n : Nat) (nd : Need) : Option (List Nat) :=
  let c := s.ctx slot
  if c.state ≠ .active ∨ !c.perm.getLsbD 12 ∨ 2 ^ 56 < va + n then none
  else match s.rangeKeys noCluster slot va n nd with
    | .ok ks => if ks.any s.poisoned then none else some ks
    | .error _ => none

/-- PEER_ACCESS_REQUEST (R332, R248, R251): the reply's bytes, or those of PEER_REMOTE, are left in `hostData`. An atomic of a peer is one
step of the home Kiln here; the reply holds the old value. -/
def peerAccessBody (slot va : Nat) (op : PeerOp) (s : State) : State :=
  let remote : State := { s with hostData := bytesOfWord 2 (FCode.num .peerRemote) }
  let step (n : Nat) (f : Nat → Nat → Nat) : State :=
    match s.peerKeys slot va n { types := [0, 4], r := true, w := true, at_ := true } with
    | some (k :: _) =>
      if va % n ≠ 0 then remote
      else
        let old := s.mem.num k n
        { s.writeNum k n (f n old) with hostData := bytesOfWord n old }
    | _ => remote
  match op with
  | .read n => match s.peerKeys slot va n needR with
    | some ks => { s with hostData := s.mem.getAll ks }
    | none => remote
  | .write bs => match s.peerKeys slot va bs.length needW with
    | some ks => { s.write (ks.zip bs) with hostData := [] }
    | none => remote
  | .atom op w64 v => step (if w64 then 8 else 4) fun n old => atomVal op (8 * n) old v.toNat
  | .cas w64 cmp new => step (if w64 then 8 else 4) fun n old => if old = cmp.toNat % 2 ^ (8 * n) then new.toNat % 2 ^ (8 * n) else old
  | .cas2 cmp new => step 16 fun _ old => if old = cmp.toNat then new.toNat else old

/-- The peer device of a key. -/
def keyDev (k : Nat) : Option Nat := if isPeerKey k then some ((k - 2 ^ 56) / 2 ^ 56 / 64) else none

/-- The operations of groups that reach a device. -/
def State.opsTo (s : State) (dev : Nat) : List (Nat × Op) :=
  s.groups.zipIdx.flatMap fun p => (p.1.ops.filter fun o => o.late.isNone && o.keys.any fun k => keyDev k == some dev).map fun o => (p.2, o)

/-- A collective reaches a device (R333). -/
def State.collReaches (s : State) (slot coll dev : Nat) : Bool :=
  let t := (s.ctx slot).colltab.toNat + 512 * coll
  let w := s.collCtrl slot coll
  (List.range (collN w)).any fun i => i != ebits w 23 16 && (s.window slot (s.mem.num (t + 0x40 + i) 1)).dev == dev

/-- LINK_FAILURE (R74, R281): the port fails, and what is outstanding over it ends with LINK_DOWN. -/
def linkFailureBody (port : Nat) (s : State) : Option State :=
  match s.tlanto[port]? with
  | none => none
  | some p =>
    if p.st ≠ 2 then none
    else
      let s := { s with tlanto := s.tlanto.set port { p with st := 3, lanes := 0 } }
      let s := (s.opsTo p.dev).foldl (fun (u : State) x => match u.findOp x.1 x.2.id with
        | some (_, o) => u.lateFault x.1 o { code := .linkDown, addr := o.addrOf 255 }
        | none => u) s
      some ((List.range 128).foldl (fun (u : State) cl =>
        ((u.cl cl).link.filter fun c => c.sent && u.collReaches c.slot c.kind.coll p.dev).foldl (fun (u : State) c => u.linkFault cl c .linkDown 0) u) s)

/-- TLANTO_LINK_TRAINING (R364): a port comes up. -/
def trainingBody (port lanes dev : Nat) (retrain : Bool) (s : State) : State :=
  { s with tlanto := s.tlanto.modify port fun (p : LinkPort) => { st := 2, lanes := lanes % 16, dev := dev % 2 ^ 12, count := p.count + retrain.toNat } }

/-- CXL_PORT_EVENT (R364). -/
def cxlBody (port st : Nat) (error : Bool) (s : State) : State :=
  { s with cxl := s.cxl.modify port fun (p : LinkPort) => { p with st := st % 4, count := p.count + error.toNat } }

/-! ## Errors, power and reset (R362, R335, R23, R255) -/

/-- PATROL_PASS (R362, R364): the errors that a pass over an HBM stack finds are counted. With 12 for the stack, the errors that the SRAMs
of the device have corrected or detected, lines of the L1s and instruction caches that were refetched among the corrected ones (log 50). -/
def patrolBody (stack corrected uncorrected : Nat) (s : State) : Option State :=
  if 12 < stack then none
  else
    let k := if stack = 12 then 2 else 0
    some { s with errs := (s.errs.modify k (· + corrected)).modify (k + 1) (· + uncorrected) }

/-- DIRTY_LINE_DISCARD (R362): the frame keeps what it held before the line became dirty. -/
def dirtyBody (pa : Nat) (old : List Byte) (s : State) : Option State :=
  if !rangeDram pa old.length ∨ old.isEmpty then none
  else some { s with
    mem := s.mem.setBytes (keyPhys pa) old, errs := (s.errs.modify 4 (· + 1)).modify 6 (· + 1), lastBad := pa }

/-- What stays when the device is reset: the model's own fields, memory, and the firmware (log 21). -/
def State.afterReset (s : State) : State :=
  { State.reset with agenda := s.agenda, free := s.free, nextId := s.nextId, mem := s.mem, fe := s.fe, fw := s.fw }

/-- DEVICE_RESET (R23, R255): CLOCK is zero and team tags count from 1; every register is as after reset. -/
def resetBody (s : State) : State := s.afterReset

/-- The device's own memory is lost; the host's and the peers' stays. -/
def lostMem (m : Mem) : Mem := m.filter fun p => isHostKey p.1 || isPeerKey p.1

/-- POWER_DOWN (R335): no firmware and no state is kept. -/
def powerDownBody (s : State) : State :=
  { s.afterReset with mem := lostMem s.mem, fe := [], fw := { powered := false } }

/-- POWER_UP (R335): no firmware, and the device waits for an image. -/
def powerUpBody (s : State) : Option State :=
  if s.fw.powered then none else some { s.afterReset with mem := lostMem s.mem, fe := [], fw := {} }


/-- HOST_ACCESS. -/
def execHostAccess (op : HostOp) (s : State) (fn : Nat := 16) : Host.Outcome State Fault Refusal := event (hostAccessBody fn op s)

/-- RESYNC. -/
def execResync (ok : Bool) (s : State) : Host.Outcome State Fault Refusal := event (resyncBody ok s)

/-- FIRMWARE_LOAD. -/
def execFirmwareLoad  (s : State) : Host.Outcome State Fault Refusal := eventOf s (firmwareBody s)

/-- QUOTE. -/
def execQuote (fn : Nat) (s : State) (go : Bool := true) : Host.Outcome State Fault Refusal := eventOf s (quoteBody fn go s)

/-- PEER_ACCESS_REQUEST. -/
def execPeerAccessRequest (slot va : Nat) (op : PeerOp) (s : State) : Host.Outcome State Fault Refusal := event (peerAccessBody slot va op s)

/-- LINK_FAILURE. -/
def execLinkFailure (port : Nat) (s : State) : Host.Outcome State Fault Refusal := eventOf s (linkFailureBody port s)

/-- TLANTO_LINK_TRAINING. -/
def execTlantoLinkTraining (port lanes dev : Nat) (retrain : Bool) (s : State) : Host.Outcome State Fault Refusal := event (trainingBody port lanes dev retrain s)

/-- CXL_PORT_EVENT. -/
def execCxlPortEvent (port st : Nat) (error : Bool) (s : State) : Host.Outcome State Fault Refusal := event (cxlBody port st error s)

/-- PATROL_PASS. -/
def execPatrolPass (stack corrected uncorrected : Nat) (s : State) : Host.Outcome State Fault Refusal := eventOf s (patrolBody stack corrected uncorrected s)

/-- DIRTY_LINE_DISCARD. -/
def execDirtyLineDiscard (pa : Nat) (old : List (BitVec 8)) (s : State) : Host.Outcome State Fault Refusal := eventOf s (dirtyBody pa old s)

/-- POWER_UP. -/
def execPowerUp  (s : State) : Host.Outcome State Fault Refusal := eventOf s (powerUpBody s)

/-- POWER_DOWN. -/
def execPowerDown  (s : State) : Host.Outcome State Fault Refusal := event (powerDownBody s)

/-- DEVICE_RESET. -/
def execDeviceReset  (s : State) : Host.Outcome State Fault Refusal := event (resetBody s)

end Sys2Proof.Machine
end

