-- ==== Sys2Proof/Machine/Select.lean ====
section
/-! DEFINITION. Entering a line (R46, R47, R377) and issue selection (R305, R306). -/

namespace Sys2Proof.Machine

/-! ## Lines -/

/-- The line words that R46 refuses in a slice. -/
def badLine (l : Line) (sl : Slice) : Bool :=
  l.lw.getLsbD 29 || (List.range 3).any (fun i => l.pair i && l.pair (i + 1)) ||
    (List.range 4).any (fun i => l.pair i && l.target (i + 1)) ||
    (sl == .a && (l.lw.extractLsb' 0 12 != 0 || decide (l.seta < 12) || decide (l.setb < 12) || (List.range 4).any l.pair))

/-- A flag of the line's wait mask is not zero: a stall, or the end of a quantum where a buffered operation holds it (R46, R377). -/
def Group.lineWait (g : Group) (l : Line) : Option Stop :=
  let fs := (List.range 12).filter fun f => l.wait f && g.flags.getD f 0 != 0
  if fs.isEmpty then none
  else if g.cbuf.any fun o => match o.flag with
    | some f => fs.contains f
    | none => false
  then some .quantum else some .stall

/-- enter_line of R46 at an address: the line, or why it is not entered. -/
def State.enterLine (s : State) (g : Group) (sl : Slice) (pc : Nat) : Except Stop Line :=
  let la := pc / 64 * 64
  match s.lineBytesAt g.gid.cluster g.slot la with
  | .error c => .error (.fault { code := c, addr := la })
  | .ok bs =>
    let l := Line.ofBytes la bs
    if !l.parityOk bs then .error (.fault { code := .lineParity, addr := la })
    else if badLine l sl then .error (.fault { code := .illegalEncoding, addr := la })
    else if 0 < pc % 64 / 12 ∧ l.pair (pc % 64 / 12 - 1) then .error (.fault { code := .illegalTarget, addr := pc })
    else match g.lineWait l with
      | some st => .error st
      | none => .ok l

/-- The line that a path is in, if it has entered it (R46). -/
def latched (l : Option Line) (pc : Nat) : Option Line := l.filter fun l => l.addr == pc / 64 * 64

/-- What the issue stage may choose: a path, or the A-slice, of a group. -/
structure Cand where
  g : Nat
  sl : Slice
  p : Nat
  deriving DecidableEq, Repr

/-- The program counter of a candidate. -/
def Group.pcOf (g : Group) (c : Cand) : Nat := match c.sl with
  | .a => g.apc
  | .c => match g.path c.p with
    | some p => p.pc
    | none => 0

/-- The line that a candidate has entered. -/
def Group.lineOf (g : Group) (c : Cand) : Option Line := match c.sl with
  | .a => latched g.aline g.apc
  | .c => match g.path c.p with
    | some p => latched p.line p.pc
    | none => none

/-- A candidate's line is entered. -/
def Group.latch (g : Group) (c : Cand) (l : Line) : Group := match c.sl with
  | .a => { g with aline := some l }
  | .c => g.mapPath c.p fun p => { p with line := some l }

/-- The line of a candidate, entered now if it has to be (R46); the translation of its fetch enters the cache (R326). -/
def State.lineFor (s : State) (g : Group) (c : Cand) : Except Stop (Line × State) :=
  match g.lineOf c with
  | some l => .ok (l, s)
  | none => match s.enterLine g c.sl (g.pcOf c) with
    | .error st => .error st
    | .ok l => .ok (l, (s.setG c.g (g.latch c l)).noteTlb g.gid.cluster g.slot l.addr)

/-- The cursor at a candidate. -/
def State.aim (s : State) (c : Cand) (pc : Nat) : State := { s with cur := { g := c.g, sl := c.sl, p := c.p, addr := pc } }

/-! ## Candidates (R305) -/

/-- A group may issue: it runs, and its quantum has not ended (R236, R305). -/
def State.live (s : State) (g : Group) : Bool := s.issues g && !(g.dmode && g.ended)

/-- The paths that run, and the A-slice, of a group that may issue. -/
def State.running (s : State) (gi : Nat) (g : Group) : List Cand :=
  if !s.live g then []
  else (if g.ast = .run ∧ ¬ g.inh then [⟨gi, .a, 0⟩] else []) ++ (g.paths.filter (·.st == .run)).map fun (p : Path) => ⟨gi, .c, p.id⟩

/-- A candidate is not stalled at its line, its registers, its queues, its flag or its LDQ's queue (R46, R49, R19, R81). -/
def State.canIssue (s : State) (c : Cand) : Bool :=
  match s.groups[c.g]? with
  | none => false
  | some g => match s.lineFor g c with
    | .error (.fault _) => true
    | .error _ => false
    | .ok (l, _) =>
      let pc := g.pcOf c
      match decodeWord (l.words.getD (pc % 64 / 12) 0) with
      | .error _ => true
      | .ok i =>
        let t := s.aim c pc
        match prepare i g { t with cur := { t.cur with seta := l.seta, setb := l.setb } } with
        | .error (.fault _) => true
        | .error _ => false
        | .ok _ => !(i.ldqOf.any g.ldqStalls)

/-- A ready candidate of the same slice and issue partition has not been offered the slot since a YIELD (R165). -/
def State.unoffered (s : State) (id : Gid) (sl : Slice) (pid : Nat) (passed : List (Gid × Nat)) : Bool :=
  s.groups.zipIdx.any fun x => x.1.gid.cluster == id.cluster && x.1.gid.part == id.part &&
    (s.running x.2 x.1).any fun c => c.sl == sl && !(x.1.gid == id && c.p == pid) && !passed.contains (x.1.gid, c.p) && s.canIssue c

/-- YIELD holds a candidate back: 64 cycles have not passed, and some other ready one has still to be offered the slot (R165). -/
def State.yields (s : State) (g : Group) (c : Cand) : Bool := match c.sl with
  | .a => decide (s.clock.toNat < g.ayield) && s.unoffered g.gid .a 0 g.apassed
  | .c => match g.path c.p with
    | some p => decide (s.clock.toNat < p.yield) && s.unoffered g.gid .c p.id p.passed
    | none => false

/-- A candidate with what the choice looks at: the time from which it has waited, its group's age, its slot, its place behind
the path of its group that issued last. -/
structure Ranked where
  c : Cand
  since : Nat
  age : Nat × Nat × Nat
  slot : Nat
  turn : Nat
  deriving DecidableEq, Repr

/-- The place of a path in split-table order: the group's own path, then the fragments by their entries. -/
def Path.place (p : Path) : Nat := match p.split with
  | some k => k + 1
  | none => 0

/-- How many places a path stands behind the one that issued last (R305). -/
def Group.behind (g : Group) (p : Path) : Nat := (p.place + 8 - g.turn) % 9

/-- A candidate as the choice sees it. -/
def Group.rank (g : Group) (c : Cand) : Ranked :=
  let age := (g.lage, g.tlin, g.tgidx)
  match c.sl with
  | .a => ⟨c, g.asince, age, g.gid.slot, 0⟩
  | .c => match g.path c.p with
    | some p => ⟨c, p.since, age, g.gid.slot, g.behind p⟩
    | none => ⟨c, 0, age, g.gid.slot, 0⟩

/-- The candidates of a group (R305): its paths that run, and its A-slice, but for those that YIELD holds back. -/
def State.candsOf (s : State) (gi : Nat) (g : Group) : List Ranked :=
  ((s.running gi g).filter fun c => !s.yields g c).map g.rank

/-- The order of the choice (R305): first the one that has waited longest of those that have waited 2,048 cycles, the lower slot
where they are equal; then the oldest age, the paths of one group in turn. -/
def Ranked.le (now : Nat) (a b : Ranked) : Bool :=
  let late (r : Ranked) : Bool := decide (r.since + 2048 ≤ now)
  if late a != late b then late a
  else if late a then decide (a.since < b.since) || (a.since == b.since && decide (a.slot ≤ b.slot))
  else
    decide (a.age.1 < b.age.1) || (a.age.1 == b.age.1 && (decide (a.age.2.1 < b.age.2.1) || (a.age.2.1 == b.age.2.1 &&
      (decide (a.age.2.2 < b.age.2.2) || (a.age.2.2 == b.age.2.2 && decide (a.turn ≤ b.turn))))))

/-- When the issue partition of a place, or its SAP, was served last, as far as its resident groups show. -/
def State.lastTurn (s : State) (id : Gid) (sl : Slice) : Nat :=
  (s.groups.filter fun g => g.gid.cluster == id.cluster && g.gid.part == id.part).foldl (fun m g => match sl with
    | .a => max m g.asince
    | .c => g.paths.foldl (fun m (p : Path) => max m p.since) m) 0

/-- The candidates of the groups that `f` takes: the issue partitions take turns, and in each the order is that of R305 (log 1). -/
def State.ranked (s : State) (sl : Slice) (f : Group → Bool) : List Cand :=
  let rs := (s.groups.zipIdx.filter fun p => f p.1).flatMap fun p => (s.candsOf p.2 p.1).map fun r => (s.lastTurn p.1.gid sl, r)
  ((rs.filter (·.2.c.sl == sl)).mergeSort fun a b =>
    decide (a.1 < b.1) || (a.1 == b.1 && Ranked.le s.clock.toNat a.2 b.2)).map (·.2.c)

/-- ISSUE_SELECTION (R305): an issue partition, or its SAP, chooses what the next step issues. -/
def issueSelectionBody (cl pt : Nat) (sl : Slice) (s : State) : Option State :=
  ((s.ranked sl fun g => g.gid.cluster == cl && g.gid.part == pt).find? s.canIssue).map fun c =>
    { s with cur := { g := c.g, sl := c.sl, p := c.p, chosen := true } }

/-- LINE_ENTRY (R46, R47) of the path `p`, or of the A-slice when `p` names no path. -/
def lineEntryBody (gi p : Nat) (s : State) : Option State :=
  match s.groups[gi]? with
  | none => none
  | some g =>
    let c : Cand := if (g.path p).isSome then ⟨gi, .c, p⟩ else ⟨gi, .a, 0⟩
    if !(s.candsOf gi g).any (·.c == c) ∨ (g.lineOf c).isSome then none
    else match s.lineFor g c with
      | .ok (_, t) => some t
      | .error .stall => none
      | .error st => some ((s.aim c (g.pcOf c)).stop st none)


/-- LINE_ENTRY. -/
def execLineEntry (g p : Nat) (s : State) : Host.Outcome State Fault Refusal := eventOf s (lineEntryBody g p s)

/-- ISSUE_SELECTION. -/
def execIssueSelection (cl pt : Nat) (sl : Slice) (s : State) : Host.Outcome State Fault Refusal := eventOf s (issueSelectionBody cl pt sl s)

end Sys2Proof.Machine
end

