-- ==== Sys2Proof/Machine/Dispatch.lean ====
section
/-! DEFINITION. One arm per constructor: the meaning of each instruction and event. -/

namespace Sys2Proof.Machine

/-- The meaning of an instruction or event: one direct call each. -/
def exec (i : Instr) (s : State) : Host.Outcome State Fault Refusal :=
  match i with
  | .iadd h ty d a b => Sys2Proof.Machine.execIadd h ty d a b s
  | .iaddI h ty d a imm => Sys2Proof.Machine.execIaddI h ty d a imm s
  | .isub h ty d a b => Sys2Proof.Machine.execIsub h ty d a b s
  | .isubI h ty d a imm => Sys2Proof.Machine.execIsubI h ty d a imm s
  | .iaddc h alt d a b ps pd => Sys2Proof.Machine.execIaddc h alt d a b ps pd s
  | .iadds h ty d a b => Sys2Proof.Machine.execIadds h ty d a b s
  | .iaddsI h ty d a imm => Sys2Proof.Machine.execIaddsI h ty d a imm s
  | .isubs h ty d a b => Sys2Proof.Machine.execIsubs h ty d a b s
  | .isubsI h ty d a imm => Sys2Proof.Machine.execIsubsI h ty d a imm s
  | .imul h ty d a b => Sys2Proof.Machine.execImul h ty d a b s
  | .imulI h ty d a imm => Sys2Proof.Machine.execImulI h ty d a imm s
  | .imulh h ty d a b => Sys2Proof.Machine.execImulh h ty d a b s
  | .imulhI h ty d a imm => Sys2Proof.Machine.execImulhI h ty d a imm s
  | .imad h ty d a b c => Sys2Proof.Machine.execImad h ty d a b c s
  | .imadI h ty d a imm c => Sys2Proof.Machine.execImadI h ty d a imm c s
  | .imadw h ty d a b c => Sys2Proof.Machine.execImadw h ty d a b c s
  | .imadwI h ty d a imm c => Sys2Proof.Machine.execImadwI h ty d a imm c s
  | .imin h ty d a b => Sys2Proof.Machine.execImin h ty d a b s
  | .iminI h ty d a imm => Sys2Proof.Machine.execIminI h ty d a imm s
  | .imax h ty d a b => Sys2Proof.Machine.execImax h ty d a b s
  | .imaxI h ty d a imm => Sys2Proof.Machine.execImaxI h ty d a imm s
  | .iabs h ty sat d a => Sys2Proof.Machine.execIabs h ty sat d a s
  | .ineg h ty sat d a => Sys2Proof.Machine.execIneg h ty sat d a s
  | .idp4 h ty sat alt d a b c => Sys2Proof.Machine.execIdp4 h ty sat alt d a b c s
  | .idp4I h ty sat alt d a imm c => Sys2Proof.Machine.execIdp4I h ty sat alt d a imm c s
  | .and h ty d a b => Sys2Proof.Machine.execAnd h ty d a b s
  | .andI h ty d a imm => Sys2Proof.Machine.execAndI h ty d a imm s
  | .or h ty d a b => Sys2Proof.Machine.execOr h ty d a b s
  | .orI h ty d a imm => Sys2Proof.Machine.execOrI h ty d a imm s
  | .xor h ty d a b => Sys2Proof.Machine.execXor h ty d a b s
  | .xorI h ty d a imm => Sys2Proof.Machine.execXorI h ty d a imm s
  | .andn h ty d a b => Sys2Proof.Machine.execAndn h ty d a b s
  | .andnI h ty d a imm => Sys2Proof.Machine.execAndnI h ty d a imm s
  | .orn h ty d a b => Sys2Proof.Machine.execOrn h ty d a b s
  | .ornI h ty d a imm => Sys2Proof.Machine.execOrnI h ty d a imm s
  | .not h ty d a => Sys2Proof.Machine.execNot h ty d a s
  | .lop3 h ty d a b c lut => Sys2Proof.Machine.execLop3 h ty d a b c lut s
  | .shl h ty d a b => Sys2Proof.Machine.execShl h ty d a b s
  | .shlI h ty d a imm => Sys2Proof.Machine.execShlI h ty d a imm s
  | .shr h ty d a b => Sys2Proof.Machine.execShr h ty d a b s
  | .shrI h ty d a imm => Sys2Proof.Machine.execShrI h ty d a imm s
  | .sar h ty d a b => Sys2Proof.Machine.execSar h ty d a b s
  | .sarI h ty d a imm => Sys2Proof.Machine.execSarI h ty d a imm s
  | .rotl h ty d a b => Sys2Proof.Machine.execRotl h ty d a b s
  | .rotlI h ty d a imm => Sys2Proof.Machine.execRotlI h ty d a imm s
  | .fshl h d a b c => Sys2Proof.Machine.execFshl h d a b c s
  | .fshlI h d a imm c => Sys2Proof.Machine.execFshlI h d a imm c s
  | .bfx h ty d a b => Sys2Proof.Machine.execBfx h ty d a b s
  | .bfxI h ty d a imm => Sys2Proof.Machine.execBfxI h ty d a imm s
  | .bfi h d a b c => Sys2Proof.Machine.execBfi h d a b c s
  | .bfiI h d a imm c => Sys2Proof.Machine.execBfiI h d a imm c s
  | .popc h ty d a => Sys2Proof.Machine.execPopc h ty d a s
  | .clz h ty d a => Sys2Proof.Machine.execClz h ty d a s
  | .ctz h ty d a => Sys2Proof.Machine.execCtz h ty d a s
  | .brev h ty d a => Sys2Proof.Machine.execBrev h ty d a s
  | .bytep h d a b c => Sys2Proof.Machine.execBytep h d a b c s
  | .bytepI h d a imm c => Sys2Proof.Machine.execBytepI h d a imm c s
  | .iset h ty cmp comb pd ps d a b => Sys2Proof.Machine.execIset h ty cmp comb pd ps d a b s
  | .isetI h ty cmp px d a imm => Sys2Proof.Machine.execIsetI h ty cmp px d a imm s
  | .sel h ty d a b c ps => Sys2Proof.Machine.execSel h ty d a b c ps s
  | .selI h ty d a imm c px => Sys2Proof.Machine.execSelI h ty d a imm c px s
  | .mov h ty d a => Sys2Proof.Machine.execMov h ty d a s
  | .movi h ty d imm => Sys2Proof.Machine.execMovi h ty d imm s
  | .lea h ty d a b sh => Sys2Proof.Machine.execLea h ty d a b sh s
  | .leaI h ty d a imm sh => Sys2Proof.Machine.execLeaI h ty d a imm sh s
  | .fadd h ty rnd sat d a b => Sys2Proof.Machine.execFadd h ty rnd sat d a b s
  | .faddI h ty rnd sat d a imm => Sys2Proof.Machine.execFaddI h ty rnd sat d a imm s
  | .fsub h ty rnd sat d a b => Sys2Proof.Machine.execFsub h ty rnd sat d a b s
  | .fsubI h ty rnd sat d a imm => Sys2Proof.Machine.execFsubI h ty rnd sat d a imm s
  | .fmul h ty rnd sat d a b => Sys2Proof.Machine.execFmul h ty rnd sat d a b s
  | .fmulI h ty rnd sat d a imm => Sys2Proof.Machine.execFmulI h ty rnd sat d a imm s
  | .ffma h ty rnd sat d a b c => Sys2Proof.Machine.execFfma h ty rnd sat d a b c s
  | .ffmaI h ty rnd sat d a imm c => Sys2Proof.Machine.execFfmaI h ty rnd sat d a imm c s
  | .fmin h ty d a b => Sys2Proof.Machine.execFmin h ty d a b s
  | .fminI h ty d a imm => Sys2Proof.Machine.execFminI h ty d a imm s
  | .fmax h ty d a b => Sys2Proof.Machine.execFmax h ty d a b s
  | .fmaxI h ty d a imm => Sys2Proof.Machine.execFmaxI h ty d a imm s
  | .fminm h ty d a b => Sys2Proof.Machine.execFminm h ty d a b s
  | .fminmI h ty d a imm => Sys2Proof.Machine.execFminmI h ty d a imm s
  | .fmaxm h ty d a b => Sys2Proof.Machine.execFmaxm h ty d a b s
  | .fmaxmI h ty d a imm => Sys2Proof.Machine.execFmaxmI h ty d a imm s
  | .fset h cmp comb pd ps a b => Sys2Proof.Machine.execFset h cmp comb pd ps a b s
  | .fsetI h cmp px a imm => Sys2Proof.Machine.execFsetI h cmp px a imm s
  | .fclass h d a => Sys2Proof.Machine.execFclass h d a s
  | .frnd h rnd d a => Sys2Proof.Machine.execFrnd h rnd d a s
  | .ffrac h d a => Sys2Proof.Machine.execFfrac h d a s
  | .fscale h rnd sat d a b => Sys2Proof.Machine.execFscale h rnd sat d a b s
  | .fscaleI h rnd sat d a imm => Sys2Proof.Machine.execFscaleI h rnd sat d a imm s
  | .fgetexp h d a => Sys2Proof.Machine.execFgetexp h d a s
  | .frcp h rnd d a => Sys2Proof.Machine.execFrcp h rnd d a s
  | .frsq h d a => Sys2Proof.Machine.execFrsq h d a s
  | .fsqrt h rnd d a => Sys2Proof.Machine.execFsqrt h rnd d a s
  | .fexp2 h d a => Sys2Proof.Machine.execFexp2 h d a s
  | .flog2 h d a => Sys2Proof.Machine.execFlog2 h d a s
  | .fsin h d a => Sys2Proof.Machine.execFsin h d a s
  | .fcos h d a => Sys2Proof.Machine.execFcos h d a s
  | .ftanh h d a => Sys2Proof.Machine.execFtanh h d a s
  | .fsigm h d a => Sys2Proof.Machine.execFsigm h d a s
  | .fcvt h ty sty rnd sto sat ed es d a => Sys2Proof.Machine.execFcvt h ty sty rnd sto sat ed es d a s
  | .icvt h ty sty sat d a => Sys2Proof.Machine.execIcvt h ty sty sat d a s
  | .plop h pd ps pb pc tbl => Sys2Proof.Machine.execPlop h pd ps pb pc tbl s
  | .pmovv h d k n => Sys2Proof.Machine.execPmovv h d k n s
  | .vmovp h a k n => Sys2Proof.Machine.execVmovp h a k n s
  | .vote h mode t top d pd ps => Sys2Proof.Machine.execVote h mode t top d pd ps s
  | .shfl h mode segw d a b pd => Sys2Proof.Machine.execShfl h mode segw d a b pd s
  | .shflI h mode d a imm px => Sys2Proof.Machine.execShflI h mode d a imm px s
  | .lred h ty op d a => Sys2Proof.Machine.execLred h ty op d a s
  | .lscan h ty op excl d a => Sys2Proof.Machine.execLscan h ty op excl d a s
  | .lbcast h ty d a b => Sys2Proof.Machine.execLbcast h ty d a b s
  | .lbcastI h ty d a imm => Sys2Proof.Machine.execLbcastI h ty d a imm s
  | .lfirst h ty d a => Sys2Proof.Machine.execLfirst h ty d a s
  | .bra g rtok disp a => Sys2Proof.Machine.execBra g rtok disp a s
  | .brx g a => Sys2Proof.Machine.execBrx g a s
  | .call g disp d => Sys2Proof.Machine.execCall g disp d s
  | .ret g a => Sys2Proof.Machine.execRet g a s
  | .recon g rtok => Sys2Proof.Machine.execRecon g rtok s
  | .exit g => Sys2Proof.Machine.execExit g s
  | .nop => Sys2Proof.Machine.execNop s
  | .yield g => Sys2Proof.Machine.execYield g s
  | .ldp h w sx o cp d a off => Sys2Proof.Machine.execLdp h w sx o cp d a off s
  | .stp h w o cp a b off => Sys2Proof.Machine.execStp h w o cp a b off s
  | .lds h w sx o cp d a off take px => Sys2Proof.Machine.execLds h w sx o cp d a off take px s
  | .sts h w o cp a b off fill px => Sys2Proof.Machine.execSts h w o cp a b off fill px s
  | .ldd h w sx o cp d a off => Sys2Proof.Machine.execLdd h w sx o cp d a off s
  | .std h w o cp a b off => Sys2Proof.Machine.execStd h w o cp a b off s
  | .ldg h w sx o cp d a off => Sys2Proof.Machine.execLdg h w sx o cp d a off s
  | .stg h w o cp a b off => Sys2Proof.Machine.execStg h w o cp a b off s
  | .ldx h w sx o cp d a off => Sys2Proof.Machine.execLdx h w sx o cp d a off s
  | .stx h w o cp a b off => Sys2Proof.Machine.execStx h w o cp a b off s
  | .ldh h w sx o cp d a off => Sys2Proof.Machine.execLdh h w sx o cp d a off s
  | .sth h w o cp a b off => Sys2Proof.Machine.execSth h w o cp a b off s
  | .ldq g q cp a off => Sys2Proof.Machine.execLdq g q cp a off s
  | .qbpush h a => Sys2Proof.Machine.execQbpush h a s
  | .qbpop h d => Sys2Proof.Machine.execQbpop h d s
  | .qsync g disp => Sys2Proof.Machine.execQsync g disp s
  | .qstat g d => Sys2Proof.Machine.execQstat g d s
  | .pref h cp a off => Sys2Proof.Machine.execPref h cp a off s
  | .acp h ss ds bar ar d a b c => Sys2Proof.Machine.execAcp h ss ds bar ar d a b c s
  | .bclose h d => Sys2Proof.Machine.execBclose h d s
  | .bwait h a px => Sys2Proof.Machine.execBwait h a px s
  | .fetest h op o px a off => Sys2Proof.Machine.execFetest h op o px a off s
  | .kvlook g inv d a b => Sys2Proof.Machine.execKvlook g inv d a b s
  | .kvgather h rows toScratch ar a b c => Sys2Proof.Machine.execKvgather h rows toScratch ar a b c s
  | .kvappend h ar d a b px => Sys2Proof.Machine.execKvappend h ar d a b px s
  | .kvshare h ar d a b c px => Sys2Proof.Machine.execKvshare h ar d a b c px s
  | .atom h op o w sp d a b => Sys2Proof.Machine.execAtom h op o w sp d a b s
  | .red h op o w sp a b => Sys2Proof.Machine.execRed h op o w sp a b s
  | .cas h o w sp d a b c px => Sys2Proof.Machine.execCas h o w sp d a b c px s
  | .cas2 h o sp d a b c px => Sys2Proof.Machine.execCas2 h o sp d a b c px s
  | .obinit h kind o kcode xp pmask a b => Sys2Proof.Machine.execObinit h kind o kcode xp pmask a b s
  | .ann h op d a b c => Sys2Proof.Machine.execAnn h op d a b c s
  | .help h d a px => Sys2Proof.Machine.execHelp h d a px s
  | .barinit h spn o a b px => Sys2Proof.Machine.execBarinit h spn o a b px s
  | .barv h o d a b => Sys2Proof.Machine.execBarv h o d a b s
  | .bardrop h o d a => Sys2Proof.Machine.execBardrop h o d a s
  | .btx h a b => Sys2Proof.Machine.execBtx h a b s
  | .btest h o a b px => Sys2Proof.Machine.execBtest h o a b px s
  | .sred h op n o d a b c => Sys2Proof.Machine.execSred h op n o d a b c s
  | .msend h o a b px => Sys2Proof.Machine.execMsend h o a b px s
  | .mrecv h o port d px => Sys2Proof.Machine.execMrecv h o port d px s
  | .mstat h clr port d => Sys2Proof.Machine.execMstat h clr port d s
  | .park h msg sp mask a => Sys2Proof.Machine.execPark h msg sp mask a s
  | .xscale h o coll d a b c => Sys2Proof.Machine.execXscale h o coll d a b c s
  | .xred h o coll d a b c => Sys2Proof.Machine.execXred h o coll d a b c s
  | .fence h fo scope => Sys2Proof.Machine.execFence h fo scope s
  | .drain h scope d a => Sys2Proof.Machine.execDrain h scope d a s
  | .drainNb h => Sys2Proof.Machine.execDrainNb h s
  | .gmma h bt fa fb rows d a b c => Sys2Proof.Machine.execGmma h bt fa fb rows d a b c s
  | .cvtdxb h sto ss fb d a => Sys2Proof.Machine.execCvtdxb h sto ss fb d a s
  | .lmma h ar zt fa fb sparse a b c => Sys2Proof.Machine.execLmma h ar zt fa fb sparse a b c s
  | .lmmv h ar zt fw zx nb a b c => Sys2Proof.Machine.execLmmv h ar zt fw zx nb a b c s
  | .lzero h zt => Sys2Proof.Machine.execLzero h zt s
  | .lload h f32 ar zt fb a b => Sys2Proof.Machine.execLload h f32 ar zt fb a b s
  | .lstore h f32 sat ar zt fb a b => Sys2Proof.Machine.execLstore h f32 sat ar zt fb a b s
  | .lread h zt d a => Sys2Proof.Machine.execLread h zt d a s
  | .lcmd h zt fa fb px a => Sys2Proof.Machine.execLcmd h zt fa fb px a s
  | .tmatch h dim fmt ar d a c => Sys2Proof.Machine.execTmatch h dim fmt ar d a c s
  | .tmerge h width fmt ar d a b c => Sys2Proof.Machine.execTmerge h width fmt ar d a b c s
  | .tunmerge h width fmt ar d a b => Sys2Proof.Machine.execTunmerge h width fmt ar d a b s
  | .smaxr h f16 cs sz msk rows d a b c => Sys2Proof.Machine.execSmaxr h f16 cs sz msk rows d a b c s
  | .tmask h d a b c => Sys2Proof.Machine.execTmask h d a b c s
  | .launch h pd a => Sys2Proof.Machine.execLaunch h pd a s
  | .trigger h => Sys2Proof.Machine.execTrigger h s
  | .timerAbs h a => Sys2Proof.Machine.execTimerAbs h a s
  | .timerRel h a => Sys2Proof.Machine.execTimerRel h a s
  | .timerOff h => Sys2Proof.Machine.execTimerOff h s
  | .qend h => Sys2Proof.Machine.execQend h s
  | .trap h n => Sys2Proof.Machine.execTrap h n s
  | .trapret h => Sys2Proof.Machine.execTrapret h s
  | .replay h ix pd => Sys2Proof.Machine.execReplay h ix pd s
  | .rdsr h r d => Sys2Proof.Machine.execRdsr h r d s
  | .wrsr h r a => Sys2Proof.Machine.execWrsr h r a s
  | .bkpt h n => Sys2Proof.Machine.execBkpt h n s
  | .lineEntry g p => Sys2Proof.Machine.execLineEntry g p s
  | .issueSelection cl pt sl => Sys2Proof.Machine.execIssueSelection cl pt sl s
  | .loadCompletion g k corrected => Sys2Proof.Machine.execLoadCompletion g k s corrected
  | .acknowledgement g k => Sys2Proof.Machine.execAcknowledgement g k s
  | .ldqDataReturn g k ecc => Sys2Proof.Machine.execLdqDataReturn g k ecc s
  | .registerLineFill g n ecc => Sys2Proof.Machine.execRegisterLineFill g n s ecc
  | .longLatencyFault g k code lane addr bad => Sys2Proof.Machine.execLongLatencyFault g k code lane s addr bad
  | .kilnStep g k more => Sys2Proof.Machine.execKilnStep g k s more
  | .kilnReply g k => Sys2Proof.Machine.execKilnReply g k s
  | .spindlePhaseCompletion k => Sys2Proof.Machine.execSpindlePhaseCompletion k s
  | .msendAnswer g k => Sys2Proof.Machine.execMsendAnswer g k s
  | .launchReply g k => Sys2Proof.Machine.execLaunchReply g k s
  | .engineOperation cl e k => Sys2Proof.Machine.execEngineOperation cl e k s
  | .latheKBlock cl => Sys2Proof.Machine.execLatheKBlock cl s
  | .streamAcceptance cl k => Sys2Proof.Machine.execStreamAcceptance cl k s
  | .streamStep cl k => Sys2Proof.Machine.execStreamStep cl k s
  | .trowelCommand cl => Sys2Proof.Machine.execTrowelCommand cl s
  | .collectiveCompletion cl k others => Sys2Proof.Machine.execCollectiveCompletion cl k others s
  | .parkWakeByWrite g p => Sys2Proof.Machine.execParkWakeByWrite g p s
  | .parkBoundExpiry g p => Sys2Proof.Machine.execParkBoundExpiry g p s
  | .spuriousWakeUp g p => Sys2Proof.Machine.execSpuriousWakeUp g p s
  | .timerFire g => Sys2Proof.Machine.execTimerFire g s
  | .asyncTimeout g => Sys2Proof.Machine.execAsyncTimeout g s
  | .memTimeout g k => Sys2Proof.Machine.execMemTimeout g k s
  | .takeTrap g => Sys2Proof.Machine.execTakeTrap g s
  | .replayableFaultStop g => Sys2Proof.Machine.execReplayableFaultStop g s
  | .replayableRecordRetry slot k => Sys2Proof.Machine.execReplayableRecordRetry slot k s
  | .msixDeferredRaise slot => Sys2Proof.Machine.execMsixDeferredRaise slot s
  | .quantumEnd g => Sys2Proof.Machine.execQuantumEnd g s
  | .commitRound slot => Sys2Proof.Machine.execCommitRound slot s
  | .hostLaunchPacket slot off bytes fn => Sys2Proof.Machine.execHostLaunchPacket slot off bytes s fn
  | .dependencePoll age => Sys2Proof.Machine.execDependencePoll age s
  | .teamDispatch cl ecc => Sys2Proof.Machine.execTeamDispatch cl s ecc
  | .priorityAging age => Sys2Proof.Machine.execPriorityAging age s
  | .placementMapTimeout age => Sys2Proof.Machine.execPlacementMapTimeout age s
  | .intensityMeasurementEnd slot kdesc mem link => Sys2Proof.Machine.execIntensityMeasurementEnd slot kdesc mem link s
  | .frontEndPreemption age => Sys2Proof.Machine.execFrontEndPreemption age s
  | .teamRetirement tag => Sys2Proof.Machine.execTeamRetirement tag s
  | .launchCompletion age => Sys2Proof.Machine.execLaunchCompletion age s
  | .signalDecrement age done => Sys2Proof.Machine.execSignalDecrement age done s
  | .taskEligibilityTest age t => Sys2Proof.Machine.execTaskEligibilityTest age t s
  | .taskTake cl slot => Sys2Proof.Machine.execTaskTake cl slot s
  | .taskSteal cl slot => Sys2Proof.Machine.execTaskSteal cl slot s
  | .contextActivation slot fn => Sys2Proof.Machine.execContextActivation slot s fn
  | .contextRelease slot fn => Sys2Proof.Machine.execContextRelease slot s fn
  | .invalidation slot npage fn => Sys2Proof.Machine.execInvalidation slot npage s fn
  | .invalidateAll slot npage fn => Sys2Proof.Machine.execInvalidateAll slot s npage fn
  | .preemptTeamBoundary slot fn => Sys2Proof.Machine.execPreemptTeamBoundary slot s fn
  | .preemptInstructionLevel slot fn => Sys2Proof.Machine.execPreemptInstructionLevel slot s fn
  | .pcmdRestore slot fn => Sys2Proof.Machine.execPcmdRestore slot s fn
  | .teamRestore tag => Sys2Proof.Machine.execTeamRestore tag s
  | .pcmdReset slot fn => Sys2Proof.Machine.execPcmdReset slot s fn
  | .pcmdNone slot fn => Sys2Proof.Machine.execPcmdNone slot s fn
  | .forcedReset slot => Sys2Proof.Machine.execForcedReset slot s
  | .replayRetry slot idx fn => Sys2Proof.Machine.execReplayRetry slot idx s fn
  | .replayFail slot idx fn => Sys2Proof.Machine.execReplayFail slot idx s fn
  | .resync ok => Sys2Proof.Machine.execResync ok s
  | .firmwareLoad => Sys2Proof.Machine.execFirmwareLoad s
  | .quote fn go => Sys2Proof.Machine.execQuote fn s go
  | .portownWrite cl port val => Sys2Proof.Machine.execPortownWrite cl port val s
  | .registerWrite fn r val => Sys2Proof.Machine.execRegisterWrite fn r val s
  | .peerAccessRequest slot va op => Sys2Proof.Machine.execPeerAccessRequest slot va op s
  | .linkFailure port => Sys2Proof.Machine.execLinkFailure port s
  | .patrolPass stack corrected uncorrected => Sys2Proof.Machine.execPatrolPass stack corrected uncorrected s
  | .dirtyLineDiscard pa old => Sys2Proof.Machine.execDirtyLineDiscard pa old s
  | .powerUp => Sys2Proof.Machine.execPowerUp s
  | .deviceReset => Sys2Proof.Machine.execDeviceReset s
  | .hostAccess op fn => Sys2Proof.Machine.execHostAccess op s fn
  | .flitDelivery g k => Sys2Proof.Machine.execFlitDelivery g k s
  | .spindleArrival g k more => Sys2Proof.Machine.execSpindleArrival g k s more
  | .tlantoLinkTraining port lanes dev retrain => Sys2Proof.Machine.execTlantoLinkTraining port lanes dev retrain s
  | .cxlPortEvent port st error => Sys2Proof.Machine.execCxlPortEvent port st error s
  | .powerDown => Sys2Proof.Machine.execPowerDown s

end Sys2Proof.Machine
end

