-- ==== Sys2Proof/Machine/Run.lean ====
section
/-! DEFINITION. Issuing at a candidate: the line, the slot, a pair (R46, R50, R51, R53), and what happens next when the
agenda is empty (log 1). -/

namespace Sys2Proof.Machine

/-- The code of a word that the decoder rejects (R52, R53). -/
def rejectCode : Reject → FCode
  | .illegalOpcode => .illegalOpcode
  | .illegalEncoding => .illegalEncoding

/-- One slot: the decoded instruction is executed. -/
def State.runOne (s : State) : Host.Outcome State Fault Refusal :=
  match decodeWord s.cur.word with
  | .error r => .next (s.stop (.fault { code := rejectCode r }) none)
  | .ok i => exec i s

/-- The cursor at the second slot of a pair, with the registers as they stood (R51). -/
def State.second (s : State) (g0 : Group) (w : BitVec 96) : State :=
  { s with snap := some g0, cur := { s.cur with addr := s.cur.addr + 12, word := w } }

/-- The decode faults of a pair, in the order of R53: the code, and whether the second slot has it. -/
def State.pairFault (s : State) (g : Group) (w0 w1 : BitVec 96) : Option (FCode × Bool) :=
  match decodeWord w0, decodeWord w1 with
  | .error .illegalOpcode, _ => some (.illegalOpcode, false)
  | _, .error .illegalOpcode => some (.illegalOpcode, true)
  | .error _, _ => some (.illegalEncoding, false)
  | .ok i, .error _ => some (.illegalEncoding, encodingOk i s.cur)
  | .ok i, .ok j =>
    if !encodingOk i s.cur then some (.illegalEncoding, false)
    else if !encodingOk j s.cur then some (.illegalEncoding, true)
    else if !operandsOk i g (s.znOf g) s.cur then some (.illegalOperand, false)
    else if !operandsOk j g (s.znOf g) s.cur then some (.illegalOperand, true)
    else if pairConflict i j then some (.pairConflict, false)
    else none

/-- The state in which the second of a pair is tried by itself: the first one's pops and its flag are taken. -/
def State.trial (s : State) (g : Group) (i : Instr) (w : BitVec 96) : State :=
  let g' := match g.popAll i.queues with
    | .ok (_, h) => h
    | .error _ => g
  (s.setG s.cur.g (g'.raiseFlag (flagOf i.setf s.cur))).second g w

/-- The second of a pair after the first has executed; an outcome that is no next state stays as it is. -/
def runSecond (g : Group) (w : BitVec 96) (j : Instr) : Host.Outcome State Fault Refusal → Host.Outcome State Fault Refusal
  | .next t => match exec j (t.second g w) with
    | .next u => .next { u with snap := none }
    | o => o
  | o => o

/-- The report of an outcome. -/
def lastOf : Host.Outcome State Fault Refusal → Last
  | .next t => t.last
  | _ => .nothing

/-- A pair (R50, R51): both retire, or neither has an effect. -/
def State.runPair (s : State) (g : Group) (w1 : BitVec 96) : Host.Outcome State Fault Refusal :=
  match s.pairFault g s.cur.word w1 with
  | some (c, hi) => .next ((if hi then s.second g w1 else s).stop (.fault { code := c }) none)
  | none => match decodeWord s.cur.word, decodeWord w1 with
    | .ok i, .ok j =>
      let o := exec i s
      if lastOf o ≠ .retired then o
      else
        let o2 := exec j (s.trial g i w1)
        if lastOf o2 ≠ .retired then o2 else runSecond g w1 j o
    | _, _ => s.runOne

/-- A candidate waits to issue anew from a time: it has issued, or was found to stall (R305). -/
def Group.waitsFrom (g : Group) (c : Cand) (now : Nat) : Group := match c.sl with
  | .a => { g with asince := now }
  | .c => g.mapPath c.p fun p => { p with since := now }

/-- A candidate has issued: the paths of its group take turns behind it (R305). -/
def Group.issued (g : Group) (c : Cand) (now : Nat) : Group :=
  let g := g.waitsFrom c now
  match c.sl with
  | .a => g
  | .c => match g.path c.p with
    | some p => { g with turn := p.place }
    | none => g

/-- A candidate of a place has been offered the slot: those of its issue partition and slice that have yielded note it (R165). -/
def Group.offered (g : Group) (id : Gid) (sl : Slice) (pid now : Nat) : Group :=
  if g.gid.cluster = id.cluster ∧ g.gid.part = id.part then match sl with
    | .a => if now < g.ayield then { g with apassed := g.apassed ++ [(id, pid)] } else g
    | .c => { g with paths := g.paths.map fun p => if now < p.yield then { p with passed := p.passed ++ [(id, pid)] } else p }
  else g

/-- What the issue stage notes after an issue: who has issued, or has stalled, and from when it waits. -/
def noteIssue (c : Cand) (id : Gid) (now : Nat) : Host.Outcome State Fault Refusal → Host.Outcome State Fault Refusal
  | .next t =>
    if t.last = .retired then
      .next { (t.mapG c.g fun g => g.issued c now) with groups := ((t.mapG c.g fun g => g.issued c now).groups).map fun g => g.offered id c.sl c.p now }
    else if t.last = .stalled then .next (t.mapG c.g fun g => g.waitsFrom c now)
    else .next t
  | o => o

/-- The slot of a line at an address, alone or as a pair. -/
def State.runSlot (s : State) (c : Cand) (l : Line) (pc : Nat) : Host.Outcome State Fault Refusal :=
  let k := pc % 64 / 12
  let s := { s with cur := { g := c.g, sl := c.sl, p := c.p, addr := pc, word := l.words.getD k 0, seta := l.seta, setb := l.setb } }
  match s.groups[c.g]? with
  | none => .next s
  | some g => noteIssue c g.gid s.clock.toNat (if l.pair k then s.runPair g (l.words.getD (k + 1) 0) else s.runOne)

/-- The issue of a candidate: a timer that is due, its line, its slot (R29, R46, R309). -/
def State.issueAt (s : State) (c : Cand) : Host.Outcome State Fault Refusal :=
  match s.groups[c.g]? with
  | none => .next (s.report .idle)
  | some g =>
    if s.timerDue g || (g.held && !g.inh) then .next ((s.takeTimer c.g).report (.faulted .timer))
    else match s.lineFor g c with
      | .error st => .next ((s.aim c (g.pcOf c)).stop st none)
      | .ok (l, t) => t.runSlot c l (g.pcOf c)

/-- Candidates are tried in order until one does not stall; what a stall notes stays. -/
def tryAll : List Cand → State → Host.Outcome State Fault Refusal
  | [], s => .next s
  | c :: cs, s => match s.issueAt c with
    | .next t => if t.last = .stalled then tryAll cs t else .next t
    | o => o

/-! ## The default order of events (log 1) -/

/-- An event of the table, as what it does to a state. -/
abbrev Event := State → Host.Outcome State Fault Refusal

/-- The event by which an operation in flight goes on. -/
def opEvent (s : State) (gi : Nat) (o : Op) : Event :=
  match o.late with
  | some f => fun t => execLongLatencyFault gi o.id f.code.num f.lane t f.addr
  | none => match o.kind with
    | .store _ _ | .fill _ _ _ _ | .coll _ => execAcknowledgement gi o.id
    | .ldq _ _ _ => execLdqDataReturn gi o.id false
    | .kiln (st :: _) _ _ _ _ _ => if s.toSpindle st then fun t => execSpindleArrival gi o.id t else fun t => execKilnStep gi o.id t
    | .kiln [] _ _ _ _ _ => execKilnReply gi o.id
    | .msend _ _ none _ => execFlitDelivery gi o.id
    | .msend _ _ (some _) _ => execMsendAnswer gi o.id
    | .launch _ _ => execLaunchReply gi o.id
    | _ => fun t => execLoadCompletion gi o.id t

/-- The events of a group. -/
def groupEvents (s : State) (gi : Nat) (g : Group) : List Event :=
  [execTimerFire gi, execTakeTrap gi, execReplayableFaultStop gi, execQuantumEnd gi, execAsyncTimeout gi] ++
    (match g.vneed with
    | some n => [fun t => execRegisterLineFill gi n t]
    | none => []) ++
    (g.paths.flatMap fun p => [execParkWakeByWrite gi p.id, execParkBoundExpiry gi p.id]) ++ g.ops.map (opEvent s gi)

/-- The events of a cluster's engines. -/
def clusterEvents (cl : Nat) (c : Cluster) : List Event :=
  (c.copy.map fun x => execEngineOperation cl .copy x.id) ++ (c.gather.map fun x => execEngineOperation cl .gather x.id) ++
    (c.link.map fun x => execEngineOperation cl .link x.id) ++ (c.lathe.map fun x => execStreamAcceptance cl x.id) ++
    (c.lathe.map fun x => execStreamStep cl x.id) ++ (if c.lathe.isEmpty then [] else [execLatheKBlock cl]) ++
    (if c.trowel.isEmpty then [] else [execTrowelCommand cl]) ++
    ((c.copy ++ c.gather ++ c.lathe ++ c.trowel).filterMap fun x => if x.susp.isSome then some (execReplayableRecordRetry x.slot x.id) else none)

/-- A launch's dependence can be found satisfied, or at fault, now. -/
def State.pollDue (s : State) (l : Launch) : Bool :=
  l.ready.isNone && (List.range l.deps.length).any fun i => !l.satisfied.contains i && match s.readSignal l.slot (l.deps.getD i 0) with
    | .ok b => b
    | .error _ => true

/-- The events of a launch. -/
def launchEvents (s : State) (l : Launch) : List Event :=
  (if s.pollDue l then [execDependencePoll l.age] else []) ++
    [execLaunchCompletion l.age, execSignalDecrement l.age false, execSignalDecrement l.age true, execPriorityAging l.age, execPlacementMapTimeout l.age] ++
    (if l.task && s.isReady l then l.pendingTasks.map fun t => execTaskEligibilityTest l.age t else [])

/-- A round of a context would do something. -/
def State.roundDue (s : State) (slot : Nat) : Bool :=
  s.roundReady slot &&
    (s.groups.any (fun g => g.slot == slot && g.dmode && !s.leaves g && (!g.paths.isEmpty || !g.cbuf.isEmpty)) ||
      (((!(s.ctx slot).hostq.isEmpty) || !(s.dLaunches slot).isEmpty || (s.ctx slot).pState == .resetting ||
          s.teams.any (fun (t : Team) => t.slot == slot && t.dmode && t.saving) || (s.ctx slot).saved.any fun (t : SavedTeam) => t.team.dmode) &&
        commitRoundBody slot s != some s))

/-- The events of a context. -/
def contextEvents (s : State) (slot : Nat) (c : Context) : List Event :=
  if c.state = .free then []
  else
    (if c.msixHeld then [execMsixDeferredRaise slot] else []) ++ (if c.pDone then [] else [execForcedReset slot]) ++
      (if c.state = .closing then [fun t => execContextRelease slot t] else []) ++ (if s.roundDue slot then [execCommitRound slot] else []) ++
      (c.saved.map fun (t : SavedTeam) => execTeamRestore t.team.tag) ++
      (c.meas.map fun (m : Measure) => execIntensityMeasurementEnd slot m.kdesc (Config.movedBytes s.free) 0) ++
      (if c.ready.isEmpty then [] else ((List.range 128).map fun cl => execTaskTake cl slot) ++ (List.range 128).map fun cl => execTaskSteal cl slot)

/-- The events that may happen now of themselves, in the default order. -/
def State.events (s : State) : List Event :=
  (s.groups.zipIdx.flatMap fun p => groupEvents s p.2 p.1) ++ (s.spindle.zipIdx.map fun p => execSpindlePhaseCompletion p.2) ++
    (s.clusters.zipIdx.flatMap fun p => clusterEvents p.2 p.1) ++ (s.teams.map fun t => execTeamRetirement t.tag) ++
    (s.launches.flatMap (launchEvents s)) ++ (s.ctxs.zipIdx.flatMap fun p => contextEvents s p.2 p.1) ++
    ((List.range 17).map fun fn t => execQuote fn t false) ++
    (if s.launches.any s.isReady then ((List.range 128).map fun cl t => execTeamDispatch cl t) ++ s.launches.map fun l => execFrontEndPreemption l.age
    else [])

/-- The device's own work that no row names: saves that can be made, and commands that have waited for them (R355, R360). -/
def State.housekeep (s : State) : Option State :=
  if s.canSave then some s.saveReady
  else ((List.range 64).find? fun k => (s.ctx k).pWait.isSome && !s.frontSaves k).map fun k => s.servePcmd k

/-- The first event that takes place. -/
def firstEvent : List Event → State → Option (Host.Outcome State Fault Refusal)
  | [], _ => none
  | e :: es, s => if lastOf (e s) = .nothing then firstEvent es s else some (e s)

/-- The default order: the device's own events first, then an issue. The slice that did not issue last is tried first. -/
def State.runDefault (s : State) : Host.Outcome State Fault Refusal :=
  match s.housekeep with
  | some t => .next (t.report .event)
  | none => match firstEvent s.events s with
    | some o => o
    | none =>
      let a := s.ranked .a fun _ => true
      let c := s.ranked .c fun _ => true
      tryAll (if s.cur.sl = .a then c ++ a else a ++ c) (s.report .idle)

/-- Time passes; a step that takes no time falls in the cycle of the one before (log 3). -/
def State.tick (s : State) : State :=
  { s with clock := s.clock + BitVec.ofNat 64 (Config.elapsed s.free), free := s.free + 1 }

/-- Time passes after a step. -/
def ticked : Host.Outcome State Fault Refusal → Host.Outcome State Fault Refusal
  | .next t => .next t.tick
  | o => o

/-- A candidate can still be chosen: what has happened since ISSUE_SELECTION has not stopped its group or its path. -/
def State.stands (s : State) (c : Cand) : Bool :=
  match s.groups[c.g]? with
  | some g => (s.candsOf c.g g).any (·.c == c)
  | none => false

/-- What the next step does: the issue that ISSUE_SELECTION has chosen, an event of the agenda, or the default order. A member of
the agenda that is no event is passed over. -/
def State.run (s : State) : Host.Outcome State Fault Refusal :=
  if s.cur.chosen && s.stands ⟨s.cur.g, s.cur.sl, s.cur.p⟩ then s.issueAt ⟨s.cur.g, s.cur.sl, s.cur.p⟩
  else match s.agenda with
    | e :: r => if e.isEvent then exec e { s with agenda := r } else .next { s with agenda := r, last := .nothing }
    | [] => s.runDefault

end Sys2Proof.Machine
end

