-- ==== Sys2Proof/Machine/Step.lean ====
section
/-! DEFINITION. One step of the machine, and a state whose next step runs a given instruction (log 22). -/

namespace Sys2Proof.Machine

/-- One step: what happens next, and the time it takes. -/
def step (s : State) : Host.Outcome State Fault Refusal := ticked s.run

/-- Where `withFetchWord` stores the instruction's line, as a virtual address. -/
def fetchVa : Nat := 0x1000

/-- A page table of four levels that maps the first virtual page to a frame, readable, writable and executable (R323). -/
def fetchTables : List (Nat × Byte) :=
  let entry (a e : Nat) : List (Nat × Byte) := (bytesOfWord 8 e).zipIdx.map fun p => (a + p.2, p.1)
  entry 0x10000 0x12001 ++ entry 0x12000 0x14001 ++ entry 0x14000 0x16001 ++ entry 0x16000 0x2001F

/-- The team that holds the group of `withFetchWord`. -/
def fetchTeam (tag : Nat) : Team :=
  { tag := tag, lage := 0, slot := 0, cluster := 0, part := 0, tlin := 0, tx := 0, ty := 0, tz := 0, pclass := 0, prio := 0, dmode := false,
    shBase := 0, shBytes := 4096, ztiles := [0, 1] }

/-- The group of `withFetchWord`, as a dispatch makes it (R22), with both slices at the instruction. -/
def fetchGroup (tag now : Nat) : Group :=
  newGroup (launchOf 0 0 []) { centry := fetchVa, aentry := fetchVa, shbytes := 4096, scbytes := 0, roles := [⟨1, 64, 64⟩] } (fetchTeam tag) 0 (0, 0) 1 now

/-- The slice that runs an instruction word: the A-slice where only it may (R26). -/
def sliceFor (w : BitVec 96) : Slice :=
  match decodeWord w with
  | .ok i => if i.aOnly then .a else .c
  | .error _ => .c

/-- The state with an instruction stored where the next step fetches: context slot 0 is active with a page table in memory, a group
of it is resident and chosen to issue, and the instruction is slot 0 of the line at its program counter (log 22). -/
def State.withFetchWord (s : State) (_nbits w : Nat) : State :=
  let word := BitVec.ofNat 96 w
  let s := (s.setCtx 0 { s.ctx 0 with state := .active, ptbase := 0x10000, pvbase := 0, plimit := 1 }).dropTlb fun e => e.slot == 0
  let m := (s.mem.setAll fetchTables).setBytes (keyPhys (0x20000 + fetchVa)) (lineBytes word)
  { s with
    agenda := [], snap := none, mem := m, groups := s.groups ++ [fetchGroup s.nextTag s.clock.toNat], teams := s.teams ++ [fetchTeam s.nextTag],
    nextTag := s.nextTag + 1, cur := { g := s.groups.length, sl := sliceFor word, p := 0, chosen := true } }

end Sys2Proof.Machine
end

