-- ==== Sys2Proof/Safety.lean ====
section
/-! DEFINITION. What the statements call a finished instruction, a group at work, and an accurate special function. -/

namespace Sys2Proof.Safety

open Sys2Proof.Machine

/-! ## Special functions (R147, log 5) -/

/-- A finite FP32 number has this real value. -/
def HasValue (x : BitVec 32) (r : ℝ) : Prop :=
  (x.extractLsb' 23 8).toNat ≠ 255 ∧
    r = (if x.getLsbD 31 then -1 else 1) *
      (if (x.extractLsb' 23 8).toNat = 0 then ((x.extractLsb' 0 23).toNat : ℝ) * 2 ^ (-149 : ℤ)
      else ((2 ^ 23 + (x.extractLsb' 0 23).toNat : ℕ) : ℝ) * 2 ^ (((x.extractLsb' 23 8).toNat : ℤ) - 150))

/-- A value is within `n` ulp of the exact one, with the ulp of the exact value's binade. -/
def WithinUlp (n : ℕ) (y r : ℝ) : Prop :=
  ∃ k : ℤ, (2 : ℝ) ^ k ≤ |y| ∧ |y| < 2 ^ (k + 1) ∧ |r - y| ≤ n * 2 ^ (max k (-126) - 23)

/-- The exact value of a special function. -/
def ExactSf (f : SfFn) (a y : ℝ) : Prop :=
  match f with
  | .fexp2 => a < 128 ∧ y = (2 : ℝ) ^ a
  | .flog2 => 0 < a ∧ y = Real.logb 2 a
  | .fsin => y = Real.sin (2 * Real.pi * a)
  | .fcos => y = Real.cos (2 * Real.pi * a)
  | .ftanh => y = Real.tanh a
  | .fsigm => y = 1 / (1 + Real.exp (-a))

/-- The accuracy that R147 gives a special function's value. -/
def SfBound (f : SfFn) (a y r : ℝ) : Prop :=
  match f with
  | .fexp2 | .ftanh | .fsigm => WithinUlp 2 y r
  | .flog2 => if a < 1 / 2 ∨ 2 < a then WithinUlp 2 y r else |r - y| ≤ 2 ^ (-22 : ℤ)
  | .fsin | .fcos => |r - y| ≤ 2 ^ (-22 : ℤ)

/-- R147's accuracy as a property of a function of FP32 numbers: at every finite input whose exact value is not zero, the value it gives keeps the
table's bound. `Machine.sfFree` keeps the same bound against `Machine.sfRef`, which stands within 2^-100 of the exact value (log 5). -/
def Accurate (f : SfFn) (v : BitVec 32 → BitVec 32) : Prop :=
  ∀ (x : BitVec 32) (a y : ℝ), HasValue x a → ExactSf f a y → y ≠ 0 → ∃ r, HasValue (v x) r ∧ SfBound f a y r

/-! ## An instruction that issues -/

/-- A well-formed instruction of the cursor issues: the cursor names a path of the group, the operands and the encoding are legal in it (R53), no
register that it names is awaited (R49, R238), its V registers are resident (R31) in lines without an error (R362), its flag can rise (R48), and each queue that it pops
holds data (R19). These are conditions on the state and the operands alone. It is not the second half of a pair. -/
structure Issues (i : Instr) (s : State) (g : Group) : Prop where
  wf : i.wf = true
  here : s.groups[s.cur.g]? = some g
  alone : s.snap = none
  path : s.cur.sl = .c → ∃ p, g.path s.cur.p = some p
  legal : decodeFault i g s = none
  free : ∀ r ∈ i.refs, r ∉ g.awaited ∧ r ∉ g.buffered
  resident : g.missing i.vregs = none
  sound : ∀ n ∈ i.vregs, n ∉ g.vbad
  flag : ∀ k, flagOf i.setf s.cur = some k → g.flags.getD k 0 < 255
  full : ∀ q ∈ i.queues, ∃ v r, g.q.getD q [] = QPos.data v :: r

/-- The entry at the head of a queue. -/
def frontOf (g : Group) (q : Nat) : LaneVec := match g.q.getD q [] with
  | .data v :: _ => v
  | _ => []

/-- What an instruction that issues sees: its group, its path, its guard, the entries it pops, its flag (R58). -/
def envOf (i : Instr) (s : State) (g : Group) : Env :=
  { s := s, g := g, gi := s.cur.g, p := g.curPath s.cur, sl := s.cur.sl, gd := i.guard, pops := i.queues.map fun q => (q, frontOf g q),
    flag := flagOf i.setf s.cur, addr := s.cur.addr }

/-- The register files have the sizes of R20, R21 and R48: a state that a run reaches has no other. -/
structure Shaped (g : Group) : Prop where
  v : g.regs.v.length = g.vbud
  s : g.regs.s.length = 64
  a : g.regs.a.length = 64
  p : g.regs.p.length = 64
  flags : g.flags.length = 12
  q : g.q.length = 4
  raised : g.raised.length = 5
  sbud : g.sbud ≤ 64

/-- The whole next state of an instruction that changes only its group: `gt` stands in the group's place, and the instruction has
retired. Memory, every other group, every context and every cluster are as before. -/
def Becomes (s : State) (gt : Group) : State := { s with groups := s.groups.set s.cur.g gt, last := .retired }

/-- The special registers that an instruction can write, as a path reads them (R23). -/
def special (g : Group) (pid : Nat) : SReg → DWord
  | .exec => match g.path pid with
    | some p => p.exec.setWidth 64
    | none => 0
  | .slip => BitVec.ofNat 64 g.regs.slip
  | .tvec => g.regs.tvec
  | .tcmp => g.regs.tcmp
  | .seed => g.regs.seed.setWidth 64
  | .fmtb => g.regs.fmtb
  | _ => 0

/-- What a write of a special register stores: EXEC keeps to the lanes its path holds (R26), SLIP takes 1 for 0 and 16 for
more (R28), TVEC has 56 bits, SLIP and SEED have 32 (R23), and the reserved bits of FMTB store 0 (R5, R121). -/
def stored (held : Mask) (r : SReg) (x : DWord) : DWord :=
  match r with
  | .exec => (x.setWidth 32 &&& held).setWidth 64
  | .slip => if x.toNat % 32 = 0 then 1 else if 16 < x.toNat % 32 then 16 else BitVec.ofNat 64 (x.toNat % 32)
  | .tvec => (x.setWidth 56).setWidth 64
  | .seed => (x.setWidth 32).setWidth 64
  | .fmtb => x &&& 0x3FFFFFFFFFFFFF3F
  | .tcmp => x
  | _ => 0

/-- dst(l) := v of R58 and R133. A V destination takes each active lane's value and keeps its other lanes; an S or special
register takes the value of ulane() when the guard holds there; an A register takes the one value. -/
def Writes (e : Env) (g gt : Group) (d : Operand) (w64 : Bool) (v : Nat → DWord) : Prop :=
  match d with
  | .v n => ∀ l < 32, gt.vlane n.toNat l = (if e.isActive l then (v l).setWidth 32 else g.vlane n.toNat l) ∧
      (w64 = true → gt.vlane (n.toNat + 1) l = if e.isActive l then BitVec.setWidth 32 (v l >>> (32 : Nat)) else g.vlane (n.toNat + 1) l)
  | .s n => gt.sreg n.toNat = (if e.uguard then (v e.ulane).setWidth 32 else g.sreg n.toNat) ∧
      (w64 = true → gt.sreg (n.toNat + 1) = if e.uguard then BitVec.setWidth 32 (v e.ulane >>> (32 : Nat)) else g.sreg (n.toNat + 1))
  | .a n => gt.areg n.toNat = v 0
  | .sr r => special gt e.p.id r = if e.uguard then stored e.p.held r (v e.ulane) else special g e.p.id r
  | _ => True

/-- V, S and A registers other than these are unchanged; so is every special register that is not the destination. -/
structure KeepsRegs (e : Env) (g gt : Group) (ws : List RegRef) (d : Operand) : Prop where
  v : ∀ n l, l < 32 → RegRef.v n ∉ ws → gt.vlane n l = g.vlane n l
  s : ∀ n, RegRef.s n ∉ ws → gt.sreg n = g.sreg n
  a : ∀ n, RegRef.a n ∉ ws → gt.areg n = g.areg n
  special : ∀ r, d ≠ .sr r → special gt e.p.id r = special g e.p.id r

/-- Everything else of the group is unchanged but the program counter, which is at the next slot (R47), the heads of the popped
queues (R19), which the instruction takes once each when it issues (log 23, DEDUCED), RETIRED, the quantum's count and the counted
floating-point operations (R27, R236, R296), the register cache's bookkeeping (R30, R31), and what the A-slice's stall noted. -/
structure KeepsRest (i : Instr) (s : State) (g gt : Group) : Prop where
  rest : gt =
    { g with
      regs := gt.regs, raised := gt.raised, paths := gt.paths, apc := gt.apc, q := gt.q, qh := gt.qh, retired := gt.retired, qn := gt.qn,
      vres := gt.vres, vwr := gt.vwr, vdirty := gt.vdirty, flops := gt.flops, astall := gt.astall, armed := gt.armed }
  paths : gt.paths.map (fun p => { p with pc := 0, exec := 0 }) = g.paths.map (fun p => { p with pc := 0, exec := 0 })
  pcC : s.cur.sl = .c → gt.apc = g.apc ∧ gt.paths.map (·.pc) = g.paths.map fun p => if p.id == s.cur.p then nextAddr s.cur.addr else p.pc
  pcA : s.cur.sl = .a → gt.apc = nextAddr s.cur.addr ∧ gt.paths = g.paths
  pops : ∀ k, gt.q.getD k [] = if k ∈ i.queues then (g.q.getD k []).tail else g.q.getD k []
  retired : gt.retired = if s.cur.sl = .c then g.retired + 1 else g.retired
  quantum : gt.qn = if s.cur.sl = .c then g.qn + 1 else g.qn

/-- What predicate `n` holds in lane `l` after an instruction of classes 000-010: its predicate destination `pd` takes each active
lane's result, or one result in every lane of the path where the instruction is uniform (R39, R133); then the IEEE conditions are ORed
into P59-P63 (R127). P0 stays true (R20). -/
def predAfter (e : Env) (g : Group) (d : Operand) (pd : Nat) (f : Nat → LaneOut) (n l : Nat) : Bool :=
  let uni := match d with
    | .s _ | .sr _ => true
    | _ => false
  let x := if n = 0 ∨ n ≠ pd then g.pred n l
    else if uni then (if e.uguard && e.p.held.getLsbD l then (f e.ulane).p else g.pred n l)
    else if e.takes d l then (f l).p else g.pred n l
  x || (decide (59 ≤ n) && e.takes d l && (f l).cnd.getLsbD (n - 59))

/-- An instruction of classes 000-010 completes: it retires in a next state in which its destination and predicates hold what each
lane gives (R133), and all else stays as it was. -/
def Completes (i : Instr) (s : State) (g : Group) (hasD : Bool) (d : Operand) (w64 : Bool) (pd : Nat) (f : Nat → LaneOut) : Prop :=
  ∃ gt, exec i s = .next (Becomes s gt) ∧
    (hasD = true → Writes (envOf i s g) g gt d w64 fun l => (f l).val) ∧
    (∀ n l, n < 64 → l < 32 → gt.pred n l = predAfter (envOf i s g) g d pd f n l) ∧
    KeepsRegs (envOf i s g) g gt i.dsts d ∧ KeepsRest i s g gt

/-- The instruction completes in its group alone, with what `W` says of the group before and after. -/
def CompletesIn (i : Instr) (s : State) (g : Group) (W : Env → Group → Group → Prop) : Prop :=
  ∃ gt, exec i s = .next (Becomes s gt) ∧ W (envOf i s g) g gt ∧ KeepsRest i s g gt

/-- An instruction that issues completes, and each lane gives what `R` says of it. -/
def Finishes (s : State) (g : Group) (i : Instr) (d : Operand) (w64 : Bool) (pd : Nat) (R : Env → Nat → LaneOut → Prop) : Prop :=
  Issues i s g → ∃ f, (∀ l < 32, R (envOf i s g) l (f l)) ∧ Completes i s g true d w64 pd f

/-- One value for every lane (R152, R154-R156): an S register takes it whatever the guard in ulane(), a V register in every active lane. -/
def WritesAll (e : Env) (g gt : Group) (d : Operand) (w64 : Bool) (x : DWord) : Prop :=
  match d with
  | .s n => gt.sreg n.toNat = x.setWidth 32 ∧ (w64 = true → gt.sreg (n.toNat + 1) = BitVec.setWidth 32 (x >>> (32 : Nat)))
  | .v n => ∀ l < 32, gt.vlane n.toNat l = (if e.isActive l then x.setWidth 32 else g.vlane n.toNat l) ∧
      (w64 = true → gt.vlane (n.toNat + 1) l = if e.isActive l then BitVec.setWidth 32 (x >>> (32 : Nat)) else g.vlane (n.toNat + 1) l)
  | _ => True

/-- Every predicate is as before, in every lane. -/
def KeepsPreds (g gt : Group) : Prop := ∀ n l, n < 64 → l < 32 → gt.pred n l = g.pred n l

/-! ## Values of classes 000-010 -/

/-- The register form and the I form of an instruction (R40, R54). -/
def forms (r : Operand → Instr) (i : Word → Instr) : Src → Instr
  | .r o => r o
  | .i m => i m

/-- The integer that a source of a type holds: its low bits, by signedness (R109, R135). -/
def integer (ty : Ty) (x : DWord) : Int := if ty.isSigned then (x.setWidth ty.bits).toInt else (x.setWidth ty.bits).toNat

/-- An integer at the width of its type, extended by signedness (R134, R135). -/
def wrapped (ty : Ty) (v : Int) : DWord :=
  if ty.isSigned then (BitVec.ofInt ty.bits v).signExtend 64 else (BitVec.ofInt ty.bits v).setWidth 64

/-- sat(v, T): the nearest value of the type (R118, R138). -/
def clamped (ty : Ty) (v : Int) : Int :=
  if ty.isSigned then max (-(2 ^ (ty.bits - 1))) (min (2 ^ (ty.bits - 1) - 1) v) else max 0 (min (2 ^ ty.bits - 1) v)

/-- A bit pattern at the width of its type; `.B32` zero-extends (R134). -/
def pattern (ty : Ty) (f : (w : Nat) → BitVec w → BitVec w) (x : DWord) : DWord := (f ty.bits (x.setWidth ty.bits)).setWidth 64

/-- A lane gives a value, no predicate and no condition. -/
def Gives (o : LaneOut) (x : DWord) : Prop := o = { val := x }

/-! ## Instructions whose effect is not a register's value -/

/-- The group of an instruction that has passed with no effect of its own: the program counter is at the next slot (R47), the heads of the
popped queues are gone, RETIRED and the quantum have counted it, and nothing that a program can read has changed besides. -/
structure Passed (i : Instr) (s : State) (g h : Group) : Prop where
  keeps : KeepsRest i s g h
  regs : h.regs = g.regs
  armed : h.armed = g.armed
  exec : h.paths.map (·.exec) = g.paths.map (·.exec)
  raised : h.raised = [0, 0, 0, 0, 0]

/-- The instruction retires with no effect. -/
def Passes (i : Instr) (s : State) (g : Group) : Prop := ∃ h, Passed i s g h ∧ exec i s = .next (Becomes s h)

/-- The instruction retires, and its effect on the group is `F`; all else is as before. -/
def Leaves (i : Instr) (s : State) (g : Group) (F : Group → Group) : Prop := ∃ h, Passed i s g h ∧ exec i s = .next (Becomes s (F h))

/-- The instruction raises a fault, and reports it. -/
def Faults (i : Instr) (s : State) (c : FCode) : Prop := ∃ t, exec i s = .next t ∧ t.last = .faulted c

/-- A byte that reporting a fault of a group may write: its record in the context save area, and the fault queue (R339, R343, R346). -/
def ReportByte (s : State) (g : Group) (k : Nat) : Prop :=
  let c := s.ctx g.slot
  (c.csaGroup g.gid ≤ k ∧ k < c.csaGroup g.gid + 0x8000) ∨ (c.tqHeader ≤ k ∧ k < c.tqHeader + 64 + 64 * c.tqN)

/-- The instruction raises a fault before any effect of its own (R53, R68): in the C-slice the fault is raised in the state as the instruction
found it, registers and predicates are as before, and so is every byte of memory but those that report the fault. -/
def FaultsFirst (i : Instr) (s : State) (g : Group) (c : FCode) : Prop :=
  ∃ t, exec i s = .next t ∧ t.last = .faulted c ∧
    (s.cur.sl = .c → ∃ f : FaultInfo, f.code = c ∧ t = (s.raise s.cur.g f s.cur.addr s.cur.addr s.cur.p).report (.faulted c)) ∧
    (∃ gt, t.groups[s.cur.g]? = some gt ∧ gt.regs = g.regs) ∧ ∀ k, ¬ ReportByte s g k → t.mem.get k = s.mem.get k

/-- The instruction stalls: nothing has changed but the report (R19, R49). -/
def Stalls (i : Instr) (s : State) : Prop := exec i s = .next { s with last := .stalled }

/-- A context but for its window cache (R332). -/
def blankCaches (c : Context) : Context := { c with wins := [] }

/-- The instruction retires with an operation of its group added: it raises its flag and is counted, takes the next identifier, and the translations
and windows it used may enter the caches (R326, R332). Memory, all other groups and everything else are as before. -/
def Queues (i : Instr) (s : State) (g : Group) (add : Group → Group) : Prop :=
  ∃ h cs tl, Passed i s g h ∧ exec i s = .next { Becomes s (add h) with nextId := s.nextId + 1, ctxs := cs, tlbs := tl } ∧
    cs.map blankCaches = s.ctxs.map blankCaches

/-- A path's fields changed in a group, by its number. -/
def Group.withPath (g : Group) (pid : Nat) (f : Path → Path) : Group := { g with paths := g.paths.map fun q => if q.id = pid then f q else q }

/-! ## Floating-point values (R110, R111, R113) -/

/-- The number that a decoded finite value stands for. -/
def numberOf : Fx → ℚ
  | .fin s m e => (if s then -1 else 1) * (m : ℚ) * (2 : ℚ) ^ e
  | _ => 0

/-- The five formats of R110. -/
def formats : List Fmt := [F32, F16, BF16, E5M2, E4M3]

/-- One decoded value lies strictly below another; zeros of both signs are equal, and a NaN is unordered (R145). -/
def Below : Fx → Fx → Prop
  | .inf s, .inf t => s = true ∧ t = false
  | .inf s, .fin _ _ _ => s = true
  | .fin _ _ _, .inf t => t = false
  | .fin s m e, .fin t n k => numberOf (.fin s m e) < numberOf (.fin t n k)
  | _, _ => False

/-- Two decoded values are equal as numbers (R145). -/
def Same : Fx → Fx → Prop
  | .inf s, .inf t => s = t
  | .fin s m e, .fin t n k => numberOf (.fin s m e) = numberOf (.fin t n k)
  | _, _ => False

/-- A point of the grid of R113's second step: a format's fraction width, no upper exponent bound, and its subnormal spacing below the
smallest normal. -/
def OnGrid (f : Fmt) (y : ℝ) : Prop := ∃ (k : ℤ) (q : ℤ), |k| ≤ 2 ^ (f.frac + 1) ∧ f.emin - f.frac ≤ q ∧ y = k * (2 : ℝ) ^ q

/-- `y` is the neighbour of `x` on the grid that a mode takes (R113). -/
def Neighbour (f : Fmt) (r : Rnd) (x y : ℝ) : Prop :=
  OnGrid f y ∧ match r with
    | .rne => ∀ z, OnGrid f z → |y - x| ≤ |z - x|
    | .rtz => |y| ≤ |x| ∧ 0 ≤ x * y ∧ ∀ z, OnGrid f z → |z| ≤ |x| → |z| ≤ |y|
    | .rdn => y ≤ x ∧ ∀ z, OnGrid f z → z ≤ x → z ≤ y
    | .rup => x ≤ y ∧ ∀ z, OnGrid f z → x ≤ z → y ≤ z

/-- `o` is round() of R113 and R114 for the non-zero number `x` with sign `s`: the grid's neighbour that the mode takes, with an even last bit on
a tie, inexact when it differs and underflow below the smallest normal; the overflow table beyond the largest finite value. -/
def RoundsTo (f : Fmt) (r : Rnd) (sat s : Bool) (x : ℝ) (o : Nat × Cnd) : Prop :=
  ∃ y, Neighbour f r x y ∧
    (|y| ≤ numberOf (f.decode f.maxBits) →
      numberOf (f.decode o.1) = y ∧ (f.decode o.1).sign = s ∧ (f.decode o.1).isNan = false ∧
      (r = .rne → (∃ z, z ≠ y ∧ OnGrid f z ∧ |z - x| = |y - x|) → o.1 % 2 = 0) ∧
      (y = x → o.2 = 0) ∧ (y ≠ x → (2 : ℝ) ^ f.emin ≤ |y| → o.2 = cInexact) ∧
      (y ≠ x → |y| < (2 : ℝ) ^ f.emin → o.2 = cInexact ||| cUnderflow)) ∧
    (numberOf (f.decode f.maxBits) < |y| → o.2 = cOverflow ∧
      o.1 = if sat ∨ r = .rtz ∨ (r = .rdn ∧ s = false) ∨ (r = .rup ∧ s = true) then f.maxBits + (if s then f.signBit else 0) else f.infBits s)

/-- The conditions of a special function's result that is not exact: inexact, and underflow when it is subnormal or zero (R147). -/
def sfConditions (r : Nat) : Cnd := if r % 2 ^ 31 < 2 ^ 23 then cInexact ||| cUnderflow else cInexact

/-- The elements of a lane word of a packed type, and the conditions of all of them (R109, R143). -/
def PerElement (ty : Ty) (o : LaneOut) (r : Nat → Nat × Cnd) : Prop :=
  o.p = false ∧ o.val.toNat < 2 ^ 32 ∧ (∀ j < ty.count, o.val.toNat / 2 ^ (ty.bits * j) % 2 ^ ty.bits = (r j).1 % 2 ^ ty.bits) ∧
    o.cnd = (List.range ty.count).foldl (fun c j => c ||| (r j).2) 0

/-- Element `j` of a lane word (R109). -/
def elementOf (ty : Ty) (w : Word) (j : Nat) : Nat := (w >>> (ty.bits * j)).toNat % 2 ^ ty.bits

/-! ## Finished instructions -/

/-- An outcome is a next state in which the instruction has retired with its own effect. -/
def RetiresIn (o : Host.Outcome State Fault Refusal) (t : State) : Prop := o = .next t ∧ t.last = .retired

/-- An outcome is a next state in which the event has taken place. -/
def HappensIn (o : Host.Outcome State Fault Refusal) (t : State) : Prop := o = .next t ∧ t.last = .event

end Sys2Proof.Safety
end

