-- ==== Sys2Proof/Certificates/Slice0/Obligations.lean ====
section
/-! DEFINITION. The statements for the provers. A table of rows stands before the statement that it serves: each row is an
instruction and what its rule says that a lane gives. -/

open Sys2Proof Sys2Proof.Machine Sys2Proof.Safety

namespace Sys2Proof.Claims

/-- What a lane of an instruction gives. -/
abbrev LaneRel := Env → Nat → LaneOut → Prop

/-- Two integers of a type to one (R138). -/
def int2 (ty : Ty) (a : Operand) (b : Src) (f : Int → Int → Int) : LaneRel :=
  fun e l o => Gives o (wrapped ty (f (integer ty (e.rd a ty.is64 l)) (integer ty (e.srcB ty b l))))

/-- One integer of a type to one (R138). -/
def int1 (ty : Ty) (a : Operand) (f : Int → Int) : LaneRel := fun e l o => Gives o (wrapped ty (f (integer ty (e.rd a ty.is64 l))))

/-- The rows of R138 with one result of the instruction's type. -/
def integerRows (h : Head) (ty : Ty) (sat : Bool) (d a : Operand) (b : Src) (c : Operand) : List (Instr × LaneRel) :=
  [(forms (.iadd h ty d a) (.iaddI h ty d a) b, int2 ty a b fun x y => x + y),
   (forms (.isub h ty d a) (.isubI h ty d a) b, int2 ty a b fun x y => x - y),
   (forms (.iadds h ty d a) (.iaddsI h ty d a) b, int2 ty a b fun x y => clamped ty (x + y)),
   (forms (.isubs h ty d a) (.isubsI h ty d a) b, int2 ty a b fun x y => clamped ty (x - y)),
   (forms (.imul h ty d a) (.imulI h ty d a) b, int2 ty a b fun x y => x * y),
   (forms (.imulh h ty d a) (.imulhI h ty d a) b, int2 ty a b fun x y => x * y / 2 ^ ty.bits),
   (forms (.imin h ty d a) (.iminI h ty d a) b, int2 ty a b fun x y => if x ≤ y then x else y),
   (forms (.imax h ty d a) (.imaxI h ty d a) b, int2 ty a b fun x y => if x ≤ y then y else x),
   (forms (fun o => .imad h ty d a o c) (fun m => .imadI h ty d a m c) b, fun e l o =>
     Gives o (wrapped ty (integer ty (e.rd a ty.is64 l) * integer ty (e.srcB ty b l) + integer ty (e.rd c ty.is64 l)))),
   (.iabs h ty sat d a, int1 ty a fun x => if sat then clamped ty |x| else |x|),
   (.ineg h ty sat d a, int1 ty a fun x => if sat then clamped ty (-x) else -x)]

end Sys2Proof.Claims

open Sys2Proof.Claims

namespace Sys2Proof.Claims

/-- Byte `j` of a word, signed or not. -/
def byteOf (signed : Bool) (x : Word) (j : Nat) : Int :=
  if signed then (x.extractLsb' (8 * j) 8).toInt else (x.extractLsb' (8 * j) 8).toNat

/-- IADDC's lane (R139). -/
def iaddcLane (alt : Bool) (a b : Operand) (ps : PReg) : LaneRel := fun e l o =>
  let x := e.rd32 a l
  let y := e.rd32 b l
  let cin : Nat := if e.g.pred ps.toNat l then 1 else 0
  o.cnd = 0 ∧ if alt then o.val = ((x - y - BitVec.ofNat 32 cin).setWidth 64 : DWord) ∧ o.p = decide (x.toNat < y.toNat + cin)
    else o.val = ((x + y + BitVec.ofNat 32 cin).setWidth 64 : DWord) ∧ o.p = decide (2 ^ 32 ≤ x.toNat + y.toNat + cin)

/-- IDP4's lane (R139): the word type is `.I32` for `.I8` and `.N32` for `.N8`. -/
def idp4Lane (ty : Ty) (sat alt : Bool) (a : Operand) (b : Src) (c : Operand) : LaneRel := fun e l o =>
  let sg := ty.isSigned
  let t : Ty := if sg then .i32 else .n32
  let r := integer t (e.rd c false l) + ((List.range 4).map fun j => byteOf sg (e.rd32 a l) j * byteOf (sg && !alt) (e.srcB32 b l) j).sum
  Gives o (wrapped t (if sat then clamped t r else r))

/-- IADDC, IDP4 and IMADW: a carry, a dot product of bytes, a 64-bit sum (R138, R139). -/
def wideRows (h : Head) (ty : Ty) (sat alt : Bool) (d a : Operand) (b : Src) (c : Operand) (ps pd : PReg) :
    List (Instr × Bool × Nat × LaneRel) :=
  [(forms (fun o => .imadw h ty d a o c) (fun m => .imadwI h ty d a m c) b, true, 0, fun e l o =>
     Gives o (BitVec.ofInt 64 (integer ty (e.rd a false l) * integer ty (e.srcB ty b l)) + e.rd c true l)),
   (forms (fun o => .idp4 h ty sat alt d a o c) (fun m => .idp4I h ty sat alt d a m c) b, false, 0, idp4Lane ty sat alt a b c),
   (.iaddc h alt d a c ps pd, false, pd.toNat, iaddcLane alt a c ps)]

end Sys2Proof.Claims

/-- R138, R135, R136: IADD, ISUB, IADDS, ISUBS, IMUL, IMULH, IMIN, IMAX, IMAD, IABS and INEG, in every form and in all three modes, answer a next state
wherever they issue, with their result and frame. R138, R139: so do IMADW (a 64-bit sum), IDP4 (the byte dot product) and IADDC (addition with carry). -/
def Obligations.IntegerArithmetic : Prop :=
  (∀ (s : State) (g : Group) (h : Head) (ty : Ty) (sat : Bool) (d a : Operand) (b : Src) (c : Operand), Shaped g →
    ∀ r ∈ integerRows h ty sat d a b c, Finishes s g r.1 d ty.is64 0 r.2) ∧
  (∀ (s : State) (g : Group) (h : Head) (ty : Ty) (sat alt : Bool) (d a : Operand) (b : Src) (c : Operand) (ps pd : PReg), Shaped g →
    ∀ r ∈ wideRows h ty sat alt d a b c ps pd, Finishes s g r.1 d r.2.1 r.2.2.1 r.2.2.2)

namespace Sys2Proof.Claims

/-- A 32-bit pattern zero-extended, or a 64-bit one (R134). -/
def bits2 (ty : Ty) (a : Operand) (b : Src) (f : DWord → DWord → DWord) : LaneRel :=
  fun e l o => Gives o (pattern ty (fun _ x => x) (f (e.rd a ty.is64 l) (e.srcB ty b l)))

/-- One pattern to one. -/
def bits1 (ty : Ty) (a : Operand) (f : (w : Nat) → BitVec w → BitVec w) : LaneRel :=
  fun e l o => Gives o (pattern ty f (e.rd a ty.is64 l))

/-- LOP3's lane, bit by bit (R140): `c` steers between the four-bit codes G1 and G0. -/
def lop3Lane (ty : Ty) (a b c : Operand) (lut : BitVec 8) : LaneRel := fun e l o =>
  o = { val := o.val } ∧ ∀ i, o.val.getLsbD i = (decide (i < ty.bits) &&
    lut.getLsbD (((e.rd a ty.is64 l).getLsbD i).toNat + 2 * ((e.rd b ty.is64 l).getLsbD i).toNat + 4 * ((e.rd c ty.is64 l).getLsbD i).toNat))

/-- The logic rows of R140, and MOV. -/
def logicRows (h : Head) (ty : Ty) (d a : Operand) (b : Src) (b' c : Operand) (lut : BitVec 8) : List (Instr × LaneRel) :=
  [(forms (.and h ty d a) (.andI h ty d a) b, bits2 ty a b fun x y => x &&& y),
   (forms (.or h ty d a) (.orI h ty d a) b, bits2 ty a b fun x y => x ||| y),
   (forms (.xor h ty d a) (.xorI h ty d a) b, bits2 ty a b fun x y => x ^^^ y),
   (forms (.andn h ty d a) (.andnI h ty d a) b, bits2 ty a b fun x y => x &&& ~~~y),
   (forms (.orn h ty d a) (.ornI h ty d a) b, bits2 ty a b fun x y => x ||| ~~~y),
   (.not h ty d a, bits1 ty a fun _ x => ~~~x),
   (.mov h ty d a, bits1 ty a fun _ x => x),
   (.lop3 h ty d a b' c lut, lop3Lane ty a b' c lut)]

/-- The shift and rotate rows of R140: the count is the low 8 bits, a rotation's is taken modulo the width. -/
def shiftRows (h : Head) (ty : Ty) (d a : Operand) (b : Src) : List (Instr × LaneRel) :=
  [(forms (.shl h ty d a) (.shlI h ty d a) b, fun e l => bits1 ty a (fun _ x => x <<< ((e.srcB32 b l).toNat % 256)) e l),
   (forms (.shr h ty d a) (.shrI h ty d a) b, fun e l => bits1 ty a (fun _ x => x >>> ((e.srcB32 b l).toNat % 256)) e l),
   (forms (.sar h ty d a) (.sarI h ty d a) b, fun e l => bits1 ty a (fun _ x => x.sshiftRight ((e.srcB32 b l).toNat % 256)) e l),
   (forms (.rotl h ty d a) (.rotlI h ty d a) b, fun e l => bits1 ty a (fun _ x => x.rotateLeft (e.srcB32 b l).toNat) e l)]

/-- SEL's lane: the predicate of the C-slice, the A register of the A-slice (R142). -/
def selLane (ty : Ty) (ps : PReg) (a : Operand) (b : Src) (c : Operand) : LaneRel := fun e l o =>
  (e.sl = .c → Gives o (pattern ty (fun _ x => x) (if e.g.pred ps.toNat l then e.rd a ty.is64 l else e.srcB ty b l))) ∧
  (e.sl = .a → Gives o (pattern ty (fun _ x => x) (if e.rd c true l ≠ 0 then e.rd a ty.is64 l else e.srcB ty b l)))

/-- LEA's second term (R142). -/
def leaTerm (ty : Ty) (x : DWord) : DWord := if ty = .n64 then x else if ty = .i32 then (x.setWidth 32).signExtend 64 else (x.setWidth 32).setWidth 64

/-- SEL, MOVI and LEA (R142). -/
def selectRows (h : Head) (ty : Ty) (ps : PReg) (d a : Operand) (b : Src) (c : Operand) (imm : Word) (sh : BitVec 3) : List (Instr × Bool × LaneRel) :=
  [(forms (fun o => .sel h ty d a o c ps) (fun m => .selI h ty d a m c ps) b, ty.is64, selLane ty ps a b c),
   (.movi h ty d imm, ty.is64, fun _ _ o => Gives o (if ty = .i64 then imm.signExtend 64 else imm.setWidth 64)),
   (forms (fun o => .lea h ty d a o sh) (fun m => .leaI h ty d a m sh) b, true, fun e l o =>
     Gives o (e.rd a true l + leaTerm ty (e.srcB ty b l) <<< sh.toNat))]

end Sys2Proof.Claims

/-- R140, R142, R134: AND, OR, XOR, ANDN, ORN, NOT, LOP3, MOV, the shifts and rotations SHL, SHR, SAR and ROTL (R140), and SEL, MOVI and LEA (R142,
R136), in every form, answer a next state wherever they issue, with their result and frame. -/
def Obligations.LogicShiftsAndMove : Prop :=
  (∀ (s : State) (g : Group) (h : Head) (ty : Ty) (d a : Operand) (b : Src) (b' c : Operand) (lut : BitVec 8), Shaped g →
    ∀ r ∈ logicRows h ty d a b b' c lut, Finishes s g r.1 d ty.is64 0 r.2) ∧
  (∀ (s : State) (g : Group) (h : Head) (ty : Ty) (d a : Operand) (b : Src), Shaped g →
    ∀ r ∈ shiftRows h ty d a b, Finishes s g r.1 d ty.is64 0 r.2) ∧
  (∀ (s : State) (g : Group) (h : Head) (ty : Ty) (ps : PReg) (d a : Operand) (b : Src) (c : Operand) (imm : Word) (sh : BitVec 3), Shaped g →
    ∀ r ∈ selectRows h ty ps d a b c imm sh, Finishes s g r.1 d r.2.1 0 r.2.2)

namespace Sys2Proof.Claims

/-- Bit `k` of BFX's source: above bit 31, the sign for `.I32` and 0 for `.N32` (R140). -/
def bfxBit (ty : Ty) (a : Word) (k : Nat) : Bool := if k < 32 then a.getLsbD k else ty.isSigned && a.getLsbD 31

/-- BFX's lane, bit by bit. -/
def bfxLane (ty : Ty) (a : Operand) (b : Src) : LaneRel := fun e l o =>
  let pos := (e.srcB32 b l).toNat % 256
  let len := (e.srcB32 b l).toNat / 256 % 256
  o = { val := o.val } ∧ ∀ i < 64, o.val.getLsbD i =
    if len = 0 then false else if i < len then bfxBit ty (e.rd32 a l) (pos + i) else ty.isSigned && bfxBit ty (e.rd32 a l) (pos + len - 1)

/-- BFI's lane, bit by bit. -/
def bfiLane (a : Operand) (b : Src) (c : Operand) : LaneRel := fun e l o =>
  let pos := (e.srcB32 b l).toNat % 256
  let len := (e.srcB32 b l).toNat / 256 % 256
  o = { val := o.val } ∧ ∀ i, o.val.getLsbD i =
    if pos ≤ i ∧ i < pos + len ∧ i < 32 then (e.rd32 c l).getLsbD (i - pos) else (e.rd32 a l).getLsbD i

/-- BYTEP's lane, byte by byte: `a` gives bytes 0-3 and `c` bytes 4-7. -/
def bytepLane (a : Operand) (b : Src) (c : Operand) : LaneRel := fun e l o =>
  o = { val := o.val } ∧ o.val.toNat < 2 ^ 32 ∧ ∀ j < 4, o.val.extractLsb' (8 * j) 8 =
    let k := (e.srcB32 b l).toNat / 2 ^ (4 * j) % 16
    if k < 4 then (e.rd32 a l).extractLsb' (8 * k) 8 else if k < 8 then (e.rd32 c l).extractLsb' (8 * (k - 4)) 8 else 0

/-- A count that a property fixes, as a 32-bit result. -/
def counts (ty : Ty) (a : Operand) (P : Nat → (Nat → Bool) → Nat → Prop) : LaneRel :=
  fun e l o => ∃ n, Gives o (BitVec.ofNat 64 n) ∧ P ty.bits (fun i => (e.rd a ty.is64 l).getLsbD i) n

/-- The bit-field and counting rows of R140, and FSHL and BREV. -/
def fieldRows (h : Head) (ty : Ty) (d a : Operand) (b : Src) (c : Operand) : List (Instr × Bool × LaneRel) :=
  [(forms (fun o => .fshl h d a o c) (fun m => .fshlI h d a m c) b, false, fun e l o =>
     Gives o ((((e.rd32 a l ++ e.rd32 c l : BitVec 64) <<< ((e.srcB32 b l).toNat % 32)).extractLsb' 32 32).setWidth 64)),
   (forms (.bfx h ty d a) (.bfxI h ty d a) b, false, bfxLane ty a b),
   (forms (fun o => .bfi h d a o c) (fun m => .bfiI h d a m c) b, false, bfiLane a b c),
   (forms (fun o => .bytep h d a o c) (fun m => .bytepI h d a m c) b, false, bytepLane a b c),
   (.popc h ty d a, false, counts ty a fun w x n => n = (List.range w).countP x),
   (.clz h ty d a, false, counts ty a fun w x n => (n = w ∨ n < w ∧ x (w - 1 - n) = true) ∧ ∀ i < n, x (w - 1 - i) = false),
   (.ctz h ty d a, false, counts ty a fun w x n => (n = w ∨ n < w ∧ x n = true) ∧ ∀ i < n, x i = false),
   (.brev h ty d a, ty.is64, fun e l o => o = { val := o.val } ∧ ∀ i, o.val.getLsbD i =
     (decide (i < ty.bits) && (e.rd a ty.is64 l).getLsbD (ty.bits - 1 - i)))]

end Sys2Proof.Claims

/-- R140: FSHL, BFX, BFI, BYTEP, POPC, CLZ, CTZ and BREV, in every form, answer a next state wherever they issue: the funnel shift, the bit fields, the byte
permutation, the bit counts and the bit reversal. -/
def Obligations.BitFieldsAndCounts : Prop :=
  ∀ (s : State) (g : Group) (h : Head) (ty : Ty) (d a : Operand) (b : Src) (c : Operand), Shaped g →
    ∀ r ∈ fieldRows h ty d a b c, Finishes s g r.1 d r.2.1 0 r.2.2

namespace Sys2Proof.Claims

/-- `k` is the integer next to `v` that a mode takes (R113). -/
def NearInt (rnd : Rnd) (v : ℚ) (k : ℤ) : Prop :=
  match rnd with
  | .rne => |(k : ℚ) - v| ≤ 1 / 2 ∧ (|(k : ℚ) - v| = 1 / 2 → k % 2 = 0)
  | .rtz => |(k : ℚ)| ≤ |v| ∧ |v| < |(k : ℚ)| + 1 ∧ 0 ≤ k * v
  | .rdn => (k : ℚ) ≤ v ∧ v < k + 1
  | .rup => v ≤ k ∧ (k : ℚ) < v + 1

/-- The node of two present children (R124): FADD under RNE of their exact values, and its conditions. -/
def NodeOf (x y : Fx) (o : Fx × Cnd) : Prop :=
  ((x.isNan || y.isNan) = true → o = (.nan, 0)) ∧
  (x.isNan = false → y.isNan = false →
    (∀ s t, x = .inf s → y = .inf t → o = if s = t then (.inf s, 0) else (.nan, cInvalid)) ∧
    (∀ s, x = .inf s → y.isInf = false → o = (.inf s, 0)) ∧ (∀ s, y = .inf s → x.isInf = false → o = (.inf s, 0)) ∧
    (∀ s m e t n k, x = .fin s m e → y = .fin t n k →
      (numberOf x + numberOf y = 0 → o.2 = 0 ∧ o.1.isZero = true ∧ o.1.sign = (decide (m = 0 ∧ n = 0) && s && t)) ∧
      (numberOf x + numberOf y ≠ 0 → ∃ b, o.1 = F32.decode b ∧
        RoundsTo F32 .rne false (decide (numberOf x + numberOf y < 0)) ((numberOf x + numberOf y : ℚ) : ℝ) (b, o.2))))

/-- The tree over `2^n` leaf positions, the leaves in order; an absent child gives the other unchanged, and two give none (R124, R125). -/
def TreeOf : Nat → (Nat → Option Fx × Cnd) → Option Fx × Cnd → Prop
  | 0, f, o => o = f 0
  | n + 1, f, o => ∃ a b, TreeOf n f a ∧ TreeOf n (fun i => f (2 ^ n + i)) b ∧
      match a.1, b.1 with
      | none, _ => o = (b.1, a.2 ||| b.2)
      | some _, none => o = (a.1, a.2 ||| b.2)
      | some x, some y => ∃ v c, NodeOf x y (v, c) ∧ o = (some v, a.2 ||| b.2 ||| c)

/-- The exact product at a leaf (R124). -/
def ProductOf (x y v : Fx) : Prop :=
  ((x.isNan || y.isNan || x.isZero && y.isInf || x.isInf && y.isZero) = true → v = .nan) ∧
  ((x.isNan || y.isNan || x.isZero || y.isZero) = false → (x.isInf || y.isInf) = true → v = .inf (xor x.sign y.sign)) ∧
  (∀ s m e t n k, x = .fin s m e → y = .fin t n k → ∃ p q, v = .fin (xor s t) p q ∧ numberOf v = numberOf x * numberOf y)

/-- The magnitude that a DXB element can hold at a delta (R123). -/
def dxbTop (k : Nat) (E : Int) (d : Nat) : ℚ := (2 ^ k - 1) * (2 : ℚ) ^ (E - d - k)

/-- The magnitude bits of a finite element at a delta (R123, R117): `q` rounded to an integer, and clamped. -/
def DxbMag (k : Nat) (m : RMode) (q : ℚ) (mi : Nat) : Prop :=
  ∃ r : ℤ, (mi : ℤ) = min r (2 ^ k - 1) ∧ match m with
    | .dir rnd => NearInt rnd q r
    | .sto w => r = ⌊q⌋ + if (w.toNat : ℤ) < ⌊2 ^ 32 * (q - ⌊q⌋)⌋ then 1 else 0

end Sys2Proof.Claims

/-- R124-R126: the tree of 32 leaf positions with a rounding at every node, its absent leaves and its conditions, and a dot product: exact products at
the leaves where both factors are present, and one addition of a block's sum to the accumulator.
R123, R120: the deltas that CVTDXB gives a block, the code and the conditions of each element, and the value that a code stands for.
R130, R131: XSCALE's word, the combination of two words, XRED's integer and its result. -/
def Obligations.FixedTreesAndBlocks : Prop :=
  (∀ f : Nat → Option Fx × Cnd, TreeOf 5 f (treeSum ((List.range 32).map f))) ∧
  (∀ (acc : Nat) (x y : Nat → Option Fx),
    let o := dotStep acc ((List.range 32).map x) ((List.range 32).map y)
    ∃ (leaf : Nat → Option Fx × Cnd) (t : Option Fx × Cnd), TreeOf 5 leaf t ∧
      (∀ i < 32, match x i, y i with
        | some u, some v => ∃ w, (leaf i).1 = some w ∧ ProductOf u v w
        | _, _ => (leaf i).1 = none) ∧
      (t.1 = none → o.1 = acc) ∧ (∀ v, t.1 = some v → ∃ c, NodeOf (F32.decode acc) v (F32.decode o.1, c))) ∧
  (∀ (k : Nat) (E : Int) (xs : List Nat),
    let d := dxbDeltas k E xs
    d.1 = min 15 (d.2 + k) ∧
    ((∃ x ∈ xs, (F32.decode x).isInf = true) → d.2 = 0) ∧
    ((∀ x ∈ xs, (F32.decode x).isNan = true ∨ (F32.decode x).isZero = true) → d.2 = 15) ∧
    (∀ e : ℤ, (∀ x ∈ xs, (F32.decode x).isInf = false ∧ |numberOf (F32.decode x)| < (2 : ℚ) ^ (e + 1)) →
      (∃ x ∈ xs, (2 : ℚ) ^ e ≤ |numberOf (F32.decode x)|) → (d.2 : ℤ) = max 0 (min 15 (E - 1 - e)))) ∧
  (∀ (k : Nat) (E : Int) (dlo dhi : Nat) (m : BitVec 32 → RMode) (x : Nat), 0 < k → dhi ≤ dlo →
    let v := F32.decode x
    let o := dxbEncode k E dlo dhi m x
    (v.isNan = true → o = (if dlo ≠ dhi then 2 ^ (k + 1) else 0, cInvalid)) ∧
    (∀ s, v = .inf s → o = ((if s then 2 ^ k else 0) + (2 ^ k - 1), cOverflow)) ∧
    (∀ s n e, v = .fin s n e → ∃ (sel : Bool) (d mi : Nat),
      (sel = true ↔ dlo ≠ dhi ∧ |numberOf v| ≤ dxbTop k E dlo) ∧ d = (if sel then dlo else dhi) ∧
      DxbMag k (m (BitVec.ofNat 32 x)) (|numberOf v| / (2 : ℚ) ^ (E - d - k)) mi ∧
      o.1 = (if sel then 2 ^ (k + 1) else 0) + (if mi ≠ 0 ∧ s = true then 2 ^ k else 0) + mi ∧
      o.2 = (if dxbTop k E dhi < |numberOf v| then cOverflow else 0) |||
        (if n ≠ 0 ∧ mi = 0 then cUnderflow ||| cInexact else 0) ||| (if mi * (2 : ℚ) ^ (E - d - k) ≠ |numberOf v| then cInexact else 0))) ∧
  (∀ (k sb x : Nat) (E : Int), numberOf (dxbDecode k E sb x) =
    (if x / 2 ^ k % 2 = 1 then -1 else 1) * ((x % 2 ^ k : Nat) : ℚ) * (2 : ℚ) ^ (E - (if x / 2 ^ (k + 1) % 2 = 1 then sb / 16 % 16 else sb % 16 : Nat) - k)) ∧
  (∀ xs : List Nat, xs.length ≤ 32 → (∀ x ∈ xs, x < 2 ^ 32) →
    let w := xscaleWord xs
    let X := (w.setWidth 16).toInt
    (∀ x ∈ xs, |numberOf (F32.decode x)| < (2 : ℚ) ^ X ∨ numberOf (F32.decode x) = 0) ∧ -150 ≤ X ∧
    (X ≠ -150 → ∃ x ∈ xs, (2 : ℚ) ^ (X - 1) ≤ |numberOf (F32.decode x)|) ∧ (∀ i, 16 ≤ i → i < 32 → w.getLsbD i = false) ∧
    (∀ i < 32, w.getLsbD (32 + i) = decide (∃ x, xs[i]? = some x ∧ ((F32.decode x).isNan || (F32.decode x).isInf) = true))) ∧
  (∀ a b : DWord, ((xscaleCombine a b).setWidth 16).toInt = max (a.setWidth 16).toInt (b.setWidth 16).toInt ∧
    (∀ i < 32, (xscaleCombine a b).getLsbD (32 + i) = (a.getLsbD (32 + i) || b.getLsbD (32 + i)))) ∧
  (∀ (X : Int) (x : Nat), ∃ q : ℤ, xredQuant X x = max (-(2 ^ 54)) (min (2 ^ 54) q) ∧
    ∀ s m e, F32.decode x = .fin s m e → NearInt .rne (numberOf (F32.decode x) * (2 : ℚ) ^ (54 - X)) q) ∧
  (∀ (X : Int) (x : Nat), ((F32.decode x).isNan || (F32.decode x).isInf) = true → xredQuant X x = 0) ∧
  (∀ (X : Int) (masked : Bool) (sum : DWord),
    let o := xredResult X masked sum
    (masked = true → o = F32.nan) ∧ (masked = false → X = -150 ∨ sum = 0 → o = 0) ∧
    (masked = false → X ≠ -150 → sum ≠ 0 → ∃ c, RoundsTo F32 .rne false (decide (sum.toInt < 0)) ((sum.toInt * (2 : ℚ) ^ (X - 54) : ℚ) : ℝ) (o, c)))

namespace Sys2Proof.Claims

/-- The comparisons of R141 on exact integers. -/
def compares (c : CmpOp) (x y : Int) : Prop :=
  match c with
  | .eq => x = y
  | .ne => x ≠ y
  | .lt => x < y
  | .le => x ≤ y
  | .gt => y < x
  | .ge => y ≤ x
  | .un | .ord => False

/-- A result combined with a predicate (R141). -/
def combined (k : Combine) (r ps : Bool) : Bool :=
  match k with
  | .none => r
  | .and => r && ps
  | .or => r || ps
  | .xor => xor r ps

/-- Two or three floating-point sources to one, element by element (R143, R144). -/
def float2 (ty : Ty) (a : Operand) (b : Src) (f : Nat → Nat → Nat × Cnd) : LaneRel := fun e l o =>
  PerElement ty o fun j => f (elementOf ty (e.rdF a ty l) j) (elementOf ty (e.srcF ty b l) j)

/-- The rows of R143 and R144 with packed types. -/
def floatRows (h : Head) (ty : Ty) (rnd : Rnd) (sat : Bool) (d a : Operand) (b : Src) (c : Operand) : List (Instr × LaneRel) :=
  [(forms (.fadd h ty rnd sat d a) (.faddI h ty rnd sat d a) b, float2 ty a b (fpAdd (fmtOf ty) rnd sat)),
   (forms (.fsub h ty rnd sat d a) (.fsubI h ty rnd sat d a) b, float2 ty a b (fpSub (fmtOf ty) rnd sat)),
   (forms (.fmul h ty rnd sat d a) (.fmulI h ty rnd sat d a) b, float2 ty a b (fpMul (fmtOf ty) rnd sat)),
   (forms (fun o => .ffma h ty rnd sat d a o c) (fun m => .ffmaI h ty rnd sat d a m c) b, fun e l o => PerElement ty o fun j =>
     fpFma (fmtOf ty) rnd sat (elementOf ty (e.rdF a ty l) j) (elementOf ty (e.srcF ty b l) j) (elementOf ty (e.rdF c ty l) j)),
   (forms (.fmin h ty d a) (.fminI h ty d a) b, float2 ty a b fun x y => (fpMinMax (fmtOf ty) false false x y, 0)),
   (forms (.fmax h ty d a) (.fmaxI h ty d a) b, float2 ty a b fun x y => (fpMinMax (fmtOf ty) true false x y, 0)),
   (forms (.fminm h ty d a) (.fminmI h ty d a) b, float2 ty a b fun x y => (fpMinMax (fmtOf ty) false true x y, 0)),
   (forms (.fmaxm h ty d a) (.fmaxmI h ty d a) b, float2 ty a b fun x y => (fpMinMax (fmtOf ty) true true x y, 0))]

end Sys2Proof.Claims

/-- R143, R144, R109: FADD, FSUB, FMUL, FFMA, FMIN, FMAX, FMINM and FMAXM, each in both forms, answer a next state wherever they issue, element by
element, with their conditions in P59-P63. -/
def Obligations.FloatArithmetic : Prop :=
  ∀ (s : State) (g : Group) (h : Head) (ty : Ty) (rnd : Rnd) (sat : Bool) (d a : Operand) (b : Src) (c : Operand), Shaped g →
    ∀ r ∈ floatRows h ty rnd sat d a b c, Finishes s g r.1 d false 0 r.2

namespace Sys2Proof.Claims

/-- One FP32 value to a word and its conditions. -/
def float1 (a : Operand) (f : Nat → Nat × Cnd) : LaneRel := fun e l o =>
  o = { val := BitVec.ofNat 64 (f (e.rdF a .f32 l).toNat).1, cnd := (f (e.rdF a .f32 l).toNat).2 }

/-- FCLASS, FRND, FFRAC, FGETEXP (R146), FRCP, FRSQ, FSQRT, FEXP2, FLOG2, FSIN, FCOS, FTANH, FSIGM (R147) and FSCALE in both forms (R143), each with its
lane. -/
def float1Rows (h : Head) (rnd : Rnd) (sat : Bool) (d a : Operand) (b : Src) : List (Instr × LaneRel) :=
  [(.fclass h d a, float1 a fun x => (fpClass x, 0)),
   (.frnd h rnd d a, float1 a fun x => (fpRnd rnd x, 0)),
   (.ffrac h d a, float1 a fpFrac),
   (.fgetexp h d a, float1 a fpGetExp),
   (.frcp h rnd d a, float1 a (fpRcp rnd)),
   (.frsq h d a, float1 a fpRsq),
   (.fsqrt h rnd d a, float1 a (fpSqrt rnd)),
   (.fexp2 h d a, float1 a fpExp2),
   (.flog2 h d a, float1 a fpLog2),
   (.fsin h d a, float1 a fpSin),
   (.fcos h d a, float1 a fpCos),
   (.ftanh h d a, float1 a fpTanh),
   (.fsigm h d a, float1 a fpSigm),
   (forms (.fscale h rnd sat d a) (.fscaleI h rnd sat d a) b, fun e l =>
     float1 a (fun x => fpScale rnd sat x (e.srcB32 b l).toInt) e l)]

/-- FCLASS's bit (R146). -/
def ClassBit (v : Fx) (k : Nat) : Prop :=
  (v = .nan → k = 8) ∧ (∀ s, v = .inf s → k = if s then 0 else 7) ∧
  (∀ s m e, v = .fin s m e →
    (numberOf v = 0 → k = if s then 3 else 4) ∧
    (numberOf v ≠ 0 → |numberOf v| < (2 : ℚ) ^ (-126 : ℤ) → k = if s then 2 else 5) ∧
    ((2 : ℚ) ^ (-126 : ℤ) ≤ |numberOf v| → k = if s then 1 else 6))

end Sys2Proof.Claims

/-- R146, R147, R143: FCLASS, FRND, FFRAC, FGETEXP, FRCP, FRSQ, FSQRT, FEXP2, FLOG2, FSIN, FCOS, FTANH, FSIGM and FSCALE (both forms) answer a next
state wherever they issue, and give in each lane their function of the source's bits. R146: FCLASS sets the one bit of the source's class; FRND gives the integer next to it under the mode, with its sign and no
condition; FFRAC rounds the source less its floor and caps it at 0x3F7FFFFF; FGETEXP gives the exponent of the source's binade. R143: FSCALE
rounds the source times a power of two. (The special functions' values are in SpecialFunctionTable.) -/
def Obligations.FloatFunctions : Prop :=
  (∀ (s : State) (g : Group) (h : Head) (rnd : Rnd) (sat : Bool) (d a : Operand) (b : Src), Shaped g →
    ∀ r ∈ float1Rows h rnd sat d a b, Finishes s g r.1 d false 0 r.2) ∧
  (∀ (rnd : Rnd) (sat : Bool) (x : Nat) (b : Int), x < 2 ^ 32 →
    let v := F32.decode x
    (∃ k, ClassBit v k ∧ fpClass x = 2 ^ k) ∧
    (v.isNan = true → fpRnd rnd x = F32.nan ∧ fpFrac x = (F32.nan, 0) ∧ fpGetExp x = (0x80000000, cInvalid) ∧ fpScale rnd sat x b = (F32.nan, 0)) ∧
    (v.isInf = true → fpRnd rnd x = x ∧ fpFrac x = (F32.nan, cInvalid) ∧ fpGetExp x = (0x7FFFFFFF, 0) ∧ fpScale rnd sat x b = (x, 0)) ∧
    (v.isZero = true → fpGetExp x = (0x80000000, 0) ∧ fpScale rnd sat x b = (x, 0)) ∧
    (∀ s m e, v = .fin s m e →
      (∃ k : ℤ, NearInt rnd (numberOf v) k ∧ numberOf (F32.decode (fpRnd rnd x)) = k ∧ (F32.decode (fpRnd rnd x)).sign = s ∧
        (F32.decode (fpRnd rnd x)).isNan = false ∧ (F32.decode (fpRnd rnd x)).isInf = false) ∧
      (numberOf v = ⌊numberOf v⌋ → fpFrac x = (0, 0)) ∧
      (numberOf v ≠ ⌊numberOf v⌋ → ∃ q, RoundsTo F32 .rne false false ((numberOf v - ⌊numberOf v⌋ : ℚ) : ℝ) q ∧
        fpFrac x = if 0x3F7FFFFF < q.1 then (0x3F7FFFFF, cInexact) else q) ∧
      (m ≠ 0 → (∃ k : ℤ, -149 ≤ k ∧ k ≤ 127 ∧ (2 : ℚ) ^ k ≤ |numberOf v| ∧ |numberOf v| < (2 : ℚ) ^ (k + 1) ∧
          fpGetExp x = ((BitVec.ofInt 32 k).toNat, 0)) ∧
        RoundsTo F32 rnd sat s ((numberOf v * (2 : ℚ) ^ b : ℚ) : ℝ) (fpScale rnd sat x b))))

/-- R113, R114: rounding a non-zero number under each mode, in each of the five formats. -/
def Obligations.Rounding : Prop :=
  ∀ f ∈ formats, ∀ (r : Rnd) (sat s : Bool) (n : Nat) (e : Int), 0 < n →
    RoundsTo f r sat s (numberOf (.fin s n e)) (roundFx f (.dir r) sat (.fin s n e))

/-- R143: what the four arithmetic operations give: the canonical NaN for a NaN input, the canonical NaN and invalid for `∞ - ∞` and
`0 · ∞`, an infinity for an infinite input, and the rounding of the exact value otherwise. An exact zero sum or difference is -0 under RDN and +0 under
the other modes (R113); the model keeps the common sign of two zeros that are added (log 26, DEDUCED).
R144: minimumNumber and maximumNumber and their NaN-propagating forms, with `-0` below `+0`. -/
def Obligations.FloatCases : Prop :=
  (∀ (ty : Ty) (rnd : Rnd) (sat : Bool) (a b c : Nat), ty.isArith = true →
    let f := fmtOf ty
    let x := f.decode a
    let y := f.decode b
    let z := f.decode c
    ((x.isNan || y.isNan) = true → fpAdd f rnd sat a b = (f.nan, 0) ∧ fpSub f rnd sat a b = (f.nan, 0) ∧ fpMul f rnd sat a b = (f.nan, 0)) ∧
    ((x.isNan || y.isNan || z.isNan) = true → fpFma f rnd sat a b c =
      (f.nan, if x.isZero && y.isInf || x.isInf && y.isZero then cInvalid else 0)) ∧
    (x.isInf = true → y.isInf = true → fpAdd f rnd sat a b = (if x.sign = y.sign then (f.infBits x.sign, 0) else (f.nan, cInvalid)) ∧
      fpSub f rnd sat a b = (if x.sign = y.sign then (f.nan, cInvalid) else (f.infBits x.sign, 0))) ∧
    (∀ t n k, x.isInf = true → y = .fin t n k → fpAdd f rnd sat a b = (f.infBits x.sign, 0) ∧ fpSub f rnd sat a b = (f.infBits x.sign, 0)) ∧
    (∀ t n k, x = .fin t n k → y.isInf = true → fpAdd f rnd sat a b = (f.infBits y.sign, 0) ∧ fpSub f rnd sat a b = (f.infBits !y.sign, 0)) ∧
    ((x.isZero && y.isInf || x.isInf && y.isZero) = true → fpMul f rnd sat a b = (f.nan, cInvalid) ∧ fpFma f rnd sat a b c = (f.nan, cInvalid)) ∧
    ((x.isNan || y.isNan || x.isZero || y.isZero) = false → (x.isInf || y.isInf) = true →
      fpMul f rnd sat a b = (f.infBits (xor x.sign y.sign), 0) ∧ (z.isNan = false → fpFma f rnd sat a b c =
        if z.isInf = true ∧ z.sign ≠ xor x.sign y.sign then (f.nan, cInvalid) else (f.infBits (xor x.sign y.sign), 0))) ∧
    (∀ s m e t n k, x = .fin s m e → y = .fin t n k → z.isInf = true → fpFma f rnd sat a b c = (f.infBits z.sign, 0)) ∧
    (∀ s m e t n k, x = .fin s m e → y = .fin t n k →
      (∃ u p q, fpAdd f rnd sat a b = roundFx f (.dir rnd) sat (.fin u p q) ∧ numberOf (.fin u p q) = numberOf x + numberOf y ∧
        (p = 0 → u = if m = 0 ∧ n = 0 ∧ s = t then s else decide (rnd = .rdn))) ∧
      (∃ u p q, fpSub f rnd sat a b = roundFx f (.dir rnd) sat (.fin u p q) ∧ numberOf (.fin u p q) = numberOf x - numberOf y ∧
        (p = 0 → u = if m = 0 ∧ n = 0 ∧ s ≠ t then s else decide (rnd = .rdn))) ∧
      (∃ u p q, fpMul f rnd sat a b = roundFx f (.dir rnd) sat (.fin u p q) ∧ numberOf (.fin u p q) = numberOf x * numberOf y ∧ u = xor s t) ∧
      (∀ w o r, z = .fin w o r → ∃ u p q, fpFma f rnd sat a b c = roundFx f (.dir rnd) sat (.fin u p q) ∧
        numberOf (.fin u p q) = numberOf x * numberOf y + numberOf z ∧
        (p = 0 → u = if (m = 0 ∨ n = 0) ∧ o = 0 ∧ w = xor s t then w else decide (rnd = .rdn))))) ∧
  (∀ (ty : Ty) (isMax prop : Bool) (a b : Nat), ty.isArith = true →
    let f := fmtOf ty
    let x := f.decode a
    let y := f.decode b
    let o := fpMinMax f isMax prop a b
    (x.isNan = true → y.isNan = true → o = f.nan) ∧
    (x.isNan = true → y.isNan = false → o = if prop then f.nan else b) ∧
    (x.isNan = false → y.isNan = true → o = if prop then f.nan else a) ∧
    (x.isNan = false → y.isNan = false → (o = a ∨ o = b) ∧
      (Below x y → o = if isMax then b else a) ∧ (Below y x → o = if isMax then a else b) ∧
      (x.isZero = true → y.isZero = true → (f.decode o).sign = if isMax then x.sign && y.sign else x.sign || y.sign)))

namespace Sys2Proof.Claims

/-- What a special function gives at a number where the table states a bound and no value (R147, log 5): the implementation's value `Config.sf`
where that is a finite number within the bound `ε` of the exact value `y`, else the FP32 number nearest `y`; inexact, and underflow when it is small.
`y` is `sfRef`, which stands for the exact value to within 2^-100. -/
def WithinBound (fn : SfFn) (x : Nat) (s : Bool) (m : Nat) (e : Int) (o : Nat × Cnd) : Prop :=
  let v := sfRef fn s m e
  let y : ℚ := (if v.1 then -1 else 1) * v.2.1 / v.2.2
  let c := (Config.sf fn (BitVec.ofNat 32 x)).toNat
  o.2 = sfConditions o.1 ∧ ∃ ε : ℚ,
    (fn = .fsin ∨ fn = .fcos ∨ fn = .flog2 ∧ 1 / 2 ≤ numberOf (F32.decode x) ∧ numberOf (F32.decode x) ≤ 2 → ε = (2 : ℚ) ^ (-22 : ℤ)) ∧
    (¬ (fn = .fsin ∨ fn = .fcos ∨ fn = .flog2 ∧ 1 / 2 ≤ numberOf (F32.decode x) ∧ numberOf (F32.decode x) ≤ 2) →
      ∀ k : ℤ, (2 : ℚ) ^ k ≤ |y| → |y| < (2 : ℚ) ^ (k + 1) → ε = 2 * (2 : ℚ) ^ (max k (-126) - 23)) ∧
    (if (F32.decode c).isNan = false ∧ (F32.decode c).isInf = false ∧ |numberOf (F32.decode c) - y| ≤ ε then o.1 = c
      else y ≠ 0 → ∃ k, RoundsTo F32 .rne false v.1 (y : ℝ) (o.1, k))

end Sys2Proof.Claims

/-- R147: the special functions at their special inputs, where they are exact, and elsewhere: FRCP and FSQRT are correctly rounded, FRSQ is one of
the two neighbours of the exact value, and the others give a value within the table's bound, the implementation's `Config.sf` where it keeps the
bound (log 5, DESIGN CHOICE), with inexact, and underflow when it is small. -/
def Obligations.SpecialFunctionTable : Prop :=
  ∀ (r : Rnd) (x : Nat), x < 2 ^ 32 →
    let v := F32.decode x
    (v.isNan = true → fpRcp r x = (F32.nan, 0) ∧ fpSqrt r x = (F32.nan, 0) ∧ ∀ f ∈ [fpRsq, fpExp2, fpLog2, fpSin, fpCos, fpTanh, fpSigm], f x = (F32.nan, 0)) ∧
    (∀ s, v = .inf s → fpRcp r x = (if s then 0x80000000 else 0, 0) ∧ fpRsq x = (if s then (F32.nan, cInvalid) else (0, 0)) ∧
      fpSqrt r x = (if s then (F32.nan, cInvalid) else (0x7F800000, 0)) ∧ fpExp2 x = (if s then 0 else 0x7F800000, 0) ∧
      fpLog2 x = (if s then (F32.nan, cInvalid) else (0x7F800000, 0)) ∧ fpSin x = (F32.nan, cInvalid) ∧ fpCos x = (F32.nan, cInvalid) ∧
      fpTanh x = (if s then 0xBF800000 else 0x3F800000, 0) ∧ fpSigm x = (if s then 0 else 0x3F800000, 0)) ∧
    (v.isZero = true → fpRcp r x = (F32.infBits v.sign, cDivZero) ∧ fpRsq x = (F32.infBits v.sign, cDivZero) ∧ fpSqrt r x = (x, 0) ∧
      fpExp2 x = (0x3F800000, 0) ∧ fpLog2 x = (0xFF800000, cDivZero) ∧ fpSin x = (x, 0) ∧ fpCos x = (0x3F800000, 0) ∧ fpTanh x = (x, 0) ∧ fpSigm x = (0x3F000000, 0)) ∧
    (∀ s m e, v = .fin s m e → m ≠ 0 →
      RoundsTo F32 r false s (1 / (numberOf v : ℝ)) (fpRcp r x) ∧
      (s = true → fpRsq x = (F32.nan, cInvalid) ∧ fpSqrt r x = (F32.nan, cInvalid) ∧ fpLog2 x = (F32.nan, cInvalid)) ∧
      (s = false → RoundsTo F32 r false false (Real.sqrt (numberOf v)) (fpSqrt r x) ∧
        (∀ k : ℤ, numberOf v = (4 : ℚ) ^ k → numberOf (F32.decode (fpRsq x).1) = (2 : ℚ) ^ (-k) ∧ (fpRsq x).2 = 0) ∧
        ((∀ k : ℤ, numberOf v ≠ (4 : ℚ) ^ k) → (fpRsq x).2 = cInexact ∧
          (Neighbour F32 .rdn (1 / Real.sqrt (numberOf v)) (numberOf (F32.decode (fpRsq x).1)) ∨
            Neighbour F32 .rup (1 / Real.sqrt (numberOf v)) (numberOf (F32.decode (fpRsq x).1)))) ∧
        (∀ k : ℤ, numberOf v = (2 : ℚ) ^ k → numberOf (F32.decode (fpLog2 x).1) = k ∧ (fpLog2 x).2 = 0) ∧
        ((∀ k : ℤ, numberOf v ≠ (2 : ℚ) ^ k) → WithinBound .flog2 x s m e (fpLog2 x))) ∧
      (128 ≤ numberOf v → fpExp2 x = (0x7F800000, cOverflow)) ∧
      (∀ k : ℤ, numberOf v = k → -149 ≤ k → k ≤ 127 → numberOf (F32.decode (fpExp2 x).1) = (2 : ℚ) ^ k ∧ (fpExp2 x).2 = 0) ∧
      (numberOf v < 128 → (∀ k : ℤ, -149 ≤ k → numberOf v ≠ k) → WithinBound .fexp2 x s m e (fpExp2 x)) ∧
      (∀ k : ℤ, 4 * numberOf v = k →
        fpSin x = (if k % 4 = 1 then 0x3F800000 else if k % 4 = 3 then 0xBF800000 else 0, 0) ∧
        fpCos x = (if k % 4 = 0 then 0x3F800000 else if k % 4 = 2 then 0xBF800000 else 0, 0)) ∧
      ((∀ k : ℤ, 4 * numberOf v ≠ k) → WithinBound .fsin x s m e (fpSin x) ∧ WithinBound .fcos x s m e (fpCos x)) ∧
      WithinBound .ftanh x s m e (fpTanh x) ∧ WithinBound .fsigm x s m e (fpSigm x))

namespace Sys2Proof.Claims

/-- ISET's lane: a predicate, and 1 or 0 for an A register (R141). -/
def isetLane (ty : Ty) (cmp : CmpOp) (k : Combine) (ps : PReg) (a : Operand) (b : Src) : LaneRel := fun e l o =>
  ∃ r : Bool, (r = true ↔ compares cmp (integer ty (e.rd a ty.is64 l)) (integer ty (e.srcB ty b l))) ∧ o.cnd = 0 ∧
    o.p = combined k r (e.g.pred ps.toNat l) ∧ o.val = if o.p then 1 else 0

/-- FSET's lane (R145): a NaN is unordered; LT, LE, GT and GE raise invalid then. -/
def fsetLane (cmp : CmpOp) (k : Combine) (ps : PReg) (a : Operand) (b : Src) : LaneRel := fun e l o =>
  let x := F32.decode (e.rdF a .f32 l).toNat
  let y := F32.decode (e.srcF .f32 b l).toNat
  let un := x.isNan || y.isNan
  ∃ r : Bool, o.val = 0 ∧ o.p = combined k r (e.g.pred ps.toNat l) ∧
    (un = true → r = decide (cmp = .ne ∨ cmp = .un) ∧ o.cnd = if cmp = .lt ∨ cmp = .le ∨ cmp = .gt ∨ cmp = .ge then cInvalid else 0) ∧
    (un = false → o.cnd = 0 ∧ (r = true ↔ match cmp with
      | .eq => Same x y
      | .ne => ¬ Same x y
      | .lt => Below x y
      | .le => Below x y ∨ Same x y
      | .gt => Below y x
      | .ge => Below y x ∨ Same x y
      | .un => False
      | .ord => True))

end Sys2Proof.Claims

/-- R141: ISET writes a predicate in the C-slice and 1 or 0 into an A register in the A-slice; the I form has no combination.
R145: FSET, in both forms. -/
def Obligations.Compare : Prop :=
  (∀ (s : State) (g : Group) (h : Head) (ty : Ty) (cmp : CmpOp) (k : Combine) (ps pd : PReg) (d a b : Operand) (imm : Word), Shaped g →
    (Issues (.iset h ty cmp k pd ps d a b) s g → ∃ f, (∀ l < 32, isetLane ty cmp k ps a (.r b) (envOf (.iset h ty cmp k pd ps d a b) s g) l (f l)) ∧
      Completes (.iset h ty cmp k pd ps d a b) s g (decide (s.cur.sl = .a)) d false pd.toNat f) ∧
    (Issues (.isetI h ty cmp pd d a imm) s g → ∃ f, (∀ l < 32, isetLane ty cmp .none 0 a (.i imm) (envOf (.isetI h ty cmp pd d a imm) s g) l (f l)) ∧
      Completes (.isetI h ty cmp pd d a imm) s g (decide (s.cur.sl = .a)) d false pd.toNat f)) ∧
  (∀ (s : State) (g : Group) (h : Head) (cmp : CmpOp) (k : Combine) (ps pd : PReg) (a b : Operand) (imm : Word), Shaped g →
    (Issues (.fset h cmp k pd ps a b) s g → ∃ f, (∀ l < 32, fsetLane cmp k ps a (.r b) (envOf (.fset h cmp k pd ps a b) s g) l (f l)) ∧
      Completes (.fset h cmp k pd ps a b) s g false (.v 0) false pd.toNat f) ∧
    (Issues (.fsetI h cmp pd a imm) s g → ∃ f, (∀ l < 32, fsetLane cmp .none 0 a (.i imm) (envOf (.fsetI h cmp pd a imm) s g) l (f l)) ∧
      Completes (.fsetI h cmp pd a imm) s g false (.v 0) false pd.toNat f))

namespace Sys2Proof.Claims

/-- The random word of a stochastic rounding (R116), modulo 2^32. -/
def randomWord (seed xbits : Word) (l e : Nat) : Word :=
  let a := (seed ^^^ xbits).toNat ^^^ ((32 * e + l + 1) * 0x9E3779B9 % 2 ^ 32)
  let b := (a ^^^ (a / 2 ^ 16)) * 0x7FEB352D % 2 ^ 32
  let c := (b ^^^ (b / 2 ^ 15)) * 0x846CA68B % 2 ^ 32
  BitVec.ofNat 32 (c ^^^ (c / 2 ^ 16))

/-- `o` is the stochastic rounding of `x` with sign `s` under a random word (R117, R113, R114). -/
def RoundsBy (f : Fmt) (sat s : Bool) (w : Word) (x : ℝ) (o : Nat × Cnd) : Prop :=
  ∃ lo hi : ℝ, Neighbour f .rdn |x| lo ∧ Neighbour f .rup |x| hi ∧
    let y := if (w.toNat : ℤ) < ⌊2 ^ 32 * (|x| - lo) / (hi - lo)⌋ then hi else lo
    (y ≤ numberOf (f.decode f.maxBits) →
      |(numberOf (f.decode o.1) : ℝ)| = y ∧ (f.decode o.1).sign = s ∧ (f.decode o.1).isNan = false ∧ (y = |x| → o.2 = 0) ∧
      (y ≠ |x| → (2 : ℝ) ^ f.emin ≤ y → o.2 = cInexact) ∧ (y ≠ |x| → y < (2 : ℝ) ^ f.emin → o.2 = cInexact ||| cUnderflow)) ∧
    (numberOf (f.decode f.maxBits) < y → o = (if sat then f.maxBits + (if s then f.signBit else 0) else f.infBits s, cOverflow))

/-- `o` is a finite number other than zero rounded under a mode, or with a random word. -/
def RoundedIn (f : Fmt) (m : RMode) (sat s : Bool) (x : ℝ) (o : Nat × Cnd) : Prop :=
  match m with
  | .dir r => RoundsTo f r sat s x o
  | .sto w => RoundsBy f sat s w x o

/-- FCVT's lane (R148): element `es` of the source is converted into element `ed` of the destination; the other elements of a packed
destination keep what it held, and a destination of one element takes the whole result. -/
def fcvtLane (ty sty : Ty) (rnd : Rnd) (sto sat : Bool) (ed es : Nat) (d a : Operand) : LaneRel := fun e l o =>
  let x := if sty.isFloat then elementOf sty (e.rdF a sty l) es else (e.rd a sty.is64 l).toNat
  let xb : Word := BitVec.ofNat 32 (if sty.isFloat then x else x % 2 ^ sty.bits)
  let r := fcvtElem ty sty (if sto then .sto (randomWord e.g.regs.seed xb l ed) else .dir rnd) rnd sat x
  o.p = false ∧ o.cnd = r.2 ∧
    (ty.count = 1 → o.val = BitVec.ofNat 64 r.1) ∧
    (1 < ty.count → ∀ j < ty.count, elementOf ty (o.val.setWidth 32) j = if j = ed then r.1 % 2 ^ ty.bits else elementOf ty (e.rd32 d l) j)

end Sys2Proof.Claims

/-- R148, R149: FCVT and ICVT answer a next state wherever they issue, with the element positions and the stochastic draw of FCVT (R116; a 64-bit source gives the draw its low 32 bits,
log 19, DEDUCED), and ICVT's value: the low bits of a narrower type, clamped with SAT, and the extension by the source's signedness into a wider one
(SAT between types of one width clamps: log 114, DESIGN CHOICE).
R118: from float to float and from integer to float the number is rounded under the mode, or stochastically (R117), and a NaN or an infinity goes
by its row. Conversions to an integer: a NaN gives 0, an infinity or a value out of range the nearest end of the type, each with invalid; any
other value is rounded to an integer under the mode, with inexact where it changed. -/
def Obligations.Conversions : Prop :=
  (∀ (s : State) (g : Group) (h : Head) (ty sty : Ty) (rnd : Rnd) (sto sat : Bool) (ed es : BitVec 2) (d a : Operand), Shaped g →
    Finishes s g (.fcvt h ty sty rnd sto sat ed es d a) d ty.is64 0 (fcvtLane ty sty rnd sto sat ed.toNat es.toNat d a) ∧
    Finishes s g (.icvt h ty sty sat d a) d ty.is64 0 (fun e l o =>
      Gives o (wrapped ty (if sat = true ∧ ty.bits ≤ sty.bits then clamped ty (integer sty (e.rd a sty.is64 l)) else integer sty (e.rd a sty.is64 l))))) ∧
  (∀ (ty sty : Ty) (m : RMode) (rnd : Rnd) (sat : Bool) (x : Nat),
    let f := fmtOf ty
    let o := fcvtElem ty sty m rnd sat x
    (ty.isFloat = true → sty.isFloat = true →
      let v := (fmtOf sty).decode x
      (v.isNan = true → o = (f.nan, 0)) ∧
      (v.isInf = true → o = if sat then (f.maxBits + (if v.sign then f.signBit else 0), cOverflow) else (f.infBits v.sign, if ty = .e4m3 then cInvalid else 0)) ∧
      (v.isZero = true → o = (if v.sign then f.signBit else 0, 0)) ∧
      (∀ s n e, v = .fin s n e → n ≠ 0 → RoundedIn f m sat s (numberOf v : ℝ) o)) ∧
    (ty.isFloat = true → sty.isInt = true →
      let v := integer sty (BitVec.ofNat 64 x)
      (v = 0 → o = (0, 0)) ∧ (v ≠ 0 → RoundedIn f m sat (decide (v < 0)) (v : ℝ) o)) ∧
    (ty.isInt = true → sty.isFloat = true → o = ((wrapped ty (cvtFI ty sty rnd x).1).toNat, (cvtFI ty sty rnd x).2))) ∧
  (∀ (ty sty : Ty) (rnd : Rnd) (x : Nat), ty.isInt = true → sty.isFloat = true →
    let v := (fmtOf sty).decode x
    let o := cvtFI ty sty rnd x
    (v.isNan = true → o = (0, cInvalid)) ∧
    (v.isInf = true → o = (clamped ty (if v.sign then -(2 ^ 70) else 2 ^ 70), cInvalid)) ∧
    (∀ s m e, v = .fin s m e → ∃ k : Int, NearInt rnd (numberOf v) k ∧
      o = if clamped ty k = k then (k, if (k : ℚ) = numberOf v then 0 else cInexact) else (clamped ty k, cInvalid)))

/-- R150, R151: PLOP's table, PMOVV's word and VMOVP's predicates. P0 stays true, and a lane whose guard is false is not written.
R152: VOTE counts a predicate over the active lanes: the mask, the count, a threshold test, or agreement. A test is written in every
active lane, a mask or a count into an S register whatever the guard in ulane(). -/
def Obligations.PredicatesAndVote : Prop :=
  (∀ (s : State) (g : Group) (h : Head) (d a : Operand) (pd ps pb pc k : PReg) (tbl : BitVec 8) (n : BitVec 5), Shaped g →
    (Issues (.plop h pd ps pb pc tbl) s g → ∃ f, (∀ l < 32, (f l).val = 0 ∧ (f l).cnd = 0 ∧ (f l).p = tbl.getLsbD
        ((if g.pred ps.toNat l then 4 else 0) + (if g.pred pb.toNat l then 2 else 0) + if g.pred pc.toNat l then 1 else 0)) ∧
      Completes (.plop h pd ps pb pc tbl) s g false (.v 0) false pd.toNat f) ∧
    Finishes s g (.pmovv h d k n) d false 0 (fun e l o => o = { val := o.val } ∧
      ∀ j, o.val.getLsbD j = (decide (j ≤ n.toNat) && e.g.pred (k.toNat + j) l)) ∧
    (Issues (.vmovp h a k n) s g → CompletesIn (.vmovp h a k n) s g fun e g gt =>
      KeepsRegs e g gt [] .qb ∧ ∀ p l, p < 64 → l < 32 → gt.pred p l =
        if p ≠ 0 ∧ k.toNat ≤ p ∧ p ≤ k.toNat + n.toNat ∧ e.isActive l then (e.rd32 a l).getLsbD (p - k.toNat) else g.pred p l)) ∧
  (∀ (s : State) (g : Group) (h : Head) (mode : VoteMode) (t : BitVec 6) (top : Bool) (d : Operand) (pd ps : PReg), Shaped g →
    Issues (.vote h mode t top d pd ps) s g → CompletesIn (.vote h mode t top d pd ps) s g fun e g gt =>
      let n := ((List.range 32).filter e.isActive).length
      let c := ((List.range 32).filter fun l => e.isActive l && g.pred ps.toNat l).length
      let tests (b : Bool) : Prop := KeepsRegs e g gt [] .qb ∧ ∀ p l, p < 64 → l < 32 → gt.pred p l =
        if p ≠ 0 ∧ p = pd.toNat ∧ e.isActive l then b else g.pred p l
      match mode with
      | .mask => ∃ m : DWord, (∀ l, m.getLsbD l = (decide (l < 32) && e.isActive l && g.pred ps.toNat l)) ∧
          WritesAll e g gt d false m ∧ KeepsRegs e g gt (Instr.vote h mode t top d pd ps).dsts d ∧ KeepsPreds g gt
      | .cnt => WritesAll e g gt d false (BitVec.ofNat 64 c) ∧ KeepsRegs e g gt (Instr.vote h mode t top d pd ps).dsts d ∧ KeepsPreds g gt
      | .ge => tests (if top then decide ((n : Int) - t.toNat ≤ c) else decide (t.toNat ≤ c))
      | .same => tests (decide (c = 0 ∨ c = n)))

namespace Sys2Proof.Claims

/-- A NaN result is the canonical NaN (R112). -/
def canonical (o : Nat × Cnd) : Nat × Cnd := (if (F32.decode o.1).isNan then F32.nan else o.1, o.2)

/-- The reduction of the values of some lanes in increasing order (R154), but for LRED's FADD, which takes the tree. An empty list gives the
identity. Floating-point addition folds from the first value, rounding at each step, and gathers the conditions. -/
def Reduces (op : RedOp) (ty : Ty) (vs : List DWord) (x : DWord) (c : Cnd) : Prop :=
  match op with
  | .iadd => c = 0 ∧ x.setWidth ty.bits = BitVec.ofInt ty.bits (vs.map (integer ty)).sum
  | .imin => c = 0 ∧ (∀ v ∈ vs, integer ty x ≤ integer ty v) ∧ (vs ≠ [] → ∃ v ∈ vs, integer ty x = integer ty v) ∧ (vs = [] → integer ty x = clamped ty (2 ^ 70))
  | .imax => c = 0 ∧ (∀ v ∈ vs, integer ty v ≤ integer ty x) ∧ (vs ≠ [] → ∃ v ∈ vs, integer ty x = integer ty v) ∧ (vs = [] → integer ty x = clamped ty (-(2 ^ 70)))
  | .and => c = 0 ∧ ∀ i < ty.bits, x.getLsbD i = vs.all fun v => v.getLsbD i
  | .or => c = 0 ∧ ∀ i < ty.bits, x.getLsbD i = vs.any fun v => v.getLsbD i
  | .xor => c = 0 ∧ ∀ i < ty.bits, x.getLsbD i = decide ((vs.countP fun v => v.getLsbD i) % 2 = 1)
  | .fadd => match vs with
    | [] => x = 0 ∧ c = 0
    | v :: r => (x.toNat, c) = canonical (r.foldl (fun o w => ((fpAdd F32 .rne false o.1 w.toNat).1, o.2 ||| (fpAdd F32 .rne false o.1 w.toNat).2)) (v.toNat, 0))
  | .fmin => match vs with
    | [] => x = 0x7F800000 ∧ c = 0
    | v :: r => (x.toNat, c) = canonical (r.foldl (fun o w => fpMinMax F32 false false o w.toNat) v.toNat, 0)
  | .fmax => match vs with
    | [] => x = 0xFF800000 ∧ c = 0
    | v :: r => (x.toNat, c) = canonical (r.foldl (fun o w => fpMinMax F32 true false o w.toNat) v.toNat, 0)

end Sys2Proof.Claims

/-- R154: LRED reduces the active lanes, by the tree for FADD, into an S register once or into every active lane; LSCAN gives each active
lane the reduction of the active lanes up to it, or below it. Every condition of the additions is ORed in. The model gives the canonical NaN for a
NaN, even of a single lane (log 14, DEDUCED), and ORs the conditions of every active lane's own reduction into every active lane of a scan (log 15,
DEDUCED). -/
def Obligations.ReduceAndScan : Prop :=
  ∀ (s : State) (g : Group) (h : Head) (ty : Ty) (op : RedOp) (excl : Bool) (d a : Operand), Shaped g →
    (Issues (.lred h ty op d a) s g → CompletesIn (.lred h ty op d a) s g fun e g gt => ∃ x c,
      (op ≠ .fadd → Reduces op ty (((List.range 32).filter e.isActive).map (e.rd a ty.is64)) x c) ∧
      (op = .fadd → ∃ t, treeSum ((List.range 32).map fun l => (if e.isActive l then some (F32.decode (e.rd a false l).toNat) else none, 0)) = (t, c) ∧
        x = match t with
          | some v => BitVec.ofNat 64 (roundFx F32 (.dir .rne) false v).1
          | none => 0) ∧
      WritesAll e g gt d ty.is64 x ∧ KeepsRegs e g gt (Instr.lred h ty op d a).dsts d ∧
      ∀ p l, p < 64 → l < 32 → gt.pred p l =
        (g.pred p l || decide (59 ≤ p) && (if d.isS then l == e.ulane else e.isActive l) && c.getLsbD (p - 59))) ∧
    (Issues (.lscan h ty op excl d a) s g → ∃ (v : Nat → DWord) (k : Nat → Cnd) (c : Cnd),
      (∀ l < 32, (envOf (.lscan h ty op excl d a) s g).isActive l = true → Reduces op ty
        (((List.range 32).filter fun m => (envOf (.lscan h ty op excl d a) s g).isActive m && if excl then decide (m < l) else decide (m ≤ l)).map
          ((envOf (.lscan h ty op excl d a) s g).rd a ty.is64)) (v l) (k l)) ∧
      c = ((List.range 32).filter (envOf (.lscan h ty op excl d a) s g).isActive).foldl (fun c l => c ||| k l) 0 ∧
      Completes (.lscan h ty op excl d a) s g true d ty.is64 0 fun l => { val := v l, cnd := c })

namespace Sys2Proof.Claims

/-- SHFL's lane (R153): the source lane of its segment, read even when it is not active, and whether EXEC holds it. -/
def shflLane (mode : ShflMode) (w : Nat) (a : Operand) (b : Src) : LaneRel := fun e l o =>
  let i : Int := ((l % w : Nat) : Int)
  let j : Int := match mode with
    | .idx => (e.srcB32 b l).toNat
    | .rot => (i + (e.srcB32 b l).toNat) % w
    | .sh => i + (e.srcB32 b l).toInt
    | .xor => ((l % w) ^^^ (e.srcB32 b l).toNat : Nat)
  o.cnd = 0 ∧
    (0 ≤ j ∧ j < w → o.val = e.rd a false (l - l % w + j.toNat) ∧ o.p = e.p.exec.getLsbD (l - l % w + j.toNat)) ∧
    (¬ (0 ≤ j ∧ j < w) → o.val = e.rd a false l ∧ o.p = false)

end Sys2Proof.Claims

/-- R153: SHFL, in both forms.
R155, R156: LBCAST gives one lane's value, active or not; LFIRST that of the lowest active lane, and 0 to an S register when no lane is active. -/
def Obligations.ShuffleBroadcastAndFirst : Prop :=
  (∀ (s : State) (g : Group) (h : Head) (mode : ShflMode) (segw : BitVec 3) (d a b : Operand) (imm : Word) (pd : PReg), Shaped g →
    Finishes s g (.shfl h mode segw d a b pd) d false pd.toNat (shflLane mode (2 ^ (5 - segw.toNat)) a (.r b)) ∧
    Finishes s g (.shflI h mode d a imm pd) d false pd.toNat (shflLane mode 32 a (.i imm))) ∧
  (∀ (s : State) (g : Group) (h : Head) (ty : Ty) (d a : Operand) (b : Src), Shaped g →
    (∀ i, i = forms (.lbcast h ty d a) (.lbcastI h ty d a) b → Issues i s g → CompletesIn i s g fun e g gt =>
      WritesAll e g gt d ty.is64 (e.rd a ty.is64 ((e.srcB32 b e.ulane).toNat % 32)) ∧ KeepsRegs e g gt i.dsts d ∧ KeepsPreds g gt) ∧
    (Issues (.lfirst h ty d a) s g → CompletesIn (.lfirst h ty d a) s g fun e g gt =>
      WritesAll e g gt d ty.is64 (match (List.range 32).filter e.isActive with
        | l :: _ => e.rd a ty.is64 l
        | [] => 0) ∧
      KeepsRegs e g gt (Instr.lfirst h ty d a).dsts d ∧ KeepsPreds g gt))

namespace Sys2Proof.Claims

/-- The group after a split (R160): the entry is pushed, the majority goes on in place, and the minority becomes a fragment with the split-table entry
`sp`, or waits in the entry. -/
def splitGroup (h : Group) (s : State) (rtok : BitVec 6) (pid : Nat) (exec held T N : Mask) (stk : List Nat) (t fall : Nat) (sp : Option Nat) : Group :=
  let taken := decide (laneCount N ≤ laneCount T)
  let big := if taken then T else N
  let small := if taken then N else T
  let smallPc := if taken then fall else t
  let k := s.nextId :: stk
  let ent : REntry := ⟨s.nextId, rtok, exec, held, 0, 0, pid, 0, if sp.isSome then none else some ⟨smallPc, small, k⟩⟩
  let h1 := Group.withPath { h with ents := h.ents ++ [ent] } pid fun q =>
    { q with pc := if taken then t else fall, exec := big, held := big, stack := k, line := if taken then none else q.line }
  match sp with
  | none => h1
  | some n => { h1 with
      paths := h1.paths ++ [{ id := h.nextPid, pc := smallPc, exec := small, held := small, stack := k, split := some n, born := s.nextId, since := s.clock.toNat }]
      nextPid := h.nextPid + 1 }

end Sys2Proof.Claims

/-- R160: a BRA whose lanes disagree splits the path. The minority detaches when the partition's 8-entry table has a free entry and the group is not in
D-mode, and is deferred otherwise. A stack of 16 entries raises DIVERGENCE_DEPTH. -/
def Obligations.BranchSplit : Prop :=
  ∀ (s : State) (g : Group) (gd : Guard) (rtok : BitVec 6) (disp : BitVec 32) (a : Operand) (T N : Mask),
    let i := Instr.bra gd rtok disp a
    let e := envOf i s g
    let t := (((s.cur.addr : Int) + 4 * disp.toInt) % 2 ^ 64).toNat
    Issues i s g → s.cur.sl = .c → s.isTarget g.gid.cluster g.slot t = true →
    (∀ l < 32, T.getLsbD l = e.isActive l) → (∀ l < 32, N.getLsbD l = (e.p.exec.getLsbD l && !e.isActive l)) → T ≠ 0 → N ≠ 0 →
    (16 ≤ e.p.stack.length → Faults i s .divergenceDepth) ∧
    (e.p.stack.length < 16 → ∃ h sp, Passed i s g h ∧
      exec i s = .next { Becomes s (splitGroup h s rtok s.cur.p e.p.exec e.p.held T N e.p.stack t (nextAddr s.cur.addr) sp) with nextId := s.nextId + 1 } ∧
      (g.dmode = true → sp = none) ∧
      (g.dmode = false → (∀ n, sp = some n → n < 8 ∧ n ∉ s.splitsUsed g.gid) ∧ (sp = none → ∀ n < 8, n ∈ s.splitsUsed g.gid)))

namespace Sys2Proof.Claims

/-- An address is no target (R158): a bit of [63:56] is set, its offset in the line is no slot's, or its line can be fetched and the slot's TARGET bit is
clear. -/
def NoTarget (s : State) (cl slot t : Nat) : Prop :=
  2 ^ 56 ≤ t ∨ t % 64 ∉ [0, 12, 24, 36, 48] ∨
    ∃ bs, s.lineBytesAt cl slot (t / 64 * 64) = .ok bs ∧ (Line.ofBytes (t / 64 * 64) bs).target (t % 64 / 12) = false

end Sys2Proof.Claims

/-- R158, R160: a BRA whose guard agrees in all lanes. Its target's check comes first. In the C-slice it branches when every lane of EXEC is active (with
EXEC zero too: log 83, DEDUCED) and falls through when none is; in the A-slice it is taken when Source A is absent or not zero.
R158, R159, R39: BRX, CALL and RET. The target's check comes first, and a set bit of [63:56], a bad offset or a clear TARGET bit raises
ILLEGAL_TARGET with no effect; under a false guard control falls through; CALL writes the address of the next slot. -/
def Obligations.BranchesAndCalls : Prop :=
  (∀ (s : State) (g : Group) (gd : Guard) (rtok : BitVec 6) (disp : BitVec 32) (a : Operand),
    let i := Instr.bra gd rtok disp a
    let e := envOf i s g
    let t := (((s.cur.addr : Int) + 4 * disp.toInt) % 2 ^ 64).toNat
    Issues i s g → Memory.wf s.mem = true →
    (s.isTarget g.gid.cluster g.slot t = true →
      (s.cur.sl = .c → (∀ l < 32, e.p.exec.getLsbD l = true → e.isActive l = true) →
        Leaves i s g fun h => Group.withPath h s.cur.p fun q => { q with pc := t, line := none }) ∧
      (s.cur.sl = .c → (∃ l < 32, e.p.exec.getLsbD l = true) → (∀ l < 32, e.isActive l = false) → Passes i s g) ∧
      (s.cur.sl = .a → (∀ n, a = .a n → g.areg n.toNat ≠ 0) → Leaves i s g fun h => { h with apc := t, aline := none }) ∧
      (∀ n, s.cur.sl = .a → a = .a n → g.areg n.toNat = 0 → Passes i s g)) ∧
    (NoTarget s g.gid.cluster g.slot t → FaultsFirst i s g .illegalTarget)) ∧
  (∀ (s : State) (g : Group) (gd : Guard) (disp : BitVec 32) (o : Operand) (i : Instr) (t : Nat), Shaped g →
    let e := envOf i s g
    (i = .brx gd o ∧ t = (e.rd o true e.ulane).toNat ∨ i = .ret gd o ∧ t = (e.rd o true e.ulane).toNat ∨
      i = .call gd disp o ∧ t = (((s.cur.addr : Int) + 4 * disp.toInt) % 2 ^ 64).toNat) →
    Issues i s g → Memory.wf s.mem = true →
    (s.isTarget g.gid.cluster g.slot t = true → e.uguard = true → ∃ h gt, Passed i s g h ∧ exec i s = .next (Becomes s gt) ∧
      (s.cur.sl = .c → gt = Group.withPath { h with regs := gt.regs } s.cur.p fun q => { q with pc := t, line := none }) ∧
      (s.cur.sl = .a → gt = { h with regs := gt.regs, apc := t, aline := none }) ∧
      (i ≠ .call gd disp o → gt.regs = g.regs) ∧
      (i = .call gd disp o → KeepsRegs e g gt i.dsts o ∧ KeepsPreds g gt ∧
        (∀ n, o = .s n → gt.sreg n.toNat = BitVec.ofNat 32 (nextAddr s.cur.addr) ∧ gt.sreg (n.toNat + 1) = BitVec.ofNat 32 (nextAddr s.cur.addr / 2 ^ 32)) ∧
        (∀ n, o = .a n → gt.areg n.toNat = BitVec.ofNat 64 (nextAddr s.cur.addr)))) ∧
    (s.isTarget g.gid.cluster g.slot t = true → e.uguard = false → Passes i s g) ∧
    (NoTarget s g.gid.cluster g.slot t → FaultsFirst i s g .illegalTarget))

namespace Sys2Proof.Claims

/-- The path that a deferred one resumes as, at its own place with its own lanes and stack (R162, R163). -/
def resumed (s : State) (g : Group) (x : REntry) (d : Deferred) : Path :=
  { id := g.nextPid, pc := d.pc, exec := d.mask, held := d.mask, stack := d.stack, born := x.id, since := s.clock.toNat }

/-- The group's only path holds entry `x` on top of its stack, where a path is deferred, and with its lanes the entry is not complete. -/
def Defers (g : Group) (p : Path) (x : REntry) (d : Deferred) : Prop :=
  g.ents = [x] ∧ x.deferred = some d ∧ d.stack = [x.id] ∧ p.stack = [x.id] ∧ g.paths = [p] ∧ p.id < g.nextPid ∧ x.mask &&& ~~~(x.arrived ||| p.held) ≠ 0

end Sys2Proof.Claims

/-- R162, R26: RECON is a NOP for a path whose stack does not hold the token. Where the top entry has it and lanes are still out, the path waits, and its
lanes count as arrived; a path that is deferred there resumes at its own place. When the last lanes arrive, the two paths fuse: EXEC is the OR of
theirs. -/
def Obligations.Reconverge : Prop :=
  ∀ (s : State) (g : Group) (gd : Guard) (n : BitVec 6) (p : Path),
    let i := Instr.recon gd n
    let e := envOf i s g
    Issues i s g → s.cur.sl = .c → e.uguard = true → g.path s.cur.p = some p →
    ((∀ k ∈ p.stack, ∀ x ∈ g.ents, x.id = k → x.tok ≠ n) → Passes i s g) ∧
    (∀ (x : REntry) (w : Path), g.ents = [x] → x.tok = n → x.deferred = none → p.stack = [x.id] → (g.paths = [p, w] ∨ g.paths = [w, p]) → w.id ≠ p.id →
      w.stack = [x.id] → w.st = .run → x.mask &&& ~~~(x.arrived ||| p.held) ≠ 0 →
      Leaves i s g fun h => Group.withPath { h with ents := [{ x with arrived := x.arrived ||| p.held, acc := x.acc ||| p.exec }] } p.id fun q =>
        { q with st := .wait x.id, stack := [] }) ∧
    (∀ (x : REntry) (d : Deferred), x.tok = n → Defers g p x d → Leaves i s g fun h =>
      { h with
        ents := [{ x with arrived := x.arrived ||| p.held, acc := x.acc ||| p.exec, deferred := none }], nextPid := g.nextPid + 1,
        paths := (h.paths.map fun q => { q with st := .wait x.id, stack := [] }) ++ [resumed s g x d] }) ∧
    (∀ (x : REntry) (w : Path), g.ents = [x] → x.tok = n → x.deferred = none → p.stack = [x.id] → (g.paths = [p, w] ∨ g.paths = [w, p]) → w.id ≠ p.id →
      w.st = .wait x.id → w.stack = [] → (x.owner = p.id ∨ x.owner = w.id) → x.mask &&& ~~~(x.arrived ||| p.held) = 0 → p.st = .run →
      Leaves i s g fun h =>
        let keep := if x.owner = p.id then p else w
        { h with ents := [], paths := [{ keep with
            st := .run, exec := x.acc ||| p.exec, held := 0xFFFFFFFF, pc := nextAddr s.cur.addr, line := p.line, stack := [], split := none }] })

/-- R163, R39, R87: EXIT under a false guard does nothing. A path that is deferred in its stack goes on in its place. The last path's EXIT ends the group: no path is left, the A-slice has ended and the queues are
empty. In the A-slice EXIT ends the A-slice alone. -/
def Obligations.ExitEnds : Prop :=
  ∀ (s : State) (g : Group) (gd : Guard),
    let i := Instr.exit gd
    let e := envOf i s g
    Issues i s g →
    (s.cur.sl = .c → e.uguard = false → Passes i s g) ∧
    (s.cur.sl = .a → Leaves i s g fun h => { h with ast := .exited, aline := none }) ∧
    (∀ p x d, s.cur.sl = .c → e.uguard = true → p.id = s.cur.p → Defers g p x d → Leaves i s g fun h =>
      { h with ents := [{ x with arrived := x.arrived ||| p.held, deferred := none }], nextPid := g.nextPid + 1, paths := [resumed s g x d], qend := g.qend || g.dmode }) ∧
    (∀ p, s.cur.sl = .c → e.uguard = true → g.paths = [p] → p.id = s.cur.p → (∀ k ∈ p.stack, ∀ x ∈ g.ents, x.id = k → x.deferred = none) →
      ∃ h gt, Passed i s g h ∧ exec i s = .next (Becomes s gt) ∧ gt.paths = [] ∧ gt.ents = [] ∧ gt.ast = .exited ∧ gt.q = [[], [], [], []] ∧ gt.qb = [] ∧
        gt.regs = g.regs ∧ gt.retired = g.retired + 1 ∧ gt.qend = (g.qend || g.dmode) ∧ gt.flags = g.flags ∧ gt.frame = g.frame ∧
        gt = { h with
          paths := [], ents := [], trapPaths := [], trapEnts := [], rq := [], inh := false, ast := .exited, aline := none, astall := false,
          q := [[], [], [], []], qb := [], ops := gt.ops, qend := gt.qend })

/-- R55, R93, R165: NOP and PREF change nothing that a program can read; YIELD sets only the time until which its path, or the A-slice, gives way, and
clears the list of those offered the slot since (log 28, DESIGN CHOICE: where the hold ends).
R39, R58: an instruction with a uniform guard that is false does nothing but pass; the queues that it
names are popped all the same, as in every statement (log 23, DEDUCED). -/
def Obligations.HintsAndFalseGuards : Prop :=
  (∀ (s : State) (g : Group) (gd : Guard) (h : Head) (cp : CacheP) (a : Operand) (off : BitVec 21),
    (Issues .nop s g → Passes .nop s g) ∧ (Issues (.pref h cp a off) s g → Passes (.pref h cp a off) s g) ∧
    (Issues (.yield gd) s g → (envOf (.yield gd) s g).uguard = true →
      (s.cur.sl = .c → Leaves (.yield gd) s g fun k => Group.withPath k s.cur.p fun q => { q with yield := s.clock.toNat + 64, passed := [] }) ∧
      (s.cur.sl = .a → Leaves (.yield gd) s g fun k => { k with ayield := s.clock.toNat + 64, apassed := [] }))) ∧
  (∀ (s : State) (g : Group) (i : Instr), Issues i s g → (envOf i s g).uguard = false →
    (match i with
      | .recon _ _ | .yield _ | .qbpush _ _ | .qsync _ _ | .bclose _ _ | .bwait _ _ _ | .acp _ _ _ _ _ _ _ _ _ => True
      | _ => False) → Passes i s g)

namespace Sys2Proof.Claims

/-- A load: its instruction, space, width, sign extension, order, destination, base, offset and TAKE predicate. -/
structure LoadForm where
  i : Instr
  sp : MSpace
  w : Width
  sx : Bool
  o : OrdScope
  d : Operand
  a : Operand
  off : BitVec 21
  take : Option PReg

/-- The loads of the six spaces, and LDS with TAKE (R59, R64, R78). -/
def loadForms (h : Head) (w : Width) (sx : Bool) (o : OrdScope) (cp : CacheP) (d a : Operand) (off : BitVec 21) (px : PReg) : List LoadForm :=
  [⟨.ldp h w sx o cp d a off, .p, w, sx, o, d, a, off, none⟩, ⟨.lds h w sx o cp d a off false 0, .s, w, sx, o, d, a, off, none⟩,
   ⟨.lds h w sx o cp d a off true px, .s, w, sx, o, d, a, off, some px⟩, ⟨.ldd h w sx o cp d a off, .d, w, sx, o, d, a, off, none⟩,
   ⟨.ldg h w sx o cp d a off, .g, w, sx, o, d, a, off, none⟩, ⟨.ldx h w sx o cp d a off, .x, w, sx, o, d, a, off, none⟩,
   ⟨.ldh h w sx o cp d a off, .h, w, sx, o, d, a, off, none⟩]

/-- A store: its instruction, space, width, order, base, data, offset and FILL predicate. -/
structure StoreForm where
  i : Instr
  sp : MSpace
  w : Width
  o : OrdScope
  a : Operand
  b : Operand
  off : BitVec 21
  fill : Option PReg

/-- The stores of the six spaces, and STS with FILL (R59, R64, R78). -/
def storeForms (h : Head) (w : Width) (o : OrdScope) (cp : CacheP) (a b : Operand) (off : BitVec 21) (px : PReg) : List StoreForm :=
  [⟨.stp h w o cp a b off, .p, w, o, a, b, off, none⟩, ⟨.sts h w o cp a b off false 0, .s, w, o, a, b, off, none⟩,
   ⟨.sts h w o cp a b off true px, .s, w, o, a, b, off, some px⟩, ⟨.std h w o cp a b off, .d, w, o, a, b, off, none⟩,
   ⟨.stg h w o cp a b off, .g, w, o, a, b, off, none⟩, ⟨.stx h w o cp a b off, .x, w, o, a, b, off, none⟩,
   ⟨.sth h w o cp a b off, .h, w, o, a, b, off, none⟩]

/-- The lanes of an access: ulane() alone under its guard for a uniform one, else the active lanes (R66, R68). -/
def accessLanes (e : Env) (uni : Bool) : List Nat :=
  if uni then (if e.uguard then [e.ulane] else []) else (List.range 32).filter e.isActive

/-- The address of a lane's access (R60): the base plus the sign-extended offset, modulo 2^64 or 2^32 by the space. -/
def accessAddr (e : Env) (sp : MSpace) (a : Operand) (off : BitVec 21) (l : Nat) : Nat :=
  if sp.wide then ((((e.rd a true l).toNat : Int) + off.toInt) % 2 ^ 64).toNat else ((((e.rd32 a l).toNat : Int) + off.toInt) % 2 ^ 32).toNat

/-- A lane's access passes R68's checks with this key: in range, aligned to its size, and good in its space. -/
def AccessOk (s : State) (g : Group) (sp : MSpace) (n l a key : Nat) (wr : Bool) : Prop :=
  (sp.wide = true → a < 2 ^ 56) ∧ a % n = 0 ∧ s.spaceKey g sp l a n (!wr) wr false = .ok key

/-- What an operation keeps of the instruction that issued it (R48, R213, R227). -/
structure OpOf (i : Instr) (s : State) (e : Env) (o : Op) : Prop where
  id : o.id = s.nextId
  pid : o.pid = e.p.id
  flag : o.flag = flagOf i.setf s.cur
  flag2 : o.flag2 = none
  pc : o.pc = s.cur.addr
  word : o.word = s.cur.word
  born : o.born = e.p.born
  held : o.held = e.p.held
  late : o.late = none

end Sys2Proof.Claims

/-- R60, R64-R68, R75, R78: LDP, LDS, LDD, LDG, LDX, LDH and LDS.TAKE: a load whose lanes pass every check issues: the operation holds each active lane's key, the destination registers are
awaited, and nothing else changes. With no active lane it passes. A group with 8 plain loads in flight stalls.
R60, R64-R68, R227, R236: STP, STS, STD, STG, STX, STH and STS.FILL: a store whose lanes pass every check issues with each active lane's key and value, counted in the acknowledgement counter.
In a D-mode group the store enters the commit buffer at `.TEAM` or wider, with FILL, or where it meets a buffered byte. -/
def Obligations.LoadsAndStoresIssue : Prop :=
  (∀ (s : State) (g : Group) (h : Head) (w : Width) (sx : Bool) (o : OrdScope) (cp : CacheP) (d a : Operand) (off : BitVec 21) (px : PReg) (key : Nat → Nat),
    ∀ f ∈ loadForms h w sx o cp d a off px,
    let e := envOf f.i s g
    let ls := accessLanes e d.isS
    Issues f.i s g → (f.take = none ∨ g.dmode = false) →
    (∀ l ∈ ls, AccessOk s g f.sp w.bytes l (accessAddr e f.sp a off l) (key l) false) →
    (ls = [] → Passes f.i s g) ∧
    (ls ≠ [] → f.take = none → 8 ≤ g.plainLoads → Stalls f.i s) ∧
    (ls ≠ [] → (f.take = none → g.plainLoads < 8) → ∃ x : Op, OpOf f.i s e x ∧
      x.kind = .load (ls.map fun l => (l, key l)) w.bytes sx d d.isS f.take ∧ x.ok = (if o.ord = .acq ∨ o.ord = .ar then .aq else .ld) ∧
      x.scope = o.scope ∧ x.dsts = f.i.dsts ∧ x.counted = false ∧ x.sp = f.sp ∧ x.plain = f.take.isNone ∧
      x.addrs = ls.map (fun l => (if d.isS then 0 else l, accessAddr e f.sp a off l)) ∧ Queues f.i s g fun k => k.addOp x)) ∧
  (∀ (s : State) (g : Group) (h : Head) (w : Width) (o : OrdScope) (cp : CacheP) (a b : Operand) (off : BitVec 21) (px : PReg) (key : Nat → Nat),
    ∀ f ∈ storeForms h w o cp a b off px,
    let e := envOf f.i s g
    let uni := !a.isV && !b.isV
    let ls := accessLanes e uni
    let acc := ls.map fun l => (l, key l, e.num b w.regs l % 2 ^ (8 * w.bytes))
    Issues f.i s g →
    (∀ l ∈ ls, AccessOk s g f.sp w.bytes l (accessAddr e f.sp a off l) (key l) true) →
    (ls = [] → Passes f.i s g) ∧
    (ls ≠ [] → g.cbuf.length < 512 → ∃ x : Op, OpOf f.i s e x ∧
      x.kind = (match f.fill with
        | none => .store acc w.bytes
        | some p => .fill acc w.bytes p uni) ∧
      x.ok = (if o.ord = .rel ∨ o.ord = .ar then .rl else .st) ∧ x.scope = o.scope ∧ x.dsts = f.i.dsts ∧ x.counted = true ∧ x.sp = f.sp ∧
      Queues f.i s g fun k => if g.dmode && dmodeBuffers g f.sp o f.fill.isSome x.keys then k.bufOp x else k.addOp x))

/-- R67, R68, R60: the first lane, in order, whose address is out of range or not a multiple of the access size faults before any effect: registers,
predicates and memory are as before, but for the record of the fault. -/
def Obligations.MisalignedFaults : Prop :=
  ∀ (s : State) (g : Group) (h : Head) (w : Width) (sx : Bool) (o : OrdScope) (cp : CacheP) (d a b : Operand) (off : BitVec 21) (px : PReg) (key : Nat → Nat),
    Memory.wf s.mem = true →
    (∀ f ∈ loadForms h w sx o cp d a off px, ∀ pre l post, accessLanes (envOf f.i s g) d.isS = pre ++ l :: post → Issues f.i s g →
      (∀ k ∈ pre, AccessOk s g f.sp w.bytes k (accessAddr (envOf f.i s g) f.sp a off k) (key k) false) →
      (f.sp.wide = true → 2 ^ 56 ≤ accessAddr (envOf f.i s g) f.sp a off l → FaultsFirst f.i s g .addrRange) ∧
      ((f.sp.wide = true → accessAddr (envOf f.i s g) f.sp a off l < 2 ^ 56) → accessAddr (envOf f.i s g) f.sp a off l % w.bytes ≠ 0 → FaultsFirst f.i s g .misaligned)) ∧
    (∀ f ∈ storeForms h w o cp a b off px, ∀ pre l post, accessLanes (envOf f.i s g) (!a.isV && !b.isV) = pre ++ l :: post → Issues f.i s g →
      (∀ k ∈ pre, AccessOk s g f.sp w.bytes k (accessAddr (envOf f.i s g) f.sp a off k) (key k) true) →
      (f.sp.wide = true → 2 ^ 56 ≤ accessAddr (envOf f.i s g) f.sp a off l → FaultsFirst f.i s g .addrRange) ∧
      ((f.sp.wide = true → accessAddr (envOf f.i s g) f.sp a off l < 2 ^ 56) → accessAddr (envOf f.i s g) f.sp a off l % w.bytes ≠ 0 → FaultsFirst f.i s g .misaligned))

namespace Sys2Proof.Claims

/-- The number that a load of `n` bytes delivers (R65, R68): little-endian, sign-extended to 32 bits where the load asks for it. -/
def loadedNum (bs : List Byte) (n : Nat) (sx : Bool) : Nat :=
  if sx = true ∧ n < 4 then ((BitVec.ofNat (8 * n) (wordOfBytes bs)).signExtend 32).toNat else wordOfBytes bs

/-- The operation has left its group, and its flag and its acknowledgement are counted down (R48, R227). -/
def Left (g gt : Group) (o : Op) : Prop :=
  (∀ x ∈ gt.ops, x ∈ g.ops ∧ x.id ≠ o.id) ∧ (∀ x ∈ g.ops, x.id ≠ o.id → x.kind ≠ .marker → x ∈ gt.ops) ∧
    gt.flags = ((g.lowerFlag o.flag).lowerFlag o.flag2).flags ∧ gt.acks = if o.counted then g.acks - 1 else g.acks

end Sys2Proof.Claims

/-- R68, R65, R75, R49: LOAD_COMPLETION of a plain load whose turn it is, and whose destination's lines are resident (R31), reads memory: each lane's registers take the bytes at its key, little-endian
and sign-extended where asked; an S destination takes the one value; the corrected errors are counted (R362); all else, and all memory, is as before.
R68, R227, R8: ACKNOWLEDGEMENT of a store whose turn it is writes exactly its bytes, the last lane's where two meet, and counts down; every other byte
of memory and every register is as before. -/
def Obligations.LoadsAndStoresEnd : Prop :=
  (∀ (s : State) (gi k : Nat) (g : Group) (o : Op) (acc : List (Nat × Nat)) (n : Nat) (sx uni : Bool) (d : Operand), Shaped g →
    s.findOp gi k = some (g, o) → o.kind = .load acc n sx d uni none → g.mayPerform o = true → o.late = none → n ∈ [1, 2, 4, 8, 16] →
    (acc.map (·.1)).Nodup → (∀ p ∈ acc, p.1 < 32) → acc ≠ [] →
    (∀ r, d = .v r → r.toNat + wordsOf n ≤ g.vbud) → (∀ r, d = .s r → r.toNat + wordsOf n ≤ 64) → (∀ r ∈ vRefs o.dsts, r ∈ g.vres) → ∀ c,
    ∃ gt, exec (.loadCompletion gi k c) s = .next { s.countCorrected (o.keys.headD 0) c with groups := s.groups.set gi gt, last := .event } ∧ Left g gt o ∧
      gt = { g with
        regs := { g.regs with v := gt.regs.v, s := gt.regs.s }, ops := gt.ops, flags := gt.flags, acks := gt.acks, vwr := gt.vwr, vdirty := gt.vdirty } ∧
      (∀ m l, l < 32 → (∀ r, d = .v r → ¬ (r.toNat ≤ m ∧ m < r.toNat + wordsOf n) ∨ l ∉ acc.map (·.1)) → gt.vlane m l = g.vlane m l) ∧
      (∀ m, (∀ r, d = .s r → ¬ (r.toNat ≤ m ∧ m < r.toNat + wordsOf n)) → gt.sreg m = g.sreg m) ∧
      (∀ r, d = .v r → ∀ p ∈ acc, ∀ j < wordsOf n,
        gt.vlane (r.toNat + j) p.1 = BitVec.ofNat 32 (loadedNum ((byteKeys o.pv p.2 n).map (s.seen g o.id)) n sx / 2 ^ (32 * j))) ∧
      (∀ r p, d = .s r → acc.head? = some p → ∀ j < wordsOf n,
        gt.sreg (r.toNat + j) = BitVec.ofNat 32 (loadedNum ((byteKeys o.pv p.2 n).map (s.seen g o.id)) n sx / 2 ^ (32 * j)))) ∧
  (∀ (s : State) (gi k : Nat) (g : Group) (o : Op) (acc : List (Nat × Nat × Nat)) (n : Nat),
    Memory.wf s.mem = true → s.findOp gi k = some (g, o) → o.kind = .store acc n → g.mayPerform o = true → o.late = none →
    ∃ t gt, exec (.acknowledgement gi k) s = .next t ∧ t.last = .event ∧ t.groups[gi]? = some gt ∧ Left g gt o ∧ gt.regs = g.regs ∧
      (∀ x, x ∉ (storeBytes o.pv n acc).map (·.1) → t.mem.get x = s.mem.get x) ∧
      (∀ x b pre post, storeBytes o.pv n acc = pre ++ (x, b) :: post → x ∉ post.map (·.1) → t.mem.get x = b) ∧
      t.fe = s.fe ∧ t.ctxs = s.ctxs ∧ t.clusters = s.clusters ∧ t.teams = s.teams ∧ t.tiles = s.tiles ∧ t.groups.map (·.regs) = s.groups.map (·.regs))

namespace Sys2Proof.Claims

/-- A predicate of a full/empty access (R78, R39): each accessing lane's own answer; the one answer of a uniform access in every lane that its path
held. Every other predicate is as before. -/
def TookPred (g gt : Group) (px : PReg) (uni : Bool) (held : Mask) (vals : List (Nat × Bool)) : Prop :=
  ∀ q l, q < 64 → l < 32 →
    (q = px.toNat → uni = false → ∀ b, (l, b) ∈ vals → gt.pred q l = b) ∧
    (q = px.toNat → uni = true → held.getLsbD l = true → ∀ p, vals.head? = some p → gt.pred q l = p.2) ∧
    (q ≠ px.toNat ∨ (if uni then held.getLsbD l = false else l ∉ vals.map (·.1)) → gt.pred q l = g.pred q l)

end Sys2Proof.Claims

namespace Sys2Proof.Claims

/-- What an LDS with TAKE of `n` bytes does (R78): the full granules that it names are empty, the lanes that found theirs full have their bytes as the
operation numbered `id` sees them, and each lane's answer stands in its predicate; every other register is as before. -/
def Took (s t : State) (g gt : Group) (id : Nat) (pv : Bool) (held : Mask) (acc : List (Nat × Nat)) (n : Nat) (sx : Bool) (d : Operand) (px : PReg) (uni : Bool) : Prop :=
  let word (k j : Nat) : Word := BitVec.ofNat 32 (loadedNum ((byteKeys pv k n).map (s.seen g id)) n sx / 2 ^ (32 * j))
  (∀ x, x ∈ t.fe ↔ x ∈ s.fe ∧ ∀ p ∈ acc, granuleOf p.2 ≠ x) ∧
  TookPred g gt px uni held (acc.map fun p => (p.1, decide (granuleOf p.2 ∈ s.fe))) ∧
  (∀ m l, l < 32 → (∀ r, d = .v r → ¬ (r.toNat ≤ m ∧ m < r.toNat + wordsOf n) ∨ ∀ p ∈ acc, p.1 = l → granuleOf p.2 ∉ s.fe) → gt.vlane m l = g.vlane m l) ∧
  (∀ m, (∀ r, d = .s r → ¬ (r.toNat ≤ m ∧ m < r.toNat + wordsOf n) ∨ ∀ p ∈ acc, granuleOf p.2 ∉ s.fe) → gt.sreg m = g.sreg m) ∧
  (∀ r, d = .v r → ∀ p ∈ acc, granuleOf p.2 ∈ s.fe → ∀ j < wordsOf n, gt.vlane (r.toNat + j) p.1 = word p.2 j) ∧
  ∀ r p, d = .s r → acc = [p] → granuleOf p.2 ∈ s.fe → ∀ j < wordsOf n, gt.sreg (r.toNat + j) = word p.2 j

/-- What an STS with FILL does (R78): the granules it names are full, the lanes that found theirs empty have written their bytes, the later lane's where two meet,
and each lane's answer stands in its predicate; every other byte and every V and S register is as before. -/
def Filled (s t : State) (g gt : Group) (o : Op) (acc : List (Nat × Nat × Nat)) (n : Nat) (px : PReg) (uni : Bool) : Prop :=
  let got := acc.filter fun p => !s.fe.contains (granuleOf p.2.1)
  gt.regs.v = g.regs.v ∧ gt.regs.s = g.regs.s ∧ (∀ x, x ∈ t.fe ↔ x ∈ s.fe ∨ ∃ p ∈ acc, granuleOf p.2.1 = x) ∧
    TookPred g gt px uni o.held (acc.map fun p => (p.1, decide (granuleOf p.2.1 ∉ s.fe))) ∧
    (∀ x, x ∉ (storeBytes o.pv n got).map (·.1) → t.mem.get x = s.mem.get x) ∧
    ∀ x b pre post, storeBytes o.pv n got = pre ++ (x, b) :: post → x ∉ post.map (·.1) → t.mem.get x = b

end Sys2Proof.Claims

/-- R77, R78: an LDS with TAKE empties the full granules that it reads, whose lanes take their bytes, and an STS with FILL fills the empty ones, whose lanes
write theirs; a lane of the other kind changes nothing but its predicate. A uniform access writes its answer in every lane of its path.
R366: in D-mode an LDS with TAKE is performed as it issues.
R79: FETEST reads the full/empty bit of each active lane's granule into PX before any change; SET makes those granules full and CLR empty. In D-mode
SET and CLR wait in the commit buffer (R218, R236). -/
def Obligations.FullEmptyBits : Prop :=
  (∀ (s : State) (gi k : Nat) (g : Group) (o : Op) (px : PReg) (n : Nat) (uni : Bool), Shaped g → Memory.wf s.mem = true →
    s.findOp gi k = some (g, o) → g.mayPerform o = true → o.late = none → px ≠ 0 →
    (∀ (acc : List (Nat × Nat)) (sx : Bool) (d : Operand), o.kind = .load acc n sx d uni (some px) → n ∈ [1, 2, 4, 8, 16] → (acc.map (·.1)).Nodup →
      (∀ p ∈ acc, p.1 < 32) → acc ≠ [] → (∀ r, d = .v r → r.toNat + wordsOf n ≤ g.vbud) → (∀ r, d = .s r → r.toNat + wordsOf n ≤ 64) →
      (∀ r ∈ vRefs o.dsts, r ∈ g.vres) → ∀ c,
      ∃ t gt, exec (.loadCompletion gi k c) s = .next t ∧ t.last = .event ∧ t.mem = s.mem ∧ t.groups[gi]? = some gt ∧ Left g gt o ∧
        Took s t g gt o.id o.pv o.held acc n sx d px uni) ∧
    (∀ (acc : List (Nat × Nat × Nat)), o.kind = .fill acc n px uni → (acc.map (·.1)).Nodup → (∀ p ∈ acc, p.1 < 32) →
      ∃ t gt, exec (.acknowledgement gi k) s = .next t ∧ t.last = .event ∧ t.groups[gi]? = some gt ∧ Left g gt o ∧ Filled s t g gt o acc n px uni)) ∧
  (∀ (s : State) (g : Group) (h : Head) (w : Width) (sx : Bool) (o : OrdScope) (cp : CacheP) (d a : Operand) (off : BitVec 21) (px : PReg) (key : Nat → Nat),
    Shaped g → px ≠ 0 →
    let i := Instr.lds h w sx o cp d a off true px
    let e := envOf i s g
    let ls := accessLanes e d.isS
    let acc := ls.map fun l => (l, key l)
    Issues i s g → g.dmode = true → g.ops = [] → ls ≠ [] →
    (∀ l ∈ ls, AccessOk s g .s w.bytes l (accessAddr e .s a off l) (key l) false) →
    ∃ k gt fe, Passed i s g k ∧ gt = { k with regs := gt.regs, vdirty := gt.vdirty, vwr := gt.vwr } ∧
      exec i s = .next { Becomes s gt with nextId := s.nextId + 1, fe := fe } ∧
      Took s { s with fe := fe } g gt s.nextId false e.p.held acc w.bytes sx d px d.isS) ∧
  (∀ (s : State) (g : Group) (h : Head) (op : FeOp) (o : OrdScope) (px : PReg) (a : Operand) (off : BitVec 21) (gran : Nat → Nat), Shaped g →
    let i := Instr.fetest h op o px a off
    let e := envOf i s g
    Issues i s g → (∀ l < 32, e.isActive l = true → ∃ k, s.sharedKey g (accessAddr e .s a off l) 1 = .ok k ∧ gran l = granuleOf k) →
    (g.dmode = true → op ≠ .test → ((∀ l < 32, e.isActive l = false) → Passes i s g) ∧
      ((∃ l < 32, e.isActive l = true) → g.cbuf.length < 512 → ∃ x : Op, OpOf i s e x ∧
        x.kind = .fetest (((List.range 32).filter e.isActive).map fun l => (l, gran l)) (op == .set) px ∧ x.dsts = i.dsts ∧ x.counted = false ∧
        Queues i s g fun k => k.bufOp x)) ∧
    (g.dmode = false ∨ op = .test → g.ops = [] → ∃ h' gt fe, Passed i s g h' ∧ exec i s = .next { Becomes s gt with fe := fe } ∧ gt = { h' with regs := { h'.regs with p := gt.regs.p } } ∧
      (∀ q l, q < 64 → l < 32 → gt.pred q l = if q ≠ 0 ∧ q = px.toNat ∧ e.isActive l = true then decide (gran l ∈ s.fe) else g.pred q l) ∧
      (match op with
        | .test => fe = s.fe
        | .set => ∀ x, x ∈ fe ↔ x ∈ s.fe ∨ ∃ l < 32, e.isActive l = true ∧ gran l = x
        | .clr => ∀ x, x ∈ fe ↔ x ∈ s.fe ∧ ∀ l < 32, e.isActive l = true → gran l ≠ x)))

/-- R81-R84, R28: LDQ (whose checks the model takes in the order of log 99) reserves the tail of its queue and its read is in flight; it stalls while the queue holds SLIP entries; a fault of its checks halts the
A-slice and stands in the queue. LDQ_DATA_RETURN puts the 32 words, or ECC_UNCORRECTED with the address that was read, into the position. -/
def Obligations.HodQueueLoad : Prop :=
  (∀ (s : State) (g : Group) (gd : Guard) (q : BitVec 2) (cp : CacheP) (a : Operand) (off : BitVec 21),
    let i := Instr.ldq gd q cp a off
    let e := envOf i s g
    let x := (((e.rd a true 0).toNat : Int) + off.toInt) % 2 ^ 64
    let qs := g.q.getD q.toNat []
    Issues i s g →
    (g.regs.slip ≤ qs.length → Stalls i s) ∧
    (qs.length < g.regs.slip → g.qsyncWaits = false → ∀ ks, s.taggedKeys g x.toNat 128 4 needR = .ok ks → ∃ o : Op, OpOf i s e o ∧
      o.kind = .ldq q.toNat ((g.qh.getD q.toNat 0 + qs.length) % 16) ks ∧ o.dsts = [] ∧ o.addrs = [(0, x.toNat)] ∧
      Queues i s g fun h => Group.addOp { h with q := h.q.modify q.toNat (· ++ [QPos.reserved]) } o) ∧
    (qs.length < g.regs.slip → g.qsyncWaits = false → ∀ c ad, s.taggedKeys g x.toNat 128 4 needR = .error (c, ad) → ∃ f : FaultInfo, f.code = c ∧ f.addr = ad ∧
      exec i s = .next { s with
        groups := s.groups.set s.cur.g { g with ast := .halted f (some q.toNat) false, q := g.q.modify q.toNat (· ++ [QPos.fault f]) }, last := .faulted c })) ∧
  (∀ (s : State) (gi k : Nat) (ecc : Bool) (g : Group) (o : Op) (q pos : Nat) (ks : List Nat), s.findOp gi k = some (g, o) → o.kind = .ldq q pos ks →
    ∃ gt v, exec (.ldqDataReturn gi k ecc) s = .next { (if ecc then s.countEcc (ks.headD 0) else s) with groups := s.groups.set gi gt, last := .event } ∧
      Left g gt o ∧
      gt = { g with q := g.q.modify q fun ps => ps.set ((pos + 16 - g.qh.getD q 0) % 16) v, ops := gt.ops, flags := gt.flags, acks := gt.acks } ∧
      (ecc = true → v = .fault { code := .eccUncorrected, addr := (o.addrs.headD (0, 0)).2 }) ∧
      (ecc = false → ∃ ws : List Word, v = .data ws ∧ ws.length = 32 ∧
        ∀ l < 32, ws.getD l 0 = BitVec.ofNat 32 (wordOfBytes (((ks.drop (4 * l)).take 4).map (s.seen g s.nextId)))))

/-- R88-R91, R87: QBPUSH appends ulane()'s word to QB, stalls on a full QB while the A-slice runs, and faults when it has halted or ended; QBPOP takes the
oldest entry into an A register and stalls on an empty QB; QSTAT reads the occupancies; QSYNC empties the queues and starts the A-slice at its label. -/
def Obligations.QueueBackAndSync : Prop :=
  ∀ (s : State) (g : Group) (h : Head) (gd : Guard) (a d : Operand) (disp : BitVec 32), Shaped g →
    (Issues (.qbpush h a) s g → (envOf (.qbpush h a) s g).uguard = true →
      (g.qb.length < 8 → Leaves (.qbpush h a) s g fun k =>
        { k with qb := k.qb ++ [(envOf (.qbpush h a) s g).rd32 a (envOf (.qbpush h a) s g).ulane], astall := false }) ∧
      (8 ≤ g.qb.length → g.ast = .run → Stalls (.qbpush h a) s) ∧
      (8 ≤ g.qb.length → ∀ f q b, g.ast = .halted f q b → Faults (.qbpush h a) s f.code) ∧
      (8 ≤ g.qb.length → (g.ast = .absent ∨ g.ast = .exited) → Faults (.qbpush h a) s .queueOverrun)) ∧
    (Issues (.qbpop h d) s g → ∀ n, d = .a n →
      (g.qb = [] → exec (.qbpop h d) s = .next { s with groups := s.groups.set s.cur.g { g with astall := true }, last := .stalled }) ∧
      (∀ x r, g.qb = x :: r → ∃ k gt, Passed (.qbpop h d) s g k ∧ exec (.qbpop h d) s = .next (Becomes s gt) ∧ gt = { k with qb := r, regs := gt.regs } ∧
        gt.areg n.toNat = x.setWidth 64 ∧ KeepsRegs (envOf (.qbpop h d) s g) g gt [.a n.toNat] d ∧ KeepsPreds g gt)) ∧
    (Issues (.qstat gd d) s g → ∀ n, d = .a n → ∃ k gt, Passed (.qstat gd d) s g k ∧ exec (.qstat gd d) s = .next (Becomes s gt) ∧ gt = { k with regs := gt.regs } ∧
      KeepsRegs (envOf (.qstat gd d) s g) g gt [.a n.toNat] d ∧ KeepsPreds g gt ∧
      ((∀ j < 4, (g.q.getD j []).length ≤ 16) → g.qb.length ≤ 8 →
        (∀ j < 4, (gt.areg n.toNat).extractLsb' (8 * j) 8 = BitVec.ofNat 8 (g.q.getD j []).length) ∧
        (gt.areg n.toNat).extractLsb' 32 4 = BitVec.ofNat 4 g.qb.length ∧
        (gt.areg n.toNat).getLsbD 36 = g.q.any (fun q => q.any fun p => match p with
          | .fault _ => true
          | _ => false) ∧ (gt.areg n.toNat).toNat < 2 ^ 37)) ∧
    (Issues (.qsync gd disp) s g → (envOf (.qsync gd disp) s g).uguard = true →
      let t := (((g.aentry : Int) + 4 * disp.toInt) % 2 ^ 64).toNat
      (1 < g.paths.length ∨ (∃ x ∈ g.ents, x.deferred ≠ none) → Faults (.qsync gd disp) s .qsyncSplit) ∧
      (g.paths.length = 1 → (∀ x ∈ g.ents, x.deferred = none) → s.isTarget g.gid.cluster g.slot t = true → Leaves (.qsync gd disp) s g fun k =>
        { k with
          q := [[], [], [], []], qb := [], apc := t, ast := .run, aline := none, astall := false, ayield := 0, apassed := [], qbar := s.nextId,
          ops := k.ops.filter fun o => match o.kind with
            | .ldq _ _ _ => false
            | _ => true }))

namespace Sys2Proof.Claims

/-- An engine command: its instruction, engine, command, ordering, whether it joins the open batch, result registers, the tiles that it names with
the Lathe's queue (none for another engine), and the checks of its rule. -/
structure CommandForm where
  i : Instr
  eng : EngineKind
  kind : CmdKind
  ar : AcqRel
  batch : Bool
  dsts : List RegRef
  tiles : Option (List Nat)
  ok : Prop

/-- The address ranges of a command pass R168. -/
def tagged (s : State) (g : Group) (rs : List (Nat × Nat × List Nat)) : Prop := ∀ r ∈ rs, s.tagCheck g r.1 r.2.1 16 r.2.2 = .ok ()

/-- The tagged addresses whose ranges the map will tell pass what R168 checks of them at issue (R208). -/
def started (s : State) (g : Group) (as : List Nat) : Prop := ∀ a ∈ as, s.tagStart g a = .ok ()

/-- No register-space page lies in these global ranges (R33). -/
def plainPages (s : State) (g : Group) (rs : List (Nat × Nat)) : Prop := ∀ r ∈ rs, s.regspaceAt g.gid.cluster g.slot r.1 r.2 = none

/-- The copy, gather and Trowel commands (R94, R104-R106, R206, R208, R209). -/
def copyForms (s : State) (g : Group) (e : Env) (h : Head) (ss ds : Space) (bar sc : Bool) (ar : AcqRel) (d a b c : Operand) (dn : BitVec 6) (px : PReg)
    (rows : KvRows) (dim : BitVec 2) (f : RowFmt) (width : BitVec 11) : List CommandForm :=
  let n := e.u64 b / 2 ^ 32
  let total := (if rows = .kv then 2 * n else n) * 1024
  let t := ebits (e.u64 c) 31 0
  let r := ebits (e.u64 c) 47 32
  let depth := ebits (e.u64 c) 51 48
  let dm := 32 * 2 ^ dim.toNat
  let size : Option Nat := if c = .v 0 then none else some (e.u64 c)
  [⟨.acp h ss ds bar ar d a b c, .copy, .acp ss ds (e.u64 a) (e.u64 b) (e.u32 c) (if bar then some (e.u64 d) else none), ar, true, [], none,
     e.u64 a % 16 = 0 ∧ e.u64 b % 16 = 0 ∧ e.u32 c % 16 = 0 ∧ s.acpCheck g ss (e.u64 a) (e.u32 c) false = .ok () ∧
       s.acpCheck g ds (e.u64 b) (e.u32 c) true = .ok () ∧ plainPages s g (globRange ss (e.u64 a) (e.u32 c) ++ globRange ds (e.u64 b) (e.u32 c))⟩,
   ⟨.kvgather h rows sc ar a b c, .gather, .kvgather rows sc (e.u64 a) (e.u64 b % 2 ^ 32) n (e.u32 c), ar, true, [], none,
     1 ≤ n ∧ n ≤ 4096 ∧ e.u32 c % 16 = 0 ∧ plainPages s g [(e.u64 a, 32)] ∧ ∃ k, (if sc then s.scratchKey g.slot (e.u32 c) total else s.sharedKey g (e.u32 c) total) = .ok k⟩,
   ⟨.kvappend h ar (.s dn) a b px, .gather, .kvappend dn.toNat px.toNat (e.u64 a) (e.u32 b), ar, true, (Instr.kvappend h ar (.s dn) a b px).dsts, none,
     1 ≤ e.u32 b ∧ e.u32 b ≤ 1024 ∧ plainPages s g [(e.u64 a, 16 * e.u32 b)]⟩,
   ⟨.kvshare h ar (.s dn) a b c px, .gather, .kvshare dn.toNat px.toNat (e.u64 a) (e.u64 b) (e.u32 c), ar, true,
     (Instr.kvshare h ar (.s dn) a b c px).dsts, none, plainPages s g [(e.u64 a, 32), (e.u64 b, 32)]⟩,
   ⟨.tmatch h dim f ar d a c, .trowel, .tmatch (e.u64 d) (e.u64 a) t r depth dm f, ar, true, [], none,
     1 ≤ t ∧ t ≤ 65535 ∧ 1 ≤ depth ∧ depth ≤ 8 ∧ e.u64 c < 2 ^ 52 ∧ r ≤ (t + 1) / 2 ∧ (t = 1 → r = 0) ∧
       tagged s g [(e.u64 d, 32 + 4 * t + 8 * (t - r), [0, 2]), (e.u64 a, t * dm * rowFmtBytes f, [0, 1, 2])]⟩,
   ⟨.tmerge h width f ar d a b c, .trowel, .tmerge (e.u64 d) (e.u64 a) (e.u64 b) size (16 * width.toNat) f, ar, true, [], none,
     started s g ([e.u64 d, e.u64 a] ++ size.toList) ∧ tagged s g [(e.u64 b, 32, [0, 2])]⟩,
   ⟨.tunmerge h width f ar d a b, .trowel, .tunmerge (e.u64 d) (e.u64 a) (e.u64 b) (16 * width.toNat) f, ar, true, [], none,
     started s g [e.u64 d, e.u64 a] ∧ tagged s g [(e.u64 b, 32, [0, 2])]⟩]

/-- The Lathe's commands (R179-R189), with the format blocks that their codes name. -/
def latheForms (s : State) (g : Group) (e : Env) (h : Head) (ar : AcqRel) (zt zx : BitVec 5) (f32 sat sp : Bool) (cf cg : BitVec 6) (nb : BitVec 3)
    (dn : BitVec 8) (a b c : Operand) (F G : FmtBlock) : List CommandForm :=
  let rb := if f32 then 512 else 16 * elemBits F.fmt
  let st := if e.u32 b = 0 then rb else e.u32 b
  let block : Prop := if f32 then F = ⟨0, 0, 0, 0, false⟩ else e.fmtBlock cf = .ok F
  let moves : Prop := block ∧ (e.u32 b ≠ 0 → e.u32 b % 16 = 0 ∧ rb ≤ e.u32 b) ∧
    (e.u64 a / 2 ^ 62 = 1 ∨ e.u64 a / 2 ^ 62 = 2 → e.u64 a / 2 ^ 28 % 16 = 0) ∧ tagged s g [(e.u64 a, 127 * st + rb, [0, 1, 2])] ∧
    (f32 = false → s.scaleCheck g F (128 * (128 / F.bl)) = .ok ())
  let k := e.u32 c
  let ra := k * elemBits F.fmt / 8
  let m := nb.toNat + 1
  [⟨.lzero h zt, .lathe, .lzero zt.toNat, ⟨false, false, .grp⟩, false, [], some [zt.toNat], True⟩,
   ⟨.lread h zt (.v dn) a, .lathe, .lread zt.toNat dn.toNat (e.u32 a), ⟨false, false, .grp⟩, true, (Instr.lread h zt (.v dn) a).dsts, some [zt.toNat],
     e.u32 a ≤ 127⟩,
   ⟨.lload h f32 ar zt cf a b, .lathe, .lload zt.toNat (e.u64 a) st f32 F, ar, true, [], some [zt.toNat], moves⟩,
   ⟨.lstore h f32 sat ar zt cf a b, .lathe, .lstore zt.toNat (e.u64 a) st f32 sat F, ar, true, [], some [zt.toNat],
     moves ∧ (sat = true → f32 = true ∨ 3 ≤ F.fmt)⟩,
   ⟨.lmma h ar zt cf cg sp a b c, .lathe, .lmma zt.toNat (e.u64 a) (e.u64 b) k sp F G, ar, true, [], some [zt.toNat],
     e.fmtBlock cf = .ok F ∧ e.fmtBlock cg = .ok G ∧ pairFmt F G = true ∧ (sp = true → F.b16 = false) ∧ k % 32 = 0 ∧ (g.dmode = false → 0 < k) ∧ k ≤ 65536 ∧
       tagged s g [(e.u64 a, if sp then 128 * ra / 2 + 128 * (k / 8) else 128 * ra, [1, 2]), (e.u64 b, 128 * (k * elemBits G.fmt / 8), [1, 2])] ∧
       s.scaleCheck g F (128 * (k / F.bl)) = .ok () ∧ s.scaleCheck g G (128 * (k / G.bl)) = .ok ()⟩,
   ⟨.lmmv h ar zt cf zx nb a b c, .lathe, .lmmv zt.toNat zx.toNat (e.u64 a) (e.u32 b) k m F, ar, true, [], some [zt.toNat, zx.toNat],
     e.fmtBlock cf = .ok F ∧ e.u32 b % 32 = 0 ∧ 0 < e.u32 b ∧ 0 < k ∧ e.u32 b * m ≤ 16384 ∧ k * m ≤ 16384 ∧
       tagged s g [(e.u64 a, k * (e.u32 b * elemBits F.fmt / 8), [0, 2])] ∧ s.scaleCheck g F (k * (e.u32 b / F.bl)) = .ok ()⟩]

/-- The command is accepted: it stands last in its engine's queue and joins the open batch, and its result registers are awaited; in a D-mode group it waits
in the commit buffer (R48, R97, R196, R236). -/
def Accepted (s : State) (g : Group) (f : CommandForm) : Prop :=
  let e := envOf f.i s g
  let cmd : Cmd :=
    { id := s.nextId, gid := g.gid, tag := g.tag, slot := g.slot, part := g.part, lage := g.lage, ar := f.ar, kind := f.kind, pc := s.cur.addr }
  let cl := g.gid.cluster
  ∃ (k : Group) (x : Op) (cs : List Context), Passed f.i s g k ∧ cs.map blankCaches = s.ctxs.map blankCaches ∧ x.dsts = f.dsts ∧ x.counted = false ∧ x.id = s.nextId ∧
    let j := if f.batch then { k with openLeft := k.openLeft ++ [s.nextId], openN := k.openN + 1 } else k
    (g.dmode = false → x.kind = .engine s.nextId ∧ x.flag = none ∧ x.flag2 = none ∧
      exec f.i s = .next { Becomes s (if f.dsts = [] then j else j.addOp x) with
        nextId := s.nextId + 1, ctxs := cs, clusters := s.clusters.set cl ((s.cl cl).setQueue f.eng ((s.cl cl).queue f.eng ++ [cmd])) }) ∧
    (g.dmode = true → x.kind = .accept f.eng cmd ∧ x.flag = e.flag ∧ x.flag2 = none ∧
      exec f.i s = .next { Becomes s (j.bufOp x) with nextId := s.nextId + 1, ctxs := cs })

/-- The Lathe can take a general command: no accepted stream of the team holds one of its tiles, and one of the sixteen entries is free (R176, R194);
a D-mode group has fewer than sixteen of them in its commit buffer (log 57). -/
def latheFree (s : State) (g : Group) (ts : List Nat) : Prop :=
  s.tileBusy g ts = false ∧ if g.dmode then g.bufferedGeneral < 16 else ((s.cl g.gid.cluster).lathe.filter fun x => !x.isStream).length < 16

end Sys2Proof.Claims

/-- R94, R97, R104-R106, R176, R179-R189, R206-R209: ACP, KVGATHER, KVAPPEND, KVSHARE, TMATCH, TMERGE, TUNMERGE, LZERO, LREAD, LLOAD, LSTORE, LMMA and
LMMV: the commands to the copy, gather, Trowel and Lathe engines whose checks pass are accepted. LMMA of K = 0
that finds an entry free is a finished member of the batch. A command that names a tile of an accepted stream raises TILE_BUSY; a general command that finds
the sixteen entries taken stalls. A D-mode group that has sixteen in its buffer ends its quantum (log 57). A register-space page in a range known at issue
(R33) is REGSPACE_ACCESS. -/
def Obligations.CommandsAccepted : Prop :=
  ∀ (s : State) (g : Group) (h : Head) (ss ds : Space) (bar sc f32 sat sp : Bool) (ar : AcqRel) (d a b c : Operand) (sn : BitVec 6) (vn : BitVec 8) (px : PReg)
    (rows : KvRows) (dim : BitVec 2) (f : RowFmt) (width : BitVec 11) (zt zx : BitVec 5) (cf cg : BitVec 6) (nb : BitVec 3) (F G : FmtBlock) (i : Instr),
    let e := envOf i s g
    Issues i s g → e.uguard = true → g.cbuf.length < 512 →
    (∀ r ∈ copyForms s g e h ss ds bar sc ar d a b c sn px rows dim f width ++ latheForms s g e h ar zt zx f32 sat sp cf cg nb vn a b c F G,
      r.i = i → r.ok → (∀ ts, r.tiles = some ts → latheFree s g ts) → Accepted s g r) ∧
    (∀ r ∈ latheForms s g e h ar zt zx f32 sat sp cf cg nb vn a b c F G, r.i = i → r.ok → ∀ ts, r.tiles = some ts → s.tileBusy g ts = true → Faults i s .tileBusy) ∧
    (∀ r ∈ latheForms s g e h ar zt zx f32 sat sp cf cg nb vn a b c F G, r.i = i → r.ok → ∀ ts, r.tiles = some ts → s.tileBusy g ts = false →
      g.dmode = false → 16 ≤ ((s.cl g.gid.cluster).lathe.filter fun x => !x.isStream).length → Stalls i s) ∧
    (i = .lmma h ar zt cf cg sp a b c → e.u32 c = 0 → e.fmtBlock cf = .ok F → e.fmtBlock cg = .ok G → pairFmt F G = true → (sp = true → F.b16 = false) →
      tagged s g [(e.u64 a, 0, [1, 2]), (e.u64 b, 0, [1, 2])] → s.scaleCheck g F 0 = .ok () → s.scaleCheck g G 0 = .ok () → g.dmode = false →
      latheFree s g [zt.toNat] → Leaves i s g fun k => { k with openN := k.openN + 1 }) ∧
    (i = .kvappend h ar (.s sn) a b px → 1 ≤ e.u32 b → e.u32 b ≤ 1024 → ¬ plainPages s g [(e.u64 a, 16 * e.u32 b)] → Faults i s .regspaceAccess) ∧
    (i = .kvshare h ar (.s sn) a b c px → ¬ plainPages s g [(e.u64 a, 32), (e.u64 b, 32)] → Faults i s .regspaceAccess)

namespace Sys2Proof.Claims

/-- The command of a group's instruction. -/
def commandOf (s : State) (g : Group) (ar : AcqRel) (k : CmdKind) : Cmd :=
  { id := s.nextId, gid := g.gid, tag := g.tag, slot := g.slot, part := g.part, lage := g.lage, ar := ar, kind := k, pc := s.cur.addr }

/-- The clusters with a command behind an engine's others. -/
def queued (s : State) (g : Group) (eng : EngineKind) (c : Cmd) : List Cluster :=
  s.clusters.set g.gid.cluster ((s.cl g.gid.cluster).setQueue eng ((s.cl g.gid.cluster).queue eng ++ [c]))

/-- Predicate `px` is `b` in every lane of the path, and every other predicate is as before (R39). -/
def setsPred (e : Env) (g gt : Group) (px : PReg) (b : Bool) : Prop :=
  ∀ p l, p < 64 → l < 32 → gt.pred p l = if p ≠ 0 ∧ p = px.toNat ∧ e.p.held.getLsbD l = true then b else g.pred p l

/-- The clause for a link operation: a wrong count or collective raises OBJ_ARG; a good one reaches the link engine, whose members have still to
acknowledge, or the commit buffer. -/
def linkIssues (s : State) (g : Group) (i : Instr) (coll nb : Nat) (c : Cmd) (ok : Prop) : Prop :=
  Issues i s g → (envOf i s g).uguard = true →
    (¬ (1 ≤ nb ∧ nb ≤ 65536 ∧ s.collValid g.slot coll = true) → Faults i s .objArg) ∧
    (1 ≤ nb → nb ≤ 65536 → s.collValid g.slot coll = true → ok → g.cbuf.length < 512 →
      ∃ (k : Group) (x : Op), Passed i s g k ∧ OpOf i s (envOf i s g) x ∧ x.ok = .eng ∧ x.dsts = [] ∧ x.counted = false ∧
        let cs := s.ctxs.set g.slot { s.ctx g.slot with collN := (s.ctx g.slot).collN.modify coll (· + 1) }
        (g.dmode = false → x.kind = .coll s.nextId ∧
          exec i s = .next { Becomes s (k.addOp x) with nextId := s.nextId + 1, ctxs := cs, clusters := queued s g .link c }) ∧
        (g.dmode = true → x.kind = .accept .link c ∧ exec i s = .next { Becomes s (k.bufOp x) with nextId := s.nextId + 1, ctxs := cs }))

end Sys2Proof.Claims

/-- R280: XSCALE and XRED reach the link engine, and the collective's count of operations rises.
R190, R176, R194: LCMD puts its stream behind the Lathe's others and makes PX true, its flag held until the Lathe accepts it; with sixteen streams there
it makes PX false and does nothing else. In D-mode the stream waits in the commit buffer. A descriptor off its 64-byte boundary is MISALIGNED. -/
def Obligations.LinkAndStreamCommands : Prop :=
  (∀ (s : State) (g : Group) (h : Head) (o : OrdScope) (coll : BitVec 4) (d a b c : Operand),
    (let i := Instr.xscale h o coll d a b c
     let e := envOf i s g
     linkIssues s g i coll.toNat (e.u32 c)
       (commandOf s g ⟨false, o.ord == .rel, o.scope⟩ (.xscale (e.u64 d) (e.u64 a) (e.u64 b) (e.u32 c) coll.toNat))
       (e.u64 a % 128 = 0 ∧ e.u64 b % 8 = 0 ∧ s.rangeCheck g.gid.cluster g.slot (e.u64 a) (128 * e.u32 c) needR = .ok () ∧
         s.rangeCheck g.gid.cluster g.slot (e.u64 b) (8 * e.u32 c) needW = .ok ())) ∧
    (let i := Instr.xred h o coll d a b c
     let e := envOf i s g
     linkIssues s g i coll.toNat (e.u32 c)
       (commandOf s g ⟨false, o.ord == .rel, o.scope⟩ (.xred (e.u64 d) (e.u64 a) (e.u64 b) (e.u32 c) coll.toNat))
       (e.u64 a % 128 = 0 ∧ e.u64 b % 8 = 0 ∧ s.rangeCheck g.gid.cluster g.slot (e.u64 a) (128 * e.u32 c) { types := [0], r := true, w := true } = .ok () ∧
         s.rangeCheck g.gid.cluster g.slot (e.u64 b) (8 * e.u32 c) needR = .ok ()))) ∧
  (∀ (s : State) (g : Group) (h : Head) (zt : BitVec 5) (ca cb : BitVec 6) (px : PReg) (a : Operand) (F G : FmtBlock), Shaped g →
    let i := Instr.lcmd h zt ca cb px a
    let e := envOf i s g
    let c := commandOf s g ⟨false, false, .grp⟩ (.stream zt.toNat (e.u32 a) F G none)
    Issues i s g → e.uguard = true → e.fmtBlock ca = .ok F → e.fmtBlock cb = .ok G →
    (pairFmt F G = false → Faults i s .badFormat) ∧
    (pairFmt F G = true → e.u32 a % 64 ≠ 0 → Faults i s .misaligned) ∧
    (pairFmt F G = true → e.u32 a % 64 = 0 → ∀ k, s.sharedKey g (e.u32 a) 64 = .ok k →
      (s.tileBusy g [zt.toNat] = true → Faults i s .tileBusy) ∧
      (s.tileBusy g [zt.toNat] = false → g.dmode = false → 16 ≤ ((s.cl g.gid.cluster).lathe.filter Cmd.isStream).length →
        CompletesIn i s g fun e g gt => KeepsRegs e g gt [] .qb ∧ setsPred e g gt px false ∧ gt.ops = g.ops) ∧
      (s.tileBusy g [zt.toNat] = false → g.dmode = false → ((s.cl g.gid.cluster).lathe.filter Cmd.isStream).length < 16 →
        ∃ (k gt : Group) (x : Op), Passed i s g k ∧ OpOf i s e x ∧ x.kind = .engine s.nextId ∧ x.ok = .eng ∧ x.dsts = [] ∧ x.counted = false ∧
          setsPred e g gt px true ∧ gt = { k with regs := { k.regs with p := gt.regs.p } } ∧
          exec i s = .next { Becomes s (gt.addOp x) with nextId := s.nextId + 1, clusters := queued s g .lathe c }) ∧
      (s.tileBusy g [zt.toNat] = false → g.dmode = true → g.cbuf.length < 512 →
        ∃ (k : Group) (x : Op), Passed i s g k ∧ OpOf i s e x ∧ x.kind = .accept .lathe c ∧ x.dsts = i.dsts ∧ x.counted = false ∧
          exec i s = .next { Becomes s (k.bufOp x) with nextId := s.nextId + 1 })))

/-- R98, R97, R239: BCLOSE closes the open batch under the next number, which it writes. BWAIT of a number stalls while a batch that it awaits has members
left, faults with the failure of one that failed, a Fatal fault whatever the class of its code (R337), and otherwise lets them go: PX tells whether the number has been closed, and a D-mode quantum ends.
R103: KVLOOK gives the address of a token's row of the K half through the KVTB, which then holds its block; `.INV` drops the sequence's entries and
gives 0. A position beyond the capacity, or a block number beyond the pool, raises KV_RANGE; an unmapped block raises KV_UNMAPPED. That the pool descriptor
is read for `.INV` too, and before those checks, is log 103. -/
def Obligations.BatchesAndLookup : Prop :=
  (∀ (s : State) (g : Group) (h : Head) (a d : Operand) (px : PReg), Shaped g →
    (Issues (.bclose h d) s g → (envOf (.bclose h d) s g).uguard = true →
      CompletesIn (.bclose h d) s { g with
          batches := g.batches ++ [⟨(g.lastb + 1).toNat, g.openLeft, g.openFail⟩], openLeft := [], openN := 0, openFail := none, lastb := g.lastb + 1 }
        fun e _ gt => WritesAll e g gt d false ((g.lastb + 1).setWidth 64) ∧ KeepsRegs e g gt (Instr.bclose h d).dsts d ∧ KeepsPreds g gt) ∧
    (Issues (.bwait h a px) s g → (envOf (.bwait h a px) s g).uguard = true →
      let e := envOf (.bwait h a px) s g
      let n := e.rd32 a e.ulane
      let closed := decide ((g.lastb - n).toNat < 2 ^ 31)
      let awaits (b : Batch) : Bool := !closed || decide ((g.lastb - n).toNat ≤ (g.lastb - BitVec.ofNat 32 b.num).toNat)
      let left := (g.batches.filter awaits).flatMap (·.left)
      (left ≠ [] → g.cbuf = [] → ∃ bw, exec (.bwait h a px) s = .next { s with
          last := .stalled, groups := s.groups.set s.cur.g { g with bwait := bw } } ∧
        (∃ w ∈ bw, w.pid = s.cur.p ∧ w.ids = left ∧ ((∀ x ∈ g.bwait, x.pid ≠ s.cur.p) → w.since = s.clock.toNat)) ∧
        ∀ w ∈ g.bwait, w.pid ≠ s.cur.p → ∃ x ∈ bw, x.pid = w.pid ∧ x.ids = w.ids) ∧
      (left = [] → ∀ pre b post f, g.batches = pre ++ b :: post → awaits b = true → b.failed = some f →
        (∀ x ∈ pre, awaits x = true → x.failed = none) → Faults (.bwait h a px) s f.code ∧
          (s.cur.sl = .c → exec (.bwait h a px) s = .next
            ((s.raise s.cur.g { f with info := some b.num, fatal := true, hi := false } s.cur.addr s.cur.addr s.cur.p).report (.faulted f.code)))) ∧
      (left = [] → (∀ b ∈ g.batches, awaits b = true → b.failed = none) →
        ∃ k gt, Passed (.bwait h a px) s g k ∧ exec (.bwait h a px) s = .next (Becomes s gt) ∧
          gt = { k with
            regs := { k.regs with p := gt.regs.p }, bwait := gt.bwait, qend := g.qend || g.dmode,
            batches := gt.batches } ∧
          (∀ w, w ∈ gt.bwait ↔ w ∈ g.bwait ∧ w.pid ≠ e.p.id) ∧
          (∀ b, b ∈ gt.batches ↔ b ∈ g.batches ∧ b ∉ g.batches.filter awaits) ∧
          ∀ p l, p < 64 → l < 32 → gt.pred p l = if p ≠ 0 ∧ p = px.toNat ∧ e.p.held.getLsbD l = true then closed else g.pred p l))) ∧
  (∀ (s : State) (g : Group) (gd : Guard) (inv : Bool) (dn : BitVec 6) (a b : Operand) (k : KvDesc), Shaped g →
    let i := Instr.kvlook gd inv (.a dn) a b
    let e := envOf i s g
    let sd := (e.rd a true 0).toNat
    let p := (e.rd b true 0).toNat
    let cl := g.gid.cluster
    let ta := k.table + 4 * (p / 16)
    let found := (s.cl cl).kvtb.find? (isKv g.slot sd (p / 16))
    Issues i s g → g.qsyncWaits = false →
    (2 ^ 32 ≤ p → Faults i s .kvRange) ∧
    (p < 2 ^ 32 → kvDesc (s.readG cl g.slot) sd = .ok k →
      (k.cap ≤ p / 16 → Faults i s .kvRange) ∧
      (p / 16 < k.cap → inv = true → ∃ h gt, Passed i s g h ∧ gt = { h with regs := gt.regs } ∧ KeepsRegs e g gt [.a dn.toNat] (.a dn) ∧ KeepsPreds g gt ∧
        gt.areg dn.toNat = 0 ∧ exec i s = .next { Becomes s gt with
          clusters := s.clusters.set cl { s.cl cl with kvtb := (s.cl cl).kvtb.filter fun q => !(q.1 == g.slot && q.2.1 == sd) } }) ∧
      (p / 16 < k.cap → inv = false → ∀ n, (match found with
          | some q => n = q.2.2.2
          | none => s.readG cl g.slot ta 4 = .ok n) →
        (n = 0xFFFFFFFF → Faults i s .kvUnmapped) ∧
        (n ≠ 0xFFFFFFFF → k.nblk ≤ n → Faults i s .kvRange) ∧
        (n ≠ 0xFFFFFFFF → n < k.nblk → ∃ h gt q, Passed i s g h ∧ gt = { h with regs := gt.regs } ∧ KeepsRegs e g gt [.a dn.toNat] (.a dn) ∧ KeepsPreds g gt ∧
          gt.areg dn.toNat = BitVec.ofNat 64 (k.pool + n * 32 * k.rb + p % 16 * k.rb) ∧
          exec i s = .next { Becomes s gt with clusters := s.clusters.set cl { s.cl cl with kvtb := q } } ∧ q.getLast? = some (g.slot, sd, p / 16, n) ∧
          q.length ≤ 512 ∧ ∀ x ∈ q, x = (g.slot, sd, p / 16, n) ∨ x ∈ (s.cl cl).kvtb))))

namespace Sys2Proof.Claims

/-- An atomic: its instruction, order, kind of R218, space, whether host memory takes it, uniform, bytes, address, value destination, success predicate, and the
step of a lane. -/
structure AtomicForm where
  i : Instr
  o : OrdScope
  k : OKind
  sp : Space
  hostOk : Bool
  uni : Bool
  n : Nat
  a : Operand
  d : Option Operand
  px : Option PReg
  act : Env → Nat → KAct

/-- The kind of an atomic by its order (R218). -/
def atomicKind : Ord → OKind
  | .rlx => .at
  | .acq => .atAcq
  | .rel => .atRel
  | .ar => .atAr

/-- The memory space of an atomic's space code (R251). -/
def spaceOf : Space → MSpace
  | .glob => .g
  | .shared => .s
  | .scratch => .d
  | .peer => .x
  | .host => .h

/-- The operand of an atomic in a lane: FP32 for `.FADD`, else the number in the registers of its width (R251, R252). -/
def atomicArg (op : AtomOp) (w : Width) (b : Operand) (e : Env) (l : Nat) : Nat :=
  if op = .fadd then (e.rdF b .f32 l).toNat else e.num b w.regs l

/-- ATOM, RED, CAS and CAS2 (R251, R254). -/
def atomicForms (h : Head) (op : AtomOp) (o : OrdScope) (w : Width) (sp : Space) (d a b c : Operand) (px : PReg) : List AtomicForm :=
  [⟨.atom h op o w sp d a b, o, atomicKind o.ord, sp, op == .add || op == .exch, d.isS, w.bytes, a, some d, none,
     fun e l => .atom op w.bytes (atomicArg op w b e l)⟩,
   ⟨.red h op o w sp a b, o, if o.ord = .rel then .rl else .st, sp, op == .add, !a.isV && !b.isV, w.bytes, a, none, none,
     fun e l => .atom op w.bytes (atomicArg op w b e l)⟩,
   ⟨.cas h o w sp d a b c px, o, atomicKind o.ord, sp, true, d.isS, w.bytes, a, some d, some px,
     fun e l => .cas w.bytes (e.num b w.regs l) (e.num c w.regs l)⟩,
   ⟨.cas2 h o sp d a b c px, o, atomicKind o.ord, sp, true, d.isS, 16, a, some d, some px,
     fun e l => .cas 16 (e.num b 4 l) (e.num c 4 l)⟩]

/-- A lane's atomic passes its checks with this key: in range, aligned to its size, its page readable, writable and atomic (R253). -/
def AtomicOk (s : State) (g : Group) (sp : MSpace) (n l a key : Nat) : Prop :=
  (sp.wide = true → a < 2 ^ 56) ∧ a % n = 0 ∧ s.spaceKey g sp l a n true true true = .ok key

/-- A release waits for an earlier store, atomic or message of its path (R226). -/
def relWaits (e : Env) : Bool := e.g.ops.any fun o => e.g.before o e.p.id e.p.born && o.storeLike

end Sys2Proof.Claims

/-- R251, R253, R254, R226, R227: ATOM, RED, CAS and CAS2: an atomic whose lanes pass every check issues one step for each lane, in order, and is counted; its registers are
awaited. A release waits for the path's earlier stores. A host atomic other than those of R254 raises SPACE_MISMATCH. In D-mode it enters the commit buffer. -/
def Obligations.AtomicsIssue : Prop :=
  ∀ (s : State) (g : Group) (h : Head) (op : AtomOp) (o : OrdScope) (w : Width) (sp : Space) (d a b c : Operand) (px : PReg) (key : Nat → Nat),
    ∀ f ∈ atomicForms h op o w sp d a b c px,
    let e := envOf f.i s g
    let ls := accessLanes e f.uni
    let addr := fun l => accessAddr e (spaceOf sp) a 0 l
    Issues f.i s g →
    (ls ≠ [] → sp = .host → f.hostOk = false → Faults f.i s .spaceMismatch) ∧
    (ls = [] → Passes f.i s g) ∧
    ((sp = .host → f.hostOk = true) → (∀ l ∈ ls, AtomicOk s g (spaceOf sp) f.n l (addr l) (key l)) → ls ≠ [] →
      ((o.ord = .rel ∨ o.ord = .ar) → relWaits e = true → Stalls f.i s) ∧
      (((o.ord = .rel ∨ o.ord = .ar) → relWaits e = false) → g.cbuf.length < 512 → ∃ x : Op, OpOf f.i s e x ∧ x.ok = f.k ∧ x.scope = o.scope ∧
        x.dsts = f.i.dsts ∧ x.counted = true ∧
        x.kind = .kiln (ls.map fun l => ⟨l, addr l, key l, f.act e l⟩) [] f.d f.n f.px f.uni ∧
        Queues f.i s g fun k => if g.dmode then k.bufOp x else k.addOp x))

namespace Sys2Proof.Claims

/-- One step on an object or a barrier: its instruction, order, kind, scope, act, value destination and predicate; whether it is counted, buffered in
D-mode, and releases; the bytes and alignment of its address; the rest of its checks. -/
structure StepForm where
  i : Instr
  k : OKind
  sc : Scope
  act : KAct
  d : Option Operand
  px : Option PReg
  rel : Bool
  n : Nat
  al : Nat
  ok : Prop

/-- The object and barrier instructions that rewrite their object (R257, R260, R261, R268, R274). -/
def stepForms (s : State) (g : Group) (e : Env) (h : Head) (kind : ObjKind) (op : ObjOp) (so : SredOp) (nw : BitVec 4) (o : OrdScope) (kc : BitVec 2) (xp spn : Bool)
    (pm : BitVec 8) (dn : Operand) (a b c : Operand) (px : PReg) : List StepForm :=
  let rel := decide (o.ord = .rel ∨ o.ord = .ar)
  let ws := (List.range 4).map fun j => e.num b 8 e.ulane / 2 ^ (64 * j) % 2 ^ 64
  let args := e.num b 4 e.ulane
  [⟨.obinit h kind o kc xp pm a b, atomicKind o.ord, o.scope, .obinit kind o.scope kc.toNat xp pm.toNat ws, none, none, rel, 64 + 32 * (8 * 2 ^ kc.toNat), 64,
     objWordsOk kind ws = true ∧ (xp = true → (s.ctx g.slot).xp = true)⟩,
   ⟨.ann h op dn a b c, .ah, .dev, .ann op (args % 2 ^ 64) (args / 2 ^ 64) (e.u64 c), some dn, none, false, 64, 64,
     e.u64 c < 2 ^ 56 ∧ e.u64 c % 16 = 0 ∧ ∃ m, s.translate g.gid.cluster g.slot (e.u64 c) needW = .ok m⟩,
   ⟨.help h dn a px, .ah, .dev, .help, some dn, some px, false, 64, 64, True⟩,
   ⟨.barinit h spn o a b px, atomicKind o.ord, o.scope, .barinit spn o.scope (e.u32 b), none, some px, rel, 16, 16, True⟩,
   ⟨.barv h o dn a b, atomicKind o.ord, o.scope, .barv (e.u32 b), some dn, none, rel, 16, 16, True⟩,
   ⟨.bardrop h o dn a, atomicKind o.ord, o.scope, .bardrop, some dn, none, rel, 16, 16, True⟩,
   ⟨.btx h a b, .at, .grp, .btx (e.u32 b), none, none, false, 16, 16, True⟩,
   ⟨.sred h so nw o dn a b c, atomicKind o.ord, o.scope, .sred so ((List.range (nw.toNat + 1)).map fun j => (e.word b j e.ulane).toNat) (e.u32 c), some dn, none, rel, 16, 16,
     e.u32 c % 16 = 0 ∧ ∃ k, s.sharedKey g (e.u32 c) (4 * (nw.toNat + 1)) = .ok k⟩]

end Sys2Proof.Claims

/-- R257, R260, R261, R268, R272, R274, R245: OBINIT, ANN, HELP, BARINIT, BARV, BARDROP, BTX, SRED and BTEST: an instruction on a sync object issues one step at its address, which lies on a sync page with its
permissions; an address off its alignment, out of range or over the page's end raises OBJ_RANGE. BTEST only reads: it is neither counted nor buffered. A flag
that such an instruction names falls as it retires (R48), so the operation holds none. -/
def Obligations.ObjectStepsIssue : Prop :=
  ∀ (s : State) (g : Group) (h : Head) (kind : ObjKind) (op : ObjOp) (so : SredOp) (nw : BitVec 4) (o : OrdScope) (kc : BitVec 2) (xp spn : Bool) (pm : BitVec 8)
    (dn a b c : Operand) (px : PReg) (key : Nat) (i : Instr),
    let e := envOf i s g
    let va := e.u64 a
    Issues i s g → e.uguard = true →
    (∀ f ∈ stepForms s g e h kind op so nw o kc xp spn pm dn a b c px, f.i = i →
      ((2 ^ 56 ≤ va ∨ va % f.al ≠ 0 ∨ 2 ^ 16 < va % 2 ^ 16 + f.n) → (∀ q r, i ≠ .ann h q dn a b r) → Faults i s .objRange) ∧
      (va < 2 ^ 56 → va % f.al = 0 → va % 2 ^ 16 + f.n ≤ 2 ^ 16 → s.translate g.gid.cluster g.slot va { types := [4], r := true, w := true, at_ := true } = .ok key → f.ok →
        (f.rel = true → relWaits e = true → Stalls i s) ∧
        ((f.rel = true → relWaits e = false) → g.cbuf.length < 512 → ∃ x : Op, OpOf i s e { x with flag := flagOf i.setf s.cur } ∧ x.flag = none ∧ x.ok = f.k ∧ x.scope = f.sc ∧ x.dsts = i.dsts ∧
          x.counted = true ∧ x.kind = .kiln [⟨255, va, key, f.act⟩] [] f.d 4 f.px true ∧
          Queues i s g fun k => if g.dmode then k.bufOp x else k.addOp x))) ∧
    (i = .btest h o a b px → ((2 ^ 56 ≤ va ∨ va % 16 ≠ 0) → Faults i s .objRange) ∧
      (va < 2 ^ 56 → va % 16 = 0 → s.translate g.gid.cluster g.slot va { types := [4], r := true } = .ok key → ∃ x : Op, OpOf i s e { x with flag := flagOf i.setf s.cur } ∧ x.flag = none ∧
        x.ok = (if o.ord = .acq then .aq else .ld) ∧ x.scope = o.scope ∧ x.dsts = i.dsts ∧ x.counted = false ∧
        x.kind = .kiln [⟨255, va, key, .btest (e.u32 b)⟩] [] none 4 (some px) true ∧ Queues i s g fun k => k.addOp x))

namespace Sys2Proof.Claims

/-- The signed value of a number of `w` bits. -/
def signedNum (w x : Nat) : Int := if x < 2 ^ (w - 1) then x else (x : Int) - 2 ^ w

/-- The new value of an atomic of `w` bits (R252). -/
def atomicNew (op : AtomOp) (w old v new : Nat) : Prop :=
  match op with
  | .add => new = (old + v) % 2 ^ w
  | .and => ∀ i, new.testBit i = (old.testBit i && v.testBit i)
  | .or => ∀ i, new.testBit i = (old.testBit i || v.testBit i)
  | .xor => ∀ i, new.testBit i = (old.testBit i ^^ v.testBit i)
  | .min => (new = old ∨ new = v) ∧ signedNum w new ≤ signedNum w old ∧ signedNum w new ≤ signedNum w v
  | .max => (new = old ∨ new = v) ∧ signedNum w old ≤ signedNum w new ∧ signedNum w v ≤ signedNum w new
  | .minu => (new = old ∨ new = v) ∧ new ≤ old ∧ new ≤ v
  | .maxu => (new = old ∨ new = v) ∧ old ≤ new ∧ v ≤ new
  | .exch => new = v
  | .incw => new = if v ≤ old then 0 else old + 1
  | .decw => new = if old = 0 ∨ v < old then v else old - 1
  | .fadd => new = (fpAdd F32 .rne false old v).1

/-- Memory is as before but for `n` bytes from a key. -/
def keepsMem (s t : State) (key n : Nat) : Prop := ∀ x, (x < key ∨ key + n ≤ x) → t.mem.get x = s.mem.get x

/-- A step of a request that waits in a group: the request, and the step at its head. -/
structure StepWaits (s : State) (gi k : Nat) (g : Group) (o : Op) (st : KStep) (todo : List KStep) (res : List KRes) (d : Option Operand) (n : Nat)
    (px : Option PReg) (uni : Bool) : Prop where
  mem : Memory.wf s.mem = true
  found : s.findOp gi k = some (g, o)
  kind : o.kind = .kiln (st :: todo) res d n px uni
  turn : g.mayPerform o = true
  late : o.late = none

/-- The request goes on with this result: its step is gone; no register, queue, context or cluster has changed (R246). -/
def stepTaken (s t : State) (gi : Nat) (g : Group) (o : Op) (todo : List KStep) (res : List KRes) (d : Option Operand) (n : Nat) (px : Option PReg) (uni : Bool)
    (r : KRes) : Prop :=
  t.last = .event ∧ t.fe = s.fe ∧ t.clusters = s.clusters ∧ t.ctxs = s.ctxs ∧ t.teams = s.teams ∧ t.launches = s.launches ∧ t.tiles = s.tiles ∧
    t.groups.map (·.regs) = s.groups.map (·.regs) ∧ ∃ gt, t.groups[gi]? = some gt ∧
      gt.ops = g.ops.map fun p => if p.id = o.id then { o with kind := .kiln todo (res ++ [r]) d n px uni } else p

/-- The request is refused, and nothing else has changed (R250); a step of ANN or HELP shows the object's next number (log 108). -/
def stepRefused (s : State) (gi : Nat) (g : Group) (o : Op) (st : KStep) (c : FCode) (t : State) : Prop :=
  t = { s with
    last := .event
    groups := s.groups.set gi { g with
      ops := g.ops.map fun p => if p.id = o.id then { o with late := some { code := c, addr := st.va, lane := st.lane, info := s.objSeq st, late := true } } else p } }

/-- A barrier after an arrival, a drop or a credit, before the completion check, or none where the step is refused (R269). -/
def barrierRule (act : KAct) (b : Bar) : Option Bar :=
  match act with
  | .barv c => if b.expect = 0 ∨ b.expect < b.arrive + c ∨ c = 0 ∨ 0xFFFFF < c then none else some { b with arrive := b.arrive + c }
  | .bardrop => if b.expect = 0 ∨ b.expect < b.arrive + 1 ∨ b.expect < b.drops + 1 then none else some { b with arrive := b.arrive + 1, drops := b.drops + 1 }
  | .btx n => if b.spn then none else some { b with pend := (b.pend + n) % 2 ^ 40 }
  | _ => none

/-- A phase completes (R269). -/
def phaseDone (b : Bar) : Prop := b.expect ≠ 0 ∧ b.arrive = b.expect ∧ b.pend = 0

/-- A barrier whose phase has completed (R269). -/
def nextPhase (b : Bar) : Bar := { b with phase := (b.phase + 1) % 256, arrive := 0, expect := b.expect - b.drops, drops := 0 }

/-- Two ranges of bytes share none. -/
def apart (x m y n : Nat) : Prop := x + m ≤ y ∨ y + n ≤ x

/-- The group of one contribution comes before the other's (R237). -/
def earlier (a b : Contribution) : Prop := a.lage < b.lage ∨ a.lage = b.lage ∧ (a.tlin < b.tlin ∨ a.tlin = b.tlin ∧ a.tgidx < b.tgidx)

/-- Word `j` of the result of an SRED phase, of the contributions in increasing group identifier (R274). -/
def sredRule (op : SredOp) (ds : List Contribution) (j v : Nat) : Prop :=
  let xs := ds.map fun c => c.ws.getD j 0
  let pairs := ds.map fun c => c.ws.getD (j / 2 * 2) 0 + 2 ^ 32 * c.ws.getD (j / 2 * 2 + 1) 0
  let block (b : Nat) : Option Fx := (treeSum ((List.range 32).map fun l => (xs[32 * b + l]?.map F32.decode, 0))).1
  match op with
  | .addN32 => v = xs.sum % 2 ^ 32
  | .addN64 => v = pairs.sum / 2 ^ (32 * (j % 2)) % 2 ^ 32
  | .minI => v ∈ xs ∧ ∀ x ∈ xs, signedNum 32 v ≤ signedNum 32 x
  | .maxI => v ∈ xs ∧ ∀ x ∈ xs, signedNum 32 x ≤ signedNum 32 v
  | .minN => v ∈ xs ∧ ∀ x ∈ xs, v ≤ x
  | .maxN => v ∈ xs ∧ ∀ x ∈ xs, x ≤ v
  | .and => v < 2 ^ 32 ∧ ∀ i < 32, v.testBit i = xs.all (·.testBit i)
  | .or => v < 2 ^ 32 ∧ ∀ i < 32, v.testBit i = xs.any (·.testBit i)
  | .xor => v < 2 ^ 32 ∧ ∀ i < 32, v.testBit i = decide ((xs.filter (·.testBit i)).length % 2 = 1)
  | .fadd => v = ((List.range ((xs.length + 31) / 32)).map block).foldl accumulate 0

/-- Where a contribution's result goes: its offset in its team's shared memory (R274). -/
def homeIs (s : State) (c : Contribution) (k : Nat) : Prop := ∃ m, s.team c.tag = some m ∧ k = keyShared m.cluster (m.shBase + c.dst)

end Sys2Proof.Claims

/-- R252, R253, R246, R265: KILN_STEP of an atomic replaces the number at its location and keeps the old one; CAS replaces it only on equality. A poisoned
location refuses. -/
def Obligations.AtomicSteps : Prop :=
  ∀ (s : State) (gi k : Nat) (g : Group) (o : Op) (st : KStep) (todo : List KStep) (res : List KRes) (d : Option Operand) (n : Nat) (px : Option PReg) (uni : Bool),
    StepWaits s gi k g o st todo res d n px uni →
    (∀ op w v, st.act = .atom op w v → w ∈ [4, 8] → v < 2 ^ (8 * w) → s.poisoned st.key = false →
      ∃ t, exec (.kilnStep gi k []) s = .next t ∧ atomicNew op (8 * w) (s.mem.num st.key w) v (t.mem.num st.key w) ∧ keepsMem s t st.key w ∧
        stepTaken s t gi g o todo res d n px uni ⟨st.lane, s.mem.num st.key w, true⟩) ∧
    (∀ w x y, st.act = .cas w x y → w ∈ [4, 8, 16] → x < 2 ^ (8 * w) → y < 2 ^ (8 * w) → s.poisoned st.key = false →
      ∃ t, exec (.kilnStep gi k []) s = .next t ∧ t.mem.num st.key w = (if s.mem.num st.key w = x then y else s.mem.num st.key w) ∧ keepsMem s t st.key w ∧
        stepTaken s t gi g o todo res d n px uni ⟨st.lane, s.mem.num st.key w, decide (s.mem.num st.key w = x)⟩) ∧
    (s.poisoned st.key = true → ((∃ op w v, st.act = .atom op w v) ∨ ∃ w x y, st.act = .cas w x y) →
      ∃ t, exec (.kilnStep gi k []) s = .next t ∧ stepRefused s gi g o st .eccUncorrected t)

/-- R269, R272, R273: KILN_STEP and SPINDLE_ARRIVAL of the barrier instructions: an arrival, a drop and an expectation of bytes change the barrier as R269 says, or are
refused with BARRIER_RANGE; a phase that completes at the Kiln turns at once, and one of a Spindle-homed barrier turns at SPINDLE_PHASE_COMPLETION.
BTEST compares the phase. BARINIT resets the barrier, with SPN where a Spindle slot is granted.
R271: two arrivals of one cycle at one barrier are one step with one completion check; that the second of them, by cluster, has bit 8 is log 29.
R274: an SRED's words join the phase's contributions; at SPINDLE_PHASE_COMPLETION the reduction of each word, the contributions taken in increasing group
identifier, stands in every participant's team memory before the phase turns. Where they disagree in their op, or a BARV has come, the words are zero and
SRED_MISMATCH is posted. -/
def Obligations.BarrierSteps : Prop :=
  (∀ (s : State) (gi k : Nat) (g : Group) (o : Op) (st : KStep) (todo : List KStep) (res : List KRes) (d : Option Operand) (n : Nat) (px : Option PReg) (uni : Bool),
    let b := readBar s.mem st.key
    StepWaits s gi k g o st todo res d n px uni → s.poisoned st.key = false →
    (∀ b', ((∃ c, st.act = .barv c) ∨ st.act = .bardrop ∨ ∃ m, st.act = .btx m) → b.spn = false → barrierRule st.act b = some b' →
      ∃ t, exec (.kilnStep gi k []) s = .next t ∧ keepsMem s t st.key 16 ∧
        (phaseDone b' → readBar t.mem st.key = nextPhase b' ∧ stepTaken s t gi g o todo res d n px uni ⟨st.lane, b.phase + 256, true⟩) ∧
        (¬ phaseDone b' → readBar t.mem st.key = b' ∧ stepTaken s t gi g o todo res d n px uni ⟨st.lane, b.phase, true⟩)) ∧
    (((∃ c, st.act = .barv c) ∨ st.act = .bardrop) → b.spn = false → barrierRule st.act b = none →
      ∃ t, exec (.kilnStep gi k []) s = .next t ∧ stepRefused s gi g o st .barrierRange t) ∧
    (∀ m, st.act = .btx m → b.spn = true → (∀ i p, s.spnAt st.key = some i → s.spindle[i]? = some p → p.full = none) → ∃ t, exec (.kilnStep gi k []) s = .next t ∧ stepRefused s gi g o st .barrierRange t) ∧
    (∀ m, st.act = .btest m → ∃ t, exec (.kilnStep gi k []) s = .next t ∧ t.mem = s.mem ∧
      stepTaken s t gi g o todo res d n px uni ⟨st.lane, 0, decide (b.phase ≠ m % 256)⟩) ∧
    (∀ want sc c, st.act = .barinit want sc c → (c = 0 ∨ 0xFFFFF < c) → ∃ t, exec (.kilnStep gi k []) s = .next t ∧ stepRefused s gi g o st .barrierRange t) ∧
    (∀ want sc c, st.act = .barinit want sc c → 1 ≤ c → c ≤ 0xFFFFF → ∃ t, exec (.kilnStep gi k []) s = .next t ∧ keepsMem s t st.key 16 ∧
      let mine := (s.spindle.filter fun p => p.key != st.key && p.slot == g.slot).length
      let spn := want && decide (mine < ((s.ctx g.slot).spnslot.toNat / 2 ^ 8) % 2 ^ 9)
      readBar t.mem st.key = ⟨c, 0, 0, 0, 0, sc.code.toNat, spn⟩ ∧ stepTaken s t gi g o todo res d n px uni ⟨st.lane, 0, spn == want⟩) ∧
    (∀ b' i p, ((∃ c, st.act = .barv c) ∨ st.act = .bardrop) → b.spn = true → s.spnAt st.key = some i → s.spindle[i]? = some p → p.full = none →
      barrierRule st.act b = some b' → ∃ t, exec (.spindleArrival gi k []) s = .next t ∧ keepsMem s t st.key 16 ∧ readBar t.mem st.key = b' ∧
        (∃ p', t.spindle = s.spindle.set i p' ∧ (phaseDone b' → p'.full = some o.id) ∧ (¬ phaseDone b' → p'.full = none) ∧ p'.contribs = p.contribs ∧ p'.key = p.key ∧
          p'.mixed = match st.act with
            | .barv _ => true
            | _ => p.mixed) ∧
        ((phaseDone b' → stepTaken s t gi g o todo res d n px uni ⟨st.lane, b.phase + 256, true⟩) ∧
          (¬ phaseDone b' → stepTaken s t gi g o todo res d n px uni ⟨st.lane, b.phase, true⟩))) ∧
    (∀ op ws dst, st.act = .sred op ws dst →
      (b.spn = false → ∃ t, exec (.kilnStep gi k []) s = .next t ∧ stepRefused s gi g o st .barrierRange t) ∧
      (∀ i p, b.spn = true → s.spnAt st.key = some i → s.spindle[i]? = some p → p.full = none →
        (b.expect ≤ b.arrive → ∃ t, exec (.spindleArrival gi k []) s = .next t ∧ stepRefused s gi g o st .barrierRange t) ∧
        (b.arrive < b.expect → ∃ t, exec (.spindleArrival gi k []) s = .next t ∧ keepsMem s t st.key 16 ∧
          readBar t.mem st.key = { b with arrive := b.arrive + 1 } ∧
          t.spindle = s.spindle.set i { p with
            contribs := p.contribs ++ [⟨g.lage, g.tlin, g.tgidx, g.tag, dst, op, ws⟩]
            full := if b.arrive + 1 = b.expect ∧ b.pend = 0 then some o.id else none } ∧
          stepTaken s t gi g o todo res d n px uni ⟨st.lane, b.phase + (if b.arrive + 1 = b.expect ∧ b.pend = 0 then 256 else 0), true⟩)))) ∧
  (∀ (s : State) (gi k gj m : Nat) (g h : Group) (o q : Op) (st sw : KStep) (d e : Option Operand) (n w : Nat) (px qx : Option PReg) (uni uno : Bool) (c x : Nat),
    let b := readBar s.mem st.key
    let b' := { b with arrive := b.arrive + c + x }
    StepWaits s gi k g o st [] [] d n px uni → StepWaits s gj m h q sw [] [] e w qx uno → gi ≠ gj → o.id ≠ q.id → st.act = .barv c → sw.act = .barv x →
    sw.key = st.key → g.gid.cluster ≤ h.gid.cluster → s.poisoned st.key = false → b.spn = false → b.expect ≠ 0 → 1 ≤ c → c ≤ 0xFFFFF → 1 ≤ x → x ≤ 0xFFFFF →
    b.arrive + c + x ≤ b.expect → ∃ t gt ht, exec (.kilnStep gi k [(gj, m)]) s = .next t ∧ t.last = .event ∧ keepsMem s t st.key 16 ∧
      t.groups.map (·.regs) = s.groups.map (·.regs) ∧ t.groups[gi]? = some gt ∧ t.groups[gj]? = some ht ∧
      (gt.ops = g.ops.map fun p => if p.id = o.id then { o with kind := .kiln [] [⟨st.lane, b.phase, true⟩] d n px uni } else p) ∧
      (phaseDone b' → readBar t.mem st.key = nextPhase b' ∧
        ht.ops = h.ops.map fun p => if p.id = q.id then { q with kind := .kiln [] [⟨sw.lane, b.phase + 256, true⟩] e w qx uno } else p) ∧
      (¬ phaseDone b' → readBar t.mem st.key = b' ∧
        ht.ops = h.ops.map fun p => if p.id = q.id then { q with kind := .kiln [] [⟨sw.lane, b.phase, true⟩] e w qx uno } else p)) ∧
  (∀ (s : State) (i : Nat) (p : SpnSlot) (ds : List Contribution) (home : Contribution → Nat), Memory.wf s.mem = true → s.spindle[i]? = some p →
    p.full.isSome = true → p.contribs.Perm ds → ds.Pairwise earlier → (∀ c ∈ ds, homeIs s c (home c)) → (∀ c ∈ ds, apart (home c) (4 * c.ws.length) p.key 16) →
    ds.Pairwise (fun c x => apart (home c) (4 * c.ws.length) (home x) (4 * x.ws.length)) →
    let words (t : State) (r : Contribution → Nat → Nat → Prop) : Prop := t.last = .event ∧ readBar t.mem p.key = nextPhase (readBar s.mem p.key) ∧
      t.spindle = s.spindle.set i { p with mixed := false, contribs := [], full := none } ∧ t.groups.map (·.regs) = s.groups.map (·.regs) ∧
      ∀ c ∈ ds, ∀ j < c.ws.length, r c j (t.mem.num (home c + 4 * j) 4)
    (∀ op n, (p.mixed = false ∨ ds = []) → (∀ c ∈ ds, c.op = op ∧ c.ws.length = n ∧ ∀ w ∈ c.ws, w < 2 ^ 32) → (op = .addN64 → n % 2 = 0) →
      ∃ t, exec (.spindlePhaseCompletion i) s = .next t ∧ words t (fun _ j v => sredRule op ds j v) ∧
        ∀ x, (x < p.key ∨ p.key + 16 ≤ x) → (∀ c ∈ ds, x < home c ∨ home c + 4 * n ≤ x) → t.mem.get x = s.mem.get x) ∧
    (let q := s.ctx p.slot
     let r := q.tqHeader + 64 + 64 * (s.mem.num q.tqHeader 4 % q.tqN)
     ds ≠ [] → (p.mixed = true ∨ ∃ c ∈ ds, ∃ x ∈ ds, c.op ≠ x.op ∨ c.ws.length ≠ x.ws.length) →
      (∀ c ∈ ds, apart (home c) (4 * c.ws.length) q.tqHeader 64 ∧ apart (home c) (4 * c.ws.length) r 64) → apart p.key 16 r 64 → apart p.key 16 q.tqHeader 64 →
      ∃ t, exec (.spindlePhaseCompletion i) s = .next t ∧ words t (fun _ _ v => v = 0) ∧
        (0 < s.tqFree p.slot → t.mem.num (r + 4) 4 = FCode.num .sredMismatch + 2 * 2 ^ 16 ∧ t.mem.num (r + 8) 8 = p.va % 2 ^ 64)))

namespace Sys2Proof.Claims

/-- What a record's operation does to its object (R258). -/
structure Effect where
  ws : List Nat
  res : Nat
  stat : Nat
  loads : List (Nat × Nat) := []
  stores : List (Nat × Nat × Nat) := []

/-- The effect of a record (R258): the state words, RESULT and STATUS, the ranges read and the numbers stored, each with its address and length; `rd` gives the number
that stands in a range of the creator's memory. -/
def effectOf (op : ObjOp) (x y : Nat) (a b c d : Nat) (rd : Nat → Nat → Nat) : Effect :=
  let up (n : Nat) : Nat := (n + 1) % 2 ^ 64
  let ws : List Nat := [a, b, c, d]
  match op with
  | .push => { ws := [x, up b, c, d], res := up b, stat := 1, stores := [(x, 8, a)] }
  | .pop => if a = 0 then { ws, res := 0, stat := 2 } else { ws := [rd a 8, (b + (2 ^ 64 - 1)) % 2 ^ 64, c, d], res := a, stat := 1, loads := [(a, 8)] }
  | .enq => if (d + 2 ^ 64 - c) % 2 ^ 64 < b then { ws := [a, b, c, up d], res := d, stat := 1, stores := [((a + 8 * (d % b)) % 2 ^ 64, 8, x)] }
    else { ws, res := 0, stat := 3 }
  | .deq => if d = c then { ws, res := 0, stat := 2 }
    else let m := (a + 8 * (c % b)) % 2 ^ 64
         { ws := [a, b, up c, d], res := rd m 8, stat := 1, loads := [(m, 8)] }
  | .take => if c < x then { ws, res := 0, stat := 2 }
    else let m (i : Nat) : Nat := (a + 4 * (c - 1 - i)) % 2 ^ 64
         { ws := [a, b, c - x, d], res := x, stat := 1, loads := (List.range x).map fun i => (m i, 4),
           stores := (List.range x).map fun i => (y + 4 * i, 4, rd (m i) 4) }
  | .give => if c < b then { ws := [a, b, up c, d], res := up c, stat := 1, stores := [((a + 4 * c) % 2 ^ 64, 4, x)] } else { ws, res := 0, stat := 3 }
  | .fop =>
    let new (o i w : Nat) : Nat := if y % 4 = i then (match o with
      | 0 => (w + x) % 2 ^ 64
      | 1 => w &&& x
      | 2 => w ||| x
      | 3 => w ^^^ x
      | 4 => if signedNum 64 x < signedNum 64 w then x else w
      | 5 => if signedNum 64 w < signedNum 64 x then x else w
      | 6 => min w x
      | 7 => max w x
      | _ => x) else w
    let o := y / 16 % 16
    { ws := [new o 0 a, new o 1 b, new o 2 c, new o 3 d], res := ws.getD (y % 4) 0, stat := 1 }
  | .mcas =>
    let differs (i : Nat) : Bool := y.testBit i && ws.getD i 0 != rd (x + 8 * i) 8
    let mask := ((List.range 4).map fun i => if differs i then 2 ^ i else 0).sum
    if mask = 0 then { ws := (List.range 4).map fun i => if y.testBit i then rd (x + 32 + 8 * i) 8 else ws.getD i 0, res := 0, stat := 1, loads := [(x, 64)] }
    else { ws, res := mask, stat := 5, loads := [(x, 64)] }

/-- The bytes of a range of virtual addresses lie at these keys (R258: normal pages of the creator's context). -/
def sideAt (s : State) (slot : Nat) (at_ : Nat → Nat) (a n : Nat) (nd : Need) : Prop := s.sideKeys slot a n nd = .ok ((List.range n).map fun i => at_ (a + i))

/-- The number that stands at these keys from an address on. -/
def numAt (m : Mem) (at_ : Nat → Nat) (a n : Nat) : Nat := wordOfBytes (m.getAll ((List.range n).map fun i => at_ (a + i)))

end Sys2Proof.Claims

/-- R257, R260, R261, R255: OBINIT writes an object's header with every count at its start; ANN of a ring with room appends its record and gives its sequence number;
HELP of an object with no posted record changes nothing and gives the next number with a false predicate.
R258, R259: HELP of an object with a posted record applies the oldest: its side access, the state words, HEAD and COUNT, the record's STATE as EMPTY, and the
mailbox of the context that posted it. A side access that faults leaves the state words and answers FAILED with the fault's code; a mailbox that cannot be
written is MAILBOX_FAULT in its owner's trap queue, the operation applied. -/
def Obligations.ObjectSteps : Prop :=
  ∀ (s : State) (gi k : Nat) (g : Group) (o : Op) (st : KStep) (todo : List KStep) (res : List KRes) (d : Option Operand) (n : Nat) (px : Option PReg) (uni : Bool),
    let key := st.key
    let at_ (m : Mem) (off w : Nat) : Nat := m.num (key + off) w
    let K := 8 * 2 ^ ebits (at_ s.mem 0 4) 9 8
    let head := at_ s.mem 4 4
    let count := at_ s.mem 8 4
    let seq := at_ s.mem 12 4
    StepWaits s gi k g o st todo res d n px uni →
    (∀ kind sc kc xp pm ws, st.act = .obinit kind sc kc xp pm ws → ws.length = 4 → (∀ w ∈ ws, w < 2 ^ 64) → kc < 4 → pm < 2 ^ 8 → g.slot < 64 →
      g.gid.cluster < 128 → g.gid.part < 4 → g.gid.slot < 16 → g.tag < 2 ^ 32 →
      ∃ t, exec (.kilnStep gi k []) s = .next t ∧ stepTaken s t gi g o todo res d n px uni ⟨st.lane, 0, true⟩ ∧
        at_ t.mem 0 4 = kind.code.toNat + sc.code.toNat * 2 ^ 4 + kc * 2 ^ 8 + xp.toNat * 2 ^ 10 ∧ at_ t.mem 4 4 = 0 ∧ at_ t.mem 8 4 = 0 ∧ at_ t.mem 12 4 = 1 ∧
        (∀ j < 4, at_ t.mem (16 + 8 * j) 8 = ws.getD j 0) ∧
        at_ t.mem 48 4 = g.gid.cluster + g.slot * 2 ^ 7 + g.gid.part * 2 ^ 13 + g.gid.slot * 2 ^ 15 ∧ at_ t.mem 52 4 = g.tag ∧ at_ t.mem 56 4 = pm ∧ at_ t.mem 60 4 = 0 ∧
        (∀ j < 8 * 2 ^ kc, at_ t.mem (64 + 32 * j) 1 % 4 = 0) ∧ keepsMem s t key (64 + 32 * (8 * 2 ^ kc))) ∧
    (∀ op a0 a1 mb, st.act = .ann op a0 a1 mb → s.poisoned key = false → s.objCheck g.asker key st.va = .ok () → at_ s.mem 0 4 % 16 = op.code.toNat / 2 →
      objArgsOk op a0 a1 = true → count < K → a0 < 2 ^ 64 → a1 < 2 ^ 64 → mb < 2 ^ 64 → g.slot < 64 → g.gid.cluster < 128 → g.gid.part < 4 → g.gid.slot < 16 →
      ∃ t, exec (.kilnStep gi k []) s = .next t ∧ stepTaken s t gi g o todo res d n px uni ⟨st.lane, seq, true⟩ ∧
        at_ t.mem 8 4 = count + 1 ∧ at_ t.mem 12 4 = (if seq = 2 ^ 32 - 1 then 1 else seq + 1) ∧
        let r := 64 + 32 * ((head + count) % K)
        at_ t.mem r 4 = 1 + op.code.toNat * 4 + (g.gid.cluster + g.gid.part * 2 ^ 7 + g.gid.slot * 2 ^ 9 + g.slot * 2 ^ 13) * 2 ^ 6 ∧ at_ t.mem (r + 4) 4 = seq ∧
        at_ t.mem (r + 8) 8 = a0 ∧ at_ t.mem (r + 16) 8 = a1 ∧ at_ t.mem (r + 24) 8 = mb ∧
        ∀ x, ¬ (key + 8 ≤ x ∧ x < key + 16) → ¬ (key + r ≤ x ∧ x < key + r + 32) → t.mem.get x = s.mem.get x) ∧
    (∀ op a0 a1 mb, st.act = .ann op a0 a1 mb → s.poisoned key = false → s.objCheck g.asker key st.va = .ok () → at_ s.mem 0 4 % 16 ≠ op.code.toNat / 2 →
      ∃ t, exec (.kilnStep gi k []) s = .next t ∧ stepRefused s gi g o st .objKind t) ∧
    (st.act = .help → s.poisoned key = false → s.objCheck g.asker key st.va = .ok () → count = 0 →
      ∃ t, exec (.kilnStep gi k []) s = .next t ∧ t.mem = s.mem ∧ stepTaken s t gi g o todo res d n px uni ⟨st.lane, seq, false⟩) ∧
    (let r := 64 + 32 * head
     let stat := at_ s.mem r 4
     let rseq := at_ s.mem (r + 4) 4
     let mb := at_ s.mem (r + 24) 8
     let op := objOpOf (stat / 4 % 16)
     let slot := at_ s.mem 48 4 / 2 ^ 7 % 2 ^ 6
     let owner := stat / 2 ^ 19 % 2 ^ 6
     let w (j : Nat) : Nat := at_ s.mem (16 + 8 * j) 8
     let x := at_ s.mem (r + 8) 8
     let y := at_ s.mem (r + 16) 8
     let popped (t : State) : Prop := at_ t.mem 4 4 = (head + 1) % K ∧ at_ t.mem 8 4 = count - 1 ∧ at_ t.mem r 4 = stat / 4 * 4
     let outside (z : Nat) : Prop := z < key ∨ key + (64 + 32 * K) ≤ z
     st.act = .help → s.poisoned key = false → s.objCheck g.asker key st.va = .ok () → 0 < count → head < K → (key + r, owner) ∈ s.mailers →
     (op = .fop → y / 16 % 16 < 9) →
     (∀ (f : Nat → Nat) (mk : List Nat), s.sideKeys owner mb 16 needW = .ok mk → mk.Nodup → (∀ z ∈ mk, outside z) →
       let e := effectOf op x y (w 0) (w 1) (w 2) (w 3) (numAt s.mem f)
       let touched := e.stores.flatMap fun p => (List.range p.2.1).map fun i => f (p.1 + i)
       ((∀ p ∈ e.loads, sideAt s slot f p.1 p.2 needR) → (∀ p ∈ e.stores, op ≠ .take → sideAt s slot f p.1 p.2.1 needW) →
         (op = .take → x ≤ w 2 → sideAt s slot f y (4 * x) needW) → touched.Nodup → (∀ z ∈ touched, outside z ∧ z ∉ mk) →
         ∃ t, exec (.kilnStep gi k []) s = .next t ∧ stepTaken s t gi g o todo res d n px uni ⟨st.lane, rseq, true⟩ ∧ popped t ∧
           (∀ j < 4, at_ t.mem (16 + 8 * j) 8 = e.ws.getD j 0) ∧ (∀ p ∈ e.stores, numAt t.mem f p.1 p.2.1 = p.2.2 % 2 ^ (8 * p.2.1)) ∧
           t.mem.getAll mk = bytesOfWord 8 e.res ++ bytesOfWord 4 rseq ++ bytesOfWord 4 e.stat ∧
           ∀ z, outside z → z ∉ mk → z ∉ touched → t.mem.get z = s.mem.get z) ∧
       (∀ c, s.objEffect slot op x y [w 0, w 1, w 2, w 3] = .error c → c.1 ≠ .permission → c.1 ≠ .ptMalformed →
         ∃ t, exec (.kilnStep gi k []) s = .next t ∧ stepTaken s t gi g o todo res d n px uni ⟨st.lane, rseq, true⟩ ∧ popped t ∧
           (∀ j < 4, at_ t.mem (16 + 8 * j) 8 = w j) ∧ t.mem.getAll mk = bytesOfWord 8 c.1.num ++ bytesOfWord 4 rseq ++ bytesOfWord 4 4 ∧
           ∀ z, outside z → z ∉ mk → t.mem.get z = s.mem.get z)) ∧
     (∀ c, s.sideKeys owner mb 16 needW = .error c → op = .fop → 0 < s.tqFree owner →
       let q := (s.ctx owner).tqHeader
       let p := q + 64 + 64 * (s.mem.num q 4 % (s.ctx owner).tqN)
       apart key (64 + 32 * K) q 64 → apart key (64 + 32 * K) p 64 →
       ∃ t, exec (.kilnStep gi k []) s = .next t ∧ t.last = .event ∧ popped t ∧
         (∀ j < 4, at_ t.mem (16 + 8 * j) 8 = (effectOf .fop x y (w 0) (w 1) (w 2) (w 3) fun _ _ => 0).ws.getD j 0) ∧
         t.mem.num (p + 4) 4 = FCode.num .mailboxFault + 2 * 2 ^ 16 + 7 * 2 ^ 20 ∧ t.mem.num (p + 8) 8 = st.va % 2 ^ 64 ∧ t.mem.num (p + 36) 4 = rseq))

namespace Sys2Proof.Claims

/-- A destination of `n` bytes lies in the group's registers. -/
def destFits (g : Group) (lanes : List Nat) (d : Option Operand) (n : Nat) : Prop :=
  (∀ r, d = some (.v r) → r.toNat + wordsOf n ≤ g.vbud ∧ ∀ l ∈ lanes, l < 32) ∧ ∀ r, d = some (.s r) → r.toNat + wordsOf n ≤ 64

/-- The results of a request stand in its registers, the low word first, and its successes in its predicate, in each lane or, for a uniform request, once; every other
V and S register and predicate is as before (R253, R39). -/
def Replied (g gt : Group) (held : Mask) (res : List KRes) (d : Option Operand) (n : Nat) (px : Option PReg) (uni : Bool) : Prop :=
  (∀ m l, l < 32 → (∀ r, d = some (.v r) → ¬ (r.toNat ≤ m ∧ m < r.toNat + wordsOf n) ∨ l ∉ res.map (·.lane)) → gt.vlane m l = g.vlane m l) ∧
  (∀ m, (∀ r, d = some (.s r) → ¬ (r.toNat ≤ m ∧ m < r.toNat + wordsOf n)) → gt.sreg m = g.sreg m) ∧
  (∀ r, d = some (.v r) → ∀ x ∈ res, ∀ j < wordsOf n, gt.vlane (r.toNat + j) x.lane = BitVec.ofNat 32 (x.val / 2 ^ (32 * j))) ∧
  (∀ r x, d = some (.s r) → res.head? = some x → ∀ j < wordsOf n, gt.sreg (r.toNat + j) = BitVec.ofNat 32 (x.val / 2 ^ (32 * j))) ∧
  (∀ q l, q < 64 → l < 32 → (∀ p, px = some p → q = 0 ∨ q ≠ p.toNat ∨ (uni = true ∧ held.getLsbD l = false) ∨ (uni = false ∧ l ∉ res.map (·.lane))) →
    gt.pred q l = g.pred q l) ∧
  (∀ p l x, px = some p → p ≠ 0 → uni = true → l < 32 → held.getLsbD l = true → res.head? = some x → gt.pred p.toNat l = x.ok) ∧
  (∀ p, px = some p → p ≠ 0 → uni = false → ∀ x ∈ res, x.lane < 32 → gt.pred p.toNat x.lane = x.ok)

end Sys2Proof.Claims

/-- R253, R49, R39: KILN_REPLY of a request with no step left writes each lane's result, the low word first, and its success predicate, in each lane or, for a
uniform request, once; a predicate of a uniform request goes to every lane that the issuing path held. All else, and all memory, is as before. The destination's
lines are resident (R31); the ticket of the arrival that completed a Spindle's phase waits until the results are written (R274). -/
def Obligations.RepliesWriteResults : Prop :=
  ∀ (s : State) (gi k : Nat) (g : Group) (o : Op) (res : List KRes) (d : Option Operand) (n : Nat) (px : Option PReg) (uni : Bool), Shaped g →
    s.findOp gi k = some (g, o) → o.kind = .kiln [] res d n px uni → o.late = none → n ∈ [4, 8, 16] → res ≠ [] → (res.map (·.lane)).Nodup →
    (∀ r ∈ vRefs o.dsts, r ∈ g.vres) → (∀ p ∈ s.spindle, p.full ≠ some k) → destFits g (res.map (·.lane)) d n →
    ∃ gt, exec (.kilnReply gi k) s = .next { s with groups := s.groups.set gi gt, last := .event } ∧ Left g gt o ∧
      gt = { g with
        regs := { g.regs with v := gt.regs.v, s := gt.regs.s, p := gt.regs.p }, ops := gt.ops, flags := gt.flags, acks := gt.acks,
        vwr := gt.vwr, vdirty := gt.vdirty } ∧
      Replied g gt o.held res d n px uni

namespace Sys2Proof.Claims

/-- The clusters with one message port replaced. -/
def withPort (s : State) (cl p : Nat) (x : Port) : List Cluster := s.clusters.set cl { s.cl cl with ports := (s.cl cl).ports.set p x }

end Sys2Proof.Claims

/-- R276, R277, R329, R226: MSEND sends sixteen words; FLIT_DELIVERY puts them behind a port that admits the sender and has room, else refuses them, and a full port
counts that; MSEND_ANSWER makes PX tell which. MRECV takes the oldest flit of a port that the context owns, MSTAT reads its count. -/
def Obligations.Messages : Prop :=
  (∀ (s : State) (g : Group) (h : Head) (o : OrdScope) (a b : Operand) (px : PReg),
    let i := Instr.msend h o a b px
    let e := envOf i s g
    Issues i s g → e.uguard = true →
    ((o.ord = .rel ∨ o.ord = .ar) → relWaits e = true → Stalls i s) ∧
    (((o.ord = .rel ∨ o.ord = .ar) → relWaits e = false) → g.cbuf.length < 512 → ∃ (x : Op) (ws : List Word), OpOf i s e x ∧ x.dsts = i.dsts ∧ x.counted = true ∧
      x.kind = .msend (e.u32 a) ws none px ∧ ws.length = 16 ∧
      (∀ n, b = .v n → ∀ j < 16, ws.getD j 0 = g.vlane n.toNat j) ∧ (∀ n, b = .s n → ∀ j < 16, ws.getD j 0 = g.sreg (n.toNat + j)) ∧
      Queues i s g fun k => if g.dmode then k.bufOp x else k.addOp x)) ∧
  (∀ (s : State) (gi k : Nat) (g : Group) (o : Op) (dst : Nat) (ws : List Word) (px : PReg), s.findOp gi k = some (g, o) → o.kind = .msend dst ws none px →
    g.mayPerform o = true → g.flitWaits o dst = false → dst < 2 ^ 32 → s.clusters.length = 128 → (s.cl (dst % 2 ^ 7)).ports.length = 8 →
    let cl := dst % 2 ^ 7
    let p := dst / 2 ^ 7 % 2 ^ 3
    let x := s.port cl p
    let admits := dst / 2 ^ 10 % 2 ^ 6 = 0 ∧ ∃ w, x.owner = some w ∧ (w = g.slot ∨ (s.ctx w).xp = true ∧ (s.ctx g.slot).xp = true)
    ∃ t ok, exec (.flitDelivery gi k) s = .next t ∧ t.last = .event ∧ t.mem = s.mem ∧ t.groups.map (·.regs) = s.groups.map (·.regs) ∧
      (∃ gt, t.groups[gi]? = some gt ∧ gt.ops = g.ops.map fun y => if y.id = o.id then { o with kind := .msend dst ws (some ok) px } else y) ∧
      (¬ admits → ok = false ∧ t.clusters = s.clusters) ∧
      (admits → 16 ≤ x.fifo.length → ok = false ∧ t.port cl p = { x with refused := min (x.refused + 1) 255 }) ∧
      (admits → x.fifo.length < 16 → ok = true ∧ t.port cl p = { x with fifo := x.fifo ++
        [⟨BitVec.ofNat 32 (g.gid.cluster + g.gid.part * 2 ^ 7 + g.gid.slot * 2 ^ 9 + dst / 2 ^ 16 * 2 ^ 16), ws⟩] }) ∧
      ∀ c q, (c, q) ≠ (cl, p) → t.port c q = s.port c q) ∧
  (∀ (s : State) (gi k : Nat) (g : Group) (o : Op) (dst : Nat) (ws : List Word) (ok : Bool) (px : PReg), Shaped g → s.findOp gi k = some (g, o) →
    o.kind = .msend dst ws (some ok) px → ∃ gt, exec (.msendAnswer gi k) s = .next { s with groups := s.groups.set gi gt, last := .event } ∧ Left g gt o ∧
      gt = { g with regs := { g.regs with p := gt.regs.p }, ops := gt.ops, flags := gt.flags, acks := gt.acks } ∧
      ∀ q l, q < 64 → l < 32 → gt.pred q l = if q ≠ 0 ∧ q = px.toNat ∧ o.held.getLsbD l = true then ok else g.pred q l) ∧
  (∀ (s : State) (g : Group) (h : Head) (o : OrdScope) (port : BitVec 3) (n : BitVec 8) (px : PReg), Shaped g →
    let i := Instr.mrecv h o port (.v n) px
    let x := s.port g.gid.cluster port.toNat
    Issues i s g → (envOf i s g).uguard = true → g.ops = [] →
    ((x.fifo = [] ∨ x.owner ≠ some g.slot) → CompletesIn i s g fun e g gt => KeepsRegs e g gt [] .qb ∧ setsPred e g gt px false) ∧
    (∀ f r, x.fifo = f :: r → x.owner = some g.slot → ∃ k gt, Passed i s g k ∧ gt = { k with regs := gt.regs } ∧
      exec i s = .next { Becomes s gt with clusters := withPort s g.gid.cluster port.toNat { x with fifo := r } } ∧
      KeepsRegs (envOf i s g) g gt [.v n.toNat] (.v n) ∧ setsPred (envOf i s g) g gt px true ∧
      ∀ l < 32, gt.vlane n.toNat l = if l < 16 then f.payload.getD l 0 else if l = 16 then f.header else 0)) ∧
  (∀ (s : State) (g : Group) (h : Head) (clr : Bool) (port : BitVec 3) (n : BitVec 6), Shaped g →
    let i := Instr.mstat h clr port (.s n)
    let x := s.port g.gid.cluster port.toNat
    let own := x.owner = some g.slot
    Issues i s g → (envOf i s g).uguard = true → ∃ k gt, Passed i s g k ∧ gt = { k with regs := gt.regs } ∧ KeepsPreds g gt ∧
      KeepsRegs (envOf i s g) g gt [.s n.toNat] (.s n) ∧
      (own → gt.sreg n.toNat = BitVec.ofNat 32 (x.fifo.length + x.refused * 2 ^ 8 + 2 ^ 16)) ∧ (¬ own → gt.sreg n.toNat = 0) ∧
      (own → clr = true → exec i s = .next { Becomes s gt with clusters := withPort s g.gid.cluster port.toNat { x with refused := 0 } }) ∧
      ((¬ own ∨ clr = false) → exec i s = .next (Becomes s gt)))

/-- R278, R239: PARK makes its path wait on the line of its address, and on the masked ports, for at most 64 cycles for each count of TCMP's bound, of which it takes
3,600 at most; a bound of zero is a NOP but in D-mode, where it ends the quantum. A write of the line, once the path's earlier accesses to the line are performed, the bound, or a spurious wake ends the wait. -/
def Obligations.Parking : Prop :=
  (∀ (s : State) (g : Group) (h : Head) (msg : Bool) (sp : Space) (mask : BitVec 8) (a : Operand) (key : Nat),
    let i := Instr.park h msg sp mask a
    let e := envOf i s g
    let x := if sp = .glob then e.u64 a else e.u32 a
    let pb := min (g.regs.tcmp.toNat / 2 ^ 48) 3600
    let ports := if msg then mask.toNat else 0
    Issues i s g → e.uguard = true → s.cur.sl = .c →
    (∀ c, s.parkKey g sp x = .error c → Faults i s c) ∧
    (s.parkKey g sp x = .ok key → ∃ (k : Group) (tl : Tlbs) (w : Bool), Passed i s g k ∧
      (w = true ↔ ∃ p < 8, ports.testBit p = true ∧ (s.port g.gid.cluster p).fifo ≠ []) ∧
      (pb = 0 → g.dmode = false → exec i s = .next { Becomes s k with tlbs := tl }) ∧
      (pb ≠ 0 ∨ g.dmode = true → exec i s = .next { Becomes s { Group.withPath k s.cur.p fun p => { p with st := .parked (key / 64) ports (s.clock.toNat + 64 * pb) w } with
        qend := g.qend || g.dmode } with tlbs := tl }))) ∧
  (∀ (s : State) (gi pid : Nat) (g : Group) (p : Path) (line ports bound : Nat) (w : Bool), s.groups[gi]? = some g → g.path pid = some p →
    p.st = .parked line ports bound w → g.dmode = false →
    let t := { s with groups := s.groups.set gi (Group.withPath g pid Path.wake), last := .event }
    (w = true → exec (.parkWakeByWrite gi pid) s = .next t) ∧ (bound ≤ s.clock.toNat → exec (.parkBoundExpiry gi pid) s = .next t) ∧
    exec (.spuriousWakeUp gi pid) s = .next t ∧ (Path.wake p).st = .run ∧ (Path.wake p).pc = p.pc ∧ (Path.wake p).exec = p.exec ∧ (Path.wake p).stack = p.stack) ∧
  ∀ (s : State) (kvs : List (Nat × Byte)) (gi : Nat) (g : Group) (pid : Nat) (p : Path) (line ports bound : Nat) (w : Bool), s.groups[gi]? = some g →
    g.path pid = some p → p.st = .parked line ports bound w → ∃ gt q, (s.write kvs).groups[gi]? = some gt ∧ gt.path pid = some q ∧
      q.st = .parked line ports bound (w || (g.watches p line && kvs.any fun b => b.1 / 64 == line))

/-- R225, R226, R228: a FENCE that releases stalls while a store, atomic or message of its path is unfinished, one that acquires while a value is awaited; DRAIN and
DRAIN.NB stall while the acknowledgement counter is not zero. Then FENCE.ACQ and FENCE.SC pass (SC ends a D-mode quantum), DRAIN issues its arrival. -/
def Obligations.FencesAndDrains : Prop :=
  ∀ (s : State) (g : Group) (h : Head) (fo : FenceOrd) (sc : Scope) (d a : Operand) (key : Nat),
    (let i := Instr.fence h fo sc
     let e := envOf i s g
     Issues i s g → e.uguard = true →
     (fo ≠ .acq → relWaits e = true → Stalls i s) ∧
     (fo ≠ .rel → (∃ o ∈ g.ops, g.before o e.p.id e.p.born = true ∧ o.valued = true) → Stalls i s) ∧
     ((fo ≠ .acq → relWaits e = false) → (fo ≠ .rel → ∀ o ∈ g.ops, g.before o e.p.id e.p.born = true → o.valued = false) →
       (fo ≠ .rel ∨ g.ops.any Op.valued = false → Leaves i s g fun k => { k with qend := k.qend || (g.dmode && fo == .sc) }) ∧
       (fo = .rel → g.ops.any Op.valued = true → ∃ x : Op, x.kind = .marker ∧ x.ok = .fr ∧ x.id = s.nextId ∧ x.dsts = [] ∧ x.flag = none ∧ x.counted = false ∧
         Queues i s g fun k => k.addOp x))) ∧
    (let i := Instr.drainNb h
     Issues i s g → (envOf i s g).uguard = true →
     (g.acks ≠ 0 → g.cbuf = [] → Stalls i s) ∧
     (g.acks = 0 → (g.ops.any Op.valued = false → Passes i s g) ∧ (g.ops.any Op.valued = true → ∃ x : Op, x.kind = .marker ∧ x.ok = .fr ∧ x.id = s.nextId ∧ x.dsts = [] ∧
       x.flag = none ∧ x.counted = false ∧ Queues i s g fun k => k.addOp x))) ∧
    (let i := Instr.drain h sc d a
     let e := envOf i s g
     let va := e.u64 a
     Issues i s g → e.uguard = true →
     (g.acks ≠ 0 → g.cbuf = [] → Stalls i s) ∧
     (g.acks = 0 → (2 ^ 56 ≤ va ∨ va % 16 ≠ 0) → Faults i s .objRange) ∧
     (g.acks = 0 → va < 2 ^ 56 → va % 16 = 0 → s.translate g.gid.cluster g.slot va { types := [4], r := true, w := true, at_ := true } = .ok key → g.cbuf.length < 512 →
       ∃ (x : Op) (k : Group) (tl : Tlbs) (m : List Op) (n : Nat), Passed i s g k ∧
         x.kind = .kiln [⟨255, va, key, .barv 1⟩] [] (some d) 4 none true ∧ x.ok = .atRel ∧ x.scope = sc ∧ x.dsts = i.dsts ∧ x.counted = true ∧ x.flag = none ∧
         x.flag2 = none ∧ x.pc = s.cur.addr ∧ (∀ y ∈ m, y.kind = .marker) ∧ (m = [] ↔ g.ops.any Op.valued = false) ∧
         exec i s = .next { Becomes s (if g.dmode then Group.bufOp { k with ops := k.ops ++ m } x else Group.addOp { k with ops := k.ops ++ m } x) with
           nextId := n, tlbs := tl }))

namespace Sys2Proof.Claims

/-- Bit `p` of consecutive V registers read as bytes: lane 0 of the first register comes first (R109, R171). -/
def laneBit (g : Group) (n p : Nat) : Bool := (g.vlane (n + p / 1024) (p / 32 % 32)).getLsbD (p % 32)

/-- The code of `w` bits at bit `p` of consecutive V registers. -/
def codeAt (g : Group) (n p w : Nat) : Nat := ((List.range w).map fun j => if laneBit g n (p + j) then 2 ^ j else 0).sum

/-- An element of a GMMA operand: row `m`, position `i` of `K`, with the code at `bit` and the scale bytes of its row; absent at or beyond `K` (R171, R172). -/
def gmmaElem (g : Group) (f : FmtBlock) (sc : List Nat) (n K m i bit : Nat) : Option Fx :=
  if i < K then some (f.elem (sc.getD (m * (32 / f.bl) + i / f.bl) 0) (codeAt g n bit (elemBits f.fmt))) else none

/-- `j` is `i` or an ancestor of it (R199). -/
inductive Ancestor (parent : Nat → Nat) (j : Nat) : Nat → Prop
  | self : Ancestor parent j j
  | up (i : Nat) : parent i ≠ 0xFFFFFFFF → Ancestor parent j (parent i) → Ancestor parent j i

/-- A value rounded from the last operation, with the conditions of each that led to it. -/
abbrev Chain := Nat × Cnd

/-- An operation on two rounded values. -/
def chain (f : Nat → Nat → Nat × Cnd) (a b : Chain) : Chain := ((f a.1 b.1).1, a.2 ||| b.2 ||| (f a.1 b.1).2)

/-- A function of a rounded value. -/
def chain1 (f : Nat → Nat × Cnd) (a : Chain) : Chain := ((f a.1).1, a.2 ||| (f a.1).2)

/-- One row of SMAXR (R201): `t` of each present position, the new maximum `mn`, the factor `a`, the sum `s` of the present `p`, and the row's outputs. -/
def smaxRule (f16 : Bool) (t : Nat → Option Chain) (mo lo : Nat) (P : Nat → Nat) (mn a ln : Nat) (c : Cnd) : Prop :=
  let add := fpAdd F32 .rne false
  let sub := fpSub F32 .rne false
  let mul := fpMul F32 .rne false
  let ts := (List.range 16).filterMap t
  let bmax := match ts with
    | [] => 0xFF800000
    | x :: r => r.foldl (fun m y => fpMinMax F32 true false m y.1) x.1
  let av : Chain := if mn = 0xFF800000 then (0x3F800000, 0) else chain1 fpExp2 (chain sub (mo, 0) (mn, 0))
  let p (n : Nat) : Option Chain := (t n).map fun x => chain1 fpExp2 (chain sub (x.1, 0) (mn, 0))
  let tree := treeSum ((List.range 32).map fun n => if n < 16 then ((p n).map fun x => F32.decode x.1, 0) else (none, 0))
  let s := match tree.1 with
    | some v => (roundFx F32 (.dir .rne) false v).1
    | none => 0
  let out (n : Nat) : Chain := match p n with
    | some x => cvtFF (if f16 then .f16 else .bf16) .f32 (.dir .rne) false x.1
    | none => (0, 0)
  mn = fpMinMax F32 true false mo bmax ∧ a = av.1 ∧ ln = (add (mul a lo).1 s).1 ∧ (∀ n < 16, P n = (out n).1) ∧
    ∀ k, c.getLsbD k = (av.2.getLsbD k || tree.2.getLsbD k || (mul a lo).2.getLsbD k || (add (mul a lo).1 s).2.getLsbD k ||
      (List.range 16).any fun n => ((t n).map (·.2)).any (·.getLsbD k) || ((p n).map (·.2)).any (·.getLsbD k) || (out n).2.getLsbD k)

end Sys2Proof.Claims

/-- R170-R172, R124-R126: GMMA adds to each element of C the fixed-tree product of a row of A and a column of B; rows beyond ROWS keep their lanes. A pair of
formats outside R170 raises BAD_FORMAT. Its scale bytes are read as relaxed loads of the path: GMMA stalls while an earlier access holds them back (R172, R224). -/
def Obligations.GroupMatrixProduct : Prop :=
  ∀ (s : State) (g : Group) (h : Head) (bt : Bool) (ca cb : BitVec 6) (rows : BitVec 5) (d a b : BitVec 8) (c : Operand) (A B : FmtBlock) (ka kb : List Nat), Shaped g →
    let i := Instr.gmma h bt ca cb rows (.v d) (.v a) (.v b) c
    let e := envOf i s g
    Issues i s g → e.uguard = true → e.fmtBlock ca = .ok A → e.fmtBlock cb = .ok B →
    ((pairFmt A B = false ∨ (bt = true ∧ A.fmt < 3)) → Faults i s .badFormat) ∧
    (pairFmt A B = true → (bt = true → 3 ≤ A.fmt) → s.gmmaScales g A (if rows = 0 then 16 else rows.toNat) = .ok ka → s.gmmaScales g B 16 = .ok kb →
      (ka ++ kb ≠ [] → g.mustWait g.ops e.p.id e.p.born .ld (ka ++ kb) = true → Stalls i s) ∧
      ((ka ++ kb ≠ [] → g.mustWait g.ops e.p.id e.p.born .ld (ka ++ kb) = false) →
      let sa := ka.map fun x => (s.seen g s.nextId x).toNat
      let sb := kb.map fun x => (s.seen g s.nextId x).toNat
      let R := if rows = 0 then 16 else rows.toNat
      let K := if A.fmt < 3 then 32 else 16
      let wa := elemBits A.fmt
      let wb := elemBits B.fmt
      let acc (m n : Nat) : Nat := match c with
        | .v k => (g.vlane (k.toNat + n / 2) (16 * (n % 2) + m)).toNat
        | _ => 0
      let out (m n : Nat) := dotStep (acc m n) ((List.range 32).map fun j => gmmaElem g A sa a.toNat K m j ((m * K + j) * wa))
        ((List.range 32).map fun j => gmmaElem g B sb b.toNat K n j (if bt then (j * 16 + n) * wb else (n * K + j) * wb))
      ∃ k gt, Passed i s g k ∧ gt = { k with regs := gt.regs } ∧ KeepsPreds g gt ∧ KeepsRegs e g gt i.dsts (.v d) ∧
        exec i s = .next { Becomes s gt with ctxs := (s.countAll g.slot A.fmt ((List.range R).flatMap fun m => (List.range 16).map fun n =>
          ⟨F32, (out m n).1, (out m n).2.2⟩)).ctxs } ∧
        (∀ m < R, ∀ n < 16, gt.vlane (d.toNat + n / 2) (16 * (n % 2) + m) = BitVec.ofNat 32 (out m n).1) ∧
        (∀ q < 8, ∀ l < 32, R ≤ l % 16 → gt.vlane (d.toNat + q) l = g.vlane (d.toNat + q) l)))

/-- R174, R175, R198-R202: CVTDXB packs the codes of 128 elements and their scale bytes; TMASK gives each row the keys that it may see; SMAXR takes one step of an
online softmax in each row. The conditions of each element or row are ORed into its lanes' sticky predicates. -/
def Obligations.BlockConversionMaskAndSoftmax : Prop :=
  (∀ (s : State) (g : Group) (h : Head) (sto : Bool) (ss cf : BitVec 6) (d a : BitVec 8) (F : FmtBlock), Shaped g →
    let i := Instr.cvtdxb h sto ss cf (.v d) (.v a)
    let e := envOf i s g
    Issues i s g → e.uguard = true → e.fmtBlock cf = .ok F →
    (3 ≤ F.fmt → Faults i s .badFormat) ∧
    (F.fmt < 3 → F.b16 = true → (ss.toNat % 2 ≠ 0 ∨ g.sbud ≤ ss.toNat + 1) → Faults i s .illegalOperand) ∧
    (F.fmt < 3 → (F.b16 = true → ss.toNat % 2 = 0 ∧ ss.toNat + 1 < g.sbud ∧ RegRef.s (ss.toNat + 1) ∉ g.awaited ∧ RegRef.s (ss.toNat + 1) ∉ g.buffered) →
      CompletesIn i s g fun e g gt =>
        let w := dxbK F.fmt + 2
        let x (j : Nat) : Nat := (g.vlane (a.toNat + j / 32) (j % 32)).toNat
        let dl (b : Nat) := dxbDeltas (dxbK F.fmt) F.e ((List.range F.bl).map fun j => x (b * F.bl + j))
        let code (j : Nat) := dxbEncode (dxbK F.fmt) F.e (dl (j / F.bl)).1 (dl (j / F.bl)).2
          (fun y => if sto then .sto (draw g.regs.seed (j % 32) (j / 32) y) else .dir .rne) (x j)
        let scale (b : Nat) : Nat := (dl b).1 * 16 + (dl b).2
        (∀ j < 128, codeAt gt d.toNat (j * w) w = (code j).1) ∧ (∀ l < 32, 4 * w ≤ l → gt.vlane d.toNat l = 0) ∧
        (F.b16 = false → gt.sreg ss.toNat = BitVec.ofNat 32 (((List.range 4).map fun b => scale b * 2 ^ (8 * b)).sum)) ∧
        (F.b16 = true → gt.sreg ss.toNat = BitVec.ofNat 32 (((List.range 4).map fun b => scale b * 2 ^ (8 * b)).sum) ∧
          gt.sreg (ss.toNat + 1) = BitVec.ofNat 32 (((List.range 4).map fun b => scale (b + 4) * 2 ^ (8 * b)).sum)) ∧
        (∀ n l, l < 32 → n ≠ d.toNat → gt.vlane n l = g.vlane n l) ∧ (∀ n, n ≠ ss.toNat → (F.b16 = true → n ≠ ss.toNat + 1) → gt.sreg n = g.sreg n) ∧
        (∀ n, gt.areg n = g.areg n) ∧ (∀ r, special gt e.p.id r = special g e.p.id r) ∧
        ∀ p l, p < 64 → l < 32 → gt.pred p l = (g.pred p l || decide (59 ≤ p) && (List.range 4).any fun q => (code (32 * q + l)).2.getLsbD (p - 59)))) ∧
  (∀ (s : State) (g : Group) (h : Head) (d a : BitVec 8) (b c : Operand), Shaped g →
    let i := Instr.tmask h (.v d) (.v a) b c
    let e := envOf i s g
    let sc := e.u32 c
    let N := sc % 2 ^ 7
    let H := sc / 2 ^ 7 % 2 ^ 3 + 1
    let n0 := sc / 2 ^ 10 % 2 ^ 6
    let parent (j : Nat) : Nat := (g.vlane (a.toNat + j / 32) (j % 32)).toNat
    Issues i s g → e.uguard = true →
    (¬ (1 ≤ N ∧ N ≤ 64 ∧ n0 < N ∧ sc < 2 ^ 16) → Faults i s .matrixShape) ∧
    (1 ≤ N → N ≤ 64 → n0 < N → sc < 2 ^ 16 → (∃ j < N, parent j ≠ 0xFFFFFFFF ∧ j ≤ parent j) → Faults i s .treeInvalid) ∧
    (1 ≤ N → N ≤ 64 → n0 < N → sc < 2 ^ 16 → (∀ j < N, parent j = 0xFFFFFFFF ∨ parent j < j) → CompletesIn i s g fun e g gt =>
      let C := (e.word b 0 e.ulane).toNat
      let key := (e.word b 1 e.ulane).toNat
      KeepsRegs e g gt i.dsts (.v d) ∧ KeepsPreds g gt ∧ ∀ l < 32, ∀ n < 32, (gt.vlane d.toNat l).getLsbD n = true ↔
        n < 16 ∧ l < H * min (16 / H) (N - n0) ∧ (key + n < C ∨ (C ≤ key + n ∧ key + n < C + N ∧ Ancestor parent (key + n - C) (n0 + l / H))))) ∧
  (∀ (s : State) (g : Group) (h : Head) (f16 sz msk : Bool) (cs : BitVec 6) (rows : BitVec 5) (d a b : BitVec 8) (c : Operand), Shaped g →
    let i := Instr.smaxr h f16 cs sz msk rows (.v d) (.v a) (.v b) c
    Issues i s g → (envOf i s g).uguard = true → (msk = true ∨ sz = true → ∃ n, c = .v n) → CompletesIn i s g fun e g gt =>
      let R := if rows = 0 then 16 else rows.toNat
      let w (r l : Nat) : Nat := (g.vlane r l).toNat
      let m0 : Nat := match c with
        | .v n => n.toNat
        | _ => 0
      let t (m n : Nat) : Option Chain :=
        if msk = true ∧ (w m0 m).testBit n = false then none
        else
          let q := chain (fpMul F32 .rne false) (w (a.toNat + n / 2) (16 * (n % 2) + m), 0) ((g.sreg cs.toNat).toNat, 0)
          some (if sz then chain (fpAdd F32 .rne false) q (chain1 fpLog2 (w (m0 + 1) n, 0)) else q)
      ∃ P : Nat → Nat → Nat, ∃ mn a ln : Nat → Nat, ∃ k : Nat → Cnd,
        (∀ m < R, smaxRule f16 (t m) (w b.toNat m) (w (b.toNat + 1) m) (P m) (mn m) (a m) (ln m) (k m)) ∧
        (∀ m < R, ∀ n < 16, ((gt.vlane (d.toNat + m / 4) (8 * (m % 4) + n / 2)).toNat / 2 ^ (16 * (n % 2))) % 2 ^ 16 = P m n) ∧
        (∀ m < R, ∀ x < 2, gt.vlane (d.toNat + 4) (m + 16 * x) = BitVec.ofNat 32 (mn m) ∧ gt.vlane (d.toNat + 5) (m + 16 * x) = BitVec.ofNat 32 (ln m) ∧
          gt.vlane (d.toNat + 6) (m + 16 * x) = BitVec.ofNat 32 (a m)) ∧
        (∀ q < 4, ∀ l < 32, R ≤ 4 * q + l / 8 → gt.vlane (d.toNat + q) l = g.vlane (d.toNat + q) l) ∧
        (∀ q < 3, ∀ l < 32, R ≤ l % 16 → gt.vlane (d.toNat + 4 + q) l = g.vlane (d.toNat + 4 + q) l) ∧
        (∀ n l, l < 32 → ¬ (d.toNat ≤ n ∧ n < d.toNat + 7) → gt.vlane n l = g.vlane n l) ∧ KeepsRegs e g gt i.dsts (.v d) ∧
        ∀ p l, p < 64 → l < 32 → gt.pred p l = (g.pred p l || decide (59 ≤ p) && decide (l % 16 < R) && (k (l % 16)).getLsbD (p - 59)))

/-- R302, R301, R303, R308, R310, R29, R27: LAUNCH checks its address for its bounds and its pages and then for its alignment, and sends the 64 bytes of its packet; TRIGGER
marks its group, in D-mode at the commit; both wait as a release does, and while an earlier access holds them back (R224). The TIMER instructions set TCOMP, absolutely, from
the count at the retirement, or to its end, and arm the timer; QEND ends a D-mode quantum. -/
def Obligations.LaunchTriggerTimer : Prop :=
  ∀ (s : State) (g : Group) (h : Head) (px : PReg) (a : Operand),
    (let i := Instr.launch h px a
     let e := envOf i s g
     let va := e.u64 a
     let waits (ks : List Nat) : Bool := relWaits e || g.mustWait g.ops e.p.id e.p.born .lt [] || g.mustWait g.ops e.p.id e.p.born .ld ks
     Issues i s g → e.uguard = true →
     (∀ c ad, s.taggedKeys g va 64 1 needR = .error (c, ad) → Faults i s c) ∧
     (∀ ks, s.taggedKeys g va 64 1 needR = .ok ks → (va % 64 ≠ 0 → Faults i s .misaligned) ∧ (va % 64 = 0 → waits ks = true → Stalls i s) ∧
       (va % 64 = 0 → waits ks = false → g.cbuf.length < 512 → ∃ x : Op, OpOf i s e { x with flag := flagOf i.setf s.cur } ∧ x.flag = none ∧
         x.kind = .launch (ks.map (s.seen g s.nextId)) px ∧ x.dsts = i.dsts ∧ x.counted = false ∧ Queues i s g fun k => if g.dmode then k.bufOp x else k.addOp x))) ∧
    (let i := Instr.trigger h
     let e := envOf i s g
     let waits : Bool := relWaits e || g.mustWait g.ops e.p.id e.p.born .lt []
     Issues i s g → e.uguard = true → (waits = true → Stalls i s) ∧
     (waits = false → g.dmode = false → Leaves i s g fun k => { k with trig := true }) ∧
     (waits = false → g.dmode = true → g.cbuf.length < 512 → ∃ x : Op, OpOf i s e { x with flag := flagOf i.setf s.cur } ∧ x.flag = none ∧ x.kind = .trigger ∧ x.dsts = [] ∧
       x.counted = false ∧ Queues i s g fun k => k.bufOp x)) ∧
    (let clock := s.clock + BitVec.ofNat 64 (Config.dieSkew (dieOf g.gid.cluster) % 5)
     ∀ i v, (i = .timerAbs h a ∧ v = (envOf i s g).u64 a ∨
        i = .timerRel h a ∧ v = (if g.dmode then g.retired.toNat + 1 else clock.toNat) + (envOf i s g).u32 a ∨ i = .timerOff h ∧ v = 2 ^ 48 - 1) →
      Issues i s g → (envOf i s g).uguard = true → ∃ x : DWord, x.toNat = g.regs.tcmp.toNat / 2 ^ 48 * 2 ^ 48 + v % 2 ^ 48 ∧
        Leaves i s g fun k => { k with regs := { k.regs with tcmp := x }, armed := true }) ∧
    (Issues (.qend h) s g → (envOf (.qend h) s g).uguard = true → Leaves (.qend h) s g fun k => { k with qend := k.qend || k.dmode })

namespace Sys2Proof.Claims

/-- The group stands in its trap handler (R339, R341, R343): INH is set, one path runs at TVEC with every lane, what ran is kept, and the frame and its image in the save area
name the fault, its instruction and the resume address. Registers are as before. -/
def Entered (s t : State) (gi : Nat) (g : Group) (f : FaultInfo) (fpc cpc pid : Nat) : Prop :=
  let B := (s.ctx g.slot).csaGroup g.gid
  ∃ (gt : Group) (fr : Frame), t.groups[gi]? = some gt ∧ gt.inh = true ∧ gt.st = .run ∧ gt.ents = [] ∧ gt.frame = some fr ∧ gt.regs = g.regs ∧
    gt.paths = [{ id := g.nextPid, pc := g.regs.tvec.toNat, exec := 0xFFFFFFFF, held := 0xFFFFFFFF, since := s.clock.toNat }] ∧
    gt.trapEnts = g.ents ∧ gt.trapAst = g.ast ∧ gt.ops = g.ops.filter (fun o => !o.plain) ∧
    (∀ o ∈ (g.ops.filter (·.plain)).take 8, ∃ r ∈ gt.rq, r.op.id = o.id ∧ r.op.kind = o.kind ∧ r.op.dsts = o.dsts ∧ r.op.flag = o.flag) ∧
    (∀ p ∈ g.paths, ∃ q ∈ gt.trapPaths, q.id = p.id ∧ q.pc = p.pc ∧ q.exec = p.exec ∧ q.held = p.held ∧ q.stack = p.stack ∧ q.split = p.split) ∧
    fr.cpc = cpc ∧ fr.fpc = fpc ∧ fr.apc = g.apc ∧ fr.faddr = f.addr ∧ (∀ p, g.path pid = some p → fr.fmask = p.exec) ∧
    fr.fcode = f.code.num + (if f.aorg.isSome then 2 ^ 16 else 0) + (if f.late then 2 ^ 17 else 0) + (if f.hi then 2 ^ 18 else 0) ∧
    fr.finfo = f.lane % 256 + f.aorg.getD 0 * 2 ^ 8 + f.info.getD 0 * 2 ^ 32 ∧
    t.mem.num B 8 = cpc % 2 ^ 64 ∧ t.mem.num (B + 0x10) 8 = fpc % 2 ^ 64 ∧ t.mem.num (B + 0x18) 8 = f.addr % 2 ^ 64 ∧ t.mem.num (B + 0x20) 4 = fr.fcode % 2 ^ 32 ∧
    t.mem.num (B + 0x24) 4 = fr.fmask.toNat ∧ (∀ x, x < B ∨ B + 0x3000 ≤ x → t.mem.get x = s.mem.get x)

/-- TVEC names a slot that is marked, or none that is, whatever the group's record in the save area holds (R29). -/
def marks (s : State) (g : Group) (b : Bool) : Prop :=
  ∀ m : Mem, (∀ x, x < (s.ctx g.slot).csaGroup g.gid ∨ (s.ctx g.slot).csaGroup g.gid + 0x3000 ≤ x → m.get x = s.mem.get x) →
    ({ s with mem := m } : State).isTarget g.gid.cluster g.slot g.regs.tvec.toNat = b

/-- A group's trap can be taken, and its handler entered: no reply is awaited, no handler runs, and TVEC names a marked slot. -/
def CanEnter (s : State) (g : Group) : Prop :=
  Memory.wf s.mem = true ∧ Shaped g ∧ g.paths.length ≤ 9 ∧ g.ops.any Op.awaited = false ∧ g.inh = false ∧ g.regs.tvec ≠ 0 ∧ marks s g true

/-- A class whose fault is a trap: Fatal, User, Direct, and a notice code that a group's own instruction raises (R338). -/
def traps (f : FaultInfo) : Prop := f.cls = .fatal ∨ f.cls = .user ∨ f.cls = .direct ∨ f.cls = .notice

/-- The code that a context freezes with when no handler takes a group's fault (R340): ILLEGAL_TARGET where TVEC is not 0 and names no marked slot, else the fault's own. A
Direct fault keeps its own there too (log 94, DEDUCED). -/
def endsWith (s : State) (g : Group) (f : FaultInfo) (c : FCode) : Prop :=
  (g.regs.tvec = 0 ∨ f.cls = .direct ∨ g.inh = true ∧ marks s g true) ∧ c = f.code ∨ g.regs.tvec ≠ 0 ∧ f.cls ≠ .direct ∧ marks s g false ∧ c = .illegalTarget

/-- A group's fault ends the run of its context (R340, R346, R330): the context freezes with this code, the group is dead, its registers are as before, and where a record is free
the fatal record with STOP stands in the queue. -/
def DiesWith (s t : State) (gi : Nat) (g : Group) (f : FaultInfo) (fpc : Nat) (code : FCode) : Prop :=
  let B := (s.ctx g.slot).csaGroup g.gid
  let q := (s.ctx g.slot).tqHeader
  let prod := s.mem.num q 4
  let r := q + 64 + 64 * (prod % (s.ctx g.slot).tqN)
  (t.ctx g.slot).state = .frozen ∧ (t.ctx g.slot).freeze.cause = BitVec.ofNat 32 code.num ∧ (t.ctx g.slot).freeze.who = BitVec.ofNat 32 g.gid.who ∧
    (t.ctx g.slot).freeze.addr = BitVec.ofNat 64 f.addr ∧ (t.ctx g.slot).freeze.pc = BitVec.ofNat 64 fpc ∧
    (∃ gt, t.groups[gi]? = some gt ∧ gt.st = .dead ∧ gt.regs = g.regs) ∧
    (0 < s.tqFree g.slot → apart B 0x3000 q 64 → apart B 0x3000 r 64 → apart q 64 r 64 → t.mem.num q 4 = (prod + 1) % 2 ^ 32 ∧ t.mem.num r 4 = prod ∧
      t.mem.num (r + 4) 4 = code.num + 2 ^ 16 + 2 ^ 18 + (if g.inh then 2 ^ 19 else 0) ∧ t.mem.num (r + 8) 8 = f.addr % 2 ^ 64 ∧ t.mem.num (r + 16) 8 = fpc % 2 ^ 64 ∧
      t.mem.num (r + 32) 4 = g.gid.who % 2 ^ 32 ∧ t.mem.num (r + 36) 4 = f.recInfo % 2 ^ 32 ∧ t.mem.num (r + 40) 8 = g.lage % 2 ^ 64)

/-- A group can die with a fault: nothing it awaits is left, its context is active. -/
def CanDie (s : State) (g : Group) : Prop :=
  Memory.wf s.mem = true ∧ Shaped g ∧ g.paths.length ≤ 9 ∧ g.ops.any Op.awaited = false ∧ g.slot < s.ctxs.length ∧ (s.ctx g.slot).state = .active

/-- A resume address of TRAPRET (R351). -/
def goodResume (a : Nat) : Prop := a < 2 ^ 56 ∧ a % 64 ∈ [0, 12, 24, 36, 48]

end Sys2Proof.Claims

/-- R338-R341, R343, R346, R350: a fault of class Fatal, Direct or User takes its trap once no reply is awaited: the handler is entered, or, where none can take it, a fatal
record with STOP is posted and the context freezes. A Direct fault's code there is log 94. TRAP takes USER_TRAP after it retires, with the next slot to resume at; BKPT stops its group under a replayable record. -/
def Obligations.TakingATrap : Prop :=
  (∀ (s : State) (gi : Nat) (g : Group) (f : FaultInfo) (fpc cpc pid : Nat), s.groups[gi]? = some g →
    (CanEnter s g → traps f → f.cls ≠ .direct → Entered s (s.raise gi f fpc cpc pid) gi g f fpc cpc pid) ∧
    (CanEnter s g → f.cls ≠ .direct → g.st = .trapping f fpc cpc pid → ∃ t, exec (.takeTrap gi) s = .next t ∧ t.last = .event ∧ Entered s t gi g f fpc cpc pid) ∧
    (traps f → g.ops.any Op.awaited = true → ∃ gt, (s.raise gi f fpc cpc pid).groups[gi]? = some gt ∧ gt = { g with st := .trapping f fpc cpc pid, bwait := [] }) ∧
    (∀ code, traps f → endsWith s g f code → CanDie s g → DiesWith s (s.raise gi f fpc cpc pid) gi g f fpc code)) ∧
  (∀ (s : State) (g : Group) (h : Head) (n : BitVec 16), CanEnter s g → s.cur.sl = .c → Issues (.trap h n) s g → (envOf (.trap h n) s g).uguard = true →
    ∃ k t, Passed (.trap h n) s g k ∧ exec (.trap h n) s = .next t ∧ t.last = .retired ∧
      (∃ gt, t.groups[s.cur.g]? = some gt ∧ gt.retired = g.retired + 1) ∧
      Entered s t s.cur.g k { code := .userTrap, info := some n.toNat } s.cur.addr (nextAddr s.cur.addr) s.cur.p) ∧
  ∀ (s : State) (g : Group) (h : Head) (n : BitVec 16), Memory.wf s.mem = true → s.cur.sl = .c → Issues (.bkpt h n) s g → (envOf (.bkpt h n) s g).uguard = true →
    let f : FaultInfo := { code := .breakpoint, info := some n.toNat }
    let posts := (s.ctx g.slot).state = .active ∧ 4 < s.tqFree g.slot
    let h0 := (s.ctx g.slot).tqHeader
    let prod := s.mem.num h0 4
    ∃ k gt t, Passed (.bkpt h n) s g k ∧ exec (.bkpt h n) s = .next t ∧ t.last = .retired ∧ t.groups[s.cur.g]? = some gt ∧
      gt.regs = g.regs ∧ gt.retired = g.retired + 1 ∧ gt.paths.map (fun p => (p.id, p.pc, p.exec)) = k.paths.map (fun p => (p.id, p.pc, p.exec)) ∧ gt.ops = g.ops ∧
      (posts → gt.st = .stopped f s.cur.addr s.cur.p (some prod) ∧ t.mem.num h0 4 = (prod + 1) % 2 ^ 32 ∧
        t.mem.num (h0 + 64 + 64 * (prod % (s.ctx g.slot).tqN)) 4 = prod ∧ t.mem.num (h0 + 64 + 64 * (prod % (s.ctx g.slot).tqN) + 4) 4 = 0x0506 ∧
        t.mem.num (h0 + 64 + 64 * (prod % (s.ctx g.slot).tqN) + 16) 8 = s.cur.addr % 2 ^ 64 ∧
        t.mem.num (h0 + 64 + 64 * (prod % (s.ctx g.slot).tqN) + 36) 4 = n.toNat) ∧
      (¬ posts → gt.st = .stopped f s.cur.addr s.cur.p none ∧ t.mem = s.mem ∧ t.ctxs = s.ctxs)

/-- R351, R352, R353, R344, R339: in the handler TRAPRET puts the kept paths back, the first at CPC with FMASK, injects the live replay entries and clears INH; REPLAY injects one
entry and marks it; an injected load makes its accesses at the captured addresses, checked and translated as they stand now, and both stall rather than have more than eight in
flight. WRSR changes CPC, APC, FMASK (within the faulting path's lanes) or RQLIVE. Outside it the three raise ILLEGAL_OPERAND; RDSR reads 0 for a group without a frame. That CPC
keeps its upper bits is log 44, that the group's frame and not its image is read log 60, and that no register is read again log 84 (all DEDUCED). -/
def Obligations.TrapHandler : Prop :=
  ∀ (s : State) (g : Group) (h : Head) (ix : BitVec 3) (px : PReg) (r : TrapReg) (a : Operand), Shaped g → Memory.wf s.mem = true → s.cur.sl = .c →
    (∀ i, (i = .trapret h ∨ i = .replay h ix px ∨ i = .wrsr h r a) → Issues i s g → (envOf i s g).uguard = true → g.inh = false → Faults i s .illegalOperand) ∧
    (∀ f, g.inh = true → g.frame = some f → Issues (.trapret h) s g → (envOf (.trapret h) s g).uguard = true →
      (¬ goodResume f.cpc → Faults (.trapret h) s .illegalTarget) ∧
      (goodResume f.cpc → g.trapAst = .run → ¬ goodResume f.apc → Faults (.trapret h) s .illegalTarget) ∧
      (goodResume f.cpc → goodResume f.apc → 8 < (g.ops.filter (·.plain)).length + liveCount f.rqlive g.rq → Stalls (.trapret h) s) ∧
      (goodResume f.cpc → goodResume f.apc → (g.ops.filter (·.plain)).length + liveCount f.rqlive g.rq ≤ 8 → g.held = false → ∃ t gt, exec (.trapret h) s = .next t ∧ t.last = .retired ∧ t.groups[s.cur.g]? = some gt ∧
        gt.inh = false ∧ gt.ents = g.trapEnts ∧ gt.trapPaths = [] ∧ gt.rq = [] ∧ gt.regs = g.regs ∧ gt.frame = g.frame ∧ gt.retired = g.retired + 1 ∧
        (∀ p ps, g.trapPaths = p :: ps → (∀ q ∈ g.trapPaths, ∀ line ports bound w, q.st ≠ .parked line ports bound w) → gt.paths = { p with pc := f.cpc, exec := f.fmask, line := none } :: ps) ∧
        (g.trapAst = .run → gt.ast = .run ∧ gt.apc = f.apc) ∧ (g.trapAst = .exited → gt.ast = .exited) ∧
        (∀ o ∈ g.ops, o ∈ gt.ops) ∧ (f.rqlive = 0 → gt.ops = g.ops ∧ gt.flags = g.flags) ∧
        (∀ (j : Nat) (x : RqEntry), g.rq[j]? = some x → f.rqlive / 2 ^ j % 2 = 1 → (x.st = 1 ∨ x.st = 2) → ∃ o ∈ gt.ops, s.nextId ≤ o.id ∧ o.addrs = x.op.addrs ∧
          o.dsts = x.op.dsts ∧ o.flag = x.op.flag ∧ o.pc = x.op.pc ∧ o.word = x.op.word ∧ (f.rqlive = 2 ^ j → (∀ y as, s.rekey g x.op = .ok (y, as) → o.kind = y.kind ∧ o.late = none) ∧
            ∀ e, s.rekey g x.op = .error e → o.kind = x.op.kind ∧ o.late = some e)) ∧
        ∀ y, y < (s.ctx g.slot).csaGroup g.gid + 0x34 ∨ (s.ctx g.slot).csaGroup g.gid + 0x38 ≤ y → t.mem.get y = s.mem.get y)) ∧
    (∀ f, g.inh = true → g.frame = some f → Issues (.replay h ix px) s g → (envOf (.replay h ix px) s g).uguard = true →
      (∀ x : RqEntry, g.rq[ix.toNat]? = some x → f.rqlive / 2 ^ ix.toNat % 2 = 1 → (x.st = 1 ∨ x.st = 2) → 8 ≤ (g.ops.filter (·.plain)).length →
        Stalls (.replay h ix px) s) ∧
      (∀ x : RqEntry, g.rq[ix.toNat]? = some x → f.rqlive / 2 ^ ix.toNat % 2 = 1 → (x.st = 1 ∨ x.st = 2) → (g.ops.filter (·.plain)).length < 8 →
        ∃ t gt o, exec (.replay h ix px) s = .next t ∧
        t.last = .retired ∧ t.nextId = s.nextId + 1 ∧ t.groups[s.cur.g]? = some gt ∧ gt.ops = g.ops ++ [o] ∧ o.id = s.nextId ∧ o.addrs = x.op.addrs ∧
        (∀ y as, s.rekey g x.op = .ok (y, as) → o.kind = y.kind ∧ o.late = none) ∧ (∀ e, s.rekey g x.op = .error e → o.kind = x.op.kind ∧ o.late = some e) ∧
        o.dsts = x.op.dsts ∧ o.flag = x.op.flag ∧ o.flag2 = flagOf h.setf s.cur ∧ setsPred (envOf (.replay h ix px) s g) g gt px true ∧
        gt.rq = g.rq.set ix.toNat { x with st := 3 } ∧ gt.frame = some { f with rqlive := f.rqlive - 2 ^ ix.toNat } ∧
        gt.regs.v = g.regs.v ∧ gt.regs.s = g.regs.s ∧ gt.regs.a = g.regs.a) ∧
      ((f.rqlive / 2 ^ ix.toNat % 2 = 0 ∨ g.rq.length ≤ ix.toNat) → CompletesIn (.replay h ix px) s g fun e g gt => KeepsRegs e g gt [] .qb ∧ setsPred e g gt px false)) ∧
    (∀ n : BitVec 6, Issues (.rdsr h r (.s n)) s g → (envOf (.rdsr h r (.s n)) s g).uguard = true → CompletesIn (.rdsr h r (.s n)) s g fun e g gt =>
      KeepsRegs e g gt (Instr.rdsr h r (.s n)).dsts (.s n) ∧ KeepsPreds g gt ∧
      let v : Nat := match g.frame with
        | none => 0
        | some f => match r with
          | .cpc => f.cpc
          | .apc => f.apc + (if f.ahalt then 2 ^ 63 else 0)
          | .fpc => f.fpc
          | .fcode => f.fcode
          | .faddr => f.faddr
          | .fmask => f.fmask.toNat
          | .finfo => f.finfo
          | .rqlive => f.rqlive
      gt.sreg n.toNat = BitVec.ofNat 32 v ∧
        ((r = .cpc ∨ r = .apc ∨ r = .fpc ∨ r = .faddr ∨ r = .finfo) → gt.sreg (n.toNat + 1) = BitVec.ofNat 32 (v / 2 ^ 32))) ∧
    (∀ f, g.inh = true → g.frame = some f → Issues (.wrsr h r a) s g → (envOf (.wrsr h r a) s g).uguard = true →
      let e := envOf (.wrsr h r a) s g
      let held : Mask := match g.trapPaths with
        | p :: _ => p.held
        | [] => 0
      ((r = .fpc ∨ r = .fcode ∨ r = .faddr ∨ r = .finfo) → Faults (.wrsr h r a) s .illegalOperand) ∧
      (∀ f', (r = .cpc ∧ f' = { f with cpc := e.u64 a } ∨ r = .apc ∧ f' = { f with apc := e.u64 a % 2 ^ 63 } ∨
          r = .fmask ∧ f' = { f with fmask := e.rd32 a e.ulane &&& held } ∨ r = .rqlive ∧ f' = { f with rqlive := e.u32 a % 2 ^ 8 }) →
        ∃ k t, Passed (.wrsr h r a) s g k ∧ exec (.wrsr h r a) s = .next t ∧ t.last = .retired ∧ t.ctxs = s.ctxs ∧
          t.groups.map (·.regs) = s.groups.map (·.regs) ∧ (∃ gt, t.groups[s.cur.g]? = some gt ∧ gt.frame = some f' ∧
            gt.inh = true ∧ gt.ops = g.ops ∧ gt.rq = g.rq ∧ gt.trapPaths = g.trapPaths ∧ gt.retired = g.retired + 1 ∧
            gt.paths.map (fun p => (p.id, p.pc, p.exec)) = k.paths.map fun p => (p.id, p.pc, p.exec)) ∧
          let B := (s.ctx g.slot).csaGroup g.gid
          t.mem.num B 8 = f'.cpc % 2 ^ 64 ∧ t.mem.num (B + 0x24) 4 = f'.fmask.toNat ∧ t.mem.num (B + 0x30) 4 = f'.rqlive % 2 ^ 32 ∧
          ∀ x, (x < B ∨ B + 0x34 ≤ x) → (x < B + 0x100 ∨ B + 0x300 ≤ x) → t.mem.get x = s.mem.get x))

namespace Sys2Proof.Claims

/-- A later state with the same contexts, teams and cached translations, whose memory differs only at these keys: what an engine writes leaves its translations as they are. -/
structure Undisturbed (s t : State) (W : Nat → Prop) : Prop where
  ctxs : t.ctxs = s.ctxs
  teams : t.teams = s.teams
  tlbs : t.tlbs = s.tlbs
  mem : ∀ x, ¬ W x → t.mem.get x = s.mem.get x

/-- A context but for its counts of arithmetic events (R128) and of operations (R296). -/
def uncounted (c : Context) : Context :=
  { c with aevb := { c.aevb with cnt := [], hit := 0 }, arith := 0, meas := c.meas.map fun (m : Measure) => { m with flops := 0 } }

/-- As `Undisturbed`, but that results and operations may have been counted. -/
structure Calm (s t : State) (W : Nat → Prop) : Prop where
  ctxs : t.ctxs.map uncounted = s.ctxs.map uncounted
  teams : t.teams = s.teams
  tlbs : t.tlbs = s.tlbs
  mem : ∀ x, ¬ W x → t.mem.get x = s.mem.get x

/-- `m` values of `n` bytes each stand at keys, and memory is as before elsewhere. -/
def Stands (s t : State) (key : Nat → Nat) (n m : Nat) (val : Nat → Nat) : Prop :=
  (∀ j < m, wordOfBytes ((List.range n).map fun i => t.mem.get (key (n * j + i))) = val j % 2 ^ (8 * n)) ∧
    ∀ x, (∀ o < n * m, x ≠ key o) → t.mem.get x = s.mem.get x

/-- Different offsets have different keys. -/
def distinct (key : Nat → Nat) (n : Nat) : Prop := ∀ o < n, ∀ p < n, key o = key p → o = p

/-- The event takes place, and the command has left its engine. -/
def Ended (s t : State) (ev : Instr) (cl : Nat) (eng : EngineKind) (c : Cmd) : Prop :=
  exec ev s = .next t ∧ t.last = .event ∧ (t.cl cl).queue eng = ((s.cl cl).queue eng).filter fun x => x.id != c.id

/-- The operation that waited for a command of a resident group completes: it is gone, and its flag has fallen (R48). -/
def Completed (s t : State) (c : Cmd) (k : OpKind) : Prop :=
  ∀ (gi : Nat) (g : Group) (o : Op), s.groups.findIdx? (fun g => g.gid == c.gid && g.tag == c.tag) = some gi → s.groups[gi]? = some g →
    g.ops.find? (fun o => o.kind == .engine c.id || o.kind == .coll c.id) = some o → o.kind = k →
    ∃ gt, t.groups[gi]? = some gt ∧ gt.ops = g.ops.filter (fun x => x.id != o.id) ∧ gt.regs = g.regs ∧
      ∀ f, o.flag = some f → o.flag2 = none → gt.flags.getD f 0 = g.flags.getD f 0 - 1

/-- A collective's command that has sent this device's words: every other member has sent as many as `m` of an operation of its kind, and each of the `m` results of
`n` bytes can be written. -/
structure Combines (s : State) (cl : Nat) (c : Cmd) (others : List (Bool × List DWord)) (key : Nat → Nat) (a n m : Nat) : Prop where
  mem : Memory.wf s.mem = true
  there : (s.cl cl).link.find? (·.id == c.id) = some c
  sent : c.sent = true
  active : (s.ctx c.slot).state = .active
  all : others.length + 1 = collN (s.collCtrl c.slot c.kind.coll)
  each : ∀ o ∈ others, o.2.length = m ∧ o.1 = c.kind.isXred
  keys : ∀ j < m, s.rangeKeys c.gid.cluster c.slot (a + n * j) n needW = .ok ((List.range n).map fun i => key (n * j + i))
  dist : distinct key (n * m)

end Sys2Proof.Claims

/-- R94-R96, R99, R130, R131, R132, R280, R281: ACP copies its bytes, then credits its barrier; a page that is absent suspends a command, another fault fails its batch. The link
engine sends a member's words, and the instruction completes at their acknowledgement; with the words of all N members, and no more, the results are written and the barrier
credited. A member that sends none ends the operation with COLL_ABORT, one of another kind or block count with COLL_MISMATCH, and no result is written. A BWAIT of 2 ms times
out. That one event performs a command to its end is log 35, what the commands of a timed-out BWAIT come to log 36, the form of a link fault's record log 39, that an operation which
has ended has nothing to wait for log 45, how a member's words come log 47: the model's choices. -/
def Obligations.EngineCommands : Prop :=
  (∀ (s : State) (cl : Nat) (c : Cmd) (ss ds : Space) (src dst len : Nat) (bar : Option Nat), Memory.wf s.mem = true → cl < s.clusters.length →
    (s.cl cl).copy.find? (·.id == c.id) = some c → s.cmdReady c = true → c.sent = false → c.pos = 0 → c.kind = .acp ss ds src dst len bar → len % 16 = 0 →
    let ev := Instr.engineOperation cl .copy c.id
    (∀ sk dk : Nat → Nat,
      (∀ u, Undisturbed s u (fun x => ∃ o < len, x = dk o) → ∀ j < len / 16,
        u.engKeys c ss (src + 16 * j) 16 false = .ok ((List.range 16).map fun i => sk (16 * j + i)) ∧
        u.engKeys c ds (dst + 16 * j) 16 true = .ok ((List.range 16).map fun i => dk (16 * j + i))) →
      distinct dk len → (∀ o < len, ∀ p < len, sk o ≠ dk p) →
      ∃ u t : State, Undisturbed s u (fun x => ∃ o < len, x = dk o) ∧ (∀ o < len, u.mem.get (dk o) = s.mem.get (sk o)) ∧
        (bar = none → Ended s t ev cl .copy c ∧ t.mem = u.mem ∧ t.groups.map (·.regs) = s.groups.map (·.regs)) ∧
        (∀ b, bar = some b → (u.credit c b len).2.2 = .fin → Ended s t ev cl .copy c ∧ t.mem = (u.credit c b len).1.mem ∧
          t.groups.map (·.regs) = s.groups.map (·.regs))) ∧
    (∀ f a, 0 < len → s.engKeys c ss src 16 false = .error (f, a) →
      (f = .pageAbsent → ∃ t, exec ev s = .next t ∧ t.last = .event ∧
        (t.cl cl).copy = (s.cl cl).copy.map fun x => if x.id = c.id then { c with susp := some (s.clock.toNat, a) } else x) ∧
      (f.cls = .fatal → ∃ t, Ended s t ev cl .copy c ∧ t.mem = s.mem ∧ ∀ (gi : Nat) (g : Group),
        s.groups.findIdx? (fun g => g.gid == c.gid && g.tag == c.tag) = some gi → s.groups[gi]? = some g → c.id ∈ g.openLeft → g.openFail = none →
        ∃ gt, t.groups[gi]? = some gt ∧ gt.openFail = some { code := f, addr := a } ∧ c.id ∉ gt.openLeft ∧ gt.regs = g.regs))) ∧
  (∀ (s : State) (cl : Nat) (c : Cmd), cl < s.clusters.length → (s.cl cl).link.find? (·.id == c.id) = some c → s.cmdReady c = true → c.sent = false →
    let ev := Instr.engineOperation cl .link c.id
    (s.collWindows c.slot c.kind.coll = false → ∃ t, Ended s t ev cl .link c) ∧
    (∀ ws, s.collWindows c.slot c.kind.coll = true → s.linkWords c = .ok ws → exec ev s = .next { s with
      last := .event
      clusters := s.clusters.set cl { s.cl cl with link := (s.cl cl).link.map fun x => if x.id = c.id then { c with todo := ws, sent := true } else x } }) ∧
    (∀ bar src dst nb coll, c.kind = .xscale bar src dst nb coll → ∀ xs : Nat → List Nat, (∀ b < nb, s.readWords c (src + 128 * b) 32 = .ok (xs b)) →
      s.linkWords c = .ok ((List.range nb).map fun b => (dst + 8 * b, 8, (xscaleWord (xs b)).toNat))) ∧
    (∀ bar data scl nb coll, c.kind = .xred bar data scl nb coll → ∀ (sw : Nat → Nat) (xs : Nat → List Nat),
      (∀ b < nb, s.engRead c (scl + 8 * b) 8 = .ok (sw b) ∧ s.readWords c (data + 128 * b) 32 = .ok (xs b)) →
      s.linkWords c = .ok (((List.range (32 * nb)).map fun i => (data + 4 * i, 4,
          if (sw (i / 32)).testBit (32 + i % 32) then 0 else (BitVec.ofInt 64 (xredQuant (BitVec.ofNat 16 (sw (i / 32))).toInt ((xs (i / 32)).getD (i % 32) 0))).toNat)) ++
        (List.range nb).map fun b => (scl + 8 * b, 8, sw b)))) ∧
  (∀ (s : State) (gi k id : Nat) (g : Group) (o : Op), s.findOp gi k = some (g, o) → o.kind = .coll id →
    (∀ c ∈ (s.cl g.gid.cluster).link, c.id = id → c.sent = true) →
    ∃ gt, exec (.acknowledgement gi k) s = .next { s with groups := s.groups.set gi gt, last := .event } ∧ Left g gt o ∧
      gt = { g with ops := gt.ops, flags := gt.flags, acks := gt.acks }) ∧
  (∀ (s : State) (cl : Nat) (c : Cmd) (others : List (Bool × List DWord)) (key : Nat → Nat), cl < s.clusters.length →
    let ev := Instr.collectiveCompletion cl c.id others
    (∀ bar src dst nb coll (own : Nat → DWord), c.kind = .xscale bar src dst nb coll → Combines s cl c others key dst 8 nb →
      c.todo = ((List.range nb).map fun b => (dst + 8 * b, 8, (own b).toNat)) →
      ∃ u t : State, Undisturbed s u (fun x => ∃ o < 8 * nb, x = key o) ∧
        Stands s u key 8 nb (fun b => ((others.map fun o => o.2.getD b 0).foldl xscaleCombine (own b)).toNat) ∧
        ((u.credit c bar (8 * nb)).2.2 = .fin → Ended s t ev cl .link c ∧ t.mem = (u.credit c bar (8 * nb)).1.mem)) ∧
    (∀ bar data scl nb coll (own scale : Nat → DWord), c.kind = .xred bar data scl nb coll → Combines s cl c others key data 4 (32 * nb) →
      c.todo = ((List.range (32 * nb)).map fun i => (data + 4 * i, 4, (own i).toNat)) ++ ((List.range nb).map fun b => (scl + 8 * b, 8, (scale b).toNat)) →
      ∃ u t : State, Undisturbed s u (fun x => ∃ o < 4 * (32 * nb), x = key o) ∧
        Stands s u key 4 (32 * nb) (fun i => xredResult ((scale (i / 32)).setWidth 16).toInt ((scale (i / 32)).getLsbD (32 + i % 32))
          ((others.map fun o => o.2.getD i 0).foldl (· + ·) (own i))) ∧
        ((u.credit c bar (128 * nb)).2.2 = .fin → Ended s t ev cl .link c ∧ t.mem = (u.credit c bar (128 * nb)).1.mem)) ∧
    (Memory.wf s.mem = true → (s.cl cl).link.find? (·.id == c.id) = some c → c.sent = true → (s.ctx c.slot).state = .active →
      let N := collN (s.collCtrl c.slot c.kind.coll)
      let h := (s.ctx c.slot).tqHeader
      let r := h + 64 + 64 * (s.mem.num h 4 % (s.ctx c.slot).tqN)
      let ends (code : Nat) : Prop := ∃ t, Ended s t ev cl .link c ∧ t.mem.num (r + 4) 4 = code + 2 * 2 ^ 16 + 6 * 2 ^ 20 ∧
        ∀ x, ¬ (h ≤ x ∧ x < h + 4) → ¬ (r ≤ x ∧ x < r + 64) → t.mem.get x = s.mem.get x
      (N < others.length + 1 → exec ev s = .next { s with last := .nothing }) ∧
      (0 < s.tqFree c.slot → others.length + 1 < N → ends 0x0409) ∧
      (∀ bar src dst nb coll, 0 < s.tqFree c.slot → others.length + 1 = N → c.kind = .xscale bar src dst nb coll →
        (∃ o ∈ others, o.1 = true ∨ o.2.length ≠ nb) → ends 0x0408) ∧
      (∀ bar data scl nb coll, 0 < s.tqFree c.slot → others.length + 1 = N → c.kind = .xred bar data scl nb coll →
        (∃ o ∈ others, o.1 = false ∨ o.2.length ≠ 32 * nb) → ends 0x0408))) ∧
  ∀ (s : State) (gi : Nat) (g : Group) (w : BWaiting) (p : Path), s.groups[gi]? = some g → g.bwait = [w] → g.path w.pid = some p → g.st = .run → p.st = .run →
    w.still = none → w.since + 7200000 ≤ s.clock.toNat → (s.ctx g.slot).state = .active →
    let cl := g.gid.cluster
    let live := w.ids.filterMap fun k => (s.cl cl).findCmd k
    live ≠ [] → (∀ o ∈ g.ops, ∀ k, o.kind ≠ .engine k ∧ o.kind ≠ .coll k) →
    ∃ t, exec (.asyncTimeout gi) s = .next t ∧ t.last = .event ∧ (∀ x ∈ live, x.2 ∉ (t.cl cl).queue x.1) ∧
      (g.ops.any Op.awaited = true → ∃ gt, t.groups[gi]? = some gt ∧ gt.st = .trapping { code := .asyncTimeout } p.pc p.pc p.id ∧ gt.regs = g.regs ∧ gt.bwait = []) ∧
      (CanEnter s g → ∃ k, k = { g with openLeft := k.openLeft, openFail := k.openFail, batches := k.batches, bwait := [] } ∧
        Entered s t gi k { code := .asyncTimeout } p.pc p.pc p.id)

namespace Sys2Proof.Claims

/-- The tiles' elements are listed in rising order, and none of them is zero: the form that every step keeps. -/
def tilesWf (s : State) : Prop := (s.tiles.map (·.1)).Pairwise (· < ·) ∧ ∀ p ∈ s.tiles, p.2 ≠ 0

/-- Element `k` of a tile. -/
def tileAt (s : State) (cl z k : Nat) : Nat := ((s.tileElems cl z 0 16384).getD k 0).toNat

/-- Every tile but one is as before. -/
def OtherTiles (s t : State) (cl z : Nat) : Prop := ∀ cl' z', ¬ (cl' = cl ∧ z' = z) → z' < 32 → z < 32 → ∀ k < 16384, tileAt t cl' z' k = tileAt s cl' z' k

/-- The numbers that TMATCH finds for keys (R207): `E` are the eliminated tokens, of even index; `best` is the partner of each even token, of odd index and with the
greatest score, the lower on a tie; `E` has the greatest best scores, the lower index first on a tie. KIDX lists the kept tokens in order, DST names each token's row, KSIZE counts. -/
def Matches (keys : List (List Fx)) (r : Nat) (dst kidx size : Nat → Nat) : Prop :=
  let T := keys.length
  let score (a b : Nat) : Nat := keyScore (keys.getD a []) (keys.getD b []) ((keys.getD a []).length / 32) 0
  ∃ (E : List Nat) (best : Nat → Nat), E.Nodup ∧ E.length = r ∧ (∀ i ∈ E, i < T ∧ i % 2 = 0) ∧
    (2 ≤ T → ∀ i < T, i % 2 = 0 → best i < T ∧ best i % 2 = 1 ∧ ∀ b < T, b % 2 = 1 →
      scoreLt (score i (best i)) (score i b) = false ∧ (b < best i → scoreLt (score i b) (score i (best i)) = true)) ∧
    (∀ i ∈ E, ∀ j < T, j % 2 = 0 → j ∉ E → scoreLt (score i (best i)) (score j (best j)) = false ∧
      (j < i → scoreLt (score j (best j)) (score i (best i)) = true)) ∧
    (∀ j < T - r, kidx j < T ∧ kidx j ∉ E) ∧ (∀ j, j + 1 < T - r → kidx j < kidx (j + 1)) ∧
    (∀ i < T, dst i < T - r ∧ kidx (dst i) = if i ∈ E then best i else i) ∧
    ∀ j < T - r, numberOf (F32.decode (size j)) = ((List.range T).countP fun i => dst i = j) ∧ size j < 2 ^ 31

end Sys2Proof.Claims

/-- R177, R179, R181, R182, R186, R189: the Lathe does the next K-block of its oldest ready command: LZERO clears its tile, LREAD writes a row to four resident registers, LLOAD
reads a tile's rows and LSTORE writes them, each element converted as R181 says, LMMA adds the fixed-tree product of 32 columns, LMMV that of 32 elements of each row of a row group
with each vector. R191-R194: a stream is accepted with its descriptor or fails, with FAIL in its completion word, and a finished step empties its slots and writes that word. Where a
slot's range ends is log 56. -/
def Obligations.LatheEvents : Prop :=
  (∀ (s : State) (cl : Nat) (c : Cmd), cl < s.clusters.length → c.gid.cluster = cl → (s.cl cl).lathe.find? (fun c => s.latheReady cl c) = some c →
    let ev := Instr.latheKBlock cl
    let z (zt : Nat) := s.teamTile c.tag zt
    (∀ zt, c.kind = .lzero zt → ∃ t, Ended s t ev cl .lathe c ∧ (∀ k < 16384, tileAt t cl (z zt) k = 0) ∧ OtherTiles s t cl (z zt) ∧ t.mem = s.mem) ∧
    (∀ (zt d row gi : Nat) (g : Group), c.kind = .lread zt d row → row < 128 → tilesWf s → Shaped g → d + 4 ≤ g.vbud →
      s.groups.findIdx? (fun g => g.gid == c.gid && g.tag == c.tag) = some gi → s.groups[gi]? = some g → (∀ q < 4, d + q ∈ g.vres) →
      ∃ t gt, Ended s t ev cl .lathe c ∧ t.groups[gi]? = some gt ∧ t.tiles = s.tiles ∧ t.mem = s.mem ∧
        (∀ q < 4, ∀ l < 32, (gt.vlane (d + q) l).toNat = tileAt s cl (z zt) (128 * row + 32 * q + l)) ∧
        (∀ n l, l < 32 → (n < d ∨ d + 4 ≤ n) → gt.vlane n l = g.vlane n l) ∧ gt.regs = { g.regs with v := gt.regs.v }) ∧
    (∀ (zt a st : Nat) (f32 : Bool) (F : FmtBlock) (v sc : Nat → Nat), c.kind = .lload zt a st f32 F → c.pos = 0 → tilesWf s →
      let eb := if f32 then 32 else elemBits F.fmt
      (∀ m < 128, s.tagRead c (a + m * st) (16 * eb) = .ok (v m) ∧
        (f32 = false → F.fmt < 3 → s.tagRead c (tagAddr F.ssp (F.saddr + m * (128 / F.bl))) (128 / F.bl) = .ok (sc m))) →
      ∃ t, Ended s t ev cl .lathe c ∧ t.mem = s.mem ∧ OtherTiles s t cl (z zt) ∧ ∀ m < 128, ∀ n < 128,
        let x := v m / 2 ^ (eb * n) % 2 ^ eb
        tileAt t cl (z zt) (128 * m + n) = if f32 then x else
          (roundFx F32 (.dir .rne) false (F.elem (if F.fmt < 3 then sc m / 2 ^ (8 * (n / F.bl)) % 256 else 0) x)).1 % 2 ^ 32) ∧
    (∀ (zt a st : Nat) (f32 sat : Bool) (F : FmtBlock) (key sk : Nat → Nat), c.kind = .lstore zt a st f32 sat F → c.pos = 0 → (F.bl = 16 ∨ F.bl = 32) →
      let eb := if f32 then 32 else elemBits F.fmt
      let nb := if f32 = false ∧ F.fmt < 3 then 128 / F.bl else 0
      let W (x : Nat) : Prop := (∃ o < 128 * (16 * eb), x = key o) ∨ ∃ o < 128 * nb, x = sk o
      distinct key (128 * (16 * eb)) → distinct sk (128 * nb) → (∀ o < 128 * (16 * eb), ∀ p < 128 * nb, key o ≠ sk p) →
      (∀ u, Calm s u W → ∀ m < 128, u.tagKeys c (a + m * st) (16 * eb) true = .ok ((List.range (16 * eb)).map fun i => key (m * (16 * eb) + i)) ∧
        (0 < nb → u.tagKeys c (tagAddr F.ssp (F.saddr + m * nb)) nb true = .ok ((List.range nb).map fun i => sk (m * nb + i)))) →
      ∃ t, Ended s t ev cl .lathe c ∧ t.tiles = s.tiles ∧ (∀ x, ¬ W x → t.mem.get x = s.mem.get x) ∧ ∀ m < 128,
        let x (n : Nat) : Nat := tileAt s cl (z zt) (128 * m + n)
        let d (b : Nat) : Nat × Nat := dxbDeltas (dxbK F.fmt) F.e ((List.range F.bl).map fun j => x (b * F.bl + j))
        let row := wordOfBytes ((List.range (16 * eb)).map fun i => t.mem.get (key (m * (16 * eb) + i)))
        (∀ n < 128, row / 2 ^ (eb * n) % 2 ^ eb = if f32 then x n
          else if F.fmt < 3 then (dxbEncode (dxbK F.fmt) F.e (d (n / F.bl)).1 (d (n / F.bl)).2 (fun _ => .dir .rne) (x n)).1
          else (cvtFF (fmtTy F.fmt) .f32 (.dir .rne) sat (x n)).1) ∧
        ∀ b < nb, (t.mem.get (sk (m * nb + b))).toNat = (d b).1 * 16 + (d b).2) ∧
    (∀ (zt zx w k n nb : Nat) (F : FmtBlock) (R : Nat → List (Option Fx)), c.kind = .lmmv zt zx w k n nb F → tilesWf s → k % 32 = 0 → 0 < k → n * nb ≤ 16384 →
      let nk := k / 32
      let kb := c.pos % nk
      let r0 := 128 * (c.pos / nk)
      let len := min n (r0 + 128) - r0
      r0 < n → (∀ i < len, s.chunk c F (rowsAt F w k false) kb (r0 + i) = .ok (R i)) →
      ∃ t, exec ev s = .next t ∧ t.last = .event ∧ t.mem = s.mem ∧ OtherTiles s t cl (z zt) ∧ t.groups.map (·.regs) = s.groups.map (·.regs) ∧
        (∀ b < nb, ∀ i < len, tileAt t cl (z zt) (b * n + r0 + i) = (dotStep (tileAt s cl (z zt) (b * n + r0 + i)) (R i)
          ((List.range 32).map fun j => some (F32.decode (tileAt s cl (z zx) (b * k + 32 * kb + j))))).1 % 2 ^ 32) ∧
        (∀ e < 16384, (∀ b < nb, e < b * n + r0 ∨ b * n + r0 + len ≤ e) → tileAt t cl (z zt) e = tileAt s cl (z zt) e) ∧
        (nk * ((n + 127) / 128) ≤ c.pos + 1 → (t.cl cl).lathe = (s.cl cl).lathe.filter fun x => x.id != c.id) ∧
        (c.pos + 1 < nk * ((n + 127) / 128) → (t.cl cl).lathe = (s.cl cl).lathe.map fun x => if x.id = c.id then { c with pos := c.pos + 1 } else x)) ∧
    (∀ (zt a b k : Nat) (sp : Bool) (F G : FmtBlock) (A B : Nat → List (Option Fx)), c.kind = .lmma zt a b k sp F G →
      (∀ m < 128, s.chunk c F (rowsAt F a k sp) c.pos m = .ok (A m) ∧ s.chunk c G (rowsAt G b k false) c.pos m = .ok (B m)) →
      ∃ t, exec ev s = .next t ∧ t.last = .event ∧ t.mem = s.mem ∧ OtherTiles s t cl (z zt) ∧ t.groups.map (·.regs) = s.groups.map (·.regs) ∧
        (∀ i < 128, ∀ j < 128, tileAt t cl (z zt) (128 * i + j) = (dotStep (tileAt s cl (z zt) (128 * i + j)) (A i) (B j)).1 % 2 ^ 32) ∧
        (k / 32 ≤ c.pos + 1 → (t.cl cl).lathe = (s.cl cl).lathe.filter fun x => x.id != c.id) ∧
        (c.pos + 1 < k / 32 → (t.cl cl).lathe = (s.cl cl).lathe.map fun x => if x.id = c.id then { c with pos := c.pos + 1 } else x)) ∧
    (∀ (zt a b k : Nat) (sp : Bool) (F G : FmtBlock) (f : FCode) (x m : Nat), c.kind = .lmma zt a b k sp F G → f.cls = .fatal → m < 128 →
      (∀ n < m, ∃ y, s.chunk c F (rowsAt F a k sp) c.pos n = .ok y) → s.chunk c F (rowsAt F a k sp) c.pos m = .error (f, x) →
      ∃ t, Ended s t ev cl .lathe c ∧ t.tiles = s.tiles ∧ t.mem = s.mem)) ∧
  (∀ (s : State) (cl : Nat) (c : Cmd) (zt desc : Nat) (F G : FmtBlock) (ks : List Nat), Memory.wf s.mem = true → cl < s.clusters.length →
    (s.cl cl).lathe.find? (fun c => c.isStream && !c.accepted) = some c → s.cmdReady c = true → c.kind = .stream zt desc F G none →
    s.teamKeys c.tag desc 64 = .ok ks →
    let ev := Instr.streamAcceptance cl c.id
    let v := wordOfBytes (s.mem.getAll ks)
    let sh := (s.team c.tag).elim 0 (·.shBytes)
    let d := streamOf v
    let reserved := v / 2 ^ 210 % 2 ^ 14 ≠ 0 ∨ v / 2 ^ 256 ≠ 0
    (¬ reserved → d.ok F G sh = true → (d.sp = true → F.b16 = false) → ∃ t, exec ev s = .next t ∧ t.last = .event ∧ t.mem = s.mem ∧
      (t.cl cl).lathe = ((s.cl cl).lathe.map fun x => if x.id = c.id then { c with kind := .stream zt desc F G (some d) } else x) ∧
      Completed s t c (.engine c.id)) ∧
    ((reserved ∨ d.ok F G sh = false) → ∀ key, s.teamKeys c.tag d.cword 4 = .ok ((List.range 4).map (key + ·)) → d.cword % 4 = 0 → 0 < s.tqFree c.slot →
      let h := (s.ctx c.slot).tqHeader
      let r := h + 64 + 64 * (s.mem.num h 4 % (s.ctx c.slot).tqN)
      apart key 4 h 64 → apart key 4 r 64 → ∃ t, Ended s t ev cl .lathe c ∧ t.mem.num (r + 4) 4 = 0x0302 + 2 ^ 16 + 3 * 2 ^ 20 ∧
        t.mem.num key 4 = 2 ^ 30 + c.pos % 2 ^ 24)) ∧
  (∀ (s : State) (cl : Nat) (c : Cmd) (zt desc : Nat) (F G : FmtBlock) (d : StreamDesc) (key : Nat), Memory.wf s.mem = true → cl < s.clusters.length →
    (s.cl cl).lathe.find? (·.id == c.id) = some c → s.cmdReady c = true → c.kind = .stream zt desc F G (some d) → c.sub = d.ks / 32 → d.cword % 4 = 0 →
    s.teamKeys c.tag d.cword 4 = .ok ((List.range 4).map (key + ·)) →
    ∃ t, exec (.streamStep cl c.id) s = .next t ∧ t.last = .event ∧
      (∀ x, x ∈ t.fe ↔ x ∈ s.fe ∧ x ≠ s.slotGranule c.tag (d.aring + c.pos % d.aslots * d.astride) ∧ x ≠ s.slotGranule c.tag (d.bring + c.pos % d.bslots * d.bstride)) ∧
      t.mem.num key 4 = (c.pos + 1) % 2 ^ 24 + (if d.nstep ≤ c.pos + 1 then 2 ^ 31 else 0) ∧ (∀ x, x < key ∨ key + 4 ≤ x → t.mem.get x = s.mem.get x) ∧
      (c.pos + 1 < d.nstep → (t.cl cl).lathe = (s.cl cl).lathe.map fun x => if x.id = c.id then { c with pos := c.pos + 1, sub := 0 } else x) ∧
      (d.nstep ≤ c.pos + 1 → (t.cl cl).lathe = (s.cl cl).lathe.filter fun x => x.id != c.id))

namespace Sys2Proof.Claims

/-- `o` is `round(acc / S)` in a row's format (R208): the neighbour of the quotient, a zero with the quotient's sign, or NaN. The quotient of a zero or of two infinities is a
free value (log 41). -/
def MergeQuotient (f : RowFmt) (acc S o : Nat) : Prop :=
  let fm := fmtOf (rowFmtTy f)
  let a := F32.decode acc
  let b := F32.decode S
  ((a.isNan || b.isNan) = true → o = fm.nan) ∧
  ((a.isNan || a.isInf || b.isNan || b.isInf || b.isZero) = false →
    (a.isZero = true → (fm.decode o).isZero = true ∧ (fm.decode o).sign = xor a.sign b.sign) ∧
    (a.isZero = false → ∃ c, RoundsTo fm .rne false (xor a.sign b.sign) ((numberOf a / numberOf b : ℚ) : ℝ) (o, c)))

/-- Row `j` of a merge and its size, from the rows `x` and sizes `s` of its sources `I` (R208). -/
def MergedRow (f : RowFmt) (width : Nat) (I : List Nat) (x s : Nat → Nat) (row size : Nat) : Prop :=
  let w := 8 * rowFmtBytes f
  let el (v e : Nat) : Nat := v / 2 ^ (w * e) % 2 ^ w
  (∀ i, I = [i] → row = x i ∧ size = s i) ∧
  (I.length ≠ 1 → size = I.foldl (fun t i => (fpAdd F32 .rne false t (s i)).1) 0 ∧
    ∀ e < width, MergeQuotient f (I.foldl (fun t i => (fpFma F32 .rne false (s i) (cvtFF .f32 (rowFmtTy f) (.dir .rne) false (el (x i) e)).1 t).1) 0) size (el row e))

end Sys2Proof.Claims

/-- R203-R209: the Trowel performs its oldest command. TMATCH writes the map of its keys; TMERGE writes each merged row and its size; TUNMERGE copies to each token the row that
DST names and marks the map used; a map that is used or of another generation is MAP_STALE, and fails its batch. The order of a header's checks is log 81, and which fault of a range
is TOKEN_RANGE log 42. -/
def Obligations.TrowelCommands : Prop :=
  ∀ (s : State) (cl : Nat) (c : Cmd) (rest : List Cmd), Memory.wf s.mem = true → cl < s.clusters.length → (s.cl cl).trowel = c :: rest → s.cmdReady c = true →
    let ev := Instr.trowelCommand cl
    (∀ (map keys T r depth dim : Nat) (f : RowFmt) (ks : List (List Fx)) (key : Nat → Nat), c.kind = .tmatch map keys T r depth dim f →
      let total := 32 + 4 * T + 8 * (T - r)
      let W (x : Nat) : Prop := ∃ o < total, x = key o
      0 < T → T ≤ 65535 → 2 * r ≤ T + 1 → (r ≠ 0 → 2 ≤ T) → depth < 2 ^ 32 → s.readKeys c keys T dim f = .ok ks → distinct key total →
      (∀ u, Calm s u W → ∀ j < total / 4, u.tagKeys c (map + 4 * j) 4 true = .ok ((List.range 4).map fun i => key (4 * j + i))) →
      ∃ (t : State) (dst kidx size : Nat → Nat), Ended s t ev cl .trowel c ∧ Matches ks r dst kidx size ∧
        let w (j : Nat) : Nat := wordOfBytes ((List.range 4).map fun i => t.mem.get (key (4 * j + i)))
        w 0 = T ∧ w 1 = T - r ∧ w 2 = depth ∧ w 3 = (s.ctx c.slot).mapGen.toNat ∧ (∀ i < T, w (8 + i) = dst i) ∧
        (∀ j < T - r, w (8 + T + j) = kidx j ∧ w (8 + T + (T - r) + j) = size j) ∧
        (∀ o, 16 ≤ o → o < 32 → t.mem.get (key o) = s.mem.get (key o)) ∧ ∀ x, ¬ W x → t.mem.get x = s.mem.get x) ∧
    (∀ (out inp map width : Nat) (size : Option Nat) (f : RowFmt) (m : TMap) (dst : List Nat) (sz src key kz : Nat → Nat),
      c.kind = .tmerge out inp map size width f →
      let rb := width * rowFmtBytes f
      let ksize := map + 0x20 + 4 * m.src + 4 * m.kept
      let W (x : Nat) : Prop := (∃ o < m.kept * rb, x = key o) ∨ ∃ o < 4 * m.kept, x = kz o
      s.openMap c map (fun _ => out) (fun m => m.src * rb) (fun m => (inp, m.src * rb) :: (size.map fun a => (a, 4 * m.src)).toList)
        (fun m => [(map + 0x20 + 4 * m.src + 4 * m.kept, 4 * m.kept)]) = .ok (m, dst) →
      (size = none → ∀ i, sz i = 0x3F800000) → (∀ a, size = some a → s.tagWords c a m.src = .ok ((List.range m.src).map sz)) →
      distinct key (m.kept * rb) → distinct kz (4 * m.kept) → (∀ o < m.kept * rb, ∀ p < 4 * m.kept, key o ≠ kz p) → (∀ o < m.src * rb, ¬ W (src o)) →
      (∀ u, Undisturbed s u W → (∀ i < m.src, u.tagKeys c (inp + i * rb) rb false = .ok ((List.range rb).map fun o => src (i * rb + o))) ∧
        ∀ j < m.kept, u.tagKeys c (out + j * rb) rb true = .ok ((List.range rb).map fun o => key (j * rb + o)) ∧
          u.tagKeys c (ksize + 4 * j) 4 true = .ok ((List.range 4).map fun o => kz (4 * j + o))) →
      ∃ t, Ended s t ev cl .trowel c ∧ (∀ x, ¬ W x → t.mem.get x = s.mem.get x) ∧ ∀ j < m.kept,
        MergedRow f width ((List.range m.src).filter fun i => dst.getD i 0 == j) (fun i => wordOfBytes ((List.range rb).map fun o => s.mem.get (src (i * rb + o)))) sz
          (wordOfBytes ((List.range rb).map fun o => t.mem.get (key (j * rb + o)))) (wordOfBytes ((List.range 4).map fun o => t.mem.get (kz (4 * j + o))))) ∧
    (∀ (out inp map width : Nat) (f : RowFmt) (m : TMap) (dst : List Nat) (src key : Nat → Nat) (k8 : Nat),
      c.kind = .tunmerge out inp map width f →
      let rb := width * rowFmtBytes f
      let W (x : Nat) : Prop := (∃ o < m.src * rb, x = key o) ∨ (k8 ≤ x ∧ x < k8 + 4)
      s.openMap c map (fun _ => out) (fun m => m.src * rb) (fun m => [(inp, m.kept * rb)]) (fun _ => [(map, 32)]) = .ok (m, dst) →
      distinct key (m.src * rb) → (∀ o < m.src * rb, key o < k8 ∨ k8 + 4 ≤ key o) → (∀ o < m.kept * rb, ¬ W (src o)) →
      (∀ u, Undisturbed s u W → (∀ d < m.kept, u.tagKeys c (inp + d * rb) rb false = .ok ((List.range rb).map fun i => src (d * rb + i))) ∧
        (∀ d < m.src, u.tagKeys c (out + d * rb) rb true = .ok ((List.range rb).map fun i => key (d * rb + i))) ∧
        u.tagKeys c (map + 8) 4 true = .ok ((List.range 4).map (k8 + ·))) →
      ∃ t, Ended s t ev cl .trowel c ∧ (∀ i < m.src, ∀ b < rb, t.mem.get (key (i * rb + b)) = s.mem.get (src (dst.getD i 0 * rb + b))) ∧
        t.mem.num k8 4 = m.ctrl + 2 ^ 8 ∧ ∀ x, ¬ W x → t.mem.get x = s.mem.get x) ∧
    (∀ (out inp map width : Nat) (size : Option Nat) (f : RowFmt) (m : TMap), (c.kind = .tunmerge out inp map width f ∨ c.kind = .tmerge out inp map size width f) →
      s.mapHead c map = .ok m →
      (m.gen ≠ (s.ctx c.slot).mapGen.toNat ∨ m.ctrl.testBit 8 = true) → ∃ t, Ended s t ev cl .trowel c ∧ t.mem = s.mem ∧
        ∀ (gi : Nat) (g : Group), s.groups.findIdx? (fun g => g.gid == c.gid && g.tag == c.tag) = some gi → s.groups[gi]? = some g → c.id ∈ g.openLeft →
          g.openFail = none → ∃ gt, t.groups[gi]? = some gt ∧ gt.openFail = some { code := .mapStale, addr := map })

namespace Sys2Proof.Claims

/-- One group of a state goes before another in a commit round (R237): launch age, team linear index, TGIDX. -/
def before (s : State) (i j : Nat) : Prop := ∀ g h, s.groups[i]? = some g → s.groups[j]? = some h →
  g.lage < h.lage ∨ (g.lage = h.lage ∧ (g.tlin < h.tlin ∨ (g.tlin = h.tlin ∧ g.tgidx ≤ h.tgidx)))

/-- A step of an atomic, and what it makes of a memory: its result, and the memory after (R252, R253). -/
def stepOn (st : KStep) (m : Mem) (r : KRes) (m' : Mem) : Prop :=
  let keeps (w : Nat) : Prop := ∀ x, (x < st.key ∨ st.key + w ≤ x) → m'.get x = m.get x
  Memory.wf m' = true ∧ match st.act with
    | .atom op w v => atomicNew op (8 * w) (m.num st.key w) v (m'.num st.key w) ∧ keeps w ∧ r = ⟨st.lane, m.num st.key w, true⟩
    | .cas w x y => m'.num st.key w = (if m.num st.key w = x then y else m.num st.key w) ∧ keeps w ∧ r = ⟨st.lane, m.num st.key w, decide (m.num st.key w = x)⟩
    | _ => False

/-- The steps of an atomic, in lane order. -/
def stepsOn : List KStep → Mem → List KRes → Mem → Prop
  | [], m, rs, m' => rs = [] ∧ m' = m
  | st :: r, m, rs, m' => ∃ m1 x xs, rs = x :: xs ∧ stepOn st m x m1 ∧ stepsOn r m1 xs m'

/-- A step is an atomic's, its operands in range, at a place that is not poisoned. -/
def atomicStep (s : State) (st : KStep) : Prop := s.poisoned st.key = false ∧
  ((∃ op w v, st.act = .atom op w v ∧ w ∈ [4, 8] ∧ v < 2 ^ (8 * w)) ∨ ∃ w x y, st.act = .cas w x y ∧ w ∈ [4, 8, 16] ∧ x < 2 ^ (8 * w) ∧ y < 2 ^ (8 * w))

/-- A buffered store or atomic, and what it makes of a memory. -/
def bufferedOn (o : Op) (m m' : Mem) : Prop := match o.kind with
  | .store acc n => m' = m.setAll (storeBytes o.pv n acc)
  | .kiln todo _ _ _ _ _ => ∃ rs, stepsOn todo m rs m'
  | _ => False

/-- A commit buffer applied to a memory, in program order. -/
def bufferOn : List Op → Mem → Mem → Prop
  | [], m, m' => m' = m
  | o :: r, m, m' => ∃ m1, bufferedOn o m m1 ∧ bufferOn r m1 m'

/-- The buffers of some groups applied to a memory, one group after another. -/
def roundOn (s : State) : List Nat → Mem → Mem → Prop
  | [], m, m' => m' = m
  | i :: r, m, m' => ∃ m1, bufferOn ((s.groups[i]?).elim [] (·.cbuf)) m m1 ∧ roundOn s r m1 m'

/-- A group's buffer holds stores and atomics alone, the registers that these write are resident, and nothing of the group is in flight. -/
def storesAndAtomics (s : State) (g : Group) : Prop :=
  g.ops = [] ∧ g.st = .run ∧ (g.cbuf.map (·.id)).Nodup ∧ ∀ o ∈ g.cbuf, o.late = none ∧ (∀ n ∈ vRefs o.dsts, n ∈ g.vres) ∧
    ((∃ acc n, o.kind = .store acc n) ∨ ∃ todo d n px uni, o.kind = .kiln todo [] d n px uni ∧ ∀ st ∈ todo, atomicStep s st)

/-- A byte that a D-mode group has stored at once since the last round (R238). -/
def stored (s : State) (i x : Nat) : Option Byte := (s.groups[i]?).bind fun g => g.own x

/-- The memory that a round's buffers are applied to (R240, log 112): bytes that two of its groups have stored at once are as the later of them left them. -/
def settledMem (s : State) (ks : List Nat) (m : Mem) : Prop :=
  (∀ x, (∀ i ∈ ks, ∀ j ∈ ks, stored s i x ≠ none → stored s j x ≠ none → i = j) → m.get x = s.mem.get x) ∧
  ∀ x b pre i post, ks = pre ++ i :: post → stored s i x = some b → (∃ j ∈ pre, stored s j x ≠ none) → (∀ j ∈ post, stored s j x = none) → m.get x = b

/-- A commit round of a context may take place, and nothing but the buffers of its groups waits for it: no launch, packet, task, save, restore or reset (R311, R315). -/
structure PlainRound (s : State) (slot : Nat) : Prop where
  mem : Memory.wf s.mem = true
  ready : s.roundReady slot = true
  launches : ∀ l ∈ s.launches, l.slot = slot → l.dmode = true → s.isReady l = false ∧ l.total ≠ 0 ∧
    (l.trigDone = true ∨ ∃ g ∈ s.groups, g.lage = l.age ∧ g.trig = false ∧ g.paths ≠ []) ∧ (l.trigDone = false ∨ l.doneDone = true ∨ 0 < l.alive)
  packets : (s.ctx slot).hostq = []
  tasks : (s.ctx slot).ready = []
  saved : (s.ctx slot).saved = []
  command : (s.ctx slot).pState ≠ .resetting
  teams : ∀ t ∈ s.teams, t.saving = false ∧ t.leaving = false
  phases : ∀ p ∈ s.spindle, p.full = none

/-- A round of one D-mode group, whose commit buffer holds one operation. -/
structure OneRound (s : State) (slot gi : Nat) (g : Group) (o : Op) : Prop where
  plain : PlainRound s slot
  shape : Shaped g
  here : s.groups[gi]? = some g
  own : g.slot = slot
  dmode : g.dmode = true
  ops : g.ops = []
  cbuf : g.cbuf = [o]
  fresh : g.fresh = []
  st : g.st = .run
  late : o.late = none
  lines : ∀ n ∈ vRefs o.dsts, n ∈ g.vres
  only : ∀ j h, s.groups[j]? = some h → j ≠ gi → h.slot = slot → h.dmode = false

/-- A group starts its next quantum with these operations in flight. -/
def NextQuantum (s t : State) (slot gi : Nat) (gt : Group) (ops : List Op) : Prop :=
  exec (.commitRound slot) s = .next t ∧ t.last = .event ∧ t.groups[gi]? = some gt ∧ gt.qn = 0 ∧ gt.qend = false ∧ gt.cbuf = [] ∧ gt.ops = ops

/-- Its operation has completed: its flag and its acknowledgement are counted down (R48, R227). -/
def Lowered (g gt : Group) (o : Op) : Prop :=
  gt.flags = ((g.lowerFlag o.flag).lowerFlag o.flag2).flags ∧ gt.acks = if o.counted then g.acks - 1 else g.acks

/-- PX is written in every lane that the path held; all other registers are as before. -/
def OnlyPx (g gt : Group) (o : Op) (px : PReg) (b : Bool) : Prop :=
  gt.regs = { g.regs with p := gt.regs.p } ∧ ∀ n l, n < 64 → l < 32 → gt.pred n l = if n ≠ 0 ∧ n = px.toNat ∧ o.held.getLsbD l = true then b else g.pred n l

/-- A candidate of an issue partition or of its SAP that can issue now (R305). -/
def issuable (s : State) (cl pt : Nat) (sl : Slice) (c : Cand) : Prop :=
  c ∈ s.ranked sl (fun g => g.gid.cluster == cl && g.gid.part == pt) ∧ s.canIssue c = true

/-- A candidate has been one for fewer than 2,048 cycles without issuing (log 78). -/
def recent (s : State) (c : Cand) : Prop := ∀ g, s.groups[c.g]? = some g → ∀ r ∈ s.candsOf c.g g, r.c = c → s.clock.toNat < r.since + 2048

/-- The entries of a task launch's first 65,536 teams are sound, and this is what they say (R298). -/
def goodEntries (s : State) (l : Launch) (es : List (Nat × List Nat × List Nat)) : Prop :=
  l.map ≠ 0 ∧ l.entries = [] ∧ l.dispatched = [] ∧ es.map (·.1) = List.range (min l.total 65536) ∧ ∀ e ∈ es, s.taskSlots l e.1 = .ok (some e.2)

/-- A launch has become ready (R289), the entries of its first teams read where it is a task launch (R298). -/
def Readied (s : State) (l l' : Launch) : Prop :=
  (l.task = false → l' = { l with ready := some s.clock.toNat, lastDisp := s.clock.toNat }) ∧
    (l.task = true → ∀ es, goodEntries s l es → l' = { l with ready := some s.clock.toNat, lastDisp := s.clock.toNat, entries := es })

/-- A packet's launch can be enqueued: it has teams, and where it is ready at once, its entries are sound. -/
def sound (s : State) (l : Launch) : Prop := l.total ≠ 0 ∧ (l.task = true → l.deps = [] → ∃ es, goodEntries s l es)

/-- A launch's packet has joined the queue (R284, R289): with no dependence it is ready at once. -/
def Enqueued (s t : State) (slot : Nat) (bs : List Byte) : Prop :=
  let l := launchOf slot s.nextAge bs
  t.nextAge = s.nextAge + 1 ∧ (t.ctx slot).accepted = (s.ctx slot).accepted + 1 ∧
    ∃ l', t.launches = s.launches ++ [l'] ∧ (l.deps = [] → Readied s l l') ∧ (l.deps ≠ [] → l' = l)

end Sys2Proof.Claims

/-- R46, R47, R305: a line is entered when it is fetched, its parity holds, its line word is in order and the flags of its wait mask are zero; a wrong parity raises
LINE_PARITY. Issue selection chooses the candidate of the oldest group (which of several partitions issues first is log 1; from when a wait counts is log 78). R31, R32, R34: a
register line is filled from its space, or with zeros, after the least recently named is written back when it is dirty. R362: a resident line with an uncorrectable error faults the
instruction that names it, and is not written back. R236-R239: a quantum ends by count; a round applies the stores and atomics of the buffers in the order of R237 to the
memory of log 112. R237, R238, R303: a round performs a buffered atomic, message, launch, fill or full/empty set, and gives an engine its command; a full queue of the
Lathe is log 57. -/
def Obligations.IssueAndRounds : Prop :=
  (∀ (s : State) (gi : Nat) (g : Group) (p : Path) (bs : List Byte), s.groups[gi]? = some g → g.path p.id = some p → s.live g = true → p.st = .run → s.snap = none →
    s.yields g ⟨gi, .c, p.id⟩ = false → latched p.line p.pc = none → s.lineBytesAt g.gid.cluster g.slot (p.pc / 64 * 64) = .ok bs →
    let ev := Instr.lineEntry gi p.id
    let l := Line.ofBytes (p.pc / 64 * 64) bs
    (l.parityOk bs = true → badLine l .c = false → (0 < p.pc % 64 / 12 → l.pair (p.pc % 64 / 12 - 1) = false) → (∀ f < 12, l.wait f = true → g.flags.getD f 0 = 0) →
      ∃ tl, exec ev s = .next { s with
        last := .event, tlbs := tl, groups := s.groups.set gi (Group.withPath g p.id fun q => { q with line := some l }) }) ∧
    (l.parityOk bs = false → CanEnter s g → ∃ t, exec ev s = .next t ∧ t.last = .event ∧
      Entered s t gi g { code := .lineParity, addr := p.pc / 64 * 64 } p.pc p.pc p.id)) ∧
  (∀ (s : State) (cl pt : Nat) (sl : Slice) (c : Cand) (g : Group), issuable s cl pt sl c → s.groups[c.g]? = some g → recent s c →
    (∀ d, issuable s cl pt sl d → recent s d ∧ (d ≠ c → d.g ≠ c.g ∧ ¬ before s d.g c.g)) →
    exec (.issueSelection cl pt sl) s = .next { s with cur := { g := c.g, sl := c.sl, p := c.p, chosen := true }, last := .event }) ∧
  (∀ (s : State) (gi n : Nat) (g : Group), Shaped g → s.groups[gi]? = some g → g.vneed = some n → n < g.vbud → n ∉ g.vres →
    let ev := Instr.registerLineFill gi n false
    let loses (b : Nat → Bool) (gt : Group) : Prop := gt.vneed = none ∧ gt.vres = (g.vres.filter b) ++ [n] ∧ gt.vdirty = g.vdirty.filter b ∧ gt.vwr = g.vwr ∧
      gt.regs = { g.regs with v := gt.regs.v } ∧ ∀ k l, l < 32 → k ≠ n → gt.vlane k l = g.vlane k l
    let zero (gt : Group) : Prop := ∀ l < 32, gt.vlane n l = 0
    (g.vres.length < 128 → g.vwr.contains n = false → ∃ t gt, exec ev s = .next t ∧ t.last = .event ∧ t.mem = s.mem ∧ t.groups = s.groups.set gi gt ∧
      loses (fun _ => true) gt ∧ zero gt) ∧
    (∀ ks, g.vres.length < 128 → g.vwr.contains n = true → s.regKeys g (0x800 + 128 * n) 128 false = .ok ks → ∃ t gt, exec ev s = .next t ∧ t.last = .event ∧
      t.mem = s.mem ∧ t.groups = s.groups.set gi gt ∧ loses (fun _ => true) gt ∧
      ∀ l < 32, (gt.vlane n l).toNat = wordOfBytes ((List.range 4).map fun b => s.mem.get (ks.getD (4 * l + b) 0))) ∧
    (∀ m r, g.vres = m :: r → 127 ≤ r.length → g.vwr.contains n = false →
      (m ∉ g.vdirty → ∃ t gt, exec ev s = .next t ∧ t.last = .event ∧ t.mem = s.mem ∧ t.groups = s.groups.set gi gt ∧ loses (fun x => x != m) gt ∧ zero gt) ∧
      (∀ ks, m ∈ g.vdirty → m ∉ g.vbad → Memory.wf s.mem = true → s.regKeys g (0x800 + 128 * m) 128 true = .ok ks → ks.Nodup → ∃ t gt, exec ev s = .next t ∧
        t.last = .event ∧ t.groups[gi]? = some gt ∧ loses (fun x => x != m) gt ∧ zero gt ∧ t.mem.getAll ks = g.vline m ∧ ∀ x, x ∉ ks → t.mem.get x = s.mem.get x) ∧
      (∀ p, m ∈ g.vdirty → m ∈ g.vbad → g.paths.head? = some p → g.ops.any Op.awaited = true → ∃ t gt, exec ev s = .next t ∧ t.mem = s.mem ∧ t.groups[gi]? = some gt ∧
        gt.st = .trapping { code := .regspaceFault, addr := g.rbase.toNat + (0x800 + 128 * m) } p.pc p.pc p.id ∧ gt.regs = g.regs)) ∧
    (∀ a p, g.vres.length < 128 → g.vwr.contains n = true → s.regKeys g (0x800 + 128 * n) 128 false = .error a → g.paths.head? = some p → g.ops.any Op.awaited = true →
      ∃ t gt, exec ev s = .next t ∧ t.groups[gi]? = some gt ∧ gt.st = .trapping { code := .regspaceFault, addr := a } p.pc p.pc p.id ∧ gt.regs = g.regs)) ∧
  (∀ (s : State) (gi n : Nat) (g : Group), s.groups[gi]? = some g → n ∈ g.vres → n ∉ g.vbad →
    exec (.registerLineFill gi n true) s = .next { s with
      last := .event, groups := s.groups.set gi { g with vbad := g.vbad ++ [n] }, errs := s.errs.modify 3 (· + 1) }) ∧
  (∀ (i : Instr) (s : State) (g : Group) (n : Nat), s.groups[s.cur.g]? = some g → s.snap = none → decodeFault i g s = none → (∀ r ∈ i.refs, r ∉ g.awaited ∧ r ∉ g.buffered) →
    g.missing i.vregs = none → n ∈ i.vregs → n ∈ g.vbad → FaultsFirst i s g .eccUncorrected) ∧
  (∀ (s : State) (gi : Nat) (g : Group), s.groups[gi]? = some g → g.dmode = true → g.qend = false → g.quantum ≤ g.qn →
    exec (.quantumEnd gi) s = .next { s with groups := s.groups.set gi { g with qend := true }, last := .event }) ∧
  (∀ (s : State) (slot : Nat), PlainRound s slot → (∀ g ∈ s.groups, g.slot = slot → g.dmode = true → storesAndAtomics s g) →
    ∃ (t : State) (ks : List Nat) (m : Mem), exec (.commitRound slot) s = .next t ∧ t.last = .event ∧ ks.Nodup ∧ ks.Pairwise (before s) ∧
      (∀ i, i ∈ ks ↔ ∃ g, s.groups[i]? = some g ∧ g.slot = slot ∧ g.dmode = true) ∧ Memory.wf m = true ∧ settledMem s ks m ∧ roundOn s ks m t.mem ∧
      (∀ i ∈ ks, ∀ g, s.groups[i]? = some g → ∃ gt, t.groups[i]? = some gt ∧ gt.qn = 0 ∧ gt.qend = false ∧ gt.cbuf = [] ∧ gt.ops = [] ∧
        ((∀ o ∈ g.cbuf, ∃ acc n, o.kind = .store acc n) → gt.regs = g.regs)) ∧
      ∀ i, i ∉ ks → (t.groups[i]?).map (·.regs) = (s.groups[i]?).map (·.regs)) ∧
  (∀ (s : State) (slot gi : Nat) (g : Group) (o : Op), OneRound s slot gi g o →
    (∀ todo d n px uni, o.kind = .kiln todo [] d n px uni → todo ≠ [] → (∀ st ∈ todo, atomicStep s st) → n ∈ [4, 8, 16] → (todo.map (·.lane)).Nodup →
      destFits g (todo.map (·.lane)) d n →
      ∃ t gt rs, NextQuantum s t slot gi gt [] ∧ Lowered g gt o ∧ stepsOn todo s.mem rs t.mem ∧ Replied g gt o.held rs d n px uni) ∧
    (∀ acc n px uni, o.kind = .fill acc n px uni → px ≠ 0 → (acc.map (·.1)).Nodup → (∀ p ∈ acc, p.1 < 32) →
      ∃ t gt, NextQuantum s t slot gi gt [] ∧ Lowered g gt o ∧ Filled s t g gt o acc n px uni) ∧
    (∀ acc set px, o.kind = .fetest acc set px → (acc.map (·.1)).Nodup → ∃ t gt, NextQuantum s t slot gi gt [] ∧ Lowered g gt o ∧ t.mem = s.mem ∧
      gt.regs = { g.regs with p := gt.regs.p } ∧ (∀ x, x ∈ t.fe ↔ if set then x ∈ s.fe ∨ x ∈ acc.map (·.2) else x ∈ s.fe ∧ x ∉ acc.map (·.2)) ∧
      ∀ q l, q < 64 → l < 32 → (∀ x, q ≠ 0 → q = px.toNat → (l, x) ∈ acc → gt.pred q l = decide (x ∈ s.fe)) ∧
        (q = 0 ∨ q ≠ px.toNat ∨ l ∉ acc.map (·.1) → gt.pred q l = g.pred q l)) ∧
    (∀ dst ws px, o.kind = .msend dst ws none px → dst < 2 ^ 32 → s.clusters.length = 128 → (s.cl (dst % 2 ^ 7)).ports.length = 8 →
      let cl := dst % 2 ^ 7
      let p := dst / 2 ^ 7 % 2 ^ 3
      let x := s.port cl p
      let admits := dst / 2 ^ 10 % 2 ^ 6 = 0 ∧ ∃ w, x.owner = some w ∧ (w = g.slot ∨ (s.ctx w).xp = true ∧ (s.ctx g.slot).xp = true)
      ∃ t gt ok, NextQuantum s t slot gi gt [] ∧ Lowered g gt o ∧ OnlyPx g gt o px ok ∧ t.mem = s.mem ∧ (ok = true ↔ admits ∧ x.fifo.length < 16) ∧
        (ok = true → t.port cl p = { x with fifo := x.fifo ++
          [⟨BitVec.ofNat 32 (g.gid.cluster + g.gid.part * 2 ^ 7 + g.gid.slot * 2 ^ 9 + dst / 2 ^ 16 * 2 ^ 16), ws⟩] }) ∧
        ∀ c q, (c, q) ≠ (cl, p) → t.port c q = s.port c q) ∧
    (∀ bs px, o.kind = .launch bs px → slot < s.ctxs.length → (∀ l ∈ s.launches, l.age < s.nextAge) → s.packetOk slot bs = true →
      let l := launchOf slot s.nextAge bs
      (s.qdepth slot < 4096 → sound s l → l.dmode = false → ∃ t gt, NextQuantum s t slot gi gt [] ∧ Lowered g gt o ∧ OnlyPx g gt o px true ∧ Enqueued s t slot bs) ∧
      (s.qdepth slot < 4096 → ∃ t, exec (.commitRound slot) s = .next t ∧ t.nextAge = s.nextAge + 1 ∧ (t.ctx slot).accepted = (s.ctx slot).accepted + 1) ∧
      (4096 ≤ s.qdepth slot → ∃ t gt, NextQuantum s t slot gi gt [] ∧ Lowered g gt o ∧ OnlyPx g gt o px false ∧ t.launches = s.launches)) ∧
    ∀ (e : EngineKind) (c : Cmd), o.kind = .accept e c → g.gid.cluster < s.clusters.length →
      let cl := g.gid.cluster
      let q := (s.cl cl).lathe
      let held : Op := { o with kind := .engine c.id, flag := none, flag2 := none, counted := false }
      (e ≠ .lathe → ((∃ x y a b n r, c.kind = .acp x y a b n r) ∨ (∃ r x y p n d, c.kind = .kvgather r x y p n d) ∨ (∃ m k a r x y f, c.kind = .tmatch m k a r x y f) ∨
          (∃ a b m z w f, c.kind = .tmerge a b m z w f) ∨ ∃ a b m w f, c.kind = .tunmerge a b m w f) →
        ∃ t gt, NextQuantum s t slot gi gt (if o.dsts = [] then [] else [held]) ∧ Lowered g gt o ∧ gt.regs = g.regs ∧ t.mem = s.mem ∧
          (t.cl cl).queue e = (s.cl cl).queue e ++ [c]) ∧
      ((∃ bar a b n k, c.kind = .xscale bar a b n k ∨ c.kind = .xred bar a b n k) → ∃ t gt, NextQuantum s t slot gi gt [{ o with kind := .coll c.id }] ∧
        gt.flags = g.flags ∧ gt.regs = g.regs ∧ t.mem = s.mem ∧ (t.cl cl).link = (s.cl cl).link ++ [c]) ∧
      (∀ zt desc A B px, c.kind = .stream zt desc A B none → o.dsts = [.p px] → px < 64 →
        let full := decide (16 ≤ (q.filter fun x => x.isStream).length)
        ∃ t gt, NextQuantum s t slot gi gt [] ∧ Lowered g gt o ∧ OnlyPx g gt o (BitVec.ofNat 6 px) (!full) ∧ (full = true → t.clusters = s.clusters)) ∧
      (e = .lathe → o.dsts = [] → (∀ x ∈ q, x.id ≠ c.id) → ((∃ z, c.kind = .lzero z) ∨ (∃ z a s f b, c.kind = .lload z a s f b) ∨ (∃ z a s f t b, c.kind = .lstore z a s f t b) ∨
          (∃ z a b k p x y, k ≠ 0 ∧ c.kind = .lmma z a b k p x y) ∨ ∃ z x w k n b f, c.kind = .lmmv z x w k n b f) →
        let full := 16 ≤ (q.filter fun x => !x.isStream).length
        ∃ t gt, NextQuantum s t slot gi gt (if full then [o] else []) ∧ (¬ full → Lowered g gt o) ∧ (full → gt.flags = g.flags) ∧ gt.regs = g.regs ∧ t.mem = s.mem ∧
          t.tiles = s.tiles ∧ (t.cl cl).lathe = q ++ [c]) ∧
      (∀ z a b p x y, c.kind = .lmma z a b 0 p x y → ∃ t gt, NextQuantum s t slot gi gt [] ∧ Lowered g gt o ∧ gt.regs = g.regs ∧ t.mem = s.mem ∧ t.clusters = s.clusters) ∧
      ∀ zt d row, e = .lathe → c.kind = .lread zt d row → c.gid = g.gid → c.tag = g.tag → q = [] → s.cmdReady c = true → row < 128 → tilesWf s → d + 4 ≤ g.vbud →
        o.dsts = (List.range 4).map (fun k => .v (d + k)) → s.groups.findIdx? (fun h => h.gid == g.gid && h.tag == g.tag) = some gi →
        ∃ t gt, NextQuantum s t slot gi gt [] ∧ t.mem = s.mem ∧ t.tiles = s.tiles ∧ gt.regs = { g.regs with v := gt.regs.v } ∧
          (∀ k < 4, ∀ l < 32, (gt.vlane (d + k) l).toNat = tileAt s cl (s.teamTile c.tag zt) (128 * row + 32 * k + l)) ∧
          ∀ n l, l < 32 → (n < d ∨ d + 4 ≤ n) → gt.vlane n l = g.vlane n l)

namespace Sys2Proof.Claims

/-- The record that stands at a place of a trap queue (R346): its sequence number, code word, address, PC, WHO and INFO. -/
def recordAt (s t : State) (slot code addr pc who info : Nat) : Prop :=
  let h := (s.ctx slot).tqHeader
  let prod := s.mem.num h 4
  let a := h + 64 + 64 * (prod % (s.ctx slot).tqN)
  t.mem.num h 4 = (prod + 1) % 2 ^ 32 ∧ t.mem.num a 4 = prod ∧ t.mem.num (a + 4) 4 = code ∧ t.mem.num (a + 8) 8 = addr % 2 ^ 64 ∧
    t.mem.num (a + 16) 8 = pc % 2 ^ 64 ∧ t.mem.num (a + 32) 4 = who % 2 ^ 32 ∧ t.mem.num (a + 36) 4 = info % 2 ^ 32 ∧
    ∀ x, ¬ (h ≤ x ∧ x < h + 4) → ¬ (a ≤ x ∧ x < a + 64) → t.mem.get x = s.mem.get x

/-- A group runs, its team is not being saved, and its operation `o` can end with a fault on path `p`. -/
structure CanFail (s : State) (gi k : Nat) (g : Group) (o : Op) (p : Path) : Prop where
  here : s.groups[gi]? = some g
  found : g.ops.find? (·.id == k) = some o
  runs : g.st = .run
  path : g.path o.pid = some p
  stays : s.stopping g = false

/-- The unanswered record of an index names this group, which is stopped under it. -/
structure StoppedUnder (s : State) (slot idx gi : Nat) (g : Group) (r : Replayable) (f : FaultInfo) (pc pid : Nat) : Prop where
  active : (s.ctx slot).state = .active
  record : (s.ctx slot).record idx = some r
  names : r.gid = some g.gid
  first : s.groups.findIdx? (isStoppedBy r.seq g.gid) = some gi
  here : s.groups[gi]? = some g
  st : g.st = .stopped f pc pid (some r.seq)

end Sys2Proof.Claims

/-- R27, R29, R309, R247, R250, R265, R75, R96, R339, R338, R344, R346-R348, R362: TIMER_FIRE enters the handler with FPC 0, or is held while INH is set; a long-latency fault and
a missing reply end their operation and reach the group as late faults, that of a store as a fatal record (log 107), and an uncorrectable error poisons an atomic's line;
an engine's command fails its batch; a cancelled load's entry becomes FAULTED. A stopped group's record, and a suspended command's, is posted once more than four are free; its
answer runs the group again, its late loads made anew, or delivers the fault; a raise held back takes place after a microsecond. -/
def Obligations.FaultEvents : Prop :=
  (∀ (s : State) (gi : Nat) (g : Group) (p : Path) (ps : List Path), s.groups[gi]? = some g → s.issues g = true → g.paths = p :: ps → g.armed = true →
    let clock := s.clock + BitVec.ofNat 64 (Config.dieSkew (dieOf g.gid.cluster) % 5)
    g.regs.tcmp.toNat % 2 ^ 48 ≠ 2 ^ 48 - 1 → g.regs.tcmp.toNat % 2 ^ 48 ≤ (if g.dmode then g.retired.toNat else clock.toNat) % 2 ^ 48 →
    (CanEnter s g → ∃ t, exec (.timerFire gi) s = .next t ∧ t.last = .event ∧ Entered s t gi { g with held := false, armed := false } { code := .timer } 0 p.pc p.id) ∧
    (g.inh = true → ∃ t gt, exec (.timerFire gi) s = .next t ∧ t.last = .event ∧ t.groups[gi]? = some gt ∧ gt.held = true ∧ gt.armed = false ∧ gt.inh = true ∧
      gt.regs = g.regs ∧ gt.st = g.st ∧ gt.ops = g.ops)) ∧
  (∀ (s : State) (gi k code lane addr : Nat) (bad : List Nat) (g : Group) (o : Op) (p : Path), CanFail s gi k g o p →
    let ev := Instr.longLatencyFault gi k code lane addr bad
    let f (c : FCode) : FaultInfo := { code := c, addr := o.addrOf lane, lane := lane, late := true, direct := o.isStore, info := match o.kind with
      | .kiln (st :: _) _ _ _ _ _ => s.objSeq st
      | _ => none }
    (∀ x, o.late = some x → o.plain = false → o.isStore = false → x.direct = false → x.cls = .fatal → CanEnter s (g.complete o) →
      ∃ t, exec ev s = .next t ∧ t.last = .event ∧ Entered s t gi (g.complete o) { x with late := true } o.pc p.pc p.id) ∧
    (∀ c, o.late = none → o.plain = false → o.isStore = false → lateCode code o = some c → c ≠ .eccUncorrected → CanEnter s (g.complete o) →
      ∃ t, exec ev s = .next t ∧ t.last = .event ∧ Entered s t gi (g.complete o) (f c) o.pc p.pc p.id) ∧
    (∀ c, o.late = none → o.plain = false → o.isStore = true → lateCode code o = some c → c ≠ .eccUncorrected → CanDie s (g.complete o) →
      ∃ t, exec ev s = .next t ∧ t.last = .event ∧ DiesWith s t gi (g.complete o) (f c) o.pc c) ∧
    (∀ st todo res d n px uni, o.kind = .kiln (st :: todo) res d n px uni → ((∃ op w v, st.act = .atom op w v) ∨ ∃ w x y, st.act = .cas w x y) → o.late = none → o.plain = false →
      lateCode code o = some .eccUncorrected → CanEnter s (g.complete o) → ∃ t, exec ev s = .next t ∧ t.last = .event ∧ t.poison = s.poison ++ [st.key / 64 * 64] ∧
        t.errs = s.errs.modify (if inDram (o.keys.headD 0) then 1 else 3) (· + 1) ∧ Entered s t gi (g.complete o) (f .eccUncorrected) o.pc p.pc p.id) ∧
    (∀ c, o.late = none → o.plain = true → o.isStore = false → lateCode code o = some c → c ≠ .eccUncorrected → CanEnter s g → (g.ops.filter (·.plain)).length ≤ 8 →
      ∃ t gt r, exec ev s = .next t ∧ t.last = .event ∧ t.groups[gi]? = some gt ∧ gt.inh = true ∧ r ∈ gt.rq ∧ r.op.id = o.id ∧ r.st = 2 ∧ r.code = c.num ∧
        gt.regs = g.regs)) ∧
  (∀ (s : State) (gi k lane addr i : Nat) (bad : List Nat) (g : Group) (r : RqEntry), Memory.wf s.mem = true → s.groups[gi]? = some g → (∀ o ∈ g.ops, o.id ≠ k) →
    (s.cl g.gid.cluster).findCmd k = none → g.rq[i]? = some r → r.op.id = k → r.st = 1 → (∀ j < i, ∀ x, g.rq[j]? = some x → x.op.id ≠ k) →
    ∀ code ∈ [0x10C, 0x10D, 0x10E, 0x10F], ∃ t gt, exec (.longLatencyFault gi k code lane addr bad) s = .next t ∧ t.last = .event ∧ t.groups[gi]? = some gt ∧
      gt.rq = g.rq.set i { r with st := 2, code := code } ∧ gt.regs = g.regs ∧ gt.ops = g.ops ∧
      let a := (s.ctx g.slot).csaGroup g.gid + 0x100 + 64 * i
      t.mem.num (a + 0x0C) 4 = 2 ∧ t.mem.num (a + 0x18) 4 = code ∧
        ∀ x, ¬ (a + 0x0C ≤ x ∧ x < a + 0x10) → ¬ (a + 0x18 ≤ x ∧ x < a + 0x1C) → t.mem.get x = s.mem.get x) ∧
  (∀ (s : State) (gi k lane addr : Nat) (bad : List Nat) (g : Group) (e : EngineKind) (c : Cmd), s.groups[gi]? = some g → g.st = .run → (∀ o ∈ g.ops, o.id ≠ k) →
    (s.cl g.gid.cluster).findCmd k = some (e, c) → c.id = k → e ≠ .link → c.isStream = false → (s.ctx c.slot).state = .active → g.gid.cluster < s.clusters.length →
    s.groups.findIdx? (fun h => h.gid == c.gid && h.tag == c.tag) = some gi →
    ∀ r ∈ ([(0x10C, .peerRemote), (0x10D, .linkDown), (0x10E, .hostAbort)] : List (Nat × FCode)), ∃ t gt, exec (.longLatencyFault gi k r.1 lane addr bad) s = .next t ∧
      t.last = .event ∧ (t.cl g.gid.cluster).queue e = ((s.cl g.gid.cluster).queue e).filter (fun x => x.id != k) ∧ t.groups[gi]? = some gt ∧ gt.st = .run ∧
      (k ∈ g.openLeft → g.openFail = none → gt.openFail = some { code := r.2, addr := addr }) ∧
      ∀ b ∈ g.batches, k ∈ b.left → b.failed = none → ({ b with left := b.left.filter (· != k), failed := some { code := r.2, addr := addr } } : Batch) ∈ gt.batches) ∧
  (∀ (s : State) (gi k : Nat) (g : Group) (o : Op) (p : Path), CanFail s gi k g o p → o.plain = false → o.time + 7200000 ≤ s.clock.toNat →
    ((∃ todo res d n px uni, o.kind = .kiln todo res d n px uni) ∨ (∃ dst w ans px, o.kind = .msend dst w ans px) ∨ ∃ bs px, o.kind = .launch bs px) → CanDie s (g.complete o) →
    ∃ t, exec (.memTimeout gi k) s = .next t ∧ t.last = .event ∧ t.errs = s.errs.modify 5 (· + 1) ∧
      DiesWith s t gi (g.complete o) { code := .memTimeout, addr := o.addrOf 255, late := true } o.pc .memTimeout) ∧
  (∀ (s : State) (gi : Nat) (g : Group) (f : FaultInfo) (pc pid : Nat), Memory.wf s.mem = true → s.groups[gi]? = some g → g.st = .stopped f pc pid none → f.aorg = none →
    (s.ctx g.slot).state = .active → 4 < s.tqFree g.slot → g.slot < s.ctxs.length → ∀ ev, (ev = .replayableFaultStop gi ∨ ev = .replayableRecordRetry g.slot gi) →
    ∃ t gt, exec ev s = .next t ∧ t.last = .event ∧ recordAt s t g.slot f.code.num f.addr pc g.gid.who (f.info.getD f.lane) ∧ t.groups[gi]? = some gt ∧
      gt.st = .stopped f pc pid (some (s.mem.num (s.ctx g.slot).tqHeader 4)) ∧ gt.regs = g.regs ∧
      (t.ctx g.slot).recs = (s.ctx g.slot).recs ++ [⟨s.mem.num (s.ctx g.slot).tqHeader 4, some g.gid, none⟩]) ∧
  (∀ (s : State) (k cl : Nat) (e : EngineKind) (c : Cmd) (x a : Nat), Memory.wf s.mem = true → s.anyCmd k = some (cl, e, c) → c.susp = some (x, a) → s.groups.length ≤ k →
    (s.ctx c.slot).state = .active → 4 < s.tqFree c.slot → c.slot < s.ctxs.length → (∀ r ∈ (s.ctx c.slot).recs, r.cmd ≠ some c.id) →
    ∃ t, exec (.replayableRecordRetry c.slot k) s = .next t ∧ t.last = .event ∧
      recordAt s t c.slot (0x0106 + e.master * 2 ^ 20) a c.pc c.gid.who 255 ∧ t.clusters = s.clusters ∧
      (t.ctx c.slot).recs = (s.ctx c.slot).recs ++ [⟨s.mem.num (s.ctx c.slot).tqHeader 4, none, some c.id⟩]) ∧
  (∀ (s : State) (fn j slot idx gi : Nat) (g : Group) (r : Replayable) (f : FaultInfo) (pc pid : Nat), s.slotOf fn j = some slot → StoppedUnder s slot idx gi g r f pc pid → g.pend = none →
    let cs := s.ctxs.set slot { s.ctx slot with recs := (s.ctx slot).recs.filter (· != r) }
    let h : Group := { g with st := .run, paths := g.paths.map fun p => { p with line := none } }
    let late := g.ops.filter fun o => o.plain && o.late.isSome
    (f.aorg = none → late = [] → exec (.replayRetry j idx fn) s = .next { s with last := .event, ctxs := cs, groups := s.groups.set gi h }) ∧
    (∀ q x n b, f.aorg = some q → late = [] → g.ast = .halted x (some n) b → exec (.replayRetry j idx fn) s = .next { s with
      last := .event, ctxs := cs, groups := s.groups.set gi { h with ast := .run, aline := none, astall := false, q := g.q.modify n List.dropLast } }) ∧
    (∀ o, f.aorg = none → late = [o] → ∃ t gt, exec (.replayRetry j idx fn) s = .next t ∧ t.last = .event ∧ t.mem = s.mem ∧ t.groups[gi]? = some gt ∧ gt.st = .run ∧
      gt.regs = g.regs ∧ (∀ x ∈ gt.ops, x.id = o.id → x.id = s.nextId) ∧ ∃ x ∈ gt.ops, x.id = s.nextId ∧ x.pc = o.pc ∧ x.dsts = o.dsts ∧ x.addrs = o.addrs ∧ x.flag = o.flag) ∧
    (∀ p, g.path pid = some p → f.direct = false → (CanEnter s g → ∃ t, exec (.replayFail j idx fn) s = .next t ∧ t.last = .event ∧
        Entered s t gi g { f with fatal := true } pc p.pc pid ∧ (g.slot = slot → slot < s.ctxs.length → r ∉ (t.ctx slot).recs)) ∧
      ∀ code, endsWith s g { f with fatal := true } code → CanDie s g → ∃ t, exec (.replayFail j idx fn) s = .next t ∧ t.last = .event ∧
        DiesWith s t gi g { f with fatal := true } pc code)) ∧
  (∀ (s : State) (fn j slot idx k cl : Nat) (r : Replayable) (e : EngineKind) (c : Cmd), s.slotOf fn j = some slot → cl < s.clusters.length → (s.ctx slot).state = .active →
    (s.ctx slot).record idx = some r → r.gid = none → r.cmd = some k → s.anyCmd k = some (cl, e, c) →
    (∃ t, exec (.replayRetry j idx fn) s = .next t ∧ t.last = .event ∧ t.mem = s.mem ∧
      (t.cl cl).queue e = ((s.cl cl).queue e).map fun x => if x.id = c.id then { c with susp := none } else x) ∧
    ∃ t, exec (.replayFail j idx fn) s = .next t ∧ t.last = .event ∧ (t.cl cl).queue e = ((s.cl cl).queue e).filter (fun x => x.id != c.id) ∧
      ∀ gi g b x a, s.groups.findIdx? (fun h => h.gid == c.gid && h.tag == c.tag) = some gi → s.groups[gi]? = some g → b ∈ g.batches → c.id ∈ b.left → b.failed = none →
        c.susp = some (x, a) → ∃ gt, t.groups[gi]? = some gt ∧
          ({ b with left := b.left.filter (· != c.id), failed := some { code := .pageAbsent, addr := a, fatal := true } } : Batch) ∈ gt.batches) ∧
  ∀ (s : State) (slot : Nat), (s.ctx slot).msixHeld = true → (s.ctx slot).msixAt + 3600 ≤ s.clock.toNat →
    exec (.msixDeferredRaise slot) s = .next { s with
      last := .event, ctxs := s.ctxs.set slot { s.ctx slot with msix := (s.ctx slot).msix + 1, msixAt := s.clock.toNat, msixHeld := false } }

namespace Sys2Proof.Claims

/-- A notice of the front end stands in a context's trap queue when a record was free (R346, R347). -/
def noticed (s t : State) (slot : Nat) (c : FCode) : Prop :=
  Memory.wf s.mem = true → 0 < s.tqFree slot → t.mem.num ((s.ctx slot).tqHeader + 64 + 64 * (s.mem.num (s.ctx slot).tqHeader 4 % (s.ctx slot).tqN) + 4) 4 = c.num + 2 * 2 ^ 16 + 5 * 2 ^ 20

/-- A new group of a team (R22, R13): its place, its team, its index, and its registers, flags, queues and paths at group start. -/
def Started (l : Launch) (d : KDesc) (tag cl i : Nat) (place : Nat × Nat) (g : Group) : Prop :=
  g.gid = ⟨cl, place.1, place.2⟩ ∧ g.slot = l.slot ∧ g.tag = tag ∧ g.lage = l.age ∧ g.tgidx = i ∧ g.sreg 0 = BitVec.ofNat 32 l.argp ∧
    g.sreg 1 = BitVec.ofNat 32 (l.argp / 2 ^ 32) ∧ (∀ n, 2 ≤ n → g.sreg n = 0) ∧ g.areg 0 = BitVec.ofNat 64 l.argp ∧ (∀ n, 0 < n → g.areg n = 0) ∧
    (∀ n x, g.vlane n x = 0) ∧ (∀ n, 0 < n → ∀ x, g.pred n x = false) ∧ g.flags = List.replicate 12 0 ∧ g.q = [[], [], [], []] ∧ g.qb = [] ∧ g.ops = [] ∧
    g.retired = 0 ∧ g.regs.slip = 16 ∧ g.regs.tvec = 0 ∧ g.regs.seed = 0 ∧ g.regs.fmtb = 0 ∧ g.ents = [] ∧ g.inh = false ∧
    g.paths.map (fun p => (p.pc, p.exec, p.held, p.stack)) = [(d.centry, 0xFFFFFFFF, 0xFFFFFFFF, [])] ∧ g.apc = d.aentry ∧
    g.ast = if d.aentry = 0 then .absent else .run

/-- The team `idx` of a launch stands on a cluster with what it takes (R22, R169, R291): its groups are new, its shared granules empty, its tiles zero. -/
def Dispatched (s t : State) (l : Launch) (d : KDesc) (cl idx : Nat) (f : Fit) : Prop :=
  (∃ x : Team, t.teams = s.teams ++ [x] ∧ x.tag = s.nextTag ∧ x.lage = l.age ∧ x.cluster = cl ∧ x.tlin = idx ∧ x.shBase = f.shBase ∧ x.shBytes = d.shbytes ∧
      x.ztiles = f.tiles ∧ x.tx = idx % l.gx ∧ x.ty = idx / l.gx % l.gy ∧ x.tz = idx / (l.gx * l.gy) ∧ x.saving = false) ∧
    t.groups.take s.groups.length = s.groups ∧ t.groups.length = s.groups.length + f.slots.length ∧
    (∀ (k : Nat) (place : Nat × Nat), f.slots[k]? = some place → ∃ g, t.groups[s.groups.length + k]? = some g ∧ Started l d s.nextTag cl k place g) ∧
    t.nextTag = (if s.nextTag + 1 = 2 ^ 32 then 1 else s.nextTag + 1) ∧ t.mem = s.mem ∧ (∀ z ∈ f.tiles, ∀ k < 16384, tileAt t cl z k = 0) ∧
    (∀ x ∈ t.fe, x ∈ s.fe ∧ ¬ (granuleOf (keyShared cl f.shBase) ≤ x ∧ x < granuleOf (keyShared cl f.shBase) + round4k d.shbytes / 64)) ∧
    ∃ l', t.launch l.age = some l' ∧ l'.next = l.next + 1 ∧ l'.alive = l.alive + 1 ∧ l'.lastDisp = s.clock.toNat ∧ l'.mapSkip = false ∧ l'.noRoom = none

end Sys2Proof.Claims

/-- R283-R287, R298, R302, R311: a host packet, which a function sends to a slot that it shows, is refused, held for a round, discarded, enqueued with the next launch age, or refused with its
age. A LAUNCH is answered with BAD_LAUNCH, or with PX. R288, R289, R304: a launch is ready when its signal words are at most zero; a decrement takes one from a signal word
(that a packet whose signal words do not translate is refused is log 66; the address that BAD_LAUNCH shows is log 77). R285, R234, R102: completion is counted, and the context's key-value translations go. -/
def Obligations.LaunchQueue : Prop :=
  (∀ (s : State) (fn j slot off : Nat) (bs : List Byte), s.slotOf fn j = some slot → slot < s.ctxs.length → (∀ l ∈ s.launches, l.age < s.nextAge) →
    let ev := Instr.hostLaunchPacket j off bs fn
    let c := s.ctx slot
    let l := launchOf slot s.nextAge bs
    let good := c.state = .active ∧ bs.length = 64 ∧ off % 64 = 0 ∧ off + 64 ≤ 0xFC0
    let now := s.liveD slot = false ∧ c.hostq = []
    let refused (t : State) : Prop := exec ev s = .next t ∧ t.last = .event ∧ t.launches = s.launches ∧ t.nextAge = s.nextAge + 1 ∧
      (t.ctx slot).accepted = c.accepted + 1 ∧ (t.ctx slot).completed = c.completed + 1 ∧ noticed s t slot .badLaunch
    (¬ good → exec ev s = .next { s with last := .event, ctxs := s.ctxs.set slot { c with refused := min (c.refused + 1) (2 ^ 32 - 1) } }) ∧
    (good → ¬ now → exec ev s = .next { s with last := .event, ctxs := s.ctxs.set slot { c with hostq := c.hostq ++ [bs] } }) ∧
    (good → now → 4096 ≤ s.qdepth slot → ∃ t, exec ev s = .next t ∧ t.last = .event ∧ t.launches = s.launches ∧ t.nextAge = s.nextAge ∧
      (t.ctx slot).refused = min (c.refused + 1) (2 ^ 32 - 1) ∧ noticed s t slot .launchOverflow) ∧
    (good → now → s.qdepth slot < 4096 → s.packetOk slot bs = true → sound s l →
      ∃ t, exec ev s = .next t ∧ t.last = .event ∧ Enqueued s t slot bs ∧ t.mem = s.mem ∧ t.groups = s.groups) ∧
    (good → now → s.qdepth slot < 4096 → s.packetOk slot bs = false → ∃ t, refused t) ∧
    (good → now → s.qdepth slot < 4096 → s.packetOk slot bs = true → l.total ≠ 0 → l.task = true → l.deps = [] → (l.map = 0 ∨ s.taskSlots l 0 = .ok none) → ∃ t, refused t)) ∧
  (∀ (s : State) (gi k : Nat) (g : Group) (o : Op) (bs : List Byte) (px : PReg), s.findOp gi k = some (g, o) → o.kind = .launch bs px → o.late = none →
    g.mayPerform o = true → (s.ctx g.slot).state = .active → g.slot < s.ctxs.length → (∀ l ∈ s.launches, l.age < s.nextAge) → Shaped g →
    let ev := Instr.launchReply gi k
    let answered (b : Bool) (t : State) : Prop := ∃ gt, t.groups = s.groups.set gi gt ∧ gt.ops = (g.complete o).ops ∧ gt.flags = (g.complete o).flags ∧ OnlyPx g gt o px b
    (s.packetOk g.slot bs = true → s.qdepth g.slot < 4096 → sound s (launchOf g.slot s.nextAge bs) →
      ∃ t, exec ev s = .next t ∧ t.last = .event ∧ answered true t ∧ Enqueued s t g.slot bs) ∧
    (s.packetOk g.slot bs = true → 4096 ≤ s.qdepth g.slot → ∃ t, exec ev s = .next t ∧ t.last = .event ∧ answered false t ∧ t.launches = s.launches ∧
      t.ctxs = s.ctxs) ∧
    (∀ p, s.packetOk g.slot bs = false → CanFail s gi k g o p → o.plain = false → CanEnter s (g.complete o) →
      ∃ t, exec ev s = .next t ∧ t.last = .event ∧ Entered s t gi (g.complete o) { code := .badLaunch, late := true } o.pc p.pc p.id)) ∧
  (∀ (s : State) (age : Nat) (l : Launch) (key : Nat → Nat) (b : Nat → Bool), s.launch age = some l → l.ready = none → (s.ctx l.slot).state = .active → l.satisfied = [] →
    l.total ≠ 0 → (l.task = true → ∃ es, goodEntries s l es) →
    (∀ i < l.deps.length, s.translate noCluster l.slot (l.deps.getD i 0) { types := [0, 4], r := true } = .ok (key i) ∧ s.poisoned (key i) = false ∧
      (b i = true ↔ (BitVec.ofNat 64 (s.mem.num (key i) 8)).toInt ≤ 0)) →
    ∃ t l', exec (.dependencePoll age) s = .next t ∧ t.last = .event ∧ t.mem = s.mem ∧ t.groups = s.groups ∧ t.launch age = some l' ∧
      ((∀ i < l.deps.length, b i = true) → Readied s { l with satisfied := List.range l.deps.length } l') ∧
      (∀ i < l.deps.length, b i = false → l' = { l with satisfied := (List.range l.deps.length).filter b })) ∧
  (∀ (s : State) (age : Nat) (l : Launch) (done : Bool), s.launch age = some l → s.canSignal l done = true → (l.dmode = true → s.liveD l.slot = false) →
    let ev := Instr.signalDecrement age done
    let l' := if done then { l with doneDone := true } else { l with trigDone := true }
    (l.sigp = 0 → ∃ t, exec ev s = .next t ∧ t.last = .event ∧ t.mem = s.mem ∧ t.launch age = some l') ∧
    (∀ k, Memory.wf s.mem = true → l.sigp ≠ 0 → s.translate noCluster l.slot (l.sigp + (if done then 8 else 0)) { types := [0, 4], r := true, w := true, at_ := true } = .ok k →
      s.poisoned k = false → ∃ t, exec ev s = .next t ∧ t.last = .event ∧ t.mem.num k 8 = (s.mem.num k 8 + 2 ^ 64 - 1) % 2 ^ 64 ∧
        (∀ x, x < k ∨ k + 8 ≤ x → t.mem.get x = s.mem.get x) ∧ t.launch age = some l')) ∧
  ∀ (s : State) (age : Nat) (l : Launch), s.launch age = some l → l.doneDone = true → l.slot < s.ctxs.length →
    exec (.launchCompletion age) s = .next { s with
      last := .event, launches := s.launches.filter (·.age != age), ctxs := s.ctxs.set l.slot { s.ctx l.slot with completed := (s.ctx l.slot).completed + 1 }
      clusters := s.clusters.map fun (c : Cluster) => { c with kvtb := c.kvtb.filter fun p => p.1 != l.slot } }

/-- R13-R22, R290-R296: a cluster that one launch's next team fits takes it (the lowest free tiles and range are log 61), where no saved team goes before (R355); a descriptor that fails its check, or that cannot be read, refuses its
launch; waiting raises a launch's priority, and ends the wait for a map's dies; the operations counted and the bytes moved name a class (the bytes are log 62); a launch that has found no
room for 20 µs asks for the fewest saves. R298, R299: an eligible task joins its home list, and is taken or stolen (log 63). R234, R292: an ended team retires. -/
def Obligations.TeamsAndTasks : Prop :=
  (∀ (s : State) (cl : Nat) (l : Launch) (d : KDesc) (f : Fit), s.launches = [l] → s.isReady l = true → l.desc = some d → l.task = false → l.dmode = false → l.map = 0 →
    s.partOf cl = l.part → l.part < 8 → cl < 128 → (s.ctx l.slot).stopMask.getLsbD cl = false → s.fits cl l d = some f → (∀ p, s.restoreFirst none cl p = false) →
    (∀ c < 128, c ≠ cl → s.partOf c = l.part → s.fits c l d = none) → ∃ t, exec (.teamDispatch cl false) s = .next t ∧ t.last = .event ∧ Dispatched s t l d cl l.next f) ∧
  (∀ (s : State) (cl : Nat) (l : Launch) (ks : List Nat) (ecc : Bool), s.launches = [l] → s.isReady l = true → l.desc = none → l.dmode = false → s.partOf cl = l.part → l.part < 8 →
    l.slot < s.ctxs.length → s.rangeKeys noCluster l.slot l.kdesc 64 needR = .ok ks → (ecc = false → s.descOf l.slot l.part (wordOfBytes (s.mem.getAll ks)) = none) →
    ∃ t, exec (.teamDispatch cl ecc) s = .next t ∧ t.last = .event ∧ t.launches = [] ∧ (t.ctx l.slot).completed = (s.ctx l.slot).completed + 1 ∧ t.teams = s.teams ∧
      noticed s t l.slot .badDescriptor ∧ t.errs = if ecc then s.errs.modify (if inDram (ks.headD 0) then 1 else 3) (· + 1) else s.errs) ∧
  (∀ (s : State) (age : Nat) (l : Launch), s.launch age = some l → s.isReady l = true →
    (∀ t0, l.ready = some t0 → l.risen < min l.prio ((s.clock.toNat - t0) / 3600000) → ∃ t, exec (.priorityAging age) s = .next t ∧ t.last = .event ∧
      t.launch age = some { l with risen := min l.prio ((s.clock.toNat - t0) / 3600000) } ∧ t.groups = s.groups ∧ t.mem = s.mem) ∧
    (l.map ≠ 0 → l.task = false → l.mapSkip = false → l.lastDisp + 36000 ≤ s.clock.toNat → ∃ t, exec (.placementMapTimeout age) s = .next t ∧ t.last = .event ∧
      t.launch age = some { l with mapSkip := true } ∧ t.groups = s.groups ∧ t.mem = s.mem) ∧
    (∀ d ts t0, l.desc = some d → l.part ∉ s.fePre → l.noRoom = some t0 → t0 + 72000 ≤ s.clock.toNat →
      (∀ c ∈ s.partClusters l.part, (s.ctx l.slot).stopMask.getLsbD c = false ∧ s.fits c l d = none) →
      (s.partClusters l.part).findSome? (fun c => s.victimsFor c l d) = some ts → (∀ t ∈ s.teams, s.teamQuiet t = false) →
      ∃ t, exec (.frontEndPreemption age) s = .next t ∧ t.last = .event ∧ t.groups = s.groups ∧ t.mem = s.mem ∧
        t.teams = s.teams.map fun x => if ∃ y ∈ ts, y.tag = x.tag then { x with saving := true, front := true } else x)) ∧
  (∀ (s : State) (slot kdesc mem link : Nat) (m : Measure), (s.ctx slot).state = .active → (s.ctx slot).meas.find? (·.kdesc == kdesc) = some m →
    (m.since + 72000 ≤ s.clock.toNat ∨ s.launch m.lage = none) →
    let bytes := mem + link
    let of (gs : List Group) : Nat := ((gs.filter (·.lage == m.lage)).map (·.flops)).sum
    let flops := m.flops + (of s.groups + ((s.ctx slot).saved.map fun (t : SavedTeam) => of t.groups).sum)
    ¬ (bytes = 0 ∧ flops = 0) → (s.ctx slot).classes.length < 256 → exec (.intensityMeasurementEnd slot kdesc mem link) s = .next { s with
      last := .event, free := s.free + 1, ctxs := s.ctxs.set slot { s.ctx slot with
        classes := (s.ctx slot).classes ++ [(kdesc, if flops < 64 * bytes then 0 else if 512 * bytes < flops then 2 else 1)]
        meas := (s.ctx slot).meas.filter (· != m) } }) ∧
  (∀ (s : State) (tag : Nat) (x : Team) (l : Launch), s.team tag = some x → s.teamEnded x = true → s.launch x.lage = some l → x.cluster < s.clusters.length →
    ∃ t, exec (.teamRetirement tag) s = .next t ∧ t.last = .event ∧ t.teams = s.teams.filter (·.tag != tag) ∧ t.groups = s.groups.filter (·.tag != tag) ∧
      (∀ e, (t.cl x.cluster).queue e = ((s.cl x.cluster).queue e).filter (·.tag != tag)) ∧ t.mem = s.mem ∧ t.launch x.lage = some { l with alive := l.alive - 1 }) ∧
  (∀ (s : State) (age i : Nat) (l : Launch) (ins outs : List Nat) (xs ys : List Bool), s.launch age = some l → s.taskPending l i = true → l.dmode = false → l.desc ≠ none →
    l.entries.find? (·.1 == i) = some (i, ins, outs) → s.slotBits l.slot ins = .ok xs → s.slotBits l.slot outs = .ok ys → s.partClusters l.part ≠ [] →
    ((∀ x ∈ xs, x = true) → (∀ y ∈ ys, y = false) → exec (.taskEligibilityTest age i) s = .next { s with
      last := .event, ctxs := s.ctxs.set l.slot { s.ctx l.slot with ready := (s.ctx l.slot).ready ++ [((s.partClusters l.part).getD (i % (s.partClusters l.part).length) 0, l.age, i)] } }) ∧
    (((∃ x ∈ xs, x = false) ∨ ∃ y ∈ ys, y = true) → exec (.taskEligibilityTest age i) s = .next { s with last := .nothing })) ∧
  ∀ (s : State) (cl v slot : Nat) (r : Nat × Nat × Nat) (l : Launch) (d : KDesc), s.readyHead v slot = some r → s.launch r.2.1 = some l → l.desc = some d → l.dmode = false →
    l.slot = slot → slot < s.ctxs.length → s.isReady l = true → (s.ctx slot).stopMask.getLsbD cl = false → s.partOf cl = l.part → s.restoreFirst none cl l.eff = false →
    let free := s.readyHead cl slot = none ∧ s.partOf cl < 8 ∧ (∃ p < 4, s.freeSlots cl p ≠ []) ∧ s.victim cl slot = some v
    (∀ f, s.fits cl l d = some f → s.heldBack l = false → l.total ≤ 65536 → (∀ i < l.total, i ∉ l.dispatched → ∃ e ∈ l.entries, e.1 = i) →
      ∀ ev, (ev = .taskTake cl slot ∧ v = cl ∨ ev = .taskSteal cl slot ∧ free) → ∃ t, exec ev s = .next t ∧ t.last = .event ∧
      Dispatched s t l d cl r.2.2 f ∧ (t.ctx slot).ready = (s.ctx slot).ready.filter (· != r)) ∧
    (s.fits cl l d = none → s.heldBack l = false → free → exec (.taskSteal cl slot) s = .next { s with
      last := .event, ctxs := s.ctxs.set slot { s.ctx slot with ready := (s.ctx slot).ready.filter (· != r) ++ [r] } }) ∧
    (s.heldBack l = true → v = cl → exec (.taskTake cl slot) s = .next { s with last := .nothing })

namespace Sys2Proof.Claims

/-- A host's write of a CCB field that it can write while the slot is FREE: the register, whether only the physical function may, and the context after (R319, R345). -/
def ccbRows (j v : Nat) (c : Context) : List (HostReg × Bool × Context) :=
  let w : Word := BitVec.ofNat 32 v
  let d : DWord := BitVec.ofNat 64 v
  [(.pasid j, false, { c with pasid := w }), (.ptbase j, false, { c with ptbase := d }), (.pvbase j, false, { c with pvbase := d }),
   (.plimit j, false, { c with plimit := w }), (.perm j, true, { c with perm := w }), (.scratch j, true, { c with scratch := w }),
   (.kilnsh j, true, { c with kilnsh := w }), (.spnslot j, true, { c with spnslot := w }), (.wintab j, false, { c with wintab := d }),
   (.colltab j, false, { c with colltab := d }), (.tqbase j, false, { c with tqbase := d }), (.csabase j, false, { c with csabase := d })]

/-- A host's write of a field that it can write in every state of the slot, through a function that shows the slot (R319, R327, R128, R354). -/
def freeRows (j v : Nat) (c : Context) : List (HostReg × Context) :=
  [(.invaddr j, { c with invaddr := BitVec.ofNat 64 v }), (.pmask j, { c with pmask := BitVec.ofNat 128 v }), (.pdead j, { c with pdead := BitVec.ofNat 32 (v % 2 ^ 16) }),
   (.aevThresh j, { c with aevb := { c.aevb with thresh := BitVec.ofNat 32 v } }), (.aevStatus j, { c with aevb := { c.aevb with hit := c.aevb.hit &&& ~~~(BitVec.ofNat 7 v) } })]

/-- The translations of some buffers after an invalidation: those that `hit` names have gone, all others are as before. -/
def invalidated (a b : List (List TlbEntry)) (hit : TlbEntry → Prop) : Prop :=
  b.length = a.length ∧ ∀ i, ∀ e, e ∈ b.getD i [] ↔ e ∈ a.getD i [] ∧ ¬ hit e

/-- The whole context reset (R359): its teams and groups are gone, its saved teams and records dropped, its map generation has risen, and the command is over. -/
def wasReset (s t : State) (slot : Nat) : Prop :=
  t.teams = s.teams.filter (·.slot != slot) ∧ (∀ g ∈ t.groups, ∀ x ∈ s.teams, x.slot = slot → g.tag ≠ x.tag) ∧ (t.ctx slot).saved = [] ∧ (t.ctx slot).recs = [] ∧
    (t.ctx slot).mapGen = (s.ctx slot).mapGen + 1 ∧ (t.ctx slot).pState = .idle ∧ (t.ctx slot).pDone = true ∧ (t.ctx slot).state = (s.ctx slot).state ∧
    ∀ c ∈ t.clusters, ∀ p ∈ c.kvtb, p.1 ≠ slot

/-- The registers that a group is restored with, whatever operations, flags and count of acknowledgements it holds meanwhile. -/
def refills (u : State) (g r : Group) : Prop :=
  ∀ ops fl k, u.switchIn { g with ops := ops, flags := fl, acks := k } = .ok { r with ops := ops, flags := fl, acks := k }

/-- A number of `n` bytes stands at an offset of a register space whose bytes lie at these keys. -/
def spaceHolds (t : State) (key : Nat → Nat) (off n v : Nat) : Prop := wordOfBytes ((List.range n).map fun i => t.mem.get (key (off + i))) = v

/-- A group's registers stand in its register space as R30 lays them out: the state block, P, S and A, and the V lines that were dirty. -/
def Spilled (t : State) (g : Group) (key : Nat → Nat) : Prop :=
  spaceHolds t key 0x04 4 (g.regs.slip % 2 ^ 32) ∧ spaceHolds t key 0x08 4 g.regs.seed.toNat ∧ spaceHolds t key 0x10 8 g.regs.tvec.toNat ∧
    spaceHolds t key 0x18 8 g.regs.tcmp.toNat ∧ spaceHolds t key 0x20 8 g.regs.fmtb.toNat ∧ spaceHolds t key 0x28 8 g.retired.toNat ∧
    (∀ n < 64, 0 < n → spaceHolds t key (0x100 + 4 * n) 4 (g.regs.p.getD n 0).toNat) ∧ (∀ n < 64, spaceHolds t key (0x200 + 4 * n) 4 (g.sreg n).toNat) ∧
    (∀ n < 64, spaceHolds t key (0x300 + 8 * n) 8 (g.areg n).toNat) ∧ ∀ n ∈ g.vdirty, ∀ l < 32, spaceHolds t key (0x800 + 128 * n + 4 * l) 4 (g.vlane n l).toNat

end Sys2Proof.Claims

/-- R334: which slot a function shows. R319-R322, R345, R346: activation checks firmware, fields and resources in turn, then the slot is ACTIVE with an empty trap queue; release
closes it and then frees it. R326, R327: an invalidation drops the cached translations of its pages, and INVCTL keeps what was written. R4, R5, R319, R328, R329, R336, R363: register writes. -/
def Obligations.ContextSlots : Prop :=
  (∀ (s : State) (fn j k : Nat), (s.slotOf 16 j = some k ↔ k = j ∧ j < 64) ∧
    (fn < 16 → s.slotOf fn j = some k → k < 64 ∧ (s.vfslot.getD fn 0).getLsbD k = true ∧ (∀ i < fn, (s.vfslot.getD i 0).getLsbD k = false) ∧
      ((List.range k).filter fun m => decide (s.slotFn m = fn)).length = j)) ∧
  (∀ (s : State) (fn j : Nat), s.slotOf fn j = none → ∀ ev ∈ [Instr.contextActivation j fn, .invalidation j 1 fn, .invalidateAll j 0 fn, .pcmdReset j fn],
    exec ev s = .next { s with last := .event }) ∧
  (∀ (s : State) (fn j slot : Nat), s.slotOf fn j = some slot → slot < s.ctxs.length →
    let ev := Instr.contextActivation j fn
    let c := s.ctx slot
    let err (n : Byte) : State := { s with last := .event, ctxs := s.ctxs.set slot { c with err := n } }
    (c.state ≠ .free → exec ev s = .next { s with last := .event }) ∧
    (c.state = .free → s.fw.loaded = false → exec ev s = .next (err 3)) ∧
    (c.state = .free → s.fw.loaded = true → c.fieldsOk = false → exec ev s = .next (err 1)) ∧
    (c.state = .free → s.fw.loaded = true → c.fieldsOk = true → s.resources slot = none → exec ev s = .next (err 2)) ∧
    (∀ bs, Memory.wf s.mem = true → c.state = .free → s.fw.loaded = true → c.fieldsOk = true → s.resources slot = some bs → ∃ t, exec ev s = .next t ∧ t.last = .event ∧
      (t.ctx slot).state = .active ∧ (t.ctx slot).err = 0 ∧ (t.ctx slot).scrBase = bs ∧ (t.ctx slot).ptbase = c.ptbase ∧ (t.ctx slot).perm = c.perm ∧
      (t.ctx slot).mapGen = 1 ∧ t.mem.num c.tqHeader 4 = 0 ∧ t.mem.num (c.tqHeader + 4) 4 = 0 ∧ t.mem.num (c.tqHeader + 8) 4 = 0 ∧
      t.mem.num (c.tqHeader + 12) 4 = c.tqN ∧ (∀ x, x < c.tqHeader ∨ c.tqHeader + 16 ≤ x → t.mem.get x = s.mem.get x) ∧
      ∀ k, k ≠ slot → t.ctx k = s.ctx k)) ∧
  (∀ (s : State) (fn j slot : Nat), s.slotOf fn j = some slot → slot < s.ctxs.length →
    let ev := Instr.contextRelease j fn
    ((s.ctx slot).state = .active ∨ (s.ctx slot).state = .frozen → ∃ t, exec ev s = .next t ∧ t.last = .event ∧ (t.ctx slot).state = .closing ∧ (t.ctx slot).saved = [] ∧
      (t.ctx slot).recs = [] ∧ t.launches = s.launches.filter (·.slot != slot) ∧ t.mem = s.mem ∧ t.groups.map (·.regs) = s.groups.map (·.regs) ∧
      ∀ cl < 128, ∀ e, ∀ c ∈ (t.cl cl).queue e, c.slot ≠ slot) ∧
    ((s.teams.map (·.tag)).Nodup → (s.ctx slot).state = .closing → s.outstanding slot = false → ∃ t, exec ev s = .next t ∧ t.last = .event ∧ (t.ctx slot).state = .free ∧
      t.teams = s.teams.filter (·.slot != slot) ∧ (∀ x ∈ t.spindle, x.slot ≠ slot) ∧ (∀ x ∈ t.mailers, x.2 ≠ slot) ∧ (∀ c ∈ t.clusters, ∀ p ∈ c.kvtb, p.1 ≠ slot) ∧
      invalidated s.tlbs.l1 t.tlbs.l1 (fun e => e.slot = slot) ∧ invalidated s.tlbs.l2 t.tlbs.l2 (fun e => e.slot = slot) ∧ (t.ctx slot).wins = [] ∧ t.mem = s.mem)) ∧
  (∀ (s : State) (fn j slot npage : Nat), s.slotOf fn j = some slot → slot < s.ctxs.length →
    let c := s.ctx slot
    let lo := c.invaddr.toNat % 2 ^ 56 / 2 ^ 16
    let n := npage % 2 ^ 16
    let set (b : Bool) : Context := { c with invNpage := n, invAll := b }
    let hit (e : TlbEntry) : Prop := e.slot = slot ∧ ∃ v, lo ≤ v ∧ v < lo + n ∧ v / (esize e.leaf / 2 ^ 16) = e.page / (esize e.leaf / 2 ^ 16)
    (s.invBusy slot = true → exec (.invalidation j npage fn) s = .next { s with last := .event } ∧ exec (.invalidateAll j npage fn) s = .next { s with last := .event }) ∧
    (s.invBusy slot = false → n = 0 → exec (.invalidation j npage fn) s = .next { s with last := .event, ctxs := s.ctxs.set slot (set false) }) ∧
    (s.invBusy slot = false → n ≠ 0 → ∃ tl, exec (.invalidation j npage fn) s = .next { s with
        last := .event, tlbs := tl, ctxs := s.ctxs.set slot { set false with invTill := s.nextId } } ∧
      invalidated s.tlbs.l1 tl.l1 hit ∧ invalidated s.tlbs.l2 tl.l2 hit) ∧
    (s.invBusy slot = false → ∃ tl, exec (.invalidateAll j npage fn) s = .next { s with
        last := .event, tlbs := tl, ctxs := s.ctxs.set slot { set true with invTill := s.nextId, wins := [] } } ∧
      invalidated s.tlbs.l1 tl.l1 (fun e => e.slot = slot) ∧ invalidated s.tlbs.l2 tl.l2 (fun e => e.slot = slot)) ∧
    ∀ v, v % 2 = 0 → exec (.registerWrite fn (.invctl j) v) s = .next { s with
      last := .event, ctxs := s.ctxs.set slot { c with invNpage := v / 2 ^ 8 % 2 ^ 16, invAll := v.testBit 1 } }) ∧
  (∀ (s : State) (fn j k v : Nat), s.slotOf fn j = some k → (∀ r ∈ ccbRows j v (s.ctx k),
      (((s.ctx k).state = .free ∧ (r.2.1 = true → fn = 16)) → exec (.registerWrite fn r.1 v) s = .next { s with last := .event, ctxs := s.ctxs.set k r.2.2 }) ∧
      (((s.ctx k).state ≠ .free ∨ (r.2.1 = true ∧ fn ≠ 16)) → ∃ t, exec (.registerWrite fn r.1 v) s = .next t ∧ t.ctx k = s.ctx k ∧ t = { s with last := .event, ctxs := t.ctxs })) ∧
    ∀ r ∈ freeRows j v (s.ctx k), exec (.registerWrite fn r.1 v) s = .next { s with last := .event, ctxs := s.ctxs.set k r.2 }) ∧
  (∀ (s : State) (fn i v : Nat),
    let pf (t : State) : Host.Outcome State Fault Refusal := .next (if fn = 16 then { t with last := .event } else { s with last := .event })
    exec (.registerWrite fn (.partmap i) v) s = pf { s with partmap := s.partmap.set i (BitVec.ofNat 128 v) } ∧
    exec (.registerWrite fn (.vfslot i) v) s = pf { s with vfslot := s.vfslot.set i (BitVec.ofNat 64 v) } ∧
    exec (.registerWrite fn .rsaddr v) s = pf { s with rsAddr := BitVec.ofNat 64 (v % 2 ^ 64 / 2 ^ 12 * 2 ^ 12) } ∧
    exec (.registerWrite fn .nonce v) s = .next { s with last := .event, quotes := s.quotes.modify fn fun q => { q with nonce := BitVec.ofNat 256 v } } ∧
    exec (.registerWrite fn .readOnly v) s = .next { s with last := .event }) ∧
  ∀ (s : State) (cl p : Nat) (v : BitVec 8),
    let x := s.port cl p
    exec (.portownWrite cl p v) s = .next { s with
      last := .event, clusters := if x.own = v &&& 0xBF then s.clusters else withPort s cl p { x with own := v &&& 0xBF, fifo := [], refused := 0 } }

/-- R354, R355, R359, R360: a command while one is in progress only sets REJ, and one on clusters where the front end saves waits. Level 0 waits for teams to retire, level 1 saves them,
restore puts saved teams back, reset ends the context's teams, at a round where D-mode groups live (R239), and a command past its deadline is one. R356, R357, R35: a saved team's registers
stand in their spaces, its frames in the save area, and the rest with its context (that a save is made in the step that allows it is log 16; what its Lathe entries hold is log 43).
R358: a restored team has its shared bytes and full/empty bits, its registers as its space holds them, and its commands (which registers are filled at the restore is log 65). That a command acts in every state of its slot is log 79. -/
def Obligations.PreemptionCommands : Prop :=
  (∀ (s : State) (fn j slot : Nat), s.slotOf fn j = some slot → slot < s.ctxs.length → slot < 64 →
    let c := s.ctx slot
    let acts (k : Nat) (ev : Instr) : Prop := (k, ev) ∈ [(0, Instr.preemptTeamBoundary j fn), (1, .preemptInstructionLevel j fn), (2, .pcmdRestore j fn), (3, .pcmdReset j fn)]
    let free := c.pDone = true ∧ s.frontSaves slot = false
    (c.pDone = false → ∀ ev, ((∃ k, acts k ev) ∨ ev = .pcmdNone j fn) → exec ev s = .next { s with last := .event, ctxs := s.ctxs.set slot { c with pRej := true } }) ∧
    (c.pDone = true → exec (.pcmdNone j fn) s = .next { s with last := .event, ctxs := s.ctxs.set slot { c with pRej := false } }) ∧
    (c.pDone = true → s.frontSaves slot = true → ∀ k ev, acts k ev → exec ev s = .next { s with last := .event, ctxs := s.ctxs.set slot { c with pWait := some k } }) ∧
    (free → ∃ t, exec (.preemptTeamBoundary j fn) s = .next t ∧ t.last = .event ∧ t.teams = s.teams ∧ t.groups = s.groups ∧
      t.mem = s.mem ∧ (t.ctx slot).stopMask = c.stopMask ||| c.pmask ∧ (t.ctx slot).pRej = false ∧
      ((∃ x ∈ s.teams, x.slot = slot ∧ c.pmask.getLsbD x.cluster = true) → (t.ctx slot).pState = .draining ∧ (t.ctx slot).pDone = false ∧ (t.ctx slot).pStart = s.clock.toNat) ∧
      ((∀ x ∈ s.teams, x.slot = slot → c.pmask.getLsbD x.cluster = false) → (t.ctx slot).pState = .saved ∧ (t.ctx slot).pDone = true)) ∧
    (free → (∀ x ∈ s.teams, s.teamQuiet x = false) → (∃ x ∈ s.teams, x.slot = slot ∧ c.pmask.getLsbD x.cluster = true) →
      ∃ t, exec (.preemptInstructionLevel j fn) s = .next t ∧ t.last = .event ∧ t.groups = s.groups ∧ t.mem = s.mem ∧
        t.teams = s.teams.map (fun x => if x.slot = slot ∧ x.pclass = 1 ∧ c.pmask.getLsbD x.cluster = true then { x with saving := true } else x) ∧
        (t.ctx slot).pState = .saving ∧ (t.ctx slot).pDone = false) ∧
    (∀ (x : Team) (key : Nat → Nat → Nat), free → Memory.wf s.mem = true → c.state = .active → s.teams = [x] → x.slot = slot → x.pclass = 1 → x.dmode = false →
      c.pmask.getLsbD x.cluster = true → s.teamQuiet x = true → x.saving = false → x.front = false →
      let gs := s.groups.filter (·.tag == x.tag)
      let area := c.csabase.toNat / 2 ^ 16 * 2 ^ 16 % 2 ^ 52
      let W (a : Nat) : Prop := (area ≤ a ∧ a < area + 0x31000000) ∨ ∃ g ∈ gs, ∃ o < 0x8800, a = key g.tgidx o
      x.cluster < 128 → x.shBase + (x.shBytes + 4095) / 4096 * 4096 ≤ 2 ^ 20 → (gs.map (·.tgidx)).Nodup → (gs.map (·.gid)).Nodup →
      (∀ g ∈ gs, Shaped g ∧ g.slot = slot ∧ g.gid.cluster = x.cluster ∧ g.gid.part < 4 ∧ g.gid.slot < 16 ∧ g.pend = none ∧ g.filed = [] ∧ g.vbad = [] ∧
        (∀ n ∈ g.vdirty, n < 256) ∧ g.paths.length ≤ 9) →
      (∀ g ∈ gs, ∀ h ∈ gs, ∀ o < 0x8800, ∀ p < 0x8800, key g.tgidx o = key h.tgidx p → g.tgidx = h.tgidx ∧ o = p) →
      (∀ g ∈ gs, ∀ o < 0x8800, ¬ (area ≤ key g.tgidx o ∧ key g.tgidx o < area + 0x31000000)) →
      (∀ u : State, u.ctxs.map (fun d => { d with saved := [] }) = ({ s with ctxs := s.ctxs.set slot ({ c with
            pWait := none, pRej := false, pDone := false, pStart := s.clock.toNat, pState := .saving, stopMask := c.stopMask ||| c.pmask } : Context) } : State).ctxs.map (fun d => { d with saved := [] }) →
          u.tlbs = s.tlbs → (∀ a, ¬ W a → u.mem.get a = s.mem.get a) → ∀ g ∈ gs, ∀ o n, o + n ≤ 0x8800 →
        u.regKeys g o n true = .ok ((List.range n).map fun i => key g.tgidx (o + i))) →
      ∃ (t : State) (sv : SavedTeam), exec (.preemptInstructionLevel j fn) s = .next t ∧ t.last = .event ∧ t.teams = [] ∧ t.groups.map (·.regs) = (s.groups.filter (·.tag != x.tag)).map (·.regs) ∧
        (t.ctx slot).saved = c.saved ++ [sv] ∧ (t.ctx slot).pState = .saved ∧ (t.ctx slot).pDone = true ∧ sv.team.tag = x.tag ∧ sv.byFront = false ∧
        sv.groups.map (·.regs) = gs.map (·.regs) ∧ sv.groups.map (·.paths.map fun p => (p.pc, p.exec, p.st)) = gs.map (·.paths.map fun p => (p.pc, p.exec, p.st)) ∧
        (∀ o < x.shBytes, ((sv.shared.find? (·.1 == o)).map (·.2)).getD 0 = s.mem.get (keyShared x.cluster (x.shBase + o))) ∧
        (∀ a, ¬ W a → t.mem.get a = s.mem.get a) ∧
        ∀ g ∈ gs, Spilled t g (key g.tgidx) ∧ ∀ p r, g.paths = p :: r →
          t.mem.num (c.csaGroup g.gid + 0x400) 8 = p.pc % 2 ^ 64 ∧ t.mem.num (c.csaGroup g.gid + 0x400 + 0x20) 4 = 0 ∧ t.mem.num (c.csaGroup g.gid + 0x400 + 0x24) 4 = p.exec.toNat) ∧
    (free → (∀ x ∈ c.saved, x.byFront = true) → ∃ t, exec (.pcmdRestore j fn) s = .next t ∧ t.last = .event ∧
      t.teams = s.teams ∧ t.mem = s.mem ∧ (t.ctx slot).pState = .idle ∧ (t.ctx slot).pDone = true ∧ (t.ctx slot).stopMask = c.stopMask &&& ~~~c.pmask) ∧
    (free → (s.teams.map (·.tag)).Nodup → s.liveD slot = false → ∃ t, exec (.pcmdReset j fn) s = .next t ∧ t.last = .event ∧ wasReset s t slot) ∧
    (free → s.liveD slot = true → exec (.pcmdReset j fn) s = .next { s with
      last := .event, ctxs := s.ctxs.set slot { c with pWait := none, pRej := false, pDone := false, pStart := s.clock.toNat, pState := .resetting } }) ∧
    (c.pDone = false → (s.teams.map (·.tag)).Nodup → c.pStart + 3600 * max 1 (c.pdead.toNat % 2 ^ 16) ≤ s.clock.toNat → ∃ t, exec (.forcedReset slot) s = .next t ∧ t.last = .event ∧ wasReset s t slot)) ∧
  ∀ (s : State) (sv : SavedTeam) (f : Fit) (R : Nat → Group), Memory.wf s.mem = true → sv.team.slot < s.ctxs.length → sv.team.cluster < s.clusters.length →
    (s.ctxs.findSome? fun c => c.saved.find? fun x => x.team.tag == sv.team.tag) = some sv → s.mayRestore none sv = true → s.restoreFit sv = some f →
    let lo := keyShared sv.team.cluster f.shBase
    let g0 := granuleOf lo
    let ng := (sv.team.shBytes + 4095) / 4096 * 64
    let rec' := (s.ctx sv.team.slot).csaCluster sv.team.cluster
    let W (a : Nat) : Prop := (lo ≤ a ∧ a < lo + sv.team.shBytes) ∨ (rec' ≤ a ∧ a < rec' + 0x400000)
    (∀ g ∈ sv.groups, g.pend = none ∧ ∀ o ∈ g.ops, o.plain = false) → sv.lbase + sv.latheCmds.length ≤ 32 → rec' + 0x400000 ≤ 2 ^ 52 →
    (∀ u : State, u.ctxs.map (fun d => { d with saved := [] }) = s.ctxs.map (fun d => { d with saved := [] }) → u.tlbs = s.tlbs → (∀ a, ¬ W a → u.mem.get a = s.mem.get a) →
      ∀ (i : Nat) (g : Group), sv.groups[i]? = some g → refills u (g.putBack s.clock.toNat (s.ctx sv.team.slot).posted) (R i)) →
    (sv.shared.map (·.1)).Nodup → (∀ p ∈ sv.shared, p.1 < sv.team.shBytes) →
    ∃ t, exec (.teamRestore sv.team.tag) s = .next t ∧ t.last = .event ∧ t.teams = s.teams ++ [{ sv.team with shBase := f.shBase, ztiles := f.tiles }] ∧
      t.groups.length = s.groups.length + sv.groups.length ∧ (∀ i < sv.groups.length, ∃ gt, t.groups[s.groups.length + i]? = some gt ∧ gt.regs = (R i).regs ∧
        gt.paths = (R i).paths ∧ gt.retired = (R i).retired) ∧ (∀ i g p, sv.groups[i]? = some g → p ∈ (R i).paths → ∀ a b c d, p.st ≠ .parked a b c d) ∧
      sv ∉ (t.ctx sv.team.slot).saved ∧ (∀ p ∈ sv.shared, t.mem.get (lo + p.1) = p.2) ∧
      (∀ o < sv.team.shBytes, o ∉ sv.shared.map (·.1) → t.mem.get (lo + o) = 0) ∧ (∀ a, ¬ W a → t.mem.get a = s.mem.get a) ∧
      (∀ a, a ∈ t.fe ↔ (a ∈ s.fe ∧ ¬ (g0 ≤ a ∧ a < g0 + ng)) ∨ ∃ y ∈ sv.fe, a = g0 + y) ∧
      (sv.dir < 64 → t.mem.num (rec' + 64 * sv.dir + 0x28) 8 = 0) ∧
      ∀ e, (t.cl sv.team.cluster).queue e = (s.cl sv.team.cluster).queue e ++ (sv.cmds.filter fun p => p.1 == e).map (·.2)

namespace Sys2Proof.Claims

/-- The bytes from a key on. -/
def bytesAt (m : Mem) (key n : Nat) : List Byte := (List.range n).map fun i => m.get (key + i)

/-- A write by an agent outside: these bytes at these keys, no others, and nothing else of the device but the watches of parked paths. -/
def outsideWrite (s t : State) (key : Nat → Nat) (bs : List Byte) : Prop :=
  (∀ i < bs.length, t.mem.get (key i) = bs.getD i 0) ∧ (∀ x, (∀ i < bs.length, x ≠ key i) → t.mem.get x = s.mem.get x) ∧
    t = { s with last := .event, mem := t.mem, groups := t.groups } ∧ t.groups.map (fun g => { g with paths := [] }) = s.groups.map fun g => { g with paths := [] }

/-- The registers of a slot as a host reads them, eight bytes at an offset of the CCB (R319, R327, R330, R345). -/
def ccbReads (s : State) (k : Nat) : List (Nat × List Byte) :=
  let c := s.ctx k
  let st : Nat := match c.state with
    | .free => 0
    | .active => 1
    | .frozen => 2
    | .closing => 3
  let w (n : Nat) (x : Nat) : List Byte := bytesOfWord n x
  [(0x00, w 4 (st + c.err.toNat * 2 ^ 8) ++ w 4 c.pasid.toNat), (0x08, w 8 c.ptbase.toNat), (0x10, w 8 c.pvbase.toNat), (0x18, w 4 c.plimit.toNat ++ w 4 c.perm.toNat),
   (0x20, w 4 c.scratch.toNat ++ w 4 c.kilnsh.toNat), (0x28, w 4 c.spnslot.toNat ++ w 4 0), (0x30, w 8 c.wintab.toNat), (0x38, w 8 c.colltab.toNat),
   (0x40, w 8 c.invaddr.toNat), (0x48, w 4 ((if c.invAll then 2 else 0) + c.invNpage * 2 ^ 8 + if s.invBusy k then 0 else 2 ^ 31) ++ w 4 0),
   (0x50, w 8 c.tqbase.toNat), (0x58, w 8 c.csabase.toNat), (0x60, w 4 c.freeze.cause.toNat ++ w 4 c.freeze.who.toNat),
   (0x68, w 8 c.freeze.addr.toNat), (0x70, w 8 c.freeze.pc.toNat), (0x78, w 4 c.freeze.count.toNat ++ w 4 0)]

/-- What only the physical function reads, or every function (R335, R336, R363, R328, R329, R334): the access, whether any function may, its bytes. -/
def deviceReads (s : State) (i cl p : Nat) : List (HostOp × Bool × List Byte) :=
  [(.readPartmap i, false, bytesOfWord 16 (s.partmap.getD i 0).toNat), (.readVfslot i, false, bytesOfWord 8 (s.vfslot.getD i 0).toNat),
   (.readPort cl p, false, bytesOfWord 1 (s.port cl p).own.toNat), (.readFwstat, false, bytesOfWord 4 s.fw.stat), (.readMeas i, false, bytesOfWord 64 (s.fw.meas.getD i 0).toNat),
   (.readResync, false, bytesOfWord 4 0 ++ bytesOfWord 4 (s.rsStat + if s.rsDone then 2 ^ 31 else 0) ++ bytesOfWord 8 s.rsAddr.toNat), (.readNonce i, true, zeros 8)]

/-- The firmware after a load's result (R335). -/
def loadResult (s : State) (n : Nat) : State := { s with last := .event, fw := { s.fw with stat := n } }

end Sys2Proof.Claims

/-- R4, R33, R319, R285, R334: HOST_ACCESS through a function. R363, R364: RESYNC. R335, R336: FIRMWARE_LOAD and QUOTE, whose DONE falls while a quote is made (the checks of an image and the
signature are free functions, log 8). R332, R248, R251: PEER_ACCESS_REQUEST. Where a read's bytes stand is log 74, that RESYNC's event says whether its write failed is log 75. R74, R281, R364: links (which accesses a
failed link ends is log 73). R362: the patrol, which finds the errors of memory and of the SRAMs, and dirty lines. That such a write wakes a parked path is log 92.
What is kept over DEVICE_RESET, POWER_UP and POWER_DOWN besides the firmware is the model's choice (log 21). -/
def Obligations.DeviceEvents : Prop :=
  (∀ (s : State) (fn pa n dev slot va : Nat) (bs : List Byte), Memory.wf s.mem = true →
    (rangeDram pa bs.length = true → ∃ t, exec (.hostAccess (.memWrite pa bs) fn) s = .next t ∧ outsideWrite s t (pa + ·) bs) ∧
    (rangeDram pa bs.length = false → exec (.hostAccess (.memWrite pa bs) fn) s = .next { s with last := .event }) ∧
    (rangeDram pa n = true → exec (.hostAccess (.memRead pa n) fn) s = .next { s with last := .event, hostData := bytesAt s.mem pa n }) ∧
    (∃ t, exec (.hostAccess (.hostWrite pa bs) fn) s = .next t ∧ outsideWrite s t (fun i => keyHost (pa + i)) bs) ∧
    (∃ t, exec (.hostAccess (.peerWrite dev slot va bs) fn) s = .next t ∧ outsideWrite s t (keyPeer dev slot va + ·) bs)) ∧
  (∀ (s : State) (fn j : Nat), (∀ k, s.slotOf fn j = some k →
      (∀ r ∈ ccbReads s k, exec (.hostAccess (.readCcb j r.1) fn) s = .next { s with last := .event, hostData := r.2 }) ∧
      let c := s.ctx k
      let get (off : Nat) (bs : List Byte) : Prop := exec (.hostAccess (.readLaunch j off) fn) s = .next { s with last := .event, hostData := bs }
      get 0xFC0 (bytesOfWord 8 c.accepted) ∧ get 0xFC8 (bytesOfWord 8 c.completed) ∧ get 0xFD0 (bytesOfWord 4 c.refused ++ bytesOfWord 4 (s.qdepth k)) ∧
        get 0xFD8 (bytesOfWord 4 c.mapign ++ zeros 4) ∧ ∀ off < 0xFC0, get off (zeros 8)) ∧
    (s.slotOf fn j = none → ∀ off, ∀ op ∈ [HostOp.readCcb j off, .readLaunch j off, .readDoorbell j off],
      exec (.hostAccess op fn) s = .next { s with last := .event, hostData := zeros 8 }) ∧
    ∀ i cl p, ∀ r ∈ deviceReads s i cl p, exec (.hostAccess r.1 fn) s = .next { s with
      last := .event, hostData := if fn = 16 ∨ r.2.1 = true then r.2.2 else zeros r.2.2.length }) ∧
  (∀ s : State, exec (.resync false) s = .next { s with last := .event, snapshots := s.snapshots + 1, rsStat := 1, rsDone := true } ∧
    (Memory.wf s.mem = true → ∃ t, exec (.resync true) s = .next t ∧ t.last = .event ∧ t.rsStat = 0 ∧ t.rsDone = true ∧ t.snapshots = s.snapshots + 1 ∧
      t.ctxs = s.ctxs ∧ t.launches = s.launches ∧ t.teams = s.teams ∧
      let at_ (off n : Nat) : Nat := wordOfBytes ((List.range n).map fun i => t.mem.get (keyHost (s.rsAddr.toNat + (off + i))))
      at_ 0 4 = 1 ∧ at_ 4 4 = 0x4600 ∧ at_ 8 8 = s.clock.toNat ∧ at_ 0x10 8 = (s.snapshots + 1) % 2 ^ 64 ∧ at_ 0x18 4 = s.fw.stat % 2 ^ 32 ∧
        (s.fw.meas.length = 8 → ∀ i < 7, s.errs.length = 7 → at_ (0x240 + 8 * i) 8 = s.errs.getD i 0 % 2 ^ 64))) ∧
  (∀ s : State, s.fw.powered = true → s.fw.loaded = false →
    let b := s.fw.bytes
    let ms := (Config.fwStages b).take 6
    (Config.fwFormatOk b = false → exec .firmwareLoad s = .next (loadResult s 2)) ∧
    (Config.fwFormatOk b = true → Config.fwSignatureOk b = false → exec .firmwareLoad s = .next (loadResult s 3)) ∧
    (Config.fwFormatOk b = true → Config.fwSignatureOk b = true → Config.fwVersionOk b = false → exec .firmwareLoad s = .next (loadResult s 4)) ∧
    (Config.fwFormatOk b = true → Config.fwSignatureOk b = true → Config.fwVersionOk b = true →
      ∃ m, exec .firmwareLoad s = .next { s with last := .event, fw := { s.fw with stat := 1, loaded := true, meas := m, stages := ms.length } } ∧
        m.length = 8 ∧ m.take ms.length = ms ∧ ∀ x ∈ m.drop ms.length, x = 0)) ∧
  (∀ (s : State) (fn : Nat) (b : QuoteBox), s.quotes[fn]? = some b →
    (exec (.quote fn true) s = .next { s with last := .event, quotes := s.quotes.set fn { b with done := false } }) ∧
    (b.done = false → s.fw.meas.length = 8 → ∃ q, exec (.quote fn false) s = .next { s with last := .event, quotes := s.quotes.set fn { b with done := true, quote := q } } ∧
      q.take 8 = bytesOfWord 4 1 ++ bytesOfWord 4 s.fw.stages ∧ (q.drop 16).take 32 = bytesOfWord 32 b.nonce.toNat ∧
      (q.drop 48).take 32 = bytesOfWord 32 Config.identityKey.toNat ∧ (q.drop 80).take 512 = s.fw.meas.flatMap (fun m => bytesOfWord 64 m.toNat) ∧
      q.drop 592 = bytesOfWord 64 (Config.quoteSignature (q.take 592)).toNat) ∧
    exec (.hostAccess .readQuoteCtl fn) s = .next { s with last := .event, hostData := bytesOfWord 4 (if b.done then 2 ^ 31 else 0) } ∧
    ∀ off, exec (.hostAccess (.readQuote off) fn) s = .next { s with last := .event, hostData := (b.quote.drop off).take 8 }) ∧
  (∀ (s : State) (slot va n : Nat) (bs : List Byte) (op : AtomOp) (w64 : Bool) (v x y : DWord) (X Y : BitVec 128),
    let ev (x : PeerOp) := exec (.peerAccessRequest slot va x) s
    let remote : Host.Outcome State Fault Refusal := .next { s with last := .event, hostData := bytesOfWord 2 0x010C }
    let w := if w64 then 8 else 4
    let rw : Need := { types := [0, 4], r := true, w := true, at_ := true }
    (((s.ctx slot).state ≠ .active ∨ (s.ctx slot).perm.getLsbD 12 = false) →
      ev (.read n) = remote ∧ ev (.write bs) = remote ∧ ev (.atom op w64 v) = remote ∧ ev (.cas w64 x y) = remote ∧ ev (.cas2 X Y) = remote) ∧
    (s.peerKeys slot va n needR = none → ev (.read n) = remote) ∧ (s.peerKeys slot va bs.length needW = none → ev (.write bs) = remote) ∧
    (∀ ks, s.peerKeys slot va n needR = some ks → ev (.read n) = .next { s with last := .event, hostData := ks.map s.mem.get }) ∧
    (∀ ks, s.peerKeys slot va bs.length needW = some ks → ∃ t, ev (.write bs) = .next t ∧ t.last = .event ∧ t.hostData = [] ∧ t.mem = s.mem.setAll (ks.zip bs) ∧
      t.ctxs = s.ctxs ∧ t.groups.map (·.regs) = s.groups.map (·.regs)) ∧
    ((va % w ≠ 0 ∨ s.peerKeys slot va w rw = none) → ev (.atom op w64 v) = remote ∧ ev (.cas w64 x y) = remote) ∧
    ((va % 16 ≠ 0 ∨ s.peerKeys slot va 16 rw = none) → ev (.cas2 X Y) = remote) ∧
    (∀ k ks, Memory.wf s.mem = true → va % w = 0 → s.peerKeys slot va w rw = some (k :: ks) →
      let old := s.mem.num k w
      let did (e : PeerOp) (new : Nat → Prop) : Prop := ∃ t, ev e = .next t ∧ t.last = .event ∧ t.hostData = bytesOfWord w old ∧ keepsMem s t k w ∧ new (t.mem.num k w) ∧
        t.groups.map (·.regs) = s.groups.map (·.regs)
      ((w64 = false → v.toNat < 2 ^ 32) → did (.atom op w64 v) (atomicNew op (8 * w) old v.toNat)) ∧
      did (.cas w64 x y) (fun z => z = if old = x.toNat % 2 ^ (8 * w) then y.toNat % 2 ^ (8 * w) else old)) ∧
    (∀ k ks, Memory.wf s.mem = true → va % 16 = 0 → s.peerKeys slot va 16 rw = some (k :: ks) → ∃ t, ev (.cas2 X Y) = .next t ∧ t.last = .event ∧
      t.hostData = bytesOfWord 16 (s.mem.num k 16) ∧ keepsMem s t k 16 ∧ t.mem.num k 16 = (if s.mem.num k 16 = X.toNat then Y.toNat else s.mem.num k 16))) ∧
  (∀ (s : State) (port : Nat) (p : LinkPort), s.tlanto[port]? = some p →
    (p.st = 2 → (∀ cl, ∀ c ∈ (s.cl cl).link, c.sent = true → s.collReaches c.slot c.kind.coll p.dev = false) →
      (s.opsTo p.dev = [] → exec (.linkFailure port) s = .next { s with last := .event, tlanto := s.tlanto.set port { p with st := 3, lanes := 0 } }) ∧
      (∀ gi k g o x, (∀ cl, (s.cl cl).link = []) → s.opsTo p.dev = [(gi, o)] → CanFail s gi k g o x → o.plain = false →
        let f : FaultInfo := { code := .linkDown, addr := o.addrOf 255, late := true, direct := o.isStore }
        (o.isStore = false → CanEnter s (g.complete o) → ∃ t, exec (.linkFailure port) s = .next t ∧ t.last = .event ∧
          t.tlanto = s.tlanto.set port { p with st := 3, lanes := 0 } ∧ Entered s t gi (g.complete o) f o.pc x.pc x.id) ∧
        (o.isStore = true → CanDie s (g.complete o) → ∃ t, exec (.linkFailure port) s = .next t ∧ t.last = .event ∧
          t.tlanto = s.tlanto.set port { p with st := 3, lanes := 0 } ∧ DiesWith s t gi (g.complete o) f o.pc .linkDown))) ∧
    (∀ lanes dev retrain, lanes < 16 → dev < 2 ^ 12 → exec (.tlantoLinkTraining port lanes dev retrain) s = .next { s with
      last := .event
      tlanto := s.tlanto.set port { st := 2, lanes := lanes, dev := dev, count := if retrain then p.count + 1 else p.count } })) ∧
  (∀ (s : State) (port st : Nat) (e : Bool) (p : LinkPort), s.cxl[port]? = some p → st < 4 → exec (.cxlPortEvent port st e) s = .next { s with
      last := .event
      cxl := s.cxl.set port { p with st := st, count := if e then p.count + 1 else p.count } }) ∧
  (∀ (s : State) (stack c u : Nat), stack ≤ 12 → 4 ≤ s.errs.length → ∃ e, exec (.patrolPass stack c u) s = .next { s with last := .event, errs := e } ∧
    let k := if stack = 12 then 2 else 0
    e.getD k 0 = s.errs.getD k 0 + c ∧ e.getD (k + 1) 0 = s.errs.getD (k + 1) 0 + u ∧ ∀ i, i ≠ k → i ≠ k + 1 → e.getD i 0 = s.errs.getD i 0) ∧
  (∀ (s : State) (pa : Nat) (old : List Byte), Memory.wf s.mem = true → rangeDram pa old.length = true → old ≠ [] → s.errs.length = 7 →
    ∃ m e, exec (.dirtyLineDiscard pa old) s = .next { s with last := .event, mem := m, errs := e, lastBad := pa } ∧ bytesAt m pa old.length = old ∧
      (∀ x, (x < pa ∨ pa + old.length ≤ x) → m.get x = s.mem.get x) ∧
      ∀ i, e.getD i 0 = if i = 4 ∨ i = 6 then s.errs.getD i 0 + 1 else s.errs.getD i 0) ∧
  (∀ s : State,
    let kept (m : Mem) (fe : List Nat) (fw : Firmware) : State := { State.reset with
      last := .event, agenda := s.agenda, free := s.free, nextId := s.nextId, mem := m, fe := fe, fw := fw }
    exec .deviceReset s = .next (kept s.mem s.fe s.fw) ∧
    (Memory.wf s.mem = true →
      let lost (m : Mem) : Prop := ∀ k, m.get k = if 2 ^ 56 ≤ k ∨ (2 ^ 54 ≤ k ∧ k < 2 ^ 55) then s.mem.get k else 0
      (∃ m, exec .powerDown s = .next (kept m [] { powered := false }) ∧ lost m) ∧
      (s.fw.powered = false → ∃ m, exec .powerUp s = .next (kept m [] {}) ∧ lost m)))

/-- R58, R20, R24, R39, R43: what an instruction reads. A 64-bit source takes the next register's word, or an A or special register, as its high half; a 32-bit source takes the low
word. An integer constant is sign-extended, and a floating-point source takes it, or a constant of the table, rounded to its format and replicated. -/
def Obligations.SourceRead : Prop :=
  (∀ (e : Env) (l : Nat) (n : BitVec 8) (m : BitVec 6),
    e.rd (.v n) true l = e.g.vlane (n.toNat + 1) l ++ e.g.vlane n.toNat l ∧ e.rd (.v n) false l = (e.g.vlane n.toNat l).setWidth 64 ∧
    e.rd (.s m) true l = e.g.sreg (m.toNat + 1) ++ e.g.sreg m.toNat ∧ e.rd (.s m) false l = (e.g.sreg m.toNat).setWidth 64 ∧
    e.rd (.a m) true l = e.g.areg m.toNat ∧
    e.rd (.sr .lane) false l = BitVec.ofNat 64 (l % 2 ^ 32) ∧ e.rd (.sr .exec) false l = e.p.exec.setWidth 64 ∧
    e.rd (.sr .retired) true l = e.g.retired ∧ e.rd (.sr .retired) false l = (e.g.retired.setWidth 32).setWidth 64 ∧
    e.rd (.sr .tvec) true l = e.g.regs.tvec ∧ e.rd (.sr .fmtb) true l = e.g.regs.fmtb ∧ e.rd (.sr .slip) false l = BitVec.ofNat 64 (e.g.regs.slip % 2 ^ 32)) ∧
  (∀ (e : Env) (l : Nat) (q : BitVec 2) (v : LaneVec), (q.toNat, v) ∈ e.pops → (e.pops.map (·.1)).Nodup → e.rd (.q q) false l = (v.getD l 0).setWidth 64) ∧
  (∀ (e : Env) (l : Nat) (k : BitVec 6) (w64 : Bool), k.toNat < 48 →
    let x : Int := if k.toNat < 32 then k.toNat else (k.toNat : Int) - 48
    e.rd (.const k) w64 l = (if w64 then BitVec.ofInt 64 x else (BitVec.ofInt 32 x).setWidth 64) ∧
    ∀ ty : Ty, ty.isFloat = true → ∀ j < ty.count, x ≠ 0 → ∃ c, RoundsTo (fmtOf ty) .rne false (decide (x < 0)) (x : ℝ) (elementOf ty (e.rdF (.const k) ty l) j, c)) ∧
  (∀ (e : Env) (l : Nat) (w64 : Bool), ∀ r ∈ ([(48, 0x3F000000), (49, 0xBF000000), (50, 0x3F800000), (51, 0xBF800000), (52, 0x40000000), (53, 0xC0000000), (54, 0x40800000),
      (55, 0xC0800000), (56, 0x3E800000), (57, 0x3E22F983), (58, 0x3F317218), (59, 0x3FB8AA3B), (60, 0x40490FDB), (61, 0x7F800000), (62, 0xFF800000),
      (63, 0x7F7FFFFF)] : List (BitVec 6 × Word)),
    e.rd (.const r.1) w64 l = r.2.setWidth 64 ∧ e.rdF (.const r.1) .f32 l = r.2) ∧
  (∀ e : Env, (∃ i < 32, e.p.exec.getLsbD i = true) → e.ulane < 32 ∧ e.p.exec.getLsbD e.ulane = true ∧ ∀ i < e.ulane, e.p.exec.getLsbD i = false) ∧
  ∀ (e : Env) (l : Nat), e.isActive l = true ↔ (e.p.exec.getLsbD l = true ∧ e.g.pred e.gd.p.toNat l = !e.gd.neg)

namespace Sys2Proof.Claims

/-- The cursor at the slot of a line that an address names. -/
def aimed (s : State) (l : Line) (pc : Nat) : State :=
  { s with cur := { g := s.cur.g, sl := s.cur.sl, p := s.cur.p, addr := pc, word := l.words.getD (pc % 64 / 12) 0, seta := l.seta, setb := l.setb } }

/-- The slice or path that has been tried waits anew from now (R305). -/
def waitsAnew (s : State) (g : Group) : Group := match s.cur.sl with
  | .a => { g with asince := s.clock.toNat }
  | .c => { g with paths := g.paths.map fun p => if p.id == s.cur.p then { p with since := s.clock.toNat } else p }

/-- It has issued: the paths of its group take turns behind it, in the order of the split table (R305). -/
def hasIssued (s : State) (g : Group) : Group := match s.cur.sl with
  | .a => waitsAnew s g
  | .c => match g.path s.cur.p with
    | some p => { waitsAnew s g with turn := match p.split with
        | some k => k + 1
        | none => 0 }
    | none => waitsAnew s g

/-- The slices and paths of one cluster and issue partition that have yielded count who has been offered the slot (R165). -/
def hasSeen (s : State) (id : Gid) (g : Group) : Group :=
  if g.gid.cluster = id.cluster ∧ g.gid.part = id.part then match s.cur.sl with
    | .a => if s.clock.toNat < g.ayield then { g with apassed := g.apassed ++ [(id, s.cur.p)] } else g
    | .c => { g with paths := g.paths.map fun p => if s.clock.toNat < p.yield then { p with passed := p.passed ++ [(id, s.cur.p)] } else p }
  else g

/-- The time that a step takes, which no statement depends on (log 3). -/
def timePasses (t : State) : State := { t with clock := t.clock + BitVec.ofNat 64 (Config.elapsed t.free), free := t.free + 1 }

/-- What a step adds to an instruction: the turns of the issue stage when it has retired or has stalled, and the time that passes. -/
def stepOf (s : State) (id : Gid) : Host.Outcome State Fault Refusal → Host.Outcome State Fault Refusal
  | .next t => .next (timePasses (match t.last with
    | .retired => { t with groups := (t.groups.modify s.cur.g (hasIssued s)).map (hasSeen s id) }
    | .stalled => { t with groups := t.groups.modify s.cur.g (waitsAnew s) }
    | _ => t))
  | o => o

/-- ISSUE_SELECTION has chosen a path or the A-slice of a group that may issue, no timer of the group is due, and no YIELD holds it back. -/
structure Chosen (s : State) (g : Group) (pc : Nat) : Prop where
  chosen : s.cur.chosen = true
  here : s.groups[s.cur.g]? = some g
  live : s.live g = true
  due : s.timerDue g = false
  held : g.held = false ∨ g.inh = true
  free : s.yields g ⟨s.cur.g, s.cur.sl, s.cur.p⟩ = false
  pathC : s.cur.sl = .c → ∃ p, g.path s.cur.p = some p ∧ p.st = .run ∧ p.pc = pc
  pathA : s.cur.sl = .a → s.cur.p = 0 ∧ g.ast = .run ∧ g.inh = false ∧ g.apc = pc

end Sys2Proof.Claims

/-- R36, R37, R46, R47, R305: a step runs the instruction that the bytes at the program counter hold. In a line that has been entered, or that is entered now, the step is `exec` of the
decoded instruction with the cursor at its slot, and the issue stage notes whose turn it was (R165, R305; log 78); a word that does not decode raises its fault. Both of a pair retire, or neither has an
effect (R50, R51). What is chosen goes before the agenda (log 1), whose events a step performs one by one; the time that a step takes, and what a fetch leaves in the translation caches, are left open (logs 3, 17, 86). -/
def Obligations.StepRunsDecoded : Prop :=
  (∀ (s : State) (g : Group) (pc : Nat) (l : Line) (i : Instr), Chosen s g pc → l.addr = pc / 64 * 64 → l.pair (pc % 64 / 12) = false →
    (s.cur.sl = .c → ∀ p, g.path s.cur.p = some p → p.line = some l) → (s.cur.sl = .a → g.aline = some l) →
    decodeWord (l.words.getD (pc % 64 / 12) 0) = .ok i → step s = stepOf s g.gid (exec i (aimed s l pc))) ∧
  (∀ (s : State) (g : Group) (pc : Nat) (bs : List Byte) (i : Instr), Chosen s g pc → slotOk pc = true →
    (s.cur.sl = .c → ∀ p, g.path s.cur.p = some p → p.line = none) → (s.cur.sl = .a → g.aline = none) →
    s.lineBytesAt g.gid.cluster g.slot (pc / 64 * 64) = .ok bs →
    let l := Line.ofBytes (pc / 64 * 64) bs
    let k := pc % 64 / 12
    l.parityOk bs = true → badLine l s.cur.sl = false → (0 < k → l.pair (k - 1) = false) → (∀ f < 12, l.wait f = true → g.flags.getD f 0 = 0) → l.pair k = false →
    decode ((bs.drop (12 * k)).take 12) = .ok i →
    ∃ tl,
      let h : Group := match s.cur.sl with
        | .a => { g with aline := some l }
        | .c => Group.withPath g s.cur.p fun p => { p with line := some l }
      step s = stepOf s g.gid (exec i (aimed { s with groups := s.groups.set s.cur.g h, tlbs := tl } l pc))) ∧
  (∀ (s : State) (g : Group) (p : Path) (l : Line) (i j : Instr) (t : State), Chosen s g p.pc → s.cur.sl = .c → g.path s.cur.p = some p → p.line = some l → l.addr = p.pc / 64 * 64 →
    let k := p.pc % 64 / 12
    let a := aimed s l p.pc
    let w := l.words.getD (k + 1) 0
    l.pair k = true → decodeWord (l.words.getD k 0) = .ok i → decodeWord w = .ok j → a.pairFault g (l.words.getD k 0) w = none → exec i a = .next t →
    (t.last ≠ .retired → step s = stepOf s g.gid (.next t)) ∧
    (∀ u, t.last = .retired → exec j (a.trial g i w) = .next u → (u.last ≠ .retired → step s = stepOf s g.gid (.next u)) ∧
      (u.last = .retired → ∀ v, exec j (t.second g w) = .next v → step s = stepOf s g.gid (.next { v with snap := none })))) ∧
  (∀ (s : State) (g : Group) (p : Path) (l : Line) (r : Reject), Chosen s g p.pc → s.cur.sl = .c → g.path s.cur.p = some p → p.line = some l → l.addr = p.pc / 64 * 64 →
    l.pair (p.pc % 64 / 12) = false → decodeWord (l.words.getD (p.pc % 64 / 12) 0) = .error r → s.snap = none →
    ∃ t, step s = .next t ∧ t.last = .faulted (match r with
      | .illegalOpcode => .illegalOpcode
      | .illegalEncoding => .illegalEncoding)) ∧
  ∀ (s : State) (e : Instr) (r : List Instr), s.cur.chosen = false → s.agenda = e :: r → e.isEvent = true → step s = match exec e { s with agenda := r } with
    | .next t => .next (timePasses t)
    | o => o

namespace Sys2Proof.Claims

/-- The number of ones in some bytes. -/
def onesIn (bs : List Byte) : Nat := ((List.range (8 * bs.length)).filter fun i => (bs.getD (i / 8) 0).getLsbD (i % 8)).length

end Sys2Proof.Claims

/-- R37: the instruction in slot `k` of a line occupies bytes `12 k` to `12 k + 11`, and bit `b` of its word is bit `b mod 8` of byte `12 k + ⌊b / 8⌋`; the line word
stands in the same way in the last four bytes (R44). R45: a parity bit is correct when the number of ones in its bytes, with the bit itself, is even. R55: of the words with opcode 0x186 only the
one whose other fields are all zero is NOP, and any other raises ILLEGAL_ENCODING. NOP only retires: the program counter moves on and, in the C-slice, RETIRED rises by one. -/
def Obligations.BytesOfALine : Prop :=
  (∀ (a : Nat) (bs : List Byte), bs.length = 64 →
    let l := Line.ofBytes a bs
    (∀ k < 5, ∀ b < 96, (l.words.getD k 0).getLsbD b = (bs.getD (12 * k + b / 8) 0).getLsbD (b % 8)) ∧
    (∀ b < 32, l.lw.getLsbD b = (bs.getD (60 + b / 8) 0).getLsbD (b % 8)) ∧
    (l.parityOk bs = true ↔ (onesIn (bs.take 30) + l.parlo.toNat) % 2 = 0 ∧ (onesIn ((bs.drop 30).take 30) + l.parhi.toNat) % 2 = 0)) ∧
  (∀ w : BitVec 96, w.extractLsb' 86 10 = 0x186 → decodeWord w = if w = 0x186 <<< 86 then .ok .nop else .error .illegalEncoding) ∧
  (∀ (s : State) (g : Group), Issues .nop s g → Passes .nop s g ∧ ∀ h, Passed .nop s g h → h.retired = if s.cur.sl = .c then g.retired + 1 else g.retired) ∧
  ∀ (s : State) (g : Group) (p : Path) (l : Line), Chosen s g p.pc → s.cur.sl = .c → g.path s.cur.p = some p → p.line = some l → l.addr = p.pc / 64 * 64 →
    l.pair (p.pc % 64 / 12) = false → s.snap = none → (l.words.getD (p.pc % 64 / 12) 0).extractLsb' 86 10 = 0x186 → l.words.getD (p.pc % 64 / 12) 0 ≠ 0x186 <<< 86 →
    ∃ t, step s = .next t ∧ t.last = .faulted .illegalEncoding

namespace Sys2Proof.Claims

/-- A command of the gather engine that has not started and may run. -/
structure Gathering (s : State) (cl : Nat) (c : Cmd) (k : CmdKind) : Prop where
  mem : Memory.wf s.mem = true
  cluster : cl < s.clusters.length
  there : (s.cl cl).gather.find? (·.id == c.id) = some c
  ready : s.cmdReady c = true
  unsent : c.sent = false
  start : c.pos = 0 ∧ c.sub = 0 ∧ c.todo = []
  kind : c.kind = k

/-- The first `m` rows of a KVGATHER are at hand (R101, R104): position `p` lies in logical block `p / 16`, as token `p mod 16`, whose physical block `b` gives; the row's bytes lie at `sk`, and
its place in the destination at `dk`. What the cluster's KVTB holds of the sequence agrees with the table. -/
structure Rows (s : State) (c : Cmd) (rows : KvRows) (sp : Space) (sd p0 n dst : Nat) (k : KvDesc) (b sk dk : Nat → Nat) (m : Nat) : Prop where
  cached : ∀ x ∈ (s.cl c.gid.cluster).kvtb, x.1 = c.slot → x.2.1 = sd → x.2.2.2 = b x.2.2.1
  desc : ∀ u, Undisturbed s u (fun x => ∃ o < m * k.rb, x = dk o) → kvDesc (u.engRead c) sd = .ok k
  row : ∀ u, Undisturbed s u (fun x => ∃ o < m * k.rb, x = dk o) → ∀ j < m,
    let q := p0 + j % n
    let v := if rows = .v ∨ n ≤ j then 16 else 0
    let r := k.pool + b (q / 16) * 32 * k.rb + (v + q % 16) * k.rb
    q / 16 < k.cap ∧ b (q / 16) ≠ 0xFFFFFFFF ∧ b (q / 16) < k.nblk ∧ r + k.rb ≤ 2 ^ 56 ∧ u.engRead c (k.table + 4 * (q / 16)) 4 = .ok (b (q / 16)) ∧
      u.rangeKeys c.gid.cluster c.slot r k.rb needR = .ok ((List.range k.rb).map fun i => sk (j * k.rb + i)) ∧
      u.engKeys c sp (dst + j * k.rb) k.rb true = .ok ((List.range k.rb).map fun i => dk (j * k.rb + i))
  apart : ∀ o < m * k.rb, ∀ p < m * k.rb, sk o ≠ dk p

/-- Exactly those rows have been copied. -/
def RowsCopied (s t : State) (sk dk : Nat → Nat) (n : Nat) : Prop :=
  (∀ o < n, t.mem.get (dk o) = s.mem.get (sk o)) ∧ ∀ x, (∀ o < n, x ≠ dk o) → t.mem.get x = s.mem.get x

/-- The command's batch fails with this fault (R96, R97); `r` says what has become of its group's registers. -/
def FailsBatch (s t : State) (c : Cmd) (f : FCode) (a : Nat) (r : Group → Group → Prop) : Prop :=
  ∀ (gi : Nat) (g : Group), s.groups.findIdx? (fun g => g.gid == c.gid && g.tag == c.tag) = some gi → s.groups[gi]? = some g →
    ∃ gt, t.groups[gi]? = some gt ∧ c.id ∉ gt.openLeft ∧ r g gt ∧ (c.id ∈ g.openLeft → g.openFail = none → gt.openFail = some { code := f, addr := a })

/-- The result word and the success predicate of a KVAPPEND or KVSHARE are written, in every lane of the path that issued it, and no other register; what waited for them completes (R39, R49, R105). -/
def Results (c : Cmd) (d px v : Nat) (ok : Bool) (g gt : Group) : Prop :=
  ∀ o, Shaped g → g.ops.find? (fun o => o.kind == .engine c.id) = some o → d < 64 →
    gt.ops = g.ops.filter (fun x => x.id != o.id) ∧ gt.sreg d = BitVec.ofNat 32 v ∧ (∀ r, r ≠ d → gt.sreg r = g.sreg r) ∧ gt.regs.v = g.regs.v ∧ gt.regs.a = g.regs.a ∧
      ∀ p l, p < 64 → l < 32 → gt.pred p l = if p ≠ 0 ∧ p = px ∧ o.held.getLsbD l = true then ok else g.pred p l

/-- The command ends with this result and no fault: memory is that of `u`. -/
def EndsWith (s u t : State) (ev : Instr) (cl : Nat) (c : Cmd) (d px v : Nat) (ok : Bool) : Prop :=
  Ended s t ev cl .gather c ∧ t.mem = u.mem ∧ ∀ (gi : Nat) (g : Group), s.groups.findIdx? (fun g => g.gid == c.gid && g.tag == c.tag) = some gi → s.groups[gi]? = some g →
    ∃ gt, t.groups[gi]? = some gt ∧ Results c d px v ok g gt

/-- Numbers of four bytes are written in this order, up to the first that cannot be: the state, and that one's fault. -/
def writes4 (c : Cmd) : List (Nat × Nat) → State → State × Option (FCode × Nat)
  | [], s => (s, none)
  | (a, x) :: r, s => match s.engWrite c a 4 x with
    | .ok t => writes4 c r t
    | .error e => (s, some e)

/-- What comes of a part of KVAPPEND or KVSHARE: it has been done, or it ends the operation with a reason, or with a fault; KVSHARE counts the tokens shared. -/
inductive Part
  | done
  | stops (reason tokens : Nat)
  | faults (e : FCode × Nat) (tokens : Nat)
  deriving DecidableEq, Repr

/-- The free list at FREEL, as the engine's step finds it (R263, R265, R325): all of `n` blocks, or none, or a fault. -/
def takeFrom (s : State) (c : Cmd) (freel n : Nat) : State × Except (FCode × Nat) (Option (List Nat)) :=
  match s.syncKey c.gid.cluster c.slot freel 64 64 with
  | .error f => (s, .error (f, freel))
  | .ok key => if s.poisoned key = true then (s, .error (.eccUncorrected, freel)) else s.takeBlocks c.asker key freel n

/-- One entry of an append list, as R105 writes it: the blocks it needs are taken, the table names them, each is counted once, and LEN grows last. -/
def appendOne (s : State) (c : Cmd) (at_ : Nat) : State × Part :=
  match s.engRead c at_ 16 with
  | .error e => (s, .faults e 0)
  | .ok x =>
    let sd := x % 2 ^ 64
    let n := x / 2 ^ 64 % 2 ^ 32
    match kvDesc (s.engRead c) sd with
    | .error e => (s, .faults e 0)
    | .ok k =>
      let old := (k.len + 15) / 16
      let new := (k.len + n + 15) / 16
      let put (ws : List (Nat × Nat)) (u : State) : State × Part := match writes4 c (ws ++ [(sd + 16, k.len + n)]) u with
        | (v, none) => (v, .done)
        | (v, some e) => (v, .faults e 0)
      if 1024 < n ∨ x / 2 ^ 96 ≠ 0 then (s, .stops 3 0)
      else if k.cap < new then (s, .stops 2 0)
      else if new ≤ old then put [] s
      else match takeFrom s c k.freel (new - old) with
        | (u, .error e) => (u, .faults e 0)
        | (u, .ok none) => (u, .stops 1 0)
        | (u, .ok (some bs)) => put ((bs.zipIdx.map fun b => (k.table + 4 * (old + b.2), b.1)) ++ bs.map fun b => (k.refc + 4 * b, 1)) u

/-- The state after the first `j` entries. -/
def appended (s : State) (c : Cmd) (list : Nat) : Nat → State
  | 0 => s
  | j + 1 => (appendOne (appended s c list j) c (list + 16 * j)).1

/-- The first `n` full blocks of a KVSHARE, as R106 writes it: each is counted, unless its count is at its end, and then named in the destination's table. -/
def shareFull (s : State) (c : Cmd) (src dst : KvDesc) : Nat → State × Part
  | 0 => (s, .done)
  | i + 1 => match shareFull s c src dst i with
    | (u, .done) => match u.engRead c (src.table + 4 * i) 4 with
      | .error e => (u, .faults e (16 * i))
      | .ok b => match u.engRead c (src.refc + 4 * b) 4 with
        | .error e => (u, .faults e (16 * i))
        | .ok n =>
          if n = 0xFFFFFFFF then (u, .stops 5 (16 * i))
          else match writes4 c [(src.refc + 4 * b, n + 1), (dst.table + 4 * i, b)] u with
            | (v, none) => (v, .done)
            | (v, some e) => (v, .faults e (16 * i))
    | r => r

/-- Rows copied one by one, each an address to read and one to write, up to the first that faults (R106). -/
def copiesRows (c : Cmd) (n : Nat) : List (Nat × Nat) → State → State × Option (FCode × Nat)
  | [], s => (s, none)
  | (a, b) :: r, s => match s.engRead c a n with
    | .error e => (s, some e)
    | .ok v => match s.engWrite c b n v with
      | .ok t => copiesRows c n r t
      | .error e => (s, some e)

/-- The partial block of a KVSHARE of `16 f + r` tokens (R106): a fresh block, the `r` rows of K and then those of V, its place in the table, and its count. -/
def sharePart (s : State) (c : Cmd) (src dst : KvDesc) (f r : Nat) : State × Part :=
  match takeFrom s c dst.freel 1 with
  | (u, .error e) => (u, .faults e (16 * f))
  | (u, .ok (some [nb])) => match u.engRead c (src.table + 4 * f) 4 with
    | .error e => (u, .faults e (16 * f))
    | .ok b =>
      let rows (v : Bool) : List (Nat × Nat) := (List.range r).map fun t => (src.row b t v, dst.row nb t v)
      match copiesRows c src.rb (rows false ++ rows true) u with
      | (w, some e) => (w, .faults e (16 * f))
      | (w, none) => match writes4 c [(dst.table + 4 * f, nb)] w with
        | (x, some e) => (x, .faults e (16 * f))
        | (x, none) => match writes4 c [(dst.refc + 4 * nb, 1)] x with
          | (y, some e) => (y, .faults e (16 * f + r))
          | (y, none) => (y, .done)
  | (u, .ok _) => (u, .stops 1 (16 * f))

/-- A KVSHARE of `m` tokens between two sequences that pass its first checks, but for its last write, of the destination's LEN (R106). -/
def shareAll (s : State) (c : Cmd) (src dst : KvDesc) (m : Nat) : State × Part :=
  match shareFull s c src dst (m / 16) with
  | (u, .done) => if m % 16 = 0 then (u, .done) else sharePart u c src dst (m / 16) (m % 16)
  | r => r

end Sys2Proof.Claims

/-- R100, R101, R104-R106, R263: what the gather engine does. The descriptors' fields, KV_RANGE for a reserved one, and the places of the rows. KVGATHER copies row after row, the V rows after the K rows, and
stops at a position that has no block, the rows before it written. KVAPPEND serves its entries in order, and its registers get the reason it ended for, 4 for a fault, with the entries served; KVSHARE shares full
blocks, copies a partial one into a fresh block, and writes LEN last, after a fault too unless that lies on the destination's own descriptor. A take applies every posted record and then gives all
blocks or none. Descriptors and pools that are not aligned (log 102), positions of 2^32 and more (log 104), two pool descriptors of one pool (log 105) and match lengths above 65,535 (log 106) are the model's choices. -/
def Obligations.GatherEngineWork : Prop :=
  (∀ (rd : Nat → Nat → Except (FCode × Nat) Nat) (sd v w : Nat), v < 2 ^ 256 → w < 2 ^ 512 → rd sd 32 = .ok v → rd (v / 2 ^ 64 % 2 ^ 64) 64 = .ok w →
    let geom := w / 2 ^ 224 % 2 ^ 32
    let good : Prop := v / 2 ^ 192 = 0 ∧ w / 2 ^ 256 = 0 ∧ geom % 16 < 4 ∧ geom / 16 < 5
    (good → kvDesc rd sd = .ok { table := v % 2 ^ 64, len := v / 2 ^ 128 % 2 ^ 32, cap := v / 2 ^ 160 % 2 ^ 32, pool := w % 2 ^ 64, freel := w / 2 ^ 64 % 2 ^ 64,
                                 refc := w / 2 ^ 128 % 2 ^ 64, nblk := w / 2 ^ 192 % 2 ^ 32, rb := [32, 64, 128, 256].getD (geom % 16) 0 * [2, 2, 1, 1, 4].getD (geom / 16) 0 }) ∧
    (¬ good → ∃ a, kvDesc rd sd = .error (.kvRange, a))) ∧
  (∀ (d : KvDesc) (b t : Nat), t < 16 → 0 < d.rb → d.pool + b * 32 * d.rb + 32 * d.rb ≤ 2 ^ 64 →
    d.row b t false = d.pool + b * 32 * d.rb + t * d.rb ∧ d.row b t true = d.pool + b * 32 * d.rb + (16 + t) * d.rb) ∧
  (∀ (s : State) (a : Asker) (key va n : Nat), Memory.wf s.mem = true →
    (s.mem.num key 4 % 16 ≠ 2 → s.takeBlocks a key va n = (s, .error (.objKind, va))) ∧
    (s.mem.num key 4 % 16 = 2 → ∀ f, s.objCheck a key va = .error f → s.takeBlocks a key va n = (s, .error (f, va))) ∧
    (s.mem.num key 4 % 16 = 2 → s.objCheck a key va = .ok () →
      let t := s.applyAll (s.mem.num (key + 8) 4) key va
      let W (j : Nat) : Nat := t.mem.num (key + 16 + 8 * j) 8
      (W 2 < n → s.takeBlocks a key va n = (t, .ok none)) ∧
      (n ≤ W 2 → ∀ f : Nat → Nat, (∀ i < n, sideAt t (t.mem.num (key + 48) 4 / 2 ^ 7 % 2 ^ 6) f ((W 0 + 4 * (W 2 - 1 - i)) % 2 ^ 64) 4 needR) →
        ∃ u, s.takeBlocks a key va n = (u, .ok (some ((List.range n).map fun i => numAt t.mem f ((W 0 + 4 * (W 2 - 1 - i)) % 2 ^ 64) 4))) ∧
          u.mem.num (key + 32) 8 = W 2 - n ∧ ∀ x, ¬ (key + 32 ≤ x ∧ x < key + 40) → u.mem.get x = t.mem.get x))) ∧
  (∀ (s : State) (c : Cmd) (rows : KvRows) (sc : Bool) (sd p0 n dst : Nat) (k : KvDesc) (b sk dk : Nat → Nat) (m : Nat),
    let cl := c.gid.cluster
    let ev := Instr.engineOperation cl .gather c.id
    let total := if rows = .kv then 2 * n else n
    let q := p0 + m % n
    let ta := k.table + 4 * (q / 16)
    Gathering s cl c (.kvgather rows sc sd p0 n dst) → 0 < n → 0 < k.rb → Rows s c rows (if sc then .scratch else .shared) sd p0 n dst k b sk dk m → distinct dk (m * k.rb) →
    (m = total → ∃ t, Ended s t ev cl .gather c ∧ RowsCopied s t sk dk (m * k.rb) ∧ t.groups.map (·.regs) = s.groups.map (·.regs)) ∧
    (m < total → ∀ f a, (k.cap ≤ q / 16 ∧ f = .kvRange ∧ a = sd ∨
        q / 16 < k.cap ∧ (∀ u, Undisturbed s u (fun x => ∃ o < m * k.rb, x = dk o) → u.engRead c ta 4 = .ok (b (q / 16))) ∧ a = ta ∧
          (b (q / 16) = 0xFFFFFFFF ∧ f = .kvUnmapped ∨ b (q / 16) ≠ 0xFFFFFFFF ∧ k.nblk ≤ b (q / 16) ∧ f = .kvRange)) →
      ∃ t, Ended s t ev cl .gather c ∧ RowsCopied s t sk dk (m * k.rb) ∧ FailsBatch s t c f a fun g gt => gt.regs = g.regs)) ∧
  (∀ (s : State) (cl : Nat) (c : Cmd) (d px list m j : Nat),
    let ev := Instr.engineOperation cl .gather c.id
    let u := appended s c list j
    let r := appendOne u c (list + 16 * j)
    Gathering s cl c (.kvappend d px list m) → j ≤ m → (∀ i < j, (appendOne (appended s c list i) c (list + 16 * i)).2 = .done) →
    (j = m → ∃ t, EndsWith s u t ev cl c d px m true) ∧
    (j < m → ∀ why tk, r.2 = .stops why tk → ∃ t, EndsWith s r.1 t ev cl c d px (why * 2 ^ 16 + j) false) ∧
    (j < m → ∀ f a tk, r.2 = .faults (f, a) tk → f ≠ .pageAbsent → f.cls ≠ .freeze →
      ∃ t, Ended s t ev cl .gather c ∧ t.mem = r.1.mem ∧ FailsBatch s t c f a (Results c d px (4 * 2 ^ 16 + j) false)) ∧
    (j < m → ∀ a tk, r.2 = .faults (.pageAbsent, a) tk → ∃ t x, exec ev s = .next t ∧ t.last = .event ∧ (t.cl cl).gather.find? (·.id == c.id) = some x ∧
      x.pos = j ∧ x.kind = c.kind ∧ x.susp = some (s.clock.toNat, a))) ∧
  (∀ (s : State) (cl : Nat) (c : Cmd) (d px sa da m : Nat) (src dst : KvDesc),
    let ev := Instr.engineOperation cl .gather c.id
    let r := shareAll s c src dst m
    Gathering s cl c (.kvshare d px sa da m) → kvDesc (s.engRead c) sa = .ok src → kvDesc (s.engRead c) da = .ok dst →
    (dst.len ≠ 0 ∨ dst.pool ≠ src.pool → ∃ t, EndsWith s s t ev cl c d px (3 * 2 ^ 16) false) ∧
    (dst.len = 0 → dst.pool = src.pool → src.len < m ∨ dst.cap < (m + 15) / 16 → ∃ t, EndsWith s s t ev cl c d px (2 * 2 ^ 16) false) ∧
    (dst.len = 0 → dst.pool = src.pool → m ≤ src.len → (m + 15) / 16 ≤ dst.cap →
      (r.2 = .done → ∀ u, r.1.engWrite c (da + 16) 4 m = .ok u → ∃ t, EndsWith s u t ev cl c d px m true) ∧
      (∀ why tk, r.2 = .stops why tk → ∀ u, r.1.engWrite c (da + 16) 4 tk = .ok u → ∃ t, EndsWith s u t ev cl c d px (why * 2 ^ 16 + tk) false) ∧
      (∀ f a tk u, r.2 = .faults (f, a) tk → f ≠ .pageAbsent → f.cls ≠ .freeze →
        (da ≤ a ∧ a < da + 32 → u = r.1) → (¬ (da ≤ a ∧ a < da + 32) → r.1.engWrite c (da + 16) 4 tk = .ok u) →
        ∃ t, Ended s t ev cl .gather c ∧ t.mem = u.mem ∧ FailsBatch s t c f a (Results c d px (4 * 2 ^ 16 + tk) false)) ∧
      (∀ f a tk, (r.2 = .done ∧ tk = m ∨ ∃ why, r.2 = .stops why tk) → r.1.engWrite c (da + 16) 4 tk = .error (f, a) → f ≠ .pageAbsent → f.cls ≠ .freeze →
        da ≤ a → a < da + 32 → ∃ t, Ended s t ev cl .gather c ∧ t.mem = r.1.mem ∧ FailsBatch s t c f a (Results c d px (4 * 2 ^ 16 + tk) false))))

/-- R36-R44, R54: words written out from the encodings of each format, bit by bit, and the instructions they hold; words with a reserved field, a reserved opcode or a reserved code hold
none. The numbering is that of the opcode table. -/
def Obligations.TableWordsDecode : Prop :=
  (∀ r ∈ ([
    (0x808001004000020040000040, .lds ⟨⟨0, false⟩, .a⟩ .b32 false ⟨.rlx, .grp⟩ .ca (.v 4) (.v 2) 0x40 false 0),
    (0x000001803C30004000000000, .iadd ⟨⟨0, false⟩, .none⟩ .i32 (.v 6) (.v 1) (.const 3)),
    (0x2100024140B0010000000000, .fmul ⟨⟨0, false⟩, .none⟩ .f32 .rne false (.v 9) (.v 10) (.v 11)),
    (0x618000000000000000000000, .nop),
    (0x80C0000100C0011048600080, .sts ⟨⟨0, false⟩, .none⟩ .b32 ⟨.rel, .team⟩ .ca (.v 8) (.v 12) 0x80 true 3),
    (0x830000286000000180000100, .ldq ⟨0, false⟩ 1 .ca (.a 3) 0x100),
    (0x478000C03D0001A000000003, .shfl ⟨⟨0, false⟩, .none⟩ .xor 0 (.v 3) (.v 1) (.const 16) 0),
    (0x60010000000000010000000A, .bra ⟨1, false⟩ 1 10 (.v 0)),
    (0xC00004000040800000000FC2, .gmma ⟨⟨0, false⟩, .none⟩ false 2 63 0 (.v 16) (.v 0) (.v 4) (.v 16)),
    (0xA4C00000000000C000000000, .fence ⟨⟨0, false⟩, .none⟩ .acq .dev),
    (0xA50041210000014000000000, .drain ⟨⟨0, false⟩, .none⟩ .dev (.s 4) (.s 8)),
    (0x81C00020DC10004040000000, .stg ⟨⟨0, false⟩, .none⟩ .b32 ⟨.rlx, .dev⟩ .ca (.s 6) (.const 1) 0),
    (0xA00001A09C10004001000000, .atom ⟨⟨0, false⟩, .none⟩ .add ⟨.rlx, .dev⟩ .b32 .glob (.v 6) (.s 4) (.const 1)),
    (0xA20043211C10014000000000, .barv ⟨⟨0, false⟩, .none⟩ ⟨.rel, .dev⟩ (.s 12) (.s 8) (.const 1)),
    (0xE00000210000000000000005, .launch ⟨⟨0, false⟩, .none⟩ 5 (.s 8)),
    (0xC30008030240A00000000C88, .smaxr ⟨⟨0, false⟩, .none⟩ false 8 false true 12 (.v 32) (.v 24) (.v 36) (.v 20)),
    (0xE18000000000000000000023, .replay ⟨⟨0, false⟩, .none⟩ 3 4),
    (0xE1C041000000000000000003, .rdsr ⟨⟨0, false⟩, .none⟩ .fcode (.s 4)),
    (0x040582615C308CC000000000, .imadw ⟨⟨5, true⟩, .b⟩ .n32 (.v 9) (.s 10) (.const 3) (.v 17)),
    (0x448582614000056600000028, .fcvt ⟨⟨5, true⟩, .b⟩ .e4m3 .f32 .rne true true 2 0 (.v 9) (.s 10)),
    (0x47058000000005A059500146, .vote ⟨⟨5, true⟩, .b⟩ .ge 17 true (.v 0) 22 21),
    (0x6085C3000000000000012345, .call ⟨5, true⟩ 0x00012345 (.s 12)),
    (0x8485C12150CEFDA900000001, .acp ⟨⟨5, true⟩, .b⟩ .scratch .shared true ⟨true, true, .clu⟩ (.s 4) (.s 10) (.s 12) (.const 31)),
    (0xA305C32110A8A53000000071, .sred ⟨⟨5, true⟩, .b⟩ .addN64 7 ⟨.rel, .die⟩ (.s 12) (.s 8) (.s 10) (.s 20)),
    (0xC285C12110A8659000001155, .tmerge ⟨⟨5, true⟩, .b⟩ 0x155 .f16 ⟨true, true, .team⟩ (.s 4) (.s 8) (.s 10) (.s 12)),
    (0x8645C12150CE0DD002200000, .kvshare ⟨⟨5, true⟩, .b⟩ ⟨true, true, .sys⟩ (.s 4) (.s 10) (.s 12) (.const 1) 17)] : List (Nat × Instr)), decodeTableWord 96 r.1 = some r.2) ∧
    ∀ w ∈ ([
      0x130000000000000000000000, 0x000001803C30064000000000, 0x000001803C3001C000000000, 0x000001803C30084000000000, 0x618000000000000000000001, 0x818042A10000006040000000, 0x8080010040000000A0000000, 0xA4C000000000004000000000, 0xA00001A09C10000C01000000, 0xC00004000040800000000042, 0xE10000000000000000010000, 0x014000000000000000000000, 0xFFC000000000000000000000] : List Nat), decodeTableWord 96 w = none

/-- R36-R44, R54: encoding and decoding agree. Every well-formed instruction has a word, and its word decodes to it, with every operand and field; and a word that decodes is the
word of the instruction that it decodes to, so no bit is dropped. -/
def Obligations.EncodeDecode : Prop :=
  (∀ i : Instr, i.isEvent = false → ∃ w, encode i = some w) ∧
  (∀ (i : Instr) (w : BitVec 96), i.wf = true → encode i = some w → decodeWord w = .ok i) ∧
  (∀ (w : BitVec 96) (i : Instr), decodeWord w = .ok i → i.isEvent = false ∧ i.wf = true ∧ encode i = some w) ∧
  ∀ w : BitVec 96, decode (bytesOfWord 12 w.toNat) = decodeWord w

/-- The model's invariant (log 2): memory, and the accumulator tiles, keep their canonical form over every step: addresses strictly rise, and no entry is what an unlisted
address reads as. Equal memories are so equal data. -/
def Obligations.CanonicalFormIsKept : Prop :=
  ∀ s t : State, Memory.wf s.mem = true → tilesWf s → step s = .next t → Memory.wf t.mem = true ∧ tilesWf t

/-- R23, R48, R169, R255, R319, R327, R335, R348, R354: the state after reset, as far as the spec gives it: no group, no launch and no team; every context FREE with its registers zero, INVCTL.DONE
and PDONE set and PDEAD 200; CLOCK zero and team tags from 1; no firmware. Its memory is canonical and lists nothing (what a byte reads as that nothing has written is log 2's choice), and with no event chosen
nothing happens in it but the time that passes (logs 1, 3). -/
def Obligations.ResetState : Prop :=
  State.reset.clock = 0 ∧ State.reset.groups = [] ∧ State.reset.launches = [] ∧ State.reset.teams = [] ∧ State.reset.nextTag = 1 ∧
    State.reset.fw.loaded = false ∧ State.reset.fw.stat = 0 ∧ State.reset.ctxs.length = 64 ∧ State.reset.clusters.length = 128 ∧
    (∀ c ∈ State.reset.ctxs, c.state = .free ∧ c.err = 0 ∧ c.pasid = 0 ∧ c.ptbase = 0 ∧ c.pvbase = 0 ∧ c.plimit = 0 ∧ c.perm = 0 ∧ c.scratch = 0 ∧ c.kilnsh = 0 ∧ c.spnslot = 0 ∧
      c.wintab = 0 ∧ c.colltab = 0 ∧ c.invaddr = 0 ∧ c.tqbase = 0 ∧ c.csabase = 0 ∧ c.pdead = 200 ∧ c.pDone = true ∧ c.freeze = ⟨0, 0, 0, 0, 0⟩) ∧
    Memory.wf State.reset.mem = true ∧ tilesWf State.reset ∧ State.reset.mem = [] ∧
    step State.reset = .next (timePasses State.reset)
end

