-- ==== Sys2Proof/Laws/State.lean ====
section
/-! SUPPORT. One lemma per field and update of the state and of a group, each true by definition: a later proof rewrites
with these and never unfolds a record update. -/

namespace Sys2Proof.Machine

/-! ## State.report -/

@[simp] theorem State.report_agenda (s : State) (l : Last) : (s.report l).agenda = s.agenda := rfl
@[simp] theorem State.report_cur (s : State) (l : Last) : (s.report l).cur = s.cur := rfl
@[simp] theorem State.report_snap (s : State) (l : Last) : (s.report l).snap = s.snap := rfl
@[simp] theorem State.report_last (s : State) (l : Last) : (s.report l).last = l := rfl
@[simp] theorem State.report_free (s : State) (l : Last) : (s.report l).free = s.free := rfl
@[simp] theorem State.report_nextId (s : State) (l : Last) : (s.report l).nextId = s.nextId := rfl
@[simp] theorem State.report_clock (s : State) (l : Last) : (s.report l).clock = s.clock := rfl
@[simp] theorem State.report_mem (s : State) (l : Last) : (s.report l).mem = s.mem := rfl
@[simp] theorem State.report_fe (s : State) (l : Last) : (s.report l).fe = s.fe := rfl
@[simp] theorem State.report_tiles (s : State) (l : Last) : (s.report l).tiles = s.tiles := rfl
@[simp] theorem State.report_groups (s : State) (l : Last) : (s.report l).groups = s.groups := rfl
@[simp] theorem State.report_teams (s : State) (l : Last) : (s.report l).teams = s.teams := rfl
@[simp] theorem State.report_launches (s : State) (l : Last) : (s.report l).launches = s.launches := rfl
@[simp] theorem State.report_ctxs (s : State) (l : Last) : (s.report l).ctxs = s.ctxs := rfl
@[simp] theorem State.report_clusters (s : State) (l : Last) : (s.report l).clusters = s.clusters := rfl
@[simp] theorem State.report_tlbs (s : State) (l : Last) : (s.report l).tlbs = s.tlbs := rfl
@[simp] theorem State.report_spindle (s : State) (l : Last) : (s.report l).spindle = s.spindle := rfl
@[simp] theorem State.report_poison (s : State) (l : Last) : (s.report l).poison = s.poison := rfl
@[simp] theorem State.report_mailers (s : State) (l : Last) : (s.report l).mailers = s.mailers := rfl
@[simp] theorem State.report_objPart (s : State) (l : Last) : (s.report l).objPart = s.objPart := rfl
@[simp] theorem State.report_nextAge (s : State) (l : Last) : (s.report l).nextAge = s.nextAge := rfl
@[simp] theorem State.report_nextTag (s : State) (l : Last) : (s.report l).nextTag = s.nextTag := rfl
@[simp] theorem State.report_devnum (s : State) (l : Last) : (s.report l).devnum = s.devnum := rfl
@[simp] theorem State.report_partmap (s : State) (l : Last) : (s.report l).partmap = s.partmap := rfl
@[simp] theorem State.report_vfslot (s : State) (l : Last) : (s.report l).vfslot = s.vfslot := rfl
@[simp] theorem State.report_fw (s : State) (l : Last) : (s.report l).fw = s.fw := rfl
@[simp] theorem State.report_quotes (s : State) (l : Last) : (s.report l).quotes = s.quotes := rfl
@[simp] theorem State.report_rsDone (s : State) (l : Last) : (s.report l).rsDone = s.rsDone := rfl
@[simp] theorem State.report_rsStat (s : State) (l : Last) : (s.report l).rsStat = s.rsStat := rfl
@[simp] theorem State.report_rsAddr (s : State) (l : Last) : (s.report l).rsAddr = s.rsAddr := rfl
@[simp] theorem State.report_snapshots (s : State) (l : Last) : (s.report l).snapshots = s.snapshots := rfl
@[simp] theorem State.report_errs (s : State) (l : Last) : (s.report l).errs = s.errs := rfl
@[simp] theorem State.report_lastBad (s : State) (l : Last) : (s.report l).lastBad = s.lastBad := rfl
@[simp] theorem State.report_tlanto (s : State) (l : Last) : (s.report l).tlanto = s.tlanto := rfl
@[simp] theorem State.report_cxl (s : State) (l : Last) : (s.report l).cxl = s.cxl := rfl
@[simp] theorem State.report_hostData (s : State) (l : Last) : (s.report l).hostData = s.hostData := rfl
@[simp] theorem State.report_fePre (s : State) (l : Last) : (s.report l).fePre = s.fePre := rfl

/-! ## State.setCtx -/

@[simp] theorem State.setCtx_agenda (s : State) (k : Nat) (c : Context) : (s.setCtx k c).agenda = s.agenda := rfl
@[simp] theorem State.setCtx_cur (s : State) (k : Nat) (c : Context) : (s.setCtx k c).cur = s.cur := rfl
@[simp] theorem State.setCtx_snap (s : State) (k : Nat) (c : Context) : (s.setCtx k c).snap = s.snap := rfl
@[simp] theorem State.setCtx_last (s : State) (k : Nat) (c : Context) : (s.setCtx k c).last = s.last := rfl
@[simp] theorem State.setCtx_free (s : State) (k : Nat) (c : Context) : (s.setCtx k c).free = s.free := rfl
@[simp] theorem State.setCtx_nextId (s : State) (k : Nat) (c : Context) : (s.setCtx k c).nextId = s.nextId := rfl
@[simp] theorem State.setCtx_clock (s : State) (k : Nat) (c : Context) : (s.setCtx k c).clock = s.clock := rfl
@[simp] theorem State.setCtx_mem (s : State) (k : Nat) (c : Context) : (s.setCtx k c).mem = s.mem := rfl
@[simp] theorem State.setCtx_fe (s : State) (k : Nat) (c : Context) : (s.setCtx k c).fe = s.fe := rfl
@[simp] theorem State.setCtx_tiles (s : State) (k : Nat) (c : Context) : (s.setCtx k c).tiles = s.tiles := rfl
@[simp] theorem State.setCtx_groups (s : State) (k : Nat) (c : Context) : (s.setCtx k c).groups = s.groups := rfl
@[simp] theorem State.setCtx_teams (s : State) (k : Nat) (c : Context) : (s.setCtx k c).teams = s.teams := rfl
@[simp] theorem State.setCtx_launches (s : State) (k : Nat) (c : Context) : (s.setCtx k c).launches = s.launches := rfl
@[simp] theorem State.setCtx_ctxs (s : State) (k : Nat) (c : Context) : (s.setCtx k c).ctxs = s.ctxs.set k c := rfl
@[simp] theorem State.setCtx_clusters (s : State) (k : Nat) (c : Context) : (s.setCtx k c).clusters = s.clusters := rfl
@[simp] theorem State.setCtx_tlbs (s : State) (k : Nat) (c : Context) : (s.setCtx k c).tlbs = s.tlbs := rfl
@[simp] theorem State.setCtx_spindle (s : State) (k : Nat) (c : Context) : (s.setCtx k c).spindle = s.spindle := rfl
@[simp] theorem State.setCtx_poison (s : State) (k : Nat) (c : Context) : (s.setCtx k c).poison = s.poison := rfl
@[simp] theorem State.setCtx_mailers (s : State) (k : Nat) (c : Context) : (s.setCtx k c).mailers = s.mailers := rfl
@[simp] theorem State.setCtx_objPart (s : State) (k : Nat) (c : Context) : (s.setCtx k c).objPart = s.objPart := rfl
@[simp] theorem State.setCtx_nextAge (s : State) (k : Nat) (c : Context) : (s.setCtx k c).nextAge = s.nextAge := rfl
@[simp] theorem State.setCtx_nextTag (s : State) (k : Nat) (c : Context) : (s.setCtx k c).nextTag = s.nextTag := rfl
@[simp] theorem State.setCtx_devnum (s : State) (k : Nat) (c : Context) : (s.setCtx k c).devnum = s.devnum := rfl
@[simp] theorem State.setCtx_partmap (s : State) (k : Nat) (c : Context) : (s.setCtx k c).partmap = s.partmap := rfl
@[simp] theorem State.setCtx_vfslot (s : State) (k : Nat) (c : Context) : (s.setCtx k c).vfslot = s.vfslot := rfl
@[simp] theorem State.setCtx_fw (s : State) (k : Nat) (c : Context) : (s.setCtx k c).fw = s.fw := rfl
@[simp] theorem State.setCtx_quotes (s : State) (k : Nat) (c : Context) : (s.setCtx k c).quotes = s.quotes := rfl
@[simp] theorem State.setCtx_rsDone (s : State) (k : Nat) (c : Context) : (s.setCtx k c).rsDone = s.rsDone := rfl
@[simp] theorem State.setCtx_rsStat (s : State) (k : Nat) (c : Context) : (s.setCtx k c).rsStat = s.rsStat := rfl
@[simp] theorem State.setCtx_rsAddr (s : State) (k : Nat) (c : Context) : (s.setCtx k c).rsAddr = s.rsAddr := rfl
@[simp] theorem State.setCtx_snapshots (s : State) (k : Nat) (c : Context) : (s.setCtx k c).snapshots = s.snapshots := rfl
@[simp] theorem State.setCtx_errs (s : State) (k : Nat) (c : Context) : (s.setCtx k c).errs = s.errs := rfl
@[simp] theorem State.setCtx_lastBad (s : State) (k : Nat) (c : Context) : (s.setCtx k c).lastBad = s.lastBad := rfl
@[simp] theorem State.setCtx_tlanto (s : State) (k : Nat) (c : Context) : (s.setCtx k c).tlanto = s.tlanto := rfl
@[simp] theorem State.setCtx_cxl (s : State) (k : Nat) (c : Context) : (s.setCtx k c).cxl = s.cxl := rfl
@[simp] theorem State.setCtx_hostData (s : State) (k : Nat) (c : Context) : (s.setCtx k c).hostData = s.hostData := rfl
@[simp] theorem State.setCtx_fePre (s : State) (k : Nat) (c : Context) : (s.setCtx k c).fePre = s.fePre := rfl

/-! ## State.setCl -/

@[simp] theorem State.setCl_agenda (s : State) (k : Nat) (c : Cluster) : (s.setCl k c).agenda = s.agenda := rfl
@[simp] theorem State.setCl_cur (s : State) (k : Nat) (c : Cluster) : (s.setCl k c).cur = s.cur := rfl
@[simp] theorem State.setCl_snap (s : State) (k : Nat) (c : Cluster) : (s.setCl k c).snap = s.snap := rfl
@[simp] theorem State.setCl_last (s : State) (k : Nat) (c : Cluster) : (s.setCl k c).last = s.last := rfl
@[simp] theorem State.setCl_free (s : State) (k : Nat) (c : Cluster) : (s.setCl k c).free = s.free := rfl
@[simp] theorem State.setCl_nextId (s : State) (k : Nat) (c : Cluster) : (s.setCl k c).nextId = s.nextId := rfl
@[simp] theorem State.setCl_clock (s : State) (k : Nat) (c : Cluster) : (s.setCl k c).clock = s.clock := rfl
@[simp] theorem State.setCl_mem (s : State) (k : Nat) (c : Cluster) : (s.setCl k c).mem = s.mem := rfl
@[simp] theorem State.setCl_fe (s : State) (k : Nat) (c : Cluster) : (s.setCl k c).fe = s.fe := rfl
@[simp] theorem State.setCl_tiles (s : State) (k : Nat) (c : Cluster) : (s.setCl k c).tiles = s.tiles := rfl
@[simp] theorem State.setCl_groups (s : State) (k : Nat) (c : Cluster) : (s.setCl k c).groups = s.groups := rfl
@[simp] theorem State.setCl_teams (s : State) (k : Nat) (c : Cluster) : (s.setCl k c).teams = s.teams := rfl
@[simp] theorem State.setCl_launches (s : State) (k : Nat) (c : Cluster) : (s.setCl k c).launches = s.launches := rfl
@[simp] theorem State.setCl_ctxs (s : State) (k : Nat) (c : Cluster) : (s.setCl k c).ctxs = s.ctxs := rfl
@[simp] theorem State.setCl_clusters (s : State) (k : Nat) (c : Cluster) : (s.setCl k c).clusters = s.clusters.set k c := rfl
@[simp] theorem State.setCl_tlbs (s : State) (k : Nat) (c : Cluster) : (s.setCl k c).tlbs = s.tlbs := rfl
@[simp] theorem State.setCl_spindle (s : State) (k : Nat) (c : Cluster) : (s.setCl k c).spindle = s.spindle := rfl
@[simp] theorem State.setCl_poison (s : State) (k : Nat) (c : Cluster) : (s.setCl k c).poison = s.poison := rfl
@[simp] theorem State.setCl_mailers (s : State) (k : Nat) (c : Cluster) : (s.setCl k c).mailers = s.mailers := rfl
@[simp] theorem State.setCl_objPart (s : State) (k : Nat) (c : Cluster) : (s.setCl k c).objPart = s.objPart := rfl
@[simp] theorem State.setCl_nextAge (s : State) (k : Nat) (c : Cluster) : (s.setCl k c).nextAge = s.nextAge := rfl
@[simp] theorem State.setCl_nextTag (s : State) (k : Nat) (c : Cluster) : (s.setCl k c).nextTag = s.nextTag := rfl
@[simp] theorem State.setCl_devnum (s : State) (k : Nat) (c : Cluster) : (s.setCl k c).devnum = s.devnum := rfl
@[simp] theorem State.setCl_partmap (s : State) (k : Nat) (c : Cluster) : (s.setCl k c).partmap = s.partmap := rfl
@[simp] theorem State.setCl_vfslot (s : State) (k : Nat) (c : Cluster) : (s.setCl k c).vfslot = s.vfslot := rfl
@[simp] theorem State.setCl_fw (s : State) (k : Nat) (c : Cluster) : (s.setCl k c).fw = s.fw := rfl
@[simp] theorem State.setCl_quotes (s : State) (k : Nat) (c : Cluster) : (s.setCl k c).quotes = s.quotes := rfl
@[simp] theorem State.setCl_rsDone (s : State) (k : Nat) (c : Cluster) : (s.setCl k c).rsDone = s.rsDone := rfl
@[simp] theorem State.setCl_rsStat (s : State) (k : Nat) (c : Cluster) : (s.setCl k c).rsStat = s.rsStat := rfl
@[simp] theorem State.setCl_rsAddr (s : State) (k : Nat) (c : Cluster) : (s.setCl k c).rsAddr = s.rsAddr := rfl
@[simp] theorem State.setCl_snapshots (s : State) (k : Nat) (c : Cluster) : (s.setCl k c).snapshots = s.snapshots := rfl
@[simp] theorem State.setCl_errs (s : State) (k : Nat) (c : Cluster) : (s.setCl k c).errs = s.errs := rfl
@[simp] theorem State.setCl_lastBad (s : State) (k : Nat) (c : Cluster) : (s.setCl k c).lastBad = s.lastBad := rfl
@[simp] theorem State.setCl_tlanto (s : State) (k : Nat) (c : Cluster) : (s.setCl k c).tlanto = s.tlanto := rfl
@[simp] theorem State.setCl_cxl (s : State) (k : Nat) (c : Cluster) : (s.setCl k c).cxl = s.cxl := rfl
@[simp] theorem State.setCl_hostData (s : State) (k : Nat) (c : Cluster) : (s.setCl k c).hostData = s.hostData := rfl
@[simp] theorem State.setCl_fePre (s : State) (k : Nat) (c : Cluster) : (s.setCl k c).fePre = s.fePre := rfl

/-! ## State.setG -/

@[simp] theorem State.setG_agenda (s : State) (i : Nat) (g : Group) : (s.setG i g).agenda = s.agenda := rfl
@[simp] theorem State.setG_cur (s : State) (i : Nat) (g : Group) : (s.setG i g).cur = s.cur := rfl
@[simp] theorem State.setG_snap (s : State) (i : Nat) (g : Group) : (s.setG i g).snap = s.snap := rfl
@[simp] theorem State.setG_last (s : State) (i : Nat) (g : Group) : (s.setG i g).last = s.last := rfl
@[simp] theorem State.setG_free (s : State) (i : Nat) (g : Group) : (s.setG i g).free = s.free := rfl
@[simp] theorem State.setG_nextId (s : State) (i : Nat) (g : Group) : (s.setG i g).nextId = s.nextId := rfl
@[simp] theorem State.setG_clock (s : State) (i : Nat) (g : Group) : (s.setG i g).clock = s.clock := rfl
@[simp] theorem State.setG_mem (s : State) (i : Nat) (g : Group) : (s.setG i g).mem = s.mem := rfl
@[simp] theorem State.setG_fe (s : State) (i : Nat) (g : Group) : (s.setG i g).fe = s.fe := rfl
@[simp] theorem State.setG_tiles (s : State) (i : Nat) (g : Group) : (s.setG i g).tiles = s.tiles := rfl
@[simp] theorem State.setG_groups (s : State) (i : Nat) (g : Group) : (s.setG i g).groups = s.groups.set i g := rfl
@[simp] theorem State.setG_teams (s : State) (i : Nat) (g : Group) : (s.setG i g).teams = s.teams := rfl
@[simp] theorem State.setG_launches (s : State) (i : Nat) (g : Group) : (s.setG i g).launches = s.launches := rfl
@[simp] theorem State.setG_ctxs (s : State) (i : Nat) (g : Group) : (s.setG i g).ctxs = s.ctxs := rfl
@[simp] theorem State.setG_clusters (s : State) (i : Nat) (g : Group) : (s.setG i g).clusters = s.clusters := rfl
@[simp] theorem State.setG_tlbs (s : State) (i : Nat) (g : Group) : (s.setG i g).tlbs = s.tlbs := rfl
@[simp] theorem State.setG_spindle (s : State) (i : Nat) (g : Group) : (s.setG i g).spindle = s.spindle := rfl
@[simp] theorem State.setG_poison (s : State) (i : Nat) (g : Group) : (s.setG i g).poison = s.poison := rfl
@[simp] theorem State.setG_mailers (s : State) (i : Nat) (g : Group) : (s.setG i g).mailers = s.mailers := rfl
@[simp] theorem State.setG_objPart (s : State) (i : Nat) (g : Group) : (s.setG i g).objPart = s.objPart := rfl
@[simp] theorem State.setG_nextAge (s : State) (i : Nat) (g : Group) : (s.setG i g).nextAge = s.nextAge := rfl
@[simp] theorem State.setG_nextTag (s : State) (i : Nat) (g : Group) : (s.setG i g).nextTag = s.nextTag := rfl
@[simp] theorem State.setG_devnum (s : State) (i : Nat) (g : Group) : (s.setG i g).devnum = s.devnum := rfl
@[simp] theorem State.setG_partmap (s : State) (i : Nat) (g : Group) : (s.setG i g).partmap = s.partmap := rfl
@[simp] theorem State.setG_vfslot (s : State) (i : Nat) (g : Group) : (s.setG i g).vfslot = s.vfslot := rfl
@[simp] theorem State.setG_fw (s : State) (i : Nat) (g : Group) : (s.setG i g).fw = s.fw := rfl
@[simp] theorem State.setG_quotes (s : State) (i : Nat) (g : Group) : (s.setG i g).quotes = s.quotes := rfl
@[simp] theorem State.setG_rsDone (s : State) (i : Nat) (g : Group) : (s.setG i g).rsDone = s.rsDone := rfl
@[simp] theorem State.setG_rsStat (s : State) (i : Nat) (g : Group) : (s.setG i g).rsStat = s.rsStat := rfl
@[simp] theorem State.setG_rsAddr (s : State) (i : Nat) (g : Group) : (s.setG i g).rsAddr = s.rsAddr := rfl
@[simp] theorem State.setG_snapshots (s : State) (i : Nat) (g : Group) : (s.setG i g).snapshots = s.snapshots := rfl
@[simp] theorem State.setG_errs (s : State) (i : Nat) (g : Group) : (s.setG i g).errs = s.errs := rfl
@[simp] theorem State.setG_lastBad (s : State) (i : Nat) (g : Group) : (s.setG i g).lastBad = s.lastBad := rfl
@[simp] theorem State.setG_tlanto (s : State) (i : Nat) (g : Group) : (s.setG i g).tlanto = s.tlanto := rfl
@[simp] theorem State.setG_cxl (s : State) (i : Nat) (g : Group) : (s.setG i g).cxl = s.cxl := rfl
@[simp] theorem State.setG_hostData (s : State) (i : Nat) (g : Group) : (s.setG i g).hostData = s.hostData := rfl
@[simp] theorem State.setG_fePre (s : State) (i : Nat) (g : Group) : (s.setG i g).fePre = s.fePre := rfl

/-! ## State.mapG -/

@[simp] theorem State.mapG_agenda (s : State) (i : Nat) (f : Group → Group) : (s.mapG i f).agenda = s.agenda := rfl
@[simp] theorem State.mapG_cur (s : State) (i : Nat) (f : Group → Group) : (s.mapG i f).cur = s.cur := rfl
@[simp] theorem State.mapG_snap (s : State) (i : Nat) (f : Group → Group) : (s.mapG i f).snap = s.snap := rfl
@[simp] theorem State.mapG_last (s : State) (i : Nat) (f : Group → Group) : (s.mapG i f).last = s.last := rfl
@[simp] theorem State.mapG_free (s : State) (i : Nat) (f : Group → Group) : (s.mapG i f).free = s.free := rfl
@[simp] theorem State.mapG_nextId (s : State) (i : Nat) (f : Group → Group) : (s.mapG i f).nextId = s.nextId := rfl
@[simp] theorem State.mapG_clock (s : State) (i : Nat) (f : Group → Group) : (s.mapG i f).clock = s.clock := rfl
@[simp] theorem State.mapG_mem (s : State) (i : Nat) (f : Group → Group) : (s.mapG i f).mem = s.mem := rfl
@[simp] theorem State.mapG_fe (s : State) (i : Nat) (f : Group → Group) : (s.mapG i f).fe = s.fe := rfl
@[simp] theorem State.mapG_tiles (s : State) (i : Nat) (f : Group → Group) : (s.mapG i f).tiles = s.tiles := rfl
@[simp] theorem State.mapG_groups (s : State) (i : Nat) (f : Group → Group) : (s.mapG i f).groups = s.groups.modify i f := rfl
@[simp] theorem State.mapG_teams (s : State) (i : Nat) (f : Group → Group) : (s.mapG i f).teams = s.teams := rfl
@[simp] theorem State.mapG_launches (s : State) (i : Nat) (f : Group → Group) : (s.mapG i f).launches = s.launches := rfl
@[simp] theorem State.mapG_ctxs (s : State) (i : Nat) (f : Group → Group) : (s.mapG i f).ctxs = s.ctxs := rfl
@[simp] theorem State.mapG_clusters (s : State) (i : Nat) (f : Group → Group) : (s.mapG i f).clusters = s.clusters := rfl
@[simp] theorem State.mapG_tlbs (s : State) (i : Nat) (f : Group → Group) : (s.mapG i f).tlbs = s.tlbs := rfl
@[simp] theorem State.mapG_spindle (s : State) (i : Nat) (f : Group → Group) : (s.mapG i f).spindle = s.spindle := rfl
@[simp] theorem State.mapG_poison (s : State) (i : Nat) (f : Group → Group) : (s.mapG i f).poison = s.poison := rfl
@[simp] theorem State.mapG_mailers (s : State) (i : Nat) (f : Group → Group) : (s.mapG i f).mailers = s.mailers := rfl
@[simp] theorem State.mapG_objPart (s : State) (i : Nat) (f : Group → Group) : (s.mapG i f).objPart = s.objPart := rfl
@[simp] theorem State.mapG_nextAge (s : State) (i : Nat) (f : Group → Group) : (s.mapG i f).nextAge = s.nextAge := rfl
@[simp] theorem State.mapG_nextTag (s : State) (i : Nat) (f : Group → Group) : (s.mapG i f).nextTag = s.nextTag := rfl
@[simp] theorem State.mapG_devnum (s : State) (i : Nat) (f : Group → Group) : (s.mapG i f).devnum = s.devnum := rfl
@[simp] theorem State.mapG_partmap (s : State) (i : Nat) (f : Group → Group) : (s.mapG i f).partmap = s.partmap := rfl
@[simp] theorem State.mapG_vfslot (s : State) (i : Nat) (f : Group → Group) : (s.mapG i f).vfslot = s.vfslot := rfl
@[simp] theorem State.mapG_fw (s : State) (i : Nat) (f : Group → Group) : (s.mapG i f).fw = s.fw := rfl
@[simp] theorem State.mapG_quotes (s : State) (i : Nat) (f : Group → Group) : (s.mapG i f).quotes = s.quotes := rfl
@[simp] theorem State.mapG_rsDone (s : State) (i : Nat) (f : Group → Group) : (s.mapG i f).rsDone = s.rsDone := rfl
@[simp] theorem State.mapG_rsStat (s : State) (i : Nat) (f : Group → Group) : (s.mapG i f).rsStat = s.rsStat := rfl
@[simp] theorem State.mapG_rsAddr (s : State) (i : Nat) (f : Group → Group) : (s.mapG i f).rsAddr = s.rsAddr := rfl
@[simp] theorem State.mapG_snapshots (s : State) (i : Nat) (f : Group → Group) : (s.mapG i f).snapshots = s.snapshots := rfl
@[simp] theorem State.mapG_errs (s : State) (i : Nat) (f : Group → Group) : (s.mapG i f).errs = s.errs := rfl
@[simp] theorem State.mapG_lastBad (s : State) (i : Nat) (f : Group → Group) : (s.mapG i f).lastBad = s.lastBad := rfl
@[simp] theorem State.mapG_tlanto (s : State) (i : Nat) (f : Group → Group) : (s.mapG i f).tlanto = s.tlanto := rfl
@[simp] theorem State.mapG_cxl (s : State) (i : Nat) (f : Group → Group) : (s.mapG i f).cxl = s.cxl := rfl
@[simp] theorem State.mapG_hostData (s : State) (i : Nat) (f : Group → Group) : (s.mapG i f).hostData = s.hostData := rfl
@[simp] theorem State.mapG_fePre (s : State) (i : Nat) (f : Group → Group) : (s.mapG i f).fePre = s.fePre := rfl

/-! ## State.mapL -/

@[simp] theorem State.mapL_agenda (s : State) (age : Nat) (f : Launch → Launch) : (s.mapL age f).agenda = s.agenda := rfl
@[simp] theorem State.mapL_cur (s : State) (age : Nat) (f : Launch → Launch) : (s.mapL age f).cur = s.cur := rfl
@[simp] theorem State.mapL_snap (s : State) (age : Nat) (f : Launch → Launch) : (s.mapL age f).snap = s.snap := rfl
@[simp] theorem State.mapL_last (s : State) (age : Nat) (f : Launch → Launch) : (s.mapL age f).last = s.last := rfl
@[simp] theorem State.mapL_free (s : State) (age : Nat) (f : Launch → Launch) : (s.mapL age f).free = s.free := rfl
@[simp] theorem State.mapL_nextId (s : State) (age : Nat) (f : Launch → Launch) : (s.mapL age f).nextId = s.nextId := rfl
@[simp] theorem State.mapL_clock (s : State) (age : Nat) (f : Launch → Launch) : (s.mapL age f).clock = s.clock := rfl
@[simp] theorem State.mapL_mem (s : State) (age : Nat) (f : Launch → Launch) : (s.mapL age f).mem = s.mem := rfl
@[simp] theorem State.mapL_fe (s : State) (age : Nat) (f : Launch → Launch) : (s.mapL age f).fe = s.fe := rfl
@[simp] theorem State.mapL_tiles (s : State) (age : Nat) (f : Launch → Launch) : (s.mapL age f).tiles = s.tiles := rfl
@[simp] theorem State.mapL_groups (s : State) (age : Nat) (f : Launch → Launch) : (s.mapL age f).groups = s.groups := rfl
@[simp] theorem State.mapL_teams (s : State) (age : Nat) (f : Launch → Launch) : (s.mapL age f).teams = s.teams := rfl
@[simp] theorem State.mapL_launches (s : State) (age : Nat) (f : Launch → Launch) : (s.mapL age f).launches = s.launches.map fun l => if l.age == age then f l else l := rfl
@[simp] theorem State.mapL_ctxs (s : State) (age : Nat) (f : Launch → Launch) : (s.mapL age f).ctxs = s.ctxs := rfl
@[simp] theorem State.mapL_clusters (s : State) (age : Nat) (f : Launch → Launch) : (s.mapL age f).clusters = s.clusters := rfl
@[simp] theorem State.mapL_tlbs (s : State) (age : Nat) (f : Launch → Launch) : (s.mapL age f).tlbs = s.tlbs := rfl
@[simp] theorem State.mapL_spindle (s : State) (age : Nat) (f : Launch → Launch) : (s.mapL age f).spindle = s.spindle := rfl
@[simp] theorem State.mapL_poison (s : State) (age : Nat) (f : Launch → Launch) : (s.mapL age f).poison = s.poison := rfl
@[simp] theorem State.mapL_mailers (s : State) (age : Nat) (f : Launch → Launch) : (s.mapL age f).mailers = s.mailers := rfl
@[simp] theorem State.mapL_objPart (s : State) (age : Nat) (f : Launch → Launch) : (s.mapL age f).objPart = s.objPart := rfl
@[simp] theorem State.mapL_nextAge (s : State) (age : Nat) (f : Launch → Launch) : (s.mapL age f).nextAge = s.nextAge := rfl
@[simp] theorem State.mapL_nextTag (s : State) (age : Nat) (f : Launch → Launch) : (s.mapL age f).nextTag = s.nextTag := rfl
@[simp] theorem State.mapL_devnum (s : State) (age : Nat) (f : Launch → Launch) : (s.mapL age f).devnum = s.devnum := rfl
@[simp] theorem State.mapL_partmap (s : State) (age : Nat) (f : Launch → Launch) : (s.mapL age f).partmap = s.partmap := rfl
@[simp] theorem State.mapL_vfslot (s : State) (age : Nat) (f : Launch → Launch) : (s.mapL age f).vfslot = s.vfslot := rfl
@[simp] theorem State.mapL_fw (s : State) (age : Nat) (f : Launch → Launch) : (s.mapL age f).fw = s.fw := rfl
@[simp] theorem State.mapL_quotes (s : State) (age : Nat) (f : Launch → Launch) : (s.mapL age f).quotes = s.quotes := rfl
@[simp] theorem State.mapL_rsDone (s : State) (age : Nat) (f : Launch → Launch) : (s.mapL age f).rsDone = s.rsDone := rfl
@[simp] theorem State.mapL_rsStat (s : State) (age : Nat) (f : Launch → Launch) : (s.mapL age f).rsStat = s.rsStat := rfl
@[simp] theorem State.mapL_rsAddr (s : State) (age : Nat) (f : Launch → Launch) : (s.mapL age f).rsAddr = s.rsAddr := rfl
@[simp] theorem State.mapL_snapshots (s : State) (age : Nat) (f : Launch → Launch) : (s.mapL age f).snapshots = s.snapshots := rfl
@[simp] theorem State.mapL_errs (s : State) (age : Nat) (f : Launch → Launch) : (s.mapL age f).errs = s.errs := rfl
@[simp] theorem State.mapL_lastBad (s : State) (age : Nat) (f : Launch → Launch) : (s.mapL age f).lastBad = s.lastBad := rfl
@[simp] theorem State.mapL_tlanto (s : State) (age : Nat) (f : Launch → Launch) : (s.mapL age f).tlanto = s.tlanto := rfl
@[simp] theorem State.mapL_cxl (s : State) (age : Nat) (f : Launch → Launch) : (s.mapL age f).cxl = s.cxl := rfl
@[simp] theorem State.mapL_hostData (s : State) (age : Nat) (f : Launch → Launch) : (s.mapL age f).hostData = s.hostData := rfl
@[simp] theorem State.mapL_fePre (s : State) (age : Nat) (f : Launch → Launch) : (s.mapL age f).fePre = s.fePre := rfl

/-! ## State.write -/

@[simp] theorem State.write_agenda (s : State) (kvs : List (Nat × Byte)) : (s.write kvs).agenda = s.agenda := rfl
@[simp] theorem State.write_cur (s : State) (kvs : List (Nat × Byte)) : (s.write kvs).cur = s.cur := rfl
@[simp] theorem State.write_snap (s : State) (kvs : List (Nat × Byte)) : (s.write kvs).snap = s.snap := rfl
@[simp] theorem State.write_last (s : State) (kvs : List (Nat × Byte)) : (s.write kvs).last = s.last := rfl
@[simp] theorem State.write_free (s : State) (kvs : List (Nat × Byte)) : (s.write kvs).free = s.free := rfl
@[simp] theorem State.write_nextId (s : State) (kvs : List (Nat × Byte)) : (s.write kvs).nextId = s.nextId := rfl
@[simp] theorem State.write_clock (s : State) (kvs : List (Nat × Byte)) : (s.write kvs).clock = s.clock := rfl
@[simp] theorem State.write_mem (s : State) (kvs : List (Nat × Byte)) : (s.write kvs).mem = s.mem.setAll kvs := rfl
@[simp] theorem State.write_fe (s : State) (kvs : List (Nat × Byte)) : (s.write kvs).fe = s.fe := rfl
@[simp] theorem State.write_tiles (s : State) (kvs : List (Nat × Byte)) : (s.write kvs).tiles = s.tiles := rfl
@[simp] theorem State.write_groups (s : State) (kvs : List (Nat × Byte)) : (s.write kvs).groups = s.groups.map fun g => g.noteWrite (kvs.map fun q => lineOf q.1).eraseDups := rfl
@[simp] theorem State.write_teams (s : State) (kvs : List (Nat × Byte)) : (s.write kvs).teams = s.teams := rfl
@[simp] theorem State.write_launches (s : State) (kvs : List (Nat × Byte)) : (s.write kvs).launches = s.launches := rfl
@[simp] theorem State.write_ctxs (s : State) (kvs : List (Nat × Byte)) : (s.write kvs).ctxs = s.ctxs := rfl
@[simp] theorem State.write_clusters (s : State) (kvs : List (Nat × Byte)) : (s.write kvs).clusters = s.clusters := rfl
@[simp] theorem State.write_tlbs (s : State) (kvs : List (Nat × Byte)) : (s.write kvs).tlbs = s.tlbs := rfl
@[simp] theorem State.write_spindle (s : State) (kvs : List (Nat × Byte)) : (s.write kvs).spindle = s.spindle := rfl
@[simp] theorem State.write_poison (s : State) (kvs : List (Nat × Byte)) : (s.write kvs).poison = s.poison := rfl
@[simp] theorem State.write_mailers (s : State) (kvs : List (Nat × Byte)) : (s.write kvs).mailers = s.mailers := rfl
@[simp] theorem State.write_objPart (s : State) (kvs : List (Nat × Byte)) : (s.write kvs).objPart = s.objPart := rfl
@[simp] theorem State.write_nextAge (s : State) (kvs : List (Nat × Byte)) : (s.write kvs).nextAge = s.nextAge := rfl
@[simp] theorem State.write_nextTag (s : State) (kvs : List (Nat × Byte)) : (s.write kvs).nextTag = s.nextTag := rfl
@[simp] theorem State.write_devnum (s : State) (kvs : List (Nat × Byte)) : (s.write kvs).devnum = s.devnum := rfl
@[simp] theorem State.write_partmap (s : State) (kvs : List (Nat × Byte)) : (s.write kvs).partmap = s.partmap := rfl
@[simp] theorem State.write_vfslot (s : State) (kvs : List (Nat × Byte)) : (s.write kvs).vfslot = s.vfslot := rfl
@[simp] theorem State.write_fw (s : State) (kvs : List (Nat × Byte)) : (s.write kvs).fw = s.fw := rfl
@[simp] theorem State.write_quotes (s : State) (kvs : List (Nat × Byte)) : (s.write kvs).quotes = s.quotes := rfl
@[simp] theorem State.write_rsDone (s : State) (kvs : List (Nat × Byte)) : (s.write kvs).rsDone = s.rsDone := rfl
@[simp] theorem State.write_rsStat (s : State) (kvs : List (Nat × Byte)) : (s.write kvs).rsStat = s.rsStat := rfl
@[simp] theorem State.write_rsAddr (s : State) (kvs : List (Nat × Byte)) : (s.write kvs).rsAddr = s.rsAddr := rfl
@[simp] theorem State.write_snapshots (s : State) (kvs : List (Nat × Byte)) : (s.write kvs).snapshots = s.snapshots := rfl
@[simp] theorem State.write_errs (s : State) (kvs : List (Nat × Byte)) : (s.write kvs).errs = s.errs := rfl
@[simp] theorem State.write_lastBad (s : State) (kvs : List (Nat × Byte)) : (s.write kvs).lastBad = s.lastBad := rfl
@[simp] theorem State.write_tlanto (s : State) (kvs : List (Nat × Byte)) : (s.write kvs).tlanto = s.tlanto := rfl
@[simp] theorem State.write_cxl (s : State) (kvs : List (Nat × Byte)) : (s.write kvs).cxl = s.cxl := rfl
@[simp] theorem State.write_hostData (s : State) (kvs : List (Nat × Byte)) : (s.write kvs).hostData = s.hostData := rfl
@[simp] theorem State.write_fePre (s : State) (kvs : List (Nat × Byte)) : (s.write kvs).fePre = s.fePre := rfl

/-! ## Group.fillV -/

@[simp] theorem Group.fillV_regs_v (g : Group) (n : Nat) (f : Nat → Option Word) : (g.fillV n f).regs.v = g.regs.v.modify n fun old => lanes.map fun l => (f l).getD (old.getD l 0) := rfl
@[simp] theorem Group.fillV_regs_s (g : Group) (n : Nat) (f : Nat → Option Word) : (g.fillV n f).regs.s = g.regs.s := rfl
@[simp] theorem Group.fillV_regs_a (g : Group) (n : Nat) (f : Nat → Option Word) : (g.fillV n f).regs.a = g.regs.a := rfl
@[simp] theorem Group.fillV_regs_p (g : Group) (n : Nat) (f : Nat → Option Word) : (g.fillV n f).regs.p = g.regs.p := rfl
@[simp] theorem Group.fillV_regs_slip (g : Group) (n : Nat) (f : Nat → Option Word) : (g.fillV n f).regs.slip = g.regs.slip := rfl
@[simp] theorem Group.fillV_regs_tvec (g : Group) (n : Nat) (f : Nat → Option Word) : (g.fillV n f).regs.tvec = g.regs.tvec := rfl
@[simp] theorem Group.fillV_regs_tcmp (g : Group) (n : Nat) (f : Nat → Option Word) : (g.fillV n f).regs.tcmp = g.regs.tcmp := rfl
@[simp] theorem Group.fillV_regs_seed (g : Group) (n : Nat) (f : Nat → Option Word) : (g.fillV n f).regs.seed = g.regs.seed := rfl
@[simp] theorem Group.fillV_regs_fmtb (g : Group) (n : Nat) (f : Nat → Option Word) : (g.fillV n f).regs.fmtb = g.regs.fmtb := rfl
@[simp] theorem Group.fillV_gid (g : Group) (n : Nat) (f : Nat → Option Word) : (g.fillV n f).gid = g.gid := rfl
@[simp] theorem Group.fillV_slot (g : Group) (n : Nat) (f : Nat → Option Word) : (g.fillV n f).slot = g.slot := rfl
@[simp] theorem Group.fillV_tag (g : Group) (n : Nat) (f : Nat → Option Word) : (g.fillV n f).tag = g.tag := rfl
@[simp] theorem Group.fillV_lage (g : Group) (n : Nat) (f : Nat → Option Word) : (g.fillV n f).lage = g.lage := rfl
@[simp] theorem Group.fillV_tlin (g : Group) (n : Nat) (f : Nat → Option Word) : (g.fillV n f).tlin = g.tlin := rfl
@[simp] theorem Group.fillV_tx (g : Group) (n : Nat) (f : Nat → Option Word) : (g.fillV n f).tx = g.tx := rfl
@[simp] theorem Group.fillV_ty (g : Group) (n : Nat) (f : Nat → Option Word) : (g.fillV n f).ty = g.ty := rfl
@[simp] theorem Group.fillV_tz (g : Group) (n : Nat) (f : Nat → Option Word) : (g.fillV n f).tz = g.tz := rfl
@[simp] theorem Group.fillV_gdim (g : Group) (n : Nat) (f : Nat → Option Word) : (g.fillV n f).gdim = g.gdim := rfl
@[simp] theorem Group.fillV_tgidx (g : Group) (n : Nat) (f : Nat → Option Word) : (g.fillV n f).tgidx = g.tgidx := rfl
@[simp] theorem Group.fillV_ridx (g : Group) (n : Nat) (f : Nat → Option Word) : (g.fillV n f).ridx = g.ridx := rfl
@[simp] theorem Group.fillV_role (g : Group) (n : Nat) (f : Nat → Option Word) : (g.fillV n f).role = g.role := rfl
@[simp] theorem Group.fillV_rgroups (g : Group) (n : Nat) (f : Nat → Option Word) : (g.fillV n f).rgroups = g.rgroups := rfl
@[simp] theorem Group.fillV_nroles (g : Group) (n : Nat) (f : Nat → Option Word) : (g.fillV n f).nroles = g.nroles := rfl
@[simp] theorem Group.fillV_tgroups (g : Group) (n : Nat) (f : Nat → Option Word) : (g.fillV n f).tgroups = g.tgroups := rfl
@[simp] theorem Group.fillV_part (g : Group) (n : Nat) (f : Nat → Option Word) : (g.fillV n f).part = g.part := rfl
@[simp] theorem Group.fillV_prio (g : Group) (n : Nat) (f : Nat → Option Word) : (g.fillV n f).prio = g.prio := rfl
@[simp] theorem Group.fillV_dmode (g : Group) (n : Nat) (f : Nat → Option Word) : (g.fillV n f).dmode = g.dmode := rfl
@[simp] theorem Group.fillV_quantum (g : Group) (n : Nat) (f : Nat → Option Word) : (g.fillV n f).quantum = g.quantum := rfl
@[simp] theorem Group.fillV_vbud (g : Group) (n : Nat) (f : Nat → Option Word) : (g.fillV n f).vbud = g.vbud := rfl
@[simp] theorem Group.fillV_sbud (g : Group) (n : Nat) (f : Nat → Option Word) : (g.fillV n f).sbud = g.sbud := rfl
@[simp] theorem Group.fillV_centry (g : Group) (n : Nat) (f : Nat → Option Word) : (g.fillV n f).centry = g.centry := rfl
@[simp] theorem Group.fillV_aentry (g : Group) (n : Nat) (f : Nat → Option Word) : (g.fillV n f).aentry = g.aentry := rfl
@[simp] theorem Group.fillV_rbase (g : Group) (n : Nat) (f : Nat → Option Word) : (g.fillV n f).rbase = g.rbase := rfl
@[simp] theorem Group.fillV_flags (g : Group) (n : Nat) (f : Nat → Option Word) : (g.fillV n f).flags = g.flags := rfl
@[simp] theorem Group.fillV_q (g : Group) (n : Nat) (f : Nat → Option Word) : (g.fillV n f).q = g.q := rfl
@[simp] theorem Group.fillV_qh (g : Group) (n : Nat) (f : Nat → Option Word) : (g.fillV n f).qh = g.qh := rfl
@[simp] theorem Group.fillV_qb (g : Group) (n : Nat) (f : Nat → Option Word) : (g.fillV n f).qb = g.qb := rfl
@[simp] theorem Group.fillV_retired (g : Group) (n : Nat) (f : Nat → Option Word) : (g.fillV n f).retired = g.retired := rfl
@[simp] theorem Group.fillV_raised (g : Group) (n : Nat) (f : Nat → Option Word) : (g.fillV n f).raised = g.raised := rfl
@[simp] theorem Group.fillV_paths (g : Group) (n : Nat) (f : Nat → Option Word) : (g.fillV n f).paths = g.paths := rfl
@[simp] theorem Group.fillV_ents (g : Group) (n : Nat) (f : Nat → Option Word) : (g.fillV n f).ents = g.ents := rfl
@[simp] theorem Group.fillV_nextPid (g : Group) (n : Nat) (f : Nat → Option Word) : (g.fillV n f).nextPid = g.nextPid := rfl
@[simp] theorem Group.fillV_apc (g : Group) (n : Nat) (f : Nat → Option Word) : (g.fillV n f).apc = g.apc := rfl
@[simp] theorem Group.fillV_asince (g : Group) (n : Nat) (f : Nat → Option Word) : (g.fillV n f).asince = g.asince := rfl
@[simp] theorem Group.fillV_turn (g : Group) (n : Nat) (f : Nat → Option Word) : (g.fillV n f).turn = g.turn := rfl
@[simp] theorem Group.fillV_ast (g : Group) (n : Nat) (f : Nat → Option Word) : (g.fillV n f).ast = g.ast := rfl
@[simp] theorem Group.fillV_aline (g : Group) (n : Nat) (f : Nat → Option Word) : (g.fillV n f).aline = g.aline := rfl
@[simp] theorem Group.fillV_ayield (g : Group) (n : Nat) (f : Nat → Option Word) : (g.fillV n f).ayield = g.ayield := rfl
@[simp] theorem Group.fillV_apassed (g : Group) (n : Nat) (f : Nat → Option Word) : (g.fillV n f).apassed = g.apassed := rfl
@[simp] theorem Group.fillV_astall (g : Group) (n : Nat) (f : Nat → Option Word) : (g.fillV n f).astall = g.astall := rfl
@[simp] theorem Group.fillV_qbar (g : Group) (n : Nat) (f : Nat → Option Word) : (g.fillV n f).qbar = g.qbar := rfl
@[simp] theorem Group.fillV_ops (g : Group) (n : Nat) (f : Nat → Option Word) : (g.fillV n f).ops = g.ops := rfl
@[simp] theorem Group.fillV_acks (g : Group) (n : Nat) (f : Nat → Option Word) : (g.fillV n f).acks = g.acks := rfl
@[simp] theorem Group.fillV_openLeft (g : Group) (n : Nat) (f : Nat → Option Word) : (g.fillV n f).openLeft = g.openLeft := rfl
@[simp] theorem Group.fillV_openN (g : Group) (n : Nat) (f : Nat → Option Word) : (g.fillV n f).openN = g.openN := rfl
@[simp] theorem Group.fillV_openFail (g : Group) (n : Nat) (f : Nat → Option Word) : (g.fillV n f).openFail = g.openFail := rfl
@[simp] theorem Group.fillV_batches (g : Group) (n : Nat) (f : Nat → Option Word) : (g.fillV n f).batches = g.batches := rfl
@[simp] theorem Group.fillV_lastb (g : Group) (n : Nat) (f : Nat → Option Word) : (g.fillV n f).lastb = g.lastb := rfl
@[simp] theorem Group.fillV_bwait (g : Group) (n : Nat) (f : Nat → Option Word) : (g.fillV n f).bwait = g.bwait := rfl
@[simp] theorem Group.fillV_armed (g : Group) (n : Nat) (f : Nat → Option Word) : (g.fillV n f).armed = g.armed := rfl
@[simp] theorem Group.fillV_held (g : Group) (n : Nat) (f : Nat → Option Word) : (g.fillV n f).held = g.held := rfl
@[simp] theorem Group.fillV_trig (g : Group) (n : Nat) (f : Nat → Option Word) : (g.fillV n f).trig = g.trig := rfl
@[simp] theorem Group.fillV_inh (g : Group) (n : Nat) (f : Nat → Option Word) : (g.fillV n f).inh = g.inh := rfl
@[simp] theorem Group.fillV_frame (g : Group) (n : Nat) (f : Nat → Option Word) : (g.fillV n f).frame = g.frame := rfl
@[simp] theorem Group.fillV_trapPaths (g : Group) (n : Nat) (f : Nat → Option Word) : (g.fillV n f).trapPaths = g.trapPaths := rfl
@[simp] theorem Group.fillV_trapEnts (g : Group) (n : Nat) (f : Nat → Option Word) : (g.fillV n f).trapEnts = g.trapEnts := rfl
@[simp] theorem Group.fillV_trapAst (g : Group) (n : Nat) (f : Nat → Option Word) : (g.fillV n f).trapAst = g.trapAst := rfl
@[simp] theorem Group.fillV_rq (g : Group) (n : Nat) (f : Nat → Option Word) : (g.fillV n f).rq = g.rq := rfl
@[simp] theorem Group.fillV_st (g : Group) (n : Nat) (f : Nat → Option Word) : (g.fillV n f).st = g.st := rfl
@[simp] theorem Group.fillV_vres (g : Group) (n : Nat) (f : Nat → Option Word) : (g.fillV n f).vres = g.vres := rfl
@[simp] theorem Group.fillV_vdirty (g : Group) (n : Nat) (f : Nat → Option Word) : (g.fillV n f).vdirty = g.vdirty := rfl
@[simp] theorem Group.fillV_vwr (g : Group) (n : Nat) (f : Nat → Option Word) : (g.fillV n f).vwr = g.vwr := rfl
@[simp] theorem Group.fillV_vneed (g : Group) (n : Nat) (f : Nat → Option Word) : (g.fillV n f).vneed = g.vneed := rfl
@[simp] theorem Group.fillV_vbad (g : Group) (n : Nat) (f : Nat → Option Word) : (g.fillV n f).vbad = g.vbad := rfl
@[simp] theorem Group.fillV_filed (g : Group) (n : Nat) (f : Nat → Option Word) : (g.fillV n f).filed = g.filed := rfl
@[simp] theorem Group.fillV_qn (g : Group) (n : Nat) (f : Nat → Option Word) : (g.fillV n f).qn = g.qn := rfl
@[simp] theorem Group.fillV_qend (g : Group) (n : Nat) (f : Nat → Option Word) : (g.fillV n f).qend = g.qend := rfl
@[simp] theorem Group.fillV_cbuf (g : Group) (n : Nat) (f : Nat → Option Word) : (g.fillV n f).cbuf = g.cbuf := rfl
@[simp] theorem Group.fillV_fresh (g : Group) (n : Nat) (f : Nat → Option Word) : (g.fillV n f).fresh = g.fresh := rfl
@[simp] theorem Group.fillV_pend (g : Group) (n : Nat) (f : Nat → Option Word) : (g.fillV n f).pend = g.pend := rfl
@[simp] theorem Group.fillV_flops (g : Group) (n : Nat) (f : Nat → Option Word) : (g.fillV n f).flops = g.flops := rfl

/-! ## Group.setS -/

@[simp] theorem Group.setS_regs_v (g : Group) (n : Nat) (x : Word) : (g.setS n x).regs.v = g.regs.v := rfl
@[simp] theorem Group.setS_regs_s (g : Group) (n : Nat) (x : Word) : (g.setS n x).regs.s = g.regs.s.set n x := rfl
@[simp] theorem Group.setS_regs_a (g : Group) (n : Nat) (x : Word) : (g.setS n x).regs.a = g.regs.a := rfl
@[simp] theorem Group.setS_regs_p (g : Group) (n : Nat) (x : Word) : (g.setS n x).regs.p = g.regs.p := rfl
@[simp] theorem Group.setS_regs_slip (g : Group) (n : Nat) (x : Word) : (g.setS n x).regs.slip = g.regs.slip := rfl
@[simp] theorem Group.setS_regs_tvec (g : Group) (n : Nat) (x : Word) : (g.setS n x).regs.tvec = g.regs.tvec := rfl
@[simp] theorem Group.setS_regs_tcmp (g : Group) (n : Nat) (x : Word) : (g.setS n x).regs.tcmp = g.regs.tcmp := rfl
@[simp] theorem Group.setS_regs_seed (g : Group) (n : Nat) (x : Word) : (g.setS n x).regs.seed = g.regs.seed := rfl
@[simp] theorem Group.setS_regs_fmtb (g : Group) (n : Nat) (x : Word) : (g.setS n x).regs.fmtb = g.regs.fmtb := rfl
@[simp] theorem Group.setS_gid (g : Group) (n : Nat) (x : Word) : (g.setS n x).gid = g.gid := rfl
@[simp] theorem Group.setS_slot (g : Group) (n : Nat) (x : Word) : (g.setS n x).slot = g.slot := rfl
@[simp] theorem Group.setS_tag (g : Group) (n : Nat) (x : Word) : (g.setS n x).tag = g.tag := rfl
@[simp] theorem Group.setS_lage (g : Group) (n : Nat) (x : Word) : (g.setS n x).lage = g.lage := rfl
@[simp] theorem Group.setS_tlin (g : Group) (n : Nat) (x : Word) : (g.setS n x).tlin = g.tlin := rfl
@[simp] theorem Group.setS_tx (g : Group) (n : Nat) (x : Word) : (g.setS n x).tx = g.tx := rfl
@[simp] theorem Group.setS_ty (g : Group) (n : Nat) (x : Word) : (g.setS n x).ty = g.ty := rfl
@[simp] theorem Group.setS_tz (g : Group) (n : Nat) (x : Word) : (g.setS n x).tz = g.tz := rfl
@[simp] theorem Group.setS_gdim (g : Group) (n : Nat) (x : Word) : (g.setS n x).gdim = g.gdim := rfl
@[simp] theorem Group.setS_tgidx (g : Group) (n : Nat) (x : Word) : (g.setS n x).tgidx = g.tgidx := rfl
@[simp] theorem Group.setS_ridx (g : Group) (n : Nat) (x : Word) : (g.setS n x).ridx = g.ridx := rfl
@[simp] theorem Group.setS_role (g : Group) (n : Nat) (x : Word) : (g.setS n x).role = g.role := rfl
@[simp] theorem Group.setS_rgroups (g : Group) (n : Nat) (x : Word) : (g.setS n x).rgroups = g.rgroups := rfl
@[simp] theorem Group.setS_nroles (g : Group) (n : Nat) (x : Word) : (g.setS n x).nroles = g.nroles := rfl
@[simp] theorem Group.setS_tgroups (g : Group) (n : Nat) (x : Word) : (g.setS n x).tgroups = g.tgroups := rfl
@[simp] theorem Group.setS_part (g : Group) (n : Nat) (x : Word) : (g.setS n x).part = g.part := rfl
@[simp] theorem Group.setS_prio (g : Group) (n : Nat) (x : Word) : (g.setS n x).prio = g.prio := rfl
@[simp] theorem Group.setS_dmode (g : Group) (n : Nat) (x : Word) : (g.setS n x).dmode = g.dmode := rfl
@[simp] theorem Group.setS_quantum (g : Group) (n : Nat) (x : Word) : (g.setS n x).quantum = g.quantum := rfl
@[simp] theorem Group.setS_vbud (g : Group) (n : Nat) (x : Word) : (g.setS n x).vbud = g.vbud := rfl
@[simp] theorem Group.setS_sbud (g : Group) (n : Nat) (x : Word) : (g.setS n x).sbud = g.sbud := rfl
@[simp] theorem Group.setS_centry (g : Group) (n : Nat) (x : Word) : (g.setS n x).centry = g.centry := rfl
@[simp] theorem Group.setS_aentry (g : Group) (n : Nat) (x : Word) : (g.setS n x).aentry = g.aentry := rfl
@[simp] theorem Group.setS_rbase (g : Group) (n : Nat) (x : Word) : (g.setS n x).rbase = g.rbase := rfl
@[simp] theorem Group.setS_flags (g : Group) (n : Nat) (x : Word) : (g.setS n x).flags = g.flags := rfl
@[simp] theorem Group.setS_q (g : Group) (n : Nat) (x : Word) : (g.setS n x).q = g.q := rfl
@[simp] theorem Group.setS_qh (g : Group) (n : Nat) (x : Word) : (g.setS n x).qh = g.qh := rfl
@[simp] theorem Group.setS_qb (g : Group) (n : Nat) (x : Word) : (g.setS n x).qb = g.qb := rfl
@[simp] theorem Group.setS_retired (g : Group) (n : Nat) (x : Word) : (g.setS n x).retired = g.retired := rfl
@[simp] theorem Group.setS_raised (g : Group) (n : Nat) (x : Word) : (g.setS n x).raised = g.raised := rfl
@[simp] theorem Group.setS_paths (g : Group) (n : Nat) (x : Word) : (g.setS n x).paths = g.paths := rfl
@[simp] theorem Group.setS_ents (g : Group) (n : Nat) (x : Word) : (g.setS n x).ents = g.ents := rfl
@[simp] theorem Group.setS_nextPid (g : Group) (n : Nat) (x : Word) : (g.setS n x).nextPid = g.nextPid := rfl
@[simp] theorem Group.setS_apc (g : Group) (n : Nat) (x : Word) : (g.setS n x).apc = g.apc := rfl
@[simp] theorem Group.setS_asince (g : Group) (n : Nat) (x : Word) : (g.setS n x).asince = g.asince := rfl
@[simp] theorem Group.setS_turn (g : Group) (n : Nat) (x : Word) : (g.setS n x).turn = g.turn := rfl
@[simp] theorem Group.setS_ast (g : Group) (n : Nat) (x : Word) : (g.setS n x).ast = g.ast := rfl
@[simp] theorem Group.setS_aline (g : Group) (n : Nat) (x : Word) : (g.setS n x).aline = g.aline := rfl
@[simp] theorem Group.setS_ayield (g : Group) (n : Nat) (x : Word) : (g.setS n x).ayield = g.ayield := rfl
@[simp] theorem Group.setS_apassed (g : Group) (n : Nat) (x : Word) : (g.setS n x).apassed = g.apassed := rfl
@[simp] theorem Group.setS_astall (g : Group) (n : Nat) (x : Word) : (g.setS n x).astall = g.astall := rfl
@[simp] theorem Group.setS_qbar (g : Group) (n : Nat) (x : Word) : (g.setS n x).qbar = g.qbar := rfl
@[simp] theorem Group.setS_ops (g : Group) (n : Nat) (x : Word) : (g.setS n x).ops = g.ops := rfl
@[simp] theorem Group.setS_acks (g : Group) (n : Nat) (x : Word) : (g.setS n x).acks = g.acks := rfl
@[simp] theorem Group.setS_openLeft (g : Group) (n : Nat) (x : Word) : (g.setS n x).openLeft = g.openLeft := rfl
@[simp] theorem Group.setS_openN (g : Group) (n : Nat) (x : Word) : (g.setS n x).openN = g.openN := rfl
@[simp] theorem Group.setS_openFail (g : Group) (n : Nat) (x : Word) : (g.setS n x).openFail = g.openFail := rfl
@[simp] theorem Group.setS_batches (g : Group) (n : Nat) (x : Word) : (g.setS n x).batches = g.batches := rfl
@[simp] theorem Group.setS_lastb (g : Group) (n : Nat) (x : Word) : (g.setS n x).lastb = g.lastb := rfl
@[simp] theorem Group.setS_bwait (g : Group) (n : Nat) (x : Word) : (g.setS n x).bwait = g.bwait := rfl
@[simp] theorem Group.setS_armed (g : Group) (n : Nat) (x : Word) : (g.setS n x).armed = g.armed := rfl
@[simp] theorem Group.setS_held (g : Group) (n : Nat) (x : Word) : (g.setS n x).held = g.held := rfl
@[simp] theorem Group.setS_trig (g : Group) (n : Nat) (x : Word) : (g.setS n x).trig = g.trig := rfl
@[simp] theorem Group.setS_inh (g : Group) (n : Nat) (x : Word) : (g.setS n x).inh = g.inh := rfl
@[simp] theorem Group.setS_frame (g : Group) (n : Nat) (x : Word) : (g.setS n x).frame = g.frame := rfl
@[simp] theorem Group.setS_trapPaths (g : Group) (n : Nat) (x : Word) : (g.setS n x).trapPaths = g.trapPaths := rfl
@[simp] theorem Group.setS_trapEnts (g : Group) (n : Nat) (x : Word) : (g.setS n x).trapEnts = g.trapEnts := rfl
@[simp] theorem Group.setS_trapAst (g : Group) (n : Nat) (x : Word) : (g.setS n x).trapAst = g.trapAst := rfl
@[simp] theorem Group.setS_rq (g : Group) (n : Nat) (x : Word) : (g.setS n x).rq = g.rq := rfl
@[simp] theorem Group.setS_st (g : Group) (n : Nat) (x : Word) : (g.setS n x).st = g.st := rfl
@[simp] theorem Group.setS_vres (g : Group) (n : Nat) (x : Word) : (g.setS n x).vres = g.vres := rfl
@[simp] theorem Group.setS_vdirty (g : Group) (n : Nat) (x : Word) : (g.setS n x).vdirty = g.vdirty := rfl
@[simp] theorem Group.setS_vwr (g : Group) (n : Nat) (x : Word) : (g.setS n x).vwr = g.vwr := rfl
@[simp] theorem Group.setS_vneed (g : Group) (n : Nat) (x : Word) : (g.setS n x).vneed = g.vneed := rfl
@[simp] theorem Group.setS_vbad (g : Group) (n : Nat) (x : Word) : (g.setS n x).vbad = g.vbad := rfl
@[simp] theorem Group.setS_filed (g : Group) (n : Nat) (x : Word) : (g.setS n x).filed = g.filed := rfl
@[simp] theorem Group.setS_qn (g : Group) (n : Nat) (x : Word) : (g.setS n x).qn = g.qn := rfl
@[simp] theorem Group.setS_qend (g : Group) (n : Nat) (x : Word) : (g.setS n x).qend = g.qend := rfl
@[simp] theorem Group.setS_cbuf (g : Group) (n : Nat) (x : Word) : (g.setS n x).cbuf = g.cbuf := rfl
@[simp] theorem Group.setS_fresh (g : Group) (n : Nat) (x : Word) : (g.setS n x).fresh = g.fresh := rfl
@[simp] theorem Group.setS_pend (g : Group) (n : Nat) (x : Word) : (g.setS n x).pend = g.pend := rfl
@[simp] theorem Group.setS_flops (g : Group) (n : Nat) (x : Word) : (g.setS n x).flops = g.flops := rfl

/-! ## Group.setA -/

@[simp] theorem Group.setA_regs_v (g : Group) (n : Nat) (x : DWord) : (g.setA n x).regs.v = g.regs.v := rfl
@[simp] theorem Group.setA_regs_s (g : Group) (n : Nat) (x : DWord) : (g.setA n x).regs.s = g.regs.s := rfl
@[simp] theorem Group.setA_regs_a (g : Group) (n : Nat) (x : DWord) : (g.setA n x).regs.a = g.regs.a.set n x := rfl
@[simp] theorem Group.setA_regs_p (g : Group) (n : Nat) (x : DWord) : (g.setA n x).regs.p = g.regs.p := rfl
@[simp] theorem Group.setA_regs_slip (g : Group) (n : Nat) (x : DWord) : (g.setA n x).regs.slip = g.regs.slip := rfl
@[simp] theorem Group.setA_regs_tvec (g : Group) (n : Nat) (x : DWord) : (g.setA n x).regs.tvec = g.regs.tvec := rfl
@[simp] theorem Group.setA_regs_tcmp (g : Group) (n : Nat) (x : DWord) : (g.setA n x).regs.tcmp = g.regs.tcmp := rfl
@[simp] theorem Group.setA_regs_seed (g : Group) (n : Nat) (x : DWord) : (g.setA n x).regs.seed = g.regs.seed := rfl
@[simp] theorem Group.setA_regs_fmtb (g : Group) (n : Nat) (x : DWord) : (g.setA n x).regs.fmtb = g.regs.fmtb := rfl
@[simp] theorem Group.setA_gid (g : Group) (n : Nat) (x : DWord) : (g.setA n x).gid = g.gid := rfl
@[simp] theorem Group.setA_slot (g : Group) (n : Nat) (x : DWord) : (g.setA n x).slot = g.slot := rfl
@[simp] theorem Group.setA_tag (g : Group) (n : Nat) (x : DWord) : (g.setA n x).tag = g.tag := rfl
@[simp] theorem Group.setA_lage (g : Group) (n : Nat) (x : DWord) : (g.setA n x).lage = g.lage := rfl
@[simp] theorem Group.setA_tlin (g : Group) (n : Nat) (x : DWord) : (g.setA n x).tlin = g.tlin := rfl
@[simp] theorem Group.setA_tx (g : Group) (n : Nat) (x : DWord) : (g.setA n x).tx = g.tx := rfl
@[simp] theorem Group.setA_ty (g : Group) (n : Nat) (x : DWord) : (g.setA n x).ty = g.ty := rfl
@[simp] theorem Group.setA_tz (g : Group) (n : Nat) (x : DWord) : (g.setA n x).tz = g.tz := rfl
@[simp] theorem Group.setA_gdim (g : Group) (n : Nat) (x : DWord) : (g.setA n x).gdim = g.gdim := rfl
@[simp] theorem Group.setA_tgidx (g : Group) (n : Nat) (x : DWord) : (g.setA n x).tgidx = g.tgidx := rfl
@[simp] theorem Group.setA_ridx (g : Group) (n : Nat) (x : DWord) : (g.setA n x).ridx = g.ridx := rfl
@[simp] theorem Group.setA_role (g : Group) (n : Nat) (x : DWord) : (g.setA n x).role = g.role := rfl
@[simp] theorem Group.setA_rgroups (g : Group) (n : Nat) (x : DWord) : (g.setA n x).rgroups = g.rgroups := rfl
@[simp] theorem Group.setA_nroles (g : Group) (n : Nat) (x : DWord) : (g.setA n x).nroles = g.nroles := rfl
@[simp] theorem Group.setA_tgroups (g : Group) (n : Nat) (x : DWord) : (g.setA n x).tgroups = g.tgroups := rfl
@[simp] theorem Group.setA_part (g : Group) (n : Nat) (x : DWord) : (g.setA n x).part = g.part := rfl
@[simp] theorem Group.setA_prio (g : Group) (n : Nat) (x : DWord) : (g.setA n x).prio = g.prio := rfl
@[simp] theorem Group.setA_dmode (g : Group) (n : Nat) (x : DWord) : (g.setA n x).dmode = g.dmode := rfl
@[simp] theorem Group.setA_quantum (g : Group) (n : Nat) (x : DWord) : (g.setA n x).quantum = g.quantum := rfl
@[simp] theorem Group.setA_vbud (g : Group) (n : Nat) (x : DWord) : (g.setA n x).vbud = g.vbud := rfl
@[simp] theorem Group.setA_sbud (g : Group) (n : Nat) (x : DWord) : (g.setA n x).sbud = g.sbud := rfl
@[simp] theorem Group.setA_centry (g : Group) (n : Nat) (x : DWord) : (g.setA n x).centry = g.centry := rfl
@[simp] theorem Group.setA_aentry (g : Group) (n : Nat) (x : DWord) : (g.setA n x).aentry = g.aentry := rfl
@[simp] theorem Group.setA_rbase (g : Group) (n : Nat) (x : DWord) : (g.setA n x).rbase = g.rbase := rfl
@[simp] theorem Group.setA_flags (g : Group) (n : Nat) (x : DWord) : (g.setA n x).flags = g.flags := rfl
@[simp] theorem Group.setA_q (g : Group) (n : Nat) (x : DWord) : (g.setA n x).q = g.q := rfl
@[simp] theorem Group.setA_qh (g : Group) (n : Nat) (x : DWord) : (g.setA n x).qh = g.qh := rfl
@[simp] theorem Group.setA_qb (g : Group) (n : Nat) (x : DWord) : (g.setA n x).qb = g.qb := rfl
@[simp] theorem Group.setA_retired (g : Group) (n : Nat) (x : DWord) : (g.setA n x).retired = g.retired := rfl
@[simp] theorem Group.setA_raised (g : Group) (n : Nat) (x : DWord) : (g.setA n x).raised = g.raised := rfl
@[simp] theorem Group.setA_paths (g : Group) (n : Nat) (x : DWord) : (g.setA n x).paths = g.paths := rfl
@[simp] theorem Group.setA_ents (g : Group) (n : Nat) (x : DWord) : (g.setA n x).ents = g.ents := rfl
@[simp] theorem Group.setA_nextPid (g : Group) (n : Nat) (x : DWord) : (g.setA n x).nextPid = g.nextPid := rfl
@[simp] theorem Group.setA_apc (g : Group) (n : Nat) (x : DWord) : (g.setA n x).apc = g.apc := rfl
@[simp] theorem Group.setA_asince (g : Group) (n : Nat) (x : DWord) : (g.setA n x).asince = g.asince := rfl
@[simp] theorem Group.setA_turn (g : Group) (n : Nat) (x : DWord) : (g.setA n x).turn = g.turn := rfl
@[simp] theorem Group.setA_ast (g : Group) (n : Nat) (x : DWord) : (g.setA n x).ast = g.ast := rfl
@[simp] theorem Group.setA_aline (g : Group) (n : Nat) (x : DWord) : (g.setA n x).aline = g.aline := rfl
@[simp] theorem Group.setA_ayield (g : Group) (n : Nat) (x : DWord) : (g.setA n x).ayield = g.ayield := rfl
@[simp] theorem Group.setA_apassed (g : Group) (n : Nat) (x : DWord) : (g.setA n x).apassed = g.apassed := rfl
@[simp] theorem Group.setA_astall (g : Group) (n : Nat) (x : DWord) : (g.setA n x).astall = g.astall := rfl
@[simp] theorem Group.setA_qbar (g : Group) (n : Nat) (x : DWord) : (g.setA n x).qbar = g.qbar := rfl
@[simp] theorem Group.setA_ops (g : Group) (n : Nat) (x : DWord) : (g.setA n x).ops = g.ops := rfl
@[simp] theorem Group.setA_acks (g : Group) (n : Nat) (x : DWord) : (g.setA n x).acks = g.acks := rfl
@[simp] theorem Group.setA_openLeft (g : Group) (n : Nat) (x : DWord) : (g.setA n x).openLeft = g.openLeft := rfl
@[simp] theorem Group.setA_openN (g : Group) (n : Nat) (x : DWord) : (g.setA n x).openN = g.openN := rfl
@[simp] theorem Group.setA_openFail (g : Group) (n : Nat) (x : DWord) : (g.setA n x).openFail = g.openFail := rfl
@[simp] theorem Group.setA_batches (g : Group) (n : Nat) (x : DWord) : (g.setA n x).batches = g.batches := rfl
@[simp] theorem Group.setA_lastb (g : Group) (n : Nat) (x : DWord) : (g.setA n x).lastb = g.lastb := rfl
@[simp] theorem Group.setA_bwait (g : Group) (n : Nat) (x : DWord) : (g.setA n x).bwait = g.bwait := rfl
@[simp] theorem Group.setA_armed (g : Group) (n : Nat) (x : DWord) : (g.setA n x).armed = g.armed := rfl
@[simp] theorem Group.setA_held (g : Group) (n : Nat) (x : DWord) : (g.setA n x).held = g.held := rfl
@[simp] theorem Group.setA_trig (g : Group) (n : Nat) (x : DWord) : (g.setA n x).trig = g.trig := rfl
@[simp] theorem Group.setA_inh (g : Group) (n : Nat) (x : DWord) : (g.setA n x).inh = g.inh := rfl
@[simp] theorem Group.setA_frame (g : Group) (n : Nat) (x : DWord) : (g.setA n x).frame = g.frame := rfl
@[simp] theorem Group.setA_trapPaths (g : Group) (n : Nat) (x : DWord) : (g.setA n x).trapPaths = g.trapPaths := rfl
@[simp] theorem Group.setA_trapEnts (g : Group) (n : Nat) (x : DWord) : (g.setA n x).trapEnts = g.trapEnts := rfl
@[simp] theorem Group.setA_trapAst (g : Group) (n : Nat) (x : DWord) : (g.setA n x).trapAst = g.trapAst := rfl
@[simp] theorem Group.setA_rq (g : Group) (n : Nat) (x : DWord) : (g.setA n x).rq = g.rq := rfl
@[simp] theorem Group.setA_st (g : Group) (n : Nat) (x : DWord) : (g.setA n x).st = g.st := rfl
@[simp] theorem Group.setA_vres (g : Group) (n : Nat) (x : DWord) : (g.setA n x).vres = g.vres := rfl
@[simp] theorem Group.setA_vdirty (g : Group) (n : Nat) (x : DWord) : (g.setA n x).vdirty = g.vdirty := rfl
@[simp] theorem Group.setA_vwr (g : Group) (n : Nat) (x : DWord) : (g.setA n x).vwr = g.vwr := rfl
@[simp] theorem Group.setA_vneed (g : Group) (n : Nat) (x : DWord) : (g.setA n x).vneed = g.vneed := rfl
@[simp] theorem Group.setA_vbad (g : Group) (n : Nat) (x : DWord) : (g.setA n x).vbad = g.vbad := rfl
@[simp] theorem Group.setA_filed (g : Group) (n : Nat) (x : DWord) : (g.setA n x).filed = g.filed := rfl
@[simp] theorem Group.setA_qn (g : Group) (n : Nat) (x : DWord) : (g.setA n x).qn = g.qn := rfl
@[simp] theorem Group.setA_qend (g : Group) (n : Nat) (x : DWord) : (g.setA n x).qend = g.qend := rfl
@[simp] theorem Group.setA_cbuf (g : Group) (n : Nat) (x : DWord) : (g.setA n x).cbuf = g.cbuf := rfl
@[simp] theorem Group.setA_fresh (g : Group) (n : Nat) (x : DWord) : (g.setA n x).fresh = g.fresh := rfl
@[simp] theorem Group.setA_pend (g : Group) (n : Nat) (x : DWord) : (g.setA n x).pend = g.pend := rfl
@[simp] theorem Group.setA_flops (g : Group) (n : Nat) (x : DWord) : (g.setA n x).flops = g.flops := rfl

/-! ## Group.markV and Group.setV -/

@[simp] theorem Group.markV_gid (g : Group) (n : Nat) : (g.markV n).gid = g.gid := rfl
@[simp] theorem Group.markV_slot (g : Group) (n : Nat) : (g.markV n).slot = g.slot := rfl
@[simp] theorem Group.markV_tag (g : Group) (n : Nat) : (g.markV n).tag = g.tag := rfl
@[simp] theorem Group.markV_lage (g : Group) (n : Nat) : (g.markV n).lage = g.lage := rfl
@[simp] theorem Group.markV_tlin (g : Group) (n : Nat) : (g.markV n).tlin = g.tlin := rfl
@[simp] theorem Group.markV_tx (g : Group) (n : Nat) : (g.markV n).tx = g.tx := rfl
@[simp] theorem Group.markV_ty (g : Group) (n : Nat) : (g.markV n).ty = g.ty := rfl
@[simp] theorem Group.markV_tz (g : Group) (n : Nat) : (g.markV n).tz = g.tz := rfl
@[simp] theorem Group.markV_gdim (g : Group) (n : Nat) : (g.markV n).gdim = g.gdim := rfl
@[simp] theorem Group.markV_tgidx (g : Group) (n : Nat) : (g.markV n).tgidx = g.tgidx := rfl
@[simp] theorem Group.markV_ridx (g : Group) (n : Nat) : (g.markV n).ridx = g.ridx := rfl
@[simp] theorem Group.markV_role (g : Group) (n : Nat) : (g.markV n).role = g.role := rfl
@[simp] theorem Group.markV_rgroups (g : Group) (n : Nat) : (g.markV n).rgroups = g.rgroups := rfl
@[simp] theorem Group.markV_nroles (g : Group) (n : Nat) : (g.markV n).nroles = g.nroles := rfl
@[simp] theorem Group.markV_tgroups (g : Group) (n : Nat) : (g.markV n).tgroups = g.tgroups := rfl
@[simp] theorem Group.markV_part (g : Group) (n : Nat) : (g.markV n).part = g.part := rfl
@[simp] theorem Group.markV_prio (g : Group) (n : Nat) : (g.markV n).prio = g.prio := rfl
@[simp] theorem Group.markV_dmode (g : Group) (n : Nat) : (g.markV n).dmode = g.dmode := rfl
@[simp] theorem Group.markV_quantum (g : Group) (n : Nat) : (g.markV n).quantum = g.quantum := rfl
@[simp] theorem Group.markV_vbud (g : Group) (n : Nat) : (g.markV n).vbud = g.vbud := rfl
@[simp] theorem Group.markV_sbud (g : Group) (n : Nat) : (g.markV n).sbud = g.sbud := rfl
@[simp] theorem Group.markV_centry (g : Group) (n : Nat) : (g.markV n).centry = g.centry := rfl
@[simp] theorem Group.markV_aentry (g : Group) (n : Nat) : (g.markV n).aentry = g.aentry := rfl
@[simp] theorem Group.markV_rbase (g : Group) (n : Nat) : (g.markV n).rbase = g.rbase := rfl
@[simp] theorem Group.markV_regs (g : Group) (n : Nat) : (g.markV n).regs = g.regs := rfl
@[simp] theorem Group.markV_flags (g : Group) (n : Nat) : (g.markV n).flags = g.flags := rfl
@[simp] theorem Group.markV_q (g : Group) (n : Nat) : (g.markV n).q = g.q := rfl
@[simp] theorem Group.markV_qh (g : Group) (n : Nat) : (g.markV n).qh = g.qh := rfl
@[simp] theorem Group.markV_qb (g : Group) (n : Nat) : (g.markV n).qb = g.qb := rfl
@[simp] theorem Group.markV_retired (g : Group) (n : Nat) : (g.markV n).retired = g.retired := rfl
@[simp] theorem Group.markV_raised (g : Group) (n : Nat) : (g.markV n).raised = g.raised := rfl
@[simp] theorem Group.markV_paths (g : Group) (n : Nat) : (g.markV n).paths = g.paths := rfl
@[simp] theorem Group.markV_ents (g : Group) (n : Nat) : (g.markV n).ents = g.ents := rfl
@[simp] theorem Group.markV_nextPid (g : Group) (n : Nat) : (g.markV n).nextPid = g.nextPid := rfl
@[simp] theorem Group.markV_apc (g : Group) (n : Nat) : (g.markV n).apc = g.apc := rfl
@[simp] theorem Group.markV_asince (g : Group) (n : Nat) : (g.markV n).asince = g.asince := rfl
@[simp] theorem Group.markV_turn (g : Group) (n : Nat) : (g.markV n).turn = g.turn := rfl
@[simp] theorem Group.markV_ast (g : Group) (n : Nat) : (g.markV n).ast = g.ast := rfl
@[simp] theorem Group.markV_aline (g : Group) (n : Nat) : (g.markV n).aline = g.aline := rfl
@[simp] theorem Group.markV_ayield (g : Group) (n : Nat) : (g.markV n).ayield = g.ayield := rfl
@[simp] theorem Group.markV_apassed (g : Group) (n : Nat) : (g.markV n).apassed = g.apassed := rfl
@[simp] theorem Group.markV_astall (g : Group) (n : Nat) : (g.markV n).astall = g.astall := rfl
@[simp] theorem Group.markV_qbar (g : Group) (n : Nat) : (g.markV n).qbar = g.qbar := rfl
@[simp] theorem Group.markV_ops (g : Group) (n : Nat) : (g.markV n).ops = g.ops := rfl
@[simp] theorem Group.markV_acks (g : Group) (n : Nat) : (g.markV n).acks = g.acks := rfl
@[simp] theorem Group.markV_openLeft (g : Group) (n : Nat) : (g.markV n).openLeft = g.openLeft := rfl
@[simp] theorem Group.markV_openN (g : Group) (n : Nat) : (g.markV n).openN = g.openN := rfl
@[simp] theorem Group.markV_openFail (g : Group) (n : Nat) : (g.markV n).openFail = g.openFail := rfl
@[simp] theorem Group.markV_batches (g : Group) (n : Nat) : (g.markV n).batches = g.batches := rfl
@[simp] theorem Group.markV_lastb (g : Group) (n : Nat) : (g.markV n).lastb = g.lastb := rfl
@[simp] theorem Group.markV_bwait (g : Group) (n : Nat) : (g.markV n).bwait = g.bwait := rfl
@[simp] theorem Group.markV_armed (g : Group) (n : Nat) : (g.markV n).armed = g.armed := rfl
@[simp] theorem Group.markV_held (g : Group) (n : Nat) : (g.markV n).held = g.held := rfl
@[simp] theorem Group.markV_trig (g : Group) (n : Nat) : (g.markV n).trig = g.trig := rfl
@[simp] theorem Group.markV_inh (g : Group) (n : Nat) : (g.markV n).inh = g.inh := rfl
@[simp] theorem Group.markV_frame (g : Group) (n : Nat) : (g.markV n).frame = g.frame := rfl
@[simp] theorem Group.markV_trapPaths (g : Group) (n : Nat) : (g.markV n).trapPaths = g.trapPaths := rfl
@[simp] theorem Group.markV_trapEnts (g : Group) (n : Nat) : (g.markV n).trapEnts = g.trapEnts := rfl
@[simp] theorem Group.markV_trapAst (g : Group) (n : Nat) : (g.markV n).trapAst = g.trapAst := rfl
@[simp] theorem Group.markV_rq (g : Group) (n : Nat) : (g.markV n).rq = g.rq := rfl
@[simp] theorem Group.markV_st (g : Group) (n : Nat) : (g.markV n).st = g.st := rfl
@[simp] theorem Group.markV_vres (g : Group) (n : Nat) : (g.markV n).vres = g.vres := rfl
@[simp] theorem Group.markV_vdirty (g : Group) (n : Nat) : (g.markV n).vdirty = if g.vdirty.contains n then g.vdirty else g.vdirty ++ [n] := rfl
@[simp] theorem Group.markV_vwr (g : Group) (n : Nat) : (g.markV n).vwr = if g.vwr.contains n then g.vwr else g.vwr ++ [n] := rfl
@[simp] theorem Group.markV_vneed (g : Group) (n : Nat) : (g.markV n).vneed = g.vneed := rfl
@[simp] theorem Group.markV_vbad (g : Group) (n : Nat) : (g.markV n).vbad = g.vbad := rfl
@[simp] theorem Group.markV_filed (g : Group) (n : Nat) : (g.markV n).filed = g.filed := rfl
@[simp] theorem Group.markV_qn (g : Group) (n : Nat) : (g.markV n).qn = g.qn := rfl
@[simp] theorem Group.markV_qend (g : Group) (n : Nat) : (g.markV n).qend = g.qend := rfl
@[simp] theorem Group.markV_cbuf (g : Group) (n : Nat) : (g.markV n).cbuf = g.cbuf := rfl
@[simp] theorem Group.markV_fresh (g : Group) (n : Nat) : (g.markV n).fresh = g.fresh := rfl
@[simp] theorem Group.markV_pend (g : Group) (n : Nat) : (g.markV n).pend = g.pend := rfl
@[simp] theorem Group.markV_flops (g : Group) (n : Nat) : (g.markV n).flops = g.flops := rfl
@[simp] theorem Group.setV_regs_s (g : Group) (n : Nat) (f : Nat → Option Word) : (g.setV n f).regs.s = g.regs.s := by unfold Group.setV; split <;> rfl
@[simp] theorem Group.setV_regs_a (g : Group) (n : Nat) (f : Nat → Option Word) : (g.setV n f).regs.a = g.regs.a := by unfold Group.setV; split <;> rfl
@[simp] theorem Group.setV_regs_p (g : Group) (n : Nat) (f : Nat → Option Word) : (g.setV n f).regs.p = g.regs.p := by unfold Group.setV; split <;> rfl
@[simp] theorem Group.setV_regs_slip (g : Group) (n : Nat) (f : Nat → Option Word) : (g.setV n f).regs.slip = g.regs.slip := by unfold Group.setV; split <;> rfl
@[simp] theorem Group.setV_regs_tvec (g : Group) (n : Nat) (f : Nat → Option Word) : (g.setV n f).regs.tvec = g.regs.tvec := by unfold Group.setV; split <;> rfl
@[simp] theorem Group.setV_regs_tcmp (g : Group) (n : Nat) (f : Nat → Option Word) : (g.setV n f).regs.tcmp = g.regs.tcmp := by unfold Group.setV; split <;> rfl
@[simp] theorem Group.setV_regs_seed (g : Group) (n : Nat) (f : Nat → Option Word) : (g.setV n f).regs.seed = g.regs.seed := by unfold Group.setV; split <;> rfl
@[simp] theorem Group.setV_regs_fmtb (g : Group) (n : Nat) (f : Nat → Option Word) : (g.setV n f).regs.fmtb = g.regs.fmtb := by unfold Group.setV; split <;> rfl
@[simp] theorem Group.setV_regs_v (g : Group) (n : Nat) (f : Nat → Option Word) : (g.setV n f).regs.v = if lanes.any (fun l => (f l).isSome) then (g.fillV n f).regs.v else g.regs.v := by unfold Group.setV; split <;> rfl
@[simp] theorem Group.setV_vwr (g : Group) (n : Nat) (f : Nat → Option Word) : (g.setV n f).vwr = if lanes.any (fun l => (f l).isSome) then (g.markV n).vwr else g.vwr := by unfold Group.setV; split <;> rfl
@[simp] theorem Group.setV_vdirty (g : Group) (n : Nat) (f : Nat → Option Word) : (g.setV n f).vdirty = if lanes.any (fun l => (f l).isSome) then (g.markV n).vdirty else g.vdirty := by unfold Group.setV; split <;> rfl
@[simp] theorem Group.setV_gid (g : Group) (n : Nat) (f : Nat → Option Word) : (g.setV n f).gid = g.gid := by unfold Group.setV; split <;> rfl
@[simp] theorem Group.setV_slot (g : Group) (n : Nat) (f : Nat → Option Word) : (g.setV n f).slot = g.slot := by unfold Group.setV; split <;> rfl
@[simp] theorem Group.setV_tag (g : Group) (n : Nat) (f : Nat → Option Word) : (g.setV n f).tag = g.tag := by unfold Group.setV; split <;> rfl
@[simp] theorem Group.setV_lage (g : Group) (n : Nat) (f : Nat → Option Word) : (g.setV n f).lage = g.lage := by unfold Group.setV; split <;> rfl
@[simp] theorem Group.setV_tlin (g : Group) (n : Nat) (f : Nat → Option Word) : (g.setV n f).tlin = g.tlin := by unfold Group.setV; split <;> rfl
@[simp] theorem Group.setV_tx (g : Group) (n : Nat) (f : Nat → Option Word) : (g.setV n f).tx = g.tx := by unfold Group.setV; split <;> rfl
@[simp] theorem Group.setV_ty (g : Group) (n : Nat) (f : Nat → Option Word) : (g.setV n f).ty = g.ty := by unfold Group.setV; split <;> rfl
@[simp] theorem Group.setV_tz (g : Group) (n : Nat) (f : Nat → Option Word) : (g.setV n f).tz = g.tz := by unfold Group.setV; split <;> rfl
@[simp] theorem Group.setV_gdim (g : Group) (n : Nat) (f : Nat → Option Word) : (g.setV n f).gdim = g.gdim := by unfold Group.setV; split <;> rfl
@[simp] theorem Group.setV_tgidx (g : Group) (n : Nat) (f : Nat → Option Word) : (g.setV n f).tgidx = g.tgidx := by unfold Group.setV; split <;> rfl
@[simp] theorem Group.setV_ridx (g : Group) (n : Nat) (f : Nat → Option Word) : (g.setV n f).ridx = g.ridx := by unfold Group.setV; split <;> rfl
@[simp] theorem Group.setV_role (g : Group) (n : Nat) (f : Nat → Option Word) : (g.setV n f).role = g.role := by unfold Group.setV; split <;> rfl
@[simp] theorem Group.setV_rgroups (g : Group) (n : Nat) (f : Nat → Option Word) : (g.setV n f).rgroups = g.rgroups := by unfold Group.setV; split <;> rfl
@[simp] theorem Group.setV_nroles (g : Group) (n : Nat) (f : Nat → Option Word) : (g.setV n f).nroles = g.nroles := by unfold Group.setV; split <;> rfl
@[simp] theorem Group.setV_tgroups (g : Group) (n : Nat) (f : Nat → Option Word) : (g.setV n f).tgroups = g.tgroups := by unfold Group.setV; split <;> rfl
@[simp] theorem Group.setV_part (g : Group) (n : Nat) (f : Nat → Option Word) : (g.setV n f).part = g.part := by unfold Group.setV; split <;> rfl
@[simp] theorem Group.setV_prio (g : Group) (n : Nat) (f : Nat → Option Word) : (g.setV n f).prio = g.prio := by unfold Group.setV; split <;> rfl
@[simp] theorem Group.setV_dmode (g : Group) (n : Nat) (f : Nat → Option Word) : (g.setV n f).dmode = g.dmode := by unfold Group.setV; split <;> rfl
@[simp] theorem Group.setV_quantum (g : Group) (n : Nat) (f : Nat → Option Word) : (g.setV n f).quantum = g.quantum := by unfold Group.setV; split <;> rfl
@[simp] theorem Group.setV_vbud (g : Group) (n : Nat) (f : Nat → Option Word) : (g.setV n f).vbud = g.vbud := by unfold Group.setV; split <;> rfl
@[simp] theorem Group.setV_sbud (g : Group) (n : Nat) (f : Nat → Option Word) : (g.setV n f).sbud = g.sbud := by unfold Group.setV; split <;> rfl
@[simp] theorem Group.setV_centry (g : Group) (n : Nat) (f : Nat → Option Word) : (g.setV n f).centry = g.centry := by unfold Group.setV; split <;> rfl
@[simp] theorem Group.setV_aentry (g : Group) (n : Nat) (f : Nat → Option Word) : (g.setV n f).aentry = g.aentry := by unfold Group.setV; split <;> rfl
@[simp] theorem Group.setV_rbase (g : Group) (n : Nat) (f : Nat → Option Word) : (g.setV n f).rbase = g.rbase := by unfold Group.setV; split <;> rfl
@[simp] theorem Group.setV_flags (g : Group) (n : Nat) (f : Nat → Option Word) : (g.setV n f).flags = g.flags := by unfold Group.setV; split <;> rfl
@[simp] theorem Group.setV_q (g : Group) (n : Nat) (f : Nat → Option Word) : (g.setV n f).q = g.q := by unfold Group.setV; split <;> rfl
@[simp] theorem Group.setV_qh (g : Group) (n : Nat) (f : Nat → Option Word) : (g.setV n f).qh = g.qh := by unfold Group.setV; split <;> rfl
@[simp] theorem Group.setV_qb (g : Group) (n : Nat) (f : Nat → Option Word) : (g.setV n f).qb = g.qb := by unfold Group.setV; split <;> rfl
@[simp] theorem Group.setV_retired (g : Group) (n : Nat) (f : Nat → Option Word) : (g.setV n f).retired = g.retired := by unfold Group.setV; split <;> rfl
@[simp] theorem Group.setV_raised (g : Group) (n : Nat) (f : Nat → Option Word) : (g.setV n f).raised = g.raised := by unfold Group.setV; split <;> rfl
@[simp] theorem Group.setV_paths (g : Group) (n : Nat) (f : Nat → Option Word) : (g.setV n f).paths = g.paths := by unfold Group.setV; split <;> rfl
@[simp] theorem Group.setV_ents (g : Group) (n : Nat) (f : Nat → Option Word) : (g.setV n f).ents = g.ents := by unfold Group.setV; split <;> rfl
@[simp] theorem Group.setV_nextPid (g : Group) (n : Nat) (f : Nat → Option Word) : (g.setV n f).nextPid = g.nextPid := by unfold Group.setV; split <;> rfl
@[simp] theorem Group.setV_apc (g : Group) (n : Nat) (f : Nat → Option Word) : (g.setV n f).apc = g.apc := by unfold Group.setV; split <;> rfl
@[simp] theorem Group.setV_asince (g : Group) (n : Nat) (f : Nat → Option Word) : (g.setV n f).asince = g.asince := by unfold Group.setV; split <;> rfl
@[simp] theorem Group.setV_turn (g : Group) (n : Nat) (f : Nat → Option Word) : (g.setV n f).turn = g.turn := by unfold Group.setV; split <;> rfl
@[simp] theorem Group.setV_ast (g : Group) (n : Nat) (f : Nat → Option Word) : (g.setV n f).ast = g.ast := by unfold Group.setV; split <;> rfl
@[simp] theorem Group.setV_aline (g : Group) (n : Nat) (f : Nat → Option Word) : (g.setV n f).aline = g.aline := by unfold Group.setV; split <;> rfl
@[simp] theorem Group.setV_ayield (g : Group) (n : Nat) (f : Nat → Option Word) : (g.setV n f).ayield = g.ayield := by unfold Group.setV; split <;> rfl
@[simp] theorem Group.setV_apassed (g : Group) (n : Nat) (f : Nat → Option Word) : (g.setV n f).apassed = g.apassed := by unfold Group.setV; split <;> rfl
@[simp] theorem Group.setV_astall (g : Group) (n : Nat) (f : Nat → Option Word) : (g.setV n f).astall = g.astall := by unfold Group.setV; split <;> rfl
@[simp] theorem Group.setV_qbar (g : Group) (n : Nat) (f : Nat → Option Word) : (g.setV n f).qbar = g.qbar := by unfold Group.setV; split <;> rfl
@[simp] theorem Group.setV_ops (g : Group) (n : Nat) (f : Nat → Option Word) : (g.setV n f).ops = g.ops := by unfold Group.setV; split <;> rfl
@[simp] theorem Group.setV_acks (g : Group) (n : Nat) (f : Nat → Option Word) : (g.setV n f).acks = g.acks := by unfold Group.setV; split <;> rfl
@[simp] theorem Group.setV_openLeft (g : Group) (n : Nat) (f : Nat → Option Word) : (g.setV n f).openLeft = g.openLeft := by unfold Group.setV; split <;> rfl
@[simp] theorem Group.setV_openN (g : Group) (n : Nat) (f : Nat → Option Word) : (g.setV n f).openN = g.openN := by unfold Group.setV; split <;> rfl
@[simp] theorem Group.setV_openFail (g : Group) (n : Nat) (f : Nat → Option Word) : (g.setV n f).openFail = g.openFail := by unfold Group.setV; split <;> rfl
@[simp] theorem Group.setV_batches (g : Group) (n : Nat) (f : Nat → Option Word) : (g.setV n f).batches = g.batches := by unfold Group.setV; split <;> rfl
@[simp] theorem Group.setV_lastb (g : Group) (n : Nat) (f : Nat → Option Word) : (g.setV n f).lastb = g.lastb := by unfold Group.setV; split <;> rfl
@[simp] theorem Group.setV_bwait (g : Group) (n : Nat) (f : Nat → Option Word) : (g.setV n f).bwait = g.bwait := by unfold Group.setV; split <;> rfl
@[simp] theorem Group.setV_armed (g : Group) (n : Nat) (f : Nat → Option Word) : (g.setV n f).armed = g.armed := by unfold Group.setV; split <;> rfl
@[simp] theorem Group.setV_held (g : Group) (n : Nat) (f : Nat → Option Word) : (g.setV n f).held = g.held := by unfold Group.setV; split <;> rfl
@[simp] theorem Group.setV_trig (g : Group) (n : Nat) (f : Nat → Option Word) : (g.setV n f).trig = g.trig := by unfold Group.setV; split <;> rfl
@[simp] theorem Group.setV_inh (g : Group) (n : Nat) (f : Nat → Option Word) : (g.setV n f).inh = g.inh := by unfold Group.setV; split <;> rfl
@[simp] theorem Group.setV_frame (g : Group) (n : Nat) (f : Nat → Option Word) : (g.setV n f).frame = g.frame := by unfold Group.setV; split <;> rfl
@[simp] theorem Group.setV_trapPaths (g : Group) (n : Nat) (f : Nat → Option Word) : (g.setV n f).trapPaths = g.trapPaths := by unfold Group.setV; split <;> rfl
@[simp] theorem Group.setV_trapEnts (g : Group) (n : Nat) (f : Nat → Option Word) : (g.setV n f).trapEnts = g.trapEnts := by unfold Group.setV; split <;> rfl
@[simp] theorem Group.setV_trapAst (g : Group) (n : Nat) (f : Nat → Option Word) : (g.setV n f).trapAst = g.trapAst := by unfold Group.setV; split <;> rfl
@[simp] theorem Group.setV_rq (g : Group) (n : Nat) (f : Nat → Option Word) : (g.setV n f).rq = g.rq := by unfold Group.setV; split <;> rfl
@[simp] theorem Group.setV_st (g : Group) (n : Nat) (f : Nat → Option Word) : (g.setV n f).st = g.st := by unfold Group.setV; split <;> rfl
@[simp] theorem Group.setV_vres (g : Group) (n : Nat) (f : Nat → Option Word) : (g.setV n f).vres = g.vres := by unfold Group.setV; split <;> rfl
@[simp] theorem Group.setV_vneed (g : Group) (n : Nat) (f : Nat → Option Word) : (g.setV n f).vneed = g.vneed := by unfold Group.setV; split <;> rfl
@[simp] theorem Group.setV_vbad (g : Group) (n : Nat) (f : Nat → Option Word) : (g.setV n f).vbad = g.vbad := by unfold Group.setV; split <;> rfl
@[simp] theorem Group.setV_filed (g : Group) (n : Nat) (f : Nat → Option Word) : (g.setV n f).filed = g.filed := by unfold Group.setV; split <;> rfl
@[simp] theorem Group.setV_qn (g : Group) (n : Nat) (f : Nat → Option Word) : (g.setV n f).qn = g.qn := by unfold Group.setV; split <;> rfl
@[simp] theorem Group.setV_qend (g : Group) (n : Nat) (f : Nat → Option Word) : (g.setV n f).qend = g.qend := by unfold Group.setV; split <;> rfl
@[simp] theorem Group.setV_cbuf (g : Group) (n : Nat) (f : Nat → Option Word) : (g.setV n f).cbuf = g.cbuf := by unfold Group.setV; split <;> rfl
@[simp] theorem Group.setV_fresh (g : Group) (n : Nat) (f : Nat → Option Word) : (g.setV n f).fresh = g.fresh := by unfold Group.setV; split <;> rfl
@[simp] theorem Group.setV_pend (g : Group) (n : Nat) (f : Nat → Option Word) : (g.setV n f).pend = g.pend := by unfold Group.setV; split <;> rfl
@[simp] theorem Group.setV_flops (g : Group) (n : Nat) (f : Nat → Option Word) : (g.setV n f).flops = g.flops := by unfold Group.setV; split <;> rfl

/-! ## Group.mapPath -/

@[simp] theorem Group.mapPath_gid (g : Group) (pid : Nat) (f : Path → Path) : (g.mapPath pid f).gid = g.gid := rfl
@[simp] theorem Group.mapPath_slot (g : Group) (pid : Nat) (f : Path → Path) : (g.mapPath pid f).slot = g.slot := rfl
@[simp] theorem Group.mapPath_tag (g : Group) (pid : Nat) (f : Path → Path) : (g.mapPath pid f).tag = g.tag := rfl
@[simp] theorem Group.mapPath_lage (g : Group) (pid : Nat) (f : Path → Path) : (g.mapPath pid f).lage = g.lage := rfl
@[simp] theorem Group.mapPath_tlin (g : Group) (pid : Nat) (f : Path → Path) : (g.mapPath pid f).tlin = g.tlin := rfl
@[simp] theorem Group.mapPath_tx (g : Group) (pid : Nat) (f : Path → Path) : (g.mapPath pid f).tx = g.tx := rfl
@[simp] theorem Group.mapPath_ty (g : Group) (pid : Nat) (f : Path → Path) : (g.mapPath pid f).ty = g.ty := rfl
@[simp] theorem Group.mapPath_tz (g : Group) (pid : Nat) (f : Path → Path) : (g.mapPath pid f).tz = g.tz := rfl
@[simp] theorem Group.mapPath_gdim (g : Group) (pid : Nat) (f : Path → Path) : (g.mapPath pid f).gdim = g.gdim := rfl
@[simp] theorem Group.mapPath_tgidx (g : Group) (pid : Nat) (f : Path → Path) : (g.mapPath pid f).tgidx = g.tgidx := rfl
@[simp] theorem Group.mapPath_ridx (g : Group) (pid : Nat) (f : Path → Path) : (g.mapPath pid f).ridx = g.ridx := rfl
@[simp] theorem Group.mapPath_role (g : Group) (pid : Nat) (f : Path → Path) : (g.mapPath pid f).role = g.role := rfl
@[simp] theorem Group.mapPath_rgroups (g : Group) (pid : Nat) (f : Path → Path) : (g.mapPath pid f).rgroups = g.rgroups := rfl
@[simp] theorem Group.mapPath_nroles (g : Group) (pid : Nat) (f : Path → Path) : (g.mapPath pid f).nroles = g.nroles := rfl
@[simp] theorem Group.mapPath_tgroups (g : Group) (pid : Nat) (f : Path → Path) : (g.mapPath pid f).tgroups = g.tgroups := rfl
@[simp] theorem Group.mapPath_part (g : Group) (pid : Nat) (f : Path → Path) : (g.mapPath pid f).part = g.part := rfl
@[simp] theorem Group.mapPath_prio (g : Group) (pid : Nat) (f : Path → Path) : (g.mapPath pid f).prio = g.prio := rfl
@[simp] theorem Group.mapPath_dmode (g : Group) (pid : Nat) (f : Path → Path) : (g.mapPath pid f).dmode = g.dmode := rfl
@[simp] theorem Group.mapPath_quantum (g : Group) (pid : Nat) (f : Path → Path) : (g.mapPath pid f).quantum = g.quantum := rfl
@[simp] theorem Group.mapPath_vbud (g : Group) (pid : Nat) (f : Path → Path) : (g.mapPath pid f).vbud = g.vbud := rfl
@[simp] theorem Group.mapPath_sbud (g : Group) (pid : Nat) (f : Path → Path) : (g.mapPath pid f).sbud = g.sbud := rfl
@[simp] theorem Group.mapPath_centry (g : Group) (pid : Nat) (f : Path → Path) : (g.mapPath pid f).centry = g.centry := rfl
@[simp] theorem Group.mapPath_aentry (g : Group) (pid : Nat) (f : Path → Path) : (g.mapPath pid f).aentry = g.aentry := rfl
@[simp] theorem Group.mapPath_rbase (g : Group) (pid : Nat) (f : Path → Path) : (g.mapPath pid f).rbase = g.rbase := rfl
@[simp] theorem Group.mapPath_regs (g : Group) (pid : Nat) (f : Path → Path) : (g.mapPath pid f).regs = g.regs := rfl
@[simp] theorem Group.mapPath_flags (g : Group) (pid : Nat) (f : Path → Path) : (g.mapPath pid f).flags = g.flags := rfl
@[simp] theorem Group.mapPath_q (g : Group) (pid : Nat) (f : Path → Path) : (g.mapPath pid f).q = g.q := rfl
@[simp] theorem Group.mapPath_qh (g : Group) (pid : Nat) (f : Path → Path) : (g.mapPath pid f).qh = g.qh := rfl
@[simp] theorem Group.mapPath_qb (g : Group) (pid : Nat) (f : Path → Path) : (g.mapPath pid f).qb = g.qb := rfl
@[simp] theorem Group.mapPath_retired (g : Group) (pid : Nat) (f : Path → Path) : (g.mapPath pid f).retired = g.retired := rfl
@[simp] theorem Group.mapPath_raised (g : Group) (pid : Nat) (f : Path → Path) : (g.mapPath pid f).raised = g.raised := rfl
@[simp] theorem Group.mapPath_paths (g : Group) (pid : Nat) (f : Path → Path) : (g.mapPath pid f).paths = g.paths.map fun p => if p.id == pid then f p else p := rfl
@[simp] theorem Group.mapPath_ents (g : Group) (pid : Nat) (f : Path → Path) : (g.mapPath pid f).ents = g.ents := rfl
@[simp] theorem Group.mapPath_nextPid (g : Group) (pid : Nat) (f : Path → Path) : (g.mapPath pid f).nextPid = g.nextPid := rfl
@[simp] theorem Group.mapPath_apc (g : Group) (pid : Nat) (f : Path → Path) : (g.mapPath pid f).apc = g.apc := rfl
@[simp] theorem Group.mapPath_asince (g : Group) (pid : Nat) (f : Path → Path) : (g.mapPath pid f).asince = g.asince := rfl
@[simp] theorem Group.mapPath_turn (g : Group) (pid : Nat) (f : Path → Path) : (g.mapPath pid f).turn = g.turn := rfl
@[simp] theorem Group.mapPath_ast (g : Group) (pid : Nat) (f : Path → Path) : (g.mapPath pid f).ast = g.ast := rfl
@[simp] theorem Group.mapPath_aline (g : Group) (pid : Nat) (f : Path → Path) : (g.mapPath pid f).aline = g.aline := rfl
@[simp] theorem Group.mapPath_ayield (g : Group) (pid : Nat) (f : Path → Path) : (g.mapPath pid f).ayield = g.ayield := rfl
@[simp] theorem Group.mapPath_apassed (g : Group) (pid : Nat) (f : Path → Path) : (g.mapPath pid f).apassed = g.apassed := rfl
@[simp] theorem Group.mapPath_astall (g : Group) (pid : Nat) (f : Path → Path) : (g.mapPath pid f).astall = g.astall := rfl
@[simp] theorem Group.mapPath_qbar (g : Group) (pid : Nat) (f : Path → Path) : (g.mapPath pid f).qbar = g.qbar := rfl
@[simp] theorem Group.mapPath_ops (g : Group) (pid : Nat) (f : Path → Path) : (g.mapPath pid f).ops = g.ops := rfl
@[simp] theorem Group.mapPath_acks (g : Group) (pid : Nat) (f : Path → Path) : (g.mapPath pid f).acks = g.acks := rfl
@[simp] theorem Group.mapPath_openLeft (g : Group) (pid : Nat) (f : Path → Path) : (g.mapPath pid f).openLeft = g.openLeft := rfl
@[simp] theorem Group.mapPath_openN (g : Group) (pid : Nat) (f : Path → Path) : (g.mapPath pid f).openN = g.openN := rfl
@[simp] theorem Group.mapPath_openFail (g : Group) (pid : Nat) (f : Path → Path) : (g.mapPath pid f).openFail = g.openFail := rfl
@[simp] theorem Group.mapPath_batches (g : Group) (pid : Nat) (f : Path → Path) : (g.mapPath pid f).batches = g.batches := rfl
@[simp] theorem Group.mapPath_lastb (g : Group) (pid : Nat) (f : Path → Path) : (g.mapPath pid f).lastb = g.lastb := rfl
@[simp] theorem Group.mapPath_bwait (g : Group) (pid : Nat) (f : Path → Path) : (g.mapPath pid f).bwait = g.bwait := rfl
@[simp] theorem Group.mapPath_armed (g : Group) (pid : Nat) (f : Path → Path) : (g.mapPath pid f).armed = g.armed := rfl
@[simp] theorem Group.mapPath_held (g : Group) (pid : Nat) (f : Path → Path) : (g.mapPath pid f).held = g.held := rfl
@[simp] theorem Group.mapPath_trig (g : Group) (pid : Nat) (f : Path → Path) : (g.mapPath pid f).trig = g.trig := rfl
@[simp] theorem Group.mapPath_inh (g : Group) (pid : Nat) (f : Path → Path) : (g.mapPath pid f).inh = g.inh := rfl
@[simp] theorem Group.mapPath_frame (g : Group) (pid : Nat) (f : Path → Path) : (g.mapPath pid f).frame = g.frame := rfl
@[simp] theorem Group.mapPath_trapPaths (g : Group) (pid : Nat) (f : Path → Path) : (g.mapPath pid f).trapPaths = g.trapPaths := rfl
@[simp] theorem Group.mapPath_trapEnts (g : Group) (pid : Nat) (f : Path → Path) : (g.mapPath pid f).trapEnts = g.trapEnts := rfl
@[simp] theorem Group.mapPath_trapAst (g : Group) (pid : Nat) (f : Path → Path) : (g.mapPath pid f).trapAst = g.trapAst := rfl
@[simp] theorem Group.mapPath_rq (g : Group) (pid : Nat) (f : Path → Path) : (g.mapPath pid f).rq = g.rq := rfl
@[simp] theorem Group.mapPath_st (g : Group) (pid : Nat) (f : Path → Path) : (g.mapPath pid f).st = g.st := rfl
@[simp] theorem Group.mapPath_vres (g : Group) (pid : Nat) (f : Path → Path) : (g.mapPath pid f).vres = g.vres := rfl
@[simp] theorem Group.mapPath_vdirty (g : Group) (pid : Nat) (f : Path → Path) : (g.mapPath pid f).vdirty = g.vdirty := rfl
@[simp] theorem Group.mapPath_vwr (g : Group) (pid : Nat) (f : Path → Path) : (g.mapPath pid f).vwr = g.vwr := rfl
@[simp] theorem Group.mapPath_vneed (g : Group) (pid : Nat) (f : Path → Path) : (g.mapPath pid f).vneed = g.vneed := rfl
@[simp] theorem Group.mapPath_vbad (g : Group) (pid : Nat) (f : Path → Path) : (g.mapPath pid f).vbad = g.vbad := rfl
@[simp] theorem Group.mapPath_filed (g : Group) (pid : Nat) (f : Path → Path) : (g.mapPath pid f).filed = g.filed := rfl
@[simp] theorem Group.mapPath_qn (g : Group) (pid : Nat) (f : Path → Path) : (g.mapPath pid f).qn = g.qn := rfl
@[simp] theorem Group.mapPath_qend (g : Group) (pid : Nat) (f : Path → Path) : (g.mapPath pid f).qend = g.qend := rfl
@[simp] theorem Group.mapPath_cbuf (g : Group) (pid : Nat) (f : Path → Path) : (g.mapPath pid f).cbuf = g.cbuf := rfl
@[simp] theorem Group.mapPath_fresh (g : Group) (pid : Nat) (f : Path → Path) : (g.mapPath pid f).fresh = g.fresh := rfl
@[simp] theorem Group.mapPath_pend (g : Group) (pid : Nat) (f : Path → Path) : (g.mapPath pid f).pend = g.pend := rfl
@[simp] theorem Group.mapPath_flops (g : Group) (pid : Nat) (f : Path → Path) : (g.mapPath pid f).flops = g.flops := rfl

/-! ## Group.mapEnt -/

@[simp] theorem Group.mapEnt_gid (g : Group) (id : Nat) (f : REntry → REntry) : (g.mapEnt id f).gid = g.gid := rfl
@[simp] theorem Group.mapEnt_slot (g : Group) (id : Nat) (f : REntry → REntry) : (g.mapEnt id f).slot = g.slot := rfl
@[simp] theorem Group.mapEnt_tag (g : Group) (id : Nat) (f : REntry → REntry) : (g.mapEnt id f).tag = g.tag := rfl
@[simp] theorem Group.mapEnt_lage (g : Group) (id : Nat) (f : REntry → REntry) : (g.mapEnt id f).lage = g.lage := rfl
@[simp] theorem Group.mapEnt_tlin (g : Group) (id : Nat) (f : REntry → REntry) : (g.mapEnt id f).tlin = g.tlin := rfl
@[simp] theorem Group.mapEnt_tx (g : Group) (id : Nat) (f : REntry → REntry) : (g.mapEnt id f).tx = g.tx := rfl
@[simp] theorem Group.mapEnt_ty (g : Group) (id : Nat) (f : REntry → REntry) : (g.mapEnt id f).ty = g.ty := rfl
@[simp] theorem Group.mapEnt_tz (g : Group) (id : Nat) (f : REntry → REntry) : (g.mapEnt id f).tz = g.tz := rfl
@[simp] theorem Group.mapEnt_gdim (g : Group) (id : Nat) (f : REntry → REntry) : (g.mapEnt id f).gdim = g.gdim := rfl
@[simp] theorem Group.mapEnt_tgidx (g : Group) (id : Nat) (f : REntry → REntry) : (g.mapEnt id f).tgidx = g.tgidx := rfl
@[simp] theorem Group.mapEnt_ridx (g : Group) (id : Nat) (f : REntry → REntry) : (g.mapEnt id f).ridx = g.ridx := rfl
@[simp] theorem Group.mapEnt_role (g : Group) (id : Nat) (f : REntry → REntry) : (g.mapEnt id f).role = g.role := rfl
@[simp] theorem Group.mapEnt_rgroups (g : Group) (id : Nat) (f : REntry → REntry) : (g.mapEnt id f).rgroups = g.rgroups := rfl
@[simp] theorem Group.mapEnt_nroles (g : Group) (id : Nat) (f : REntry → REntry) : (g.mapEnt id f).nroles = g.nroles := rfl
@[simp] theorem Group.mapEnt_tgroups (g : Group) (id : Nat) (f : REntry → REntry) : (g.mapEnt id f).tgroups = g.tgroups := rfl
@[simp] theorem Group.mapEnt_part (g : Group) (id : Nat) (f : REntry → REntry) : (g.mapEnt id f).part = g.part := rfl
@[simp] theorem Group.mapEnt_prio (g : Group) (id : Nat) (f : REntry → REntry) : (g.mapEnt id f).prio = g.prio := rfl
@[simp] theorem Group.mapEnt_dmode (g : Group) (id : Nat) (f : REntry → REntry) : (g.mapEnt id f).dmode = g.dmode := rfl
@[simp] theorem Group.mapEnt_quantum (g : Group) (id : Nat) (f : REntry → REntry) : (g.mapEnt id f).quantum = g.quantum := rfl
@[simp] theorem Group.mapEnt_vbud (g : Group) (id : Nat) (f : REntry → REntry) : (g.mapEnt id f).vbud = g.vbud := rfl
@[simp] theorem Group.mapEnt_sbud (g : Group) (id : Nat) (f : REntry → REntry) : (g.mapEnt id f).sbud = g.sbud := rfl
@[simp] theorem Group.mapEnt_centry (g : Group) (id : Nat) (f : REntry → REntry) : (g.mapEnt id f).centry = g.centry := rfl
@[simp] theorem Group.mapEnt_aentry (g : Group) (id : Nat) (f : REntry → REntry) : (g.mapEnt id f).aentry = g.aentry := rfl
@[simp] theorem Group.mapEnt_rbase (g : Group) (id : Nat) (f : REntry → REntry) : (g.mapEnt id f).rbase = g.rbase := rfl
@[simp] theorem Group.mapEnt_regs (g : Group) (id : Nat) (f : REntry → REntry) : (g.mapEnt id f).regs = g.regs := rfl
@[simp] theorem Group.mapEnt_flags (g : Group) (id : Nat) (f : REntry → REntry) : (g.mapEnt id f).flags = g.flags := rfl
@[simp] theorem Group.mapEnt_q (g : Group) (id : Nat) (f : REntry → REntry) : (g.mapEnt id f).q = g.q := rfl
@[simp] theorem Group.mapEnt_qh (g : Group) (id : Nat) (f : REntry → REntry) : (g.mapEnt id f).qh = g.qh := rfl
@[simp] theorem Group.mapEnt_qb (g : Group) (id : Nat) (f : REntry → REntry) : (g.mapEnt id f).qb = g.qb := rfl
@[simp] theorem Group.mapEnt_retired (g : Group) (id : Nat) (f : REntry → REntry) : (g.mapEnt id f).retired = g.retired := rfl
@[simp] theorem Group.mapEnt_raised (g : Group) (id : Nat) (f : REntry → REntry) : (g.mapEnt id f).raised = g.raised := rfl
@[simp] theorem Group.mapEnt_paths (g : Group) (id : Nat) (f : REntry → REntry) : (g.mapEnt id f).paths = g.paths := rfl
@[simp] theorem Group.mapEnt_ents (g : Group) (id : Nat) (f : REntry → REntry) : (g.mapEnt id f).ents = g.ents.map fun e => if e.id == id then f e else e := rfl
@[simp] theorem Group.mapEnt_nextPid (g : Group) (id : Nat) (f : REntry → REntry) : (g.mapEnt id f).nextPid = g.nextPid := rfl
@[simp] theorem Group.mapEnt_apc (g : Group) (id : Nat) (f : REntry → REntry) : (g.mapEnt id f).apc = g.apc := rfl
@[simp] theorem Group.mapEnt_asince (g : Group) (id : Nat) (f : REntry → REntry) : (g.mapEnt id f).asince = g.asince := rfl
@[simp] theorem Group.mapEnt_turn (g : Group) (id : Nat) (f : REntry → REntry) : (g.mapEnt id f).turn = g.turn := rfl
@[simp] theorem Group.mapEnt_ast (g : Group) (id : Nat) (f : REntry → REntry) : (g.mapEnt id f).ast = g.ast := rfl
@[simp] theorem Group.mapEnt_aline (g : Group) (id : Nat) (f : REntry → REntry) : (g.mapEnt id f).aline = g.aline := rfl
@[simp] theorem Group.mapEnt_ayield (g : Group) (id : Nat) (f : REntry → REntry) : (g.mapEnt id f).ayield = g.ayield := rfl
@[simp] theorem Group.mapEnt_apassed (g : Group) (id : Nat) (f : REntry → REntry) : (g.mapEnt id f).apassed = g.apassed := rfl
@[simp] theorem Group.mapEnt_astall (g : Group) (id : Nat) (f : REntry → REntry) : (g.mapEnt id f).astall = g.astall := rfl
@[simp] theorem Group.mapEnt_qbar (g : Group) (id : Nat) (f : REntry → REntry) : (g.mapEnt id f).qbar = g.qbar := rfl
@[simp] theorem Group.mapEnt_ops (g : Group) (id : Nat) (f : REntry → REntry) : (g.mapEnt id f).ops = g.ops := rfl
@[simp] theorem Group.mapEnt_acks (g : Group) (id : Nat) (f : REntry → REntry) : (g.mapEnt id f).acks = g.acks := rfl
@[simp] theorem Group.mapEnt_openLeft (g : Group) (id : Nat) (f : REntry → REntry) : (g.mapEnt id f).openLeft = g.openLeft := rfl
@[simp] theorem Group.mapEnt_openN (g : Group) (id : Nat) (f : REntry → REntry) : (g.mapEnt id f).openN = g.openN := rfl
@[simp] theorem Group.mapEnt_openFail (g : Group) (id : Nat) (f : REntry → REntry) : (g.mapEnt id f).openFail = g.openFail := rfl
@[simp] theorem Group.mapEnt_batches (g : Group) (id : Nat) (f : REntry → REntry) : (g.mapEnt id f).batches = g.batches := rfl
@[simp] theorem Group.mapEnt_lastb (g : Group) (id : Nat) (f : REntry → REntry) : (g.mapEnt id f).lastb = g.lastb := rfl
@[simp] theorem Group.mapEnt_bwait (g : Group) (id : Nat) (f : REntry → REntry) : (g.mapEnt id f).bwait = g.bwait := rfl
@[simp] theorem Group.mapEnt_armed (g : Group) (id : Nat) (f : REntry → REntry) : (g.mapEnt id f).armed = g.armed := rfl
@[simp] theorem Group.mapEnt_held (g : Group) (id : Nat) (f : REntry → REntry) : (g.mapEnt id f).held = g.held := rfl
@[simp] theorem Group.mapEnt_trig (g : Group) (id : Nat) (f : REntry → REntry) : (g.mapEnt id f).trig = g.trig := rfl
@[simp] theorem Group.mapEnt_inh (g : Group) (id : Nat) (f : REntry → REntry) : (g.mapEnt id f).inh = g.inh := rfl
@[simp] theorem Group.mapEnt_frame (g : Group) (id : Nat) (f : REntry → REntry) : (g.mapEnt id f).frame = g.frame := rfl
@[simp] theorem Group.mapEnt_trapPaths (g : Group) (id : Nat) (f : REntry → REntry) : (g.mapEnt id f).trapPaths = g.trapPaths := rfl
@[simp] theorem Group.mapEnt_trapEnts (g : Group) (id : Nat) (f : REntry → REntry) : (g.mapEnt id f).trapEnts = g.trapEnts := rfl
@[simp] theorem Group.mapEnt_trapAst (g : Group) (id : Nat) (f : REntry → REntry) : (g.mapEnt id f).trapAst = g.trapAst := rfl
@[simp] theorem Group.mapEnt_rq (g : Group) (id : Nat) (f : REntry → REntry) : (g.mapEnt id f).rq = g.rq := rfl
@[simp] theorem Group.mapEnt_st (g : Group) (id : Nat) (f : REntry → REntry) : (g.mapEnt id f).st = g.st := rfl
@[simp] theorem Group.mapEnt_vres (g : Group) (id : Nat) (f : REntry → REntry) : (g.mapEnt id f).vres = g.vres := rfl
@[simp] theorem Group.mapEnt_vdirty (g : Group) (id : Nat) (f : REntry → REntry) : (g.mapEnt id f).vdirty = g.vdirty := rfl
@[simp] theorem Group.mapEnt_vwr (g : Group) (id : Nat) (f : REntry → REntry) : (g.mapEnt id f).vwr = g.vwr := rfl
@[simp] theorem Group.mapEnt_vneed (g : Group) (id : Nat) (f : REntry → REntry) : (g.mapEnt id f).vneed = g.vneed := rfl
@[simp] theorem Group.mapEnt_vbad (g : Group) (id : Nat) (f : REntry → REntry) : (g.mapEnt id f).vbad = g.vbad := rfl
@[simp] theorem Group.mapEnt_filed (g : Group) (id : Nat) (f : REntry → REntry) : (g.mapEnt id f).filed = g.filed := rfl
@[simp] theorem Group.mapEnt_qn (g : Group) (id : Nat) (f : REntry → REntry) : (g.mapEnt id f).qn = g.qn := rfl
@[simp] theorem Group.mapEnt_qend (g : Group) (id : Nat) (f : REntry → REntry) : (g.mapEnt id f).qend = g.qend := rfl
@[simp] theorem Group.mapEnt_cbuf (g : Group) (id : Nat) (f : REntry → REntry) : (g.mapEnt id f).cbuf = g.cbuf := rfl
@[simp] theorem Group.mapEnt_fresh (g : Group) (id : Nat) (f : REntry → REntry) : (g.mapEnt id f).fresh = g.fresh := rfl
@[simp] theorem Group.mapEnt_pend (g : Group) (id : Nat) (f : REntry → REntry) : (g.mapEnt id f).pend = g.pend := rfl
@[simp] theorem Group.mapEnt_flops (g : Group) (id : Nat) (f : REntry → REntry) : (g.mapEnt id f).flops = g.flops := rfl

/-! ## Group.orSticky -/

@[simp] theorem Group.orSticky_gid (g : Group) (k : Nat) (m : Mask) : (g.orSticky k m).gid = g.gid := rfl
@[simp] theorem Group.orSticky_slot (g : Group) (k : Nat) (m : Mask) : (g.orSticky k m).slot = g.slot := rfl
@[simp] theorem Group.orSticky_tag (g : Group) (k : Nat) (m : Mask) : (g.orSticky k m).tag = g.tag := rfl
@[simp] theorem Group.orSticky_lage (g : Group) (k : Nat) (m : Mask) : (g.orSticky k m).lage = g.lage := rfl
@[simp] theorem Group.orSticky_tlin (g : Group) (k : Nat) (m : Mask) : (g.orSticky k m).tlin = g.tlin := rfl
@[simp] theorem Group.orSticky_tx (g : Group) (k : Nat) (m : Mask) : (g.orSticky k m).tx = g.tx := rfl
@[simp] theorem Group.orSticky_ty (g : Group) (k : Nat) (m : Mask) : (g.orSticky k m).ty = g.ty := rfl
@[simp] theorem Group.orSticky_tz (g : Group) (k : Nat) (m : Mask) : (g.orSticky k m).tz = g.tz := rfl
@[simp] theorem Group.orSticky_gdim (g : Group) (k : Nat) (m : Mask) : (g.orSticky k m).gdim = g.gdim := rfl
@[simp] theorem Group.orSticky_tgidx (g : Group) (k : Nat) (m : Mask) : (g.orSticky k m).tgidx = g.tgidx := rfl
@[simp] theorem Group.orSticky_ridx (g : Group) (k : Nat) (m : Mask) : (g.orSticky k m).ridx = g.ridx := rfl
@[simp] theorem Group.orSticky_role (g : Group) (k : Nat) (m : Mask) : (g.orSticky k m).role = g.role := rfl
@[simp] theorem Group.orSticky_rgroups (g : Group) (k : Nat) (m : Mask) : (g.orSticky k m).rgroups = g.rgroups := rfl
@[simp] theorem Group.orSticky_nroles (g : Group) (k : Nat) (m : Mask) : (g.orSticky k m).nroles = g.nroles := rfl
@[simp] theorem Group.orSticky_tgroups (g : Group) (k : Nat) (m : Mask) : (g.orSticky k m).tgroups = g.tgroups := rfl
@[simp] theorem Group.orSticky_part (g : Group) (k : Nat) (m : Mask) : (g.orSticky k m).part = g.part := rfl
@[simp] theorem Group.orSticky_prio (g : Group) (k : Nat) (m : Mask) : (g.orSticky k m).prio = g.prio := rfl
@[simp] theorem Group.orSticky_dmode (g : Group) (k : Nat) (m : Mask) : (g.orSticky k m).dmode = g.dmode := rfl
@[simp] theorem Group.orSticky_quantum (g : Group) (k : Nat) (m : Mask) : (g.orSticky k m).quantum = g.quantum := rfl
@[simp] theorem Group.orSticky_vbud (g : Group) (k : Nat) (m : Mask) : (g.orSticky k m).vbud = g.vbud := rfl
@[simp] theorem Group.orSticky_sbud (g : Group) (k : Nat) (m : Mask) : (g.orSticky k m).sbud = g.sbud := rfl
@[simp] theorem Group.orSticky_centry (g : Group) (k : Nat) (m : Mask) : (g.orSticky k m).centry = g.centry := rfl
@[simp] theorem Group.orSticky_aentry (g : Group) (k : Nat) (m : Mask) : (g.orSticky k m).aentry = g.aentry := rfl
@[simp] theorem Group.orSticky_rbase (g : Group) (k : Nat) (m : Mask) : (g.orSticky k m).rbase = g.rbase := rfl
@[simp] theorem Group.orSticky_regs_v (g : Group) (k : Nat) (m : Mask) : (g.orSticky k m).regs.v = g.regs.v := rfl
@[simp] theorem Group.orSticky_regs_s (g : Group) (k : Nat) (m : Mask) : (g.orSticky k m).regs.s = g.regs.s := rfl
@[simp] theorem Group.orSticky_regs_a (g : Group) (k : Nat) (m : Mask) : (g.orSticky k m).regs.a = g.regs.a := rfl
@[simp] theorem Group.orSticky_regs_p (g : Group) (k : Nat) (m : Mask) : (g.orSticky k m).regs.p = g.regs.p.modify (59 + k) (· ||| m) := rfl
@[simp] theorem Group.orSticky_regs_slip (g : Group) (k : Nat) (m : Mask) : (g.orSticky k m).regs.slip = g.regs.slip := rfl
@[simp] theorem Group.orSticky_regs_tvec (g : Group) (k : Nat) (m : Mask) : (g.orSticky k m).regs.tvec = g.regs.tvec := rfl
@[simp] theorem Group.orSticky_regs_tcmp (g : Group) (k : Nat) (m : Mask) : (g.orSticky k m).regs.tcmp = g.regs.tcmp := rfl
@[simp] theorem Group.orSticky_regs_seed (g : Group) (k : Nat) (m : Mask) : (g.orSticky k m).regs.seed = g.regs.seed := rfl
@[simp] theorem Group.orSticky_regs_fmtb (g : Group) (k : Nat) (m : Mask) : (g.orSticky k m).regs.fmtb = g.regs.fmtb := rfl
@[simp] theorem Group.orSticky_flags (g : Group) (k : Nat) (m : Mask) : (g.orSticky k m).flags = g.flags := rfl
@[simp] theorem Group.orSticky_q (g : Group) (k : Nat) (m : Mask) : (g.orSticky k m).q = g.q := rfl
@[simp] theorem Group.orSticky_qh (g : Group) (k : Nat) (m : Mask) : (g.orSticky k m).qh = g.qh := rfl
@[simp] theorem Group.orSticky_qb (g : Group) (k : Nat) (m : Mask) : (g.orSticky k m).qb = g.qb := rfl
@[simp] theorem Group.orSticky_retired (g : Group) (k : Nat) (m : Mask) : (g.orSticky k m).retired = g.retired := rfl
@[simp] theorem Group.orSticky_raised (g : Group) (k : Nat) (m : Mask) : (g.orSticky k m).raised = g.raised.modify k (· ||| m) := rfl
@[simp] theorem Group.orSticky_paths (g : Group) (k : Nat) (m : Mask) : (g.orSticky k m).paths = g.paths := rfl
@[simp] theorem Group.orSticky_ents (g : Group) (k : Nat) (m : Mask) : (g.orSticky k m).ents = g.ents := rfl
@[simp] theorem Group.orSticky_nextPid (g : Group) (k : Nat) (m : Mask) : (g.orSticky k m).nextPid = g.nextPid := rfl
@[simp] theorem Group.orSticky_apc (g : Group) (k : Nat) (m : Mask) : (g.orSticky k m).apc = g.apc := rfl
@[simp] theorem Group.orSticky_asince (g : Group) (k : Nat) (m : Mask) : (g.orSticky k m).asince = g.asince := rfl
@[simp] theorem Group.orSticky_turn (g : Group) (k : Nat) (m : Mask) : (g.orSticky k m).turn = g.turn := rfl
@[simp] theorem Group.orSticky_ast (g : Group) (k : Nat) (m : Mask) : (g.orSticky k m).ast = g.ast := rfl
@[simp] theorem Group.orSticky_aline (g : Group) (k : Nat) (m : Mask) : (g.orSticky k m).aline = g.aline := rfl
@[simp] theorem Group.orSticky_ayield (g : Group) (k : Nat) (m : Mask) : (g.orSticky k m).ayield = g.ayield := rfl
@[simp] theorem Group.orSticky_apassed (g : Group) (k : Nat) (m : Mask) : (g.orSticky k m).apassed = g.apassed := rfl
@[simp] theorem Group.orSticky_astall (g : Group) (k : Nat) (m : Mask) : (g.orSticky k m).astall = g.astall := rfl
@[simp] theorem Group.orSticky_qbar (g : Group) (k : Nat) (m : Mask) : (g.orSticky k m).qbar = g.qbar := rfl
@[simp] theorem Group.orSticky_ops (g : Group) (k : Nat) (m : Mask) : (g.orSticky k m).ops = g.ops := rfl
@[simp] theorem Group.orSticky_acks (g : Group) (k : Nat) (m : Mask) : (g.orSticky k m).acks = g.acks := rfl
@[simp] theorem Group.orSticky_openLeft (g : Group) (k : Nat) (m : Mask) : (g.orSticky k m).openLeft = g.openLeft := rfl
@[simp] theorem Group.orSticky_openN (g : Group) (k : Nat) (m : Mask) : (g.orSticky k m).openN = g.openN := rfl
@[simp] theorem Group.orSticky_openFail (g : Group) (k : Nat) (m : Mask) : (g.orSticky k m).openFail = g.openFail := rfl
@[simp] theorem Group.orSticky_batches (g : Group) (k : Nat) (m : Mask) : (g.orSticky k m).batches = g.batches := rfl
@[simp] theorem Group.orSticky_lastb (g : Group) (k : Nat) (m : Mask) : (g.orSticky k m).lastb = g.lastb := rfl
@[simp] theorem Group.orSticky_bwait (g : Group) (k : Nat) (m : Mask) : (g.orSticky k m).bwait = g.bwait := rfl
@[simp] theorem Group.orSticky_armed (g : Group) (k : Nat) (m : Mask) : (g.orSticky k m).armed = g.armed := rfl
@[simp] theorem Group.orSticky_held (g : Group) (k : Nat) (m : Mask) : (g.orSticky k m).held = g.held := rfl
@[simp] theorem Group.orSticky_trig (g : Group) (k : Nat) (m : Mask) : (g.orSticky k m).trig = g.trig := rfl
@[simp] theorem Group.orSticky_inh (g : Group) (k : Nat) (m : Mask) : (g.orSticky k m).inh = g.inh := rfl
@[simp] theorem Group.orSticky_frame (g : Group) (k : Nat) (m : Mask) : (g.orSticky k m).frame = g.frame := rfl
@[simp] theorem Group.orSticky_trapPaths (g : Group) (k : Nat) (m : Mask) : (g.orSticky k m).trapPaths = g.trapPaths := rfl
@[simp] theorem Group.orSticky_trapEnts (g : Group) (k : Nat) (m : Mask) : (g.orSticky k m).trapEnts = g.trapEnts := rfl
@[simp] theorem Group.orSticky_trapAst (g : Group) (k : Nat) (m : Mask) : (g.orSticky k m).trapAst = g.trapAst := rfl
@[simp] theorem Group.orSticky_rq (g : Group) (k : Nat) (m : Mask) : (g.orSticky k m).rq = g.rq := rfl
@[simp] theorem Group.orSticky_st (g : Group) (k : Nat) (m : Mask) : (g.orSticky k m).st = g.st := rfl
@[simp] theorem Group.orSticky_vres (g : Group) (k : Nat) (m : Mask) : (g.orSticky k m).vres = g.vres := rfl
@[simp] theorem Group.orSticky_vdirty (g : Group) (k : Nat) (m : Mask) : (g.orSticky k m).vdirty = g.vdirty := rfl
@[simp] theorem Group.orSticky_vwr (g : Group) (k : Nat) (m : Mask) : (g.orSticky k m).vwr = g.vwr := rfl
@[simp] theorem Group.orSticky_vneed (g : Group) (k : Nat) (m : Mask) : (g.orSticky k m).vneed = g.vneed := rfl
@[simp] theorem Group.orSticky_vbad (g : Group) (k : Nat) (m : Mask) : (g.orSticky k m).vbad = g.vbad := rfl
@[simp] theorem Group.orSticky_filed (g : Group) (k : Nat) (m : Mask) : (g.orSticky k m).filed = g.filed := rfl
@[simp] theorem Group.orSticky_qn (g : Group) (k : Nat) (m : Mask) : (g.orSticky k m).qn = g.qn := rfl
@[simp] theorem Group.orSticky_qend (g : Group) (k : Nat) (m : Mask) : (g.orSticky k m).qend = g.qend := rfl
@[simp] theorem Group.orSticky_cbuf (g : Group) (k : Nat) (m : Mask) : (g.orSticky k m).cbuf = g.cbuf := rfl
@[simp] theorem Group.orSticky_fresh (g : Group) (k : Nat) (m : Mask) : (g.orSticky k m).fresh = g.fresh := rfl
@[simp] theorem Group.orSticky_pend (g : Group) (k : Nat) (m : Mask) : (g.orSticky k m).pend = g.pend := rfl
@[simp] theorem Group.orSticky_flops (g : Group) (k : Nat) (m : Mask) : (g.orSticky k m).flops = g.flops := rfl

end Sys2Proof.Machine
end

