-- ==== Sys2Proof/Laws/Issue.lean ====
section
/-! SUPPORT. What `issue` does with an instruction that issues: it pops the queues, moves the program counter on, and runs the
effect, and the effect on the group alone leaves everything else (R53, R27). -/

namespace Sys2Proof.Machine

open Sys2Proof.Safety

/-! ## Pops -/

/-- Popping distinct queues that hold data gives each one's head and its tail (R19). -/
theorem Group.popAll_ok : ∀ (qs : List Nat) (g : Group), qs.Nodup → (∀ q ∈ qs, ∃ v r, g.q.getD q [] = QPos.data v :: r) →
    ∃ g', g.popAll qs = .ok (qs.map fun q => (q, frontOf g q), g') ∧
      g' = { g with q := g'.q, qh := g'.qh } ∧
      ∀ k, g'.q.getD k [] = if k ∈ qs then (g.q.getD k []).tail else g.q.getD k [] := by
  intro qs
  induction qs with
  | nil => intro g _ _; exact ⟨g, rfl, rfl, fun k => by simp⟩
  | cons q qs ih =>
    intro g hn hf
    obtain ⟨v, r, hv⟩ := hf q List.mem_cons_self
    have hq : q ∉ qs := (List.nodup_cons.1 hn).1
    have hlt : q < g.q.length := by
      by_contra hge
      rw [List.getD_eq_default _ _ (by omega)] at hv
      exact absurd hv (by simp)
    let h : Group := { g with q := g.q.set q r, qh := g.qh.modify q (fun h => (h + 1) % 16) }
    have hp : g.popQ q = .ok (v, h) := by unfold Group.popQ; rw [hv]
    have hget : ∀ k, h.q.getD k [] = if k = q then r else g.q.getD k [] := by
      intro k
      show (g.q.set q r).getD k [] = _
      by_cases hk : k = q
      · subst hk; simp [List.getD, hlt]
      · simp [List.getD, List.getElem?_set_ne (Ne.symm hk), hk]
    have hother : ∀ k ∈ qs, h.q.getD k [] = g.q.getD k [] := by
      intro k hk
      rw [hget, if_neg (by intro e; subst e; exact hq hk)]
    obtain ⟨g', h1, h2, h3⟩ := ih h (List.nodup_cons.1 hn).2 (fun k hk => by
      obtain ⟨v', r', e⟩ := hf k (List.mem_cons_of_mem _ hk)
      exact ⟨v', r', by rw [hother k hk, e]⟩)
    refine ⟨g', ?_, ?_, ?_⟩
    · have hh : frontOf g q = v := by unfold frontOf; rw [hv]
      have hm : qs.map (fun k => (k, frontOf h k)) = qs.map (fun k => (k, frontOf g k)) :=
        List.map_congr_left fun k hk => by unfold frontOf; rw [hother k hk]
      unfold Group.popAll
      rw [hp]
      simp only [h1, List.map_cons, hh, hm]
    · rw [h2]
    · intro k
      rw [h3 k, hget k]
      by_cases hk : k = q
      · subst hk; rw [if_neg hq, if_pos rfl, if_pos List.mem_cons_self, hv]; rfl
      · by_cases hk' : k ∈ qs <;> simp [hk, hk']

theorem nodup_eraseDups_loop (r : List Nat) : ∀ bs : List Nat, bs.Nodup → (List.eraseDupsBy.loop (fun x y => x == y) r bs).Nodup := by
  induction r with
  | nil => intro bs h; exact List.nodup_reverse.2 h
  | cons a r ih =>
    intro bs h
    unfold List.eraseDupsBy.loop
    split
    · exact ih bs h
    · rename_i hb
      refine ih (a :: bs) (List.nodup_cons.2 ⟨fun hm => ?_, h⟩)
      have := List.any_eq_false.1 hb a hm
      simp at this

theorem nodup_eraseDups (r : List Nat) : r.eraseDups.Nodup := nodup_eraseDups_loop r [] List.nodup_nil

/-- The queues an instruction pops are named once each. -/
theorem queues_nodup (i : Instr) : i.queues.Nodup := nodup_eraseDups _

/-! ## The group as the effect finds it -/

/-- `h` is `g` with the queues of `i` popped, its named lines touched, and its program counter at the next slot. -/
structure Started (i : Instr) (s : State) (g h : Group) : Prop where
  rest : h = { g with raised := [0, 0, 0, 0, 0], q := h.q, qh := h.qh, vres := h.vres, paths := h.paths, apc := h.apc }
  paths : h.paths = if s.cur.sl = .c then g.paths.map (fun p => if p.id == s.cur.p then { p with pc := nextAddr s.cur.addr } else p) else g.paths
  apc : h.apc = if s.cur.sl = .a then nextAddr s.cur.addr else g.apc
  pops : ∀ k, h.q.getD k [] = if k ∈ i.queues then (g.q.getD k []).tail else g.q.getD k []

/-- An instruction that issues passes every check, and its effect finds the environment `envOf` (R53, R49, R31, R48, R19). -/
theorem prepare_ok {i : Instr} {s : State} {g : Group} (hi : Issues i s g) :
    ∃ h, prepare i g s = .ok (envOf i s g, h) ∧ Started i s g h := by
  obtain ⟨h, h1, h2, h3⟩ := Group.popAll_ok i.queues g (queues_nodup i) hi.full
  have hb : i.refs.any g.buffered.contains = false := by
    rw [List.any_eq_false]
    intro r hr
    simpa using (hi.free r hr).2
  have ha : i.refs.any g.awaited.contains = false := by
    rw [List.any_eq_false]
    intro r hr
    simpa using (hi.free r hr).1
  have hf : (flagOf i.setf s.cur).any (fun f => decide (g.flags.getD f 0 ≥ 255)) = false := by
    cases hk : flagOf i.setf s.cur with
    | none => rfl
    | some k => simpa using hi.flag k hk
  have hv : i.vregs.any g.vbad.contains = false := by
    rw [List.any_eq_false]
    intro n hn
    simpa using hi.sound n hn
  refine ⟨(({ h with raised := [0, 0, 0, 0, 0] } : Group).touch i.vregs).advance s.cur, ?_, ?_⟩
  · unfold prepare
    simp only [hi.alone, Option.getD_none, hi.legal, hb, ha, hi.resident, hv, hf, h1, Option.isNone_none, if_true, Bool.false_eq_true, if_false]
    rfl
  · have ht : ∀ x : Group, x.touch i.vregs = { x with vres := (x.touch i.vregs).vres } := by
      intro x; rfl
    rw [ht]
    cases hc : s.cur.sl with
    | c =>
      refine ⟨?_, ?_, ?_, ?_⟩ <;> simp only [Group.advance, hc, Group.mapPath]
      · rw [h2]
      · rw [h2]; simp
      · rw [h2]; simp
      · exact h3
    | a =>
      refine ⟨?_, ?_, ?_, ?_⟩ <;> simp only [Group.advance, hc]
      · rw [h2]
      · rw [h2]; simp
      · simp
      · exact h3

/-- `issue` of an instruction that issues is its effect, then retirement (R53, R27). -/
theorem issue_ok {i : Instr} {s : State} {g : Group} (hi : Issues i s g) (body : Env → State → Except Stop State) :
    ∃ h, Started i s g h ∧ issue i body s = match body (envOf i s g) (s.setG s.cur.g h) with
      | .error st => .next (s.stop st i.ldqOf)
      | .ok t => .next ((t.mapG s.cur.g fun h => h.retire s.cur.sl false (i.laneFlops * (envOf i s g).active.length)).report .retired) := by
  obtain ⟨h, h1, h2⟩ := prepare_ok hi
  refine ⟨h, h2, ?_⟩
  unfold issue
  rw [hi.here]
  simp only [h1, hi.alone, Option.isSome_none]
  all_goals cases body (envOf i s g) (s.setG s.cur.g h) <;> rfl

/-- An effect on the group alone: the group's place takes the new group, and nothing else changes. -/
theorem issue_group {i : Instr} {s : State} {g : Group} (hi : Issues i s g) (f : Env → Group → Group) :
    ∃ h, Started i s g h ∧ issue i (groupBody f) s = .next (Becomes s ((f (envOf i s g) h).retire s.cur.sl false (i.laneFlops * (envOf i s g).active.length))) := by
  obtain ⟨h, h1, h2⟩ := issue_ok hi (groupBody f)
  refine ⟨h, h1, ?_⟩
  rw [h2]
  have hlt : s.cur.g < s.groups.length := (List.getElem?_eq_some_iff.1 hi.here).1
  have hgi : (envOf i s g).gi = s.cur.g := rfl
  simp only [groupBody, hgi, State.mapG, State.setG, State.report, Becomes]
  congr 2
  apply List.ext_getElem?
  intro k
  by_cases hk : k = s.cur.g
  · subst hk; simp [List.getElem?_modify, hlt]
  · simp [List.getElem?_modify, List.getElem?_set_ne (Ne.symm hk), Ne.symm hk]

/-- An effect whose guard is false changes nothing but the program counter, RETIRED and the queues (R39, R58). -/
theorem issue_guard_false {i : Instr} {s : State} {g : Group} (hi : Issues i s g) (body : Env → State → Except Stop State)
    (hg : (envOf i s g).uguard = false) : ∃ h, Started i s g h ∧
      issue i (whenGuard body) s = .next (Becomes s (h.retire s.cur.sl false (i.laneFlops * (envOf i s g).active.length))) := by
  obtain ⟨h, h1, h2⟩ := issue_ok hi (whenGuard body)
  refine ⟨h, h1, ?_⟩
  rw [h2]
  have hlt : s.cur.g < s.groups.length := (List.getElem?_eq_some_iff.1 hi.here).1
  simp only [whenGuard, hg, Bool.false_eq_true, if_false, State.mapG, State.setG, State.report, Becomes]
  congr 2
  apply List.ext_getElem?
  intro k
  by_cases hk : k = s.cur.g
  · subst hk; simp [List.getElem?_modify, hlt]
  · simp [List.getElem?_modify, List.getElem?_set_ne (Ne.symm hk), Ne.symm hk]

end Sys2Proof.Machine
end

