-- ==== Sys2Proof/Laws/Alu.lean ====
section
/-! SUPPORT. What writing registers and predicates does (R58, R133, R127), register by register, and the completion of an
instruction of classes 000-010 whose effect is `Group.alu`. -/

namespace Sys2Proof.Machine

open Sys2Proof.Safety

/-! ## Registers -/

theorem vlane_setV (g : Group) (n : Nat) (f : Nat → Option Word) (h : n < g.regs.v.length) (m l : Nat) (hl : l < 32) :
    (g.setV n f).vlane m l = if m = n then (f l).getD (g.vlane n l) else g.vlane m l := by
  simp only [Group.vlane, Group.setV_regs_v]
  split
  · rw [Group.fillV_regs_v]
    by_cases hm : m = n
    · subst hm
      simp [List.getD, List.getElem?_modify, h, lanes, hl]
    · simp [List.getD, List.getElem?_modify, hm, Ne.symm hm]
  · rename_i ha
    have hn : f l = none := by
      have := List.any_eq_false.1 (Bool.not_eq_true _ ▸ ha) l (List.mem_range.2 hl)
      simpa using this
    by_cases hm : m = n
    · subst hm; simp [hn]
    · simp [hm]

/-- A V register written changes its own words and what is known of its line, and nothing else (R30, R31). -/
theorem Group.setV_only (g : Group) (n : Nat) (f : Nat → Option Word) :
    g.setV n f = { g with regs := { g.regs with v := (g.setV n f).regs.v }, vwr := (g.setV n f).vwr, vdirty := (g.setV n f).vdirty } := by
  unfold Group.setV
  split <;> rfl

/-- A V register written leaves the number of registers. -/
@[simp] theorem Group.setV_length (g : Group) (n : Nat) (f : Nat → Option Word) : (g.setV n f).regs.v.length = g.regs.v.length := by
  rw [Group.setV_regs_v]
  split
  · rw [Group.fillV_regs_v, List.length_modify]
  · rfl

theorem sreg_setS (g : Group) (n : Nat) (x : Word) (h : n < g.regs.s.length) (m : Nat) :
    (g.setS n x).sreg m = if m = n then x else g.sreg m := by
  simp only [Group.sreg, Group.setS_regs_s]
  by_cases hm : m = n
  · subst hm; simp [List.getD, h]
  · simp [List.getD, List.getElem?_set_ne (Ne.symm hm), hm]

theorem areg_setA (g : Group) (n : Nat) (x : DWord) (h : n < g.regs.a.length) (m : Nat) :
    (g.setA n x).areg m = if m = n then x else g.areg m := by
  simp only [Group.areg, Group.setA_regs_a]
  by_cases hm : m = n
  · subst hm; simp [List.getD, h]
  · simp [List.getD, List.getElem?_set_ne (Ne.symm hm), hm]

/-- A bit of `maskOf`. -/
theorem maskOf_bit (f : Nat → Bool) (l : Nat) (hl : l < 32) : (maskOf f).getLsbD l = f l := by
  have key : ∀ (ls : List Nat) (m : Mask), (∀ k ∈ ls, k < 32) →
      (ls.foldl (fun m k => if f k then m ||| (1#32 <<< k) else m) m).getLsbD l = (m.getLsbD l || (decide (l ∈ ls) && f l)) := by
    intro ls
    induction ls with
    | nil => intro m _; simp
    | cons k ls ih =>
      intro m hk
      rw [List.foldl_cons, ih _ (fun j hj => hk j (List.mem_cons_of_mem _ hj))]
      have hk32 := hk k List.mem_cons_self
      by_cases hkl : l = k
      · subst hkl
        cases hfk : f l <;> simp [hfk, hk32]
      · have hsh : ((1#32) <<< k).getLsbD l = false := by
          rw [BitVec.getLsbD_shiftLeft]
          by_cases hlk : l < k
          · simp [hlk]
          · have : l - k ≠ 0 := by omega
            simp [this]
        cases hfk : f k <;> simp [hkl, hsh]
  unfold maskOf
  rw [key lanes 0 (by simp [lanes])]
  simp [lanes, hl]

theorem pred_setP (g : Group) (p : Nat) (f : Nat → Option Bool) (h : p < g.regs.p.length) (m l : Nat) (hl : l < 32) :
    (g.setP p f).pred m l = if m = p ∧ m ≠ 0 then (f l).getD (g.pred m l) else g.pred m l := by
  unfold Group.setP
  by_cases hp : p = 0
  · subst hp
    have : ¬ (m = 0 ∧ m ≠ 0) := fun e => e.2 e.1
    simp [this]
  · rw [if_neg hp]
    simp only [Group.pred]
    by_cases hm : m = p
    · subst hm
      have h0 : (m == 0) = false := by simpa using hp
      simp [List.getD, List.getElem?_modify, h, h0, hp, maskOf_bit _ _ hl]
    · simp [List.getD, List.getElem?_modify, hm, Ne.symm hm]

theorem pred_orSticky (g : Group) (k : Nat) (x : Mask) (h : 59 + k < g.regs.p.length) (m l : Nat) :
    (g.orSticky k x).pred m l = (g.pred m l || (decide (m = 59 + k) && x.getLsbD l)) := by
  simp only [Group.pred, Group.orSticky_regs_p]
  by_cases hm : m = 59 + k
  · subst hm
    have h0 : (59 + k == 0) = false := by simp
    simp [List.getD, List.getElem?_modify, h, h0]
  · simp [List.getD, List.getElem?_modify, hm, Ne.symm hm]

/-- Only predicates, and the conditions that an instruction raised, differ. -/
def OnlyPred (g h : Group) : Prop := h = { g with regs := { g.regs with p := h.regs.p }, raised := h.raised }

theorem OnlyPred.refl (g : Group) : OnlyPred g g := rfl

theorem OnlyPred.trans {g h k : Group} (a : OnlyPred g h) (b : OnlyPred h k) : OnlyPred g k := by
  unfold OnlyPred at *; rw [a] at b; exact b

theorem setP_only (g : Group) (p : Nat) (f : Nat → Option Bool) : OnlyPred g (g.setP p f) := by
  unfold Group.setP; split <;> exact rfl

theorem orSticky_only (g : Group) (k : Nat) (m : Mask) : OnlyPred g (g.orSticky k m) := by
  unfold Group.orSticky; exact rfl

theorem sticky_only (g : Group) (c : Nat → Cnd) : OnlyPred g (g.sticky c) := by
  unfold Group.sticky
  generalize List.range 5 = ks
  induction ks generalizing g with
  | nil => exact OnlyPred.refl g
  | cons k ks ih => exact (orSticky_only g k _).trans (ih _)

theorem setP_length (g : Group) (p : Nat) (f : Nat → Option Bool) : (g.setP p f).regs.p.length = g.regs.p.length := by
  unfold Group.setP; split <;> simp

/-- The sticky conditions are ORed into P59-P63 (R127). -/
theorem pred_sticky (g : Group) (c : Nat → Cnd) (h : g.regs.p.length = 64) (m l : Nat) (hm : m < 64) (hl : l < 32) :
    (g.sticky c).pred m l = (g.pred m l || (decide (59 ≤ m) && (c l).getLsbD (m - 59))) := by
  have hlen : ∀ (g : Group) k x, (g.orSticky k x).regs.p.length = g.regs.p.length := by intro g k x; simp
  have e : g.sticky c = ((((g.orSticky 0 (maskOf fun l => (c l).getLsbD 0)).orSticky 1 (maskOf fun l => (c l).getLsbD 1)).orSticky 2
      (maskOf fun l => (c l).getLsbD 2)).orSticky 3 (maskOf fun l => (c l).getLsbD 3)).orSticky 4 (maskOf fun l => (c l).getLsbD 4) := rfl
  rw [e, pred_orSticky _ _ _ (by simp [h]), pred_orSticky _ _ _ (by simp [h]), pred_orSticky _ _ _ (by simp [h]),
    pred_orSticky _ _ _ (by simp [h]), pred_orSticky _ _ _ (by simp [h])]
  simp only [maskOf_bit _ _ hl]
  by_cases h59 : 59 ≤ m
  · obtain ⟨k, rfl⟩ : ∃ k, m = 59 + k := ⟨m - 59, by omega⟩
    have hk : k < 5 := by omega
    have : 59 + k - 59 = k := by omega
    rw [this]
    rcases k with _ | _ | _ | _ | _ | k <;> first | omega | simp
  · have a : ∀ k, decide (m = 59 + k) = false := fun k => decide_eq_false (by omega)
    simp only [a, decide_eq_false h59, Bool.false_and, Bool.or_false]

/-! ## Destinations -/

/-- The registers of a destination lie in the files (R21). -/
def InFile (g : Group) (d : Operand) (w64 : Bool) : Prop :=
  match d with
  | .v n => n.toNat + (if w64 then 2 else 1) ≤ g.regs.v.length
  | .s n => n.toNat + (if w64 then 2 else 1) ≤ g.regs.s.length
  | .a n => n.toNat < g.regs.a.length
  | _ => True

/-- The registers that a destination names. -/
def destOf (d : Operand) (w64 : Bool) : List RegRef :=
  match d with
  | .v n => if w64 then [.v n.toNat, .v (n.toNat + 1)] else [.v n.toNat]
  | .s n => if w64 then [.s n.toNat, .s (n.toNat + 1)] else [.s n.toNat]
  | .a n => [.a n.toNat]
  | _ => []

/-- What `writeD` leaves of a group: all but the registers, what is known of their lines, the paths' EXEC and the timer's arming. -/
theorem writeD_keeps (g : Group) (pid u : Nat) (d : Operand) (w64 : Bool) (f : Nat → Option DWord) :
    g.writeD pid u d w64 f = { g with
      regs := (g.writeD pid u d w64 f).regs, paths := (g.writeD pid u d w64 f).paths, armed := (g.writeD pid u d w64 f).armed,
      vwr := (g.writeD pid u d w64 f).vwr, vdirty := (g.writeD pid u d w64 f).vdirty } ∧
    (g.writeD pid u d w64 f).regs.p = g.regs.p := by
  unfold Group.writeD
  cases d with
  | v n =>
    cases w64
    · refine ⟨?_, by simp⟩
      simp only [Bool.false_eq_true, if_false]
      rw [Group.setV_only]
    · refine ⟨?_, by simp⟩
      simp only [if_true]
      rw [Group.setV_only (g.setV _ _), Group.setV_only g]
  | s n => cases f u <;> cases w64 <;> exact ⟨rfl, rfl⟩
  | a n => cases f 0 <;> exact ⟨rfl, rfl⟩
  | sr r => cases f u <;> cases r <;> exact ⟨rfl, rfl⟩
  | _ => exact ⟨rfl, rfl⟩

/-- A path changed is found changed. -/
theorem path_mapPath (g : Group) (pid : Nat) (f : Path → Path) (hf : ∀ p, (f p).id = p.id) : (g.mapPath pid f).path pid = (g.path pid).map f := by
  unfold Group.path Group.mapPath
  simp only
  generalize g.paths = ps
  induction ps with
  | nil => rfl
  | cons p ps ih =>
    simp only [List.map_cons, List.find?_cons]
    by_cases hp : (p.id == pid) = true
    · simp only [hp, if_true, hf p, Option.map_some]
    · rw [if_neg hp]
      simp only [Bool.not_eq_true] at hp
      simp only [hp]
      exact ih

/-- A destination takes its values (R133). -/
theorem writeD_writes (e : Env) (g : Group) (d : Operand) (w64 : Bool) (v : Nat → DWord) (hin : InFile g d w64)
    (hp : ∀ r, d = .sr r → ∃ p, g.path e.p.id = some p ∧ p.held = e.p.held) :
    Writes e g (g.writeD e.p.id e.ulane d w64 fun l => if e.takes d l then some (v l) else none) d w64 v := by
  cases d with
  | v n =>
    intro l hl
    cases w64 with
    | false =>
      simp only [InFile, Bool.false_eq_true, if_false] at hin
      simp only [Group.writeD, Bool.false_eq_true, if_false, Env.takes, IsEmpty.forall_iff, and_true]
      rw [vlane_setV _ _ _ (by omega) _ _ hl, if_pos rfl]
      by_cases ha : e.isActive l = true <;> simp [ha]
    | true =>
      simp only [InFile, if_true] at hin
      simp only [Group.writeD, if_true, Env.takes, forall_const]
      have h1 : ∀ f : Nat → Option Word, n.toNat + 1 < (g.setV n.toNat f).regs.v.length := by
        intro f; rw [Group.setV_length]; omega
      rw [vlane_setV _ _ _ (h1 _) _ _ hl, vlane_setV _ _ _ (h1 _) _ _ hl, vlane_setV g _ _ (by omega) _ _ hl, vlane_setV g _ _ (by omega) _ _ hl]
      by_cases ha : e.isActive l = true <;> simp [ha]
  | s n =>
    cases w64 with
    | false =>
      simp only [InFile, Bool.false_eq_true, if_false] at hin
      simp only [Writes, Group.writeD, Env.takes, BEq.rfl, Bool.true_and, Bool.false_eq_true, if_false, IsEmpty.forall_iff, and_true]
      cases e.uguard
      · rfl
      · simp only [if_true]; rw [sreg_setS _ _ _ (by omega), if_pos rfl]
    | true =>
      simp only [InFile, if_true] at hin
      simp only [Writes, Group.writeD, Env.takes, BEq.rfl, Bool.true_and, if_true, forall_const]
      cases e.uguard
      · exact ⟨rfl, rfl⟩
      · simp only [if_true, Group.setSPair]
        rw [sreg_setS _ _ _ (by simp; omega), sreg_setS _ _ _ (by omega), if_neg (by omega), if_pos rfl,
          sreg_setS _ _ _ (by simp; omega), if_pos rfl]
        exact ⟨rfl, rfl⟩
  | a n =>
    simp only [InFile] at hin
    simp only [Writes, Group.writeD, Env.takes, BEq.rfl, if_true]
    rw [areg_setA _ _ _ hin, if_pos rfl]
  | sr r =>
    obtain ⟨p, hpath, hheld⟩ := hp r rfl
    simp only [Writes, Group.writeD, Env.takes, BEq.rfl, Bool.true_and]
    cases e.uguard
    · rfl
    · simp only [if_true]
      cases r with
      | exec =>
        simp only [Group.setSr, special, stored]
        rw [path_mapPath g e.p.id (fun p => { p with exec := (v e.ulane).setWidth 32 &&& p.held }) (fun _ => rfl), hpath, ← hheld]
        rfl
      | slip =>
        simp only [Group.setSr, special, stored, slipOf]
        split
        · rfl
        · split
          · rw [Nat.min_eq_right (by omega)]; rfl
          · rw [Nat.min_eq_left (by omega)]
      | tvec =>
        simp only [Group.setSr, special, stored]
        apply BitVec.eq_of_getLsbD_eq
        intro k hk
        have hb : ∀ k < 64, (0x00FFFFFFFFFFFFFF : BitVec 64).getLsbD k = decide (k < 56) := by decide
        rw [BitVec.getLsbD_and, hb k hk, BitVec.getLsbD_setWidth, BitVec.getLsbD_setWidth]
        simp only [hk, decide_true, Bool.true_and]
        cases (v e.ulane).getLsbD k <;> simp
      | _ => rfl
  | _ => exact trivial

/-- Registers that a destination does not name keep their values. -/
theorem writeD_keepsRegs (e : Env) (g : Group) (d : Operand) (w64 : Bool) (f : Nat → Option DWord) (hin : InFile g d w64) :
    KeepsRegs e g (g.writeD e.p.id e.ulane d w64 f) (destOf d w64) d := by
  cases d with
  | v n =>
    refine ⟨fun m l hl hm => ?_, fun m _ => ?_, fun m _ => ?_, fun r _ => ?_⟩
    · cases w64 with
      | false =>
        simp only [InFile, Bool.false_eq_true, if_false, destOf, List.mem_singleton, RegRef.v.injEq] at hin hm
        simp only [Group.writeD, Bool.false_eq_true, if_false]
        rw [vlane_setV _ _ _ (by omega) _ _ hl, if_neg hm]
      | true =>
        simp only [InFile, if_true, destOf, List.mem_cons, RegRef.v.injEq, List.not_mem_nil, or_false, not_or] at hin hm
        simp only [Group.writeD, if_true]
        rw [vlane_setV _ _ _ (by rw [Group.setV_length]; omega) _ _ hl, if_neg hm.2, vlane_setV _ _ _ (by omega) _ _ hl, if_neg hm.1]
    · cases w64 <;> simp [Group.writeD, Group.sreg]
    · cases w64 <;> simp [Group.writeD, Group.areg]
    · cases w64 <;> cases r <;> simp [Group.writeD, special, Group.path]
  | s n =>
    refine ⟨fun m l hl hm => ?_, fun m hm => ?_, fun m _ => ?_, fun r _ => ?_⟩
    · simp only [Group.writeD]; cases f e.ulane <;> cases w64 <;> rfl
    · simp only [Group.writeD]
      cases f e.ulane with
      | none => rfl
      | some x =>
        cases w64 with
        | false =>
          simp only [InFile, Bool.false_eq_true, if_false, destOf, List.mem_singleton, RegRef.s.injEq] at hin hm
          simp only [Bool.false_eq_true, if_false]
          rw [sreg_setS _ _ _ (by omega), if_neg hm]
        | true =>
          simp only [InFile, if_true, destOf, List.mem_cons, RegRef.s.injEq, List.not_mem_nil, or_false, not_or] at hin hm
          simp only [if_true, Group.setSPair]
          rw [sreg_setS _ _ _ (by simp; omega), if_neg hm.2, sreg_setS _ _ _ (by omega), if_neg hm.1]
    · simp only [Group.writeD]; cases f e.ulane <;> cases w64 <;> rfl
    · simp only [Group.writeD]; cases f e.ulane <;> cases w64 <;> cases r <;> rfl
  | a n =>
    refine ⟨fun m l hl hm => ?_, fun m hm => ?_, fun m hm => ?_, fun r _ => ?_⟩
    · simp only [Group.writeD]; cases f 0 <;> rfl
    · simp only [Group.writeD]; cases f 0 <;> rfl
    · simp only [InFile, destOf, List.mem_singleton, RegRef.a.injEq] at hin hm
      simp only [Group.writeD]
      cases f 0 with
      | none => rfl
      | some x => simp only []; rw [areg_setA _ _ _ hin, if_neg hm]
    · simp only [Group.writeD]; cases f 0 <;> cases r <;> rfl
  | sr r =>
    refine ⟨fun m l hl hm => ?_, fun m hm => ?_, fun m hm => ?_, fun q hq => ?_⟩
    · simp only [Group.writeD]; cases f e.ulane <;> cases r <;> rfl
    · simp only [Group.writeD]; cases f e.ulane <;> cases r <;> rfl
    · simp only [Group.writeD]; cases f e.ulane <;> cases r <;> rfl
    · simp only [Group.writeD]
      cases f e.ulane with
      | none => rfl
      | some x => cases r <;> cases q <;> first | rfl | exact absurd rfl hq
  | _ => exact ⟨fun _ _ _ _ => rfl, fun _ _ => rfl, fun _ _ => rfl, fun _ _ => rfl⟩

/-! ## Group.alu -/

/-- A group as an instruction's effect leaves it, relative to the group as the effect found it: registers, what is known of their lines,
EXEC, the timer's arming and the raised conditions. -/
def OnlyRegs (g h : Group) : Prop :=
  h = { g with regs := h.regs, raised := h.raised, paths := h.paths, armed := h.armed, vwr := h.vwr, vdirty := h.vdirty }

theorem OnlyRegs.trans {g h k : Group} (a : OnlyRegs g h) (b : OnlyRegs h k) : OnlyRegs g k := by
  unfold OnlyRegs at *; rw [a] at b; exact b

theorem OnlyPred.only {g h : Group} (a : OnlyPred g h) : OnlyRegs g h := by
  unfold OnlyPred at a; unfold OnlyRegs; rw [a]

theorem writeD_only (g : Group) (pid u : Nat) (d : Operand) (w64 : Bool) (f : Nat → Option DWord) :
    OnlyRegs g (g.writeD pid u d w64 f) := by
  have hk := (writeD_keeps g pid u d w64 f).1
  unfold OnlyRegs
  generalize g.writeD pid u d w64 f = h at hk
  rw [hk]

theorem writeD_paths (g : Group) (pid u : Nat) (d : Operand) (w64 : Bool) (f : Nat → Option DWord) :
    (g.writeD pid u d w64 f).paths.map (fun p => { p with exec := 0 }) = g.paths.map (fun p => { p with exec := 0 }) := by
  unfold Group.writeD
  cases d with
  | v n => cases w64 <;> simp
  | s n => cases f u <;> cases w64 <;> rfl
  | a n => cases f 0 <;> rfl
  | sr r =>
    cases f u with
    | none => rfl
    | some x =>
      cases r <;> first | rfl | skip
      simp only [Group.setSr, Group.mapPath_paths, List.map_map]
      apply List.map_congr_left
      intro p _
      simp only [Function.comp]
      split <;> rfl
  | _ => rfl

theorem aluDest_only (g : Group) (e : Env) (hasD : Bool) (d : Operand) (w64 : Bool) (f : Nat → LaneOut) :
    OnlyRegs g (g.aluDest e hasD d w64 f) := by
  unfold Group.aluDest; split
  · exact writeD_only _ _ _ _ _ _
  · exact rfl

theorem aluDest_p (g : Group) (e : Env) (hasD : Bool) (d : Operand) (w64 : Bool) (f : Nat → LaneOut) :
    (g.aluDest e hasD d w64 f).regs.p = g.regs.p := by
  unfold Group.aluDest; split
  · exact (writeD_keeps _ _ _ _ _ _).2
  · rfl

theorem aluPred_only (g : Group) (e : Env) (d : Operand) (pd : Nat) (f : Nat → LaneOut) : OnlyPred g (g.aluPred e d pd f) := by
  unfold Group.aluPred
  cases d with
  | s n => simp only []; cases e.uguard <;> first | exact setP_only _ _ _ | exact rfl
  | sr n => simp only []; cases e.uguard <;> first | exact setP_only _ _ _ | exact rfl
  | _ => exact setP_only _ _ _

theorem setPAll_length (g : Group) (p : Nat) (h : Mask) (b : Bool) : (g.setPAll p h b).regs.p.length = g.regs.p.length := by
  unfold Group.setPAll; exact setP_length _ _ _

theorem aluPred_length (g : Group) (e : Env) (d : Operand) (pd : Nat) (f : Nat → LaneOut) :
    (g.aluPred e d pd f).regs.p.length = g.regs.p.length := by
  unfold Group.aluPred
  cases d with
  | s n => simp only []; cases e.uguard <;> first | exact setPAll_length _ _ _ _ | rfl
  | sr n => simp only []; cases e.uguard <;> first | exact setPAll_length _ _ _ _ | rfl
  | _ => exact setP_length _ _ _

/-- `Group.alu` writes the destination, then predicates (R133, R127). -/
theorem alu_mid (g : Group) (e : Env) (hasD : Bool) (d : Operand) (w64 : Bool) (pd : Nat) (f : Nat → LaneOut) :
    OnlyPred (g.aluDest e hasD d w64 f) (g.alu e hasD d w64 pd f) := (aluPred_only _ _ _ _ _).trans (sticky_only _ _)

/-- A uniform predicate destination (R39). -/
theorem pred_setPAll (g : Group) (pd : Nat) (held : Mask) (u b : Bool) (hpd : pd < g.regs.p.length) (n l : Nat) (hl : l < 32) :
    (if u then g.setPAll pd held b else g).pred n l =
      if n = 0 ∨ n ≠ pd then g.pred n l else if u && held.getLsbD l then b else g.pred n l := by
  cases u with
  | false => simp
  | true =>
    simp only [if_true, Bool.true_and]
    unfold Group.setPAll
    rw [pred_setP _ _ _ hpd _ _ hl]
    by_cases h0 : n = 0 ∨ n ≠ pd
    · rw [if_neg (by omega), if_pos h0]
    · rw [if_pos (by omega), if_neg h0]; cases held.getLsbD l <;> simp

/-- The predicates after `Group.alu` (R39, R133, R127). -/
theorem alu_pred (g : Group) (e : Env) (hasD : Bool) (d : Operand) (w64 : Bool) (pd : Nat) (f : Nat → LaneOut) (h : g.regs.p.length = 64)
    (hpd : pd < 64) (n l : Nat) (hn : n < 64) (hl : l < 32) : (g.alu e hasD d w64 pd f).pred n l = predAfter e g d pd f n l := by
  have hlen : (g.aluDest e hasD d w64 f).regs.p.length = 64 := by rw [aluDest_p, h]
  have hpred : ∀ n l, (g.aluDest e hasD d w64 f).pred n l = g.pred n l := by intro n l; unfold Group.pred; rw [aluDest_p]
  have hst : ((if e.takes d l = true then (f l).cnd else (0 : Cnd)).getLsbD (n - 59)) = (e.takes d l && (f l).cnd.getLsbD (n - 59)) := by
    cases e.takes d l <;> simp
  unfold Group.alu predAfter
  rw [pred_sticky _ _ (by rw [aluPred_length, hlen]) _ _ hn hl, hst, Bool.and_assoc]
  congr 1
  unfold Group.aluPred
  cases d with
  | s k => simp only [if_true]; rw [pred_setPAll _ _ _ _ _ (by omega) _ _ hl, hpred]
  | sr k => simp only [if_true]; rw [pred_setPAll _ _ _ _ _ (by omega) _ _ hl, hpred]
  | _ =>
    simp only [Bool.false_eq_true, if_false]
    rw [pred_setP _ _ _ (by omega) _ _ hl, hpred]
    by_cases h0 : n = 0 ∨ n ≠ pd
    · rw [if_neg (by omega), if_pos h0]
    · rw [if_pos (by omega), if_neg h0]
      split <;> rfl

/-- Two groups read alike but for predicates: the registers, and EXEC of one path. -/
structure SameRead (pid : Nat) (g h : Group) : Prop where
  regs : ({ g.regs with p := [] } : Regs) = { h.regs with p := [] }
  path : (g.path pid).map Path.exec = (h.path pid).map Path.exec

theorem SameRead.vlane {pid : Nat} {g h : Group} (r : SameRead pid g h) (n l : Nat) : g.vlane n l = h.vlane n l := by
  have : g.regs.v = h.regs.v := congrArg (·.v) r.regs
  unfold Group.vlane; rw [this]

theorem SameRead.sreg {pid : Nat} {g h : Group} (r : SameRead pid g h) (n : Nat) : g.sreg n = h.sreg n := by
  have : g.regs.s = h.regs.s := congrArg (·.s) r.regs
  unfold Group.sreg; rw [this]

theorem SameRead.areg {pid : Nat} {g h : Group} (r : SameRead pid g h) (n : Nat) : g.areg n = h.areg n := by
  have : g.regs.a = h.regs.a := congrArg (·.a) r.regs
  unfold Group.areg; rw [this]

theorem special_exec (g : Group) (pid : Nat) : Safety.special g pid .exec = (((g.path pid).map Path.exec).getD 0).setWidth 64 := by
  unfold Safety.special
  cases g.path pid <;> simp

theorem SameRead.special {pid : Nat} {g h : Group} (r : SameRead pid g h) (q : SReg) : Safety.special g pid q = Safety.special h pid q := by
  have a : g.regs.slip = h.regs.slip := congrArg (·.slip) r.regs
  have b : g.regs.tvec = h.regs.tvec := congrArg (·.tvec) r.regs
  have c : g.regs.tcmp = h.regs.tcmp := congrArg (·.tcmp) r.regs
  have d : g.regs.seed = h.regs.seed := congrArg (·.seed) r.regs
  have e : g.regs.fmtb = h.regs.fmtb := congrArg (·.fmtb) r.regs
  cases q <;> first | (simp only [Safety.special, a, b, c, d, e]; done) | rfl | (rw [special_exec, special_exec, r.path])

theorem SameRead.writes {e : Env} {g h k m : Group} (r : SameRead e.p.id g h) (q : SameRead e.p.id k m) {d : Operand} {w64 : Bool}
    {v : Nat → DWord} (w : Writes e g k d w64 v) : Writes e h m d w64 v := by
  cases d with
  | v n => intro l hl; simpa only [r.vlane, q.vlane] using w l hl
  | s n => simpa only [Writes, r.sreg, q.sreg] using w
  | a n => simpa only [Writes, q.areg] using w
  | sr x => simpa only [Writes, r.special, q.special] using w
  | _ => exact trivial

theorem SameRead.keeps {e : Env} {g h k m : Group} (r : SameRead e.p.id g h) (q : SameRead e.p.id k m) {ws ws' : List RegRef} {d : Operand}
    (hsub : ∀ x ∈ ws, x ∈ ws') (w : KeepsRegs e g k ws d) : KeepsRegs e h m ws' d := by
  refine ⟨fun n l hl hm => ?_, fun n hm => ?_, fun n hm => ?_, fun x hx => ?_⟩
  · rw [← r.vlane, ← q.vlane]; exact w.v n l hl fun e => hm (hsub _ e)
  · rw [← r.sreg, ← q.sreg]; exact w.s n fun e => hm (hsub _ e)
  · rw [← r.areg, ← q.areg]; exact w.a n fun e => hm (hsub _ e)
  · rw [← r.special, ← q.special]; exact w.special x hx

theorem OnlyPred.sameRead {g h : Group} (a : OnlyPred g h) (pid : Nat) : SameRead pid g h := by
  unfold OnlyPred at a; rw [a]; exact ⟨rfl, rfl⟩

/-- A lookup by path number finds the path at the same place in two lists with the same numbers. -/
theorem find_map_pc (ps : List Path) (pid : Nat) (f : Path → Path) (hid : ∀ p, (f p).id = p.id) :
    (ps.map f).find? (·.id == pid) = (ps.find? (·.id == pid)).map f := by
  rw [List.find?_map]; congr 2; funext p; simp [hid]

/-- What `issue` hands to an effect reads as the group did (R58). -/
theorem Started.sameRead {i : Instr} {s : State} {g h : Group} (st : Started i s g h) (pid : Nat) : SameRead pid g h := by
  refine ⟨by rw [st.rest], ?_⟩
  unfold Group.path
  rw [st.paths]
  split
  · rw [find_map_pc _ _ _ (fun p => by split <;> rfl), Option.map_map]
    congr 1
    funext p
    simp only [Function.comp]
    split <;> rfl
  · rfl

theorem Started.path_held {i : Instr} {s : State} {g h : Group} (st : Started i s g h) (pid : Nat) :
    (h.path pid).map (·.held) = (g.path pid).map (·.held) := by
  unfold Group.path
  rw [st.paths]
  split
  · rw [find_map_pc _ _ _ (fun p => by split <;> rfl), Option.map_map]
    congr 1
    funext p
    simp only [Function.comp]
    split <;> rfl
  · rfl

/-- What retirement notes (R27, R236, R296). -/
theorem retire_eq (k : Group) (sl : Slice) (n : Nat) : ∃ x z, k.retire sl false n =
    { k with flops := x, astall := z, retired := if sl = .c then k.retired + 1 else k.retired,
             qn := if sl = .c then k.qn + 1 else k.qn } := by
  cases sl with
  | c => exact ⟨_, k.astall, rfl⟩
  | a => exact ⟨k.flops, false, rfl⟩

theorem map_blank_exec {a b : List Path} (h : a.map (fun p => { p with exec := 0 }) = b.map (fun p => { p with exec := 0 }))
    {β : Type} (f : Path → β) (hf : ∀ p : Path, f { p with exec := 0 } = f p) : a.map f = b.map f := by
  have hf' : f ∘ (fun p : Path => { p with exec := 0 }) = f := funext hf
  have := congrArg (List.map f) h
  rwa [List.map_map, List.map_map, hf'] at this

/-- What stays beside an effect that writes registers, EXEC, the timer's arming and the raised conditions. -/
theorem keepsRest_of {i : Instr} {s : State} {g h k : Group} (st : Started i s g h) (hk : OnlyRegs h k)
    (hp : k.paths.map (fun p => { p with exec := 0 }) = h.paths.map (fun p => { p with exec := 0 }))
    (ha : s.cur.sl = .a → k.paths = h.paths) (n : Nat) : KeepsRest i s g (k.retire s.cur.sl false n) := by
  obtain ⟨x, z, hr⟩ := retire_eq k s.cur.sl n
  have hkq : k.q = h.q := by rw [hk]
  have hkr : k.retired = g.retired := by rw [hk, st.rest]
  have hkn : k.qn = g.qn := by rw [hk, st.rest]
  have hka : k.apc = h.apc := by rw [hk]
  refine ⟨?_, ?_, ?_, ?_, ?_, ?_, ?_⟩
  · rw [hr, hk, st.rest]
  · rw [hr]
    show k.paths.map _ = _
    refine (map_blank_exec hp (fun p : Path => { p with pc := 0, exec := 0 }) (fun _ => rfl)).trans ?_
    rw [st.paths]
    split
    · rw [List.map_map]; apply List.map_congr_left; intro p _; simp only [Function.comp]; split <;> rfl
    · rfl
  · intro hc
    rw [hr]
    refine ⟨?_, ?_⟩
    · show k.apc = _
      rw [hka, st.apc, if_neg (by rw [hc]; decide)]
    · show k.paths.map _ = _
      rw [map_blank_exec hp Path.pc (fun _ => rfl), st.paths, if_pos hc, List.map_map]
      apply List.map_congr_left; intro p _; simp only [Function.comp]; split <;> rfl
  · intro hc
    rw [hr]
    refine ⟨?_, ?_⟩
    · show k.apc = _
      rw [hka, st.apc, if_pos hc]
    · show k.paths = _
      rw [ha hc, st.paths, if_neg (by rw [hc]; decide)]
  · intro n
    rw [hr]
    show k.q.getD n [] = _
    rw [hkq]; exact st.pops n
  · rw [hr, hkr]
  · rw [hr, hkn]

theorem retire_sameRead {m k : Group} (a : OnlyPred m k) (sl : Slice) (n pid : Nat) : SameRead pid m (k.retire sl false n) := by
  obtain ⟨x, z, hr⟩ := retire_eq k sl n
  rw [hr]
  exact ⟨(a.sameRead pid).regs, (a.sameRead pid).path⟩

/-- An instruction of classes 000-010 that issues completes (R133). -/
theorem completes_alu {i : Instr} {s : State} {g : Group} (hi : Issues i s g) (hs : Shaped g) (hasD : Bool) (d : Operand) (w64 : Bool)
    (pd : Nat) (hpd : pd < 64) (f : Env → Nat → LaneOut)
    (he : exec i s = issue i (groupBody fun e g => g.alu e hasD d w64 pd (f e)) s)
    (hin : hasD = true → InFile g d w64) (hdst : hasD = true → ∀ r ∈ destOf d w64, r ∈ i.dsts)
    (hsr : hasD = true → ∀ r, d = .sr r → s.cur.sl = .c) : Completes i s g hasD d w64 pd (f (envOf i s g)) := by
  unfold Completes
  obtain ⟨h, h1, h2⟩ := issue_group hi fun e g => g.alu e hasD d w64 pd (f e)
  generalize hee : envOf i s g = e at *
  generalize hkk : h.alu e hasD d w64 pd (f e) = k at *
  have hregs : h.regs = g.regs := by rw [h1.rest]
  have hkm : OnlyPred (h.aluDest e hasD d w64 (f e)) k := hkk ▸ alu_mid h e hasD d w64 pd (f e)
  have hk : OnlyRegs h k := (aluDest_only h e hasD d w64 (f e)).trans hkm.only
  have hkp : k.paths = (h.aluDest e hasD d w64 (f e)).paths := by rw [hkm]
  have hpaths : k.paths.map (fun p => { p with exec := 0 }) = h.paths.map (fun p => { p with exec := 0 }) := by
    rw [hkp]; unfold Group.aluDest; split
    · exact writeD_paths _ _ _ _ _ _
    · rfl
  have ha : s.cur.sl = .a → k.paths = h.paths := by
    intro hc
    rw [hkp]; unfold Group.aluDest; split
    · rename_i hd
      cases d with
      | sr r => exact absurd (hsr hd r rfl) (by rw [hc]; decide)
      | v n => cases w64 <;> simp [Group.writeD]
      | s n => simp only [Group.writeD]; split <;> first | rfl | (cases w64 <;> rfl)
      | a n => simp only [Group.writeD]; split <;> rfl
      | _ => rfl
    · rfl
  generalize i.laneFlops * e.active.length = fl at *
  obtain ⟨x, z, hr⟩ := retire_eq k s.cur.sl fl
  have hrd : SameRead e.p.id (h.aluDest e hasD d w64 (f e)) (k.retire s.cur.sl false fl) := retire_sameRead hkm _ _ _
  have hgh := h1.sameRead e.p.id
  have hhg : SameRead e.p.id h g := ⟨hgh.regs.symm, hgh.path.symm⟩
  refine ⟨k.retire s.cur.sl false fl, by rw [he, h2], ?_, ?_, ?_, ?_⟩
  · intro hd
    have hin' : InFile h d w64 := by
      have := hin hd
      unfold InFile at *
      rw [hregs]; exact this
    refine hhg.writes hrd ?_
    unfold Group.aluDest
    rw [if_pos hd]
    refine writeD_writes e h d w64 _ hin' ?_
    intro r hr
    have hc := hsr hd r hr
    obtain ⟨p, hp⟩ := hi.path hc
    have hcp : e.p = p := by rw [← hee]; show g.curPath s.cur = p; unfold Group.curPath; rw [hc, hp]
    have hid : p.id = s.cur.p := by simpa using List.find?_some hp
    have hh := h1.path_held s.cur.p
    rw [hp] at hh
    cases hq : h.path s.cur.p with
    | none => rw [hq] at hh; exact absurd hh (by simp)
    | some p' =>
      rw [hq] at hh
      refine ⟨p', by rw [hcp, hid, hq], ?_⟩
      rw [hcp]; simpa using hh
  · intro n l hn hl
    have hp1 : k.pred n l = predAfter e h d pd (f e) n l :=
      hkk ▸ alu_pred h e hasD d w64 pd (f e) (by rw [hregs]; exact hs.p) hpd n l hn hl
    have hp2 : (k.retire s.cur.sl false fl).pred n l = k.pred n l := by rw [hr]; rfl
    have hp3 : ∀ n l, h.pred n l = g.pred n l := by intro n l; unfold Group.pred; rw [hregs]
    rw [hp2, hp1]
    unfold predAfter
    simp only [hp3]
  · unfold Group.aluDest at hrd
    by_cases hd : hasD = true
    · rw [if_pos hd] at hrd
      refine hhg.keeps hrd (hdst hd) (writeD_keepsRegs e h d w64 _ ?_)
      have := hin hd
      unfold InFile at *
      rw [hregs]; exact this
    · rw [if_neg hd] at hrd
      exact hhg.keeps hrd (ws := []) (by simp) ⟨fun _ _ _ _ => rfl, fun _ _ => rfl, fun _ _ => rfl, fun _ _ => rfl⟩
  · exact keepsRest_of h1 hk hpaths ha fl

end Sys2Proof.Machine
end

