-- ==== Sys2Proof/Laws/Dest.lean ====
section
/-! SUPPORT. What the legality of an operand gives (R53, R21, R133), and the lane-wise form of a completion. -/

namespace Sys2Proof.Machine

open Sys2Proof.Safety

/-- Every operand position of an instruction that issues is legal in its slice and group (R53). -/
theorem legal_use {i : Instr} {s : State} {g : Group} (h : decodeFault i g s = none) {u : Use} (hu : u ∈ i.uses) :
    u.ok g s.cur.sl (uniformMode i.uses) = true := by
  unfold decodeFault at h
  split at h
  · exact absurd h (by simp)
  · split at h
    · exact absurd h (by simp)
    · rename_i ho
      simp only [operandsOk, Bool.not_eq_true', Bool.not_eq_false, Bool.and_eq_true] at ho
      exact List.all_eq_true.1 ho.1.1.2 u hu

/-- A destination of classes 000-010 is legal: its registers lie in the files, it is among the instruction's destinations, and a
special register is the C-slice's (R21, R25, R133). -/
theorem dest_ok {i : Instr} {s : State} {g : Group} (h : decodeFault i g s = none) (hs : Shaped g) {d : Operand} {w64 : Bool} {al : Nat} {c : UseClass}
    (hc : c = .dst ∨ c = .vec ∨ c = .vs) (hu : (⟨d, c, if w64 then 2 else 1, al, true⟩ : Use) ∈ i.uses) :
    InFile g d w64 ∧ (∀ r ∈ destOf d w64, r ∈ i.dsts) ∧ ∀ r, d = .sr r → s.cur.sl = .c := by
  have ho := legal_use h hu
  have hm : ∀ r ∈ destOf d w64, r ∈ i.dsts := by
    intro r hr
    unfold Instr.dsts
    refine List.mem_append_left _ (List.mem_flatMap.2 ⟨_, List.mem_filter.2 ⟨hu, rfl⟩, ?_⟩)
    unfold destOf at hr
    unfold Use.refs
    rcases hc with rfl | rfl | rfl <;> cases d <;> cases w64 <;> simp_all [List.range_succ]
  refine ⟨?_, hm, ?_⟩
  · unfold Use.ok at ho
    unfold InFile
    rcases hc with rfl | rfl | rfl <;> cases d <;> simp only [Bool.and_eq_true, Use.fits, decide_eq_true_eq, Bool.false_eq_true] at ho ⊢
    all_goals first
      | (have := hs.v; omega)
      | (have := hs.s; have := hs.sbud; omega)
      | (rename_i n; have := hs.a; have := n.isLt; omega)
  · rintro r rfl
    unfold Use.ok at ho
    rcases hc with rfl | rfl | rfl <;> simp_all

/-- An instruction whose effect is `Group.alu` finishes with what its lanes give. -/
theorem finishes_alu {s : State} {g : Group} (hs : Shaped g) (i : Instr) (d : Operand) (w64 : Bool) (pd : Nat) (hpd : pd < 64)
    (R : Env → Nat → LaneOut → Prop) (f : Env → Nat → LaneOut) (he : exec i s = issue i (groupBody fun e g => g.alu e true d w64 pd (f e)) s)
    (al : Nat) (c : UseClass) (hc : c = .dst ∨ c = .vec ∨ c = .vs) (hu : (⟨d, c, if w64 then 2 else 1, al, true⟩ : Use) ∈ i.uses)
    (hR : i.wf = true → ∀ e l, l < 32 → R e l (f e l)) : Finishes s g i d w64 pd R := by
  intro hi
  obtain ⟨h1, h2, h3⟩ := dest_ok hi.legal hs hc hu
  exact ⟨f (envOf i s g), fun l hl => hR hi.wf _ l hl,
    completes_alu hi hs true d w64 pd hpd f he (fun _ => h1) (fun _ => h2) (fun _ => h3)⟩

end Sys2Proof.Machine
end

