-- ==== Sys2Proof/Laws/Encoding.lean ====
section
/-! SUPPORT. Encoding: the fields of each format are what was packed, and each code names what it encodes (R36-R42). -/

namespace Sys2Proof

theorem extract_append_high {n m : Nat} (x : BitVec n) (y : BitVec m) (s k : Nat) (h : m ≤ s) :
    (x ++ y).extractLsb' s k = x.extractLsb' (s - m) k := by
  apply BitVec.eq_of_getLsbD_eq
  intro i hi
  have : ¬ s + i < m := by omega
  simp only [BitVec.getLsbD_extractLsb', BitVec.getLsbD_append, this, hi, decide_true, Bool.true_and, ite_false]
  congr 1
  omega

theorem extract_append_low {n m : Nat} (x : BitVec n) (y : BitVec m) (s k : Nat) (h : s + k ≤ m) :
    (x ++ y).extractLsb' s k = y.extractLsb' s k := by
  apply BitVec.eq_of_getLsbD_eq
  intro i hi
  have : s + i < m := by omega
  simp [BitVec.getLsbD_append, this]

theorem extract_all {n : Nat} (x : BitVec n) : x.extractLsb' 0 n = x := by
  apply BitVec.eq_of_getLsbD_eq
  intro i hi
  simp [hi]

theorem FV.unpack_pack (f : FV) : FV.unpack f.pack = f := by
  cases f
  simp (disch := decide) only [FV.pack, FV.unpack, extract_append_high, extract_append_low, Nat.reduceSub, extract_all]
theorem FI.unpack_pack (f : FI) : FI.unpack f.pack = f := by
  cases f
  simp (disch := decide) only [FI.pack, FI.unpack, extract_append_high, extract_append_low, Nat.reduceSub, extract_all]
theorem FM.unpack_pack (f : FM) : FM.unpack f.pack = f := by
  cases f
  simp (disch := decide) only [FM.pack, FM.unpack, extract_append_high, extract_append_low, Nat.reduceSub, extract_all]
theorem FX.unpack_pack (f : FX) : FX.unpack f.pack = f := by
  cases f
  simp (disch := decide) only [FX.pack, FX.unpack, extract_append_high, extract_append_low, Nat.reduceSub, extract_all]
theorem FC.unpack_pack (f : FC) : FC.unpack f.pack = f := by
  cases f
  simp (disch := decide) only [FC.pack, FC.unpack, extract_append_high, extract_append_low, Nat.reduceSub, extract_all]
theorem FY.unpack_pack (f : FY) : FY.unpack f.pack = f := by
  cases f
  simp (disch := decide) only [FY.pack, FY.unpack, extract_append_high, extract_append_low, Nat.reduceSub, extract_all]
theorem FZ.unpack_pack (f : FZ) : FZ.unpack f.pack = f := by
  cases f
  simp (disch := decide) only [FZ.pack, FZ.unpack, extract_append_high, extract_append_low, Nat.reduceSub, extract_all]
theorem FV.op_pack (f : FV) : f.pack.extractLsb' 86 10 = f.op := congrArg FV.op f.unpack_pack
theorem FI.op_pack (f : FI) : f.pack.extractLsb' 86 10 = f.op := congrArg FI.op f.unpack_pack
theorem FM.op_pack (f : FM) : f.pack.extractLsb' 86 10 = f.op := congrArg FM.op f.unpack_pack
theorem FX.op_pack (f : FX) : f.pack.extractLsb' 86 10 = f.op := congrArg FX.op f.unpack_pack
theorem FC.op_pack (f : FC) : f.pack.extractLsb' 86 10 = f.op := congrArg FC.op f.unpack_pack
theorem FY.op_pack (f : FY) : f.pack.extractLsb' 86 10 = f.op := congrArg FY.op f.unpack_pack
theorem FZ.op_pack (f : FZ) : f.pack.extractLsb' 86 10 = f.op := congrArg FZ.op f.unpack_pack

@[simp] theorem SetF.ofCode_code (x : SetF) : SetF.ofCode x.code = some x := by cases x <;> rfl
@[simp] theorem Ty.ofCode_code (x : Ty) : Ty.ofCode x.code = some x := by cases x <;> rfl
@[simp] theorem Ord.ofCode_code (x : Ord) : Ord.ofCode x.code = some x := by cases x <;> rfl
@[simp] theorem Scope.ofCode_code (x : Scope) : Scope.ofCode x.code = some x := by cases x <;> rfl
@[simp] theorem CacheP.ofCode_code (x : CacheP) : CacheP.ofCode x.code = some x := by cases x <;> rfl
@[simp] theorem Width.ofCode_code (x : Width) : Width.ofCode x.code = some x := by cases x <;> rfl
@[simp] theorem Rnd.ofCode_code (x : Rnd) : Rnd.ofCode x.code = some x := by cases x <;> rfl
@[simp] theorem CmpOp.ofCode_code (x : CmpOp) : CmpOp.ofCode x.code = some x := by cases x <;> rfl
@[simp] theorem Combine.ofCode_code (x : Combine) : Combine.ofCode x.code = some x := by cases x <;> rfl
@[simp] theorem VoteMode.ofCode_code (x : VoteMode) : VoteMode.ofCode x.code = some x := by cases x <;> rfl
@[simp] theorem ShflMode.ofCode_code (x : ShflMode) : ShflMode.ofCode x.code = some x := by cases x <;> rfl
@[simp] theorem RedOp.ofCode_code (x : RedOp) : RedOp.ofCode x.code = some x := by cases x <;> rfl
@[simp] theorem Space.ofCode_code (x : Space) : Space.ofCode x.code = some x := by cases x <;> rfl
@[simp] theorem AtomOp.ofCode_code (x : AtomOp) : AtomOp.ofCode x.code = some x := by cases x <;> rfl
@[simp] theorem FeOp.ofCode_code (x : FeOp) : FeOp.ofCode x.code = some x := by cases x <;> rfl
@[simp] theorem KvRows.ofCode_code (x : KvRows) : KvRows.ofCode x.code = some x := by cases x <;> rfl
@[simp] theorem ObjKind.ofCode_code (x : ObjKind) : ObjKind.ofCode x.code = some x := by cases x <;> rfl
@[simp] theorem ObjOp.ofCode_code (x : ObjOp) : ObjOp.ofCode x.code = some x := by cases x <;> rfl
@[simp] theorem SredOp.ofCode_code (x : SredOp) : SredOp.ofCode x.code = some x := by cases x <;> rfl
@[simp] theorem RowFmt.ofCode_code (x : RowFmt) : RowFmt.ofCode x.code = some x := by cases x <;> rfl
@[simp] theorem TrapReg.ofCode_code (x : TrapReg) : TrapReg.ofCode x.code = some x := by cases x <;> rfl
@[simp] theorem SReg.ofCode_code (x : SReg) : SReg.ofCode x.code = some x := by cases x <;> rfl

@[simp] theorem bitOf_ofBit (b : Bool) : bitOf (ofBit b) = b := by cases b <;> rfl

@[simp] theorem headOf_code (h : Head) : headOf h.g.p (ofBit h.g.neg) h.setf.code = some h := by
  simp [headOf, guardOf]

@[simp] theorem ordScopeOf_code (o : OrdScope) : ordScopeOf o.ord.code o.scope.code = some o := by
  simp [ordScopeOf]

/-- A code names the operand that it encodes (R42). -/
theorem Operand.ofCode_code (o : Operand) (h : o.ok = true) : Operand.ofCode o.code = o := by
  cases o with
  | v n => clear h; revert n; decide
  | s n => clear h; revert n; decide
  | a n => clear h; revert n; decide
  | q n => clear h; revert n; decide
  | qb => rfl
  | sr r => cases r <;> rfl
  | const k => clear h; revert k; decide
  | unassigned c => revert c; decide

end Sys2Proof
end

