-- ==== Sys2Proof/Laws/Memory.lean ====
section
/-! SUPPORT. Memory: a read after a write, the canonical form kept by every memory operation (log 2). -/

namespace Sys2Proof.Machine

theorem Mem.wfFrom_mono {lo lo' : Nat} {m : Mem} (h : lo ≤ lo') (w : Mem.wfFrom lo' m = true) : Mem.wfFrom lo m = true := by
  cases m with
  | nil => rfl
  | cons p m =>
    simp only [Mem.wfFrom, Bool.and_eq_true, decide_eq_true_eq] at w ⊢
    exact ⟨⟨by omega, w.1.2⟩, w.2⟩

theorem Mem.wfFrom_cons {lo a : Nat} {x : Byte} {m : Mem} (h : lo ≤ a) (w : Mem.wfFrom (a + 1) m = true) :
    Mem.wfFrom lo (Mem.cons a x m) = true := by
  unfold Mem.cons
  split
  · exact Mem.wfFrom_mono (by omega) w
  · simp [Mem.wfFrom, *]

/-- A write at or above a bound keeps the canonical form from that bound. -/
theorem Mem.wfFrom_set {m : Mem} : ∀ {lo a : Nat} {x : Byte}, lo ≤ a → Mem.wfFrom lo m = true → Mem.wfFrom lo (Mem.set m a x) = true := by
  induction m with
  | nil => intro lo a x h _; exact Mem.wfFrom_cons h rfl
  | cons p m ih =>
    intro lo a x h w
    obtain ⟨k, b⟩ := p
    have w' := w
    simp only [Mem.wfFrom, Bool.and_eq_true, decide_eq_true_eq] at w'
    unfold Mem.set
    split
    · refine Mem.wfFrom_cons h ?_
      simp only [Mem.wfFrom, Bool.and_eq_true, decide_eq_true_eq]
      exact ⟨⟨by omega, w'.1.2⟩, w'.2⟩
    · split
      · subst a; exact Mem.wfFrom_cons h w'.2
      · simp only [Mem.wfFrom, Bool.and_eq_true, decide_eq_true_eq]
        exact ⟨⟨w'.1.1, w'.1.2⟩, ih (by omega) w'.2⟩

/-- Writing a byte keeps the canonical form. -/
theorem Memory.wf_set {m : Mem} (a : Nat) (x : Byte) (w : Memory.wf m = true) : Memory.wf (Mem.set m a x) = true :=
  Mem.wfFrom_set (Nat.zero_le a) w

/-- Writing bytes keeps the canonical form. -/
theorem Memory.wf_setAll (kvs : List (Nat × Byte)) : ∀ {m : Mem}, Memory.wf m = true → Memory.wf (m.setAll kvs) = true := by
  induction kvs with
  | nil => intro m w; exact w
  | cons p r ih => intro m w; exact ih (Memory.wf_set p.1 p.2 w)

theorem Memory.wf_setBytes {m : Mem} (k : Nat) (bs : List Byte) (w : Memory.wf m = true) : Memory.wf (m.setBytes k bs) = true :=
  Memory.wf_setAll _ w

theorem Memory.wf_setNum {m : Mem} (k n v : Nat) (w : Memory.wf m = true) : Memory.wf (m.setNum k n v) = true :=
  Memory.wf_setBytes _ _ w

/-- Dropping bytes keeps the canonical form. -/
theorem Mem.wfFrom_filter (f : Host.Cell → Bool) : ∀ {m : Mem} {lo : Nat}, Mem.wfFrom lo m = true → Mem.wfFrom lo (m.filter f) = true := by
  intro m
  induction m with
  | nil => intro _ w; exact w
  | cons p m ih =>
    intro lo w
    have w' := w
    simp only [Mem.wfFrom, Bool.and_eq_true, decide_eq_true_eq] at w'
    rw [List.filter_cons]
    split
    · simp only [Mem.wfFrom, Bool.and_eq_true, decide_eq_true_eq]
      exact ⟨w'.1, ih w'.2⟩
    · exact Mem.wfFrom_mono (by omega) (ih w'.2)

theorem Memory.wf_filter {m : Mem} (f : Host.Cell → Bool) (w : Memory.wf m = true) : Memory.wf (m.filter f) = true :=
  Mem.wfFrom_filter f w

/-- Every write of the machine keeps the canonical form. -/
theorem State.wf_write (s : State) (kvs : List (Nat × Byte)) (w : Memory.wf s.mem = true) : Memory.wf (s.write kvs).mem = true :=
  Memory.wf_setAll kvs w

theorem State.wf_writeNum (s : State) (k n v : Nat) (w : Memory.wf s.mem = true) : Memory.wf (s.writeNum k n v).mem = true :=
  State.wf_write _ _ w

theorem State.wf_writeBytes (s : State) (k : Nat) (bs : List Byte) (w : Memory.wf s.mem = true) : Memory.wf (s.writeBytes k bs).mem = true :=
  State.wf_write _ _ w

theorem Memory.wf_reset : Memory.wf State.reset.mem = true := rfl

/-! ## A read after a write -/

/-- Below its first address a memory reads as unlisted. -/
theorem Mem.get_below {m : Mem} {lo a : Nat} (w : Mem.wfFrom lo m = true) (h : a < lo) : Mem.get m a = unlisted := by
  cases m with
  | nil => rfl
  | cons p m =>
    simp only [Mem.wfFrom, Bool.and_eq_true, decide_eq_true_eq] at w
    unfold Mem.get
    rw [if_pos (by omega)]

theorem Mem.get_cons_self {m : Mem} {a : Nat} {x : Byte} (w : Mem.wfFrom (a + 1) m = true) : Mem.get (Mem.cons a x m) a = x := by
  unfold Mem.cons
  split
  · rename_i h; rw [Mem.get_below w (by omega), h]
  · simp [Mem.get]

theorem Mem.get_cons_other {m : Mem} {a b : Nat} {x : Byte} (w : Mem.wfFrom (a + 1) m = true) (h : b ≠ a) :
    Mem.get (Mem.cons a x m) b = Mem.get m b := by
  unfold Mem.cons
  split
  · rfl
  · show (if b < a then unlisted else if b = a then x else Mem.get m b) = _
    split
    · rw [Mem.get_below w (by omega)]
    · rfl

/-- A byte reads back as it was written. -/
theorem Mem.get_set_self {m : Mem} : ∀ {lo a : Nat} {x : Byte}, Mem.wfFrom lo m = true → Mem.get (Mem.set m a x) a = x := by
  induction m with
  | nil => intro lo a x _; exact Mem.get_cons_self rfl
  | cons p m ih =>
    intro lo a x w
    obtain ⟨k, b⟩ := p
    simp only [Mem.wfFrom, Bool.and_eq_true, decide_eq_true_eq] at w
    unfold Mem.set
    split
    · refine Mem.get_cons_self ?_
      simp only [Mem.wfFrom, Bool.and_eq_true, decide_eq_true_eq]
      exact ⟨⟨by omega, w.1.2⟩, w.2⟩
    · split
      · subst a; exact Mem.get_cons_self w.2
      · simp only [Mem.get]
        rw [if_neg (by omega), if_neg ‹_›, ih w.2]

/-- Every other byte reads as before. -/
theorem Mem.get_set_other {m : Mem} : ∀ {lo a b : Nat} {x : Byte}, Mem.wfFrom lo m = true → b ≠ a →
    Mem.get (Mem.set m a x) b = Mem.get m b := by
  induction m with
  | nil => intro lo a b x _ h; exact Mem.get_cons_other rfl h
  | cons p m ih =>
    intro lo a b x w h
    obtain ⟨k, c⟩ := p
    have w' := w
    simp only [Mem.wfFrom, Bool.and_eq_true, decide_eq_true_eq] at w'
    unfold Mem.set
    split
    · refine Mem.get_cons_other ?_ h
      simp only [Mem.wfFrom, Bool.and_eq_true, decide_eq_true_eq]
      exact ⟨⟨by omega, w'.1.2⟩, w'.2⟩
    · split
      · subst a
        rw [Mem.get_cons_other w'.2 h]
        simp only [Mem.get]
        split
        · exact Mem.get_below w'.2 (by omega)
        · rfl
      · simp only [Mem.get]
        rw [ih w'.2 h]

/-- A byte that no pair of a list of writes names reads as before. -/
theorem Mem.get_setAll_other (kvs : List (Nat × Byte)) : ∀ {m : Mem} {b : Nat}, Memory.wf m = true → (∀ p ∈ kvs, p.1 ≠ b) →
    Mem.get (m.setAll kvs) b = Mem.get m b := by
  induction kvs with
  | nil => intro m b _ _; rfl
  | cons p r ih =>
    intro m b w h
    show Mem.get ((Mem.set m p.1 p.2).setAll r) b = _
    rw [ih (Memory.wf_set p.1 p.2 w) (fun q hq => h q (List.mem_cons_of_mem _ hq)),
      Mem.get_set_other w (Ne.symm (h p List.mem_cons_self))]

/-- The last of a list of writes to a byte is what it reads as. -/
theorem Mem.get_setAll_last (kvs r : List (Nat × Byte)) (a : Nat) (x : Byte) : ∀ {m : Mem}, Memory.wf m = true → (∀ p ∈ r, p.1 ≠ a) →
    Mem.get (m.setAll (kvs ++ (a, x) :: r)) a = x := by
  induction kvs with
  | nil =>
    intro m w h
    show Mem.get ((Mem.set m a x).setAll r) a = x
    rw [Mem.get_setAll_other r (Memory.wf_set a x w) h, Mem.get_set_self w]
  | cons p q ih => intro m w h; exact ih (Memory.wf_set p.1 p.2 w) h

/-- Canonical memories that read alike are equal. -/
theorem Mem.ext_get : ∀ {m n : Mem} {lo : Nat}, Mem.wfFrom lo m = true → Mem.wfFrom lo n = true →
    (∀ a, Mem.get m a = Mem.get n a) → m = n := by
  intro m
  induction m with
  | nil =>
    intro n lo _ wn h
    cases n with
    | nil => rfl
    | cons q n =>
      simp only [Mem.wfFrom, Bool.and_eq_true, decide_eq_true_eq] at wn
      have := h q.1
      simp only [Mem.get, Nat.lt_irrefl, ↓reduceIte] at this
      exact absurd this.symm wn.1.2
  | cons p m ih =>
    intro n lo wm wn h
    obtain ⟨k, b⟩ := p
    cases n with
    | nil =>
      simp only [Mem.wfFrom, Bool.and_eq_true, decide_eq_true_eq] at wm
      have := h k
      simp only [Mem.get, Nat.lt_irrefl, ↓reduceIte] at this
      exact absurd this wm.1.2
    | cons q n =>
      obtain ⟨j, c⟩ := q
      simp only [Mem.wfFrom, Bool.and_eq_true, decide_eq_true_eq] at wm wn
      have hk : k = j := by
        rcases Nat.lt_trichotomy k j with g | g | g
        · have := h k
          simp only [Mem.get, Nat.lt_irrefl, ↓reduceIte, if_pos g] at this
          exact absurd this wm.1.2
        · exact g
        · have := h j
          simp only [Mem.get, Nat.lt_irrefl, ↓reduceIte, if_pos g] at this
          exact absurd this.symm wn.1.2
      subst hk
      have hb : b = c := by
        have := h k
        simpa [Mem.get] using this
      subst hb
      congr 1
      refine ih wm.2 wn.2 fun a => ?_
      by_cases ha : a ≤ k
      · rw [Mem.get_below wm.2 (by omega), Mem.get_below wn.2 (by omega)]
      · have := h a
        simp only [Mem.get] at this
        rwa [if_neg (by omega), if_neg (by omega), if_neg (by omega), if_neg (by omega)] at this

end Sys2Proof.Machine
end

