-- ==== Sys2Proof/Laws/Ops.lean ====
section
/-! SUPPORT. What the shared operations of `Machine/Ops.lean` can do: what each leaves unchanged, and that memory keeps its
canonical form through each of them. -/

namespace Sys2Proof.Machine

open Sys2Proof.Safety

/-! ## Operations in flight (R48, R227) -/

/-- A raised flag changes the flags alone. -/
theorem Group.raiseFlag_frame (g : Group) (f : Option Nat) : g.raiseFlag f = { g with flags := (g.raiseFlag f).flags } := by
  cases f <;> rfl

/-- A lowered flag changes the flags alone. -/
theorem Group.lowerFlag_frame (g : Group) (f : Option Nat) : g.lowerFlag f = { g with flags := (g.lowerFlag f).flags } := by
  cases f <;> rfl

/-- A new operation changes the operations in flight, the flags and the acknowledgement counter, and is the last in flight. -/
theorem Group.addOp_frame (g : Group) (o : Op) :
    g.addOp o = { g with ops := g.ops ++ [o], flags := (g.addOp o).flags, acks := if o.counted then g.acks + 1 else g.acks } := by
  unfold Group.addOp
  rw [Group.raiseFlag_frame (g.raiseFlag o.flag), Group.raiseFlag_frame g]

/-- A buffered operation changes the commit buffer, the flags and the acknowledgement counter, and is the last in the buffer. -/
theorem Group.bufOp_frame (g : Group) (o : Op) :
    g.bufOp o = { g with cbuf := g.cbuf ++ [o], flags := (g.bufOp o).flags, acks := if o.counted then g.acks + 1 else g.acks } := by
  unfold Group.bufOp
  rw [Group.raiseFlag_frame (g.raiseFlag o.flag), Group.raiseFlag_frame g]

/-- A finished operation changes the operations in flight, the flags and the acknowledgement counter, and is in flight no more. -/
theorem Group.dropOp_frame (g : Group) (o : Op) :
    g.dropOp o = { g with ops := g.ops.filter (fun p => p.id != o.id), flags := (g.dropOp o).flags, acks := if o.counted then g.acks - 1 else g.acks } := by
  unfold Group.dropOp
  rw [Group.lowerFlag_frame (g.lowerFlag o.flag), Group.lowerFlag_frame g]

/-! ## Writes by any agent (R278) -/

/-- A note of a write changes what a path waits for, and nothing else of it. -/
theorem Path.noteWrite_frame (p : Path) (ls : List Nat) : p.noteWrite ls = { p with st := (p.noteWrite ls).st } := by
  unfold Path.noteWrite
  split <;> rfl

/-- A write changes memory and the watches of the paths, and nothing else. -/
theorem State.write_frame (s : State) (kvs : List (Nat × Byte)) :
    s.write kvs = { s with mem := s.mem.setAll kvs, groups := (s.write kvs).groups } := rfl

/-- A byte outside the written keys reads as before. -/
theorem State.get_write_other (s : State) (kvs : List (Nat × Byte)) (b : Nat) (w : Memory.wf s.mem = true) (h : ∀ p ∈ kvs, p.1 ≠ b) :
    (s.write kvs).mem.get b = s.mem.get b := Mem.get_setAll_other kvs w h

/-- A group keeps all but the watches of its paths through a write. -/
theorem State.group_write (s : State) (kvs : List (Nat × Byte)) (k : Nat) :
    (s.write kvs).groups[k]? = (s.groups[k]?).map fun g => g.noteWrite ((kvs.map fun q => lineOf q.1).eraseDups) := by
  simp [State.write]

/-! ## The caches of translations and windows (R326, R332) -/

/-- Contexts stay equal but for their window caches when one takes another's place that is. -/
theorem set_blankCaches (cs : List Context) (k : Nat) (c : Context) (h : blankCaches c = blankCaches (cs.getD k {})) :
    (cs.set k c).map blankCaches = cs.map blankCaches := by
  apply List.ext_getElem?
  intro n
  by_cases hn : n = k
  · subst hn
    by_cases hl : n < cs.length
    · have e : cs.getD n {} = cs[n] := by simp [hl]
      rw [e] at h
      simp [hl, h]
    · simp [Nat.not_lt.1 hl]
  · simp [List.getElem?_set_ne (Ne.symm hn)]

/-- A cached window changes the contexts' window caches alone. -/
theorem State.noteWin_frame (s : State) (slot va : Nat) :
    s.noteWin slot va = { s with ctxs := (s.noteWin slot va).ctxs } ∧ (s.noteWin slot va).ctxs.map blankCaches = s.ctxs.map blankCaches := by
  unfold State.noteWin
  simp only
  split
  · exact ⟨rfl, rfl⟩
  · exact ⟨rfl, set_blankCaches _ _ _ rfl⟩

/-- A translation that is held changes the two levels of translation buffers alone. -/
theorem State.noteTlb_frame (s : State) (cl slot va : Nat) : s.noteTlb cl slot va = { s with tlbs := (s.noteTlb cl slot va).tlbs } := by
  unfold State.noteTlb
  split <;> rfl

/-- Translations that are held change the translation buffers alone. -/
theorem State.noteTlbs_frame (cl slot : Nat) (vas : List Nat) : ∀ s : State,
    s.noteTlbs cl slot vas = { s with tlbs := (s.noteTlbs cl slot vas).tlbs } := by
  induction vas with
  | nil => intro s; rfl
  | cons v r ih =>
    intro s
    have e : s.noteTlbs cl slot (v :: r) = (s.noteTlb cl slot v).noteTlbs cl slot r := rfl
    rw [e, ih, State.noteTlb_frame]

/-- The translations and windows that an access used change the caches alone. -/
theorem State.noteAcc_frame (s : State) (g : Group) (sp : MSpace) (acc : List (Nat × Nat × Nat)) :
    s.noteAcc g sp acc = { s with ctxs := (s.noteAcc g sp acc).ctxs, tlbs := (s.noteAcc g sp acc).tlbs } ∧
      (s.noteAcc g sp acc).ctxs.map blankCaches = s.ctxs.map blankCaches := by
  cases sp with
  | x =>
    simp only [State.noteAcc]
    induction acc generalizing s with
    | nil => exact ⟨rfl, rfl⟩
    | cons p r ih =>
      obtain ⟨h1, h2⟩ := State.noteWin_frame s g.slot p.2.1
      obtain ⟨h3, h4⟩ := ih (s.noteWin g.slot p.2.1)
      rw [List.foldl_cons]
      refine ⟨?_, h4.trans h2⟩
      rw [h3, h1]
  | _ => simp only [State.noteAcc]; rw [State.noteTlbs_frame]; exact ⟨rfl, rfl⟩

/-! ## The vector, the records and the freeze (R330, R331, R346, R347) -/

/-- The vector changes its context's fields alone. -/
theorem State.raiseMsix_frame (s : State) (slot : Nat) : s.raiseMsix slot = { s with ctxs := (s.raiseMsix slot).ctxs } := by
  unfold State.raiseMsix
  simp only
  split <;> rfl

@[simp] theorem State.raiseMsix_mem (s : State) (slot : Nat) : (s.raiseMsix slot).mem = s.mem := by rw [State.raiseMsix_frame]
@[simp] theorem State.raiseMsix_groups (s : State) (slot : Nat) : (s.raiseMsix slot).groups = s.groups := by rw [State.raiseMsix_frame]

/-- A freeze changes the contexts alone: no memory, no group. -/
theorem State.freeze_frame (s : State) (slot code master who addr pc : Nat) :
    s.freeze slot code master who addr pc = { s with ctxs := (s.freeze slot code master who addr pc).ctxs } := by
  unfold State.freeze
  simp only
  split
  · rw [State.raiseMsix_frame]; rfl
  · rfl
  · rfl

@[simp] theorem State.freeze_mem (s : State) (slot code master who addr pc : Nat) : (s.freeze slot code master who addr pc).mem = s.mem := by
  rw [State.freeze_frame]
@[simp] theorem State.freeze_groups (s : State) (slot code master who addr pc : Nat) :
    (s.freeze slot code master who addr pc).groups = s.groups := by rw [State.freeze_frame]

/-- A record is two writes, then the vector (R346). -/
theorem State.writeRec_eq (s : State) (slot : Nat) (r : Rec) :
    ∃ kvs h n, (s.writeRec slot r).2 = ((s.write kvs).writeNum h 4 n).raiseMsix slot := ⟨_, _, _, rfl⟩

/-- A record changes memory, the watches of paths and the context's vector, and nothing else. -/
theorem State.writeRec_frame (s : State) (slot : Nat) (r : Rec) : (s.writeRec slot r).2 =
    { s with mem := (s.writeRec slot r).2.mem, groups := (s.writeRec slot r).2.groups, ctxs := (s.writeRec slot r).2.ctxs } := by
  obtain ⟨kvs, h, n, e⟩ := State.writeRec_eq s slot r
  rw [e, State.raiseMsix_frame]
  rfl

/-- A fatal or notice record changes memory, the watches of paths and the context's vector, and nothing else. -/
theorem State.post_frame (s : State) (slot : Nat) (r : Rec) :
    s.post slot r = { s with mem := (s.post slot r).mem, groups := (s.post slot r).groups, ctxs := (s.post slot r).ctxs } := by
  unfold State.post
  simp only
  split
  · exact State.writeRec_frame s slot r
  · rfl

/-! ## Memory keeps its canonical form -/

theorem State.wf_writeV {s t : State} {cl slot va n v : Nat} (h : s.writeV cl slot va n v = .ok t) (w : Memory.wf s.mem = true) :
    Memory.wf t.mem = true := by
  unfold State.writeV at h
  split at h
  · cases h; exact State.wf_write _ _ w
  · cases h

theorem State.wf_writeRec (s : State) (slot : Nat) (r : Rec) (w : Memory.wf s.mem = true) : Memory.wf (s.writeRec slot r).2.mem = true := by
  obtain ⟨kvs, h, n, e⟩ := State.writeRec_eq s slot r
  rw [e, State.raiseMsix_mem]
  exact State.wf_writeNum _ _ _ _ (State.wf_write _ _ w)

theorem State.wf_post (s : State) (slot : Nat) (r : Rec) (w : Memory.wf s.mem = true) : Memory.wf (s.post slot r).mem = true := by
  unfold State.post
  simp only
  split
  · exact State.wf_writeRec s slot r w
  · exact State.wf_writeNum _ _ _ _ w

theorem State.wf_writeFrame (s : State) (g : Group) (f : Frame) (save : Bool) (ents : List REntry) (ps : List Path)
    (w : Memory.wf s.mem = true) : Memory.wf (s.writeFrame g f save ents ps).mem = true := by
  unfold State.writeFrame
  exact State.wf_writeBytes _ _ _ (State.wf_writeBytes _ _ _ (State.wf_writeBytes _ _ _ w))

theorem State.wf_syncHstate (s : State) (gi n : Nat) (w : Memory.wf s.mem = true) : Memory.wf (s.syncHstate gi n).mem = true := by
  unfold State.syncHstate
  split
  · split
    · exact State.wf_writeNum _ _ _ _ w
    · exact w
  · exact w

/-- A replayable record leaves memory as it was, or as `writeRec` leaves it (R347). -/
theorem State.postReplayable_mem (s : State) (gi : Nat) :
    (s.postReplayable gi).mem = s.mem ∨ ∃ slot r, (s.postReplayable gi).mem = (s.writeRec slot r).2.mem := by
  unfold State.postReplayable
  split
  · split
    · simp only
      split
      · exact .inr ⟨_, _, by rw [State.setG_mem, State.setCtx_mem]⟩
      · exact .inl rfl
    · exact .inl rfl
  · exact .inl rfl

theorem State.wf_postReplayable (s : State) (gi : Nat) (w : Memory.wf s.mem = true) : Memory.wf (s.postReplayable gi).mem = true := by
  obtain h | ⟨slot, r, h⟩ := State.postReplayable_mem s gi
  · rw [h]; exact w
  · rw [h]; exact State.wf_writeRec s slot r w

theorem State.wf_stopReplayable (s : State) (gi : Nat) (f : FaultInfo) (pc pid : Nat) (w : Memory.wf s.mem = true) :
    Memory.wf (s.stopReplayable gi f pc pid).mem = true := by
  unfold State.stopReplayable
  exact State.wf_postReplayable _ gi (by rw [State.mapG_mem]; exact w)

/-- A fatal record and its freeze keep memory's canonical form (R340). -/
theorem State.wf_fatal (s : State) (slot : Nat) (r : Rec) (code master who addr pc gi : Nat) (f : Group → Group)
    (w : Memory.wf s.mem = true) : Memory.wf (((s.post slot r).freeze slot code master who addr pc).mapG gi f).mem = true := by
  rw [State.mapG_mem, State.freeze_mem]
  exact State.wf_post _ _ _ w

theorem State.wf_deliver (s : State) (gi : Nat) (f : FaultInfo) (fpc : Nat) (w : Memory.wf s.mem = true) :
    Memory.wf (s.deliver gi f fpc).mem = true := by
  unfold State.deliver
  split
  · exact w
  · extract_lets tv cls marked code t
    split
    · exact State.wf_syncHstate _ _ _ (by rw [State.setG_mem]; exact w)
    · exact State.wf_fatal _ _ _ _ _ _ _ _ _ _ w

/-- Taking a trap keeps memory's canonical form (R339). -/
theorem State.wf_takeTrap (s : State) (gi : Nat) (w : Memory.wf s.mem = true) : Memory.wf (s.takeTrap gi).mem = true := by
  unfold State.takeTrap
  split
  · exact w
  · split
    · split
      · exact w
      · exact State.wf_deliver _ _ _ _ (State.wf_writeFrame _ _ _ _ _ _ (by rw [State.setG_mem]; exact w))
    · exact w

/-- A fault keeps memory's canonical form (R338). -/
theorem State.wf_raise (s : State) (gi : Nat) (f : FaultInfo) (fpc cpc pid : Nat) (w : Memory.wf s.mem = true) :
    Memory.wf (s.raise gi f fpc cpc pid).mem = true := by
  unfold State.raise
  split
  · exact w
  · split
    · exact State.wf_stopReplayable _ _ _ _ _ w
    · simpa using w
    · exact State.wf_takeTrap _ _ (by rw [State.setG_mem]; exact w)

/-- A load injected again changes its group, the identifiers and the caches, and nothing else (R344). -/
theorem State.inject_frame (s : State) (gi : Nat) (o : Op) : s.inject gi o =
    { s with groups := (s.inject gi o).groups, nextId := (s.inject gi o).nextId, ctxs := (s.inject gi o).ctxs, tlbs := (s.inject gi o).tlbs } := by
  unfold State.inject
  split
  · rfl
  · split
    · simp only
      rw [(State.noteAcc_frame _ _ _ _).1]
      rfl
    · rfl

theorem State.reinjectAll_mem (gi live : Nat) (rq : List (RqEntry × Nat)) : ∀ s : State, (s.reinjectAll gi live rq).mem = s.mem := by
  induction rq with
  | nil => intro s; rfl
  | cons p r ih =>
    intro s
    have e : ∀ x : State, x.reinjectAll gi live (p :: r) = State.reinjectAll (if live / 2 ^ p.2 % 2 = 1 ∧ (p.1.st = 1 ∨ p.1.st = 2) then
      x.inject gi p.1.op else x) gi live r := fun _ => rfl
    rw [e, ih]
    split
    · rw [State.inject_frame]
    · rfl

/-- A return from a trap keeps memory's canonical form (R351). -/
theorem State.wf_trapReturn (s : State) (gi : Nat) (w : Memory.wf s.mem = true) : Memory.wf (s.trapReturn gi).mem = true := by
  unfold State.trapReturn
  split
  · exact w
  · split
    · exact w
    · apply State.wf_syncHstate
      rw [State.reinjectAll_mem, State.setG_mem]
      exact w

/-- A timer keeps memory's canonical form (R29). -/
theorem State.wf_takeTimer (s : State) (gi : Nat) (w : Memory.wf s.mem = true) : Memory.wf (s.takeTimer gi).mem = true := by
  unfold State.takeTimer
  split
  · exact w
  · split
    · exact State.wf_syncHstate _ _ _ (by rw [State.setG_mem]; exact w)
    · split
      · exact w
      · exact State.wf_raise _ _ _ _ _ _ (by rw [State.setG_mem]; exact w)

end Sys2Proof.Machine
end

