-- ==== Sys2Proof/Laws/Values.lean ====
section
/-! SUPPORT. The model's value functions of classes 000-010 as bit-vector operations (R109, R134, R135, R138, R140). -/

namespace Sys2Proof.Machine

open Sys2Proof.Safety

theorem bits_pos (ty : Ty) : 0 < ty.bits := by cases ty <;> decide

/-- A source's integer (R109, R135). -/
theorem intOf_eq (ty : Ty) (x : DWord) : intOf ty x.toNat = integer ty x := by
  unfold intOf integer
  rw [BitVec.toInt_eq_toNat_cond, BitVec.toNat_setWidth]
  obtain ⟨w, hw⟩ : ∃ w, ty.bits = w + 1 := ⟨ty.bits - 1, by have := bits_pos ty; omega⟩
  rw [hw]
  simp only [Nat.add_sub_cancel]
  have hp : (2 : Nat) ^ (w + 1) = 2 * 2 ^ w := by rw [Nat.pow_succ]; omega
  have hpi : (2 : Int) ^ (w + 1) = ((2 ^ (w + 1) : Nat) : Int) := by norm_cast
  rw [hpi, hp]
  cases ty.isSigned
  · simp
  · simp only [true_and, if_true]
    split <;> split <;> omega

/-- A result's wrapping and extension (R135, R138). -/
theorem extInt_eq (ty : Ty) (v : Int) : extInt ty v = wrapped ty v := by
  unfold extInt
  have h0 : ((BitVec.ofInt ty.bits v).setWidth 64).toNat % 2 ^ ty.bits = (v % 2 ^ ty.bits).toNat % 2 ^ ty.bits := by
    rw [BitVec.toNat_setWidth, BitVec.toNat_ofInt]
    have hb : ty.bits ≤ 64 := by cases ty <;> decide
    have h64 : 2 ^ ty.bits ∣ 2 ^ 64 := Nat.pow_dvd_pow 2 hb
    rw [Nat.mod_mod_of_dvd _ h64]
    norm_cast
  have h1 : intOf ty (v % 2 ^ ty.bits).toNat = intOf ty ((BitVec.ofInt ty.bits v).setWidth 64).toNat := by
    unfold intOf; rw [h0]
  have hb : ty.bits ≤ 64 := by cases ty <;> decide
  rw [h1, intOf_eq]
  unfold integer wrapped
  rw [BitVec.setWidth_setWidth_of_le _ hb, BitVec.setWidth_eq]
  cases ty.isSigned
  · simp only [Bool.false_eq_true, if_false]
    apply BitVec.eq_of_toNat_eq
    rw [BitVec.toNat_ofInt, BitVec.toNat_setWidth]
    norm_cast
  · rfl

/-- sat() of an integer type (R138). -/
theorem satInt_eq (ty : Ty) (v : Int) : satInt ty v = clamped ty v := by
  unfold satInt clamped Ty.lo Ty.hi
  cases ty.isSigned <;> rfl

end Sys2Proof.Machine
end

