-- ==== Sys2Proof/Tests/Slice0.lean ====
section
/-! SUPPORT. The model's own tests: words, ill-formed terms, one step on small states, and a state that meets the hypotheses of each statement. -/

open Sys2Proof Sys2Proof.Machine Sys2Proof.Safety Sys2Proof.Claims

set_option maxRecDepth 100000

namespace Sys2Proof.Tests

/-! ## Words (R36-R44, R54)

Each word is written out from the spec's encoding tables: the layout of its format, its opcode, the codes of its operands, and the fields of its chapter. -/

/-- One word of each integer constructor. -/
theorem test_words_integer_1 : ∀ r ∈ ([
    (0x000582615C30040000000000, .iadd ⟨⟨5, true⟩, .b⟩ .i8 (.v 9) (.s 10) (.const 3)),
    (0x004582614000040089ABCDEF, .iaddI ⟨⟨5, true⟩, .b⟩ .i8 (.v 9) (.s 10) 0x89ABCDEF),
    (0x008582615C3004A000000000, .isub ⟨⟨5, true⟩, .b⟩ .n16 (.v 9) (.s 10) (.const 3)),
    (0x00C58261400004A089ABCDEF, .isubI ⟨⟨5, true⟩, .b⟩ .n16 (.v 9) (.s 10) 0x89ABCDEF),
    (0x018582615C30042000000000, .iadds ⟨⟨5, true⟩, .b⟩ .i16 (.v 9) (.s 10) (.const 3)),
    (0x01C582614000042089ABCDEF, .iaddsI ⟨⟨5, true⟩, .b⟩ .i16 (.v 9) (.s 10) 0x89ABCDEF),
    (0x020582615C30048000000000, .isubs ⟨⟨5, true⟩, .b⟩ .n8 (.v 9) (.s 10) (.const 3)),
    (0x024582614000048089ABCDEF, .isubsI ⟨⟨5, true⟩, .b⟩ .n8 (.v 9) (.s 10) 0x89ABCDEF),
    (0x028582615C30046000000000, .imul ⟨⟨5, true⟩, .b⟩ .i64 (.v 9) (.s 10) (.const 3)),
    (0x02C582614000046089ABCDEF, .imulI ⟨⟨5, true⟩, .b⟩ .i64 (.v 9) (.s 10) 0x89ABCDEF),
    (0x030582615C3004E000000000, .imulh ⟨⟨5, true⟩, .b⟩ .n64 (.v 9) (.s 10) (.const 3)),
    (0x03458261400004E089ABCDEF, .imulhI ⟨⟨5, true⟩, .b⟩ .n64 (.v 9) (.s 10) 0x89ABCDEF),
    (0x048582615C30044000000000, .imin ⟨⟨5, true⟩, .b⟩ .i32 (.v 9) (.s 10) (.const 3)),
    (0x04C582614000044089ABCDEF, .iminI ⟨⟨5, true⟩, .b⟩ .i32 (.v 9) (.s 10) 0x89ABCDEF),
    (0x050582615C3004C000000000, .imax ⟨⟨5, true⟩, .b⟩ .n32 (.v 9) (.s 10) (.const 3)),
    (0x05458261400004C089ABCDEF, .imaxI ⟨⟨5, true⟩, .b⟩ .n32 (.v 9) (.s 10) 0x89ABCDEF),
    (0x010582615C3004C159500000, .iaddc ⟨⟨5, true⟩, .b⟩ true (.v 9) (.s 10) (.const 3) 21 22),
    (0x038582615C308C4000000000, .imad ⟨⟨5, true⟩, .b⟩ .i32 (.v 9) (.s 10) (.const 3) (.v 17)),
    (0x03C5826140008C4089ABCDEF, .imadI ⟨⟨5, true⟩, .b⟩ .i32 (.v 9) (.s 10) 0x89ABCDEF (.v 17)),
    (0x040582615C308CC000000000, .imadw ⟨⟨5, true⟩, .b⟩ .n32 (.v 9) (.s 10) (.const 3) (.v 17)),
    (0x0445826140008CC089ABCDEF, .imadwI ⟨⟨5, true⟩, .b⟩ .n32 (.v 9) (.s 10) 0x89ABCDEF (.v 17)),
    (0x058582614000040200000000, .iabs ⟨⟨5, true⟩, .b⟩ .i8 true (.v 9) (.s 10)),
    (0x06058261400004E200000000, .ineg ⟨⟨5, true⟩, .b⟩ .n64 true (.v 9) (.s 10)),
    (0x068582615C308C0100000000, .idp4 ⟨⟨5, true⟩, .b⟩ .i8 false true (.v 9) (.s 10) (.const 3) (.v 17))
    ] : List (Nat × Instr)), decodeTableWord 96 r.1 = some r.2 := by decide

theorem test_words_integer_2 : ∀ r ∈ ([
    (0x06C5826140008C8289ABCDEF, .idp4I ⟨⟨5, true⟩, .b⟩ .n8 true false (.v 9) (.s 10) 0x89ABCDEF (.v 17))
    ] : List (Nat × Instr)), decodeTableWord 96 r.1 = some r.2 := by decide

/-- One word of each logic constructor. -/
theorem test_words_logic_1 : ∀ r ∈ ([
    (0x070582615C3004E000000000, .and ⟨⟨5, true⟩, .b⟩ .n64 (.v 9) (.s 10) (.const 3)),
    (0x07458261400004E089ABCDEF, .andI ⟨⟨5, true⟩, .b⟩ .n64 (.v 9) (.s 10) 0x89ABCDEF),
    (0x078582615C3005A000000000, .or ⟨⟨5, true⟩, .b⟩ .b32 (.v 9) (.s 10) (.const 3)),
    (0x07C58261400005A089ABCDEF, .orI ⟨⟨5, true⟩, .b⟩ .b32 (.v 9) (.s 10) 0x89ABCDEF),
    (0x080582615C3004E000000000, .xor ⟨⟨5, true⟩, .b⟩ .n64 (.v 9) (.s 10) (.const 3)),
    (0x08458261400004E089ABCDEF, .xorI ⟨⟨5, true⟩, .b⟩ .n64 (.v 9) (.s 10) 0x89ABCDEF),
    (0x088582615C3005A000000000, .andn ⟨⟨5, true⟩, .b⟩ .b32 (.v 9) (.s 10) (.const 3)),
    (0x08C58261400005A089ABCDEF, .andnI ⟨⟨5, true⟩, .b⟩ .b32 (.v 9) (.s 10) 0x89ABCDEF),
    (0x090582615C3004E000000000, .orn ⟨⟨5, true⟩, .b⟩ .n64 (.v 9) (.s 10) (.const 3)),
    (0x09458261400004E089ABCDEF, .ornI ⟨⟨5, true⟩, .b⟩ .n64 (.v 9) (.s 10) 0x89ABCDEF),
    (0x0A8582615C3005A000000000, .shl ⟨⟨5, true⟩, .b⟩ .b32 (.v 9) (.s 10) (.const 3)),
    (0x0AC58261400005A089ABCDEF, .shlI ⟨⟨5, true⟩, .b⟩ .b32 (.v 9) (.s 10) 0x89ABCDEF),
    (0x0B0582615C3004E000000000, .shr ⟨⟨5, true⟩, .b⟩ .n64 (.v 9) (.s 10) (.const 3)),
    (0x0B458261400004E089ABCDEF, .shrI ⟨⟨5, true⟩, .b⟩ .n64 (.v 9) (.s 10) 0x89ABCDEF),
    (0x0B8582615C3005A000000000, .sar ⟨⟨5, true⟩, .b⟩ .b32 (.v 9) (.s 10) (.const 3)),
    (0x0BC58261400005A089ABCDEF, .sarI ⟨⟨5, true⟩, .b⟩ .b32 (.v 9) (.s 10) 0x89ABCDEF),
    (0x0C0582615C3004E000000000, .rotl ⟨⟨5, true⟩, .b⟩ .n64 (.v 9) (.s 10) (.const 3)),
    (0x0C458261400004E089ABCDEF, .rotlI ⟨⟨5, true⟩, .b⟩ .n64 (.v 9) (.s 10) 0x89ABCDEF),
    (0x09858261400004E000000000, .not ⟨⟨5, true⟩, .b⟩ .n64 (.v 9) (.s 10)),
    (0x0A0582615C308DA0000000AC, .lop3 ⟨⟨5, true⟩, .b⟩ .b32 (.v 9) (.s 10) (.const 3) (.v 17) 0xAC),
    (0x0D0582615C30044000000000, .bfx ⟨⟨5, true⟩, .b⟩ .i32 (.v 9) (.s 10) (.const 3)),
    (0x0D4582614000044089ABCDEF, .bfxI ⟨⟨5, true⟩, .b⟩ .i32 (.v 9) (.s 10) 0x89ABCDEF),
    (0x0C8582615C308DA000000000, .fshl ⟨⟨5, true⟩, .b⟩ (.v 9) (.s 10) (.const 3) (.v 17)),
    (0x0CC5826140008DA089ABCDEF, .fshlI ⟨⟨5, true⟩, .b⟩ (.v 9) (.s 10) 0x89ABCDEF (.v 17))
    ] : List (Nat × Instr)), decodeTableWord 96 r.1 = some r.2 := by decide

theorem test_words_logic_2 : ∀ r ∈ ([
    (0x0D8582615C308DA000000000, .bfi ⟨⟨5, true⟩, .b⟩ (.v 9) (.s 10) (.const 3) (.v 17)),
    (0x0DC5826140008DA089ABCDEF, .bfiI ⟨⟨5, true⟩, .b⟩ (.v 9) (.s 10) 0x89ABCDEF (.v 17)),
    (0x100582615C308DA000000000, .bytep ⟨⟨5, true⟩, .b⟩ (.v 9) (.s 10) (.const 3) (.v 17)),
    (0x1045826140008DA089ABCDEF, .bytepI ⟨⟨5, true⟩, .b⟩ (.v 9) (.s 10) 0x89ABCDEF (.v 17)),
    (0x0E058261400005A000000000, .popc ⟨⟨5, true⟩, .b⟩ .b32 (.v 9) (.s 10)),
    (0x0E858261400005A000000000, .clz ⟨⟨5, true⟩, .b⟩ .b32 (.v 9) (.s 10)),
    (0x0F058261400005A000000000, .ctz ⟨⟨5, true⟩, .b⟩ .b32 (.v 9) (.s 10)),
    (0x0F858261400005A000000000, .brev ⟨⟨5, true⟩, .b⟩ .b32 (.v 9) (.s 10)),
    (0x11858261400005A000000000, .mov ⟨⟨5, true⟩, .b⟩ .b32 (.v 9) (.s 10)),
    (0x108580215C3004A05950001B, .iset ⟨⟨5, true⟩, .b⟩ .n16 .le .xor 22 21 (.v 0) (.s 10) (.const 3)),
    (0x10C580214B50046089ABCDEF, .isetI ⟨⟨5, true⟩, .b⟩ .i64 .ge 22 (.v 0) (.s 10) 0x89ABCDEF),
    (0x110582615C3004E001500000, .sel ⟨⟨5, true⟩, .b⟩ .n64 (.v 9) (.s 10) (.const 3) (.v 0) 21),
    (0x114582614B0005A089ABCDEF, .selI ⟨⟨5, true⟩, .b⟩ .b32 (.v 9) (.s 10) 0x89ABCDEF (.v 0) 22),
    (0x124582400000046089ABCDEF, .movi ⟨⟨5, true⟩, .b⟩ .i64 (.v 9) 0x89ABCDEF),
    (0x128582215C30044000000005, .lea ⟨⟨5, true⟩, .b⟩ .i32 (.v 8) (.s 10) (.const 3) 5),
    (0x12C58221406004E089ABCDEF, .leaI ⟨⟨5, true⟩, .b⟩ .n64 (.v 8) (.s 10) 0x89ABCDEF 6)
    ] : List (Nat × Instr)), decodeTableWord 96 r.1 = some r.2 := by decide

/-- One word of each float constructor. -/
theorem test_words_float : ∀ r ∈ ([
    (0x200582615C30051A00000000, .fadd ⟨⟨5, true⟩, .b⟩ .f32 .rup true (.v 9) (.s 10) (.const 3)),
    (0x204582614000050889ABCDEF, .faddI ⟨⟨5, true⟩, .b⟩ .f32 .rtz false (.v 9) (.s 10) 0x89ABCDEF),
    (0x208582615C30053A00000000, .fsub ⟨⟨5, true⟩, .b⟩ .f16 .rup true (.v 9) (.s 10) (.const 3)),
    (0x20C582614000052889ABCDEF, .fsubI ⟨⟨5, true⟩, .b⟩ .f16 .rtz false (.v 9) (.s 10) 0x89ABCDEF),
    (0x210582615C30055A00000000, .fmul ⟨⟨5, true⟩, .b⟩ .bf16 .rup true (.v 9) (.s 10) (.const 3)),
    (0x214582614000054889ABCDEF, .fmulI ⟨⟨5, true⟩, .b⟩ .bf16 .rtz false (.v 9) (.s 10) 0x89ABCDEF),
    (0x218582615C308D1200000000, .ffma ⟨⟨5, true⟩, .b⟩ .f32 .rdn true (.v 9) (.s 10) (.const 3) (.v 17)),
    (0x21C5826140008D2289ABCDEF, .ffmaI ⟨⟨5, true⟩, .b⟩ .f16 .rne true (.v 9) (.s 10) 0x89ABCDEF (.v 17)),
    (0x220582615C30050000000000, .fmin ⟨⟨5, true⟩, .b⟩ .f32 (.v 9) (.s 10) (.const 3)),
    (0x224582614000050089ABCDEF, .fminI ⟨⟨5, true⟩, .b⟩ .f32 (.v 9) (.s 10) 0x89ABCDEF),
    (0x228582615C30052000000000, .fmax ⟨⟨5, true⟩, .b⟩ .f16 (.v 9) (.s 10) (.const 3)),
    (0x22C582614000052089ABCDEF, .fmaxI ⟨⟨5, true⟩, .b⟩ .f16 (.v 9) (.s 10) 0x89ABCDEF),
    (0x230582615C30054000000000, .fminm ⟨⟨5, true⟩, .b⟩ .bf16 (.v 9) (.s 10) (.const 3)),
    (0x234582614000054089ABCDEF, .fminmI ⟨⟨5, true⟩, .b⟩ .bf16 (.v 9) (.s 10) 0x89ABCDEF),
    (0x238582615C30050000000000, .fmaxm ⟨⟨5, true⟩, .b⟩ .f32 (.v 9) (.s 10) (.const 3)),
    (0x23C582614000050089ABCDEF, .fmaxmI ⟨⟨5, true⟩, .b⟩ .f32 (.v 9) (.s 10) 0x89ABCDEF),
    (0x240580215C30050059500016, .fset ⟨⟨5, true⟩, .b⟩ .un .or 22 21 (.s 10) (.const 3)),
    (0x244580214B70050089ABCDEF, .fsetI ⟨⟨5, true⟩, .b⟩ .ord 22 (.s 10) 0x89ABCDEF),
    (0x248582614000050000000000, .fclass ⟨⟨5, true⟩, .b⟩ (.v 9) (.s 10)),
    (0x250582614000051000000000, .frnd ⟨⟨5, true⟩, .b⟩ .rdn (.v 9) (.s 10)),
    (0x258582614000050000000000, .ffrac ⟨⟨5, true⟩, .b⟩ (.v 9) (.s 10)),
    (0x260582615C30051A00000000, .fscale ⟨⟨5, true⟩, .b⟩ .rup true (.v 9) (.s 10) (.const 3)),
    (0x264582614000050889ABCDEF, .fscaleI ⟨⟨5, true⟩, .b⟩ .rtz false (.v 9) (.s 10) 0x89ABCDEF),
    (0x268582614000050000000000, .fgetexp ⟨⟨5, true⟩, .b⟩ (.v 9) (.s 10))
    ] : List (Nat × Instr)), decodeTableWord 96 r.1 = some r.2 := by decide

/-- One word of each conversion constructor. -/
theorem test_words_conversion : ∀ r ∈ ([
    (0x400582614000051800000000, .frcp ⟨⟨5, true⟩, .b⟩ .rup (.v 9) (.s 10)),
    (0x410582614000050800000000, .fsqrt ⟨⟨5, true⟩, .b⟩ .rtz (.v 9) (.s 10)),
    (0x408582614000050000000000, .frsq ⟨⟨5, true⟩, .b⟩ (.v 9) (.s 10)),
    (0x418582614000050000000000, .fexp2 ⟨⟨5, true⟩, .b⟩ (.v 9) (.s 10)),
    (0x420582614000050000000000, .flog2 ⟨⟨5, true⟩, .b⟩ (.v 9) (.s 10)),
    (0x428582614000050000000000, .fsin ⟨⟨5, true⟩, .b⟩ (.v 9) (.s 10)),
    (0x430582614000050000000000, .fcos ⟨⟨5, true⟩, .b⟩ (.v 9) (.s 10)),
    (0x438582614000050000000000, .ftanh ⟨⟨5, true⟩, .b⟩ (.v 9) (.s 10)),
    (0x440582614000050000000000, .fsigm ⟨⟨5, true⟩, .b⟩ (.v 9) (.s 10)),
    (0x448582614000056600000028, .fcvt ⟨⟨5, true⟩, .b⟩ .e4m3 .f32 .rne true true 2 0 (.v 9) (.s 10)),
    (0x45058261400004A200000003, .icvt ⟨⟨5, true⟩, .b⟩ .n16 .i64 true (.v 9) (.s 10))
    ] : List (Nat × Instr)), decodeTableWord 96 r.1 = some r.2 := by decide

/-- One word of each lanes constructor. -/
theorem test_words_lanes : ∀ r ∈ ([
    (0x45858000000005A05959630B, .plop ⟨⟨5, true⟩, .b⟩ 22 21 11 12 0x96),
    (0x46058240000005A0000005E8, .pmovv ⟨⟨5, true⟩, .b⟩ (.v 9) 40 23),
    (0x46858021400005A0000007A1, .vmovp ⟨⟨5, true⟩, .b⟩ (.s 10) 33 30),
    (0x47058000000005A059500146, .vote ⟨⟨5, true⟩, .b⟩ .ge 17 true (.v 0) 22 21),
    (0x478582415C3005A05800000D, .shfl ⟨⟨5, true⟩, .b⟩ .rot 3 (.v 9) (.v 10) (.const 3) 22),
    (0x47C582414B3005A089ABCDEF, .shflI ⟨⟨5, true⟩, .b⟩ .xor (.v 9) (.v 10) 0x89ABCDEF 22),
    (0x480582414000050000000008, .lred ⟨⟨5, true⟩, .b⟩ .f32 .fmax (.v 9) (.v 10)),
    (0x48858241400005A000000015, .lscan ⟨⟨5, true⟩, .b⟩ .b32 .xor true (.v 9) (.v 10)),
    (0x490582615C3005A000000000, .lbcast ⟨⟨5, true⟩, .b⟩ .b32 (.v 9) (.s 10) (.const 3)),
    (0x49458261400005A089ABCDEF, .lbcastI ⟨⟨5, true⟩, .b⟩ .b32 (.v 9) (.s 10) 0x89ABCDEF),
    (0x4985C201400004E000000000, .lfirst ⟨⟨5, true⟩, .b⟩ .n64 (.s 8) (.v 10))
    ] : List (Nat × Instr)), decodeTableWord 96 r.1 = some r.2 := by decide

/-- One word of each control constructor. -/
theorem test_words_control : ∀ r ∈ ([
    (0x6005800000000021FFFFFFF9, .bra ⟨5, true⟩ 33 0xFFFFFFF9 (.v 0)),
    (0x604580214000000000000000, .brx ⟨5, true⟩ (.s 10)),
    (0x6085C3000000000000012345, .call ⟨5, true⟩ 0x00012345 (.s 12)),
    (0x60C580218000000000000000, .ret ⟨5, true⟩ (.s 12)),
    (0x610580000000002100000000, .recon ⟨5, true⟩ 33),
    (0x614580000000000000000000, .exit ⟨5, true⟩),
    (0x61C580000000000000000000, .yield ⟨5, true⟩)
    ] : List (Nat × Instr)), decodeTableWord 96 r.1 = some r.2 := by decide

/-- One word of each memory constructor. -/
theorem test_words_memory_1 : ∀ r ∈ ([
    (0x8005826140000489201FFFF0, .ldp ⟨⟨5, true⟩, .b⟩ .b16 true ⟨.acq, .grp⟩ .cb (.v 9) (.s 10) 0x1FFFF0),
    (0x8045802140800508601FFFF0, .stp ⟨⟨5, true⟩, .b⟩ .b64 ⟨.rel, .grp⟩ .cb (.s 10) (.v 8) 0x1FFFF0),
    (0x81058261400004B1201FFFF0, .ldd ⟨⟨5, true⟩, .b⟩ .b16 true ⟨.acq, .die⟩ .ca (.v 9) (.s 10) 0x1FFFF0),
    (0x8145802140800530601FFFF0, .std ⟨⟨5, true⟩, .b⟩ .b64 ⟨.rel, .die⟩ .ca (.s 10) (.v 8) 0x1FFFF0),
    (0x81858261400004C5201FFFF0, .ldg ⟨⟨5, true⟩, .b⟩ .b16 true ⟨.acq, .dev⟩ .cs (.v 9) (.s 10) 0x1FFFF0),
    (0x81C5802140800544601FFFF0, .stg ⟨⟨5, true⟩, .b⟩ .b64 ⟨.rel, .dev⟩ .cs (.s 10) (.v 8) 0x1FFFF0),
    (0x82058261400004D9201FFFF0, .ldx ⟨⟨5, true⟩, .b⟩ .b16 true ⟨.acq, .sys⟩ .cb (.v 9) (.s 10) 0x1FFFF0),
    (0x8245802140800558601FFFF0, .stx ⟨⟨5, true⟩, .b⟩ .b64 ⟨.rel, .sys⟩ .cb (.s 10) (.v 8) 0x1FFFF0),
    (0x82858261400004D5201FFFF0, .ldh ⟨⟨5, true⟩, .b⟩ .b16 true ⟨.acq, .sys⟩ .cs (.v 9) (.s 10) 0x1FFFF0),
    (0x82C5802140800554601FFFF0, .sth ⟨⟨5, true⟩, .b⟩ .b64 ⟨.rel, .sys⟩ .cs (.s 10) (.v 8) 0x1FFFF0),
    (0x808582414000049052200040, .lds ⟨⟨5, true⟩, .b⟩ .b32 false ⟨.acq, .team⟩ .ca (.v 9) (.v 10) 0x40 true 17),
    (0x80C58001408005108A200080, .sts ⟨⟨5, true⟩, .b⟩ .b128 ⟨.rel, .team⟩ .ca (.v 10) (.v 8) 0x80 true 17),
    (0x834580214000040000000000, .qbpush ⟨⟨5, true⟩, .b⟩ (.s 10)),
    (0x8385D1400000000000000000, .qbpop ⟨⟨5, true⟩, .none⟩ (.a 5)),
    (0x83C580000000000000000021, .qsync ⟨5, true⟩ 0x00000021),
    (0x8405C2800000000000000000, .qstat ⟨5, true⟩ (.s 10)),
    (0x8445802140000408001FFFF0, .pref ⟨⟨5, true⟩, .b⟩ .cb (.s 10) 0x1FFFF0),
    (0x8485C12150CEFDA900000001, .acp ⟨⟨5, true⟩, .b⟩ .scratch .shared true ⟨true, true, .clu⟩ (.s 4) (.s 10) (.s 12) (.const 31)),
    (0x84C5C1000000040000000000, .bclose ⟨⟨5, true⟩, .b⟩ (.s 4)),
    (0x850580208000040002200000, .bwait ⟨⟨5, true⟩, .b⟩ (.s 4) 17),
    (0x854580214000049202200040, .fetest ⟨⟨5, true⟩, .b⟩ .clr ⟨.acq, .team⟩ 17 (.s 10) 0x40),
    (0x8585D0E82000000100000000, .kvlook ⟨5, true⟩ true (.a 3) (.a 1) (.v 0)),
    (0x85C5802090A864B600000000, .kvgather ⟨⟨5, true⟩, .b⟩ .v true ⟨false, true, .die⟩ (.s 4) (.s 10) (.s 12)),
    (0x8605C1215C10054002200000, .kvappend ⟨⟨5, true⟩, .b⟩ ⟨true, false, .dev⟩ (.s 4) (.s 10) (.const 1) 17)
    ] : List (Nat × Instr)), decodeTableWord 96 r.1 = some r.2 := by decide

theorem test_words_memory_2 : ∀ r ∈ ([
    (0x8645C12150CE0DD002200000, .kvshare ⟨⟨5, true⟩, .b⟩ ⟨true, true, .sys⟩ (.s 4) (.s 10) (.s 12) (.const 1) 17)
    ] : List (Nat × Instr)), decodeTableWord 96 r.1 = some r.2 := by decide

/-- One word of each sync constructor. -/
theorem test_words_sync : ∀ r ∈ ([
    (0xA00582015C3005D901800003, .atom ⟨⟨5, true⟩, .b⟩ .incw ⟨.ar, .sys⟩ .b64 .peer (.v 8) (.v 10) (.const 3)),
    (0xA04580015C30052701000001, .red ⟨⟨5, true⟩, .b⟩ .maxu ⟨.rel, .clu⟩ .b32 .shared (.v 10) (.const 3)),
    (0xA085822150C074C045800004, .cas ⟨⟨5, true⟩, .b⟩ ⟨.acq, .dev⟩ .b64 .host (.v 8) (.s 10) (.s 12) (.v 14) 17),
    (0xA0C5822150C0843046000002, .cas2 ⟨⟨5, true⟩, .b⟩ ⟨.rlx, .die⟩ .scratch (.v 8) (.s 10) (.s 12) (.v 16) 17),
    (0xA1058020908005420000052E, .obinit ⟨⟨5, true⟩, .b⟩ .freelist ⟨.rel, .dev⟩ 2 true 0xA5 (.s 4) (.s 8)),
    (0xA145C2A090C8440700000000, .ann ⟨⟨5, true⟩, .b⟩ .mcas (.s 10) (.s 4) (.s 12) (.s 8)),
    (0xA185C2E08000040044000000, .help ⟨⟨5, true⟩, .b⟩ (.s 11) (.s 4) 17),
    (0xA1C580209080053144000000, .barinit ⟨⟨5, true⟩, .b⟩ true ⟨.rel, .die⟩ (.s 4) (.s 8) 17),
    (0xA205C3211C20054000000000, .barv ⟨⟨5, true⟩, .b⟩ ⟨.rel, .dev⟩ (.s 12) (.s 8) (.const 2)),
    (0xA245C3210000052000000000, .bardrop ⟨⟨5, true⟩, .b⟩ ⟨.rel, .clu⟩ (.s 12) (.s 8)),
    (0xA285802110A0040000000000, .btx ⟨⟨5, true⟩, .b⟩ (.s 8) (.s 10)),
    (0xA2C5802110A004C044000000, .btest ⟨⟨5, true⟩, .b⟩ ⟨.acq, .dev⟩ (.s 8) (.s 10) 17),
    (0xA305C32110A8A53000000071, .sred ⟨⟨5, true⟩, .b⟩ .addN64 7 ⟨.rel, .die⟩ (.s 12) (.s 8) (.s 10) (.s 20)),
    (0xA345802100A0052044000000, .msend ⟨⟨5, true⟩, .b⟩ ⟨.rel, .clu⟩ (.s 8) (.v 10) 17),
    (0xA3858280000004A044000006, .mrecv ⟨⟨5, true⟩, .b⟩ ⟨.acq, .clu⟩ 6 (.v 10) 17),
    (0xA3C5C2800000040100000006, .mstat ⟨⟨5, true⟩, .b⟩ true 6 (.s 10)),
    (0xA40580210000040100000206, .park ⟨⟨5, true⟩, .b⟩ true .scratch 0x81 (.s 8)),
    (0xA445C12110A8655000000009, .xscale ⟨⟨5, true⟩, .b⟩ ⟨.rel, .sys⟩ 9 (.s 4) (.s 8) (.s 10) (.s 12)),
    (0xA485C12110A864000000000E, .xred ⟨⟨5, true⟩, .b⟩ ⟨.rlx, .grp⟩ 14 (.s 4) (.s 8) (.s 10) (.s 12)),
    (0xA4C58000000005D100000000, .fence ⟨⟨5, true⟩, .b⟩ .sc .sys),
    (0xA505C1210000053000000000, .drain ⟨⟨5, true⟩, .b⟩ .die (.s 4) (.s 8)),
    (0xA50580000000040100000000, .drainNb ⟨⟨5, true⟩, .b⟩)
    ] : List (Nat × Instr)), decodeTableWord 96 r.1 = some r.2 := by decide

/-- One word of each matrix constructor. -/
theorem test_words_matrix : ∀ r ∈ ([
    (0xC0058601030E04010000CFCE, .gmma ⟨⟨5, true⟩, .b⟩ true 14 63 12 (.v 24) (.v 8) (.v 48) (.const 0)),
    (0xC04586010000040100000395, .cvtdxb ⟨⟨5, true⟩, .b⟩ true 21 14 (.v 24) (.v 8)),
    (0xC085802090684D103800140E, .lmma ⟨⟨5, true⟩, .b⟩ ⟨true, false, .team⟩ 7 14 16 true (.s 4) (.s 6) (.s 9)),
    (0xC0C5802090684D1038002A4E, .lmmv ⟨⟨5, true⟩, .b⟩ ⟨true, false, .team⟩ 7 14 9 5 (.s 4) (.s 6) (.s 9)),
    (0xC10580000000040038000000, .lzero ⟨⟨5, true⟩, .b⟩ 7),
    (0xC1458020906005103800000E, .lload ⟨⟨5, true⟩, .b⟩ false ⟨true, false, .team⟩ 7 14 (.s 4) (.s 6)),
    (0xC1858020906004903800004E, .lstore ⟨⟨5, true⟩, .b⟩ false true ⟨false, true, .team⟩ 7 14 (.s 4) (.s 6)),
    (0xC1C58620C000040038000000, .lread ⟨⟨5, true⟩, .b⟩ 7 (.v 24) (.s 6)),
    (0xC2058020800004003A20040E, .lcmd ⟨⟨5, true⟩, .b⟩ 7 14 16 17 (.s 4)),
    (0xC245C1210008659000000006, .tmatch ⟨⟨5, true⟩, .b⟩ 2 .bf16 ⟨true, true, .team⟩ (.s 4) (.s 8) (.s 12)),
    (0xC285C12110A8659000001155, .tmerge ⟨⟨5, true⟩, .b⟩ 0x155 .f16 ⟨true, true, .team⟩ (.s 4) (.s 8) (.s 10) (.s 12)),
    (0xC2C5C12110A0059000000AAA, .tunmerge ⟨⟨5, true⟩, .b⟩ 0x2AA .bf16 ⟨true, true, .team⟩ (.s 4) (.s 8) (.s 10)),
    (0xC30588030240A40100000CC8, .smaxr ⟨⟨5, true⟩, .b⟩ true 8 true true 12 (.v 32) (.v 24) (.v 36) (.v 20)),
    (0xC345880310884C0000000000, .tmask ⟨⟨5, true⟩, .b⟩ (.v 32) (.v 24) (.s 8) (.s 9))
    ] : List (Nat × Instr)), decodeTableWord 96 r.1 = some r.2 := by decide

/-- One word of each system constructor. -/
theorem test_words_system : ∀ r ∈ ([
    (0xE00580210000040000000011, .launch ⟨⟨5, true⟩, .b⟩ 17 (.s 8)),
    (0xE04580000000040000000000, .trigger ⟨⟨5, true⟩, .b⟩),
    (0xE0858020C000040000000000, .timerAbs ⟨⟨5, true⟩, .b⟩ (.s 6)),
    (0xE0858038C000040100000000, .timerRel ⟨⟨5, true⟩, .b⟩ (.const 6)),
    (0xE08580000000040200000000, .timerOff ⟨⟨5, true⟩, .b⟩),
    (0xE0C580000000040000000000, .qend ⟨⟨5, true⟩, .b⟩),
    (0xE1058000000004000000BEEF, .trap ⟨⟨5, true⟩, .b⟩ 0xBEEF),
    (0xE14580000000040000000000, .trapret ⟨⟨5, true⟩, .b⟩),
    (0xE1858000000004000000008D, .replay ⟨⟨5, true⟩, .b⟩ 5 17),
    (0xE1C5C1000000040000000006, .rdsr ⟨⟨5, true⟩, .b⟩ .finfo (.s 4)),
    (0xE20580228000040000000001, .wrsr ⟨⟨5, true⟩, .b⟩ .apc (.s 20)),
    (0xE2458000000004000000BEEF, .bkpt ⟨⟨5, true⟩, .b⟩ 0xBEEF)
    ] : List (Nat × Instr)), decodeTableWord 96 r.1 = some r.2 := by decide

/-- Words that the spec prints in its listings. -/
theorem test_words_printed_1 : ∀ r ∈ ([
    (0x808001004000020040000040, .lds ⟨⟨0, false⟩, .a⟩ .b32 false ⟨.rlx, .grp⟩ .ca (.v 4) (.v 2) 0x40 false 0),
    (0x000001803C30004000000000, .iadd ⟨⟨0, false⟩, .none⟩ .i32 (.v 6) (.v 1) (.const 3)),
    (0x2100024140B0010000000000, .fmul ⟨⟨0, false⟩, .none⟩ .f32 .rne false (.v 9) (.v 10) (.v 11)),
    (0x618000000000000000000000, .nop),
    (0x80C0000100C0011048600080, .sts ⟨⟨0, false⟩, .none⟩ .b32 ⟨.rel, .team⟩ .ca (.v 8) (.v 12) 0x80 true 3),
    (0x830000286000000180000100, .ldq ⟨0, false⟩ 1 .ca (.a 3) 0x100),
    (0x478000C03D0001A000000003, .shfl ⟨⟨0, false⟩, .none⟩ .xor 0 (.v 3) (.v 1) (.const 16) 0),
    (0x60010000000000010000000A, .bra ⟨1, false⟩ 1 10 (.v 0)),
    (0xC00004000040800000000FC2, .gmma ⟨⟨0, false⟩, .none⟩ false 2 63 0 (.v 16) (.v 0) (.v 4) (.v 16)),
    (0xA4C00000000000C000000000, .fence ⟨⟨0, false⟩, .none⟩ .acq .dev),
    (0xA4C000000000011000000000, .fence ⟨⟨0, false⟩, .none⟩ .rel .team),
    (0xA4C00000000001B000000000, .fence ⟨⟨0, false⟩, .none⟩ .ar .die),
    (0xA4C00000000001C100000000, .fence ⟨⟨0, false⟩, .none⟩ .sc .dev),
    (0xA50041210000014000000000, .drain ⟨⟨0, false⟩, .none⟩ .dev (.s 4) (.s 8)),
    (0x81C00020DC10004040000000, .stg ⟨⟨0, false⟩, .none⟩ .b32 ⟨.rlx, .dev⟩ .ca (.s 6) (.const 1) 0),
    (0x818042A10000004040000000, .ldg ⟨⟨0, false⟩, .none⟩ .b32 false ⟨.rlx, .dev⟩ .ca (.s 10) (.s 8) 0),
    (0xA00001A09C10004001000000, .atom ⟨⟨0, false⟩, .none⟩ .add ⟨.rlx, .dev⟩ .b32 .glob (.v 6) (.s 4) (.const 1)),
    (0xA14042A090C8400000000000, .ann ⟨⟨0, false⟩, .none⟩ .push (.s 10) (.s 4) (.s 12) (.s 8)),
    (0xA18042E08000000008000000, .help ⟨⟨0, false⟩, .none⟩ (.s 11) (.s 4) 2),
    (0xA20043211C10014000000000, .barv ⟨⟨0, false⟩, .none⟩ ⟨.rel, .dev⟩ (.s 12) (.s 8) (.const 1)),
    (0xE00000210000000000000005, .launch ⟨⟨0, false⟩, .none⟩ 5 (.s 8)),
    (0xE04000000000000000000000, .trigger ⟨⟨0, false⟩, .none⟩),
    (0xE0800020C000000000000000, .timerAbs ⟨⟨0, false⟩, .none⟩ (.s 6)),
    (0xE0800020C000000100000000, .timerRel ⟨⟨0, false⟩, .none⟩ (.s 6))
    ] : List (Nat × Instr)), decodeTableWord 96 r.1 = some r.2 := by decide

theorem test_words_printed_2 : ∀ r ∈ ([
    (0xE08000000000000200000000, .timerOff ⟨⟨0, false⟩, .none⟩),
    (0xE0C000000000000000000000, .qend ⟨⟨0, false⟩, .none⟩),
    (0xE0C100000000000000000000, .qend ⟨⟨1, false⟩, .none⟩),
    (0xA40000200000000000000000, .park ⟨⟨0, false⟩, .none⟩ false .glob 0 (.s 0)),
    (0xA10000209080004000000000, .obinit ⟨⟨0, false⟩, .none⟩ .stack ⟨.rlx, .dev⟩ 0 false 0 (.s 4) (.s 8)),
    (0x860041205C1000C000C00000, .kvappend ⟨⟨0, false⟩, .none⟩ ⟨false, true, .dev⟩ (.s 4) (.s 2) (.const 1) 6),
    (0x858050E83420000000000000, .kvlook ⟨0, false⟩ false (.a 3) (.a 1) (.a 2)),
    (0xC0000601030E00000000C38E, .gmma ⟨⟨0, false⟩, .none⟩ false 14 14 12 (.v 24) (.v 8) (.v 48) (.const 0)),
    (0xC30008030240A00000000C88, .smaxr ⟨⟨0, false⟩, .none⟩ false 8 false true 12 (.v 32) (.v 24) (.v 36) (.v 20)),
    (0xE1000000000000000000002A, .trap ⟨⟨0, false⟩, .none⟩ 0x2A),
    (0xE14000000000000000000000, .trapret ⟨⟨0, false⟩, .none⟩),
    (0xE18000000000000000000023, .replay ⟨⟨0, false⟩, .none⟩ 3 4),
    (0xE1C041000000000000000003, .rdsr ⟨⟨0, false⟩, .none⟩ .fcode (.s 4)),
    (0xE20000228000000000000000, .wrsr ⟨⟨0, false⟩, .none⟩ .cpc (.s 20)),
    (0xE24000000000000000000007, .bkpt ⟨⟨0, false⟩, .none⟩ 7),
    (0x808043A20000009050200000, .lds ⟨⟨0, false⟩, .none⟩ .b32 false ⟨.acq, .team⟩ .ca (.s 14) (.s 16) 0 true 1),
    (0x80C0002230E0011048200200, .sts ⟨⟨0, false⟩, .none⟩ .b32 ⟨.rel, .team⟩ .ca (.s 17) (.s 14) 0x200 true 1),
    (0xA00043E31C10001001000000, .atom ⟨⟨0, false⟩, .none⟩ .add ⟨.rlx, .team⟩ .b32 .glob (.s 15) (.s 24) (.const 1)),
    (0xA40000220000000000000001, .park ⟨⟨0, false⟩, .none⟩ false .shared 0 (.s 16))
    ] : List (Nat × Instr)), decodeTableWord 96 r.1 = some r.2 := by decide
/-! ## States for the tests

`base` is the state after reset with one word stored where the next step fetches it (log 22): one running group of a team in context 0, whose cursor
is on path 0. Each test changes what it needs. -/

/-- The cursor on path 0 of the group, at the first slot of a line, with flags 3 and 4 as SETA and SETB. -/
def onC (s : State) : State := { s with cur := { seta := 3, setb := 4, addr := 0x1000 } }

/-- The cursor on the A-slice. -/
def onA (s : State) : State := { s with cur := { seta := 3, setb := 4, addr := 0x1000, sl := .a } }

def base : State := onC (State.reset.withFetchWord 96 0)

/-- The group of `base`. -/
def baseG : Group := fetchGroup 1 0

/-- `base` with its group changed. -/
def withG (f : Group → Group) : State := { base with groups := [f baseG] }

/-- The same with the cursor on the A-slice. -/
def withA (f : Group → Group) : State := onA (withG f)

/-- Whether an instruction issues. -/
def issuable? (i : Instr) (s : State) (g : Group) : Bool :=
  i.wf && s.snap.isNone && (s.cur.sl == .a || (g.path s.cur.p).isSome) && (decodeFault i g s).isNone &&
    i.refs.all (fun r => !g.awaited.contains r && !g.buffered.contains r) && (g.missing i.vregs).isNone && i.vregs.all (fun n => !g.vbad.contains n) &&
    (match flagOf i.setf s.cur with
      | some k => decide (g.flags.getD k 0 < 255)
      | none => true) &&
    i.queues.all fun q => match g.q.getD q [] with
      | .data _ :: _ => true
      | _ => false

theorem issues_of {i : Instr} {s : State} {g : Group} (h0 : s.groups[s.cur.g]? = some g) (h : issuable? i s g = true) : Issues i s g := by
  simp only [issuable?, Bool.and_eq_true, List.all_eq_true, Option.isNone_iff_eq_none] at h
  obtain ⟨⟨⟨⟨⟨⟨⟨⟨h1, h2⟩, h3⟩, h4⟩, h5⟩, h6⟩, hv⟩, h7⟩, h8⟩ := h
  refine ⟨h1, h0, h2, ?_, h4, ?_, h6, ?_, ?_, ?_⟩
  · intro hc
    rw [hc] at h3
    simpa [Option.isSome_iff_exists] using h3
  · intro r hr
    have := h5 r hr
    simpa using this
  · intro n hn
    have := hv n hn
    simpa using this
  · intro k hk
    rw [hk] at h7
    simpa using h7
  · intro q hq
    have := h8 q hq
    split at this
    · rename_i v r e; exact ⟨v, r, e⟩
    · cases this

/-- Every instruction of a list issues. -/
theorem issue_all {L : List Instr} {s : State} {g : Group} (h0 : s.groups[s.cur.g]? = some g) (h : L.all (fun i => issuable? i s g) = true) :
    ∀ i ∈ L, Issues i s g := fun i hi => issues_of h0 (List.all_eq_true.mp h i hi)

/-- Every instruction of a list issues under a uniform guard that is `b`. -/
theorem guard_all (b : Bool) {L : List Instr} {s : State} {g : Group} (h0 : s.groups[s.cur.g]? = some g)
    (h : L.all (fun i => issuable? i s g && (envOf i s g).uguard == b) = true) : ∀ i ∈ L, Issues i s g ∧ (envOf i s g).uguard = b := fun i hi => by
  have := List.all_eq_true.mp h i hi
  simp only [Bool.and_eq_true, beq_iff_eq] at this
  exact ⟨issues_of h0 this.1, this.2⟩

theorem ok_of {ε α : Type} {x : Except ε α} (h : x.isOk = true) : ∃ v, x = .ok v := by
  cases x with
  | ok v => exact ⟨v, rfl⟩
  | error => cases h

theorem error_of {ε α : Type} {x : Except ε α} (h : x.isOk = false) : ∃ v, x = .error v := by
  cases x with
  | ok v => cases h
  | error v => exact ⟨v, rfl⟩

theorem baseG_shaped : Shaped baseG := by constructor <;> decide

/-! ## Ill-formed terms (R38, R42)

For each check of `Instr.wf`, a term whose one wrong field it refuses. -/

/-- The head of an instruction without a guard or a flag. -/
def h0 : Head := ⟨⟨0, false⟩, .none⟩

/-- An unassigned operand code is that of a reserved one; a code that names an operand is not. -/
theorem test_ill_operand : ∀ i ∈ ([
    .imad h0 .i32 (.unassigned 0) (.v 0) (.v 0) (.v 0), .imad h0 .i32 (.v 0) (.unassigned 0x1FF) (.v 0) (.v 0),
    .imad h0 .i32 (.v 0) (.v 0) (.unassigned 0x184) (.v 0), .imad h0 .i32 (.v 0) (.v 0) (.v 0) (.unassigned 0x190),
    .brx ⟨0, false⟩ (.unassigned 0x1A2), .wrsr h0 .cpc (.unassigned 0x1C0)] : List Instr), i.wf = false := by decide

theorem test_ill_integer : ∀ i ∈ ([
    .iadd h0 .f32 (.v 0) (.v 0) (.v 0), .isub h0 .b32 (.v 0) (.v 0) (.v 0), .iadds h0 .f16 (.v 0) (.v 0) (.v 0), .imulh h0 .i16 (.v 0) (.v 0) (.v 0),
    .imadw h0 .i64 (.v 0) (.v 0) (.v 0) (.v 0), .iabs h0 .n32 false (.v 0) (.v 0), .ineg h0 .b32 false (.v 0) (.v 0),
    .idp4 h0 .n8 false true (.v 0) (.v 0) (.v 0) (.v 0), .idp4 h0 .i16 false false (.v 0) (.v 0) (.v 0) (.v 0)] : List Instr), i.wf = false := by decide

theorem test_ill_logic : ∀ i ∈ ([
    .and h0 .i32 (.v 0) (.v 0) (.v 0), .shl h0 .n32 (.v 0) (.v 0) (.v 0), .bfx h0 .i64 (.v 0) (.v 0) (.v 0), .popc h0 .i64 (.v 0) (.v 0), .mov h0 .f32 (.v 0) (.v 0),
    .iset h0 .f32 .eq .and 1 2 (.v 0) (.v 0) (.v 0), .iset h0 .i32 .un .and 1 2 (.v 0) (.v 0) (.v 0), .iset h0 .i32 .eq .none 1 2 (.v 0) (.v 0) (.v 0),
    .isetI h0 .i32 .ord 1 (.v 0) (.v 0) 0, .movi h0 .i32 (.v 0) 0, .lea h0 .i64 (.v 0) (.v 0) (.v 0) 0] : List Instr), i.wf = false := by decide

theorem test_ill_float : ∀ i ∈ ([
    .fadd h0 .e4m3 .rne false (.v 0) (.v 0) (.v 0), .fmin h0 .i32 (.v 0) (.v 0) (.v 0), .fset h0 .lt .none 1 2 (.v 0) (.v 0), .fsin h0 (.unassigned 0) (.v 0),
    .fcvt h0 .i32 .n32 .rne false false 0 0 (.v 0) (.v 0), .fcvt h0 .f32 .b32 .rne false false 0 0 (.v 0) (.v 0),
    .fcvt h0 .f16 .f32 .rne false false 2 0 (.v 0) (.v 0), .fcvt h0 .f32 .f16 .rne false false 0 2 (.v 0) (.v 0),
    .fcvt h0 .i32 .f32 .rne false true 0 0 (.v 0) (.v 0), .fcvt h0 .f32 .f16 .rne true false 0 0 (.v 0) (.v 0),
    .fcvt h0 .f16 .f32 .rup true false 0 0 (.v 0) (.v 0), .icvt h0 .i32 .f32 false (.v 0) (.v 0)] : List Instr), i.wf = false := by decide

theorem test_ill_lanes : ∀ i ∈ ([
    .pmovv h0 (.v 0) 33 31, .vmovp h0 (.v 0) 63 1, .vote h0 .mask 1 false (.v 0) 0 1, .vote h0 .cnt 0 true (.v 0) 0 1, .vote h0 .mask 0 false (.v 0) 2 1,
    .vote h0 .ge 33 false (.v 0) 1 1, .vote h0 .ge 32 false (.v 1) 1 1, .vote h0 .same 1 false (.v 0) 1 1, .shfl h0 .idx 5 (.v 0) (.v 0) (.v 0) 0,
    .lred h0 .i16 .iadd (.v 0) (.v 0), .lred h0 .i32 .and (.v 0) (.v 0), .lscan h0 .f16 .fadd false (.v 0) (.v 0), .lbcast h0 .i32 (.v 0) (.v 0) (.v 0),
    .lfirst h0 .f32 (.v 0) (.v 0)] : List Instr), i.wf = false := by decide

theorem test_ill_memory : ∀ i ∈ ([
    .ldp h0 .b32 false ⟨.rel, .grp⟩ .ca (.v 0) (.v 0) 0, .ldp h0 .b32 false ⟨.rlx, .team⟩ .ca (.v 0) (.v 0) 0, .stp h0 .b32 ⟨.acq, .grp⟩ .ca (.v 0) (.v 0) 0,
    .lds h0 .b32 false ⟨.rlx, .grp⟩ .cs (.v 0) (.v 0) 0 false 0, .lds h0 .b32 false ⟨.rlx, .grp⟩ .ca (.v 0) (.v 0) 0 false 1,
    .sts h0 .b32 ⟨.ar, .grp⟩ .ca (.v 0) (.v 0) 0 false 0, .sts h0 .b32 ⟨.rlx, .grp⟩ .ca (.v 0) (.v 0) 0 false 1, .ldd h0 .b32 false ⟨.rlx, .grp⟩ .cs (.v 0) (.v 0) 0,
    .ldg h0 .b32 false ⟨.ar, .dev⟩ .ca (.v 0) (.v 0) 0, .sth h0 .b32 ⟨.acq, .dev⟩ .ca (.v 0) (.v 0) 0, .acp h0 .host .glob false ⟨false, false, .grp⟩ (.v 0) (.s 0) (.s 0) (.s 0),
    .acp h0 .glob .glob false ⟨false, false, .grp⟩ (.s 1) (.s 0) (.s 0) (.s 0), .qbpop ⟨⟨0, false⟩, .a⟩ (.a 1), .fetest h0 .test ⟨.ar, .grp⟩ 1 (.v 0) 0] : List Instr), i.wf = false := by decide

theorem test_ill_sync : ∀ i ∈ ([
    .atom h0 .add ⟨.rlx, .dev⟩ .b16 .glob (.v 0) (.v 0) (.v 0), .atom h0 .fadd ⟨.rlx, .dev⟩ .b64 .glob (.v 0) (.v 0) (.v 0),
    .red h0 .exch ⟨.rlx, .dev⟩ .b32 .glob (.v 0) (.v 0), .red h0 .add ⟨.acq, .dev⟩ .b32 .glob (.v 0) (.v 0), .cas h0 ⟨.rlx, .dev⟩ .b128 .glob (.v 0) (.v 0) (.v 0) (.v 0) 1,
    .obinit h0 .stack ⟨.rlx, .sys⟩ 0 false 0 (.s 0) (.s 0), .obinit h0 .stack ⟨.acq, .dev⟩ 0 false 0 (.s 0) (.s 0), .barinit h0 false ⟨.rlx, .sys⟩ (.s 0) (.s 0) 1,
    .barv h0 ⟨.acq, .dev⟩ (.s 0) (.s 0) (.s 0), .bardrop h0 ⟨.ar, .dev⟩ (.s 0) (.s 0), .btest h0 ⟨.rel, .dev⟩ (.s 0) (.s 0) 1,
    .sred h0 .addN64 2 ⟨.rlx, .dev⟩ (.s 0) (.s 0) (.s 0) (.s 0), .msend h0 ⟨.acq, .dev⟩ (.s 0) (.v 0) 1, .mrecv h0 ⟨.rel, .dev⟩ 0 (.v 0) 1,
    .park h0 false .peer 0 (.s 0), .park h0 false .glob 1 (.s 0), .xscale h0 ⟨.acq, .dev⟩ 0 (.s 0) (.s 0) (.s 0) (.s 0)] : List Instr), i.wf = false := by decide

theorem test_ill_matrix : ∀ i ∈ ([
    .gmma h0 false 3 0 0 (.v 0) (.v 0) (.v 0) (.v 0), .gmma h0 false 0 61 0 (.v 0) (.v 0) (.v 0) (.v 0), .gmma h0 false 0 0 17 (.v 0) (.v 0) (.v 0) (.v 0),
    .cvtdxb h0 false 0 5 (.v 0) (.v 0), .lmma h0 ⟨false, true, .grp⟩ 0 0 0 false (.s 0) (.s 0) (.s 0), .lmmv h0 ⟨false, true, .grp⟩ 0 0 0 0 (.s 0) (.s 0) (.s 0),
    .lload h0 true ⟨false, false, .grp⟩ 0 2 (.s 0) (.s 0), .lload h0 false ⟨false, true, .grp⟩ 0 2 (.s 0) (.s 0), .lstore h0 true true ⟨false, false, .grp⟩ 0 0 (.s 0) (.s 0),
    .lstore h0 false false ⟨true, false, .grp⟩ 0 0 (.s 0) (.s 0), .lcmd h0 0 1 0 1 (.s 0), .tmerge h0 0 .f16 ⟨false, false, .grp⟩ (.s 0) (.s 0) (.s 0) (.v 0),
    .tunmerge h0 0 .f16 ⟨false, false, .grp⟩ (.s 0) (.s 0) (.s 0), .smaxr h0 false 0 false false 17 (.v 0) (.v 0) (.v 0) (.v 0)] : List Instr), i.wf = false := by decide
/-! ## The hypotheses of the statements about classes 000-010 can be met -/

theorem witness_IntegerArithmetic : Shaped baseG ∧
    (∀ i ∈ (integerRows h0 .i32 true (.v 9) (.s 10) (.r (.const 3)) (.v 17)).map (·.1) ++ (integerRows h0 .i64 false (.s 62) (.s 8) (.i 0xFFFFFFFF) (.s 4)).map (·.1),
      Issues i base baseG) ∧
    (∀ i ∈ ((wideRows h0 .i32 true false (.v 8) (.s 10) (.i 7) (.v 16) 5 6).map (·.1)).take 1 ++
      ((wideRows h0 .n8 true false (.v 8) (.s 10) (.r (.v 2)) (.v 16) 63 0).map (·.1)).drop 1, Issues i base baseG) :=
  ⟨baseG_shaped, issue_all rfl (by decide), issue_all rfl (by decide)⟩

theorem witness_LogicShiftsAndMove : Shaped baseG ∧
    (∀ i ∈ (logicRows h0 .b32 (.v 9) (.s 10) (.r (.const 3)) (.v 4) (.v 17) 0xCA).map (·.1) ++ (logicRows h0 .n64 (.s 8) (.s 10) (.i 5) (.s 2) (.s 4) 0).map (·.1) ++
      (shiftRows h0 .b32 (.v 9) (.v 1) (.r (.v 2))).map (·.1) ++ (shiftRows h0 .n64 (.v 62) (.v 60) (.i 64)).map (·.1), Issues i base baseG) ∧
    ∀ i ∈ (logicRows h0 .n64 (.a 9) (.a 10) (.r (.a 3)) (.a 4) (.a 17) 0xCA).map (·.1), Issues i (onA base) baseG :=
  ⟨baseG_shaped, issue_all rfl (by decide), issue_all rfl (by decide)⟩

theorem witness_BitFieldsAndCounts : Shaped baseG ∧
    ∀ i ∈ ((fieldRows h0 .i32 (.v 9) (.s 10) (.r (.v 3)) (.v 17)).map (·.1)).take 4 ++ ((fieldRows h0 .n64 (.v 8) (.s 10) (.i 0x040C) (.v 16)).map (·.1)).drop 4,
      Issues i base baseG :=
  ⟨baseG_shaped, issue_all rfl (by decide)⟩

theorem witness_LogicShiftsAndMove_select : Shaped baseG ∧
    (∀ i ∈ (selectRows h0 .n64 7 (.v 8) (.v 10) (.i 4) (.v 0) 0xFFFFFFFF 7).map (·.1), Issues i base baseG) ∧
    ∀ i ∈ (selectRows h0 .n64 0 (.a 8) (.a 10) (.r (.a 4)) (.a 6) 1 0).map (·.1), Issues i (onA base) baseG :=
  ⟨baseG_shaped, issue_all rfl (by decide), issue_all rfl (by decide)⟩

theorem witness_FloatArithmetic : Shaped baseG ∧
    ∀ i ∈ (floatRows h0 .f32 .rne true (.v 9) (.s 10) (.i 0x3F800000) (.v 17)).map (·.1) ++ (floatRows h0 .bf16 .rup false (.v 9) (.v 10) (.r (.v 11)) (.v 17)).map (·.1),
      Issues i base baseG :=
  ⟨baseG_shaped, issue_all rfl (by decide)⟩

theorem witness_FloatFunctions : Shaped baseG ∧
    (∀ i ∈ (float1Rows h0 .rdn true (.v 9) (.s 10) (.i 3)).map (·.1), Issues i base baseG) ∧
    ((F32.decode 0x7F800001).isNan = true ∧ (F32.decode 0xFF800000).isInf = true ∧ (F32.decode 0x80000000).isZero = true ∧
      F32.decode 0x3FC00000 = .fin false 12582912 (-23)) :=
  ⟨baseG_shaped, issue_all rfl (by decide), by decide⟩

theorem witness_Compare : Shaped baseG ∧
    (∀ i ∈ ([.iset h0 .i32 .lt .and 5 6 (.v 0) (.v 1) (.const 0), .isetI h0 .n64 .ge 63 (.v 0) (.v 2) 7, .fset h0 .un .xor 5 6 (.v 1) (.v 2), .fsetI h0 .le 1 (.v 1) 0] : List Instr),
      Issues i base baseG) ∧
    ∀ i ∈ ([.iset h0 .i64 .eq .none 0 0 (.a 1) (.a 2) (.a 3), .isetI h0 .i64 .ne 0 (.a 1) (.a 2) 7] : List Instr), Issues i (onA base) baseG :=
  ⟨baseG_shaped, issue_all rfl (by decide), issue_all rfl (by decide)⟩

theorem witness_Conversions : Shaped baseG ∧
    ∀ i ∈ ([.fcvt h0 .f16 .f32 .rne true true 1 0 (.v 9) (.s 10), .fcvt h0 .e5m2 .i32 .rdn false false 3 0 (.v 9) (.v 10), .fcvt h0 .i64 .f32 .rtz false false 0 0 (.v 8) (.v 10),
      .icvt h0 .i8 .i64 true (.v 9) (.v 10)] : List Instr), Issues i base baseG :=
  ⟨baseG_shaped, issue_all rfl (by decide)⟩

theorem witness_PredicatesAndVote : Shaped baseG ∧
    ∀ i ∈ ([.plop h0 0 1 2 3 0x80, .plop h0 63 1 2 3 0xE8, .pmovv h0 (.v 3) 32 31, .vmovp h0 (.v 3) 63 0, .vote h0 .mask 0 false (.s 3) 0 4, .vote h0 .cnt 0 false (.v 3) 0 4,
      .vote h0 .ge 32 true (.v 0) 5 4, .vote h0 .same 0 false (.v 0) 63 4] : List Instr), Issues i base baseG :=
  ⟨baseG_shaped, issue_all rfl (by decide)⟩

theorem witness_ReduceAndScan : Shaped baseG ∧
    ∀ i ∈ ([.lred h0 .i32 .iadd (.v 3) (.v 4), .lred h0 .f32 .fadd (.s 3) (.v 4), .lred h0 .n64 .xor (.s 4) (.v 4), .lscan h0 .i64 .imin true (.v 6) (.v 4),
      .lscan h0 .f32 .fmax false (.v 3) (.v 4)] : List Instr), Issues i base baseG :=
  ⟨baseG_shaped, issue_all rfl (by decide)⟩

theorem witness_ShuffleBroadcastAndFirst : Shaped baseG ∧
    ∀ i ∈ ([.shfl h0 .xor 0 (.v 3) (.v 4) (.const 16) 5, .shfl h0 .sh 4 (.v 3) (.v 4) (.v 5) 0, .shflI h0 .rot (.v 3) (.v 4) 31 5, .lfirst h0 .n64 (.s 4) (.v 4)] : List Instr) ++
      ([.r (.s 5), .i 31] : List Src).map (fun b => forms (.lbcast h0 .b32 (.s 3) (.v 4)) (.lbcastI h0 .b32 (.s 3) (.v 4)) b), Issues i base baseG :=
  ⟨baseG_shaped, issue_all rfl (by decide)⟩
/-! ## Floating-point inputs for each case of the rules -/

theorem witness_Rounding : F32 ∈ formats ∧ E4M3 ∈ formats ∧ (0 : Nat) < 1 := by
  refine ⟨by simp [formats], by simp [formats], by decide⟩

theorem one_lt_two : Below (F32.decode 0x3F800000) (F32.decode 0x40000000) := by
  have h1 : F32.decode 0x3F800000 = .fin false 8388608 (-23) := by decide
  have h2 : F32.decode 0x40000000 = .fin false 8388608 (-22) := by decide
  rw [h1, h2]
  norm_num [Below, numberOf]

/-- Blocks of CVTDXB with an infinity, with nothing to encode, and with a largest magnitude of 1; a NaN, an infinity and a number to encode; the words of a collective with and
without a mask, and sums that are zero and not. -/
theorem witness_FixedTreesAndBlocks :
    ((∃ x ∈ [0x7F800000, 0], (F32.decode x).isInf = true) ∧ ∀ x ∈ [0x7FC00000, 0x80000000], (F32.decode x).isNan = true ∨ (F32.decode x).isZero = true) ∧
    ((∀ x ∈ [0x3F800000], (F32.decode x).isInf = false ∧ |numberOf (F32.decode x)| < (2 : ℚ) ^ ((0 : ℤ) + 1)) ∧
      ∃ x ∈ [0x3F800000], (2 : ℚ) ^ (0 : ℤ) ≤ |numberOf (F32.decode x)|) ∧
    ((F32.decode 0x7F800001).isNan = true ∧ F32.decode 0xFF800000 = .inf true ∧ F32.decode 0x3F800000 = .fin false 8388608 (-23)) ∧
    (([0x3F800000] : List Nat).length ≤ 32 ∧ ∀ x ∈ [0x3F800000], x < 2 ^ 32) ∧ ((-149 : Int) ≠ -150 ∧ (1 : DWord) ≠ 0) := by
  have h1 : F32.decode 0x3F800000 = .fin false 8388608 (-23) := by decide
  refine ⟨by decide, ⟨?_, ?_⟩, by decide, by decide, by decide⟩
  · intro x hx
    rw [List.mem_singleton.mp hx, h1]
    exact ⟨rfl, by norm_num [numberOf]⟩
  · refine ⟨_, List.mem_singleton_self _, ?_⟩
    rw [h1]
    norm_num [numberOf]

/-- NaNs, infinities, zeros, a subnormal and normal numbers in the places that the clauses of R143 and R144 name. -/
theorem witness_FloatCases : Ty.f32.isArith = true ∧ fmtOf .f32 = F32 ∧ (F32.decode 0x7F800001).isNan = true ∧
    ((F32.decode 0x7F800000).isInf = true ∧ (F32.decode 0x7F800000).sign = false) ∧ ((F32.decode 0xFF800000).isInf = true ∧ (F32.decode 0xFF800000).sign = true) ∧
    ((F32.decode 0).isZero = true ∧ (F32.decode 0x80000000).isZero = true ∧ (F32.decode 0x80000000).sign = true) ∧
    F32.decode 1 = .fin false 1 (-149) ∧ F32.decode 0xBF800000 = .fin true 8388608 (-23) ∧
    ((F32.decode 0x7F800000).isNan || (F32.decode 1).isNan || (F32.decode 0x7F800000).isZero || (F32.decode 1).isZero) = false ∧
    Below (F32.decode 0x3F800000) (F32.decode 0x40000000) := by
  refine ⟨by decide, by decide, by decide, by decide, by decide, by decide, by decide, by decide, by decide, one_lt_two⟩

theorem three_not_pow2 (k : ℤ) : (3 : ℚ) ≠ 2 ^ k := by
  intro h
  rcases le_or_gt 2 k with hk | hk
  · have := zpow_le_zpow_right₀ (by norm_num : (1 : ℚ) ≤ 2) hk
    norm_num at this
    linarith
  · have := zpow_le_zpow_right₀ (by norm_num : (1 : ℚ) ≤ 2) (by omega : k ≤ 1)
    norm_num at this
    linarith

/-- A finite number for each clause of R147: a power of four, a number that is none, a negative one, 128, an integer exponent at each end, a number
between integers, and quarters of a turn. -/
theorem witness_SpecialFunctionTable :
    (F32.decode 0x7FC00000).isNan = true ∧ F32.decode 0xFF800000 = .inf true ∧ (F32.decode 0x80000000).isZero = true ∧
    (numberOf (F32.decode 0x40800000) = 4 ^ (1 : ℤ) ∧ numberOf (F32.decode 0x40800000) = 2 ^ (2 : ℤ)) ∧
    (numberOf (F32.decode 0x40400000) = 3 ∧ (∀ k : ℤ, numberOf (F32.decode 0x40400000) ≠ 4 ^ k) ∧ ∀ k : ℤ, numberOf (F32.decode 0x40400000) ≠ 2 ^ k) ∧
    (∃ m e, F32.decode 0xBF800000 = .fin true m e ∧ m ≠ 0) ∧ 128 ≤ numberOf (F32.decode 0x43000000) ∧
    (numberOf (F32.decode 0xC3150000) = (-149 : ℤ) ∧ numberOf (F32.decode 0x42FE0000) = (127 : ℤ)) ∧
    (numberOf (F32.decode 0x3E000000) < 128 ∧ (∀ k : ℤ, numberOf (F32.decode 0x3E000000) ≠ k) ∧ ∀ k : ℤ, 4 * numberOf (F32.decode 0x3E000000) ≠ k) ∧
    (4 * numberOf (F32.decode 0x3E800000) = (1 : ℤ) ∧ 4 * numberOf (F32.decode 0x3F000000) = (2 : ℤ) ∧ 4 * numberOf (F32.decode 0xBE800000) = (-1 : ℤ) ∧
      4 * numberOf (F32.decode 0x3F800000) = (4 : ℤ)) := by
  have d4 : F32.decode 0x40800000 = .fin false 8388608 (-21) := by decide
  have d3 : F32.decode 0x40400000 = .fin false 12582912 (-22) := by decide
  have dm : F32.decode 0xBF800000 = .fin true 8388608 (-23) := by decide
  have d128 : F32.decode 0x43000000 = .fin false 8388608 (-16) := by decide
  have dl : F32.decode 0xC3150000 = .fin true 9764864 (-16) := by decide
  have dh : F32.decode 0x42FE0000 = .fin false 16646144 (-17) := by decide
  have de : F32.decode 0x3E000000 = .fin false 8388608 (-26) := by decide
  have q1 : F32.decode 0x3E800000 = .fin false 8388608 (-25) := by decide
  have q2 : F32.decode 0x3F000000 = .fin false 8388608 (-24) := by decide
  have q3 : F32.decode 0xBE800000 = .fin true 8388608 (-25) := by decide
  have q4 : F32.decode 0x3F800000 = .fin false 8388608 (-23) := by decide
  have n3 : numberOf (.fin false 12582912 (-22)) = 3 := by norm_num [numberOf]
  have ne : numberOf (.fin false 8388608 (-26)) = 1 / 8 := by norm_num [numberOf]
  rw [d4, d3, dm, d128, dl, dh, de, q1, q2, q3, q4, n3, ne]
  refine ⟨by decide, by decide, by decide, ⟨by norm_num [numberOf], by norm_num [numberOf]⟩, ⟨rfl, ?_, three_not_pow2⟩, ⟨_, _, rfl, by decide⟩, by norm_num [numberOf],
    ⟨by norm_num [numberOf], by norm_num [numberOf]⟩, ⟨by norm_num, ?_, ?_⟩, by norm_num [numberOf], by norm_num [numberOf], by norm_num [numberOf], by norm_num [numberOf]⟩
  · intro k h
    apply three_not_pow2 (2 * k)
    rw [zpow_mul, h]; norm_num
  · intro k h
    have : (8 * k : ℤ) = 1 := by exact_mod_cast (by linarith : (8 * k : ℚ) = 1)
    omega
  · intro k h
    have : (2 * k : ℤ) = 1 := by exact_mod_cast (by linarith : (2 * k : ℚ) = 1)
    omega
/-! ## Control flow -/

/-- Predicate `n` holds in these lanes. -/
def setP (n : Nat) (m : Mask) (g : Group) : Group := { g with regs := { g.regs with p := g.regs.p.set n m } }

/-- Path 0 of the group changed. -/
def onPath (f : Path → Path) (g : Group) : Group := { g with paths := g.paths.map f }

theorem witness_BranchSplit :
    (let g := setP 5 0xFFFF baseG
     let i := Instr.bra ⟨5, false⟩ 7 0 (.v 0)
     Issues i (withG (setP 5 0xFFFF)) g ∧ (withG (setP 5 0xFFFF)).isTarget g.gid.cluster g.slot 0x1000 = true ∧
       (∀ l < 32, (0xFFFF : Mask).getLsbD l = (envOf i (withG (setP 5 0xFFFF)) g).isActive l) ∧
       (∀ l < 32, (0xFFFF0000 : Mask).getLsbD l =
         ((envOf i (withG (setP 5 0xFFFF)) g).p.exec.getLsbD l && !(envOf i (withG (setP 5 0xFFFF)) g).isActive l)) ∧
       (envOf i (withG (setP 5 0xFFFF)) g).p.stack.length < 16) ∧
    (let f := fun g => onPath (fun p => { p with stack := List.range 16 }) (setP 5 0xFFFF g)
     Issues (.bra ⟨5, false⟩ 7 0 (.v 0)) (withG f) (f baseG) ∧ 16 ≤ (envOf (.bra ⟨5, false⟩ 7 0 (.v 0)) (withG f) (f baseG)).p.stack.length) :=
  ⟨⟨issues_of rfl (by decide), by decide, by decide, by decide, by decide⟩, issues_of rfl (by decide), by decide⟩

/-- A branch that all lanes take, one that none takes, the A-slice's with and without its register, bad targets on and off the 64-byte grid, and the indirect forms. -/
theorem witness_BranchesAndCalls : Shaped baseG ∧
    (Issues (.bra ⟨0, false⟩ 0 0 (.v 0)) base baseG ∧ base.isTarget 0 0 0x1000 = true ∧
      ∀ l < 32, (envOf (.bra ⟨0, false⟩ 0 0 (.v 0)) base baseG).p.exec.getLsbD l = true → (envOf (.bra ⟨0, false⟩ 0 0 (.v 0)) base baseG).isActive l = true) ∧
    (Issues (.bra ⟨0, true⟩ 0 0 (.v 0)) base baseG ∧ (∃ l < 32, (envOf (.bra ⟨0, true⟩ 0 0 (.v 0)) base baseG).p.exec.getLsbD l = true) ∧
      ∀ l < 32, (envOf (.bra ⟨0, true⟩ 0 0 (.v 0)) base baseG).isActive l = false) ∧
    (Issues (.bra ⟨0, false⟩ 0 0 (.v 0)) (onA base) baseG ∧ Issues (.bra ⟨0, false⟩ 0 0 (.a 0)) (onA base) baseG ∧ baseG.areg 0 = 0 ∧
      Issues (.bra ⟨0, false⟩ 0 0 (.a 1)) (withA fun g => { g with regs := { g.regs with a := g.regs.a.set 1 1 } })
        { baseG with regs := { baseG.regs with a := baseG.regs.a.set 1 1 } }) ∧
    (Issues (.bra ⟨0, false⟩ 0 1 (.v 0)) base baseG ∧ (((base.cur.addr : Int) + 4 * (1 : BitVec 32).toInt) % 2 ^ 64).toNat % 64 ∉ [0, 12, 24, 36, 48] ∧
      Issues (.bra ⟨0, false⟩ 0 0x80000000 (.v 0)) base baseG ∧ 2 ^ 56 ≤ (((base.cur.addr : Int) + 4 * (0x80000000 : BitVec 32).toInt) % 2 ^ 64).toNat) ∧
    (let f := fun g : Group => { g with regs := { g.regs with s := g.regs.s.set 2 0x1000 } }
     ∀ i ∈ ([.brx ⟨0, false⟩ (.s 2), .ret ⟨0, false⟩ (.s 2), .call ⟨0, false⟩ 0 (.s 4), .brx ⟨0, true⟩ (.s 2)] : List Instr), Issues i (withG f) (f baseG)) ∧
    (let f := fun g : Group => { g with regs := { g.regs with s := g.regs.s.set 2 0x1000 } }
     ((envOf (.brx ⟨0, false⟩ (.s 2)) (withG f) (f baseG)).rd (.s 2) true 0).toNat = 0x1000 ∧ (withG f).isTarget 0 0 0x1000 = true ∧
       (envOf (.brx ⟨0, false⟩ (.s 2)) (withG f) (f baseG)).uguard = true ∧ (envOf (.brx ⟨0, true⟩ (.s 2)) (withG f) (f baseG)).uguard = false) ∧
    (∀ i ∈ ([.brx ⟨0, false⟩ (.a 0), .call ⟨0, false⟩ 0 (.a 4)] : List Instr), Issues i (onA base) baseG) ∧
    (Memory.wf base.mem = true ∧ Issues (.call ⟨0, false⟩ 3 (.s 4)) base baseG ∧ NoTarget base 0 0 0x100C) :=
  ⟨baseG_shaped, ⟨issues_of rfl (by decide), by decide, by decide⟩, ⟨issues_of rfl (by decide), by decide, by decide⟩,
    ⟨issues_of rfl (by decide), issues_of rfl (by decide), by decide, issues_of rfl (by decide)⟩,
    ⟨issues_of rfl (by decide), by decide, issues_of rfl (by decide), by decide⟩, issue_all rfl (by decide), ⟨by decide, by decide, by decide, by decide⟩,
    issue_all rfl (by decide), by decide, issues_of rfl (by decide), .inr (.inr ⟨_, rfl, by decide⟩)⟩

/-- Two paths of a split: path 0 with the upper lanes and path 1, which runs or waits, with the lower. -/
def splitG (waits : Bool) (out : Mask) (g : Group) : Group :=
  let x : REntry := ⟨9, 7, 0xFFFFFFFF, 0xFFFFFFFF, ~~~out, if waits then 0xFFFF else 0, 0, 0, none⟩
  { g with
    ents := [x], nextPid := 2
    paths := [{ id := 0, pc := 0x1000, exec := 0xFFFF0000, held := 0xFFFF0000, stack := [9] },
      { id := 1, pc := 0x1000, exec := 0xFFFF, held := 0xFFFF, stack := if waits then [] else [9], split := some 0, st := if waits then .wait 9 else .run }] }

/-- A path with the upper lanes, which has a deferred path for the lower ones in its stack. -/
def deferG (g : Group) : Group :=
  { g with
    ents := [⟨9, 7, 0xFFFFFFFF, 0xFFFFFFFF, 0, 0, 0, 0, some ⟨0x1030, 0xFFFF, [9]⟩⟩], nextPid := 1
    paths := [{ id := 0, pc := 0x1000, exec := 0xFFFF0000, held := 0xFFFF0000, stack := [9] }] }

/-- The deferring group meets what `Defers` asks. -/
theorem defers_deferG : ∃ p x d, (deferG baseG).path 0 = some p ∧ p.id = 0 ∧ x.tok = 7 ∧ Defers (deferG baseG) p x d :=
  ⟨_, _, _, rfl, rfl, by decide, rfl, rfl, rfl, rfl, rfl, by decide, by decide⟩

theorem witness_Reconverge :
    (Issues (.recon ⟨0, false⟩ 7) (withG deferG) (deferG baseG) ∧ (envOf (.recon ⟨0, false⟩ 7) (withG deferG) (deferG baseG)).uguard = true ∧ (withG deferG).cur.p = 0 ∧
      ∃ p x d, (deferG baseG).path 0 = some p ∧ p.id = 0 ∧ x.tok = 7 ∧ Defers (deferG baseG) p x d) ∧
    (Issues (.recon ⟨0, false⟩ 7) base baseG ∧ (envOf (.recon ⟨0, false⟩ 7) base baseG).uguard = true ∧ ∃ p, baseG.path base.cur.p = some p ∧ p.stack = []) ∧
    (let f := splitG false 0xFFFFFFFF
     Issues (.recon ⟨0, false⟩ 7) (withG f) (f baseG) ∧ (envOf (.recon ⟨0, false⟩ 7) (withG f) (f baseG)).uguard = true ∧
       ∃ (x : REntry) (p w : Path), (f baseG).path 0 = some p ∧ (f baseG).ents = [x] ∧ x.tok = 7 ∧ x.deferred = none ∧ p.stack = [x.id] ∧ (f baseG).paths = [p, w] ∧
         w.id ≠ p.id ∧ w.stack = [x.id] ∧ w.st = .run ∧ x.mask &&& ~~~(x.arrived ||| p.held) ≠ 0) ∧
    (let f := splitG true 0xFFFF0000
     Issues (.recon ⟨0, false⟩ 7) (withG f) (f baseG) ∧ ∃ (x : REntry) (p w : Path), (f baseG).path 0 = some p ∧ (f baseG).ents = [x] ∧ x.tok = 7 ∧ x.deferred = none ∧
       p.stack = [x.id] ∧ (f baseG).paths = [p, w] ∧ w.id ≠ p.id ∧ w.st = .wait x.id ∧ w.stack = [] ∧ x.owner = p.id ∧ x.mask &&& ~~~(x.arrived ||| p.held) = 0 ∧
       p.st = .run) :=
  ⟨⟨issues_of rfl (by decide), by decide, rfl, defers_deferG⟩, ⟨issues_of rfl (by decide), by decide, _, rfl, rfl⟩,
    ⟨issues_of rfl (by decide), by decide, _, _, _, rfl, rfl, by decide, by decide, by decide, rfl, by decide, by decide, by decide, by decide⟩,
    ⟨issues_of rfl (by decide), _, _, _, rfl, rfl, by decide, by decide, by decide, rfl, by decide, by decide, by decide, by decide, by decide, by decide⟩⟩

theorem witness_ExitEnds :
    (Issues (.exit ⟨0, false⟩) (withG deferG) (deferG baseG) ∧ (envOf (.exit ⟨0, false⟩) (withG deferG) (deferG baseG)).uguard = true ∧
      ∃ p x d, (deferG baseG).path 0 = some p ∧ p.id = 0 ∧ x.tok = 7 ∧ Defers (deferG baseG) p x d) ∧
    (Issues (.exit ⟨0, true⟩) base baseG ∧ (envOf (.exit ⟨0, true⟩) base baseG).uguard = false) ∧ Issues (.exit ⟨0, false⟩) (onA base) baseG ∧
    (Issues (.exit ⟨0, false⟩) base baseG ∧ (envOf (.exit ⟨0, false⟩) base baseG).uguard = true ∧ ∃ p, baseG.paths = [p] ∧ p.id = base.cur.p ∧ p.stack = []) :=
  ⟨⟨issues_of rfl (by decide), by decide, defers_deferG⟩, ⟨issues_of rfl (by decide), by decide⟩, issues_of rfl (by decide), issues_of rfl (by decide), by decide, _, rfl,
    by decide, by decide⟩

theorem witness_HintsAndFalseGuards :
    (∀ i ∈ ([.nop, .pref h0 .ca (.s 2) 0x1FFFFF, .yield ⟨0, false⟩] : List Instr), Issues i base baseG) ∧ (envOf (.yield ⟨0, false⟩) base baseG).uguard = true ∧
    Issues (.yield ⟨0, false⟩) (onA base) baseG ∧
    (let ng : Guard := ⟨0, true⟩
     let k : Head := ⟨ng, .none⟩
     ∀ i ∈ ([.recon ng 7, .yield ng, .qbpush k (.s 1), .qsync ng 0, .bclose k (.s 1), .bwait k (.s 1) 5,
       .acp k .glob .shared false ⟨false, false, .grp⟩ (.v 0) (.s 2) (.s 4) (.s 6)] : List Instr), Issues i base baseG ∧ (envOf i base baseG).uguard = false) :=
  ⟨issue_all rfl (by decide), by decide, issues_of rfl (by decide), guard_all false rfl (by decide)⟩
/-! ## Memory, queues and commands -/

/-- A leaf entry of a 64 KiB page: a frame, a page type, and all permissions (R323). -/
def leafOf (frame type : Nat) : Nat := type * 2 ^ 55 + frame + 0x3F

/-- `base` with four pages of its context cached by its cluster (normal, host, private, sync), a mebibyte of scratchpad on die 0 and a peer window of 64 KiB. -/
def rich : State := { base with
  tlbs := { l1 := [⟨0, 0, leafOf 0x20000 0⟩, ⟨0, 1, leafOf 0x30000 1⟩, ⟨0, 2, leafOf 0x40000 2⟩, ⟨0, 3, leafOf 0x50000 4⟩] :: List.replicate 127 [] }
  ctxs := base.ctxs.set 0 { base.ctx 0 with pvbase := 0x20000, scratch := 1, wins := [(0, [7, 0x10000, 0, 0])] } }

/-- A state with its group changed. -/
def has (s : State) (f : Group → Group) : State := { s with groups := [f baseG] }

/-- An operation of path 0 that is in flight. -/
def anOp (id : Nat) (k : OpKind) (ok : OKind) : Op :=
  { id := id, pid := 0, kind := k, ok := ok, scope := .dev, flag := none, dsts := [], counted := false, pc := 0x1000, word := 0 }

/-- The key of a lane's access, where there is one. -/
def keyOf (s : State) (g : Group) (sp : MSpace) (l a n : Nat) (rd wr at_ : Bool) : Nat := match s.spaceKey g sp l a n rd wr at_ with
  | .ok k => k
  | .error _ => 0

def accessOk? (s : State) (g : Group) (sp : MSpace) (n l a key : Nat) (wr : Bool) : Bool :=
  (!sp.wide || decide (a < 2 ^ 56)) && decide (a % n = 0) && decide (s.spaceKey g sp l a n (!wr) wr false = .ok key)

theorem accessOk_of {s : State} {g : Group} {sp : MSpace} {n l a key : Nat} {wr : Bool} (h : accessOk? s g sp n l a key wr = true) : AccessOk s g sp n l a key wr := by
  simp only [accessOk?, Bool.and_eq_true, Bool.or_eq_true, Bool.not_eq_true', decide_eq_true_eq] at h
  refine ⟨fun hw => ?_, h.1.2, h.2⟩
  rcases h.1.1 with h' | h'
  · rw [hw] at h'; cases h'
  · exact h'

/-- A load issues and its lanes' accesses are good. -/
def goodLoads (s : State) (g : Group) (fs : List LoadForm) : Prop := ∀ f ∈ fs, Issues f.i s g ∧ accessLanes (envOf f.i s g) f.d.isS ≠ [] ∧
  ∃ key : Nat → Nat, ∀ l ∈ accessLanes (envOf f.i s g) f.d.isS, AccessOk s g f.sp f.w.bytes l (accessAddr (envOf f.i s g) f.sp f.a f.off l) (key l) false

theorem goodLoads_of {s : State} {g : Group} {fs : List LoadForm} (h0 : s.groups[s.cur.g]? = some g)
    (h : fs.all (fun f => let e := envOf f.i s g
      let ls := accessLanes e f.d.isS
      issuable? f.i s g && ls != [] && ls.all fun l => let a := accessAddr e f.sp f.a f.off l
        accessOk? s g f.sp f.w.bytes l a (keyOf s g f.sp l a f.w.bytes true false false) false) = true) : goodLoads s g fs := by
  intro f hf
  have h := List.all_eq_true.mp h f hf
  simp only [Bool.and_eq_true, bne_iff_ne, List.all_eq_true] at h
  exact ⟨issues_of h0 h.1.1, h.1.2, _, fun l hl => accessOk_of (h.2 l hl)⟩

/-- A store issues and its lanes' accesses are good. -/
def goodStores (s : State) (g : Group) (fs : List StoreForm) : Prop := ∀ f ∈ fs, Issues f.i s g ∧ accessLanes (envOf f.i s g) (!f.a.isV && !f.b.isV) ≠ [] ∧
  ∃ key : Nat → Nat, ∀ l ∈ accessLanes (envOf f.i s g) (!f.a.isV && !f.b.isV),
    AccessOk s g f.sp f.w.bytes l (accessAddr (envOf f.i s g) f.sp f.a f.off l) (key l) true

theorem goodStores_of {s : State} {g : Group} {fs : List StoreForm} (h0 : s.groups[s.cur.g]? = some g)
    (h : fs.all (fun f => let e := envOf f.i s g
      let ls := accessLanes e (!f.a.isV && !f.b.isV)
      issuable? f.i s g && ls != [] && ls.all fun l => let a := accessAddr e f.sp f.a f.off l
        accessOk? s g f.sp f.w.bytes l a (keyOf s g f.sp l a f.w.bytes false true false) true) = true) : goodStores s g fs := by
  intro f hf
  have h := List.all_eq_true.mp h f hf
  simp only [Bool.and_eq_true, bne_iff_ne, List.all_eq_true] at h
  exact ⟨issues_of h0 h.1.1, h.1.2, _, fun l hl => accessOk_of (h.2 l hl)⟩

/-- A D-mode group. -/
def inD (g : Group) : Group := { g with dmode := true }

/-- A group with eight plain loads in flight. -/
def eightLoads (g : Group) : Group := { g with ops := List.replicate 8 { anOp 0 (.load [] 4 false (.v 9) false none) .ld with plain := true } }

/-- Loads and stores of every space, per lane and uniform; an access with no active lane; eight plain loads in flight; a D-mode group. -/
theorem witness_LoadsAndStoresIssue :
    goodLoads (has rich id) baseG ((loadForms h0 .b32 false ⟨.acq, .grp⟩ .ca (.v 4) (.v 2) 4 5).take 6 ++ (loadForms h0 .b16 true ⟨.rlx, .grp⟩ .ca (.s 4) (.s 2) 0x10002 5).drop 6 ++
      ((loadForms h0 .b128 false ⟨.rlx, .grp⟩ .ca (.v 4) (.v 8) 0xFFF0 5).drop 4).take 1) ∧
    goodStores (has rich id) baseG ((storeForms h0 .b32 ⟨.rel, .grp⟩ .ca (.v 2) (.v 4) 4 5).take 6 ++ (storeForms h0 .b8 ⟨.rlx, .grp⟩ .ca (.s 2) (.const 1) 0x1FFFF 5).drop 7 ++
      (storeForms h0 .b64 ⟨.rlx, .grp⟩ .ca (.s 2) (.s 4) 0x10000 5).drop 6) ∧
    (let k : Head := ⟨⟨0, true⟩, .a⟩
     ∀ i ∈ ((loadForms k .b32 false ⟨.rlx, .grp⟩ .ca (.v 4) (.v 2) 4 5).map (·.i)), Issues i rich baseG ∧ accessLanes (envOf i rich baseG) false = []) ∧
    (goodLoads (has rich eightLoads) (eightLoads baseG) (((loadForms h0 .b32 false ⟨.rlx, .dev⟩ .ca (.v 4) (.v 2) 4 5).drop 4).take 1) ∧ 8 ≤ (eightLoads baseG).plainLoads) ∧
    (goodStores (has rich inD) (inD baseG) (((storeForms h0 .b32 ⟨.rel, .team⟩ .ca (.v 2) (.v 4) 4 5).drop 1).take 5) ∧ (inD baseG).cbuf.length < 512) := by
  refine ⟨goodLoads_of rfl (by decide), goodStores_of rfl (by decide), ?_, ⟨goodLoads_of rfl (by decide), by decide⟩, goodStores_of rfl (by decide), by decide⟩
  intro k i hi
  refine ⟨issue_all rfl (by decide) i hi, ?_⟩
  revert i
  decide

/-- Lane 1 of V2 holds 2. -/
def oddLane (g : Group) : Group := { g with regs := { g.regs with v := g.regs.v.set 2 ((List.replicate 32 0).set 1 2) } }

/-- The first lane, and a later one after a good one, of a misaligned access, and an access beyond 2^56. -/
theorem witness_MisalignedFaults :
    (Issues (.ldg h0 .b32 false ⟨.rlx, .dev⟩ .ca (.s 4) (.s 2) 2) rich baseG ∧ accessLanes (envOf (.ldg h0 .b32 false ⟨.rlx, .dev⟩ .ca (.s 4) (.s 2) 2) rich baseG) true = [] ++ 0 :: [] ∧
      accessAddr (envOf (.ldg h0 .b32 false ⟨.rlx, .dev⟩ .ca (.s 4) (.s 2) 2) rich baseG) .g (.s 2) 2 0 = 2) ∧
    (Issues (.ldg h0 .b32 false ⟨.rlx, .dev⟩ .ca (.s 4) (.s 2) 0x1FFFFF) rich baseG ∧
      2 ^ 56 ≤ accessAddr (envOf (.ldg h0 .b32 false ⟨.rlx, .dev⟩ .ca (.s 4) (.s 2) 0x1FFFFF) rich baseG) .g (.s 2) 0x1FFFFF 0) ∧
    (let i := Instr.stp h0 .b32 ⟨.rlx, .grp⟩ .ca (.v 2) (.v 4) 0
     let s := has rich oddLane
     let g := oddLane baseG
     Issues i s g ∧ accessLanes (envOf i s g) false = [0] ++ 1 :: (List.range 30).map (· + 2) ∧ accessOk? s g .p 4 0 (accessAddr (envOf i s g) .p (.v 2) 0 0) 0x40000 true = true ∧
       accessAddr (envOf i s g) .p (.v 2) 0 1 % 4 ≠ 0) ∧
    (Issues (.stx h0 .b64 ⟨.rlx, .dev⟩ .ca (.s 2) (.s 4) 0x1FFFF8) rich baseG ∧ Issues (.sts h0 .b32 ⟨.rlx, .grp⟩ .ca (.v 2) (.v 4) 1 false 0) rich baseG) ∧
    Memory.wf rich.mem = true ∧ Memory.wf (has rich oddLane).mem = true :=
  ⟨⟨issues_of rfl (by decide), by decide, by decide⟩, ⟨issues_of rfl (by decide), by decide⟩, ⟨issues_of rfl (by decide), by decide, by decide, by decide⟩,
    ⟨issues_of rfl (by decide), issues_of rfl (by decide)⟩, by decide, by decide⟩

/-- A group with these operations in flight. -/
def flying (os : List Op) (g : Group) : Group := { g with ops := os }

theorem shaped_flying (os : List Op) : Shaped (flying os baseG) :=
  ⟨baseG_shaped.v, baseG_shaped.s, baseG_shaped.a, baseG_shaped.p, baseG_shaped.flags, baseG_shaped.q, baseG_shaped.raised, baseG_shaped.sbud⟩

/-- A load into V registers of two lanes, one into the last pair of S registers, and a store of two lanes. -/
theorem witness_LoadsAndStoresEnd : Memory.wf base.mem = true ∧
    (∀ o ∈ [{ anOp 5 (.load [(0, 0x20000), (31, 0x20001)] 1 true (.v 63) false none) .ld with dsts := [.v 63] },
      { anOp 5 (.load [(0, 0x20008)] 8 false (.s 62) true none) .aq with dsts := [.s 62, .s 63] }, anOp 5 (.store [(0, 0x20000, 7), (3, 0x20002, 1)] 4) .st],
      Shaped (flying [o] baseG) ∧ (withG (flying [o])).findOp 0 5 = some (flying [o] baseG, o) ∧ (flying [o] baseG).mayPerform o = true ∧ o.late = none ∧
        ∀ r ∈ vRefs o.dsts, r ∈ (flying [o] baseG).vres) ∧
    (1 ∈ [1, 2, 4, 8, 16] ∧ ([(0, 0x20000), (31, 0x20001)].map (·.1)).Nodup ∧ (63 : BitVec 8).toNat + wordsOf 1 ≤ baseG.vbud) ∧ (62 : BitVec 6).toNat + wordsOf 8 ≤ 64 := by
  refine ⟨by decide, fun o ho => ⟨shaped_flying _, ?_, ?_, ?_, ?_⟩, by decide, by decide⟩ <;> revert o <;> decide

theorem witness_FullEmptyBits : Memory.wf base.mem = true ∧
    (∀ o ∈ [{ anOp 5 (.load [(0, keyShared 0 0), (31, keyShared 0 64)] 4 false (.v 9) false (some 1)) .ld with dsts := [.v 9] }, anOp 5 (.fill [(0, keyShared 0 0, 7), (31, keyShared 0 64, 7)] 4 63 false) .st],
      Shaped (flying [o] baseG) ∧ (withG (flying [o])).findOp 0 5 = some (flying [o] baseG, o) ∧ (flying [o] baseG).mayPerform o = true ∧ o.late = none ∧
        ∀ r ∈ vRefs o.dsts, r ∈ (flying [o] baseG).vres) ∧
    (∀ i ∈ ([.test, .set, .clr] : List FeOp).map (fun op => Instr.fetest h0 op ⟨.rlx, .grp⟩ 5 (.v 2) 64), Issues i base baseG ∧ Issues i (withG inD) (inD baseG)) ∧ baseG.ops = [] ∧
    (∀ l < 32, base.sharedKey baseG (accessAddr (envOf (.fetest h0 .test ⟨.rlx, .grp⟩ 5 (.v 2) 64) base baseG) .s (.v 2) 64 l) 1 = .ok (keyShared 0 64)) ∧
    goodLoads (has rich inD) (inD baseG) (((loadForms h0 .b64 false ⟨.rlx, .grp⟩ .ca (.v 4) (.v 2) 8 5).drop 2).take 1) ∧ (inD baseG).dmode = true ∧ (inD baseG).ops = [] := by
  refine ⟨by decide, fun o ho => ⟨shaped_flying _, ?_, ?_, ?_, ?_⟩, fun i hi => ⟨issue_all rfl (by decide) i hi, issue_all rfl (by decide) i hi⟩, rfl, by decide,
    goodLoads_of rfl (by decide), rfl, rfl⟩ <;>
    revert o <;> decide

/-- SLIP is 1, queue 0 holds an entry, and A1 points at an absent page. -/
def fullQueue (g : Group) : Group := { g with regs := { g.regs with slip := 1, a := g.regs.a.set 1 0x40000 }, q := [[.data []], [], [], []] }

theorem witness_HodQueueLoad :
    (Issues (.ldq ⟨0, false⟩ 0 .ca (.a 0) 0) (has (onA rich) fullQueue) (fullQueue baseG) ∧ (fullQueue baseG).regs.slip ≤ ((fullQueue baseG).q.getD 0 []).length) ∧
    (Issues (.ldq ⟨0, false⟩ 3 .ca (.a 0) 0xFF80) (onA rich) baseG ∧ (baseG.q.getD 3 []).length < baseG.regs.slip ∧ baseG.qsyncWaits = false ∧
      ∃ ks, (onA rich).taggedKeys baseG 0xFF80 128 4 needR = .ok ks) ∧
    (Issues (.ldq ⟨0, false⟩ 1 .ca (.a 1) 0) (has (onA rich) fullQueue) (fullQueue baseG) ∧ ((fullQueue baseG).q.getD 1 []).length < (fullQueue baseG).regs.slip ∧
      ∃ c a, (has (onA rich) fullQueue).taggedKeys (fullQueue baseG) 0x40000 128 4 needR = .error (c, a)) ∧
    (let o := anOp 5 (.ldq 0 0 ((List.range 128).map (0x20000 + ·))) .ld
     (withG (flying [o])).findOp 0 5 = some (flying [o] baseG, o)) :=
  ⟨⟨issues_of rfl (by decide), by decide⟩, ⟨issues_of rfl (by decide), by decide, by decide, _, rfl⟩, ⟨issues_of rfl (by decide), by decide, _, _, rfl⟩, by decide⟩

/-- QB holds `n` entries and the A-slice is as given. -/
def withQb (n : Nat) (a : ASt) (g : Group) : Group := { g with qb := List.replicate n 1, ast := a }

theorem witness_QueueBackAndSync : Shaped baseG ∧
    (∀ f ∈ [withQb 7 .run, withQb 8 .run, withQb 8 (.halted { code := .misaligned } (some 0) false), withQb 8 .absent, withQb 8 .exited],
      Issues (.qbpush h0 (.s 1)) (withG f) (f baseG) ∧ (envOf (.qbpush h0 (.s 1)) (withG f) (f baseG)).uguard = true) ∧
    (Issues (.qbpop h0 (.a 63)) (onA base) baseG ∧ baseG.qb = [] ∧ Issues (.qbpop h0 (.a 63)) (withA (withQb 1 .run)) (withQb 1 .run baseG)) ∧
    (Issues (.qstat ⟨0, false⟩ (.a 0)) (onA base) baseG ∧ (∀ j < 4, (baseG.q.getD j []).length ≤ 16) ∧ baseG.qb.length ≤ 8) ∧
    (Issues (.qsync ⟨0, false⟩ 0) base baseG ∧ (envOf (.qsync ⟨0, false⟩ 0) base baseG).uguard = true ∧ baseG.paths.length = 1 ∧ baseG.ents = [] ∧
      base.isTarget 0 baseG.slot (((baseG.aentry : Int) + 4 * (0 : BitVec 32).toInt) % 2 ^ 64).toNat = true) ∧
    (Issues (.qsync ⟨0, false⟩ 0) (withG (splitG false 0xFFFFFFFF)) (splitG false 0xFFFFFFFF baseG) ∧ 1 < (splitG false 0xFFFFFFFF baseG).paths.length) := by
  refine ⟨baseG_shaped, ?_, ⟨issues_of rfl (by decide), rfl, issues_of rfl (by decide)⟩, ⟨issues_of rfl (by decide), by decide, by decide⟩,
    ⟨issues_of rfl (by decide), by decide, rfl, rfl, by decide⟩, issues_of rfl (by decide), by decide⟩
  intro f hf
  simp only [List.mem_cons, List.not_mem_nil, or_false] at hf
  rcases hf with rfl | rfl | rfl | rfl | rfl <;> exact ⟨issues_of rfl (by decide), by decide⟩
/-! ## Commands, batches and synchronisation -/

/-- S registers from S0 on. -/
def withS (ws : List Word) (g : Group) : Group := { g with regs := { g.regs with s := ws ++ g.regs.s.drop ws.length } }

/-- Operands for the commands: a zero address, one row from position 0, 16 bytes, one token of depth 1, K of 32, and an address in
shared memory. -/
def args (g : Group) : Group := withS [0, 0, 0, 1, 16, 0, 1, 0x10000, 32, 0, 0, 0x40000000] g

/-- Form `n` of a list issues under a true guard, its checks hold, and the Lathe is free for its tiles. -/
def accepts (s : State) (g : Group) (L : List CommandForm) (n : Nat) : Prop := ∃ r, L[n]? = some r ∧ Issues r.i s g ∧ (envOf r.i s g).uguard = true ∧ r.ok ∧
  ∀ ts, r.tiles = some ts → latheFree s g ts

theorem witness_CommandsAccepted :
    let s := has rich args
    let g := args baseG
    let q : AcqRel := ⟨false, false, .grp⟩
    let cf (i : Instr) (ar : AcqRel) (d a b c : Operand) := copyForms s g (envOf i s g) h0 .glob .shared false false ar d a b c 20 5 .k 0 .f16 1
    let lf (i : Instr) (f32 : Bool) (a b c : Operand) :=
      latheForms s g (envOf i s g) h0 q 0 1 f32 false false (if f32 then 0 else 0x3F) 0x3F 0 8 a b c ⟨0, 0, 0, 0, false⟩ ⟨0, 0, 0, 0, false⟩
    g.cbuf.length < 512 ∧
    accepts s g (cf (.acp h0 .glob .shared false q (.v 0) (.s 0) (.s 0) (.s 4)) q (.v 0) (.s 0) (.s 0) (.s 4)) 0 ∧
    accepts s g (cf (.kvgather h0 .k false q (.s 0) (.s 2) (.s 0)) q (.v 0) (.s 0) (.s 2) (.s 0)) 1 ∧
    accepts s g (cf (.kvappend h0 q (.s 20) (.s 0) (.s 3) 5) q (.v 0) (.s 0) (.s 3) (.s 0)) 2 ∧
    accepts s g (cf (.kvshare h0 q (.s 20) (.s 0) (.s 0) (.s 0) 5) q (.v 0) (.s 0) (.s 0) (.s 0)) 3 ∧
    accepts s g (cf (.tmatch h0 0 .f16 q (.s 0) (.s 0) (.s 6)) q (.s 0) (.s 0) (.s 0) (.s 6)) 4 ∧
    accepts s g (cf (.tmerge h0 1 .f16 q (.s 0) (.s 0) (.s 0) (.v 0)) q (.s 0) (.s 0) (.s 0) (.v 0)) 5 ∧
    accepts s g (cf (.tunmerge h0 1 .f16 q (.s 0) (.s 0) (.s 0)) q (.s 0) (.s 0) (.s 0) (.v 0)) 6 ∧
    accepts s g (lf (.lzero h0 0) false (.s 0) (.s 0) (.s 8)) 0 ∧
    accepts s g (lf (.lread h0 0 (.v 8) (.s 0)) false (.s 0) (.s 0) (.s 8)) 1 ∧
    accepts s g (lf (.lload h0 true q 0 0 (.s 0) (.s 0)) true (.s 0) (.s 0) (.s 8)) 2 ∧
    accepts s g (lf (.lload h0 false q 0 0x3F (.s 0) (.s 0)) false (.s 0) (.s 0) (.s 8)) 2 ∧
    accepts s g (lf (.lstore h0 true false q 0 0 (.s 0) (.s 0)) true (.s 0) (.s 0) (.s 8)) 3 ∧
    accepts s g (lf (.lmmv h0 q 0 0x3F 1 0 (.s 0) (.s 8) (.s 8)) false (.s 0) (.s 8) (.s 8)) 5 := by
  intro s g q cf lf
  have t0 : ∀ {α : Type} {p : α → Prop} (ts : α), none = some ts → p ts := fun _ h => by cases h
  refine ⟨by decide, ⟨_, rfl, issues_of rfl (by decide), by decide, ⟨by decide, by decide, by decide, by decide, by decide, ?_⟩, t0⟩,
    ⟨_, rfl, issues_of rfl (by decide), by decide, ⟨by decide, by decide, by decide, ?_, keyShared 0 0, by decide⟩, t0⟩,
    ⟨_, rfl, issues_of rfl (by decide), by decide, ⟨by decide, by decide, ?_⟩, t0⟩, ⟨_, rfl, issues_of rfl (by decide), by decide, ?_, t0⟩,
    ⟨_, rfl, issues_of rfl (by decide), by decide, ⟨by decide, by decide, by decide, by decide, by decide, by decide, by decide, ?_⟩, t0⟩,
    ⟨_, rfl, issues_of rfl (by decide), by decide, ⟨?_, ?_⟩, t0⟩, ⟨_, rfl, issues_of rfl (by decide), by decide, ⟨?_, ?_⟩, t0⟩,
    ⟨_, rfl, issues_of rfl (by decide), by decide, trivial, ?_⟩, ⟨_, rfl, issues_of rfl (by decide), by decide, by decide, ?_⟩,
    ⟨_, rfl, issues_of rfl (by decide), by decide, ⟨by decide, by decide, by decide, ?_, by decide⟩, ?_⟩,
    ⟨_, rfl, issues_of rfl (by decide), by decide, ⟨by decide, by decide, by decide, ?_, fun _ => by decide⟩, ?_⟩,
    ⟨_, rfl, issues_of rfl (by decide), by decide, ⟨⟨by decide, by decide, by decide, ?_, by decide⟩, by decide⟩, ?_⟩,
    ⟨_, rfl, issues_of rfl (by decide), by decide, ⟨by decide, by decide, by decide, by decide, by decide, by decide, ?_, by decide⟩, ?_⟩⟩
  all_goals first | (intro r hr; revert r; decide) | (rintro ts ⟨⟩; exact ⟨by decide, by decide⟩)

/-- LMMA of 32 columns, of none, and of a tile of an accepted stream. -/
theorem witness_CommandsAccepted_products :
    let q : AcqRel := ⟨false, false, .grp⟩
    let lf (s : State) (i : Instr) (a b c : Operand) :=
      latheForms s (args baseG) (envOf i s (args baseG)) h0 q 0 1 false false false 0x3F 0x3F 0 8 a b c ⟨0, 0, 0, 0, false⟩ ⟨0, 0, 0, 0, false⟩
    let s := has rich args
    let g := args baseG
    accepts s g (lf s (.lmma h0 q 0 0x3F 0x3F false (.s 10) (.s 10) (.s 8)) (.s 10) (.s 10) (.s 8)) 4 ∧
    (let i := Instr.lmma h0 q 0 0x3F 0x3F false (.s 10) (.s 10) (.s 0)
     let e := envOf i s g
     Issues i s g ∧ e.u32 (.s 0) = 0 ∧ e.fmtBlock 0x3F = .ok ⟨0, 0, 0, 0, false⟩ ∧ pairFmt ⟨0, 0, 0, 0, false⟩ ⟨0, 0, 0, 0, false⟩ = true ∧
       tagged s g [(e.u64 (.s 10), 0, [1, 2])] ∧ s.scaleCheck g ⟨0, 0, 0, 0, false⟩ 0 = .ok () ∧ s.tileBusy g [0] = false) ∧
    (let c : Cmd := { id := 9, gid := baseG.gid, tag := baseG.tag, slot := 0, part := 0, lage := 0, ar := q, kind := .stream 0 0 ⟨0, 0, 0, 0, false⟩ ⟨0, 0, 0, 0, false⟩ (some ⟨0, 0, 0, 0, 1, 1, 1, 32, false, false, 0⟩) }
     let u := { has rich args with clusters := s.clusters.set 0 { s.cl 0 with lathe := [c] } }
     u.tileBusy g [0] = true ∧ Issues (.lzero h0 0) u g ∧ ∃ r, (lf u (.lzero h0 0) (.s 10) (.s 10) (.s 8))[0]? = some r ∧ r.i = .lzero h0 0 ∧ r.ok ∧ r.tiles = some [0]) := by
  intro q lf s g
  refine ⟨⟨_, rfl, issues_of rfl (by decide), by decide, ⟨by decide, by decide, by decide, by decide, by decide, by decide, by decide, ?_, by decide, by decide⟩, ?_⟩,
    ⟨issues_of rfl (by decide), by decide, by decide, by decide, ?_, by decide, by decide⟩, by decide, issues_of rfl (by decide), _, rfl, rfl, trivial, rfl⟩
  all_goals first | (intro r hr; revert r; decide) | (rintro ts ⟨⟩; exact ⟨by decide, by decide⟩)
/-- `rich` with bytes at a memory key. -/
def mem1 (s : State) (key : Nat) (bs : List Byte) : State := { s with mem := s.mem.setBytes key bs }

/-- A context with a collective table, whose entry 0 has two members, this one of rank 0. -/
def collS : State := mem1 { has rich args with ctxs := (has rich args).ctxs.set 0 { rich.ctx 0 with colltab := 0x70000 } } 0x70000 [1, 1]

/-- Format blocks in S20 (FMT 3) and the zero one in S22. -/
def fmts (g : Group) : Group := { args g with regs := { (args g).regs with s := (args g).regs.s.set 20 3 } }

/-- Streams that stand in the Lathe's queue. -/
def streams (n : Nat) (acc : Bool) (s : State) : State :=
  { s with clusters := s.clusters.set 0 { s.cl 0 with lathe := (List.range n).map fun k =>
    { id := k, gid := baseG.gid, tag := baseG.tag, slot := 0, part := 0, lage := 0, ar := ⟨false, false, .grp⟩
      kind := .stream 0 0 ⟨0, 0, 0, 0, false⟩ ⟨0, 0, 0, 0, false⟩ (if acc then some ⟨0, 0, 0, 0, 1, 1, 1, 32, false, false, 0⟩ else none) } } }

/-- A count of zero and a good one; a bad pair of formats, a misaligned descriptor, and a good one in a busy tile, a full queue, a free one and in D-mode. -/
theorem witness_LinkAndStreamCommands :
    (∀ i ∈ ([.xscale h0 ⟨.rel, .dev⟩ 0 (.s 0) (.s 0) (.s 0) (.s 0), .xred h0 ⟨.rlx, .dev⟩ 0 (.s 0) (.s 0) (.s 0) (.s 0), .xscale h0 ⟨.rel, .dev⟩ 0 (.s 0) (.s 0) (.s 0) (.s 3),
      .xred h0 ⟨.rlx, .dev⟩ 0 (.s 0) (.s 0) (.s 0) (.s 3)] : List Instr), Issues i collS (args baseG) ∧ (envOf i collS (args baseG)).uguard = true) ∧
    (1 ≤ 1 ∧ 1 ≤ 65536 ∧ collS.collValid 0 0 = true ∧ collS.rangeCheck 0 0 0 128 needR = .ok () ∧ collS.rangeCheck 0 0 0 8 needW = .ok () ∧
      collS.rangeCheck 0 0 0 128 { types := [0], r := true, w := true } = .ok ()) ∧
    Shaped (fmts baseG) ∧
    (let g := fmts baseG
     let i (cb : BitVec 6) (a : Operand) : Instr := .lcmd h0 0 0x3F cb 5 a
     let z : FmtBlock := ⟨0, 0, 0, 0, false⟩
     let ok (s : State) (g : Group) (i : Instr) : Prop := Issues i s g ∧ (envOf i s g).uguard = true ∧ (envOf i s g).fmtBlock 0x3F = .ok z
     (ok (has rich fmts) g (i 20 (.s 0)) ∧ (envOf (i 20 (.s 0)) (has rich fmts) g).fmtBlock 20 = .ok ⟨3, 0, 0, 0, false⟩ ∧ pairFmt z ⟨3, 0, 0, 0, false⟩ = false) ∧
     (ok (has rich fmts) g (i 0x3F (.s 4)) ∧ pairFmt z z = true ∧ (envOf (i 0x3F (.s 4)) (has rich fmts) g).u32 (.s 4) % 64 ≠ 0) ∧
     (∀ s ∈ [streams 1 true (has rich fmts), streams 16 false (has rich fmts), streams 15 false (has rich fmts)], ok s g (i 0x3F (.s 0)) ∧ s.sharedKey g 0 64 = .ok (keyShared 0 0)) ∧
     ((streams 1 true (has rich fmts)).tileBusy g [0] = true ∧ (streams 16 false (has rich fmts)).tileBusy g [0] = false ∧
       16 ≤ (((streams 16 false (has rich fmts)).cl 0).lathe.filter Cmd.isStream).length ∧ (((streams 15 false (has rich fmts)).cl 0).lathe.filter Cmd.isStream).length < 16) ∧
     ok (has rich fun g => inD (fmts g)) (inD (fmts baseG)) (i 0x3F (.s 0))) := by
  refine ⟨guard_all true rfl (by decide), by decide, by constructor <;> decide, ?_⟩
  refine ⟨⟨⟨issues_of rfl (by decide), by decide, by decide⟩, by decide, by decide⟩, ⟨⟨issues_of rfl (by decide), by decide, by decide⟩, by decide, by decide⟩, ?_, by decide,
    issues_of rfl (by decide), by decide, by decide⟩
  intro s hs
  simp only [List.mem_cons, List.not_mem_nil, or_false] at hs
  rcases hs with rfl | rfl | rfl <;> exact ⟨⟨issues_of rfl (by decide), by decide, by decide⟩, by decide⟩

/-- Batch 5 is the last closed; batch 5 has members left, or failed, or is done. -/
def batched (left : List Nat) (f : Option FaultInfo) (g : Group) : Group := { args g with batches := [⟨5, left, f⟩], lastb := 5 }

/-- KV descriptors at 0x20100 and 0x20140 (virtual 0x100 and 0x140): capacity 4 and pool of 2 blocks of rows of 64 bytes, and what the KVTB holds of blocks 0 to 2. -/
def kvS : State :=
  let m := mem1 { rich with groups := [args baseG] } 0x20100 (bytesOfWord 32 (0x200 + 0x140 * 2 ^ 64 + 4 * 2 ^ 160))
  let m := mem1 m 0x20140 (bytesOfWord 64 (0x1000 + 2 * 2 ^ 192))
  onA { m with clusters := m.clusters.set 0 { m.cl 0 with kvtb := [(0, 0x100, 0, 0xFFFFFFFF), (0, 0x100, 1, 2), (0, 0x100, 2, 1)] } }

/-- A registers: the descriptor's address, then positions in blocks 0, 1, 2, one beyond the capacity and one beyond 32 bits. -/
def kvG (g : Group) : Group := { g with regs := { g.regs with a := [0, 0x100, 15, 16, 47, 64, 0x100000000] ++ g.regs.a.drop 7 } }

theorem witness_BatchesAndLookup : Shaped (args baseG) ∧
    (∀ i ∈ ([.bclose h0 (.s 20), .bwait h0 (.s 4) 5] : List Instr), Issues i (withG args) (args baseG) ∧ (envOf i (withG args) (args baseG)).uguard = true) ∧
    (∀ f ∈ [batched [7] none, batched [] (some { code := .kvRange }), batched [] none], Issues (.bwait h0 (.const 5) 63) (withG f) (f baseG) ∧
      (envOf (.bwait h0 (.const 5) 63) (withG f) (f baseG)).uguard = true ∧ (f baseG).cbuf = []) ∧
    Shaped (kvG baseG) ∧
    (let g := kvG baseG
     let s : State := { kvS with groups := [g] }
     (∀ n ∈ [2, 3, 4, 5, 6], ∀ inv, Issues (.kvlook ⟨0, false⟩ inv (.a 10) (.a 1) (.a (BitVec.ofNat 6 n))) s g) ∧ g.qsyncWaits = false ∧
       kvDesc (s.readG 0 g.slot) 0x100 = .ok { table := 0x200, len := 0, cap := 4, pool := 0x1000, freel := 0, refc := 0, nblk := 2, rb := 64 } ∧
       [15 / 16, 16 / 16, 47 / 16].map (fun b => ((s.cl 0).kvtb.find? (isKv 0 0x100 b)).map (·.2.2.2)) = [some 0xFFFFFFFF, some 2, some 1]) := by
  refine ⟨by constructor <;> decide, guard_all true rfl (by decide), ?_, by constructor <;> decide, ?_⟩
  · intro f hf
    simp only [List.mem_cons, List.not_mem_nil, or_false] at hf
    rcases hf with rfl | rfl | rfl <;> exact ⟨issues_of rfl (by decide), by decide, rfl⟩
  · intro g s
    refine ⟨fun n hn inv => issues_of rfl ?_, by decide, by decide, by decide⟩
    revert n
    cases inv <;> decide

/-- An atomic of every form whose lanes' accesses are good. -/
theorem witness_AtomicsIssue :
    let fs := atomicForms h0 .add ⟨.rel, .dev⟩ .b32 .glob (.v 8) (.v 2) (.v 12) (.v 16) 5
    let rel := anOp 3 (.store [(0, 0x20000, 1)] 4) .st
    (∀ i ∈ fs.map (·.i), Issues i rich baseG ∧ (envOf i rich baseG).uguard = true) ∧
    (∀ f ∈ fs, ∀ l ∈ accessLanes (envOf f.i rich baseG) f.uni, (accessAddr (envOf f.i rich baseG) .g (.v 2) 0 l < 2 ^ 56) ∧ accessAddr (envOf f.i rich baseG) .g (.v 2) 0 l % f.n = 0 ∧
      rich.spaceKey baseG .g l (accessAddr (envOf f.i rich baseG) .g (.v 2) 0 l) f.n true true true = .ok 0x20000) ∧
    (∀ f ∈ fs, accessLanes (envOf f.i rich baseG) f.uni ≠ []) ∧
    (∀ i ∈ fs.map (·.i), relWaits (envOf i (has rich (flying [rel])) (flying [rel] baseG)) = true ∧ relWaits (envOf i rich baseG) = false) ∧
    (∀ i ∈ fs.map (·.i), Issues i (has rich (flying [rel])) (flying [rel] baseG)) ∧
    (∀ i ∈ ([.atom h0 .min ⟨.rlx, .dev⟩ .b32 .host (.v 8) (.v 2) (.v 4), .red h0 .and ⟨.rlx, .dev⟩ .b64 .host (.v 2) (.v 4)] : List Instr), Issues i rich baseG) ∧
    (∀ i ∈ (atomicForms ⟨⟨0, true⟩, .none⟩ .add ⟨.rlx, .dev⟩ .b32 .shared (.v 8) (.v 2) (.v 12) (.v 16) 5).map (·.i), Issues i rich baseG) ∧
    ∀ i ∈ fs.map (·.i), Issues i (has rich inD) (inD baseG) := by
  intro fs rel
  refine ⟨guard_all true rfl (by decide), by decide, by decide, by decide, issue_all rfl (by decide), issue_all rfl (by decide), issue_all rfl (by decide),
    issue_all rfl (by decide)⟩
/-- S registers for sync objects: eight zero words, an object's address in S8, the count 1 in S10, an address off its grid in S12, one near the page's end in S14. -/
def syncG (g : Group) : Group := withS [0, 0, 0, 0, 0, 0, 0, 0, 0x30000, 0, 1, 0, 0x30008, 0, 0x3FFC0, 0, 0, 0x1000000] g

/-- The instructions on objects and barriers, with the address in `a`. -/
def syncInstrs (o : OrdScope) (a : Operand) : List Instr :=
  [.obinit h0 .stack o 0 false 0 a (.s 0), .ann h0 .push (.s 20) a (.s 0) (.s 0), .help h0 (.s 20) a 5, .barinit h0 false o a (.s 10) 5, .barv h0 o (.s 20) a (.s 10),
    .bardrop h0 o (.s 20) a, .btx h0 a (.s 10), .sred h0 .and 0 o (.s 20) a (.s 0) (.s 0)]

/-- Each object and barrier instruction, with its operands as the statement's list has them. -/
theorem witness_ObjectStepsIssue :
    let rel := anOp 3 (.store [(0, 0x20000, 1)] 4) .st
    let g := syncG baseG
    let s := has rich syncG
    let f := fun g => flying [rel] (syncG g)
    (∀ i ∈ syncInstrs ⟨.rel, .dev⟩ (.s 8), Issues i s g ∧ (envOf i s g).uguard = true) ∧
    ((stepForms s g (envOf .nop s g) h0 .stack .push .and 0 ⟨.rel, .dev⟩ 0 false false 0 (.s 20) (.s 8) (.s 0) (.s 0) 5).map (·.i) = [
      .obinit h0 .stack ⟨.rel, .dev⟩ 0 false 0 (.s 8) (.s 0), .ann h0 .push (.s 20) (.s 8) (.s 0) (.s 0), .help h0 (.s 20) (.s 8) 5, .barinit h0 false ⟨.rel, .dev⟩ (.s 8) (.s 0) 5,
      .barv h0 ⟨.rel, .dev⟩ (.s 20) (.s 8) (.s 0), .bardrop h0 ⟨.rel, .dev⟩ (.s 20) (.s 8), .btx h0 (.s 8) (.s 0), .sred h0 .and 0 ⟨.rel, .dev⟩ (.s 20) (.s 8) (.s 0) (.s 0)]) ∧
    (let e := envOf .nop s g
     e.u64 (.s 8) = 0x30000 ∧ 0x30000 % 64 = 0 ∧ 0x30000 % 2 ^ 16 + (64 + 32 * 8) ≤ 2 ^ 16 ∧ s.translate 0 g.slot 0x30000 { types := [4], r := true, w := true, at_ := true } = .ok 0x50000 ∧
       objWordsOk .stack [0, 0, 0, 0] = true ∧ s.translate 0 g.slot (e.u64 (.s 0)) needW = .ok 0x20000 ∧ s.sharedKey g (e.u32 (.s 0)) 4 = .ok (keyShared 0 0) ∧
       relWaits e = false ∧ relWaits (envOf .nop (has rich f) (f baseG)) = true ∧
       e.u64 (.s 12) % 16 ≠ 0 ∧ 2 ^ 16 < e.u64 (.s 14) % 2 ^ 16 + (64 + 32 * 8) ∧ 2 ^ 56 ≤ e.u64 (.s 16)) ∧
    (∀ a ∈ ([12, 14, 16] : List (BitVec 6)), ∀ i ∈ syncInstrs ⟨.rlx, .dev⟩ (.s a), Issues i s g) ∧
    (∀ i ∈ syncInstrs ⟨.rel, .dev⟩ (.s 8), Issues i (has rich f) (f baseG)) ∧ (∀ i ∈ syncInstrs ⟨.rel, .dev⟩ (.s 8), Issues i (has rich (inD ∘ syncG)) (inD (syncG baseG))) ∧
    ∀ a ∈ ([8, 12, 16] : List (BitVec 6)), Issues (.btest h0 ⟨.acq, .dev⟩ (.s a) (.s 10) 5) s g := by
  intro rel g s f
  refine ⟨guard_all true rfl (by decide), by decide, by decide, ?_, issue_all rfl (by decide), issue_all rfl (by decide), ?_⟩
  · intro a ha i hi
    refine issues_of rfl ?_
    revert a i
    decide
  · intro a ha
    refine issues_of rfl ?_
    revert a
    decide

/-- An operation of the Kiln with one step left, at a key. -/
def stepOp (key : Nat) (act : KAct) : Op := anOp 5 (.kiln [⟨255, 0x30000, key, act⟩] [] none 4 none true) .at

/-- A state whose group has only that step left. -/
def stepS (s : State) (key : Nat) (act : KAct) : State := has s (flying [stepOp key act])

theorem stepWaits_of {s : State} {key : Nat} {act : KAct} (hm : Memory.wf s.mem = true)
    (h : (flying [stepOp key act] baseG).mayPerform (stepOp key act) = true) :
    StepWaits (stepS s key act) 0 5 (flying [stepOp key act] baseG) (stepOp key act) ⟨255, 0x30000, key, act⟩ [] [] none 4 none true :=
  ⟨hm, rfl, rfl, h, rfl⟩

/-- A step of every atomic, of every width, on a good and on a poisoned location. -/
theorem witness_AtomicSteps :
    (∀ op ∈ [AtomOp.add, .and, .or, .xor, .min, .max, .minu, .maxu, .exch, .incw, .decw, .fadd], ∀ w ∈ [4, 8], ∃ g o st,
      StepWaits (stepS base 0x20000 (.atom op w 7)) 0 5 g o st [] [] none 4 none true ∧ st.act = .atom op w 7 ∧ 7 < 2 ^ (8 * w) ∧ base.poisoned st.key = false) ∧
    (∀ w ∈ [4, 8, 16], ∃ g o st, StepWaits (stepS base 0x20000 (.cas w 0 (2 ^ (8 * w) - 1))) 0 5 g o st [] [] none 4 none true ∧ st.act = .cas w 0 (2 ^ (8 * w) - 1) ∧
      2 ^ (8 * w) - 1 < 2 ^ (8 * w)) ∧
    ∃ g o st, StepWaits (stepS { base with poison := [0x20000 / 64 * 64] } 0x20000 (.atom .add 4 1)) 0 5 g o st [] [] none 4 none true ∧
      (stepS { base with poison := [0x20000 / 64 * 64] } 0x20000 (.atom .add 4 1)).poisoned st.key = true := by
  refine ⟨fun op ho w hw => ⟨_, _, _, stepWaits_of (by decide) ?_, rfl, ?_, rfl⟩, fun w hw => ⟨_, _, _, stepWaits_of (by decide) ?_, rfl, ?_⟩,
    _, _, _, stepWaits_of (by decide) (by decide), by decide⟩
  · revert op w; decide
  · revert w; decide
  · revert w; decide
  · revert w; decide

/-- `base` with a barrier at 0x50000. -/
def barS (b : Bar) : State := mem1 base 0x50000 (bytesOfWord 16 b.num)

/-- The same with a Spindle slot for it. -/
def spnS (full : Option Nat) (b : Bar) : State := { barS b with spindle := [⟨0, 0x50000, 0x30000, false, [], full⟩] }

/-- An arrival that ends the phase and one that does not, drops, credits, refusals at each bound, and the Spindle's barriers. -/
theorem witness_BarrierSteps :
    (∀ c ∈ [((⟨2, 1, 255, 0, 0, 4, false⟩ : Bar), KAct.barv 1), (⟨2, 0, 0, 0, 0, 4, false⟩, .barv 1), (⟨2, 1, 3, 0, 1, 4, false⟩, .bardrop), (⟨0xFFFFF, 0, 3, 0, 0, 4, false⟩, .bardrop),
        (⟨2, 2, 3, 0xFFFFFFFFFF, 0, 4, false⟩, .btx 1), (⟨2, 2, 3, 0, 0, 4, false⟩, .btx 5)],
      ∃ g o st b', StepWaits (stepS (barS c.1) 0x50000 c.2) 0 5 g o st [] [] none 4 none true ∧ (barS c.1).poisoned st.key = false ∧ readBar (barS c.1).mem st.key = c.1 ∧
        barrierRule c.2 c.1 = some b' ∧ c.1.spn = false) ∧
    (phaseDone ⟨2, 2, 255, 0, 0, 4, false⟩ ∧ ¬ phaseDone ⟨2, 1, 0, 0, 0, 4, false⟩) ∧
    (∀ c ∈ [((⟨0, 0, 0, 0, 0, 4, false⟩ : Bar), KAct.barv 1), (⟨2, 1, 0, 0, 0, 4, false⟩, .barv 2), (⟨2, 0, 0, 0, 0, 4, false⟩, .barv 0), (⟨0, 0, 0, 0, 0, 4, false⟩, .bardrop),
        (⟨2, 0, 0, 0, 2, 4, false⟩, .bardrop)],
      (∃ g o st, StepWaits (stepS (barS c.1) 0x50000 c.2) 0 5 g o st [] [] none 4 none true) ∧ barrierRule c.2 (readBar (barS c.1).mem 0x50000) = none) ∧
    (∀ c ∈ [((⟨2, 0, 0, 0, 0, 4, true⟩ : Bar), KAct.btx 5), (⟨2, 0, 7, 0, 0, 4, false⟩, .btest 7), (⟨2, 0, 7, 0, 0, 4, false⟩, .barinit false .dev 0), (⟨2, 0, 7, 0, 0, 4, false⟩, .barinit true .dev 0x100000),
        (⟨2, 0, 7, 0, 0, 4, false⟩, .barinit true .dev 0xFFFFF), (⟨2, 0, 7, 0, 0, 4, false⟩, .barinit false .dev 1)],
      ∃ g o st, StepWaits (stepS (barS c.1) 0x50000 c.2) 0 5 g o st [] [] none 4 none true ∧ readBar (barS c.1).mem 0x50000 = c.1) ∧
    (∀ c ∈ [KAct.barv 1, .bardrop], let b : Bar := ⟨2, 1, 3, 0, 0, 4, true⟩
      (∃ g o st, StepWaits (stepS (spnS none b) 0x50000 c) 0 5 g o st [] [] none 4 none true) ∧ (spnS none b).spnAt 0x50000 = some 0 ∧ (∃ b', barrierRule c b = some b') ∧
        readBar (spnS none b).mem 0x50000 = b) ∧
    (let b : Bar := ⟨2, 1, 3, 0, 0, 4, true⟩
     (∃ p, (spnS none b).spindle[0]? = some p ∧ p.full = none) ∧ (spnS none ⟨2, 0, 0, 0, 0, 4, true⟩).spnAt 0x50000 = some 0 ∧
       (∀ c : Bar × Nat, c ∈ [((⟨2, 1, 3, 0, 0, 4, true⟩ : Bar), 1), (⟨2, 2, 3, 0, 0, 4, true⟩, 2)] → (∃ g o st, StepWaits (stepS (spnS none c.1) 0x50000 (.sred .and [7, 9] 64)) 0 5 g o st [] [] none 4 none true ∧
         st.act = .sred .and [7, 9] 64) ∧ readBar (spnS none c.1).mem 0x50000 = c.1 ∧ c.1.arrive = c.2) ∧
       ∃ g o st, StepWaits (stepS (barS ⟨2, 1, 3, 0, 0, 4, false⟩) 0x50000 (.sred .and [7, 9] 64)) 0 5 g o st [] [] none 4 none true) ∧
    (let s := spnS (some 5) ⟨2, 2, 255, 0, 1, 4, true⟩
     Memory.wf s.mem = true ∧ ∃ p, s.spindle[0]? = some p ∧ p.full.isSome = true ∧ p.contribs = []) := by
  refine ⟨fun c hc => ?_, by unfold phaseDone; decide, fun c hc => ?_, fun c hc => ?_, fun c hc => ?_,
    ⟨⟨_, rfl, rfl⟩, by decide, fun c hc => ?_, _, _, _, stepWaits_of (by decide) (by decide)⟩, by decide, _, rfl, rfl, rfl⟩
  · simp only [List.mem_cons, List.not_mem_nil, or_false] at hc
    rcases hc with rfl | rfl | rfl | rfl | rfl | rfl <;> exact ⟨_, _, _, _, stepWaits_of (by decide) (by decide), by decide, by decide, rfl, rfl⟩
  · simp only [List.mem_cons, List.not_mem_nil, or_false] at hc
    rcases hc with rfl | rfl | rfl | rfl | rfl <;> exact ⟨⟨_, _, _, stepWaits_of (by decide) (by decide)⟩, by decide⟩
  · simp only [List.mem_cons, List.not_mem_nil, or_false] at hc
    rcases hc with rfl | rfl | rfl | rfl | rfl | rfl <;> exact ⟨_, _, _, stepWaits_of (by decide) (by decide), by decide⟩
  · simp only [List.mem_cons, List.not_mem_nil, or_false] at hc
    rcases hc with rfl | rfl <;> exact ⟨⟨_, _, _, stepWaits_of (by decide) (by decide)⟩, by decide, ⟨_, rfl⟩, by decide⟩
  · simp only [List.mem_cons, List.not_mem_nil, or_false] at hc
    rcases hc with rfl | rfl <;> exact ⟨⟨_, _, _, stepWaits_of (by decide) (by decide), rfl⟩, by decide, rfl⟩

/-- A barrier that has two groups' arrivals in one cycle, the second on cluster 1; the phase ends with both, and with three to come it does not. -/
def twoArrive (expect : Nat) : State :=
  { barS ⟨expect, 0, 3, 0, 0, 4, false⟩ with groups := [flying [stepOp 0x50000 (.barv 1)] baseG,
      flying [{ stepOp 0x50000 (.barv 1) with id := 6 }] { baseG with gid := ⟨1, 0, 0⟩ }] }

/-- Two SRED contributions of one op, whose team's results go to different offsets; with another op in the second one. -/
def sredPhase (o : SredOp) : State :=
  { barS ⟨2, 2, 3, 0, 0, 4, true⟩ with spindle := [⟨0, 0x50000, 0x30000, false, [⟨1, 0, 0, baseG.tag, 64, .and, [7, 9]⟩, ⟨0, 0, 0, baseG.tag, 0, o, [5, 12]⟩], some 5⟩] }

theorem witness_BarrierSteps_combined :
    (∀ e ∈ [2, 3], ∃ g h o q st sw, StepWaits (twoArrive e) 0 5 g o st [] [] none 4 none true ∧ StepWaits (twoArrive e) 1 6 h q sw [] [] none 4 none true ∧ o.id ≠ q.id ∧
      st.act = .barv 1 ∧ sw.act = .barv 1 ∧ sw.key = st.key ∧ g.gid.cluster ≤ h.gid.cluster ∧ (twoArrive e).poisoned st.key = false ∧
      readBar (twoArrive e).mem st.key = ⟨e, 0, 3, 0, 0, 4, false⟩) ∧
    (∀ o ∈ [SredOp.and, .or], ∃ p, Memory.wf (sredPhase o).mem = true ∧ (sredPhase o).spindle[0]? = some p ∧ p.full.isSome = true ∧ p.mixed = false ∧
      ∃ ds : List Contribution, p.contribs.Perm ds ∧ ds.Pairwise earlier ∧ (∀ c ∈ ds, homeIs (sredPhase o) c (keyShared 0 c.dst)) ∧
        (∀ c ∈ ds, apart (keyShared 0 c.dst) (4 * c.ws.length) p.key 16) ∧
        ds.Pairwise (fun c x => apart (keyShared 0 c.dst) (4 * c.ws.length) (keyShared 0 x.dst) (4 * x.ws.length)) ∧
        (∀ c ∈ ds, c.ws.length = 2 ∧ ∀ w ∈ c.ws, w < 2 ^ 32) ∧ (o = .and → ∀ c ∈ ds, c.op = .and) ∧ (o = .or → ∃ c ∈ ds, ∃ x ∈ ds, c.op ≠ x.op) ∧
        let q := (sredPhase o).ctx p.slot
        let r := q.tqHeader + 64 + 64 * ((sredPhase o).mem.num q.tqHeader 4 % q.tqN)
        (∀ c ∈ ds, apart (keyShared 0 c.dst) (4 * c.ws.length) q.tqHeader 64 ∧ apart (keyShared 0 c.dst) (4 * c.ws.length) r 64) ∧ apart p.key 16 r 64 ∧
          apart p.key 16 q.tqHeader 64) := by
  refine ⟨fun e he => ?_, fun o ho => ?_⟩
  · simp only [List.mem_cons, List.not_mem_nil, or_false] at he
    rcases he with rfl | rfl <;>
      exact ⟨_, _, _, _, _, _, ⟨by decide, rfl, rfl, by decide, rfl⟩, ⟨by decide, rfl, rfl, by decide, rfl⟩, by decide, rfl, rfl, rfl, by decide, by decide, by decide⟩
  · refine ⟨_, by revert o; decide, rfl, rfl, rfl, _, List.Perm.swap _ _ _, ?_⟩
    simp only [List.mem_cons, List.not_mem_nil, or_false] at ho
    unfold homeIs earlier apart
    rcases ho with rfl | rfl
    · refine ⟨by decide, ?_, by decide, by decide, by decide, by decide, by decide, by decide, by decide, by decide⟩
      intro c hc
      simp only [List.mem_cons, List.not_mem_nil, or_false] at hc
      rcases hc with rfl | rfl <;> exact ⟨_, rfl, rfl⟩
    · refine ⟨by decide, ?_, by decide, by decide, by decide, by decide, fun _ => ⟨⟨0, 0, 0, baseG.tag, 0, .or, [5, 12]⟩, by decide, ⟨1, 0, 0, baseG.tag, 64, .and, [7, 9]⟩, by decide, by decide⟩,
        by decide, by decide, by decide⟩
      intro c hc
      simp only [List.mem_cons, List.not_mem_nil, or_false] at hc
      rcases hc with rfl | rfl <;> exact ⟨_, rfl, rfl⟩

/-- An object of kind stack and device scope at 0x50000, in the partition of cluster 0. -/
def objS : State := { mem1 base 0x50000 [0x40, 0, 0, 0, 0, 0, 0, 0, 0, 0, 0, 0, 1] with partmap := base.partmap.set 0 1 }

theorem witness_ObjectSteps :
    (∀ act ∈ [KAct.obinit .cell .dev 3 true 255 [0, 1, 2, 2 ^ 64 - 1], .ann .push 16 0 0x100, .ann .deq 0 0 0x100, .help],
      ∃ g o st, StepWaits (stepS objS 0x50000 act) 0 5 g o st [] [] none 4 none true ∧ st.act = act ∧ objS.poisoned st.key = false ∧
        (stepS objS 0x50000 act).objCheck g.asker st.key st.va = .ok ()) ∧
    (baseG.slot < 64 ∧ baseG.gid.cluster < 128 ∧ baseG.gid.part < 4 ∧ baseG.gid.slot < 16 ∧ baseG.tag < 2 ^ 32) ∧
    (objS.mem.num 0x50000 4 % 16 = ObjOp.push.code.toNat / 2 ∧ objS.mem.num 0x50000 4 % 16 ≠ ObjOp.deq.code.toNat / 2 ∧ objArgsOk .push 16 0 = true ∧
      objS.mem.num 0x50008 4 < 8 * 2 ^ ebits (objS.mem.num 0x50000 4) 9 8 ∧ objS.mem.num 0x50008 4 = 0) := by
  refine ⟨fun act ha => ?_, by decide, by decide⟩
  simp only [List.mem_cons, List.not_mem_nil, or_false] at ha
  rcases ha with rfl | rfl | rfl | rfl <;> exact ⟨_, _, _, stepWaits_of (by decide) (by decide), rfl, by decide, by decide⟩

/-- An object with one posted record, whose mailbox is at `mb` of context 0. -/
def recS (op : ObjOp) (a0 a1 mb : Nat) : State :=
  { mem1 (mem1 objS 0x50000 (bytesOfWord 4 (op.code.toNat / 2 + 0x40) ++ bytesOfWord 4 0 ++ bytesOfWord 4 1)) 0x50040
      (bytesOfWord 4 (1 + 4 * op.code.toNat) ++ bytesOfWord 4 9 ++ bytesOfWord 8 a0 ++ bytesOfWord 8 a1 ++ bytesOfWord 8 mb) with mailers := [(0x50040, 0)] }

/-- HELP of a posted PUSH and of a FOP, of a PUSH whose node lies on an absent page, and of a record whose mailbox does. -/
theorem witness_ObjectSteps_records :
    (∀ c ∈ [(ObjOp.push, 0x900, 0, 0x800), (.fop, 5, 0x11, 0x800), (.push, 0x20000, 0, 0x800), (.fop, 5, 0, 0x20000)],
      let s := recS c.1 c.2.1 c.2.2.1 c.2.2.2
      (∃ g o st, StepWaits (stepS s 0x50000 .help) 0 5 g o st [] [] none 4 none true ∧ st.act = .help ∧ (stepS s 0x50000 .help).poisoned st.key = false ∧
        (stepS s 0x50000 .help).objCheck g.asker st.key st.va = .ok ()) ∧
      0 < s.mem.num 0x50008 4 ∧ s.mem.num 0x50004 4 < 8 ∧ (0x50040, 0) ∈ s.mailers ∧ objOpOf (s.mem.num 0x50040 4 / 4 % 16) = c.1 ∧ s.mem.num 0x50050 8 / 16 % 16 < 9) ∧
    (∀ s ∈ [recS .push 0x900 0 0x800, recS .fop 5 0x11 0x800, recS .push 0x20000 0 0x800], s.sideKeys 0 0x800 16 needW = .ok ((List.range 16).map (0x20800 + ·))) ∧
    sideAt (recS .push 0x900 0 0x800) 0 (0x20000 + ·) 0x900 8 needW ∧
    ((recS .push 0x20000 0 0x800).objEffect 0 .push 0x20000 0 [0, 0, 0, 0] = .error (.pageAbsent, 0x20000)) ∧
    ((recS .fop 5 0 0x20000).sideKeys 0 0x20000 16 needW = .error (.pageAbsent, 0x20000) ∧ 0 < (recS .fop 5 0 0x20000).tqFree 0 ∧
      let q := ((recS .fop 5 0 0x20000).ctx 0).tqHeader
      let p := q + 64 + 64 * ((recS .fop 5 0 0x20000).mem.num q 4 % ((recS .fop 5 0 0x20000).ctx 0).tqN)
      apart 0x50000 (64 + 32 * 8) q 64 ∧ apart 0x50000 (64 + 32 * 8) p 64) := by
  refine ⟨fun c hc => ?_, by decide, by unfold sideAt; decide, by decide, by decide, by decide, by unfold apart; decide⟩
  simp only [List.mem_cons, List.not_mem_nil, or_false] at hc
  rcases hc with rfl | rfl | rfl | rfl <;> exact ⟨⟨_, _, _, stepWaits_of (by decide) (by decide), rfl, by decide, by decide⟩, by decide, by decide, by decide, by decide, by decide⟩

theorem witness_RepliesWriteResults :
    (let o := { anOp 5 (.kiln [] [⟨0, 1, true⟩, ⟨31, 2, false⟩] (some (.v 60)) 16 (some 5) false) .at with dsts := [.v 60, .v 61, .v 62, .v 63, .p 5] }
     (∀ r ∈ vRefs o.dsts, r ∈ (flying [o] baseG).vres) ∧ vRefs o.dsts ≠ [] ∧ (∀ p ∈ (withG (flying [o])).spindle, p.full ≠ some 5) ∧
       destFits (flying [o] baseG) ([⟨0, 1, true⟩, ⟨31, 2, false⟩].map KRes.lane) (some (.v 60)) 16 ∧ Shaped (flying [o] baseG) ∧ (withG (flying [o])).findOp 0 5 = some (flying [o] baseG, o) ∧ ([⟨0, 1, true⟩, ⟨31, 2, false⟩].map KRes.lane).Nodup ∧ 16 ∈ [4, 8, 16] ∧
       (60 : BitVec 8).toNat + wordsOf 16 ≤ baseG.vbud) ∧
    (let o : Op := { anOp 5 (.kiln [] [⟨255, 1, true⟩] (some (.s 62)) 8 (some 63) true) .at with held := 0xFFFFFFFF }
     Shaped (flying [o] baseG) ∧ (withG (flying [o])).findOp 0 5 = some (flying [o] baseG, o) ∧ (62 : BitVec 6).toNat + wordsOf 8 ≤ 64 ∧ o.held.getLsbD 31 = true) :=
  ⟨⟨by decide, by decide, by decide, by unfold destFits; exact ⟨fun r hr => by cases hr; decide, fun r hr => by cases hr⟩, shaped_flying _, by decide, by decide, by decide, by decide⟩,
    shaped_flying _, by decide, by decide, by decide⟩
/-! ## Messages, waits, matrices and launches -/

/-- Port 2 of cluster 0 with an owner and a number of flits. -/
def portS (own : Byte) (n : Nat) (s : State) : State :=
  { s with clusters := s.clusters.set 0 { s.cl 0 with ports := (s.cl 0).ports.set 2 { own := own, fifo := List.replicate n ⟨0, List.replicate 16 0⟩, refused := 255 } } }

/-- Port 2 is empty, full or has room, and belongs to context 0, to none, or to context 5; the destination word names it. -/
theorem witness_Messages :
    let o := anOp 5 (.msend 0x100 (List.replicate 16 7) none 5) .at
    let s (own : Byte) (n : Nat) : State := portS own n (withG (flying [o]))
    (∀ i ∈ ([.msend h0 ⟨.rel, .dev⟩ (.s 10) (.v 8) 5, .msend h0 ⟨.rlx, .dev⟩ (.s 10) (.s 16) 5] : List Instr), Issues i rich baseG ∧ (envOf i rich baseG).uguard = true) ∧
    (Issues (.msend h0 ⟨.rel, .dev⟩ (.s 10) (.v 8) 5) (has rich (flying [anOp 3 (.store [(0, 0x20000, 1)] 4) .st])) (flying [anOp 3 (.store [(0, 0x20000, 1)] 4) .st] baseG) ∧
      relWaits (envOf (.msend h0 ⟨.rel, .dev⟩ (.s 10) (.v 8) 5) (has rich (flying [anOp 3 (.store [(0, 0x20000, 1)] 4) .st]))
        (flying [anOp 3 (.store [(0, 0x20000, 1)] 4) .st] baseG)) = true ∧ relWaits (envOf (.msend h0 ⟨.rel, .dev⟩ (.s 10) (.v 8) 5) rich baseG) = false) ∧
    (∀ c ∈ [((0x80 : Byte), 15), (0x80, 16), (0x00, 0), (0x85, 0)], (s c.1 c.2).findOp 0 5 = some (flying [o] baseG, o) ∧ (flying [o] baseG).mayPerform o = true ∧
      (flying [o] baseG).flitWaits o 0x100 = false ∧ (s c.1 c.2).clusters.length = 128 ∧ ((s c.1 c.2).cl 0).ports.length = 8) ∧
    ((((s 0x80 15).port 0 2).owner = some 0 ∧ ((s 0x80 15).port 0 2).fifo.length < 16) ∧ 16 ≤ ((s 0x80 16).port 0 2).fifo.length ∧ ((s 0x00 0).port 0 2).owner = none ∧
      ((s 0x85 0).port 0 2).owner = some 5) ∧
    (let a := anOp 5 (.msend 0x100 [] (some true) 63) .at
     Shaped (flying [a] baseG) ∧ (withG (flying [a])).findOp 0 5 = some (flying [a] baseG, a)) ∧
    (∀ s ∈ [portS 0x80 1 base, portS 0x80 0 base, portS 0x85 1 base], (∀ i ∈ ([.mrecv h0 ⟨.acq, .dev⟩ 2 (.v 9) 5, .mstat h0 true 2 (.s 9), .mstat h0 false 2 (.s 9)] : List Instr),
      Issues i s baseG ∧ (envOf i s baseG).uguard = true) ∧ baseG.ops = []) := by
  intro o s
  refine ⟨guard_all true rfl (by decide), ⟨issues_of rfl (by decide), by decide, by decide⟩, ?_, by decide, ⟨shaped_flying _, by decide⟩, ?_⟩
  · intro c hc
    simp only [List.mem_cons, List.not_mem_nil, or_false] at hc
    rcases hc with rfl | rfl | rfl | rfl <;> decide
  · intro s hs
    simp only [List.mem_cons, List.not_mem_nil, or_false] at hs
    rcases hs with rfl | rfl | rfl <;> exact ⟨guard_all true rfl (by decide), rfl⟩

/-- TCMP's bound is `n`. -/
def bounded (n : Nat) (g : Group) : Group := { g with regs := { g.regs with tcmp := BitVec.ofNat 64 (n * 2 ^ 48) } }

/-- Path 0 is parked on line 0x800 (key 0x20000). -/
def parkedG (w : Bool) (g : Group) : Group := onPath (fun p => { p with st := .parked 0x800 4 0 w }) g

theorem witness_Parking :
    (∀ n ∈ [0, 1, 4000], ∀ i ∈ ([.park h0 false .glob 0 (.s 0), .park h0 true .glob 0xFF (.s 0), .park h0 false .shared 0 (.s 0)] : List Instr),
      Issues i (has rich (bounded n)) (bounded n baseG) ∧ (envOf i (has rich (bounded n)) (bounded n baseG)).uguard = true) ∧
    rich.parkKey baseG .glob 0 = .ok 0x20000 ∧ rich.parkKey baseG .glob (2 ^ 56) = .error .addrRange ∧
    (∀ w, (withG (parkedG w)).groups[0]? = some (parkedG w baseG) ∧ ∃ p, (parkedG w baseG).path 0 = some p ∧ p.st = .parked 0x800 4 0 w) ∧ baseG.dmode = false ∧
    0 ≤ base.clock.toNat := by
  refine ⟨fun n hn => ?_, by decide, by decide, fun w => ⟨rfl, _, rfl, rfl⟩, rfl, by decide⟩
  simp only [List.mem_cons, List.not_mem_nil, or_false] at hn
  rcases hn with rfl | rfl | rfl <;> exact guard_all true rfl (by decide)

/-- Fences and drains with nothing in flight, with a store, and with a load. -/
theorem witness_FencesAndDrains :
    let st := anOp 3 (.store [(0, 0x20000, 1)] 4) .st
    let ld := anOp 3 (.load [(0, 0x20000)] 4 false (.v 9) false none) .ld
    let L : List Instr := [.fence h0 .acq .dev, .fence h0 .rel .dev, .fence h0 .sc .sys, .drainNb h0, .drain h0 .dev (.s 20) (.s 8), .drain h0 .dev (.s 20) (.s 12), .drain h0 .dev (.s 20) (.s 16)]
    let e (os : List Op) : Env := envOf .nop (has rich fun g => flying os (syncG g)) (flying os (syncG baseG))
    (∀ os ∈ [[], [st], [ld]], ∀ i ∈ L, Issues i (has rich fun g => flying os (syncG g)) (flying os (syncG baseG)) ∧
      (envOf i (has rich fun g => flying os (syncG g)) (flying os (syncG baseG))).uguard = true) ∧
    (relWaits (e [st]) = true ∧ relWaits (e [ld]) = false ∧ [ld].any Op.valued = true ∧ (flying [ld] (syncG baseG)).before ld 0 0 = true ∧ [st].any Op.valued = false) ∧
    (baseG.acks = 0 ∧ baseG.cbuf = [] ∧ Issues (.drainNb h0) (withG fun g => { g with acks := 1 }) { baseG with acks := 1 } ∧
      Issues (.drain h0 .dev (.s 20) (.s 8)) (has rich fun g => { syncG g with acks := 1 }) { syncG baseG with acks := 1 }) ∧
    rich.translate 0 0 0x30000 { types := [4], r := true, w := true, at_ := true } = .ok 0x50000 := by
  intro st ld L e
  refine ⟨fun os ho => ?_, by decide, ⟨rfl, rfl, issues_of rfl (by decide), issues_of rfl (by decide)⟩, by decide⟩
  simp only [List.mem_cons, List.not_mem_nil, or_false] at ho
  rcases ho with rfl | rfl | rfl <;> exact guard_all true rfl (by decide)

theorem witness_GroupMatrixProduct :
    let z : FmtBlock := ⟨0, 0, 0, 0, false⟩
    let t : FmtBlock := ⟨3, 0, 0, 0, false⟩
    let gm (bt : Bool) (ca cb : BitVec 6) (rows : BitVec 5) : Instr := .gmma h0 bt ca cb rows (.v 16) (.v 0) (.v 8) (.v 16)
    Shaped (fmts baseG) ∧
    (∀ i ∈ [gm false 0x3F 20 0, gm true 0x3F 0x3F 0, gm false 0x3F 0x3F 1, gm false 20 20 16, gm true 20 20 0],
      Issues i (has rich fmts) (fmts baseG) ∧ (envOf i (has rich fmts) (fmts baseG)).uguard = true) ∧
    ((envOf .nop (has rich fmts) (fmts baseG)).fmtBlock 0x3F = .ok z ∧ (envOf .nop (has rich fmts) (fmts baseG)).fmtBlock 20 = .ok t) ∧
    (pairFmt z t = false ∧ pairFmt z z = true ∧ pairFmt t t = true ∧ z.fmt < 3 ∧ 3 ≤ t.fmt) ∧
    (∃ x, (has rich fmts).gmmaScales (fmts baseG) z 1 = .ok x) ∧ ∃ y, (has rich fmts).gmmaScales (fmts baseG) t 16 = .ok y := by
  intro z t gm
  exact ⟨by constructor <;> decide, guard_all true rfl (by decide), by decide, by decide, ok_of (by decide), ok_of (by decide)⟩

/-- A chain of tree nodes in V0, one that names itself, the arguments of TMASK in S20 and S22, and a good count. -/
def treeG (sc : Word) (p1 : Word) (g : Group) : Group :=
  let g := fmts g
  { g with regs := { g.regs with v := g.regs.v.set 0 ((List.replicate 32 0xFFFFFFFF).set 1 p1), s := g.regs.s.set 24 sc } }

theorem witness_BlockConversionMaskAndSoftmax :
    (∀ c ∈ [(false, (0 : BitVec 6), (20 : BitVec 6)), (true, 8, 0x3F), (true, 9, 0x3F)], Issues (.cvtdxb h0 c.1 c.2.1 c.2.2 (.v 16) (.v 0)) (has rich fmts) (fmts baseG) ∧
      (envOf (.cvtdxb h0 c.1 c.2.1 c.2.2 (.v 16) (.v 0)) (has rich fmts) (fmts baseG)).uguard = true) ∧
    (let f := fun g : Group => { fmts g with regs := { (fmts g).regs with fmtb := 0x20 } }
     ∀ ss ∈ ([8, 9, 63] : List (BitVec 6)), Issues (.cvtdxb h0 false ss 0x3F (.v 16) (.v 0)) (has rich f) (f baseG) ∧
       (envOf (.cvtdxb h0 false ss 0x3F (.v 16) (.v 0)) (has rich f) (f baseG)).fmtBlock 0x3F = .ok ⟨0, 0, 0, 0, true⟩ ∧ (f baseG).sbud ≤ 63 + 1) ∧
    (∀ c ∈ [((0 : Word), (0 : Word)), (64 + 63 * 2 ^ 10, 0xFFFFFFFF), (2, 1), (2, 0), (2 + 7 * 2 ^ 7, 0)], Shaped (treeG c.1 c.2 baseG) ∧
      Issues (.tmask h0 (.v 16) (.v 0) (.s 20) (.s 24)) (has rich (treeG c.1 c.2)) (treeG c.1 c.2 baseG) ∧
      (envOf (.tmask h0 (.v 16) (.v 0) (.s 20) (.s 24)) (has rich (treeG c.1 c.2)) (treeG c.1 c.2 baseG)).u32 (.s 24) = c.1.toNat) ∧
    (let parent (c : Word × Word) (j : Nat) : Nat := ((treeG c.1 c.2 baseG).vlane (0 + j / 32) (j % 32)).toNat
     parent (2, 1) 1 = 1 ∧ parent (2, 0) 1 = 0 ∧ parent (2, 0) 0 = 0xFFFFFFFF) ∧
    (∀ i ∈ ([.smaxr h0 false 8 false false 0 (.v 32) (.v 24) (.v 36) (.v 0), .smaxr h0 true 8 true true 16 (.v 32) (.v 24) (.v 40) (.v 20),
      .smaxr h0 true 8 true false 1 (.v 32) (.v 24) (.v 40) (.v 20)] : List Instr), Issues i base baseG ∧ (envOf i base baseG).uguard = true) := by
  refine ⟨fun c hc => ?_, ?_, fun c hc => ?_, by decide, guard_all true rfl (by decide)⟩
  · simp only [List.mem_cons, List.not_mem_nil, or_false] at hc
    rcases hc with rfl | rfl | rfl <;> exact ⟨issues_of rfl (by decide), by decide⟩
  · intro f ss hs
    simp only [List.mem_cons, List.not_mem_nil, or_false] at hs
    rcases hs with rfl | rfl | rfl <;> exact ⟨issues_of rfl (by decide), by decide, by decide⟩
  · simp only [List.mem_cons, List.not_mem_nil, or_false] at hc
    rcases hc with rfl | rfl | rfl | rfl | rfl <;> exact ⟨by constructor <;> decide, issues_of rfl (by decide), by decide⟩

theorem witness_LaunchTriggerTimer :
    let st := anOp 3 (.store [(0, 0x20000, 1)] 4) .st
    let L : List Instr := [.launch h0 5 (.s 20), .trigger h0, .timerAbs h0 (.s 2), .timerRel h0 (.s 2), .timerOff h0, .qend h0]
    let far := fun g => withS [0, 0, 0, 0, 0, 0, 0, 0, 0, 0, 0, 0, 0, 0, 0, 0, 0, 0, 0, 0, 0x80000] g
    (∀ f ∈ [flying [], flying [st], inD, far], ∀ i ∈ L, Issues i (has rich f) (f baseG) ∧ (envOf i (has rich f) (f baseG)).uguard = true) ∧
    (relWaits (envOf .nop (has rich (flying [st])) (flying [st] baseG)) = true ∧ relWaits (envOf .nop rich baseG) = false) ∧
    ((∃ ks, rich.taggedKeys baseG 0 64 1 needR = .ok ks) ∧ ∃ ks, rich.taggedKeys baseG 32 64 1 needR = .ok ks) ∧
    (let ld := anOp 3 (.load [(0, 0x20000)] 4 false (.v 9) false none) .aq
     (flying [ld] baseG).mustWait [ld] 0 0 .lt [] = true ∧ (flying [ld] baseG).mustWait [ld] 0 0 .ld [0x20000] = true ∧ baseG.mustWait [] 0 0 .lt [] = false ∧
       baseG.mustWait [] 0 0 .ld [0x20000] = false) ∧
    ∃ c, (has rich far).taggedKeys (far baseG) 0x80000 64 1 needR = .error c := by
  intro st L far
  refine ⟨fun f hf => ?_, by decide, ⟨ok_of (by decide), ok_of (by decide)⟩, by decide, error_of (by decide)⟩
  simp only [List.mem_cons, List.not_mem_nil, or_false] at hf
  rcases hf with rfl | rfl | rfl | rfl <;> exact guard_all true rfl (by decide)
/-! ## Traps -/

/-- The slot at 0x1000 is marked in the context of `rich`, whatever the group's save area holds. -/
theorem marks_mem {s : State} {g : Group} {rs : List Replayable} (hc : s.ctxs = rich.ctxs.set 0 { rich.ctx 0 with recs := rs }) (hb : s.tlbs = rich.tlbs)
    (hm : ∀ k < 64, s.mem.get (0x21000 + k) = base.mem.get (0x21000 + k)) (ht : g.regs.tvec = 0x1000) (hl : g.slot = 0) (hg : g.gid = ⟨0, 0, 0⟩) : marks s g true := by
  unfold marks
  rw [ht, hl, hg]
  intro m h
  cases s
  simp only at hc hm hb
  subst hc
  subst hb
  have hcsa : (({ rich with ctxs := rich.ctxs.set 0 { rich.ctx 0 with recs := rs } } : State).ctx 0).csaGroup ⟨0, 0, 0⟩ = 0x10000 :=
    (by decide : (rich.ctx 0).csaGroup ⟨0, 0, 0⟩ = 0x10000)
  have hk : ∀ k < 64, m.get (0x21000 + k) = base.mem.get (0x21000 + k) := by
    intro k hk
    rw [← hm k hk]
    apply h
    right
    show (({ rich with ctxs := rich.ctxs.set 0 { rich.ctx 0 with recs := rs } } : State).ctx 0).csaGroup ⟨0, 0, 0⟩ + 0x3000 ≤ _
    rw [hcsa]
    omega
  have hb : m.getAll ((List.range 64).map (0x21000 + ·)) = base.mem.getAll ((List.range 64).map (0x21000 + ·)) := by
    simp only [Mem.getAll, List.map_map]
    apply List.map_congr_left
    intro k hk'
    exact hk k (List.mem_range.mp hk')
  unfold State.isTarget State.checkTarget State.lineBytesAt
  show (match (match Except.ok (m.getAll ((List.range 64).map (0x21000 + ·))) with
    | .error c => Except.error (c, 0x1000)
    | .ok bs => if (Line.ofBytes 0x1000 bs).target 0 then Except.ok () else Except.error (FCode.illegalTarget, 0x1000) : Except (FCode × Nat) Unit) with
    | .ok _ => true
    | .error _ => false) = true
  rw [hb]
  decide

/-- 0x1001 is no slot. -/
theorem marks_none {s : State} {g : Group} (ht : g.regs.tvec = 0x1001) : marks s g false := by
  intro m _
  rw [ht]
  rfl

/-- A trap handler at the marked slot 0x1000 can be entered in the context of `rich`, whatever the group's save area holds. -/
theorem canEnter_mem {s : State} {g : Group} {rs : List Replayable} (hc : s.ctxs = rich.ctxs.set 0 { rich.ctx 0 with recs := rs }) (hb : s.tlbs = rich.tlbs)
    (hw : Memory.wf s.mem = true) (hm : ∀ k < 64, s.mem.get (0x21000 + k) = base.mem.get (0x21000 + k)) (hs : Shaped g) (hp : g.paths.length ≤ 9)
    (ha : g.ops.any Op.awaited = false) (hi : g.inh = false) (ht : g.regs.tvec = 0x1000) (hl : g.slot = 0) (hg : g.gid = ⟨0, 0, 0⟩) : CanEnter s g :=
  ⟨hw, hs, hp, ha, hi, by rw [ht]; decide, marks_mem hc hb hm ht hl hg⟩

theorem canEnter_of {s : State} {g : Group} {rs : List Replayable} (hc : s.ctxs = rich.ctxs.set 0 { rich.ctx 0 with recs := rs }) (hb : s.tlbs = rich.tlbs)
    (hm : s.mem = base.mem) (hs : Shaped g)
    (hp : g.paths.length ≤ 9) (ha : g.ops.any Op.awaited = false) (hi : g.inh = false) (ht : g.regs.tvec = 0x1000) (hl : g.slot = 0) (hg : g.gid = ⟨0, 0, 0⟩) : CanEnter s g :=
  canEnter_mem hc hb (by rw [hm]; decide) (fun k _ => by rw [hm]) hs hp ha hi ht hl hg

/-- TVEC names the marked slot. -/
def vec (g : Group) : Group := { g with regs := { g.regs with tvec := 0x1000 } }

/-- TVEC names no slot. -/
def odd (g : Group) : Group := { g with regs := { g.regs with tvec := 0x1001 } }

/-- A replayed load of a handler's queue. -/
def aReplay : RqEntry := { st := 1, op := { anOp 3 (.load [(0, 0x20000)] 4 false (.v 9) false none) .ld with plain := true }, mask := 1, code := 0 }

/-- The group in its handler, with a frame, a kept path and a replay entry. -/
def inTrap (cpc apc rqlive : Nat) (a : ASt) (g : Group) : Group :=
  { vec g with
    inh := true, frame := some ⟨cpc, apc, false, 0x1000, 0, 0, 0xFFFF, 0, rqlive⟩, trapPaths := [{ id := 0, pc := 0x1000, exec := 0xFFFFFFFF, held := 0xFFFFFFFF }], trapAst := a
    rq := [aReplay] }

/-- `rich` whose trap queue is full. -/
def fullTq : State := mem1 rich 1 [1]

theorem witness_TakingATrap :
    (CanEnter (has rich vec) (vec baseG) ∧ FCode.misaligned.cls = .fatal ∧ FCode.userTrap.cls = .user ∧ FCode.regspaceFault.cls = .direct) ∧
    (let f := fun g => { vec g with st := .trapping { code := .misaligned } 0x1000 0x1000 0 }
     CanEnter (has rich f) (f baseG) ∧ (f baseG).st = .trapping { code := .misaligned } 0x1000 0x1000 0) ∧
    (flying [stepOp 0x50000 .help] baseG).ops.any Op.awaited = true ∧
    (baseG.ops.any Op.awaited = false ∧ baseG.regs.tvec = 0 ∧ baseG.slot < base.ctxs.length ∧ (base.ctx 0).state = .active) ∧
    (has rich vec).cur.sl = .c ∧
    (∀ i ∈ ([.trap h0 0xFFFF, .bkpt h0 0xFFFF] : List Instr), Issues i (has rich vec) (vec baseG) ∧ (envOf i (has rich vec) (vec baseG)).uguard = true) ∧
    (let die := fun (f : FaultInfo) (g : Group) => traps f ∧ CanDie rich g ∧ endsWith rich g f (if g.regs.tvec = 0x1001 ∧ f.cls ≠ .direct then .illegalTarget else f.code)
     die { code := .misaligned } baseG ∧ die { code := .misaligned } (odd baseG) ∧ die { code := .regspaceFault } (odd baseG) ∧ die { code := .misaligned } { vec baseG with inh := true } ∧
       die { code := .userTrap } { vec baseG with inh := true }) ∧
    (0 < rich.tqFree 0 ∧ apart ((rich.ctx 0).csaGroup ⟨0, 0, 0⟩) 0x3000 (rich.ctx 0).tqHeader 64 ∧
      apart ((rich.ctx 0).csaGroup ⟨0, 0, 0⟩) 0x3000 ((rich.ctx 0).tqHeader + 64) 64 ∧ apart (rich.ctx 0).tqHeader 64 ((rich.ctx 0).tqHeader + 64) 64) ∧
    (Memory.wf rich.mem = true ∧ (rich.ctx 0).state = .active ∧ 4 < rich.tqFree 0) ∧ (Memory.wf fullTq.mem = true ∧ ¬ 4 < fullTq.tqFree 0 ∧ Issues (.bkpt h0 7) fullTq baseG) := by
  refine ⟨⟨canEnter_of (rs := []) rfl rfl rfl (by constructor <;> decide) (by decide) rfl rfl rfl rfl rfl, rfl, rfl, rfl⟩,
    ⟨canEnter_of (rs := []) rfl rfl rfl (by constructor <;> decide) (by decide) rfl rfl rfl rfl rfl, rfl⟩, by decide, ⟨rfl, rfl, by decide, rfl⟩, rfl, guard_all true rfl (by decide),
    ⟨⟨by unfold traps; decide, by unfold CanDie; exact ⟨by decide, by constructor <;> decide, by decide, rfl, by decide, rfl⟩, .inl ⟨.inl rfl, rfl⟩⟩,
      ⟨by unfold traps; decide, by unfold CanDie; exact ⟨by decide, by constructor <;> decide, by decide, rfl, by decide, rfl⟩, .inr ⟨by decide, by decide, marks_none rfl, rfl⟩⟩,
      ⟨by unfold traps; decide, by unfold CanDie; exact ⟨by decide, by constructor <;> decide, by decide, rfl, by decide, rfl⟩, .inl ⟨.inr (.inl rfl), rfl⟩⟩,
      ⟨by unfold traps; decide, by unfold CanDie; exact ⟨by decide, by constructor <;> decide, by decide, rfl, by decide, rfl⟩,
        .inl ⟨.inr (.inr ⟨rfl, marks_mem (rs := []) rfl rfl (fun _ _ => rfl) rfl rfl rfl⟩), rfl⟩⟩,
      ⟨by unfold traps; decide, by unfold CanDie; exact ⟨by decide, by constructor <;> decide, by decide, rfl, by decide, rfl⟩,
        .inl ⟨.inr (.inr ⟨rfl, marks_mem (rs := []) rfl rfl (fun _ _ => rfl) rfl rfl rfl⟩), rfl⟩⟩⟩,
    ⟨by decide, by unfold apart; decide, by unfold apart; decide, by unfold apart; decide⟩,
    by decide,
    by decide, by decide, issues_of rfl (by decide)⟩

/-- Outside a handler, and in one: good and bad addresses to resume at, live and dead replay entries, and every register of the frame. -/
theorem witness_TrapHandler : Memory.wf rich.mem = true ∧ rich.cur.sl = .c ∧
    (∀ i ∈ ([.trapret h0, .replay h0 0 5, .wrsr h0 .cpc (.s 2), .rdsr h0 .cpc (.s 62)] : List Instr), Issues i rich baseG ∧ (envOf i rich baseG).uguard = true) ∧ baseG.inh = false ∧
    (∀ f ∈ [inTrap 0x1001 0 1 .exited, inTrap 0x1000 0x1001 0 .run, inTrap 0x1000 0x1000 0xFF .run, inTrap 0x1000 0x1000 0 .exited], Shaped (f baseG) ∧ (f baseG).inh = true ∧
      (f baseG).held = false ∧
      ∀ i ∈ ([.trapret h0, .replay h0 0 5, .replay h0 7 5, .wrsr h0 .cpc (.s 2), .wrsr h0 .apc (.s 2), .wrsr h0 .fmask (.s 2), .wrsr h0 .rqlive (.s 2), .wrsr h0 .fcode (.s 2),
        .rdsr h0 .cpc (.s 62), .rdsr h0 .fcode (.s 62)] : List Instr), Issues i (has rich f) (f baseG) ∧ (envOf i (has rich f) (f baseG)).uguard = true) ∧
    (¬ goodResume 0x1001 ∧ goodResume 0x1000 ∧ goodResume (2 ^ 56 - 16) ∧ ¬ goodResume (2 ^ 56)) ∧
    ((inTrap 0x1000 0x1000 0xFF .run baseG).rq[0]? = some aReplay ∧ 0xFF / 2 ^ 0 % 2 = 1 ∧ aReplay.st = 1 ∧ (inTrap 0x1000 0x1000 0 .run baseG).rq.length ≤ 7) ∧
    (let g := { inTrap 0x1000 0x1000 0xFF .run baseG with ops := List.replicate 8 aReplay.op }
     8 < (g.ops.filter (·.plain)).length + liveCount 0xFF g.rq ∧ 8 ≤ (g.ops.filter (·.plain)).length) ∧
    (∃ y as, rich.rekey baseG { aReplay.op with addrs := [(0, 0x100)] } = .ok (y, as)) ∧ ∃ e, rich.rekey baseG { aReplay.op with addrs := [(0, 0x80000)] } = .error e := by
  refine ⟨by decide, rfl, guard_all true rfl (by decide), rfl, fun f hf => ?_, by unfold goodResume; decide, by decide, by decide, ⟨_, _, rfl⟩, _, rfl⟩
  simp only [List.mem_cons, List.not_mem_nil, or_false] at hf
  rcases hf with rfl | rfl | rfl | rfl <;> exact ⟨by constructor <;> decide, rfl, rfl, guard_all true rfl (by decide)⟩
/-! ## Engines -/

/-- A command of the group. -/
def aCmd (k : CmdKind) : Cmd := { id := 9, gid := baseG.gid, tag := baseG.tag, slot := 0, part := 0, lage := 0, ar := ⟨false, false, .grp⟩, kind := k }

/-- An engine's queue holds one command. -/
def engS (s : State) (e : EngineKind) (c : Cmd) : State := { s with clusters := s.clusters.set 0 ((s.cl 0).setQueue e [c]) }

/-- The normal page of `rich`. -/
theorem page0 {u : State} (h : u.tlbs = rich.tlbs) {a : Nat} (ha : a < 2 ^ 16) {n : Need} (hn : n ∈ [needR, needW, { types := [0, 1], r := true }, { types := [0, 1], w := true }]) :
    u.translate 0 0 a n = .ok (0x20000 + a) := by
  have e : u.leaf 0 0 a = .ok (leafOf 0x20000 0) := by
    have e0 : a / 2 ^ 16 = 0 := by omega
    unfold State.leaf State.cached tlbFind
    rw [h, e0]
    rfl
  unfold State.translate
  rw [e]
  have ek : leafKey (leafOf 0x20000 0) a = 0x20000 + a := by
    have e1 : eaddr (leafOf 0x20000 0) = 0x20000 := by decide
    have e2 : esize (leafOf 0x20000 0) = 0x10000 := by decide
    have e3 : etype (leafOf 0x20000 0) = 0 := by decide
    unfold leafKey
    rw [e1, e2, e3]
    have := Nat.mod_eq_of_lt (show a < 0x10000 by omega)
    simp only [this, keyPhys]
    rfl
  simp only [ek]
  simp only [List.mem_cons, List.not_mem_nil, or_false] at hn
  rcases hn with rfl | rfl | rfl | rfl <;> rfl

theorem mapM_ok {α β ε : Type} (f : α → Except ε β) (g : α → β) : ∀ (L : List α), (∀ x ∈ L, f x = .ok (g x)) → L.mapM f = .ok (L.map g)
  | [], _ => rfl
  | x :: L, h => by
    rw [List.mapM_cons, h x (by simp), mapM_ok f g L fun y hy => h y (by simp [hy])]
    rfl

/-- The keys of bytes within the normal page of `rich`. -/
theorem range0 {u : State} (h : u.tlbs = rich.tlbs) {a m : Nat} (hm : a + m ≤ 2 ^ 16) {n : Need}
    (hn : n ∈ [needR, needW, { types := [0, 1], r := true }, { types := [0, 1], w := true }]) :
    u.rangeKeys 0 0 a m n = .ok ((List.range m).map fun i => 0x20000 + (a + i)) := by
  unfold State.rangeKeys
  apply mapM_ok
  intro i hi
  have hi := List.mem_range.mp hi
  have : (a + i) % 2 ^ 64 = a + i := Nat.mod_eq_of_lt (by omega)
  rw [this, page0 h (by omega) hn]

/-- What a command of the group may reach in that page. -/
theorem tag0 {u : State} (h : u.tlbs = rich.tlbs) (k : CmdKind) {a m : Nat} (hm : a + m ≤ 2 ^ 16) (wr : Bool) :
    u.tagKeys (aCmd k) a m wr = .ok ((List.range m).map fun i => 0x20000 + (a + i)) := by
  have e : tagSpace a = .glob := by
    have : a / 2 ^ 62 = 0 := by omega
    unfold tagSpace
    rw [this]
    rfl
  unfold State.tagKeys
  rw [e]
  simp only
  rw [if_neg (by omega)]
  show u.rangeKeys 0 0 a m _ = _
  cases wr
  · exact range0 h hm (by simp)
  · exact range0 h hm (by simp)

theorem eng0 {u : State} (h : u.tlbs = rich.tlbs) (k : CmdKind) {a m : Nat} (hm : a + m ≤ 2 ^ 16) (wr : Bool) :
    u.engKeys (aCmd k) .glob a m wr = .ok ((List.range m).map fun i => 0x20000 + (a + i)) := by
  unfold State.engKeys
  simp only
  rw [if_neg (by omega)]
  show u.rangeKeys 0 0 a m _ = _
  cases wr <;> exact range0 h hm (by simp)

theorem shared0 {u : State} (h : u.teams = rich.teams) (k : CmdKind) {a m : Nat} (hm : a + m ≤ 4096) (wr : Bool) :
    u.engKeys (aCmd k) .shared a m wr = .ok ((List.range m).map fun i => keyShared 0 0 + (a + i)) := by
  have e : u.teamKeys baseG.tag a m = rich.teamKeys baseG.tag a m := by
    unfold State.teamKeys State.team
    rw [h]
  have e2 : rich.teamKeys baseG.tag a m = if 4096 < a + m then .error .sharedBound else .ok ((List.range m).map fun i => keyShared 0 (0 + a + i)) := rfl
  rw [if_neg (by omega)] at e2
  have e3 : (List.range m).map (fun i => keyShared 0 (0 + a + i)) = (List.range m).map fun i => keyShared 0 0 + (a + i) := by
    congr 1
    funext i
    unfold keyShared
    omega
  rw [e3] at e2
  unfold State.engKeys
  show (match u.teamKeys baseG.tag a m with
    | .ok k => Except.ok k
    | .error f => .error (f, a)) = _
  rw [e, e2]

theorem linear (b n : Nat) : distinct (fun o => b + o) n := fun o _ p _ h => by simpa using h

/-- A copy of sixteen bytes, with and without a barrier, and one whose source page is absent or of the wrong type. -/
theorem witness_EngineCommands_copy :
    (∀ bar ∈ [none, some 0x30000], let c := aCmd (.acp .glob .shared 0 0 16 bar)
      let s := engS rich .copy c
      Memory.wf s.mem = true ∧ 0 < s.clusters.length ∧ (s.cl 0).copy.find? (·.id == c.id) = some c ∧ s.cmdReady c = true ∧ c.sent = false ∧ c.pos = 0 ∧
      (∀ u, Undisturbed s u (fun x => ∃ o < 16, x = keyShared 0 0 + o) → ∀ j < 16 / 16,
        u.engKeys c .glob (0 + 16 * j) 16 false = .ok ((List.range 16).map fun i => 0x20000 + (16 * j + i)) ∧
        u.engKeys c .shared (0 + 16 * j) 16 true = .ok ((List.range 16).map fun i => keyShared 0 0 + (16 * j + i)))) ∧
    (distinct (keyShared 0 0 + ·) 16 ∧ ∀ o < 16, ∀ p < 16, 0x20000 + o ≠ keyShared 0 0 + p) ∧
    (let c := aCmd (.acp .glob .shared 0x80000 0 16 none)
     (engS rich .copy c).engKeys c .glob 0x80000 16 false = .error (.pageAbsent, 0x80000)) ∧
    (let c := aCmd (.acp .glob .shared 0x20000 0 16 none)
     (engS rich .copy c).engKeys c .glob 0x20000 16 false = .error (.spaceMismatch, 0x20000) ∧ FCode.spaceMismatch.cls = .fatal ∧
       ({ baseG with openLeft := [9] } : Group).openFail = none ∧ c.id ∈ ({ baseG with openLeft := [9] } : Group).openLeft) := by
  refine ⟨fun bar hb => ⟨by revert bar; decide, by revert bar; decide, by revert bar; decide, by revert bar; decide, rfl, rfl, fun u hu j hj => ?_⟩, ⟨linear _ _, by decide⟩,
    by decide, by decide⟩
  obtain rfl : j = 0 := by omega
  have h1 := eng0 (u := u) hu.tlbs (.acp .glob .shared 0 0 16 bar) (a := 0) (m := 16) (by omega) false
  have h2 := shared0 (u := u) hu.teams (.acp .glob .shared 0 0 16 bar) (a := 0) (m := 16) (by omega) true
  exact ⟨h1, h2⟩

/-- The link commands of a collective with a window to the other member, and without one: XSCALE's words and XRED's can be read. -/
theorem witness_EngineCommands_link : ∀ k ∈ [CmdKind.xscale 0x30000 0 0 1 0, .xred 0x30000 0 128 1 0],
    let c := aCmd k
    let s := engS collS .link c
    (0 < s.clusters.length ∧ (s.cl 0).link.find? (·.id == c.id) = some c ∧ s.cmdReady c = true ∧ c.sent = false ∧ s.collWindows 0 0 = true) ∧
    (∃ ws, s.linkWords c = .ok ws) ∧ (∃ xs, s.readWords c 0 32 = .ok xs) ∧ (∃ v, s.engRead c 128 8 = .ok v) ∧
    let u : State := { s with ctxs := s.ctxs.set 0 { s.ctx 0 with wins := [] } }
    u.collWindows 0 0 = false ∧ u.cmdReady c = true := by
  intro k hk
  simp only [List.mem_cons, List.not_mem_nil, or_false] at hk
  rcases hk with rfl | rfl <;> exact ⟨by decide, ok_of (by decide), ok_of (by decide), ok_of (by decide), by decide⟩

/-- Collectives that this device has sent: with the other member's words, without them, with words of another kind, of another count, and of too many members; the operation
at its acknowledgement; and a BWAIT of two milliseconds. -/
theorem witness_EngineCommands_end :
    (let c : Cmd := { aCmd (.xscale 0x30000 0 0 1 0) with sent := true, todo := [(0, 8, 5)] }
     Combines (engS collS .link c) 0 c [(false, [7])] (0x20000 + ·) 0 8 1 ∧ c.todo = ((List.range 1).map fun b => (0 + 8 * b, 8, ((fun _ => 5 : Nat → DWord) b).toNat))) ∧
    (let c : Cmd := { aCmd (.xred 0x30000 0 128 1 0) with sent := true, todo := ((List.range 32).map fun i => (0 + 4 * i, 4, 5)) ++ [(128, 8, 6)] }
     Combines (engS collS .link c) 0 c [(true, List.replicate 32 7)] (0x20000 + ·) 0 4 (32 * 1) ∧
       c.todo = ((List.range (32 * 1)).map fun i => (0 + 4 * i, 4, ((fun _ => 5 : Nat → DWord) i).toNat)) ++
         ((List.range 1).map fun b => (128 + 8 * b, 8, ((fun _ => 6 : Nat → DWord) b).toNat))) ∧
    (∀ k ∈ [CmdKind.xscale 0x30000 0 0 1 0, .xred 0x30000 0 128 1 0], let c : Cmd := { aCmd k with sent := true }
     let s := engS collS .link c
     Memory.wf s.mem = true ∧ (s.cl 0).link.find? (·.id == c.id) = some c ∧ (s.ctx 0).state = .active ∧ 0 < s.tqFree 0 ∧ collN (s.collCtrl 0 0) = 2 ∧
       ∃ g o, ({ s with groups := [flying [anOp 5 (.coll 9) .at] baseG] } : State).findOp 0 5 = some (g, o) ∧ o.kind = .coll 9 ∧
         ∀ d ∈ (s.cl g.gid.cluster).link, d.id = 9 → d.sent = true) ∧
    (let c := aCmd (.acp .glob .shared 0 0 16 none)
     let f := fun g : Group => { vec g with bwait := [⟨0, 0, [9], none⟩] }
     let s : State := { engS (has rich f) .copy c with clock := 7200000 }
     (∃ w p, s.groups[0]? = some (f baseG) ∧ (f baseG).bwait = [w] ∧ (f baseG).path w.pid = some p ∧ (f baseG).st = .run ∧ p.st = .run ∧ w.still = none ∧
       w.since + 7200000 ≤ s.clock.toNat ∧ (w.ids.filterMap fun k => (s.cl 0).findCmd k) = [(.copy, c)]) ∧ (s.ctx 0).state = .active ∧ (f baseG).ops = [] ∧
       CanEnter s (f baseG)) ∧
    (flying [stepOp 0x50000 .help] baseG).ops.any Op.awaited = true := by
  have hk : ∀ (u : State) (n m : Nat), u.tlbs = rich.tlbs → n * m ≤ 128 → ∀ j < m, u.rangeKeys 0 0 (0 + n * j) n needW =
      .ok ((List.range n).map fun i => 0x20000 + (n * j + i)) := by
    intro u n m hu hn j hj
    have h1 : n * (j + 1) ≤ n * m := Nat.mul_le_mul_left n hj
    have h2 := range0 hu (a := n * j) (m := n) (by rw [Nat.mul_add] at h1; omega) (n := needW) (by simp)
    rw [Nat.zero_add]
    exact h2
  refine ⟨⟨⟨by decide, by decide, rfl, rfl, by decide, by decide, hk _ 8 1 rfl (by omega), linear _ _⟩, rfl⟩,
    ⟨⟨by decide, by decide, rfl, rfl, by decide, by decide, hk _ 4 32 rfl (by omega), linear _ _⟩, by decide⟩, fun k hk => ?_,
    ⟨⟨_, _, rfl, rfl, rfl, rfl, rfl, rfl, by decide, rfl⟩, rfl, rfl, canEnter_of (rs := []) rfl rfl rfl (by constructor <;> decide) (by decide) rfl rfl rfl rfl rfl⟩, by decide⟩
  simp only [List.mem_cons, List.not_mem_nil, or_false] at hk
  rcases hk with rfl | rfl <;> exact ⟨by decide, by decide, by decide, by decide, by decide, _, _, rfl, rfl, by decide⟩

/-- The value of a computation that succeeds. -/
def got {ε α : Type} (d : α) : Except ε α → α
  | .ok v => v
  | .error _ => d

theorem ok_got {ε α : Type} {d : α} {x : Except ε α} (h : x.isOk = true) : x = .ok (got d x) := by
  cases x with
  | ok v => rfl
  | error => cases h

theorem read0 {u : State} (h : u.tlbs = rich.tlbs) (k : CmdKind) {a m : Nat} (hm : a + m ≤ 2 ^ 16) : ∃ v, u.tagRead (aCmd k) a m = .ok v := by
  unfold State.tagRead
  rw [tag0 h k hm false]
  exact ⟨_, rfl⟩

/-- The zero format block, and one whose scale bytes stand at 0x8000. -/
def fz : FmtBlock := ⟨0, 0, 0, 0, false⟩
def f8 : FmtBlock := ⟨0, 0, 0x8000, 0, false⟩

theorem tilesWf_of {s : State} (h : s.tiles = []) : tilesWf s := by
  unfold tilesWf
  rw [h]
  decide

/-- The Lathe's oldest ready command of each kind. -/
theorem witness_LatheEvents :
    (∀ k ∈ [CmdKind.lzero 0, .lread 1 60 127, .lmma 0 (2 ^ 62) (2 ^ 62) 32 false fz fz, .lload 0 0 128 false f8, .lload 0 0 512 true fz, .lstore 0 0 128 false false f8,
        .lmmv 0 1 (2 ^ 62) 32 128 1 fz],
      (aCmd k).gid.cluster = 0 ∧ (aCmd k).pos = 0 ∧ 0 < (engS rich .lathe (aCmd k)).clusters.length ∧
      ((engS rich .lathe (aCmd k)).cl 0).lathe.find? (fun c => (engS rich .lathe (aCmd k)).latheReady 0 c) = some (aCmd k)) ∧
    (rich.groups.findIdx? (fun g => g.gid == baseG.gid && g.tag == baseG.tag) = some 0 ∧ 60 + 4 ≤ baseG.vbud ∧ (∀ q < 4, 60 + q ∈ baseG.vres) ∧ tilesWf rich) ∧
    (∀ f ∈ [f8, fz], let k := CmdKind.lload 0 0 512 (f == fz) f
     ∀ m < 128, (∃ v, (engS rich .lathe (aCmd k)).tagRead (aCmd k) (0 + m * 512) (16 * 32) = .ok v) ∧
       (∃ v, (engS rich .lathe (aCmd k)).tagRead (aCmd k) (0 + m * 512) (16 * elemBits f.fmt) = .ok v) ∧
       ∃ v, (engS rich .lathe (aCmd k)).tagRead (aCmd k) (tagAddr f8.ssp (f8.saddr + m * (128 / f8.bl))) (128 / f8.bl) = .ok v) ∧
    (let k := CmdKind.lstore 0 0 128 false false f8
     let key := fun o : Nat => 0x20000 + o
     let sk := fun o : Nat => 0x28000 + o
     let W := fun (x : Nat) => (∃ o < 128 * (16 * 8), x = key o) ∨ ∃ o < 128 * 4, x = sk o
     elemBits f8.fmt = 8 ∧ f8.bl = 32 ∧ distinct key (128 * (16 * 8)) ∧ distinct sk (128 * 4) ∧ (∀ o < 128 * (16 * 8), ∀ p < 128 * 4, key o ≠ sk p) ∧
     ∀ u, Calm (engS rich .lathe (aCmd k)) u W → ∀ m < 128, u.tagKeys (aCmd k) (0 + m * 128) (16 * 8) true = .ok ((List.range (16 * 8)).map fun i => key (m * (16 * 8) + i)) ∧
        u.tagKeys (aCmd k) (tagAddr f8.ssp (f8.saddr + m * 4)) 4 true = .ok ((List.range 4).map fun i => sk (m * 4 + i))) ∧
    (let c := aCmd (.lmma 0 (2 ^ 62) (2 ^ 62) 32 false fz fz)
     ∃ A B : Nat → List (Option Fx), ∀ m < 128, (engS rich .lathe c).chunk c fz (rowsAt fz (2 ^ 62) 32 false) c.pos m = .ok (A m) ∧
       (engS rich .lathe c).chunk c fz (rowsAt fz (2 ^ 62) 32 false) c.pos m = .ok (B m)) ∧
    (let c := aCmd (.lmmv 0 1 (2 ^ 62) 32 128 1 fz)
     ∃ R : Nat → List (Option Fx), ∀ i < min 128 (128 * (0 / 1) + 128) - 128 * (0 / 1), (engS rich .lathe c).chunk c fz (rowsAt fz (2 ^ 62) 32 false) (0 % 1) (128 * (0 / 1) + i) = .ok (R i)) ∧
    (let c := aCmd (.lmma 0 (2 ^ 62 + 0x2000) (2 ^ 62) 32 false fz fz)
     ∃ f x, FCode.cls f = .fatal ∧ (engS rich .lathe c).chunk c fz (rowsAt fz (2 ^ 62 + 0x2000) 32 false) c.pos 0 = .error (f, x)) := by
  have hc : ∀ (c : Cmd), (∀ m < 128, ((engS rich .lathe c).chunk c fz (rowsAt fz (2 ^ 62) 32 false) 0 m).isOk = true) →
      ∀ m < 128, (engS rich .lathe c).chunk c fz (rowsAt fz (2 ^ 62) 32 false) 0 m = .ok (got [] ((engS rich .lathe c).chunk c fz (rowsAt fz (2 ^ 62) 32 false) 0 m)) :=
    fun c h m hm => ok_got (h m hm)
  refine ⟨fun k hk => ?_, ⟨by decide, by decide, by decide, tilesWf_of rfl⟩, fun f hf m hm => ?_,
    ⟨by decide, by decide, linear _ _, linear _ _, fun o ho p hp => by simp only; omega, fun u hu m hm => ?_⟩, ?_, ?_, .sharedBound, _, rfl, rfl⟩
  · simp only [List.mem_cons, List.not_mem_nil, or_false] at hk
    rcases hk with rfl | rfl | rfl | rfl | rfl | rfl | rfl <;> decide
  · have e : elemBits f.fmt = 8 := by
      simp only [List.mem_cons, List.not_mem_nil, or_false] at hf
      rcases hf with rfl | rfl <;> rfl
    have e2 : f8.bl = 32 := rfl
    have e3 : tagAddr f8.ssp (f8.saddr + m * (128 / f8.bl)) = 0x8000 + m * 4 := by
      rw [e2]
      simp [tagAddr, f8]
    rw [e, e3, e2]
    exact ⟨read0 rfl _ (by omega), read0 rfl _ (by omega), read0 rfl _ (by omega)⟩
  · have e3 : tagAddr f8.ssp (f8.saddr + m * 4) = 0x8000 + m * 4 := by simp [tagAddr, f8]
    rw [e3, tag0 hu.tlbs _ (by omega), tag0 hu.tlbs _ (by omega)]
    refine ⟨?_, ?_⟩
    · congr 2
      funext i
      simp only
      omega
    · congr 2
      funext i
      simp only
      omega
  · have h := hc (aCmd (.lmma 0 (2 ^ 62) (2 ^ 62) 32 false fz fz)) (by decide)
    exact ⟨_, _, fun m hm => ⟨h m hm, h m hm⟩⟩
  · have h := hc (aCmd (.lmmv 0 1 (2 ^ 62) 32 128 1 fz)) (by decide)
    refine ⟨fun i => got [] ((engS rich .lathe (aCmd (.lmmv 0 1 (2 ^ 62) 32 128 1 fz))).chunk (aCmd (.lmmv 0 1 (2 ^ 62) 32 128 1 fz)) fz (rowsAt fz (2 ^ 62) 32 false) 0 i), fun i hi => ?_⟩
    rw [show 128 * (0 / 1) + i = i by omega]
    exact h i (by omega)

/-- The format block of four-bit elements. -/
def f4 : FmtBlock := ⟨2, 0, 0, 0, false⟩

/-- A descriptor of one step of 32 columns in shared memory: one ring at 0x400 for both, a completion word at 0x40. -/
def descr : Nat := 0x400 + 0x400 * 2 ^ 32 + 0xA00 * 2 ^ 64 + 0xA00 * 2 ^ 96 + 2 ^ 128 + 2 ^ 144 + 2 ^ 160 + 32 * 2 ^ 192 + 0x40 * 2 ^ 224

/-- A stream whose descriptor is good, one with a reserved bit and one that is not ok, and a stream whose step ends, not the last and the last. -/
theorem witness_LatheEvents_streams :
    let c := aCmd (.stream 0 0 f4 f4 none)
    (∀ v ∈ [descr, descr + 2 ^ 210, 0x40 * 2 ^ 224], let s := engS (mem1 rich (keyShared 0 0) (bytesOfWord 64 v)) .lathe c
     Memory.wf s.mem = true ∧ (s.cl 0).lathe.find? (fun c => c.isStream && !c.accepted) = some c ∧ s.cmdReady c = true ∧ 0 < s.tqFree 0 ∧
       s.teamKeys c.tag 0 64 = .ok ((List.range 64).map (keyShared 0 0 + ·)) ∧ wordOfBytes (s.mem.getAll ((List.range 64).map (keyShared 0 0 + ·))) = v ∧
       (streamOf v).cword = 0x40 ∧ s.teamKeys c.tag 0x40 4 = .ok ((List.range 4).map (keyShared 0 0x40 + ·)) ∧ (s.team c.tag).elim 0 (·.shBytes) = 4096) ∧
    (¬ (descr / 2 ^ 210 % 2 ^ 14 ≠ 0 ∨ descr / 2 ^ 256 ≠ 0) ∧ (streamOf descr).ok f4 f4 4096 = true ∧ (streamOf descr).sp = false) ∧
    ((descr + 2 ^ 210) / 2 ^ 210 % 2 ^ 14 ≠ 0 ∧ (streamOf (0x40 * 2 ^ 224)).ok f4 f4 4096 = false) ∧
    (apart (keyShared 0 0x40) 4 (rich.ctx 0).tqHeader 64 ∧ apart (keyShared 0 0x40) 4 ((rich.ctx 0).tqHeader + 64) 64) ∧
    (let d : StreamDesc := ⟨0x400, 0x400, 0xA00, 0xA00, 1, 1, 2, 32, false, false, 0x40⟩
     ∀ pos ∈ [0, 1], let a : Cmd := { aCmd (.stream 0 0 f4 f4 (some d)) with pos := pos, sub := 1 }
     let u := engS rich .lathe a
     Memory.wf u.mem = true ∧ (u.cl 0).lathe.find? (·.id == a.id) = some a ∧ u.cmdReady a = true ∧ a.sub = d.ks / 32 ∧ d.cword % 4 = 0 ∧
       u.teamKeys a.tag d.cword 4 = .ok ((List.range 4).map (keyShared 0 0x40 + ·))) := by
  intro c
  exact ⟨by decide, by decide, by decide, by unfold apart; decide, by decide⟩

/-- A TMATCH of one key, a TMERGE of two rows to one (with sizes and without), a TUNMERGE of one row, and maps that are used or of another generation. -/
theorem witness_TrowelCommands :
    (let c := aCmd (.tmatch 0 0x4000 1 0 1 32 .f16)
     let s := engS rich .trowel c
     Memory.wf s.mem = true ∧ (s.cl 0).trowel = [c] ∧ s.cmdReady c = true ∧ (∃ ks, s.readKeys c 0x4000 1 32 .f16 = .ok ks) ∧ distinct (0x20000 + ·) 44 ∧
       ∀ u, Calm s u (fun x => ∃ o < 44, x = 0x20000 + o) → ∀ j < 44 / 4, u.tagKeys c (0 + 4 * j) 4 true = .ok ((List.range 4).map fun i => 0x20000 + (4 * j + i))) ∧
    (∀ size ∈ [none, some 0x400], let c := aCmd (.tmerge 0x300 0x200 0 size 16 .f16)
     let s := engS (mem1 rich 0x20000 [2, 0, 0, 0, 1, 0, 0, 0, 1]) .trowel c
     Memory.wf s.mem = true ∧ s.cmdReady c = true ∧ s.openMap c 0 (fun _ => 0x300) (fun m => m.src * 32) (fun m => (0x200, m.src * 32) :: (size.map fun a => (a, 4 * m.src)).toList)
         (fun m => [(0 + 0x20 + 4 * m.src + 4 * m.kept, 4 * m.kept)]) = .ok (⟨2, 1, 1, 0, 0⟩, [0, 0]) ∧
       (∀ a, size = some a → s.tagWords c a 2 = .ok ((List.range 2).map fun _ => 0)) ∧ distinct (fun o => 0x20300 + o) 32 ∧ distinct (fun o => 0x2002C + o) 4 ∧
       (∀ o < 32, ∀ p < 4, 0x20300 + o ≠ 0x2002C + p) ∧ (∀ o < 64, ¬ ((∃ p < 32, 0x20200 + o = 0x20300 + p) ∨ ∃ p < 4, 0x20200 + o = 0x2002C + p)) ∧
       ∀ W u, Undisturbed s u W → (∀ i < 2, u.tagKeys c (0x200 + i * 32) 32 false = .ok ((List.range 32).map fun o => 0x20200 + (i * 32 + o))) ∧
         ∀ j < 1, u.tagKeys c (0x300 + j * 32) 32 true = .ok ((List.range 32).map fun o => 0x20300 + (j * 32 + o)) ∧
           u.tagKeys c (0x2C + 4 * j) 4 true = .ok ((List.range 4).map fun o => 0x2002C + (4 * j + o))) ∧
    (let c := aCmd (.tunmerge 0x100 0x200 0 16 .f16)
     let s := engS (mem1 rich 0x20000 [1, 0, 0, 0, 1, 0, 0, 0, 1]) .trowel c
     Memory.wf s.mem = true ∧ s.cmdReady c = true ∧
       s.openMap c 0 (fun _ => 0x100) (fun m => m.src * 32) (fun m => [(0x200, m.kept * 32)]) (fun _ => [(0, 32)]) = .ok (⟨1, 1, 1, 0, 0⟩, [0]) ∧
       distinct (fun o => 0x20100 + o) 32 ∧ (∀ o < 32, ¬ ((∃ p < 32, 0x20200 + o = 0x20100 + p) ∨ 0x20008 ≤ 0x20200 + o ∧ 0x20200 + o < 0x20008 + 4)) ∧
       ∀ W u, Undisturbed s u W → (∀ d < 1, u.tagKeys c (0x200 + d * 32) 32 false = .ok ((List.range 32).map fun i => 0x20200 + (d * 32 + i))) ∧
         (∀ d < 1, u.tagKeys c (0x100 + d * 32) 32 true = .ok ((List.range 32).map fun i => 0x20100 + (d * 32 + i))) ∧
         u.tagKeys c (0 + 8) 4 true = .ok ((List.range 4).map (0x20008 + ·))) ∧
    (∀ k ∈ [CmdKind.tunmerge 0x100 0x200 0 16 .f16, .tmerge 0x100 0x200 0 none 16 .f16],
     (engS (mem1 rich 0x20000 [1, 0, 0, 0, 1, 0, 0, 0, 1, 1]) .trowel (aCmd k)).mapHead (aCmd k) 0 = .ok ⟨1, 1, 0x101, 0, 0⟩ ∧ Nat.testBit 0x101 8 = true ∧
     (engS (mem1 rich 0x20000 [1, 0, 0, 0, 1, 0, 0, 0, 1, 0, 0, 0, 7]) .trowel (aCmd k)).mapHead (aCmd k) 0 = .ok ⟨1, 1, 1, 7, 0⟩ ∧ (rich.ctx 0).mapGen.toNat = 0) := by
  have t0 : ∀ (u : State), u.tlbs = rich.tlbs → ∀ (k : CmdKind) (a b m : Nat) (wr : Bool), a + b + m ≤ 2 ^ 16 →
      u.tagKeys (aCmd k) (a + b) m wr = .ok ((List.range m).map fun i => 0x20000 + a + (b + i)) := by
    intro u h k a b m wr hm
    rw [tag0 h k hm wr]
    congr 2
    funext i
    omega
  refine ⟨⟨by decide, rfl, by decide, ok_of (by decide), linear _ _, fun u hu j hj => t0 u hu.tlbs _ 0 (4 * j) 4 true (by omega)⟩,
    fun size hs => ⟨by revert size; decide, by revert size; decide, by revert size; decide, by revert size; decide, linear _ _, linear _ _, by omega, by omega, fun W u hu => ⟨fun i hi => ?_, fun j hj => ⟨?_, ?_⟩⟩⟩,
    ⟨by decide, by decide, by decide, linear _ _, by omega, fun W u hu => ⟨fun d hd => ?_, fun d hd => ?_, ?_⟩⟩, by decide⟩
  · exact t0 u hu.tlbs _ 0x200 (i * 32) 32 false (by omega)
  · exact t0 u hu.tlbs _ 0x300 (j * 32) 32 true (by omega)
  · exact t0 u hu.tlbs _ 0x2C (4 * j) 4 true (by omega)
  · exact t0 u hu.tlbs _ 0x200 (d * 32) 32 false (by omega)
  · exact t0 u hu.tlbs _ 0x100 (d * 32) 32 true (by omega)
  · have h := t0 u hu.tlbs (.tunmerge 0x100 0x200 0 16 .f16) 8 0 4 true (by omega)
    simpa using h
/-! ## Issue, rounds and faults -/

/-- Path 0 at an address, with the line of `base` entered or not. -/
def atPc (pc : Nat) (g : Group) : Group := onPath (fun p => { p with pc := pc }) (vec g)

/-- The line at 0x2000 holds one bit. -/
def oddLine : State := mem1 (has rich (atPc 0x2000)) 0x22005 [1]

/-- A line that can be entered and one whose parity is wrong (one bit of it is set). -/
theorem witness_IssueAndRounds_lines :
    (∃ p bs, baseG.path 0 = some p ∧ rich.live baseG = true ∧ p.st = .run ∧ rich.snap = none ∧ rich.yields baseG ⟨0, .c, 0⟩ = false ∧ latched p.line p.pc = none ∧
      rich.lineBytesAt 0 0 (p.pc / 64 * 64) = .ok bs ∧
      (Line.ofBytes (p.pc / 64 * 64) bs).parityOk bs = true ∧ badLine (Line.ofBytes (p.pc / 64 * 64) bs) .c = false ∧ p.pc % 64 / 12 = 0 ∧
      ∀ f < 12, (Line.ofBytes (p.pc / 64 * 64) bs).wait f = true → baseG.flags.getD f 0 = 0) ∧
    (∃ p bs, (atPc 0x2000 baseG).path 0 = some p ∧ p.pc = 0x2000 ∧ latched p.line p.pc = none ∧ (oddLine.lineBytesAt 0 0 0x2000) = .ok bs ∧
      (Line.ofBytes 0x2000 bs).parityOk bs = false ∧ oddLine.yields (atPc 0x2000 baseG) ⟨0, .c, 0⟩ = false ∧ CanEnter oddLine (atPc 0x2000 baseG)) :=
  ⟨⟨_, _, rfl, by decide, rfl, rfl, by decide, rfl, rfl, by decide, by decide, rfl, by decide⟩,
    ⟨_, _, rfl, rfl, rfl, rfl, by decide, by decide, canEnter_mem (rs := []) rfl rfl (by decide) (by decide) (by constructor <;> decide) (by decide) rfl rfl rfl rfl rfl⟩⟩

theorem ranked_one (sl : Slice) (h : ((base.groups.zipIdx.filter fun p => p.1.gid.cluster == 0 && p.1.gid.part == 0).flatMap fun p =>
    (base.candsOf p.2 p.1).map fun r => (base.lastTurn p.1.gid sl, r)).filter (·.2.c.sl == sl) ≠ []) :
    base.ranked sl (fun g => g.gid.cluster == 0 && g.gid.part == 0) = [⟨0, sl, 0⟩] := by
  cases sl
  all_goals
    unfold State.ranked
    exact congrArg (List.map fun x : _ × Ranked => x.2.c) (List.mergeSort_singleton _)

/-- The only candidate of its partition. -/
theorem witness_IssueAndRounds_selection : issuable base 0 0 .c ⟨0, .c, 0⟩ ∧ recent base ⟨0, .c, 0⟩ ∧
    ∀ d, issuable base 0 0 .c d → recent base d ∧ (d ≠ ⟨0, .c, 0⟩ → d.g ≠ 0 ∧ ¬ before base d.g 0) := by
  have hr := ranked_one .c (by decide)
  have h1 : recent base ⟨0, .c, 0⟩ := by
    intro g hg
    obtain rfl : baseG = g := Option.some.inj hg
    decide
  refine ⟨⟨by rw [hr]; simp, by decide⟩, h1, fun d hd => ?_⟩
  have := hd.1
  rw [hr, List.mem_singleton] at this
  subst this
  exact ⟨h1, fun h => absurd rfl h⟩

/-- A register space mapped at page 4, and a group that needs a register line. -/
def regS (f : Group → Group) : State :=
  has { rich with tlbs := { rich.tlbs with l1 := ((rich.tlbs.l1.getD 0 []) ++ [⟨0, 4, leafOf 0x60000 3⟩]) :: List.replicate 127 [] } } f
def needG (n : Nat) (vres vdirty vbad vwr : List Nat) (rb : DWord) (g : Group) : Group :=
  { g with vneed := some n, vres := vres, vdirty := vdirty, vbad := vbad, vwr := vwr, rbase := rb }

/-- A line to fill, written or not; a full cache whose oldest line is clean, dirty or unreadable; a register space that cannot be read; a resident line that goes bad and one that
is bad. -/
theorem witness_IssueAndRounds_registers :
    (∀ c ∈ [(([] : List Nat), ([] : List Nat)), (List.replicate 127 2, [63])], let f := needG 63 c.1 [] [] c.2 0x40000
      Shaped (f baseG) ∧ c.1.length < 128 ∧ 63 < baseG.vbud ∧ 63 ∉ c.1 ∧ ∃ ks, (regS f).regKeys (f baseG) (0x800 + 128 * 63) 128 false = .ok ks) ∧
    (∀ c ∈ [(([] : List Nat), ([] : List Nat)), ([0], []), ([0], [0])], let f := fun g => needG 63 (0 :: List.replicate 127 2) c.1 c.2 [] 0x40000 (flying [stepOp 0x50000 .help] g)
     Memory.wf (regS f).mem = true ∧ 127 ≤ (List.replicate 127 (2 : Nat)).length ∧ 63 ∉ (f baseG).vres ∧ (∃ ks, (regS f).regKeys (f baseG) 0x800 128 true = .ok ks ∧ ks.Nodup) ∧
       (f baseG).paths.head?.isSome = true ∧ (f baseG).ops.any Op.awaited = true) ∧
    (let f := fun g => needG 63 [] [] [] [63] 0x80000 (flying [stepOp 0x50000 .help] g)
     (∃ a, (regS f).regKeys (f baseG) (0x800 + 128 * 63) 128 false = .error a) ∧ (f baseG).paths.head?.isSome = true ∧ (f baseG).ops.any Op.awaited = true) ∧
    (0 ∈ baseG.vres ∧ 0 ∉ baseG.vbad) ∧
    (let i := Instr.imad h0 .i32 (.v 0) (.v 0) (.v 0) (.v 0)
     let f := fun g : Group => { g with vbad := [0] }
     base.snap = none ∧ decodeFault i (f baseG) (withG f) = none ∧ (∀ r ∈ i.refs, r ∉ (f baseG).awaited ∧ r ∉ (f baseG).buffered) ∧ (f baseG).missing i.vregs = none ∧
       0 ∈ i.vregs ∧ 0 ∈ (f baseG).vbad) := by
  refine ⟨fun c hc => ?_, fun c hc => ⟨by revert c; decide, by decide, by revert c; decide, ⟨(List.range 128).map (0x60800 + ·), ?_, by decide⟩, rfl, by revert c; decide⟩,
    ⟨error_of (by decide), rfl, by decide⟩, by decide, by decide⟩
  · simp only [List.mem_cons, List.not_mem_nil, or_false] at hc
    rcases hc with rfl | rfl <;> exact ⟨by constructor <;> decide, by decide, by decide, by decide, ok_of (by decide)⟩
  · simp only [List.mem_cons, List.not_mem_nil, or_false] at hc
    rcases hc with rfl | rfl | rfl <;> decide

/-- A D-mode group at the end of its quantum, with a commit buffer. -/
def roundG (os : List Op) (e : Bool) (g : Group) : Group := { inD g with qend := e, qn := 8, quantum := 8, cbuf := os }

theorem plainRound (os : List Op) (s : State) (h : s = has rich (roundG os true)) : PlainRound s 0 := by
  subst h
  have hl : ∀ l ∈ rich.launches, l.dmode = false := by decide
  exact ⟨(by decide : Memory.wf rich.mem = true), rfl, fun l h _ hd => (by rw [hl l h] at hd; exact absurd hd (by decide)), rfl, rfl, rfl, (by decide : (rich.ctx 0).pState ≠ .resetting),
    (by decide : ∀ t ∈ rich.teams, t.saving = false ∧ t.leaving = false), (by decide : ∀ p ∈ rich.spindle, p.full = none)⟩

theorem oneRound (o : Op) (s : State) (h : s = has rich (roundG [o] true)) (hl : o.late = none) (hr : ∀ n ∈ vRefs o.dsts, n ∈ baseG.vres) : OneRound s 0 0 (roundG [o] true baseG) o := by
  subst h
  refine ⟨plainRound [o] _ rfl, ⟨baseG_shaped.v, baseG_shaped.s, baseG_shaped.a, baseG_shaped.p, baseG_shaped.flags, baseG_shaped.q, baseG_shaped.raised, baseG_shaped.sbud⟩,
    rfl, rfl, rfl, rfl, rfl, rfl, rfl, hl, hr, fun j x hj hne => ?_⟩
  cases j with
  | zero => exact absurd rfl hne
  | succ j => cases hj

/-- The engine commands of a round, with the engine that takes each. -/
def roundCmds : List (EngineKind × CmdKind) := [(.copy, .acp .glob .shared 0 0 16 none), (.copy, .kvgather .k false 0 0 1 0), (.trowel, .tmatch 0 0x4000 1 0 1 32 .f16),
  (.trowel, .tmerge 0x300 0x200 0 none 16 .f16), (.trowel, .tunmerge 0x100 0x200 0 16 .f16), (.link, .xscale 0x30000 0 0 1 0), (.link, .xred 0x30000 0 128 1 0),
  (.lathe, .lzero 0), (.lathe, .lload 0 0 128 false f8), (.lathe, .lstore 0 0 128 false false f8), (.lathe, .lmma 0 (2 ^ 62) (2 ^ 62) 32 false fz fz),
  (.lathe, .lmmv 0 1 (2 ^ 62) 32 128 1 fz), (.lathe, .lmma 0 (2 ^ 62) (2 ^ 62) 0 false fz fz)]

/-- A round of stores and atomics together, and one of each operation that a D-mode group buffers. -/
theorem witness_IssueAndRounds_rounds :
    ((roundG [] false baseG).dmode = true ∧ (roundG [] false baseG).qend = false ∧ (roundG [] false baseG).quantum ≤ (roundG [] false baseG).qn) ∧
    (let st := anOp 5 (.store [(0, 0x20000, 7)] 4) .st
     let at_ := anOp 6 (.kiln [⟨255, 0x30000, 0x50000, .atom .add 4 7⟩] [] none 4 none true) .at
     PlainRound (has rich (roundG [st, at_] true)) 0 ∧ storesAndAtomics (has rich (roundG [st, at_] true)) (roundG [st, at_] true baseG)) ∧
    (∀ a ∈ [KAct.atom .add 4 7, .cas 16 1 2], ∀ x ∈ [((.v 60), some 5, false), ((.s 60), none, true)], let st : KStep := ⟨3, 0x30000, 0x50000, a⟩
     let o := anOp 5 (.kiln [st] [] (some x.1) 16 x.2.1 x.2.2) .at
     OneRound (has rich (roundG [o] true)) 0 0 (roundG [o] true baseG) o ∧ atomicStep (has rich (roundG [o] true)) st ∧ destFits (roundG [o] true baseG) [3] (some x.1) 16) ∧
    (∀ k ∈ [OpKind.fill [(3, keyShared 0 0, 7)] 4 5 false, .fetest [(3, granuleOf (keyShared 0 0))] true 5, .fetest [(3, granuleOf (keyShared 0 0))] false 0,
        .msend 0 [1] none 5, .msend 0x10000 [1] none 0], let o := anOp 5 k .at
     OneRound (has rich (roundG [o] true)) 0 0 (roundG [o] true baseG) o) ∧
    (rich.clusters.length = 128 ∧ (rich.cl 0).ports.length = 8) ∧
    (∀ c ∈ roundCmds, ∀ w ∈ [[], [RegRef.s 9]], let o : Op := { anOp 5 (.accept c.1 (aCmd c.2)) .at with dsts := w }
     OneRound (has rich (roundG [o] true)) 0 0 (roundG [o] true baseG) o) ∧
    (let o : Op := { anOp 5 (.accept .lathe (aCmd (.stream 0 0 f4 f4 none))) .at with dsts := [.p 5] }
     OneRound (has rich (roundG [o] true)) 0 0 (roundG [o] true baseG) o) ∧
    let o : Op := { anOp 5 (.accept .lathe (aCmd (.lread 0 56 127))) .at with dsts := (List.range 4).map (fun k => .v (56 + k)) }
    let s := has rich (roundG [o] true)
    OneRound s 0 0 (roundG [o] true baseG) o ∧ (s.cl 0).lathe = [] ∧ s.cmdReady (aCmd (.lread 0 56 127)) = true ∧ tilesWf s ∧ 56 + 4 ≤ baseG.vbud ∧
      s.groups.findIdx? (fun h => h.gid == baseG.gid && h.tag == baseG.tag) = some 0 := by
  refine ⟨by decide, ⟨plainRound _ _ rfl, rfl, rfl, by decide, fun o ho => ?_⟩, fun a ha x hx => ⟨oneRound _ _ rfl rfl (by simp [anOp, vRefs]), ⟨(by decide : rich.poisoned 0x50000 = false), ?_⟩, ?_⟩,
    fun k hk => oneRound _ _ rfl rfl (by simp [anOp, vRefs]), by decide, fun c hc w hw => oneRound _ _ rfl rfl ?_, oneRound _ _ rfl rfl (by decide),
    oneRound _ _ rfl rfl (by decide), rfl, by decide, tilesWf_of rfl, by decide, by decide⟩
  · simp only [roundG, List.mem_cons, List.not_mem_nil, or_false] at ho
    rcases ho with rfl | rfl
    · exact ⟨rfl, by decide, .inl ⟨_, _, rfl⟩⟩
    · refine ⟨rfl, by decide, .inr ⟨_, _, _, _, _, rfl, fun st hst => ?_⟩⟩
      rw [List.mem_singleton] at hst
      subst hst
      exact ⟨by decide, .inl ⟨_, _, _, rfl, by decide, by decide⟩⟩
  · simp only [List.mem_cons, List.not_mem_nil, or_false] at ha
    rcases ha with rfl | rfl
    · exact .inl ⟨_, _, _, rfl, by decide, by decide⟩
    · exact .inr ⟨_, _, _, rfl, by decide, by decide, by decide⟩
  · simp only [List.mem_cons, List.not_mem_nil, or_false] at hx
    rcases hx with rfl | rfl
    · exact ⟨fun r h => by cases h; exact ⟨(by decide : (60 : BitVec 8).toNat + wordsOf 16 ≤ baseG.vbud), by decide⟩, fun r h => by cases h⟩
    · exact ⟨fun r h => by (cases h), fun r h => by cases h; decide⟩
  · simp only [List.mem_cons, List.not_mem_nil, or_false] at hw
    rcases hw with rfl | rfl <;> intro n hn <;> cases hn

/-- A timer that is due, in and out of a handler. -/
def timed (i : Bool) (g : Group) : Group := { vec g with armed := true, inh := i, regs := { (vec g).regs with tcmp := 0 } }

/-- The group with one operation, in `rich`, and its handler. -/
def opG (o : Op) (g : Group) : Group := flying [o] (vec g)

theorem canFail_of (o : Op) (h : o.id = 5) (h2 : o.pid = 0) : ∃ p, CanFail (has rich (opG o)) 0 5 (opG o baseG) o p :=
  ⟨{ id := 0, pc := fetchVa, exec := 0xFFFFFFFF, held := 0xFFFFFFFF }, rfl, by simp [opG, flying, h], rfl, by rw [h2]; rfl,
    (by decide : (rich.team baseG.tag).any (fun t => t.saving || t.leaving) = false)⟩

theorem complete_opG (o : Op) (h : o.flag = none ∧ o.flag2 = none ∧ o.counted = false) : (opG o baseG).complete o = vec baseG := by
  have e : (opG o baseG).dropOp o = vec baseG := by
    unfold Group.dropOp
    rw [h.1, h.2.1, h.2.2]
    simp [opG, flying, Group.lowerFlag]
    rfl
  unfold Group.complete
  rw [e]
  rfl

theorem enters_opG (o : Op) (h : o.flag = none ∧ o.flag2 = none ∧ o.counted = false) : CanEnter (has rich (opG o)) ((opG o baseG).complete o) := by
  rw [complete_opG o h]
  exact canEnter_of (rs := []) rfl rfl rfl (by constructor <;> decide) (by decide) rfl rfl rfl rfl rfl

/-- Operations that end with a fault: a late one, a peer load (plain or not) whose answer is a fault, a peer store, an atomic on a line with an uncorrectable error, and a replay
entry that is waited for; requests without an answer. -/
theorem witness_FaultEvents_operations :
    (let f := timed
     ((has rich (f false)).issues (f false baseG) = true ∧ CanEnter (has rich (f false)) (f false baseG) ∧ (f false baseG).armed = true ∧ (f true baseG).inh = true ∧
       (has rich (f true)).issues (f true baseG) = true ∧ (f false baseG).regs.tcmp.toNat % 2 ^ 48 = 0)) ∧
    (let o : Op := { stepOp 0x50000 .help with late := some { code := .objKind } }
     (∃ p, CanFail (has rich (opG o)) 0 5 (opG o baseG) o p) ∧ o.plain = false ∧ o.isStore = false ∧ FCode.objKind.cls = .fatal ∧
       CanEnter (has rich (opG o)) ((opG o baseG).complete o)) ∧
    (∀ plain, let o : Op := { anOp 5 (.load [(3, keyPeer 1 2 0)] 4 false (.v 9) false none) .aq with plain := plain }
     (∃ p, CanFail (has rich (opG o)) 0 5 (opG o baseG) o p) ∧ o.late = none ∧ o.isStore = false ∧ lateCode 0x10D o = some .linkDown ∧
       CanEnter (has rich (opG o)) ((opG o baseG).complete o) ∧ (plain = true → CanEnter (has rich (opG o)) (opG o baseG) ∧ ((opG o baseG).ops.filter (·.plain)).length ≤ 8)) ∧
    (let o := anOp 5 (.store [(3, keyPeer 1 2 0, 7)] 4) .st
     (∃ p, CanFail (has rich (opG o)) 0 5 (opG o baseG) o p) ∧ o.late = none ∧ o.plain = false ∧ o.isStore = true ∧ lateCode 0x10D o = some .linkDown ∧
       CanDie (has rich (opG o)) ((opG o baseG).complete o)) ∧
    (∀ a ∈ [KAct.atom .add 4 7, .cas 4 1 2], let o := anOp 5 (.kiln [⟨255, 0x30000, 0x50000, a⟩] [] none 4 none true) .at
     (∃ p, CanFail (has rich (opG o)) 0 5 (opG o baseG) o p) ∧ o.late = none ∧ o.plain = false ∧ lateCode 0x10F o = some .eccUncorrected ∧
       CanEnter (has rich (opG o)) ((opG o baseG).complete o)) ∧
    (let f := fun g : Group => { g with rq := [aReplay] }
     Memory.wf rich.mem = true ∧ (∀ o ∈ (f baseG).ops, o.id ≠ 3) ∧ ((has rich f).cl 0).findCmd 3 = none ∧ (f baseG).rq[0]? = some aReplay ∧ aReplay.op.id = 3 ∧ aReplay.st = 1) ∧
    (∀ e ∈ [EngineKind.copy, .lathe, .trowel], let s := engS rich e (aCmd (.acp .glob .shared 0 0 16 none))
     (s.cl 0).findCmd 9 = some (e, aCmd (.acp .glob .shared 0 0 16 none)) ∧ (s.ctx 0).state = .active ∧ 0 < s.clusters.length ∧
       s.groups.findIdx? (fun h => h.gid == baseG.gid && h.tag == baseG.tag) = some 0 ∧
       let g : Group := { baseG with openLeft := [9], batches := [⟨1, [9, 8], none⟩] }
       9 ∈ g.openLeft ∧ g.openFail = none ∧ ∀ b ∈ g.batches, 9 ∈ b.left ∧ b.failed = none) ∧
    (∀ o ∈ [stepOp 0x50000 .help, anOp 5 (.msend 0 [] none 1) .at, anOp 5 (.launch [] 1) .at], (∃ p, CanFail (has rich (opG o)) 0 5 (opG o baseG) o p) ∧ o.plain = false ∧
      o.time + 7200000 ≤ ({ has rich (opG o) with clock := 7200000 } : State).clock.toNat ∧ CanDie (has rich (opG o)) ((opG o baseG).complete o)) := by
  have hd : ∀ o : Op, (o.flag = none ∧ o.flag2 = none ∧ o.counted = false) → CanDie (has rich (opG o)) ((opG o baseG).complete o) := fun o h =>
    have e := enters_opG o h
    ⟨(by decide : Memory.wf rich.mem = true), e.2.1, e.2.2.1, e.2.2.2.1, by rw [complete_opG o h]; exact (by decide : baseG.slot < rich.ctxs.length), by rw [complete_opG o h]; rfl⟩
  refine ⟨⟨by decide, canEnter_of (rs := []) rfl rfl rfl (by constructor <;> decide) (by decide) rfl rfl rfl rfl rfl, rfl, rfl, by decide, by decide⟩,
    ⟨canFail_of _ rfl rfl, rfl, rfl, rfl, enters_opG _ ⟨rfl, rfl, rfl⟩⟩, fun plain => ?_, ⟨canFail_of _ rfl rfl, rfl, rfl, rfl, by decide, hd _ ⟨rfl, rfl, rfl⟩⟩, fun a ha => ⟨canFail_of _ rfl rfl, rfl, rfl, ?_, enters_opG _ ⟨rfl, rfl, rfl⟩⟩,
    by decide, by decide, fun o ho => ?_⟩
  · cases plain
    · exact ⟨canFail_of _ rfl rfl, rfl, rfl, by decide, enters_opG _ ⟨rfl, rfl, rfl⟩, fun h => by cases h⟩
    · exact ⟨canFail_of _ rfl rfl, rfl, rfl, by decide, enters_opG _ ⟨rfl, rfl, rfl⟩,
        fun _ => ⟨canEnter_of (rs := []) rfl rfl rfl (by constructor <;> decide) (by decide) (by decide) rfl rfl rfl rfl, by decide⟩⟩
  · simp only [List.mem_cons, List.not_mem_nil, or_false] at ha
    rcases ha with rfl | rfl <;> decide
  · simp only [List.mem_cons, List.not_mem_nil, or_false] at ho
    rcases ho with rfl | rfl | rfl <;> exact ⟨canFail_of _ rfl rfl, rfl, by decide, hd _ ⟨rfl, rfl, rfl⟩⟩

/-- A group stopped under a replayable fault, or one of its A-slice. -/
def stoppedG (aorg : Option Nat) (seq : Option Nat) (g : Group) : Group := { vec g with st := .stopped { code := .pageAbsent, addr := 0x80000, aorg := aorg } 0x1000 0 seq }

/-- The same with its record, or an engine command's, in the queue. -/
def queued (r : Replayable) (s : State) : State := { s with ctxs := rich.ctxs.set 0 { rich.ctx 0 with recs := [r] } }

/-- A late load of a stopped group. -/
def lateLoad : Op := { aReplay.op with late := some { code := .pageAbsent, addr := 0x80000 } }

theorem witness_FaultEvents_records :
    (let s := has rich (stoppedG none none)
     Memory.wf s.mem = true ∧ (stoppedG none none baseG).st = .stopped { code := .pageAbsent, addr := 0x80000 } 0x1000 0 none ∧ (s.ctx 0).state = .active ∧ 4 < s.tqFree 0) ∧
    (let c : Cmd := { aCmd (.acp .glob .shared 0x80000 0 16 none) with susp := some (5, 0x80000) }
     let s := engS rich .copy c
     s.anyCmd 9 = some (0, .copy, c) ∧ s.groups.length ≤ 9 ∧ 4 < s.tqFree 0 ∧ (∀ r ∈ (s.ctx 0).recs, r.cmd ≠ some 9) ∧
       (let u := queued ⟨0, none, some 9⟩ s
        0 < u.clusters.length ∧ (u.ctx 0).state = .active ∧ (u.ctx 0).record 0 = some ⟨0, none, some 9⟩ ∧ u.anyCmd 9 = some (0, .copy, c) ∧ u.slotOf 16 0 = some 0) ∧
       let g : Group := { baseG with batches := [⟨1, [9, 8], none⟩] }
       ∀ b ∈ g.batches, 9 ∈ b.left ∧ b.failed = none) ∧
    (∀ aorg ∈ [none, some 2], let s := queued ⟨0, some baseG.gid, none⟩ (has rich (stoppedG aorg (some 0)))
     StoppedUnder s 0 0 0 (stoppedG aorg (some 0) baseG) ⟨0, some baseG.gid, none⟩ { code := .pageAbsent, addr := 0x80000, aorg := aorg } 0x1000 0 ∧
       CanEnter s (stoppedG aorg (some 0) baseG) ∧ CanDie s (stoppedG aorg (some 0) baseG) ∧ (stoppedG aorg (some 0) baseG).pend = none ∧ s.slotOf 16 0 = some 0 ∧
       ∃ p, (stoppedG aorg (some 0) baseG).path 0 = some p) ∧
    (let f := fun g => flying [lateLoad] (stoppedG none (some 0) g)
     StoppedUnder (queued ⟨0, some baseG.gid, none⟩ (has rich f)) 0 0 0 (f baseG) ⟨0, some baseG.gid, none⟩ { code := .pageAbsent, addr := 0x80000 } 0x1000 0) ∧
    (let g : Group := { stoppedG (some 2) (some 0) baseG with ast := .halted { code := .pageAbsent } (some 2) true }
     g.ops.filter (fun o => o.plain && o.late.isSome) = [] ∧ (flying [lateLoad] (stoppedG none (some 0) baseG)).ops.filter (fun o => o.plain && o.late.isSome) = [lateLoad] ∧
       g.ast = .halted { code := .pageAbsent } (some 2) true) ∧
    (endsWith rich { stoppedG none (some 0) baseG with regs := baseG.regs } { code := .pageAbsent, fatal := true } .pageAbsent ∧
      endsWith rich (odd (stoppedG none (some 0) baseG)) { code := .pageAbsent, fatal := true } .illegalTarget) ∧
    (let s : State := { base with ctxs := base.ctxs.set 0 { base.ctx 0 with msixHeld := true, msixAt := 0 }, clock := 3600 }
     (s.ctx 0).msixHeld = true ∧ (s.ctx 0).msixAt + 3600 ≤ s.clock.toNat) := by
  refine ⟨⟨by decide, rfl, rfl, by decide⟩, by decide, fun aorg h => ?_, ⟨rfl, by decide, rfl, by decide, rfl, rfl⟩, by decide,
    ⟨.inl ⟨.inl rfl, rfl⟩, .inr ⟨by decide, by decide, marks_none rfl, rfl⟩⟩, rfl, by decide⟩
  simp only [List.mem_cons, List.not_mem_nil, or_false] at h
  rcases h with rfl | rfl <;>
    exact ⟨⟨rfl, by decide, rfl, by decide, rfl, rfl⟩, canEnter_of (rs := [⟨0, some baseG.gid, none⟩]) rfl rfl rfl (by constructor <;> decide) (by decide) rfl rfl rfl rfl rfl,
      ⟨by decide, by constructor <;> decide, by decide, rfl, by decide, rfl⟩, rfl, by decide, _, rfl⟩
/-! ## The front end -/

/-- A packet of one team at cluster scope 4, with `nd` dependences on the sync page 3, a signal pair there, and `gx` teams. -/
def packet (gx nd sig : Nat) : List Byte :=
  [0x1000, 0, gx + 2 ^ 33, 1 + 4 * 2 ^ 43 + nd * 2 ^ 53, if nd = 0 then 0 else 0x30000, if nd = 2 then 0x30008 else 0, sig, 0].flatMap (bytesOfWord 8)

/-- The page tables of the context map its sync page 3 too. -/
def withSync (s : State) : State := mem1 s 0x16018 (bytesOfWord 8 (leafOf 0x50000 4))

/-- `rich` without groups and teams, whose context may use partition 0, and whose sync page is mapped. -/
def still : State := withSync { rich with groups := [], teams := [], ctxs := rich.ctxs.set 0 { rich.ctx 0 with perm := 1 } }

def okPacket : List Byte := packet 1 0 0

/-- A launch of the packet, in the queue. -/
def inQueue (l : Launch) (s : State) : State := { s with launches := [l], nextAge := l.age + 1 }

def longQueue (s : State) : State := { s with launches := List.replicate 4096 (launchOf 0 0 okPacket), nextAge := 1 }

/-- A task packet without dependences, whose map is given. -/
def taskPacket (map : Nat) : List Byte := [0x1000, 0, 1 + 2 ^ 33, 1 + 4 * 2 ^ 43 + 2 ^ 52, 0, 0, 0, map].flatMap (bytesOfWord 8)

/-- A task's entry in memory: one input and one output slot on the sync page; or a reserved bit. -/
def taskMem (v : Nat) (s : State) : State := mem1 s (0x20000 + 0x800) ([v, 0x30000, 0x30008].flatMap (bytesOfWord 8))

/-- What a task launch of one team reads from it. -/
def entryOf (l : Launch) : List (Nat × List Nat × List Nat) := if l.task then [(0, [0x30000], [0x30008])] else []

/-- Packets that are enqueued, plain, with dependences, and of tasks; refused ones, by their form and by their task's entry; ones that are held for a round, and discarded. -/
theorem witness_LaunchQueue_packets :
    (still.slotOf 16 0 = some 0 ∧ (still.ctx 0).state = .active ∧ 0 < still.ctxs.length ∧ okPacket.length = 64 ∧ still.liveD 0 = false ∧ (still.ctx 0).hostq = [] ∧ still.qdepth 0 < 4096 ∧
      0xF80 % 64 = 0 ∧ 0xF80 + 64 ≤ 0xFC0 ∧ ¬ 0xFC0 + 64 ≤ 0xFC0 ∧ ∀ l ∈ still.launches, l.age < still.nextAge) ∧
    (∀ c ∈ [(1, 0, 0), (1, 1, 0), (3, 2, 0x30010)], let bs := packet c.1 c.2.1 c.2.2
      bs.length = 64 ∧ still.packetOk 0 bs = true ∧ (launchOf 0 still.nextAge bs).total ≠ 0 ∧ (launchOf 0 still.nextAge bs).task = false) ∧
    (let s := taskMem 17 still
     let l := launchOf 0 s.nextAge (taskPacket 0x800)
     s.packetOk 0 (taskPacket 0x800) = true ∧ l.total ≠ 0 ∧ l.task = true ∧ l.deps = [] ∧ goodEntries s l (entryOf l)) ∧
    (∀ c ∈ [(1, 3, 0), (1, 0, 0x30008), (1, 0, 0x90000)], still.packetOk 0 (packet c.1 c.2.1 c.2.2) = false) ∧
    (∀ map ∈ [0, 0x800], let s := taskMem 256 still
     let l := launchOf 0 s.nextAge (taskPacket map)
     s.packetOk 0 (taskPacket map) = true ∧ l.total ≠ 0 ∧ l.task = true ∧ l.deps = [] ∧ (l.map = 0 ∨ s.taskSlots l 0 = .ok none)) ∧
    ((has rich inD).liveD 0 = true ∧ (has rich inD).slotOf 16 0 = some 0 ∧ ((has rich inD).ctx 0).state = .active) := by
  refine ⟨⟨by decide, rfl, by decide, by decide, by decide, rfl, by decide, rfl, by decide, by decide, by decide⟩, by decide,
    ⟨by decide, by decide, rfl, rfl, ⟨by decide, rfl, rfl, by decide, by decide⟩⟩, by decide, by decide, by decide⟩

theorem witness_LaunchQueue_full : 4096 ≤ (longQueue still).qdepth 0 ∧ (∀ l ∈ (longQueue still).launches, l.age < (longQueue still).nextAge) := by
  have h : (longQueue still).launches = List.replicate 4096 (launchOf 0 0 okPacket) := rfl
  constructor
  · unfold State.qdepth
    rw [h, List.filter_replicate, if_pos (by decide), List.length_replicate]
  · rw [h]
    intro l hl
    rw [List.eq_of_mem_replicate hl]
    decide

def launchOp (late : Option FaultInfo) (bs : List Byte) : Op := { anOp 5 (.launch bs 1) .at with late := late }

/-- A LAUNCH on its way: accepted, not accepted for want of room, and refused. -/
theorem witness_LaunchQueue_reply :
    (∀ bs ∈ [okPacket, packet 1 0 0x30008], let s : State := { has rich (opG (launchOp none bs)) with ctxs := still.ctxs }
      s.findOp 0 5 = some (opG (launchOp none bs) baseG, launchOp none bs) ∧ (s.ctx 0).state = .active ∧ Shaped (opG (launchOp none bs) baseG) ∧
        (opG (launchOp none bs) baseG).mayPerform (launchOp none bs) = true ∧
        (∀ l ∈ s.launches, l.age < s.nextAge) ∧ s.qdepth 0 < 4096 ∧ (s.packetOk 0 bs = true ↔ bs = okPacket) ∧ (launchOf 0 s.nextAge bs).total ≠ 0 ∧
        (launchOf 0 s.nextAge bs).task = false) ∧
    (∃ p, CanFail { has rich (opG (launchOp none (packet 1 0 0x30008))) with ctxs := still.ctxs } 0 5 (opG (launchOp none (packet 1 0 0x30008)) baseG) (launchOp none (packet 1 0 0x30008)) p) ∧
    CanEnter (has rich (opG (launchOp none (packet 1 0 0x30008)))) ((opG (launchOp none (packet 1 0 0x30008)) baseG).complete (launchOp none (packet 1 0 0x30008))) := by
  refine ⟨fun bs hb => ?_, ⟨{ id := 0, pc := fetchVa, exec := 0xFFFFFFFF, held := 0xFFFFFFFF }, rfl, by decide, rfl, rfl, by decide⟩, enters_opG _ ⟨rfl, rfl, rfl⟩⟩
  simp only [List.mem_cons, List.not_mem_nil, or_false] at hb
  rcases hb with rfl | rfl <;> exact ⟨by decide, rfl, by constructor <;> decide, by decide, by decide, by decide, by decide, by decide, by decide⟩

/-- A launch with two dependences: at rest, the first word 1 (not satisfied) and both zero. -/
def depL : Launch := launchOf 0 7 (packet 3 2 0x30010)
/-- A task launch of one team with them. -/
def depT : Launch := { launchOf 0 7 (packet 1 2 0x30010) with task := true, map := 0x800 }
def doneL (d : Bool) : Launch := { launchOf 0 7 okPacket with doneDone := d, trigDone := d, sigp := if d then 0 else 0x30010 }

theorem witness_LaunchQueue_signals :
    (∀ l ∈ [depL, depT], ∀ v ∈ [0, 1], let s := inQueue l (mem1 (taskMem 17 still) 0x50000 [v])
     s.launch 7 = some l ∧ l.ready = none ∧ (s.ctx 0).state = .active ∧ l.satisfied = [] ∧ l.total ≠ 0 ∧ l.deps.length = 2 ∧
       (∀ i < l.deps.length, s.translate noCluster 0 (l.deps.getD i 0) { types := [0, 4], r := true } = .ok (0x50000 + 8 * i) ∧ s.poisoned (0x50000 + 8 * i) = false) ∧
       (BitVec.ofNat 64 (s.mem.num 0x50000 8)).toInt = v.toNat) ∧
    (let s := inQueue depT (taskMem 17 still)
     depL.task = false ∧ goodEntries s depT (entryOf depT)) ∧
    (let s := inQueue depL still
     s.canSignal depL true = false ∧ ∀ l ∈ [{ depL with next := 3, ready := some 0 }, { depL with next := 3, ready := some 0, sigp := 0 }], (inQueue l still).launch 7 = some l ∧ (inQueue l still).canSignal l false = true ∧
       (inQueue l still).canSignal { l with trigDone := true } true = true ∧ l.dmode = false) ∧
    (still.translate noCluster 0 0x30010 { types := [0, 4], r := true, w := true, at_ := true } = .ok 0x50010 ∧
      still.translate noCluster 0 0x30018 { types := [0, 4], r := true, w := true, at_ := true } = .ok 0x50018 ∧
      still.poisoned 0x50010 = false ∧ still.poisoned 0x50018 = false ∧ Memory.wf still.mem = true) ∧
    (inQueue (doneL true) still).launch 7 = some (doneL true) ∧ (doneL true).doneDone = true ∧ (doneL true).slot < still.ctxs.length := by
  refine ⟨by decide, ⟨rfl, ⟨by decide, rfl, rfl, by decide, by decide⟩⟩, by decide, by decide, rfl, rfl, by decide⟩

/-- The contexts of `rich`, whose context 0 may use partition 0. -/
def perm1 : List Context := rich.ctxs.set 0 { rich.ctx 0 with perm := 1 }

theorem oneRound_sends (o : Op) (L : List Launch) (hL : ∀ l ∈ L, l.dmode = false) (hl : o.late = none) (hr : ∀ n ∈ vRefs o.dsts, n ∈ baseG.vres) :
    OneRound { has rich (roundG [o] true) with ctxs := perm1, launches := L, nextAge := 1 } 0 0 (roundG [o] true baseG) o := by
  refine ⟨⟨(by decide : Memory.wf rich.mem = true), rfl, fun l h _ hd => ?_, rfl, rfl, rfl, (by decide : (perm1.getD 0 (rich.ctx 0)).pState ≠ .resetting),
    (by decide : ∀ t ∈ rich.teams, t.saving = false ∧ t.leaving = false), (by decide : ∀ p ∈ rich.spindle, p.full = none)⟩,
    ⟨baseG_shaped.v, baseG_shaped.s, baseG_shaped.a, baseG_shaped.p, baseG_shaped.flags, baseG_shaped.q, baseG_shaped.raised, baseG_shaped.sbud⟩,
    rfl, rfl, rfl, rfl, rfl, rfl, rfl, hl, hr, fun j x hj hne => ?_⟩
  · rw [hL l h] at hd
    exact absurd hd (by decide)
  · cases j with
    | zero => exact absurd rfl hne
    | succ j => cases hj

/-- A round that sends a packet, into a queue with room and a full one. -/
theorem witness_IssueAndRounds_launch : ∀ n ∈ [1, 4096],
    let o := anOp 5 (.launch okPacket 5) .at
    let s : State := { has rich (roundG [o] true) with ctxs := perm1, launches := List.replicate n (launchOf 0 0 okPacket), nextAge := 1 }
    OneRound s 0 0 (roundG [o] true baseG) o ∧ (∀ l ∈ s.launches, l.age < s.nextAge) ∧ s.qdepth 0 = n := by
  intro n _
  have hl : ∀ l ∈ List.replicate n (launchOf 0 0 okPacket), l = launchOf 0 0 okPacket := fun l h => List.eq_of_mem_replicate h
  refine ⟨oneRound_sends _ _ (fun l h => by rw [hl l h]; decide) rfl (by decide), fun l h => by rw [hl l h]; exact (by decide : (launchOf 0 0 okPacket).age < 1), ?_⟩
  unfold State.qdepth
  show ((List.replicate n (launchOf 0 0 okPacket)).filter _).length = n
  rw [List.filter_replicate, if_pos (by decide), List.length_replicate]

theorem witness_IssueAndRounds_packet : 0 < perm1.length ∧ ({ rich with ctxs := perm1 } : State).packetOk 0 okPacket = true ∧ (launchOf 0 1 okPacket).total ≠ 0 ∧
    (launchOf 0 1 okPacket).task = false ∧ (launchOf 0 1 okPacket).dmode = false := by decide

/-- A descriptor of one group of 64 registers with a page of shared memory. -/
def aDesc (sh : Nat) : KDesc := { centry := fetchVa, aentry := 0, shbytes := sh, scbytes := 0, roles := [⟨1, 64, 64⟩] }

/-- A ready launch of three teams, checked; as a task launch with its table at 0x800. -/
def readyL (task : Bool) (sh : Nat) : Launch := { launchOf 0 7 (packet 3 0 0) with
  ready := some 0, desc := some (aDesc sh), task := task, map := if task then 0x800 else 0 }

/-- One launch in the queue, cluster 0 in partition 0. -/
def oneQueued (l : Launch) (s : State) : State := { inQueue l s with partmap := s.partmap.set 0 1 }

theorem witness_TeamsAndTasks_dispatch :
    (let s := oneQueued (readyL false 4096) still
     s.launches = [readyL false 4096] ∧ s.isReady (readyL false 4096) = true ∧ (readyL false 4096).desc = some (aDesc 4096) ∧ s.partOf 0 = 0 ∧ (readyL false 4096).part = 0 ∧
       (readyL false 4096).dmode = false ∧ (readyL false 4096).map = 0 ∧
       (s.ctx 0).stopMask.getLsbD 0 = false ∧ s.fits 0 (readyL false 4096) (aDesc 4096) = some ⟨[(0, 0)], 0, []⟩ ∧ ∀ c < 128, c ≠ 0 → s.partOf c = 0 → s.fits c (readyL false 4096) (aDesc 4096) = none) ∧
    ((∀ p, (oneQueued (readyL false 4096) still).restoreFirst none 0 p = false) ∧
      ∀ p, ({ oneQueued (readyL true 4096) still with partmap := still.partmap.set 0 3 } : State).restoreFirst none 0 p = false) ∧
    (let l := { readyL false 0 with prio := 7, map := 0x800 }
     let s : State := { oneQueued l still with clock := 3600000 }
     s.launch 7 = some l ∧ s.isReady l = true ∧ l.ready = some 0 ∧ l.risen < min l.prio ((s.clock.toNat - 0) / 3600000) ∧ l.map ≠ 0 ∧ l.task = false ∧ l.mapSkip = false ∧
       l.lastDisp + 36000 ≤ s.clock.toNat) ∧
    (let l := { launchOf 0 7 (packet 3 0 0) with ready := some 0 }
     let s := oneQueued l still
     s.launches = [l] ∧ s.isReady l = true ∧ l.desc = none ∧ l.dmode = false ∧ s.partOf 0 = l.part ∧ l.part < 8 ∧ l.slot < s.ctxs.length ∧
       ∃ ks, s.rangeKeys noCluster l.slot l.kdesc 64 needR = .ok ks ∧ s.descOf l.slot l.part (wordOfBytes (s.mem.getAll ks)) = none) := by
  refine ⟨by decide, ⟨fun p => rfl, fun p => rfl⟩, by decide, by decide, by decide, rfl, rfl, rfl, by decide, by decide, (List.range 64).map (0x21000 + ·), by decide, by decide⟩

/-- `rich` with a team that a launch may end, whose command the copy engine still runs. -/
def busyS : State :=
  let s := oneQueued { readyL false (2 ^ 20) with noRoom := some 0 } (engS { rich with teams := rich.teams.map fun t => { t with pclass := 1, prio := 1 } } .copy (aCmd (.acp .glob .shared 0x80000 0 16 none)))
  { s with clock := 72000 }

theorem witness_TeamsAndTasks_preemption : let l := { readyL false (2 ^ 20) with noRoom := some 0 }
    busyS.launch 7 = some l ∧ busyS.isReady l = true ∧ 0 ∉ busyS.fePre ∧ l.noRoom = some 0 ∧
    0 + 72000 ≤ busyS.clock.toNat ∧ (∀ c ∈ busyS.partClusters 0, (busyS.ctx 0).stopMask.getLsbD c = false ∧ busyS.fits c l (aDesc (2 ^ 20)) = none) ∧
    (busyS.partClusters 0).findSome? (fun c => busyS.victimsFor c l (aDesc (2 ^ 20))) = some busyS.teams ∧ ∀ t ∈ busyS.teams, busyS.teamQuiet t = false := by
  intro l
  have hp : busyS.partClusters 0 = [0] := by decide
  have hv : busyS.victims 0 l = busyS.teams := by
    unfold State.victims
    exact List.mergeSort_singleton _
  refine ⟨by decide, by decide, by decide, rfl, by decide, by rw [hp]; decide, ?_, by decide⟩
  rw [hp, List.findSome?_singleton]
  unfold State.victimsFor
  rw [hv]
  decide

/-- One task at the head of a cluster's ready list. -/
def readyAt (v : Nat) (l : Launch) (s : State) : State := { oneQueued l s with
  partmap := s.partmap.set 0 3, ctxs := s.ctxs.set 0 { s.ctx 0 with ready := [(v, 7, 0)] } }

/-- Its launch has read the entries of its three teams. -/
def taskL (sh : Nat) : Launch := { readyL true sh with entries := [(0, [0x30000], [0x30008]), (1, [], []), (2, [], [])] }

/-- A class measured, by any operations and bytes; an ended team; a task that is eligible and one that is not; ready tasks that fit, at home and stolen, one that does not fit, and one
that an older launch holds back. -/
theorem witness_TeamsAndTasks_rest :
    (let s : State := { rich with clock := 72000, ctxs := rich.ctxs.set 0 { rich.ctx 0 with meas := [⟨0x1000, 7, 0, 512⟩] } }
     (s.ctx 0).state = .active ∧ (s.ctx 0).meas.find? (·.kdesc == 0x1000) = some ⟨0x1000, 7, 0, 512⟩ ∧ 0 + 72000 ≤ s.clock.toNat ∧ (s.ctx 0).classes.length < 256) ∧
    (let s := inQueue (launchOf 0 0 okPacket) { rich with groups := [] }
     s.team 1 = some (fetchTeam 1) ∧ s.teamEnded (fetchTeam 1) = true ∧ s.launch 0 = some (launchOf 0 0 okPacket) ∧ 0 < s.clusters.length) ∧
    (∀ v ∈ [0, 1], let s := oneQueued (taskL 0) (mem1 still 0x50000 [v])
     s.launch 7 = some (taskL 0) ∧ s.taskPending (taskL 0) 0 = true ∧ (taskL 0).dmode = false ∧ (taskL 0).desc ≠ none ∧ (taskL 0).entries.find? (·.1 == 0) = some (0, [0x30000], [0x30008]) ∧
       s.slotBits 0 [0x30000] = .ok [v == 1] ∧ s.slotBits 0 [0x30008] = .ok [false] ∧ s.partClusters 0 ≠ []) ∧
    (∀ v ∈ [0, 1], ∀ sh ∈ [4096, 2 ^ 20 + 1], let s := readyAt v (taskL sh) still
     s.readyHead v 0 = some (v, 7, 0) ∧ s.launch 7 = some (taskL sh) ∧ s.isReady (taskL sh) = true ∧ (s.ctx 0).stopMask.getLsbD 0 = false ∧ s.partOf 0 = (taskL sh).part ∧
       s.restoreFirst none 0 (taskL sh).eff = false ∧ s.heldBack (taskL sh) = false ∧ (taskL sh).total ≤ 65536 ∧
       (∀ i < (taskL sh).total, i ∉ (taskL sh).dispatched → ∃ e ∈ (taskL sh).entries, e.1 = i) ∧
       (s.fits 0 (taskL sh) (aDesc sh) = if sh = 4096 then some ⟨[(0, 0)], 0, []⟩ else none) ∧
       (v = 1 → s.readyHead 0 0 = none ∧ s.partOf 0 < 8 ∧ (∃ p < 4, s.freeSlots 0 p ≠ []) ∧ s.victim 0 0 = some 1)) ∧
    (let s := readyAt 0 { taskL 4096 with age := 7 } still
     let u : State := { s with clock := 3600000, launches := { readyL false (2 ^ 20) with age := 3, ready := some 0 } :: s.launches }
     u.readyHead 0 0 = some (0, 7, 0) ∧ u.launch 7 = some (taskL 4096) ∧ u.isReady (taskL 4096) = true ∧ u.restoreFirst none 0 (taskL 4096).eff = false ∧ u.heldBack (taskL 4096) = true) := by
  refine ⟨by decide, by decide, by decide, by decide, by decide⟩
/-! ## Contexts and pre-emption -/

/-- A free context with its fields in order, and the same with one field out of order or asking for too much. -/
def freeC : Context := { base.ctx 1 with ptbase := 0x10000, plimit := 1, tqbase := 0x40000, csabase := 0x100000, scratch := 1 }

def slotS (c : Context) (loaded : Bool) : State := { rich with ctxs := rich.ctxs.set 1 c, fw := { rich.fw with loaded := loaded } }

theorem witness_ContextSlots_activation :
    (rich.ctx 0).state ≠ .free ∧ 1 < rich.ctxs.length ∧ (slotS freeC false).slotOf 16 1 = some 1 ∧ (slotS freeC false).fw.loaded = false ∧ ((slotS freeC true).ctx 1).state = .free ∧
    (slotS freeC true).fw.loaded = true ∧
    (∀ c ∈ [{ freeC with plimit := 0 }, { freeC with plimit := 65537 }, { freeC with tqbase := 0x40009 }, { freeC with ptbase := 0x11000 }], c.fieldsOk = false) ∧
    (∀ c ∈ [freeC, { freeC with plimit := 65536, tqbase := 0x40008 }], c.fieldsOk = true ∧ (slotS c true).resources 1 = some [0x100000, 0, 0, 0]) ∧
    ({ freeC with scratch := 64 }.fieldsOk = true ∧ (slotS { freeC with scratch := 64 } true).resources 1 = none) ∧ Memory.wf (slotS freeC true).mem = true := by
  refine ⟨by decide, by decide, by decide, rfl, rfl, rfl, by decide, by decide, by decide, by decide⟩

/-- Virtual functions that show slots, one of them given to two; a closing context without operations, an invalidation that waits and one that does not. -/
theorem witness_ContextSlots_rest :
    (let s : State := { rich with vfslot := (rich.vfslot.set 0 5).set 1 7 }
     s.slotOf 0 1 = some 2 ∧ s.slotOf 1 0 = some 1 ∧ s.slotOf 1 1 = none ∧ s.slotOf 16 63 = some 63 ∧ s.slotOf 16 64 = none) ∧
    ((rich.ctx 0).state = .active ∧ 0 < rich.ctxs.length ∧ rich.slotOf 16 0 = some 0) ∧
    (let s : State := { rich with ctxs := rich.ctxs.set 0 { rich.ctx 0 with state := .closing } }
     (s.teams.map (·.tag)).Nodup ∧ (s.ctx 0).state = .closing ∧ s.outstanding 0 = false ∧ s.invBusy 0 = false ∧ 1 % 2 ^ 16 ≠ 0 ∧ 2 ^ 16 % 2 ^ 16 = 0) ∧
    (let s : State := { has rich (flying [anOp 0 (.load [] 4 false (.v 9) false none) .ld]) with ctxs := rich.ctxs.set 0 { rich.ctx 0 with invTill := 1 } }
     s.invBusy 0 = true) ∧
    ((rich.ctx 1).state = .free ∧ (rich.ctx 0).state ≠ .free) := by decide

/-- `rich` with a command in progress or not, on the team's cluster or another. -/
def pS (done : Bool) (mask : BitVec 128) : State :=
  let s := engS { rich with teams := rich.teams.map fun t => { t with pclass := 1 } } .copy (aCmd (.acp .glob .shared 0x80000 0 16 none))
  { s with ctxs := s.ctxs.set 0 { s.ctx 0 with pDone := done, pmask := mask }, clock := 720000 }

theorem witness_PreemptionCommands :
    (∀ m ∈ [(1 : BitVec 128), 2], (pS true m).slotOf 16 0 = some 0 ∧ (pS true m).frontSaves 0 = false ∧ ((pS true m).ctx 0).pDone = true ∧ ((pS false m).ctx 0).pDone = false ∧
      (pS true m).liveD 0 = false ∧ ∀ x ∈ ((pS true m).ctx 0).saved, x.byFront = true) ∧
    (let s : State := { pS true 1 with teams := (pS true 1).teams.map fun t => { t with saving := true, front := true } }
     (s.ctx 0).pDone = true ∧ s.frontSaves 0 = true) ∧
    (has rich inD).liveD 0 = true ∧ ((has rich inD).ctx 0).pDone = true ∧ (has rich inD).frontSaves 0 = false ∧
    (∃ x ∈ (pS true 1).teams, x.slot = 0 ∧ ((pS true 1).ctx 0).pmask.getLsbD x.cluster = true) ∧
    (∀ x ∈ (pS true 2).teams, x.slot = 0 → ((pS true 2).ctx 0).pmask.getLsbD x.cluster = false) ∧
    (∀ x ∈ (pS true 1).teams, (pS true 1).teamQuiet x = false) ∧ ((pS true 1).teams.map (·.tag)).Nodup ∧
    ((pS false 1).ctx 0).pStart + 3600 * max 1 (((pS false 1).ctx 0).pdead.toNat % 2 ^ 16) ≤ (pS false 1).clock.toNat := by
  refine ⟨fun m hm => ?_, by decide, by decide, by decide, by decide, by decide, by decide, by decide, by decide, by decide⟩
  have h : ∀ b, ((pS b m).ctx 0).pDone = b ∧ ((pS b m).ctx 0).saved = [] := fun b => ⟨rfl, rfl⟩
  refine ⟨by rfl, ?_, (h true).1, (h false).1, ?_, by rw [(h true).2]; simp⟩ <;>
  · simp only [List.mem_cons, List.not_mem_nil, or_false] at hm
    rcases hm with rfl | rfl <;> decide

theorem zeros_word : ∀ n : Nat, wordOfBytes (List.replicate n (0 : Byte)) = 0
  | 0 => rfl
  | n + 1 => by rw [List.replicate_succ, wordOfBytes, zeros_word n]; rfl

/-- A register space at page 4: the keys of its bytes. -/
theorem reg4 {u : State} {g : Group} (h : u.tlbs = (regS id).tlbs) (hc : g.gid.cluster = 0) (hs : g.slot = 0) (hr : g.rbase = 0x40000) {off n : Nat} (hn : off + n ≤ 0x10000) (wr : Bool) :
    u.regKeys g off n wr = .ok ((List.range n).map fun i => 0x60000 + (off + i)) := by
  have ht : ∀ i ∈ List.range n, (match u.translate 0 0 ((0x40000 + off + i) % 2 ^ 64) { types := [3], r := !wr, w := wr } with
      | .ok k => Except.ok k
      | .error c => Except.error (c, (0x40000 + off + i) % 2 ^ 64)) = .ok (0x60000 + (off + i)) := by
    intro i hi
    have hi := List.mem_range.mp hi
    have e1 : (0x40000 + off + i) % 2 ^ 64 = 0x40000 + (off + i) := by omega
    have e2 : (0x40000 + (off + i)) / 2 ^ 16 = 4 := by omega
    have e3 : leafKey (leafOf 0x60000 3) (0x40000 + (off + i)) = 0x60000 + (off + i) := by
      have : esize (leafOf 0x60000 3) = 0x10000 := by decide
      have h2 : eaddr (leafOf 0x60000 3) = 0x60000 := by decide
      have h3 : etype (leafOf 0x60000 3) = 3 := by decide
      unfold leafKey
      rw [this, h2, h3, if_neg (by decide)]
      unfold keyPhys
      omega
    have el : u.leaf 0 0 (0x40000 + (off + i)) = .ok (leafOf 0x60000 3) := by
      unfold State.leaf State.cached tlbFind
      rw [h, e2]
      rfl
    have : u.translate 0 0 (0x40000 + (off + i)) { types := [3], r := !wr, w := wr } = .ok (0x60000 + (off + i)) := by
      unfold State.translate
      rw [el]
      simp only [e3]
      cases wr <;> rfl
    rw [e1, this]
  unfold State.regKeys State.rangeKeys
  rw [hc, hs, hr, show (0x40000 : DWord).toNat = 0x40000 from rfl]
  exact (congrArg (fun x : Except (FCode × Nat) (List Nat) => (match x with
    | .ok ks => .ok ks
    | .error p => .error p.2 : Except Nat (List Nat))) (mapM_ok _ _ _ ht)).trans rfl

/-- A register space of zeros there: what a switch reads. -/
theorem regRead_zero {u : State} {g : Group} (h : u.tlbs = (regS id).tlbs) (hc : g.gid.cluster = 0) (hs : g.slot = 0) (hr : g.rbase = 0x40000)
    (hm : ∀ k < 0x10000, u.mem.get (0x60000 + k) = 0) {off n : Nat} (hn : off + n ≤ 0x10000) : u.regRead g off n = .ok 0 := by
  unfold State.regRead
  rw [reg4 h hc hs hr hn false]
  refine congrArg Except.ok ?_
  have : u.mem.getAll ((List.range n).map fun i => 0x60000 + (off + i)) = List.replicate n 0 := by
    apply List.ext_getElem (by simp [Mem.getAll])
    intro k h1 h2
    simp only [Mem.getAll, List.length_map, List.length_range, List.length_replicate] at h1 h2
    simp only [Mem.getAll, List.getElem_map, List.getElem_range, List.getElem_replicate]
    exact hm _ (by omega)
  exact (congrArg wordOfBytes this).trans (zeros_word n)

theorem get_above : ∀ {m : Mem} {k : Nat}, (∀ p ∈ m, p.1 < k) → m.get k = 0
  | [], _, _ => rfl
  | p :: m, k, h => by
    have h1 := h p (by simp)
    obtain ⟨a, b⟩ := p
    simp only at h1
    show (if k < a then unlisted else if k = a then b else Mem.get m k) = 0
    rw [if_neg (by omega), if_neg (by omega)]
    exact get_above fun q hq => h q (by simp [hq])

/-- A group with a register space at page 4 and a dirty register, whose quiet team a command saves. -/
def spillG (g : Group) : Group := { g with rbase := 0x40000, vdirty := [0] }

def saveT : Team := { fetchTeam 1 with pclass := 1 }

def saveS : State := { regS spillG with teams := [saveT], ctxs := rich.ctxs.set 0 { rich.ctx 0 with csabase := 0x100000000, pmask := 1 } }

theorem witness_PreemptionCommands_save : let g := spillG baseG
    let key := fun (_ : Nat) (o : Nat) => 0x60000 + o
    let area := 0x100000000
    let W := fun (a : Nat) => (area ≤ a ∧ a < area + 0x31000000) ∨ ∃ o < 0x8800, a = key 0 o
    saveS.slotOf 16 0 = some 0 ∧ (saveS.ctx 0).pDone = true ∧ saveS.frontSaves 0 = false ∧ Memory.wf saveS.mem = true ∧ (saveS.ctx 0).state = .active ∧ saveT.slot = 0 ∧ saveT.pclass = 1 ∧
    saveT.dmode = false ∧ (saveS.ctx 0).pmask.getLsbD saveT.cluster = true ∧ saveS.teamQuiet saveT = true ∧ saveT.saving = false ∧ saveT.front = false ∧
    saveS.groups.filter (·.tag == saveT.tag) = [g] ∧ (saveS.ctx 0).csabase.toNat / 2 ^ 16 * 2 ^ 16 % 2 ^ 52 = area ∧ saveT.cluster < 128 ∧
    saveT.shBase + (saveT.shBytes + 4095) / 4096 * 4096 ≤ 2 ^ 20 ∧
    (Shaped g ∧ g.slot = 0 ∧ g.gid.cluster = saveT.cluster ∧ g.gid.part < 4 ∧ g.gid.slot < 16 ∧ g.pend = none ∧ g.filed = [] ∧ g.vbad = [] ∧ (∀ n ∈ g.vdirty, n < 256) ∧ g.paths.length ≤ 9) ∧
    (∀ o < 0x8800, ∀ p < 0x8800, key 0 o = key 0 p → o = p) ∧ (∀ o < 0x8800, ¬ (area ≤ key 0 o ∧ key 0 o < area + 0x31000000)) ∧
    ∀ u : State, u.tlbs = saveS.tlbs → (∀ a, ¬ W a → u.mem.get a = saveS.mem.get a) → ∀ o n, o + n ≤ 0x8800 →
      u.regKeys g o n true = .ok ((List.range n).map fun i => key 0 (o + i)) := by
  refine ⟨by decide, rfl, by decide, by decide, rfl, rfl, rfl, rfl, by decide, by decide, rfl, rfl, by decide, by decide, by decide, by decide,
    ⟨by constructor <;> decide, rfl, rfl, by decide, by decide, rfl, rfl, rfl, by decide, by decide⟩, fun o _ p _ h => by simpa using h, fun o ho => by simp only; omega, fun u hu _ o n hn => reg4 hu rfl rfl rfl (by omega) true⟩

/-- A saved group whose space is at page 4. -/
def savedG : Group := { baseG with rbase := 0x40000 }

/-- The same put back and filled from a space of zeros. -/
def filledG : Group :=
  let g := savedG.putBack 0 []
  let h : Group := { g with
    retired := 0, vwr := [], vres := [], vdirty := [], vbad := []
    regs := { g.regs with slip := slipOf 0, seed := 0, tvec := 0, tcmp := 0, fmtb := 0, p := 0xFFFFFFFF :: List.replicate 63 0, s := List.replicate 64 0, a := List.replicate 64 0 } }
  { h with filed := h.smallLines }

/-- Its team, saved by a command, with a byte of shared memory. -/
def savedT : SavedTeam := { team := fetchTeam 1, groups := [savedG], shared := [(5, 7)], fe := [3], tiles := [], cmds := [], byFront := false, dir := 0, zimg := 0, lbase := 0 }

def restS : State := { regS id with
  groups := [], teams := []
  ctxs := base.ctxs.set 0 { base.ctx 0 with csabase := 0x100000000, saved := [savedT], pState := .restoring, pDone := false, pmask := 1 } }

theorem witness_PreemptionCommands_restore :
    let rec' := (restS.ctx savedT.team.slot).csaCluster savedT.team.cluster
    let lo := keyShared 0 0
    let W := fun (a : Nat) => (lo ≤ a ∧ a < lo + savedT.team.shBytes) ∨ (rec' ≤ a ∧ a < rec' + 0x400000)
    Memory.wf restS.mem = true ∧ savedT.team.slot < restS.ctxs.length ∧ savedT.team.cluster < restS.clusters.length ∧
    (restS.ctxs.findSome? fun c => c.saved.find? fun x => x.team.tag == savedT.team.tag) = some savedT ∧ restS.mayRestore none savedT = true ∧
    restS.restoreFit savedT = some ⟨[], 0, [0, 1]⟩ ∧ (∀ g ∈ savedT.groups, g.pend = none ∧ ∀ o ∈ g.ops, o.plain = false) ∧ savedT.lbase + savedT.latheCmds.length ≤ 32 ∧
    rec' + 0x400000 ≤ 2 ^ 52 ∧
    (∀ u : State, u.tlbs = restS.tlbs → (∀ a, ¬ W a → u.mem.get a = restS.mem.get a) → ∀ (i : Nat) (g : Group), savedT.groups[i]? = some g →
      refills u (g.putBack restS.clock.toNat (restS.ctx savedT.team.slot).posted) filledG) ∧
    (savedT.shared.map (·.1)).Nodup ∧ ∀ p ∈ savedT.shared, p.1 < savedT.team.shBytes := by
  intro rec' lo W
  have hrec : 0x100000000 ≤ rec' := by decide
  refine ⟨by decide, by decide, by decide, by decide, by decide, by decide, by decide, by decide, by decide, fun u hu hm i g hg => ?_, by decide, by decide⟩
  have hg : g = savedG := by
    rcases i with _ | i
    · exact (Option.some.inj hg).symm
    · cases hg
  subst hg
  intro ops fl k
  have hz : ∀ k < 0x10000, u.mem.get (0x60000 + k) = 0 := by
    intro k hk
    rw [hm _ (by simp only [W, lo, keyShared]; omega)]
    have hb : ∀ p ∈ restS.mem, p.1 < 0x60000 := by decide
    exact get_above fun p hp => Nat.lt_of_lt_of_le (hb p hp) (by omega)
  have h (off n : Nat) (hn : off + n ≤ 0x10000) : u.regRead { savedG.putBack restS.clock.toNat (restS.ctx savedT.team.slot).posted with ops := ops, flags := fl, acks := k } off n = .ok 0 :=
    regRead_zero hu rfl rfl rfl hz hn
  unfold State.switchIn
  rw [h 0 0x50 (by decide), h 0x100 256 (by decide), h 0x200 256 (by decide), h 0x300 512 (by decide)]
  rfl
/-! ## The device, and what a step does -/

/-- `rich` whose context lets peers in, with atomics allowed on page 0. -/
def openS : State := mem1 { rich with ctxs := rich.ctxs.set 0 { rich.ctx 0 with perm := 2 ^ 12 } } 0x16000 (bytesOfWord 8 0x2003F)

theorem witness_DeviceEvents :
    (Memory.wf rich.mem = true ∧ Memory.wf openS.mem = true ∧ rangeDram 0x20000 4 = true ∧ rangeDram (12 * 2 ^ 36 - 4) 8 = false ∧ rangeDram (12 * 2 ^ 36 - 4) 4 = true) ∧
    (State.reset.fw.powered = true ∧ State.reset.fw.loaded = false ∧ ({ State.reset with fw := { powered := false } } : State).fw.powered = false) ∧
    ((∃ b, rich.quotes[0]? = some b) ∧ (∃ b, ({ rich with quotes := rich.quotes.set 0 { done := false } } : State).quotes[0]? = some b ∧ b.done = false) ∧ rich.fw.meas.length = 8) ∧
    ((rich.ctx 0).state = .active ∧ (rich.ctx 0).perm.getLsbD 12 = false ∧ (openS.ctx 0).perm.getLsbD 12 = true ∧ openS.peerKeys 0 (2 ^ 56 - 4) 8 needR = none ∧
      openS.peerKeys 0 0x30000 4 needW = none ∧ openS.peerKeys 0 0 4 needR = some [0x20000, 0x20001, 0x20002, 0x20003] ∧ openS.peerKeys 0 0 2 needW = some [0x20000, 0x20001] ∧
      openS.peerKeys 0 8 4 { types := [0, 4], r := true, w := true, at_ := true } = some [0x20008, 0x20009, 0x2000A, 0x2000B] ∧ 8 % 4 = 0 ∧ 9 % 4 ≠ 0 ∧
      openS.peerKeys 0 16 16 { types := [0, 4], r := true, w := true, at_ := true } = some ((List.range 16).map (0x20010 + ·)) ∧ 17 % 16 ≠ 0) ∧
    (openS.slotOf 16 0 = some 0 ∧ openS.slotOf 16 64 = none ∧ openS.slotOf 3 0 = none) ∧
    (∃ q, rich.cxl[0]? = some q) ∧ (2 ≤ rich.errs.length ∧ rich.errs.length = 7) ∧ 3 < 4 ∧ 11 < 12 ∧ 15 < 16 ∧ 4095 < 2 ^ 12 := by
  refine ⟨by decide, by decide, ⟨⟨_, rfl⟩, ⟨_, rfl, rfl⟩, by decide⟩, by decide, by decide, ⟨_, rfl⟩, by decide⟩

/-- A trained port to device 1, and a load from there. -/
def linkS (os : List Op) : State := { has rich (fun g => flying os (vec g)) with tlanto := rich.tlanto.set 0 { st := 2, lanes := 4, dev := 1, count := 0 } }

def peerLoad : Op := anOp 5 (.load [(3, keyPeer 1 2 0)] 4 false (.v 9) false none) .aq

def peerStore : Op := anOp 5 (.store [(3, keyPeer 1 2 0, 7)] 4) .st

/-- A port whose failure ends no access, a load, and a store. -/
theorem witness_DeviceEvents_link : (linkS []).tlanto[0]? = some { st := 2, lanes := 4, dev := 1, count := 0 } ∧ (∀ o cl, ((linkS o).cl cl).link = []) ∧ (linkS []).opsTo 1 = [] ∧
    (∀ o ∈ [peerLoad, peerStore], (linkS [o]).opsTo 1 = [(0, o)] ∧ (∃ x, CanFail (linkS [o]) 0 5 (opG o baseG) o x) ∧ o.plain = false) ∧
    (peerLoad.isStore = false ∧ CanEnter (linkS [peerLoad]) ((opG peerLoad baseG).complete peerLoad)) ∧
    (peerStore.isStore = true ∧ CanDie (linkS [peerStore]) ((opG peerStore baseG).complete peerStore)) := by
  refine ⟨rfl, fun o cl => ?_, by decide, fun o ho => ?_, ⟨rfl, ?_⟩, ⟨rfl, ?_⟩⟩
  · have h : ∀ c ∈ rich.clusters, c.link = [] := by decide
    show (rich.cl cl).link = []
    unfold State.cl
    rw [List.getD_eq_getElem?_getD]
    rcases e : rich.clusters[cl]? with _ | c
    · rfl
    · exact h c (List.mem_of_getElem? e)
  · simp only [List.mem_cons, List.not_mem_nil, or_false] at ho
    rcases ho with rfl | rfl <;>
      exact ⟨by decide, ⟨{ id := 0, pc := fetchVa, exec := 0xFFFFFFFF, held := 0xFFFFFFFF }, rfl, by decide, rfl, rfl, by decide⟩, rfl⟩
  · rw [complete_opG _ ⟨rfl, rfl, rfl⟩]
    exact canEnter_of (rs := []) rfl rfl rfl (by constructor <;> decide) (by decide) rfl rfl rfl rfl rfl
  · rw [complete_opG _ ⟨rfl, rfl, rfl⟩]
    exact ⟨(by decide : Memory.wf rich.mem = true), by constructor <;> decide, by decide, rfl, (by decide : 0 < rich.ctxs.length), rfl⟩
def popEnv : Env := { envOf .nop rich baseG with pops := [(0, List.replicate 32 7), (3, List.replicate 32 9)] }

theorem witness_SourceRead : (((0 : BitVec 2).toNat, List.replicate 32 7) ∈ popEnv.pops ∧ (popEnv.pops.map (·.1)).Nodup) ∧
    (∀ k ∈ ([0, 31, 32, 47] : List (BitVec 6)), k.toNat < 48) ∧ ¬ (48 : BitVec 6).toNat < 48 ∧ (Ty.isFloat .f32 = true ∧ 0 < Ty.count .f32 ∧ Ty.isFloat .f16 = true ∧ 1 < Ty.count .f16) ∧
    (∃ i < 32, popEnv.p.exec.getLsbD i = true) := by
  refine ⟨by decide, by decide, by decide, by decide, ⟨0, by decide, by decide⟩⟩

/-- A state whose next step fetches a word. -/
def fetchS (w : Nat) : State := State.reset.withFetchWord 96 w

/-- Its line. -/
def fetchL (w : Nat) : Line := Line.ofBytes 0x1000 (lineBytes (BitVec.ofNat 96 w))

/-- The line has been entered by path 0. -/
def entered (l : Line) (s : State) : State := { s with groups := s.groups.map fun g => onPath (fun p => { p with line := some l }) g }

def enteredG (l : Line) : Group := onPath (fun p => { p with line := some l }) baseG

theorem chosen_fetch {w : Nat} {g : Group} {s : State} (hs : s = { fetchS w with groups := [g] }) (hc : (fetchS w).cur.sl = .c) (hp : ∃ p, g.path 0 = some p ∧ p.st = .run ∧ p.pc = 0x1000)
    (hl : s.live g = true) (hd : s.timerDue g = false) (hh : g.held = false) (hy : s.yields g ⟨0, .c, 0⟩ = false) : Chosen s g 0x1000 := by
  subst hs
  have hy' : State.yields { fetchS w with groups := [g] } g ⟨(fetchS w).cur.g, (fetchS w).cur.sl, (fetchS w).cur.p⟩ = false := by
    rw [hc]
    exact hy
  exact ⟨rfl, rfl, hl, hd, Or.inl hh, hy', fun _ => hp, fun h => by rw [show State.cur _ = (fetchS w).cur from rfl, hc] at h; cases h⟩

/-- NOP in a line that is entered now, and in one that has been; the A-slice; a reserved opcode; and a pair of IADD. -/
theorem witness_StepRunsDecoded_fetch : Chosen (fetchS 0x618000000000000000000000) baseG 0x1000 ∧ slotOk 0x1000 = true ∧
    ∃ bs, (fetchS 0x618000000000000000000000).lineBytesAt 0 0 (0x1000 / 64 * 64) = .ok bs ∧
      let l := Line.ofBytes (0x1000 / 64 * 64) bs
      let k := 0x1000 % 64 / 12
      l.parityOk bs = true ∧ badLine l .c = false ∧ k = 0 ∧ (∀ f < 12, l.wait f = true → baseG.flags.getD f 0 = 0) ∧ l.pair k = false ∧ decode ((bs.drop (12 * k)).take 12) = .ok .nop := by
  refine ⟨chosen_fetch rfl (by decide) ⟨_, rfl, rfl, rfl⟩ (by decide) (by decide) rfl (by decide), by decide, _, rfl, by decide⟩

theorem witness_StepRunsDecoded_latched :
    (let l := fetchL 0x618000000000000000000000
     let s := entered l (fetchS 0x618000000000000000000000)
     Chosen s (enteredG l) 0x1000 ∧ l.addr = 0x1000 / 64 * 64 ∧ l.pair 0 = false ∧ s.cur.sl = .c ∧ (∃ p, (enteredG l).path 0 = some p ∧ p.line = some l) ∧ decodeWord (l.words.getD 0 0) = .ok .nop) ∧
    (let l := fetchL 0xFFC000000000000000000000
     let s := entered l (fetchS 0xFFC000000000000000000000)
     Chosen s (enteredG l) 0x1000 ∧ l.pair 0 = false ∧ decodeWord (l.words.getD 0 0) = .error .illegalOpcode ∧ s.snap = none) := by
  refine ⟨⟨chosen_fetch rfl (by decide) ⟨_, rfl, rfl, rfl⟩ (by decide) (by decide) rfl (by decide), by decide, by decide, by decide, ⟨_, rfl, rfl⟩, by decide⟩,
    ⟨chosen_fetch rfl (by decide) ⟨_, rfl, rfl, rfl⟩ (by decide) (by decide) rfl (by decide), by decide, by decide, rfl⟩⟩

/-- The A-slice at QSTAT. -/
theorem witness_StepRunsDecoded_slice :
    let w := ((encode (.qstat ⟨0, false⟩ (.s 2))).getD 0).toNat
    (fetchS w).cur.sl = .a ∧ (fetchS w).cur.p = 0 ∧ baseG.ast = .run ∧ baseG.inh = false ∧ baseG.apc = 0x1000 := by decide

def addV (n : BitVec 8) : Instr := .iadd ⟨⟨0, false⟩, .none⟩ .i32 (.v n) (.v 1) (.const 3)

/-- The line of two additions whose first slot is a pair. -/
def pairL : Line := { fetchL 0 with words := [(encode (addV 6)).getD 0, (encode (addV 7)).getD 0, 0, 0, 0], lw := (fetchL 0).lw ||| 0x02000000 }

def retires : Host.Outcome State Fault Refusal → Bool
  | .next t => t.last == .retired
  | _ => false

theorem retires_of {o : Host.Outcome State Fault Refusal} (h : retires o = true) : ∃ t, o = .next t ∧ t.last = .retired := by
  unfold retires at h
  split at h
  · exact ⟨_, rfl, by simpa using h⟩
  · cases h

theorem witness_StepRunsDecoded_pair :
    let s := entered pairL (fetchS 0)
    let g := enteredG pairL
    let a := aimed s pairL 0x1000
    let w := pairL.words.getD 1 0
    Chosen s g 0x1000 ∧ s.cur.sl = .c ∧ pairL.addr = 0x1000 / 64 * 64 ∧ pairL.pair 0 = true ∧ decodeWord (pairL.words.getD 0 0) = .ok (addV 6) ∧ decodeWord w = .ok (addV 7) ∧
      a.pairFault g (pairL.words.getD 0 0) w = none ∧ ∃ t, (exec (addV 6) a = .next t ∧ t.last = .retired) ∧ (∃ u, exec (addV 7) (a.trial g (addV 6) w) = .next u ∧ u.last = .retired) ∧
        ∃ v, exec (addV 7) (t.second g w) = .next v := by
  refine ⟨chosen_fetch rfl (by decide) ⟨_, rfl, rfl, rfl⟩ (by decide) (by decide) rfl (by decide), by decide, by decide, by decide, by decide, by decide, by decide, ?_⟩
  obtain ⟨t, h1, h2⟩ := retires_of (show retires (exec (addV 6) (aimed (entered pairL (fetchS 0)) pairL 0x1000)) = true by decide)
  refine ⟨t, ⟨h1, h2⟩, retires_of (by decide), ?_⟩
  have h3 : (match exec (addV 6) (aimed (entered pairL (fetchS 0)) pairL 0x1000) with
    | .next t => retires (exec (addV 7) (t.second (enteredG pairL) (pairL.words.getD 1 0)))
    | _ => false) = true := by decide
  rw [h1] at h3
  obtain ⟨v, h4, -⟩ := retires_of h3
  exact ⟨v, h4⟩

theorem witness_EncodeDecode : (addV 6).wf = true ∧ (addV 6).isEvent = false ∧ encode (addV 6) = some 0x000001803C30004000000000 ∧
    decodeWord 0x000001803C30004000000000 = .ok (addV 6) := by decide

theorem witness_CanonicalFormIsKept : Memory.wf (fetchS 0x618000000000000000000000).mem = true ∧ tilesWf (fetchS 0x618000000000000000000000) ∧
    ∃ t, step (fetchS 0x618000000000000000000000) = .next t := by
  refine ⟨by decide, ⟨by decide, by decide⟩, ?_⟩
  obtain ⟨t, h, -⟩ := retires_of (show retires (step (fetchS 0x618000000000000000000000)) = true by decide)
  exact ⟨t, h⟩

theorem witness_BytesOfALine : (List.replicate 64 (0 : Byte)).length = 64 ∧ (lineBytes 0).length = 64 := by decide

theorem witness_NopWord : Issues .nop base baseG ∧ (let l := fetchL 0x618000000000000000000001
    let s := entered l (fetchS 0x618000000000000000000001)
    Chosen s (enteredG l) 0x1000 ∧ s.cur.sl = .c ∧ (∃ p, (enteredG l).path 0 = some p ∧ p.line = some l ∧ p.pc = 0x1000) ∧ l.addr = 0x1000 / 64 * 64 ∧ l.pair 0 = false ∧ s.snap = none ∧
      (l.words.getD 0 0).extractLsb' 86 10 = 0x186 ∧ l.words.getD 0 0 ≠ 0x186 <<< 86) := by
  refine ⟨issues_of rfl (by decide), chosen_fetch rfl (by decide) ⟨_, rfl, rfl, rfl⟩ (by decide) (by decide) rfl (by decide), by decide, ⟨_, rfl, rfl, rfl⟩, by decide, by decide, rfl, by decide, by decide⟩
/-! ## The spec's worked examples -/

/-- A V register's lane 0 after an instruction. -/
def laneAfter (i : Instr) (s : State) (n : Nat) : Option Word := match exec i s with
  | .next t => (t.groups[0]?).map fun g => g.vlane n 0
  | _ => none

/-- R140's example: a = 0x0000F000 with pos 12 and len 4, and with len 0 beside bits that are ignored. -/
theorem test_bfx : let s := withG (withS [0xF000, 0x040C, 0x4000C])
    laneAfter (.bfx h0 .i32 (.v 5) (.s 0) (.s 1)) s 5 = some 0xFFFFFFFF ∧ laneAfter (.bfx h0 .n32 (.v 5) (.s 0) (.s 1)) s 5 = some 0xF ∧
      laneAfter (.bfx h0 .i32 (.v 5) (.s 0) (.s 2)) s 5 = some 0 := by decide

/-- R146's example: FFRAC of -2^-30 is capped. -/
theorem test_ffrac : laneAfter (.ffrac h0 (.v 5) (.s 0)) (withG (withS [0xB0800000])) 5 = some 0x3F7FFFFF := by decide

/-- The example of placing a three-role team (R12, R13, R15). -/
theorem test_places : [0x00100802, 0x00201403, 0x00080401].map roleWordOf = [⟨2, 64, 16⟩, ⟨3, 160, 32⟩, ⟨1, 32, 8⟩] ∧
    places 6 0 [[4, 5], [0, 1], [], [7, 8]] = some [(0, 4), (1, 0), (3, 7), (0, 5), (1, 1), (3, 8)] := by decide

/-- R22, R36, R305: from reset, with NOP placed where the next step fetches, a step retires it and moves to the next slot. -/
theorem test_reset_nop : (match step (fetchS 0x618000000000000000000000) with
    | .next t => t.last == .retired && (t.groups[0]?).map (fun g => g.paths.map (·.pc)) == some [0x100C] && (t.groups[0]?).map (·.retired) == some 1
    | _ => false) = true := by decide


/-! ## The gather engine -/

/-- What a command of the group reads in the normal page of `rich` stays as it is while an engine writes elsewhere. -/
theorem read_kept {s u : State} (hs : s.tlbs = rich.tlbs) (hu : u.tlbs = rich.tlbs) (hm : ∀ x, 0x20000 ≤ x → x < 0x30000 → u.mem.get x = s.mem.get x) (k : CmdKind) {a n : Nat}
    (hn : a + n ≤ 2 ^ 16) : u.engRead (aCmd k) a n = s.engRead (aCmd k) a n := by
  unfold State.engRead
  rw [if_neg (by omega), if_neg (by omega)]
  unfold State.readV
  have e : ∀ v : State, v.tlbs = rich.tlbs → v.rangeKeys (aCmd k).gid.cluster (aCmd k).slot a n needR = .ok ((List.range n).map fun i => 0x20000 + (a + i)) :=
    fun v hv => range0 hv hn (by simp)
  rw [e u hu, e s hs]
  refine congrArg Except.ok (congrArg wordOfBytes ?_)
  simp only [Mem.getAll, List.map_map]
  apply List.map_congr_left
  intro i hi
  have hi := List.mem_range.mp hi
  exact hm _ (by simp only; omega) (by simp only; omega)

/-- A sequence at 0x100 of `len` tokens and `cap` blocks, whose table at 0x200 begins with `entry`; its pool of four blocks of 64-byte rows at 0x2000, with counts at 0x300 and a free list of
`free` blocks on the sync page; an empty sequence at 0x180 of the same pool, and a list of one append of `n` tokens at 0x400. -/
def seqS (len cap entry free n : Nat) : State :=
  let seq (t l c : Nat) : List Byte := bytesOfWord 8 t ++ bytesOfWord 8 0x140 ++ bytesOfWord 4 l ++ bytesOfWord 4 c ++ bytesOfWord 8 0
  let pool : List Byte := bytesOfWord 8 0x2000 ++ bytesOfWord 8 0x30000 ++ bytesOfWord 8 0x300 ++ bytesOfWord 4 4
  let list : List Byte := bytesOfWord 4 0x42 ++ bytesOfWord 4 0 ++ bytesOfWord 4 0 ++ bytesOfWord 4 1 ++ bytesOfWord 8 0x500 ++ bytesOfWord 8 0 ++ bytesOfWord 8 free
  let m := [(0x20100, seq 0x200 len cap), (0x20140, pool), (0x20180, seq 0x280 0 1), (0x20200, bytesOfWord 4 entry), (0x20400, bytesOfWord 8 0x100 ++ bytesOfWord 4 n),
    (0x20500, bytesOfWord 4 3), (0x50000, list)]
  { m.foldl (fun s p => mem1 s p.1 p.2) rich with partmap := rich.partmap.set 0 1 }

/-- The pool of these sequences. -/
def kvD (len cap : Nat) : KvDesc := { table := 0x200, len := len, cap := cap, pool := 0x2000, freel := 0x30000, refc := 0x300, nblk := 4, rb := 64 }

/-- The command stands in its engine's queue. -/
theorem gathering (k : CmdKind) (s : State) (hw : Memory.wf s.mem = true) (hc : (engS s .gather (aCmd k)).cmdReady (aCmd k) = true) (hn : 0 < s.clusters.length) :
    Gathering (engS s .gather (aCmd k)) 0 (aCmd k) k := by
  have e : ((engS s .gather (aCmd k)).cl 0).gather = [aCmd k] := by
    unfold engS State.cl
    simp only [List.getD_eq_getElem?_getD]
    rw [List.getElem?_set_self hn]
    rfl
  refine ⟨hw, ?_, ?_, hc, rfl, ⟨rfl, rfl, rfl⟩, rfl⟩
  · show 0 < (s.clusters.set 0 _).length
    rw [List.length_set]
    exact hn
  · rw [e]
    simp

/-- Descriptors in order and not, rows of a block, and free lists: one of another kind, one whose requester it does not admit, an empty one and one of two blocks. -/
theorem witness_GatherEngineWork_parts :
    (∀ w ∈ [2 ^ 224 * 0x43, 2 ^ 224 * 0x44, 2 ^ 224 * 0x50], let v := 2 ^ 64 * 0x140
     let rd : Nat → Nat → Except (FCode × Nat) Nat := fun a _ => .ok (if a = 0 then v else w)
     v < 2 ^ 256 ∧ w < 2 ^ 512 ∧ rd 0 32 = .ok v ∧ rd (v / 2 ^ 64 % 2 ^ 64) 64 = .ok w ∧
       ((v / 2 ^ 192 = 0 ∧ w / 2 ^ 256 = 0 ∧ w / 2 ^ 224 % 2 ^ 32 % 16 < 4 ∧ w / 2 ^ 224 % 2 ^ 32 / 16 < 5) ↔ w = 2 ^ 224 * 0x43)) ∧
    (15 < 16 ∧ 0 < (kvD 0 1).rb ∧ (kvD 0 1).pool + 3 * 32 * (kvD 0 1).rb + 32 * (kvD 0 1).rb ≤ 2 ^ 64) ∧
    (∀ n ∈ [0, 2], let s := seqS 0 1 0 n 1
     let a := (aCmd (.lzero 0)).asker
     Memory.wf s.mem = true ∧ s.mem.num 0x50000 4 % 16 = 2 ∧ s.objCheck a 0x50000 0x30000 = .ok () ∧
       let t := s.applyAll (s.mem.num (0x50000 + 8) 4) 0x50000 0x30000
       t.mem.num (0x50000 + 16 + 8 * 2) 8 = n ∧
         ∀ i < n, sideAt t (t.mem.num (0x50000 + 48) 4 / 2 ^ 7 % 2 ^ 6) (0x20000 + ·) ((t.mem.num (0x50000 + 16 + 8 * 0) 8 + 4 * (n - 1 - i)) % 2 ^ 64) 4 needR) ∧
    (Memory.wf objS.mem = true ∧ objS.mem.num 0x50000 4 % 16 ≠ 2) ∧
    (∃ f, (seqS 0 1 0 0 1).objCheck ⟨⟨5, 0, 0⟩, 0, 1, 3⟩ 0x50000 0x3FFF0 = .error f) := by
  refine ⟨by decide, by decide, fun n hn => ?_, by decide, error_of (by decide)⟩
  simp only [List.mem_cons, List.not_mem_nil, or_false] at hn
  rcases hn with rfl | rfl
  · exact ⟨by decide, by decide, by decide, by decide, fun i hi => absurd hi (by omega)⟩
  · exact ⟨by decide, by decide, by decide, by decide, by unfold sideAt; decide⟩

theorem desc_kept {s u : State} (hs : s.tlbs = rich.tlbs) (hu : u.tlbs = rich.tlbs) (hm : ∀ x, 0x20000 ≤ x → x < 0x30000 → u.mem.get x = s.mem.get x) (k : CmdKind) {v : Nat}
    (h1 : s.engRead (aCmd k) 0x100 32 = .ok v) (h2 : ebits v 127 64 = 0x140) {d : KvDesc} (hd : kvDesc (s.engRead (aCmd k)) 0x100 = .ok d) : kvDesc (u.engRead (aCmd k)) 0x100 = .ok d := by
  rw [← hd]
  unfold kvDesc
  rw [read_kept hs hu hm k (by omega), h1]
  simp only [h2]
  rw [read_kept hs hu hm k (by omega)]

/-- The command of one row from position 0 to shared offset 0. -/
def gat : CmdKind := .kvgather .k false 0x100 0 1 0

/-- The sequence of one token, whose first block may be missing, and that command. -/
def gatS (cap entry : Nat) : State := engS (seqS 1 cap entry 0 1) .gather (aCmd gat)

theorem gatS_kept (cap entry n : Nat) {u : State} (_ : n ≤ 64) (hu : Undisturbed (gatS cap entry) u (fun x => ∃ o < n, x = keyShared 0 0 + o)) :
    ∀ x, 0x20000 ≤ x → x < 0x30000 → u.mem.get x = (gatS cap entry).mem.get x := by
  intro x h1 h2
  apply hu.mem
  rintro ⟨o, ho, rfl⟩
  unfold keyShared at h2
  omega

theorem gatS_gathering : ∀ c ∈ [(1, 0), (0, 0), (1, 0xFFFFFFFF), (1, 4)], Gathering (gatS c.1 c.2) 0 (aCmd gat) gat := fun c hc =>
  gathering gat (seqS 1 c.1 c.2 0 1) (by revert c; decide) (by revert c; decide) (by decide : 0 < rich.clusters.length)

theorem gatS_desc : ∀ c ∈ [(1, 0), (0, 0), (1, 0xFFFFFFFF), (1, 4)], (gatS c.1 c.2).engRead (aCmd gat) 0x100 32 = .ok (0x200 + 2 ^ 64 * 0x140 + 2 ^ 128 + 2 ^ 160 * c.1) ∧
    ebits (0x200 + 2 ^ 64 * 0x140 + 2 ^ 128 + 2 ^ 160 * c.1) 127 64 = 0x140 ∧ kvDesc ((gatS c.1 c.2).engRead (aCmd gat)) 0x100 = .ok (kvD 1 c.1) ∧
    (gatS c.1 c.2).engRead (aCmd gat) 0x200 4 = .ok c.2 := by decide

/-- A row to copy. -/
theorem witness_GatherEngineWork_row : Rows (gatS 1 0) (aCmd gat) .k .shared 0x100 0 1 0 (kvD 1 1) (fun _ => 0) (0x22000 + ·) (keyShared 0 0 + ·) 1 ∧
    distinct (keyShared 0 0 + ·) (1 * 64) := by
  have hd := gatS_desc (1, 0) (by decide)
  refine ⟨⟨by decide, fun u hu => ?_, fun u hu j hj => ?_, fun o ho p hp => ?_⟩, linear _ _⟩
  · exact desc_kept (s := gatS 1 0) rfl hu.tlbs (gatS_kept 1 0 _ (by decide) hu) gat hd.1 hd.2.1 hd.2.2.1
  · obtain rfl : j = 0 := by omega
    refine ⟨by decide, by decide, by decide, by decide, ?_, ?_, ?_⟩
    · exact (read_kept (s := gatS 1 0) rfl hu.tlbs (gatS_kept 1 0 _ (by decide) hu) gat (a := 0x200) (n := 4) (by decide)).trans hd.2.2.2
    · have h := range0 (u := u) hu.tlbs (a := 0x2000) (m := 64) (by omega) (n := needR) (by simp)
      refine h.trans (congrArg Except.ok (congrArg (List.map · (List.range 64)) (funext fun i => ?_)))
      show 0x20000 + (0x2000 + i) = 0x22000 + (0 * 64 + i)
      omega
    · exact shared0 (u := u) hu.teams gat (a := 0) (m := 64) (by omega) true
  · have : (kvD 1 1).rb = 64 := rfl
    rw [this] at ho hp
    simp only [keyShared]
    omega

/-- A first row whose position lies past the end, has no block, and has one that the pool does not have. -/
theorem witness_GatherEngineWork_noRow : ∀ c ∈ [(0, 0), (1, 0xFFFFFFFF), (1, 4)],
    Rows (gatS c.1 c.2) (aCmd gat) .k .shared 0x100 0 1 0 (kvD 1 c.1) (fun _ => c.2) (0x22000 + ·) (keyShared 0 0 + ·) 0 ∧ distinct (keyShared 0 0 + ·) (0 * 64) ∧
      ∀ u, Undisturbed (gatS c.1 c.2) u (fun x => ∃ o < 0 * 64, x = keyShared 0 0 + o) → u.engRead (aCmd gat) (0x200 + 4 * 0) 4 = .ok c.2 := by
  intro c hc
  have h : ((gatS c.1 c.2).cl 0).kvtb = [] := by revert c; decide
  have hd := gatS_desc c (by revert c; decide)
  refine ⟨⟨fun x hx => ?_, fun u hu => ?_, fun u hu j hj => absurd hj (by omega), fun o ho => absurd ho (by omega)⟩, linear _ _, fun u hu => ?_⟩
  · exact absurd (h ▸ hx) (List.not_mem_nil)
  · exact desc_kept (s := gatS c.1 c.2) rfl hu.tlbs (gatS_kept c.1 c.2 _ (by omega) hu) gat hd.1 hd.2.1 hd.2.2.1
  · exact (read_kept (s := gatS c.1 c.2) rfl hu.tlbs (gatS_kept c.1 c.2 _ (by decide) hu) gat (a := 0x200) (n := 4) (by decide)).trans hd.2.2.2

/-- Appends of a list at an address. -/
def app (list m : Nat) : CmdKind := .kvappend 5 6 list m

/-- Appends that end without a fault: none, one within a block, and one that takes a block; for each reason a stop; a list on a page of another type, and an absent one. -/
theorem witness_GatherEngineWork_append :
    (∀ c ∈ [(seqS 1 1 0 0 1, 0), (seqS 1 1 0 0 1, 1), (seqS 0 1 0 1 1, 1)], let s := engS c.1 .gather (aCmd (app 0x400 c.2))
     Gathering s 0 (aCmd (app 0x400 c.2)) (app 0x400 c.2) ∧ ∀ i < c.2, (appendOne (appended s (aCmd (app 0x400 c.2)) 0x400 i) (aCmd (app 0x400 c.2)) (0x400 + 16 * i)).2 = .done) ∧
    (∀ c ∈ [(seqS 0 1 0 0 1, 1), (seqS 1 1 0 0 16, 2), (seqS 1 1 0 0 1025, 3)], let s := engS c.1 .gather (aCmd (app 0x400 1))
     Gathering s 0 (aCmd (app 0x400 1)) (app 0x400 1) ∧ (appendOne s (aCmd (app 0x400 1)) 0x400).2 = .stops c.2 0) ∧
    (∀ c ∈ [(0x20000, FCode.spaceMismatch), (0x80000, .pageAbsent)], let s := engS (seqS 1 1 0 0 1) .gather (aCmd (app c.1 1))
     Gathering s 0 (aCmd (app c.1 1)) (app c.1 1) ∧ (appendOne s (aCmd (app c.1 1)) c.1).2 = .faults (c.2, c.1) 0 ∧ c.2.cls ≠ .freeze ∧ (c.2 = .pageAbsent ↔ c.1 = 0x80000)) := by
  refine ⟨fun c hc => ?_, fun c hc => ?_, fun c hc => ?_⟩
  · refine ⟨gathering _ c.1 ?_ ?_ ?_, ?_⟩ <;> revert c <;> decide
  · refine ⟨gathering _ c.1 ?_ ?_ ?_, ?_⟩ <;> revert c <;> decide
  · refine ⟨gathering _ (seqS 1 1 0 0 1) ?_ ?_ ?_, ?_⟩ <;> revert c <;> decide

/-- A share of `m` tokens from the sequence at 0x100 to one at `da`. -/
def shr (da m : Nat) : CmdKind := .kvshare 5 6 0x100 da m

/-- `s` with bytes more. -/
def more (s : State) (at_ v : Nat) : State := mem1 s (0x20000 + at_) (bytesOfWord 4 v)

/-- A page of the context that can only be read, with an empty sequence at its start. -/
def readOnlyS (s : State) : State := { mem1 s 0x70000 (bytesOfWord 8 0x280 ++ bytesOfWord 8 0x140 ++ bytesOfWord 4 0 ++ bytesOfWord 4 1) with
  tlbs := { s.tlbs with l1 := ((s.tlbs.l1.getD 0 []) ++ [⟨0, 5, 0x70000 + 0x37⟩]) :: List.replicate 127 [] } }

/-- Shares that are checked: into a sequence that is not empty, of more tokens than there are, of none, of a full block, and of one token; stops, a full count and no free block; a
free list of another kind; and a destination that cannot be written. -/
theorem witness_GatherEngineWork_share :
    (∀ c ∈ [(more (seqS 1 1 0 0 1) 0x190 1, 1, false), (seqS 1 1 0 0 1, 2, true)], let s := engS c.1 .gather (aCmd (shr 0x180 c.2.1))
     Gathering s 0 (aCmd (shr 0x180 c.2.1)) (shr 0x180 c.2.1) ∧ kvDesc (s.engRead (aCmd (shr 0x180 c.2.1))) 0x100 = .ok (kvD 1 1) ∧
       kvDesc (s.engRead (aCmd (shr 0x180 c.2.1))) 0x180 = .ok { kvD (if c.2.2 then 0 else 1) 1 with table := 0x280 }) ∧
    (∀ c ∈ [(1, seqS 1 1 0 0 1, 0, Part.done), (16, seqS 16 1 0 0 1, 16, .done), (1, seqS 1 1 0 1 1, 1, .done), (16, more (seqS 16 1 0 0 1) 0x300 0xFFFFFFFF, 16, .stops 5 0),
        (1, seqS 1 1 0 0 1, 1, .stops 1 0), (1, mem1 (seqS 1 1 0 0 1) 0x50000 [0x40], 1, .faults (.objKind, 0x30000) 0)], let k := shr 0x180 c.2.2.1
     let s := engS c.2.1 .gather (aCmd k)
     Gathering s 0 (aCmd k) k ∧ kvDesc (s.engRead (aCmd k)) 0x100 = .ok (kvD c.1 1) ∧ kvDesc (s.engRead (aCmd k)) 0x180 = .ok { kvD 0 1 with table := 0x280 } ∧
       (shareAll s (aCmd k) (kvD c.1 1) { kvD 0 1 with table := 0x280 } c.2.2.1).2 = c.2.2.2 ∧
       ((shareAll s (aCmd k) (kvD c.1 1) { kvD 0 1 with table := 0x280 } c.2.2.1).1.engWrite (aCmd k) (0x180 + 16) 4 0).isOk = true) ∧
    (∀ c ∈ [(seqS 16 1 0 0 1, Part.done), (more (seqS 16 1 0 0 1) 0x300 0xFFFFFFFF, .stops 5 0)], let k := shr 0x50000 16
     let s := engS (readOnlyS c.1) .gather (aCmd k)
     let r := shareAll s (aCmd k) (kvD 16 1) { kvD 0 1 with table := 0x280 } 16
     Gathering s 0 (aCmd k) k ∧ kvDesc (s.engRead (aCmd k)) 0x50000 = .ok { kvD 0 1 with table := 0x280 } ∧ r.2 = c.2 ∧
       r.1.engWrite (aCmd k) (0x50000 + 16) 4 16 = .error (.permission, 0x50010)) := by
  refine ⟨fun c hc => ?_, fun c hc => ?_, fun c hc => ?_⟩
  · refine ⟨gathering _ c.1 ?_ ?_ ?_, ?_⟩ <;> revert c <;> decide
  · refine ⟨gathering _ c.2.1 ?_ ?_ ?_, ?_⟩ <;> revert c <;> decide
  · refine ⟨gathering _ (readOnlyS c.1) ?_ ?_ ?_, ?_⟩ <;> revert c <;> decide

end Sys2Proof.Tests
end

section
/-! # Every step keeps the canonical form of memory and of the accumulator tiles (O59)

Memory and tiles change in few places: `Memory.setAll` and `Memory.setBytes` under `State.write`, an image of a record, `State.setTile`,
and the loss of what is not kept. Each function of the model that gives a state keeps `State.Canonical`, in the order of the model's
files; a result that may be none is spoken of through `OkHolds`, `SomeHolds` and `NextHolds`. -/

namespace Sys2Proof.Machine
open Sys2Proof.Claims

/-! ### Canonical states, and what holds of a result if there is one -/

/-- The canonical form of memory and of the accumulator tiles (log 2). -/
structure State.Canonical (s : State) : Prop where
  mem : Memory.wf s.mem = true
  tiles : tilesWf s

/-- A change of other fields than memory and tiles keeps the canonical form. -/
theorem State.Canonical.update {s : State} (h : s.Canonical)
    {agenda cur snap last free nextId clock fe groups teams launches ctxs clusters tlbs spindle poison mailers objPart nextAge nextTag devnum
      partmap vfslot fw quotes rsDone rsStat rsAddr snapshots errs lastBad tlanto cxl hostData fePre} :
    State.Canonical ⟨agenda, cur, snap, last, free, nextId, clock, s.mem, fe, s.tiles, groups, teams, launches, ctxs, clusters, tlbs, spindle, poison,
      mailers, objPart, nextAge, nextTag, devnum, partmap, vfslot, fw, quotes, rsDone, rsStat, rsAddr, snapshots, errs, lastBad, tlanto, cxl,
      hostData, fePre⟩ :=
  ⟨h.mem, h.tiles⟩

theorem tilesWf_filter {s : State} (h : tilesWf s) (f : Nat × Word → Bool) :
    ((s.tiles.filter f).map (·.1)).Pairwise (· < ·) ∧ ∀ p ∈ s.tiles.filter f, p.2 ≠ 0 :=
  ⟨List.pairwise_map.2 ((List.pairwise_map.1 h.1).filter f), fun p hp => h.2 p (List.mem_filter.1 hp).1⟩

/-- A change of other fields than memory, and fewer tile entries, keep the canonical form. -/
theorem State.Canonical.dropTiles {s : State} (h : s.Canonical)
    {agenda cur snap last free nextId clock fe groups teams launches ctxs clusters tlbs spindle poison mailers objPart nextAge nextTag devnum
      partmap vfslot fw quotes rsDone rsStat rsAddr snapshots errs lastBad tlanto cxl hostData fePre} {f : Nat × Word → Bool} :
    State.Canonical ⟨agenda, cur, snap, last, free, nextId, clock, s.mem, fe, s.tiles.filter f, groups, teams, launches, ctxs, clusters, tlbs, spindle, poison,
      mailers, objPart, nextAge, nextTag, devnum, partmap, vfslot, fw, quotes, rsDone, rsStat, rsAddr, snapshots, errs, lastBad, tlanto, cxl,
      hostData, fePre⟩ :=
  ⟨h.mem, tilesWf_filter h.tiles f⟩

/-- What holds of a value, if one is given. -/
def OkHolds {ε α : Type} (P : α → Prop) : Except ε α → Prop
  | .ok a => P a
  | .error _ => True

/-- What holds of a value, if there is one. -/
def SomeHolds {α : Type} (P : α → Prop) : Option α → Prop
  | some a => P a
  | none => True

/-- What holds of the next state, if there is one. -/
def NextHolds (P : State → Prop) : Host.Outcome State Fault Refusal → Prop
  | .next t => P t
  | _ => True

theorem OkHolds.of {ε α : Type} {P : α → Prop} {x : Except ε α} {a : α} (h : OkHolds P x) (e : x = .ok a) : P a := by
  rw [e] at h; exact h

theorem SomeHolds.of {α : Type} {P : α → Prop} {x : Option α} {a : α} (h : SomeHolds P x) (e : x = some a) : P a := by
  rw [e] at h; exact h

theorem NextHolds.of {P : State → Prop} {x : Host.Outcome State Fault Refusal} {t : State} (h : NextHolds P x) (e : x = .next t) : P t := by
  rw [e] at h; exact h

theorem State.Canonical.ofFst {α : Type} {x : State × α} {s : State} {a : α} (h : x.1.Canonical) (e : x = (s, a)) : s.Canonical := by
  rw [e] at h; exact h

theorem State.Canonical.ofSnd {α : Type} {x : α × State} {s : State} {a : α} (h : x.2.Canonical) (e : x = (a, s)) : s.Canonical := by
  rw [e] at h; exact h

theorem State.Canonical.ite {p : Prop} [Decidable p] {s t : State} (hs : s.Canonical) (ht : t.Canonical) : (if p then s else t).Canonical := by
  split
  · exact hs
  · exact ht

theorem OkHolds.foldl {ε α β : Type} {P : α → Prop} {f : Except ε α → β → Except ε α} {a : Except ε α} {l : List β} (h : OkHolds P a)
    (hf : ∀ x b, OkHolds P x → OkHolds P (f x b)) : OkHolds P (l.foldl f a) := by
  induction l generalizing a with
  | nil => exact h
  | cons b l ih => exact ih (hf a b h)

theorem SomeHolds.getD {α : Type} {P : α → Prop} {o : Option α} {a : α} (ho : SomeHolds P o) (ha : P a) : P (o.getD a) := by
  cases o with
  | none => exact ha
  | some _ => exact ho

theorem SomeHolds.findSome {α β : Type} {P : β → Prop} {f : α → Option β} {l : List α} (h : ∀ x, SomeHolds P (f x)) :
    SomeHolds P (l.findSome? f) := by
  cases e : l.findSome? f with
  | none => trivial
  | some b =>
    obtain ⟨x, _, hx⟩ := List.exists_of_findSome?_eq_some e
    exact (h x).of hx

theorem SomeHolds.map {α β : Type} {P : β → Prop} {f : α → β} {o : Option α} (h : ∀ x, P (f x)) : SomeHolds P (o.map f) := by
  cases o with
  | none => trivial
  | some x => exact h x

section
variable {s : State}

/-! ### The state's operations, faults and traps, control, loads and stores, queues -/

theorem State.Canonical.write (h : s.Canonical) : (s.write kvs).Canonical := ⟨State.wf_write s kvs h.mem, h.tiles⟩

theorem State.Canonical.foldl {α : Type} {f : State → α → State} {l : List α} (h : s.Canonical) (hf : ∀ t x, t.Canonical → (f t x).Canonical) :
    (l.foldl f s).Canonical := by
  induction l generalizing s with
  | nil => exact h
  | cons x l ih => exact ih (hf s x h)

theorem State.Canonical.setCtx (h : s.Canonical) : (s.setCtx k c).Canonical := h.update

theorem State.Canonical.setCl (h : s.Canonical) : (s.setCl k c).Canonical := h.update

theorem State.Canonical.setG (h : s.Canonical) : (s.setG i g).Canonical := h.update

theorem State.Canonical.mapG (h : s.Canonical) : (s.mapG i f).Canonical := h.update

theorem State.Canonical.report (h : s.Canonical) : (s.report l).Canonical := h.update

theorem State.Canonical.addFlops (h : s.Canonical) : (s.addFlops slot lage n).Canonical := h.setCtx

theorem State.Canonical.mapL (h : s.Canonical) : (s.mapL age f).Canonical := h.update

theorem State.Canonical.writeNum (h : s.Canonical) : (s.writeNum k n v).Canonical := h.write

theorem State.Canonical.writeBytes (h : s.Canonical) : (s.writeBytes k bs).Canonical := h.write

theorem State.Canonical.noteTlb (h : s.Canonical) : (s.noteTlb cn slot va).Canonical := by
  unfold State.noteTlb
  split
  · exact h.update
  · exact h

theorem State.Canonical.noteTlbs (h : s.Canonical) : (s.noteTlbs cn slot vas).Canonical := h.foldl (fun _ _ h => h.noteTlb)

theorem State.Canonical.writeV (h : s.Canonical) : OkHolds State.Canonical (s.writeV cn slot va n v) := by
  unfold State.writeV
  split
  · exact h.write
  · trivial

theorem State.Canonical.noteWin (h : s.Canonical) : (s.noteWin slot va).Canonical := by
  unfold State.noteWin
  extract_lets
  split
  · exact h
  · exact h.setCtx

theorem State.Canonical.noteAcc (h : s.Canonical) : (s.noteAcc g sp acc).Canonical := by
  unfold State.noteAcc
  split
  · exact h.foldl (fun _ _ h => h.noteWin)
  · exact h.noteTlbs

theorem State.Canonical.raiseMsix (h : s.Canonical) : (s.raiseMsix slot).Canonical := by
  unfold State.raiseMsix
  extract_lets
  split <;> exact h.setCtx

theorem State.Canonical.writeRec (h : s.Canonical) : (s.writeRec slot r).2.Canonical := h.write.writeNum.raiseMsix

theorem State.Canonical.post (h : s.Canonical) : (s.post slot r).Canonical := by
  unfold State.post
  split
  · exact h.writeRec
  · exact h.writeNum

theorem State.Canonical.freeze (h : s.Canonical) : (s.freeze slot code master who addr pc).Canonical := by
  unfold State.freeze
  extract_lets
  split
  · exact h.setCtx.raiseMsix
  · exact h.setCtx
  · exact h.setCtx

theorem State.Canonical.postReplayable (h : s.Canonical) : (s.postReplayable gi).Canonical := by
  unfold State.postReplayable
  split
  · split
    · extract_lets
      split
      · exact h.write.writeNum.raiseMsix.setCtx.setG
      · exact h
    · exact h
  · exact h

theorem State.Canonical.stopReplayable (h : s.Canonical) : (s.stopReplayable gi f pc pid).Canonical := h.mapG.postReplayable

theorem State.Canonical.writeFrame (h : s.Canonical) : (s.writeFrame g f save ents ps).Canonical := h.writeBytes.writeBytes.writeBytes

theorem State.Canonical.syncHstate (h : s.Canonical) : (s.syncHstate gi n).Canonical := by
  unfold State.syncHstate
  split
  · split
    · exact h.writeNum
    · exact h
  · exact h

theorem State.Canonical.deliver (h : s.Canonical) : (s.deliver gi f fpc).Canonical := by
  unfold State.deliver
  split
  · exact h
  · extract_lets
    split
    · exact h.setG.syncHstate
    · exact h.post.freeze.mapG

theorem State.Canonical.takeTrap (h : s.Canonical) : (s.takeTrap gi).Canonical := by
  unfold State.takeTrap
  split
  · exact h
  · split
    · split
      · exact h
      · exact h.setG.writeFrame.deliver
    · exact h

theorem State.Canonical.raise (h : s.Canonical) : (s.raise gi f fpc cpc pid).Canonical := by
  unfold State.raise
  split
  · exact h
  · split
    · exact h.stopReplayable
    · exact h.freeze.mapG
    · exact h.setG.takeTrap

theorem State.Canonical.inject (h : s.Canonical) : (s.inject gi o).Canonical := by
  unfold State.inject
  split
  · exact h
  · extract_lets
    split
    · exact h.update.noteAcc.mapG
    · exact h.update.mapG

theorem State.Canonical.reinjectAll (h : s.Canonical) : (s.reinjectAll gi n rq).Canonical := h.foldl (fun _ _ h => h.inject.ite h)

theorem State.Canonical.trapReturn (h : s.Canonical) : (s.trapReturn gi).Canonical := by
  unfold State.trapReturn
  split
  · exact h
  · split
    · exact h
    · exact h.setG.reinjectAll.syncHstate

theorem State.Canonical.takeTimer (h : s.Canonical) : (s.takeTimer gi).Canonical := by
  unfold State.takeTimer
  split
  · exact h
  · split
    · exact h.setG.syncHstate
    · split
      · exact h
      · exact h.setG.raise

theorem State.Canonical.stop (h : s.Canonical) : (s.stop st q).Canonical := by
  unfold State.stop
  extract_lets base gi
  have hb : base.Canonical := by
    unfold base
    split
    · exact State.Canonical.update h.setG
    · exact h
  split
  · exact hb.report
  · exact hb.mapG.report
  · exact hb.mapG.report
  · exact hb.mapG.report
  · exact hb.mapG.report
  · split
    · exact hb.mapG.report
    · exact hb.raise.report

theorem State.Canonical.nopBody (h : s.Canonical) : OkHolds State.Canonical (nopBody e s) := h

theorem State.Canonical.groupBody (h : s.Canonical) : OkHolds State.Canonical (groupBody f e s) := h.mapG

theorem State.Canonical.whenGuard (h : s.Canonical) (hb : OkHolds State.Canonical (body e s)) : OkHolds State.Canonical (whenGuard body e s) := by
  unfold Machine.whenGuard
  split
  · exact hb
  · exact h

theorem State.Canonical.event (h : s.Canonical) : NextHolds State.Canonical (event s) := h.report

theorem State.Canonical.noEvent (h : s.Canonical) : NextHolds State.Canonical (noEvent s) := h.report

theorem State.Canonical.split (h : s.Canonical) : (s.split e rtok T N target).Canonical := by
  unfold State.split
  split
  · exact h
  · exact h.setG.update

theorem State.Canonical.braBody (h : s.Canonical) : OkHolds State.Canonical (braBody rtok disp a e s) := by
  unfold Machine.braBody
  extract_lets
  split
  · trivial
  · split
    · split
      · exact h.mapG
      · exact h
    · split
      · exact h.mapG
      · split
        · exact h
        · split
          · trivial
          · exact h.split

theorem State.Canonical.jumpBody (h : s.Canonical) : OkHolds State.Canonical (jumpBody target f e s) := by
  unfold Machine.jumpBody
  extract_lets
  split
  · trivial
  · split
    · exact h.mapG
    · exact h

theorem State.Canonical.reconBody (h : s.Canonical) : OkHolds State.Canonical (reconBody tok e s) := by
  unfold Machine.reconBody
  split
  · exact h
  · split
    · exact h.mapG
    · exact h

theorem State.Canonical.exitBody (h : s.Canonical) : OkHolds State.Canonical (exitBody e s) := by
  unfold Machine.exitBody
  split
  · exact h.mapG
  · split
    · exact h.mapG
    · exact h

theorem State.Canonical.yieldBody (h : s.Canonical) : OkHolds State.Canonical (yieldBody e s) := by
  unfold Machine.yieldBody
  extract_lets
  split
  · exact h.mapG
  · exact h

theorem State.Canonical.issueOp (h : s.Canonical) : OkHolds State.Canonical (s.issueOp e o buffered) := by
  unfold State.issueOp
  extract_lets
  split
  · split
    · trivial
    · exact h.update.mapG
  · exact h.update.mapG

theorem State.Canonical.regWrite (h : s.Canonical) : OkHolds State.Canonical (s.regWrite g off bs) := by
  unfold State.regWrite
  split
  · exact h.write
  · trivial

theorem State.Canonical.regFault (h : s.Canonical) : (s.regFault gi a).Canonical := by
  unfold State.regFault
  split
  · exact h
  · split
    · exact h.raise
    · exact h.deliver

theorem State.Canonical.spill (h : s.Canonical) : OkHolds State.Canonical (s.spill g n) := by
  unfold State.spill
  split
  · trivial
  · exact h.regWrite

theorem State.Canonical.fillLine (h : s.Canonical) : OkHolds State.Canonical (s.fillLine gi n g) := by
  unfold State.fillLine
  split
  · split
    · exact h.mapG
    · trivial
  · exact h.mapG

theorem State.Canonical.lineIn (h : s.Canonical) : OkHolds State.Canonical (s.lineIn gi n) := by
  unfold State.lineIn
  split
  · exact h
  · rename_i g _
    split
    · exact h
    · split
      · exact h.fillLine
      · have hs : OkHolds State.Canonical (if g.vdirty.contains (g.vres.headD 0) then s.spill g (g.vres.headD 0) else .ok s) := by
          split
          · exact h.spill
          · exact h
        extract_lets
        split
        · trivial
        · exact (hs.of ‹_›).mapG.fillLine

theorem State.Canonical.linesIn (h : s.Canonical) : OkHolds State.Canonical (s.linesIn gi ns) := by
  unfold State.linesIn
  refine OkHolds.foldl h fun x n hx => ?_
  split
  · exact State.Canonical.lineIn hx
  · trivial

theorem State.Canonical.withLines (h : s.Canonical) (hf : ∀ t, t.Canonical → (f t).Canonical) : (s.withLines gi rs f).Canonical := by
  unfold State.withLines
  split
  · exact hf _ (h.linesIn.of ‹_›)
  · exact h.regFault

theorem State.Canonical.registerFillBody (h : s.Canonical) : SomeHolds State.Canonical (registerFillBody gi n ecc s) := by
  unfold Machine.registerFillBody
  split
  · trivial
  · split
    · split
      · exact h.mapG.update
      · trivial
    · extract_lets
      split
      · trivial
      · split
        · exact h.mapG.lineIn.of ‹_›
        · exact h.mapG.regFault

theorem State.Canonical.switchV (h : s.Canonical) : OkHolds State.Canonical (s.switchV g) := by
  unfold State.switchV
  refine OkHolds.foldl h fun x n hx => ?_
  split
  · exact State.Canonical.spill hx
  · trivial

theorem State.Canonical.switchOut (h : s.Canonical) : OkHolds State.Canonical (s.switchOut g) := by
  unfold State.switchOut
  refine OkHolds.foldl h.switchV fun x n hx => ?_
  split
  · exact State.Canonical.regWrite hx
  · trivial

theorem State.Canonical.noteFresh (h : s.Canonical) : (s.noteFresh gi bs).Canonical := h.mapG

theorem State.Canonical.performLoad (h : s.Canonical) : (s.performLoad gi g o).Canonical := by
  unfold State.performLoad
  split
  · extract_lets
    split
    · exact h.setG
    · exact h.setG.update
  · exact h

theorem State.Canonical.performStore (h : s.Canonical) : (s.performStore gi o).Canonical := by
  unfold State.performStore
  split
  · exact h.noteFresh.write
  · exact h.write.update.mapG
  · exact h

theorem State.Canonical.loadBody (h : s.Canonical) : OkHolds State.Canonical (loadBody sp w sx o d a off take e s) := by
  unfold Machine.loadBody
  extract_lets
  split
  · trivial
  · extract_lets
    split
    · exact h.noteAcc
    · split
      · trivial
      · split
        · split
          · trivial
          · exact h.noteAcc.update.performLoad
        · exact h.noteAcc.issueOp

theorem State.Canonical.storeBody (h : s.Canonical) : OkHolds State.Canonical (storeBody sp w o a b off fill e s) := by
  unfold Machine.storeBody
  extract_lets
  split
  · trivial
  · extract_lets
    split
    · exact h.noteAcc
    · exact h.noteAcc.issueOp

theorem State.Canonical.fetest (h : s.Canonical) : (s.fetest gi gs op px).Canonical := by
  unfold State.fetest
  extract_lets
  split
  · exact h.mapG
  · exact h.mapG.update
  · exact h.mapG.update

theorem State.Canonical.fetestBody (h : s.Canonical) : OkHolds State.Canonical (fetestBody op o px a off e s) := by
  unfold Machine.fetestBody
  split
  · trivial
  · extract_lets
    split
    · split
      · exact h
      · exact h.issueOp
    · split
      · trivial
      · exact h.fetest

theorem State.Canonical.countEcc (h : s.Canonical) : (s.countEcc k).Canonical := by
  unfold State.countEcc
  split <;> exact h.update

theorem State.Canonical.countCorrected (h : s.Canonical) : (s.countCorrected key n).Canonical := h.update

theorem State.Canonical.loadCompletionBody (h : s.Canonical) : SomeHolds State.Canonical (loadCompletionBody gi k n s) := by
  unfold Machine.loadCompletionBody
  split
  · split
    · split
      · split
        · exact h.regFault
        · exact SomeHolds.map fun _ => State.Canonical.performLoad (State.Canonical.countCorrected (h.linesIn.of ‹_›))
      · trivial
    · trivial
  · trivial

theorem State.Canonical.acknowledgementBody (h : s.Canonical) : SomeHolds State.Canonical (acknowledgementBody gi k s) := by
  unfold Machine.acknowledgementBody
  split
  · split
    · split
      · exact h.performStore.mapG
      · trivial
    · split
      · exact h.performStore.mapG
      · trivial
    · trivial
  · trivial

theorem State.Canonical.eventOf (h : s.Canonical) (ht : SomeHolds State.Canonical o) : NextHolds State.Canonical (eventOf s o) := by
  unfold Machine.eventOf
  split
  · exact State.Canonical.report (ht.of rfl)
  · exact h.report

theorem State.Canonical.ldqBody (h : s.Canonical) : OkHolds State.Canonical (ldqBody q a off e s) := by
  unfold Machine.ldqBody
  extract_lets
  split
  · trivial
  · split
    · trivial
    · exact h.noteTlbs.mapG.issueOp

theorem State.Canonical.qbpushBody (h : s.Canonical) : OkHolds State.Canonical (qbpushBody a e s) := by
  unfold Machine.qbpushBody
  refine h.whenGuard ?_
  split
  · exact h.mapG
  · split <;> trivial

theorem State.Canonical.qbpopBody (h : s.Canonical) : OkHolds State.Canonical (qbpopBody d e s) := by
  unfold Machine.qbpopBody
  split
  · trivial
  · exact h.mapG

theorem State.Canonical.qstatBody (h : s.Canonical) : OkHolds State.Canonical (qstatBody d e s) := h.groupBody

theorem State.Canonical.qsyncBody (h : s.Canonical) : OkHolds State.Canonical (qsyncBody disp e s) := by
  unfold Machine.qsyncBody
  dsimp only
  refine h.whenGuard ?_
  split
  · trivial
  · split
    · trivial
    · exact h.mapG

theorem State.Canonical.ldqReturnBody (h : s.Canonical) : SomeHolds State.Canonical (ldqReturnBody gi k ecc s) := by
  unfold Machine.ldqReturnBody
  split
  · split
    · exact (h.countEcc.ite h).setG
    · trivial
  · trivial

/-! ### Mailboxes, objects, barriers, the engines of copy, gather and link -/

theorem State.Canonical.mailbox (h : s.Canonical) : (s.mailbox r owner va mb seq res stat).Canonical := by
  unfold State.mailbox
  extract_lets
  split
  · exact h.update
  · split
    · exact h.update.write
    · exact h.update.post

theorem State.Canonical.popRecord (h : s.Canonical) : (s.popRecord key).Canonical := h.writeNum.writeNum.writeNum

theorem State.Canonical.applyRec (h : s.Canonical) : (s.applyRec key va).1.Canonical := by
  unfold State.applyRec
  dsimp only
  split
  · exact (h.write.foldl (fun _ _ h => h.writeNum)).popRecord.mailbox
  · exact (h.freeze.ite h).popRecord.mailbox

theorem State.Canonical.applyAll (h : s.Canonical) : (State.applyAll n s key va).Canonical := by
  induction n generalizing s with
  | zero => exact h
  | succ n ih =>
    unfold State.applyAll
    split
    · exact h
    · exact ih h.applyRec

theorem State.Canonical.annStep (h : s.Canonical) : OkHolds (·.1.Canonical) (s.annStep a key va op a0 a1 mb) := by
  unfold State.annStep
  split
  · trivial
  · split
    · trivial
    · extract_lets
      split
      · trivial
      · exact (h.applyRec.ite h).write.update.writeNum.writeNum

theorem State.Canonical.helpStep (h : s.Canonical) : OkHolds (·.1.Canonical) (s.helpStep a key va) := by
  unfold State.helpStep
  split
  · trivial
  · split
    · split
      exact h.applyRec.ofFst ‹_›
    · exact h

theorem State.Canonical.obinitStep (h : s.Canonical) : (s.obinitStep a key kind scope kcode xp pmask ws).Canonical :=
  h.write.update.foldl (fun _ _ h => h.writeNum)

theorem State.Canonical.takeBlocks (h : s.Canonical) : (s.takeBlocks a key va n).1.Canonical := by
  unfold State.takeBlocks
  split
  · exact h
  · split
    · exact h
    · dsimp only
      split
      · exact h.applyAll
      · split
        · exact h.applyAll
        · exact h.applyAll.writeNum

theorem State.Canonical.failRecord (h : s.Canonical) : (s.failRecord key va i).Canonical := by
  unfold State.failRecord
  exact h.writeNum.mailbox

theorem State.Canonical.poisonObject (h : s.Canonical) : (s.poisonObject key va bad).Canonical := by
  unfold State.poisonObject
  extract_lets
  split
  · exact (h.foldl (fun _ _ h => h.failRecord)).writeNum.writeNum.update
  · exact (h.foldl (fun _ _ h => h.failRecord)).writeNum.writeNum.update.post

theorem State.Canonical.writeBar (h : s.Canonical) : (s.writeBar key b).Canonical := h.writeNum

theorem State.Canonical.barStep (h : s.Canonical) : OkHolds (·.1.Canonical) (s.barStep key f) := by
  unfold State.barStep
  extract_lets
  split
  · trivial
  · exact h.writeBar

theorem State.Canonical.creditStep (h : s.Canonical) : OkHolds State.Canonical (s.creditStep key n) := by
  unfold State.creditStep
  split
  · exact h.barStep.of ‹_›
  · trivial

theorem State.Canonical.barinitStep (h : s.Canonical) : OkHolds (·.1.Canonical) (s.barinitStep slot key va want scope count) := by
  unfold State.barinitStep
  extract_lets
  split
  · trivial
  · exact h.update.writeBar

theorem State.Canonical.writeShared (h : s.Canonical) : (s.writeShared slot tag off bs).Canonical := by
  unfold State.writeShared
  split
  · exact h.write
  · exact h.setCtx

theorem State.Canonical.spnComplete (h : s.Canonical) : (s.spnComplete i).Canonical := by
  unfold State.spnComplete
  split
  · exact h
  · split
    · exact h
    · exact ((h.foldl (fun _ _ h => h.writeShared)).ite (h.foldl (fun _ _ h => h.writeShared)).post).writeBar.update

theorem State.Canonical.spnArrive (h : s.Canonical) : OkHolds (·.1.Canonical) (s.spnArrive op key f note) := by
  unfold State.spnArrive
  split
  · trivial
  · extract_lets
    split
    · trivial
    · exact h.spnComplete.writeBar.update

theorem State.Canonical.cured (h : s.Canonical) : (s.cured key).Canonical := h.update

theorem State.Canonical.kilnAct (h : s.Canonical) : OkHolds (·.1.Canonical) (s.kilnAct g op st) := by
  unfold State.kilnAct
  extract_lets res k bar
  have hbar : ∀ f note, OkHolds (·.1.Canonical) (bar f note) := by
    intro f note
    have hx : OkHolds (·.1.Canonical) (if (readBar s.mem k).spn then s.spnArrive op k f note else s.barStep k f) := by
      split
      · exact h.spnArrive
      · exact h.barStep
    dsimp only [bar]
    split
    · exact hx.of ‹_›
    · trivial
  split
  · exact h.cured.obinitStep
  · split
    · exact State.Canonical.cured (h.barinitStep.of ‹_›)
    · trivial
  · split
    · trivial
    · split
      · exact h.writeNum
      · extract_lets
        split
        · exact h.writeNum
        · exact h
      · split
        · exact h.annStep.of ‹_›
        · trivial
      · split
        · exact h.helpStep.of ‹_›
        · trivial
      · exact hbar _ _
      · exact h
      · split
        · trivial
        · split
          · exact hbar _ _
          · exact h
      · split
        · exact hbar _ _
        · exact h

theorem State.Canonical.mapQueue (h : s.Canonical) : (s.mapQueue cn e f).Canonical := h.setCl

theorem State.Canonical.command (h : s.Canonical) : OkHolds State.Canonical (s.command e eng c batch dsts) := by
  unfold State.command
  extract_lets
  split
  · split
    · trivial
    · exact (h.update.mapG.ite h.update).mapG
  · split
    · exact (h.update.mapG.ite h.update).mapQueue
    · exact (h.update.mapG.ite h.update).mapQueue.mapG

theorem State.Canonical.mapOwner (h : s.Canonical) : (s.mapOwner gid tag slot f).Canonical := by
  unfold State.mapOwner
  split
  · exact h.mapG
  · exact h.setCtx

theorem State.Canonical.endCmd (h : s.Canonical) : (s.endCmd cn eng c f).Canonical := h.mapQueue.mapOwner

theorem State.Canonical.putCmd (h : s.Canonical) : (s.putCmd cn eng c).Canonical := h.mapQueue

theorem State.Canonical.tuneOwner (h : s.Canonical) : (s.tuneOwner gid tag slot).Canonical := h.mapOwner

theorem State.Canonical.postCmd (h : s.Canonical) : (s.postCmd eng c code addr).Canonical := by
  unfold State.postCmd
  extract_lets
  split
  · exact h.write.writeNum.raiseMsix.setCtx.tuneOwner
  · exact h

theorem State.Canonical.writeCword (h : s.Canonical) : (s.writeCword c w).Canonical := by
  unfold State.writeCword
  split
  · split
    · split
      · exact h.write
      · exact h
    · exact h
  · exact h

theorem State.Canonical.failStream (h : s.Canonical) : (s.failStream c f a).Canonical := by
  unfold State.failStream
  split
  · exact h.writeCword.post
  · exact h

theorem State.Canonical.engWrite (h : s.Canonical) : OkHolds State.Canonical (s.engWrite c a n v) := by
  unfold State.engWrite
  split
  · trivial
  · exact h.writeV

theorem State.Canonical.copyFrom (h : s.Canonical) : (State.copyFrom n s c ss ds src dst).1.Canonical := by
  induction n generalizing s c with
  | zero => exact h
  | succ n ih =>
    unfold State.copyFrom
    dsimp only
    split
    · exact ih h.write
    · exact h
    · exact h

theorem State.Canonical.credit (h : s.Canonical) : (s.credit c bar n).1.Canonical := by
  unfold State.credit
  split
  · exact h
  · split
    · exact h
    · split
      · exact h.creditStep.of ‹_›
      · exact h

theorem State.Canonical.runCopy (h : s.Canonical) : (s.runCopy c).1.Canonical := by
  unfold State.runCopy
  split
  · split
    · split
      · exact (h.copyFrom.ofFst ‹_›).credit
      · exact h.copyFrom.ofFst ‹_›
    · exact h.copyFrom
  · exact h

theorem State.Canonical.regspace (_h : s.Canonical) (hn : OkHolds State.Canonical next) : OkHolds State.Canonical (Env.regspace e s rs next) := by
  unfold Env.regspace
  split
  · trivial
  · exact hn

theorem State.Canonical.noteWinIf {p : Prop} [Decidable p] (h : s.Canonical) : (if p then s.noteWin slot va else s).Canonical := h.noteWin.ite h

theorem State.Canonical.acpBody (h : s.Canonical) : OkHolds State.Canonical (acpBody ss ds bar ar d a b c e s) := by
  refine h.whenGuard ?_
  extract_lets src dst len
  split
  · trivial
  · split
    · trivial
    · trivial
    · exact h.noteWinIf.noteWinIf.regspace h.noteWinIf.noteWinIf.command

theorem State.Canonical.bcloseBody (h : s.Canonical) : OkHolds State.Canonical (bcloseBody d e s) := h.whenGuard h.groupBody

theorem State.Canonical.bwaitBody (h : s.Canonical) : OkHolds State.Canonical (bwaitBody a px e s) := by
  unfold Machine.bwaitBody
  dsimp only
  refine h.whenGuard ?_
  split
  · trivial
  · split
    · trivial
    · split
      · trivial
      · exact h.mapG

theorem State.Canonical.asyncTimeoutBody (h : s.Canonical) : SomeHolds State.Canonical (asyncTimeoutBody gi s) := by
  unfold Machine.asyncTimeoutBody
  split
  · trivial
  · extract_lets
    split
    · trivial
    · split
      · trivial
      · split
        · exact (h.foldl (fun _ _ h => h.endCmd)).raise
        · trivial

theorem State.Canonical.kvNote (h : s.Canonical) : (s.kvNote cn slot sd lb b).Canonical := h.setCl

theorem State.Canonical.kvBlock (h : s.Canonical) : OkHolds (·.1.Canonical) (s.kvBlock cn slot sd lb d rd) := by
  unfold State.kvBlock
  dsimp only
  split
  · trivial
  · split
    · trivial
    · split
      · trivial
      · exact h.kvNote

theorem State.Canonical.kvlookBody (h : s.Canonical) : OkHolds State.Canonical (kvlookBody inv d a b e s) := by
  unfold Machine.kvlookBody
  extract_lets
  split
  · trivial
  · split
    · trivial
    · split
      · trivial
      · split
        · trivial
        · split
          · exact h.setCl.mapG
          · split
            · trivial
            · exact (h.kvBlock.of ‹_›).mapG

theorem State.Canonical.kvgatherBody (h : s.Canonical) : OkHolds State.Canonical (kvgatherBody rows toScratch ar a b c e s) := by
  refine h.whenGuard ?_
  extract_lets r n dst total
  split
  · trivial
  · split
    · trivial
    · split
      · trivial
      · exact h.regspace h.command

theorem State.Canonical.kvappendBody (h : s.Canonical) : OkHolds State.Canonical (kvappendBody ar d a b px e s) := by
  refine h.whenGuard ?_
  extract_lets m
  split
  · trivial
  · exact h.regspace h.command

theorem State.Canonical.kvshareBody (h : s.Canonical) : OkHolds State.Canonical (kvshareBody ar d a b c px e s) := h.whenGuard (h.regspace h.command)

theorem State.Canonical.gatherFrom (h : s.Canonical) : (State.gatherFrom n s c cn rows sc sd p0 k dst).1.Canonical := by
  induction n generalizing s c with
  | zero => exact h
  | succ n ih =>
    unfold State.gatherFrom
    extract_lets i isV rd
    split
    · exact h
    · split
      · exact h
      · split
        · exact h
        · split
          · exact ih (h.kvBlock.of ‹_›).write
          · exact h.kvBlock.of ‹_›
          · exact h.kvBlock.of ‹_›

theorem State.Canonical.runTodo (h : s.Canonical) : (State.runTodo ws s c).1.Canonical := by
  induction ws generalizing s with
  | nil => exact h
  | cons w ws ih =>
    unfold State.runTodo
    split
    · exact ih (h.engWrite.of ‹_›)
    · exact h

theorem State.Canonical.appendEntry (h : s.Canonical) : OkHolds (·.1.Canonical) (s.appendEntry c list) := by
  unfold State.appendEntry
  split
  · trivial
  · extract_lets
    split
    · trivial
    · extract_lets
      split
      · exact h
      · split
        · exact h
        · split
          · exact h
          · split
            · trivial
            · split
              · trivial
              · split <;> exact h.takeBlocks.ofFst ‹_›

theorem State.Canonical.appendFrom (h : s.Canonical) : (State.appendFrom n s c list).1.Canonical := by
  induction n generalizing s c with
  | zero => exact h
  | succ n ih =>
    unfold State.appendFrom
    split
    · split
      · exact h
      · exact h.appendEntry.of ‹_›
      · exact h.appendEntry.of ‹_›
      · exact h.appendEntry.of ‹_›
      · dsimp only
        split
        · exact ih ((h.appendEntry.of ‹_›).runTodo.ofFst ‹_›)
        · exact (h.appendEntry.of ‹_›).runTodo.ofFst ‹_›
    · dsimp only
      split
      · exact ih (h.runTodo.ofFst ‹_›)
      · exact h.runTodo.ofFst ‹_›

theorem State.Canonical.writeResult (h : s.Canonical) : (s.writeResult c d px v ok).Canonical := h.mapOwner

theorem State.Canonical.runAppend (h : s.Canonical) : (s.runAppend c d px list m).1.Canonical := by
  unfold State.runAppend
  split
  · exact (h.appendFrom.ofFst ‹_›).writeResult
  · exact h.appendFrom.ofFst ‹_›

theorem State.Canonical.countUp (h : s.Canonical) : OkHolds (SomeHolds State.Canonical) (s.countUp c a) := by
  unfold State.countUp
  split
  · trivial
  · split
    · trivial
    · split
      · exact h.engWrite.of ‹_›
      · trivial

theorem State.Canonical.shareBlocks (h : s.Canonical) : (State.shareBlocks n s c src dst).1.Canonical := by
  induction n generalizing s c with
  | zero => exact h
  | succ n ih =>
    unfold State.shareBlocks
    extract_lets i install
    have hi : ∀ t b, t.Canonical → (install t b).1.Canonical := by
      intro t b ht
      unfold install
      split
      · exact ht
      · exact ih (ht.engWrite.of ‹_›)
    clear_value install
    split
    · exact hi _ _ h
    · split
      · exact h
      · split
        · exact h
        · exact h
        · next hk => exact hi _ _ (h.countUp.of hk)

theorem State.Canonical.copyRows (h : s.Canonical) : (s.copyRows c src dst b nb r).1.Canonical := by
  unfold State.copyRows
  refine List.foldlRecOn (motive := fun x : State × Option (FCode × Nat) => x.1.Canonical) _ _ h fun x hx i _ => ?_
  split
  · exact hx
  · split
    · exact hx
    · split
      · exact (State.Canonical.engWrite hx).of ‹_›
      · exact hx

theorem State.Canonical.sharePartial (h : s.Canonical) : (s.sharePartial c src dst m).1.Canonical := by
  unfold State.sharePartial
  split
  · dsimp only
    split
    · exact h
    · split <;> exact h.copyRows.ofFst ‹_›
  · split
    · exact h
    · split
      · exact h
      · split
        · exact h.takeBlocks.ofFst ‹_›
        · dsimp only
          split
          · exact h.takeBlocks.ofFst ‹_›
          · split <;> exact (h.takeBlocks.ofFst ‹_›).copyRows.ofFst ‹_›
        · exact h.takeBlocks.ofFst ‹_›

theorem State.Canonical.shareBody (h : s.Canonical) : (s.shareBody c srcA dstA m).1.Canonical := by
  unfold State.shareBody
  split
  · exact h
  · exact h
  · rename_i src dst _ _
    dsimp only
    split
    · exact h
    · split
      · exact h
      · have hb := h.shareBlocks (n := m / 16 - c.pos) (c := c) (src := src) (dst := dst)
        split
        · rename_i t d e
          have hp : (if m % 16 ≠ 0 ∧ d.pos = m / 16 then t.sharePartial d src dst m else (t, d, KvEnd.go)).1.Canonical := by
            split
            · exact (hb.ofFst e).sharePartial
            · exact hb.ofFst e
          split
          · split <;> exact hp.runTodo.ofFst ‹_›
          · exact hp
        · exact hb

theorem State.Canonical.runShare (h : s.Canonical) : (s.runShare c d px srcA dstA m).1.Canonical := by
  unfold State.runShare
  split
  · exact h.shareBody.ofFst ‹_›
  · split
    · exact (h.shareBody.ofFst ‹_›).writeResult
    · dsimp only
      split
      · exact ((h.shareBody.ofFst ‹_›).engWrite.of ‹_›).writeResult
      · exact h.shareBody.ofFst ‹_›
  · dsimp only
    split
    · exact ((h.shareBody.ofFst ‹_›).engWrite.of ‹_›).writeResult
    · exact h.shareBody.ofFst ‹_›

theorem State.Canonical.failResult (h : s.Canonical) : (s.failResult c a).Canonical := by
  unfold State.failResult
  split
  · exact h.writeResult
  · dsimp only
    split
    · exact h.writeResult
    · split
      · exact (h.engWrite.of ‹_›).writeResult
      · exact h.writeResult
  · exact h

theorem State.Canonical.settleCmd (h : s.Canonical) : (s.settleCmd cn eng c r).Canonical := by
  unfold State.settleCmd
  split
  · exact h.endCmd
  · exact h.putCmd.postCmd
  · extract_lets
    split
    · exact h.failResult.failStream.endCmd.freeze
    · exact h.failResult.failStream.endCmd

theorem State.Canonical.runGather (h : s.Canonical) : (s.runGather cn c).1.Canonical := by
  unfold State.runGather
  split
  · exact h.gatherFrom
  · exact h.runAppend
  · exact h.runShare
  · exact h

theorem State.Canonical.linkCommand (h : s.Canonical) : OkHolds State.Canonical (s.linkCommand e c coll) := by
  unfold State.linkCommand
  extract_lets
  split
  · split
    · trivial
    · exact h.setCtx.update.mapG
  · exact h.setCtx.update.mapQueue.mapG

theorem State.Canonical.xscaleBody (h : s.Canonical) : OkHolds State.Canonical (xscaleBody o coll d a b c e s) := by
  unfold Machine.xscaleBody
  dsimp only
  refine h.whenGuard ?_
  split
  · trivial
  · split
    · trivial
    · split
      · trivial
      · split
        · trivial
        · trivial
        · exact h.linkCommand

theorem State.Canonical.xredBody (h : s.Canonical) : OkHolds State.Canonical (xredBody o coll d a b c e s) := by
  unfold Machine.xredBody
  dsimp only
  refine h.whenGuard ?_
  split
  · trivial
  · split
    · trivial
    · split
      · trivial
      · split
        · trivial
        · trivial
        · exact h.linkCommand

theorem State.Canonical.linkFault (h : s.Canonical) : (s.linkFault cn c f a).Canonical := by
  unfold State.linkFault
  extract_lets
  split
  · exact h.endCmd.freeze
  · exact h.endCmd.post

theorem State.Canonical.linkNotice (h : s.Canonical) : (s.linkNotice cn c f).Canonical := h.endCmd.post

theorem State.Canonical.sendLink (h : s.Canonical) : (s.sendLink cn c).Canonical := by
  unfold State.sendLink
  split
  · exact h.linkFault
  · split
    · exact h.linkFault
    · exact h.putCmd

theorem State.Canonical.collectiveBody (h : s.Canonical) : SomeHolds State.Canonical (collectiveBody cn k others s) := by
  unfold Machine.collectiveBody
  split
  · trivial
  · extract_lets
    split
    · trivial
    · split
      · exact h.linkNotice
      · split
        · exact h.linkNotice
        · split
          split
          · exact h.linkFault
          · extract_lets
            split
            · exact h.linkFault
            · exact ((h.foldl (fun _ _ h => h.write)).credit.ofFst ‹_›).endCmd

theorem State.Canonical.collAckBody (h : s.Canonical) : SomeHolds State.Canonical (collAckBody gi k s) := by
  unfold Machine.collAckBody
  split
  · split
    · split
      · exact h.setG
      · trivial
    · trivial
  · trivial

theorem State.Canonical.engineOperationBody (h : s.Canonical) : SomeHolds State.Canonical (engineOperationBody cn e k s) := by
  unfold Machine.engineOperationBody
  split
  · trivial
  · split
    · trivial
    · split
      · exact h.runCopy.settleCmd
      · exact h.runGather.settleCmd
      · exact h.sendLink

/-! ### Atomics and objects, messages, fences, late faults, the Lathe and the Trowel, launches, trap registers -/

theorem State.Canonical.issueAtomic (h : s.Canonical) : OkHolds State.Canonical (s.issueAtomic e o k sp hostOk uni n a d px act) := by
  unfold State.issueAtomic
  split
  · trivial
  · extract_lets
    split
    · exact h.noteAcc
    · split
      · trivial
      · exact h.noteAcc.issueOp

theorem State.Canonical.atomBody (h : s.Canonical) : OkHolds State.Canonical (atomBody op o w sp d a b e s) := h.issueAtomic

theorem State.Canonical.redBody (h : s.Canonical) : OkHolds State.Canonical (redBody op o w sp a b e s) := h.issueAtomic

theorem State.Canonical.casBody (h : s.Canonical) : OkHolds State.Canonical (casBody o w sp d a b c px e s) := h.issueAtomic

theorem State.Canonical.issueStep (h : s.Canonical) : OkHolds State.Canonical (s.issueStep e k sc va key act d px buffered) := h.noteTlb.issueOp

theorem State.Canonical.obinitBody (h : s.Canonical) : OkHolds State.Canonical (obinitBody kind o kcode xp pmask a b e s) := by
  unfold Machine.obinitBody
  dsimp only
  refine h.whenGuard ?_
  split
  · trivial
  · split
    · trivial
    · split
      · trivial
      · split
        · trivial
        · exact h.issueStep

theorem State.Canonical.annBody (h : s.Canonical) : OkHolds State.Canonical (annBody op d a b c e s) := by
  unfold Machine.annBody
  dsimp only
  refine h.whenGuard ?_
  split
  · trivial
  · split
    · trivial
    · split
      · trivial
      · split
        · trivial
        · exact h.noteTlb.issueStep

theorem State.Canonical.helpBody (h : s.Canonical) : OkHolds State.Canonical (helpBody d a px e s) := by
  unfold Machine.helpBody
  dsimp only
  refine h.whenGuard ?_
  split
  · trivial
  · exact h.issueStep

theorem State.Canonical.barBody (h : s.Canonical) : OkHolds State.Canonical (barBody o a d px act e s) := by
  unfold Machine.barBody
  dsimp only
  refine h.whenGuard ?_
  split
  · trivial
  · split
    · trivial
    · exact h.issueStep

theorem State.Canonical.btestBody (h : s.Canonical) : OkHolds State.Canonical (btestBody o a b px e s) := by
  refine h.whenGuard ?_
  extract_lets va
  split
  · trivial
  · split
    · trivial
    · exact h.issueStep

theorem State.Canonical.sredBody (h : s.Canonical) : OkHolds State.Canonical (sredBody op n o d a b c e s) := by
  unfold Machine.sredBody
  dsimp only
  refine h.whenGuard ?_
  split
  · trivial
  · split
    · trivial
    · split
      · trivial
      · split
        · trivial
        · exact h.issueStep

theorem State.Canonical.msendBody (h : s.Canonical) : OkHolds State.Canonical (msendBody o a b px e s) := by
  refine h.whenGuard ?_
  split
  · trivial
  · exact h.issueOp

theorem State.Canonical.setPort (h : s.Canonical) : (s.setPort cn p x).Canonical := h.setCl

theorem State.Canonical.wakePort (h : s.Canonical) : (s.wakePort cn p).Canonical := h.update

theorem State.Canonical.deliverFlit (h : s.Canonical) : (s.deliverFlit g dst payload).1.Canonical := by
  unfold State.deliverFlit
  dsimp only
  split
  · exact h
  · split
    · exact h.setPort
    · exact h.setPort.wakePort

theorem State.Canonical.mrecvBody (h : s.Canonical) : OkHolds State.Canonical (mrecvBody o x d px e s) := by
  refine h.whenGuard ?_
  split
  · trivial
  · extract_lets
    split
    · split
      · exact h.setPort.mapG
      · exact h.mapG
    · exact h.mapG

theorem State.Canonical.mstatBody (h : s.Canonical) : OkHolds State.Canonical (mstatBody clr x d e s) := h.whenGuard (h.setPort.ite h).mapG

theorem State.Canonical.parkBody (h : s.Canonical) : OkHolds State.Canonical (parkBody msg sp mask a e s) := by
  refine h.whenGuard ?_
  extract_lets x
  split
  · trivial
  · split
    · exact h.noteTlb.ite h
    · exact (h.noteTlb.ite h).mapG

theorem State.Canonical.leaveMarker (h : s.Canonical) : (s.leaveMarker e sc).Canonical := by
  unfold State.leaveMarker
  extract_lets
  split
  · exact h.update.mapG
  · exact h

theorem State.Canonical.fenceBody (h : s.Canonical) : OkHolds State.Canonical (fenceBody fo sc e s) := by
  refine h.whenGuard ?_
  extract_lets rel acq
  split
  · trivial
  · exact (h.leaveMarker.ite h).mapG

theorem State.Canonical.drainBody (h : s.Canonical) : OkHolds State.Canonical (drainBody sc d a e s) := by
  unfold Machine.drainBody
  dsimp only
  refine h.whenGuard ?_
  split
  · trivial
  · split
    · trivial
    · exact h.leaveMarker.issueStep

theorem State.Canonical.drainNbBody (h : s.Canonical) : OkHolds State.Canonical (drainNbBody e s) := by
  unfold Machine.drainNbBody
  refine h.whenGuard ?_
  split
  · trivial
  · exact h.leaveMarker

theorem State.Canonical.refuseStep (h : s.Canonical) : (s.refuseStep gi o st c).Canonical := h.mapG

theorem State.Canonical.stepOp (h : s.Canonical) : (s.stepOp gi g o).Canonical := by
  unfold State.stepOp
  split
  · split
    · exact (h.kilnAct.of ‹_›).mapG
    · exact h.refuseStep
  · exact h

theorem State.Canonical.arrive (h : s.Canonical) : (s.arrive b as).1.Canonical := by
  induction as generalizing s b with
  | nil => exact h
  | cons a as ih =>
    unfold State.arrive
    split
    · exact ih h
    · split
      · exact ih h.refuseStep
      · exact ih h.mapG.update

theorem State.Canonical.combined (h : s.Canonical) : SomeHolds State.Canonical (s.combined atSpindle as) := by
  unfold State.combined
  split
  · trivial
  · extract_lets k s1
    have h1 : s1.Canonical := by
      unfold s1
      split
      · exact h.spnComplete.ite h
      · exact h
    split
    · trivial
    · split
      next t _ _ e =>
      have ht : t.Canonical := h1.arrive.ofFst e
      extract_lets done u
      have hu : u.Canonical := by
        unfold u
        split
        · exact ht.mapG.ite ht
        · exact ht
      split
      · exact hu.writeBar
      · split
        · exact State.Canonical.update hu.writeBar
        · exact hu.writeBar

theorem State.Canonical.replyOp (h : s.Canonical) : (s.replyOp gi o).Canonical := by
  unfold State.replyOp
  split
  · exact h.mapG
  · exact h

theorem State.Canonical.stepBody (h : s.Canonical) : SomeHolds State.Canonical (stepBody atSpindle gi k more s) := by
  unfold Machine.stepBody
  split
  · split
    · exact h.combined
    · trivial
  · split
    · split
      · split
        · exact h.stepOp
        · trivial
      · trivial
    · trivial

theorem State.Canonical.kilnReplyBody (h : s.Canonical) : SomeHolds State.Canonical (kilnReplyBody gi k s) := by
  unfold Machine.kilnReplyBody
  split
  · split
    · split
      · exact h.withLines (fun _ h => h.replyOp)
      · trivial
    · trivial
  · trivial

theorem State.Canonical.flitDeliveryBody (h : s.Canonical) : SomeHolds State.Canonical (flitDeliveryBody gi k s) := by
  unfold Machine.flitDeliveryBody
  split
  · split
    · split
      · split
        exact (h.deliverFlit.ofFst ‹_›).mapG
      · trivial
    · trivial
  · trivial

theorem State.Canonical.msendAnswerBody (h : s.Canonical) : SomeHolds State.Canonical (msendAnswerBody gi k s) := by
  unfold Machine.msendAnswerBody
  split
  · split
    · exact h.setG
    · trivial
  · trivial

theorem State.Canonical.spindlePhaseBody (h : s.Canonical) : SomeHolds State.Canonical (spindlePhaseBody k s) := by
  unfold Machine.spindlePhaseBody
  split
  · exact h.spnComplete
  · trivial

theorem State.Canonical.parkEnd (h : s.Canonical) : SomeHolds State.Canonical (parkEnd gi p ok s) := by
  unfold Machine.parkEnd
  split
  · trivial
  · split
    · trivial
    · split
      · split
        · exact h.mapG
        · trivial
      · trivial

theorem State.Canonical.poisonStep (h : s.Canonical) : (s.poisonStep o bad).Canonical := by
  unfold State.poisonStep
  split
  · split
    · exact h.poisonObject
    · exact h.poisonObject
    · exact h.update
    · exact h.update
    · exact h.update
  · exact h

theorem State.Canonical.poisonCmd (h : s.Canonical) : (s.poisonCmd cn c addr bad).Canonical := by
  unfold State.poisonCmd
  split
  · exact h.countEcc
  · extract_lets
    split
    · exact h.countEcc
    · split
      · exact h.countEcc.poisonObject
      · exact h.countEcc.poisonObject
      · exact h.countEcc.update

theorem State.Canonical.afterExit (h : s.Canonical) : (s.afterExit g o f).Canonical := h.post.freeze.mapL

theorem State.Canonical.lateFault (h : s.Canonical) : (s.lateFault gi o f).Canonical := by
  unfold State.lateFault
  extract_lets
  split
  · exact h.mapG
  · split
    · exact h.mapG.mapG.afterExit
    · split
      · exact h.mapG.mapG
      · split
        · exact h.mapG.raise
        · exact h.mapG.takeTrap

theorem State.Canonical.faultEntry (h : s.Canonical) : SomeHolds State.Canonical (s.faultEntry gi k g code) := by
  unfold State.faultEntry
  split
  · trivial
  · exact h.setG.writeNum.writeNum

theorem State.Canonical.longLatencyBody (h : s.Canonical) : SomeHolds State.Canonical (longLatencyBody gi k code lane addr bad s) := by
  unfold Machine.longLatencyBody
  split
  · trivial
  · extract_lets
    split
    · split
      · trivial
      · split
        · split
          · trivial
          · exact h.lateFault
        · split
          · trivial
          · exact (h.poisonStep.countEcc.ite h).lateFault
    · split
      · split
        · trivial
        · extract_lets
          split
          · trivial
          · split
            · exact (h.poisonCmd.ite h).linkFault
            · exact (h.poisonCmd.ite h).settleCmd
      · split
        · exact h.faultEntry
        · trivial

theorem State.Canonical.memTimeoutBody (h : s.Canonical) : SomeHolds State.Canonical (memTimeoutBody gi k s) := by
  unfold Machine.memTimeoutBody
  split
  · extract_lets
    split
    · exact h.update.lateFault
    · trivial
  · trivial

theorem State.Canonical.countAll (h : s.Canonical) : (s.countAll slot fmt rs).Canonical := h.setCtx

theorem State.Canonical.gmmaBody (h : s.Canonical) : OkHolds State.Canonical (gmmaBody bt fa fb rows d a b c e s) := by
  refine h.whenGuard ?_
  split
  · trivial
  · trivial
  · split
    · trivial
    · extract_lets
      split
      · trivial
      · trivial
      · split
        · trivial
        · exact h.countAll.mapG

theorem State.Canonical.cvtdxbBody (h : s.Canonical) : OkHolds State.Canonical (cvtdxbBody sto ss fb d a e s) := by
  refine h.whenGuard ?_
  split
  · trivial
  · split
    · trivial
    · split
      · trivial
      · split
        · trivial
        · split
          · trivial
          · exact h.mapG

theorem State.Canonical.tmaskBody (h : s.Canonical) : OkHolds State.Canonical (tmaskBody d a b c e s) := by
  unfold Machine.tmaskBody
  dsimp only
  refine h.whenGuard ?_
  split
  · trivial
  · split
    · trivial
    · exact h.mapG

theorem State.Canonical.smaxrBody (h : s.Canonical) : OkHolds State.Canonical (smaxrBody f16 cs sz msk rows d a b c e s) := h.whenGuard h.mapG

/-- A tile's words take the place of the entries of their range (R169). -/
theorem State.Canonical.setTile (h : s.Canonical) : (s.setTile cn z l ws).Canonical := by
  refine ⟨h.mem, ?_, fun p hp => ?_⟩
  · have hs := List.pairwise_map.1 h.tiles.1
    have hw : (ws.zipIdx.map fun p => (tileBase cn z + l + p.2, p.1)).Pairwise fun p q : Nat × Word => p.1 < q.1 := by
      rw [List.pairwise_map]
      refine List.Pairwise.imp (R := fun p q : Word × Nat => p.2 < q.2) (fun h => by omega) ?_
      rw [← List.pairwise_map (f := Prod.snd) (R := (· < ·)), List.zipIdx_map_snd]
      exact List.pairwise_lt_range'
    have hm : ∀ p ∈ ws.zipIdx.map (fun p => (tileBase cn z + l + p.2, p.1)), tileBase cn z + l ≤ p.1 ∧ p.1 < tileBase cn z + l + ws.length := by
      intro p hp
      obtain ⟨q, hq, rfl⟩ := List.mem_map.1 hp
      have := List.snd_lt_of_mem_zipIdx hq
      exact ⟨by simp, by simpa using this⟩
    unfold State.setTile
    rw [List.pairwise_map, List.pairwise_append, List.pairwise_append]
    refine ⟨⟨hs.filter _, hw.filter _, fun p hp q hq => ?_⟩, hs.filter _, fun p hp q hq => ?_⟩
    · have := (hm q (List.mem_filter.1 hq).1).1
      have := of_decide_eq_true (List.mem_filter.1 hp).2
      omega
    · have := of_decide_eq_true (List.mem_filter.1 hq).2
      rcases List.mem_append.1 hp with hp | hp
      · have := of_decide_eq_true (List.mem_filter.1 hp).2
        omega
      · have := (hm p (List.mem_filter.1 hp).1).2
        omega
  · unfold State.setTile at hp
    rcases List.mem_append.1 hp with hp | hp
    · rcases List.mem_append.1 hp with hp | hp
      · exact h.tiles.2 p (List.mem_filter.1 hp).1
      · simpa using (List.mem_filter.1 hp).2
    · exact h.tiles.2 p (List.mem_filter.1 hp).1

theorem State.Canonical.tagWrite (h : s.Canonical) : OkHolds State.Canonical (s.tagWrite c a n v) := by
  unfold State.tagWrite
  split
  · exact h.write
  · trivial

theorem State.Canonical.matBlock (h : s.Canonical) : OkHolds State.Canonical (s.matBlock c zt fa fb ra rb kb) := by
  unfold State.matBlock
  split
  · exact h.countAll.setTile.addFlops
  · trivial
  · trivial

theorem State.Canonical.vecBlock (h : s.Canonical) : OkHolds State.Canonical (s.vecBlock c zt zx w k n nb r g kb) := by
  unfold State.vecBlock
  extract_lets
  split
  · trivial
  · exact (h.foldl (fun _ _ h => h.countAll.setTile)).addFlops

theorem State.Canonical.loadRow (h : s.Canonical) : OkHolds State.Canonical (s.loadRow c zt a f32 f m) := by
  unfold State.loadRow
  split
  · exact h.setTile
  · trivial
  · trivial

theorem State.Canonical.storeRow (h : s.Canonical) : OkHolds State.Canonical (s.storeRow c zt a f32 sat f m) := by
  unfold State.storeRow
  extract_lets
  split
  · exact h.tagWrite
  · split
    · split
      · trivial
      · exact (h.tagWrite.of ‹_›).tagWrite
    · split
      · trivial
      · exact (h.tagWrite.of ‹_›).countAll

theorem State.Canonical.rowsFrom (h : s.Canonical) (hf : ∀ t m, t.Canonical → OkHolds State.Canonical (f t m)) :
    (State.rowsFrom f n s c).1.Canonical := by
  induction n generalizing s c with
  | zero => exact h
  | succ n ih =>
    unfold State.rowsFrom
    split
    · exact ih ((hf _ _ h).of ‹_›)
    · exact h

theorem State.Canonical.acceptStream (h : s.Canonical) : (s.acceptStream cn c).Canonical := by
  unfold State.acceptStream
  split
  · extract_lets
    split
    · exact h.mapOwner.settleCmd
    · extract_lets
      split
      · exact h.mapOwner.settleCmd
      · split
        · exact h.mapOwner.settleCmd
        · exact h.mapOwner.putCmd
  · exact h

theorem State.Canonical.streamAcceptanceBody (h : s.Canonical) : SomeHolds State.Canonical (streamAcceptanceBody cn k s) := by
  unfold Machine.streamAcceptanceBody
  split
  · split
    · exact h.acceptStream
    · trivial
  · trivial

theorem State.Canonical.streamStepBody (h : s.Canonical) : SomeHolds State.Canonical (streamStepBody cn k s) := by
  unfold Machine.streamStepBody
  split
  · trivial
  · split
    · extract_lets
      split
      · trivial
      · split
        · exact h.update.writeCword.endCmd
        · exact h.update.writeCword.putCmd
    · trivial

theorem State.Canonical.latheStep (h : s.Canonical) (hr : OkHolds State.Canonical r) : (s.latheStep cn c r next fin).Canonical := by
  unfold State.latheStep
  split
  · exact h.settleCmd
  · have ht := hr.of rfl
    split
    · exact ht.settleCmd
    · exact ht.putCmd

theorem State.Canonical.readRow (h : s.Canonical) : (s.readRow cn c zt d row).Canonical := by
  unfold State.readRow
  extract_lets
  split
  · exact h.endCmd
  · split
    · exact h.endCmd.regFault
    · exact (h.linesIn.of ‹_›).mapG.endCmd

theorem State.Canonical.zeroFirst (h : s.Canonical) : (s.zeroFirst cn c zt d).Canonical := by
  unfold State.zeroFirst
  split
  · exact h.setTile
  · exact h

theorem State.Canonical.latheWork (h : s.Canonical) : (s.latheWork cn c).Canonical := by
  unfold State.latheWork
  split
  · exact h.setTile.endCmd
  · exact h.readRow
  · exact (h.rowsFrom (fun _ _ h => h.loadRow)).settleCmd
  · exact (h.rowsFrom (fun _ _ h => h.storeRow)).settleCmd
  · exact h.latheStep h.matBlock
  · exact h.latheStep h.vecBlock
  · exact h.zeroFirst.latheStep h.zeroFirst.matBlock
  · exact h

theorem State.Canonical.admitLathe (h : s.Canonical) : (s.admitLathe cn).Canonical := h.update

theorem State.Canonical.latheKBlockBody (h : s.Canonical) : SomeHolds State.Canonical (latheKBlockBody cn s) :=
  SomeHolds.map fun _ => h.latheWork.admitLathe

theorem State.Canonical.general (h : s.Canonical) (hn : OkHolds State.Canonical (next s)) :
    OkHolds State.Canonical (s.general e c batch dsts next) := by
  unfold State.general
  split
  · trivial
  · split
    · split
      · trivial
      · exact h.command
    · split
      · trivial
      · exact hn

theorem State.Canonical.enter (h : s.Canonical) : OkHolds State.Canonical (s.enter e c batch dsts) := h.general h.command

theorem State.Canonical.lzeroBody (h : s.Canonical) : OkHolds State.Canonical (lzeroBody zt e s) := h.whenGuard h.enter

theorem State.Canonical.lreadBody (h : s.Canonical) : OkHolds State.Canonical (lreadBody zt d a e s) := by
  unfold Machine.lreadBody
  dsimp only
  refine h.whenGuard ?_
  split
  · trivial
  · exact h.enter

theorem State.Canonical.lloadBody (h : s.Canonical) : OkHolds State.Canonical (lloadBody f32 ar zt fb a b e s) := by
  unfold Machine.lloadBody
  refine h.whenGuard ?_
  split
  · trivial
  · split
    · trivial
    · exact h.enter

theorem State.Canonical.lstoreBody (h : s.Canonical) : OkHolds State.Canonical (lstoreBody f32 sat ar zt fb a b e s) := by
  unfold Machine.lstoreBody
  refine h.whenGuard ?_
  split
  · trivial
  · split
    · trivial
    · split
      · trivial
      · exact h.enter

theorem State.Canonical.lmmaBody (h : s.Canonical) : OkHolds State.Canonical (lmmaBody ar zt fa fb sp a b c e s) := by
  refine h.whenGuard ?_
  split
  · trivial
  · trivial
  · extract_lets
    split
    · trivial
    · split
      · trivial
      · split
        · trivial
        · refine h.general ?_
          split
          · exact h.mapG
          · exact h.command

theorem State.Canonical.lmmvBody (h : s.Canonical) : OkHolds State.Canonical (lmmvBody ar zt fz zx nb a b c e s) := by
  unfold Machine.lmmvBody
  dsimp only
  refine h.whenGuard ?_
  split
  · trivial
  · split
    · trivial
    · split
      · trivial
      · exact h.enter

theorem State.Canonical.lcmdBody (h : s.Canonical) : OkHolds State.Canonical (lcmdBody zt fa fb px a e s) := by
  unfold Machine.lcmdBody
  dsimp only
  refine h.whenGuard ?_
  split
  · trivial
  · trivial
  · split
    · trivial
    · split
      · trivial
      · split
        · trivial
        · split
          · trivial
          · split
            · exact h.command
            · split
              · exact h.mapG
              · exact h.update.mapQueue.mapG

theorem State.Canonical.tagWrites (h : s.Canonical) : (State.tagWrites c ws s).1.Canonical := by
  induction ws generalizing s with
  | nil => exact h
  | cons w ws ih =>
    unfold State.tagWrites
    split
    · exact ih (h.tagWrite.of ‹_›)
    · exact h

theorem State.Canonical.runMatch (h : s.Canonical) : (s.runMatch c map keys t r depth dim f).1.Canonical := by
  unfold State.runMatch
  split
  · exact h
  · exact h.addFlops.tagWrites

theorem State.Canonical.mergeRows (h : s.Canonical) : (State.mergeRows c f out inp width ks dst sizes js s).1.Canonical := by
  induction js generalizing s with
  | nil => exact h
  | cons j js ih =>
    unfold State.mergeRows
    dsimp only
    split
    · exact h
    · split
      · exact ih (h.tagWrites.ofFst ‹_›)
      · exact h.tagWrites

theorem State.Canonical.runMerge (h : s.Canonical) : (s.runMerge c out inp map size width f).1.Canonical := by
  unfold State.runMerge
  split
  · dsimp only
    split
    · exact h
    · split
      · exact h
      · exact h.mergeRows
  · dsimp only
    split
    · exact h
    · exact h.mergeRows

theorem State.Canonical.unmergeRows (h : s.Canonical) : (State.unmergeRows c out inp rb ps s).1.Canonical := by
  induction ps generalizing s with
  | nil => exact h
  | cons p ps ih =>
    unfold State.unmergeRows
    split
    · exact h
    · split
      · exact h
      · exact ih (h.tagWrite.of ‹_›)

theorem State.Canonical.runUnmerge (h : s.Canonical) : (s.runUnmerge c out inp map width f).1.Canonical := by
  unfold State.runUnmerge
  dsimp only
  split
  · exact h
  · split
    · exact (h.unmergeRows.ofFst ‹_›).tagWrites
    · exact h.unmergeRows

theorem State.Canonical.runTrowel (h : s.Canonical) : (s.runTrowel c).1.Canonical := by
  unfold State.runTrowel
  split
  · exact h.runMatch
  · exact h.runMerge
  · exact h.runUnmerge
  · exact h

theorem State.Canonical.trowelCommandBody (h : s.Canonical) : SomeHolds State.Canonical (trowelCommandBody cn s) := by
  unfold Machine.trowelCommandBody
  split
  · trivial
  · split
    · exact h.runTrowel.settleCmd
    · trivial

theorem State.Canonical.tmatchBody (h : s.Canonical) : OkHolds State.Canonical (tmatchBody dim f ar d a c e s) := by
  unfold Machine.tmatchBody
  dsimp only
  refine h.whenGuard ?_
  split
  · trivial
  · split
    · trivial
    · exact h.command

theorem State.Canonical.tmergeBody (h : s.Canonical) : OkHolds State.Canonical (tmergeBody width f ar d a b c e s) := by
  refine h.whenGuard ?_
  extract_lets
  split
  · trivial
  · exact h.command

theorem State.Canonical.tunmergeBody (h : s.Canonical) : OkHolds State.Canonical (tunmergeBody width f ar d a b e s) := by
  unfold Machine.tunmergeBody
  refine h.whenGuard ?_
  split
  · trivial
  · exact h.command

theorem State.Canonical.launchBody (h : s.Canonical) : OkHolds State.Canonical (launchBody pd a e s) := by
  unfold Machine.launchBody
  dsimp only
  refine h.whenGuard ?_
  split
  · trivial
  · split
    · trivial
    · split
      · trivial
      · exact h.noteTlbs.issueOp

theorem State.Canonical.triggerBody (h : s.Canonical) : OkHolds State.Canonical (triggerBody e s) := by
  unfold Machine.triggerBody
  dsimp only
  refine h.whenGuard ?_
  split
  · trivial
  · split
    · exact h.issueOp
    · exact h.mapG

theorem State.Canonical.timerAbsBody (h : s.Canonical) : OkHolds State.Canonical (timerAbsBody a e s) := h.whenGuard h.groupBody

theorem State.Canonical.timerRelBody (h : s.Canonical) : OkHolds State.Canonical (timerRelBody a e s) := h.whenGuard h.mapG

theorem State.Canonical.timerOffBody (h : s.Canonical) : OkHolds State.Canonical (timerOffBody e s) := h.whenGuard h.groupBody

theorem State.Canonical.qendBody (h : s.Canonical) : OkHolds State.Canonical (qendBody e s) := h.whenGuard h.groupBody

theorem State.Canonical.trapBody (h : s.Canonical) : OkHolds State.Canonical (trapBody n e s) := h.whenGuard h.raise

theorem State.Canonical.bkptBody (h : s.Canonical) : OkHolds State.Canonical (bkptBody n e s) := h.whenGuard h.raise

theorem State.Canonical.trapretBody (h : s.Canonical) : OkHolds State.Canonical (trapretBody e s) := by
  unfold Machine.trapretBody
  dsimp only
  refine h.whenGuard ?_
  split
  · trivial
  · split
    · trivial
    · split
      · trivial
      · split
        · trivial
        · split
          · trivial
          · split
            · exact h.trapReturn.takeTimer
            · exact h.trapReturn

theorem State.Canonical.mapFrame (h : s.Canonical) : (s.mapFrame gi f).Canonical := by
  unfold State.mapFrame
  split
  · exact h
  · split
    · exact h
    · exact h.setG.writeBytes.writeBytes

theorem State.Canonical.replayBody (h : s.Canonical) : OkHolds State.Canonical (replayBody i pd e s) := by
  unfold Machine.replayBody
  dsimp only
  refine h.whenGuard ?_
  split
  · trivial
  · split
    · split
      · split
        · split
          · trivial
          · exact h.inject.mapG.mapFrame
        · exact h.mapG
      · exact h.mapG
    · exact h.mapG

theorem State.Canonical.rdsrBody (h : s.Canonical) : OkHolds State.Canonical (rdsrBody r d e s) := h.whenGuard h.groupBody

theorem State.Canonical.wrsrBody (h : s.Canonical) : OkHolds State.Canonical (wrsrBody r a e s) := by
  refine h.whenGuard ?_
  split
  · trivial
  · split
    · exact h.mapFrame
    · exact h.mapFrame
    · exact h.mapFrame
    · exact h.mapFrame
    · trivial

/-! ### The front end, teams: dispatch, saving and restoring, pre-emption -/

theorem State.Canonical.atSlot (h : s.Canonical) (hf : ∀ k, (f k s).Canonical) : (s.atSlot fn j f).Canonical := by
  unfold State.atSlot
  split
  · exact hf _
  · exact h

theorem State.Canonical.notice (h : s.Canonical) : (s.notice slot code addr lage info).Canonical := h.post

theorem State.Canonical.dropKv (h : s.Canonical) : (s.dropKv slot).Canonical := h.update

theorem State.Canonical.dropKvAt (h : s.Canonical) : (s.dropKvAt cn slot).Canonical := h.setCl

theorem State.Canonical.countCompleted (h : s.Canonical) : (s.countCompleted slot).Canonical := h.setCtx.dropKv

theorem State.Canonical.dropLaunch (h : s.Canonical) : (s.dropLaunch age).Canonical := h.update

theorem State.Canonical.dropReady (h : s.Canonical) : (s.dropReady slot age).Canonical := h.setCtx

theorem State.Canonical.refuse (h : s.Canonical) : (s.refuse l code addr).Canonical := h.dropLaunch.dropReady.notice.countCompleted

theorem State.Canonical.frontFault (h : s.Canonical) : (s.frontFault l c a).Canonical := by
  unfold State.frontFault
  split
  · exact h.freeze
  · exact h.refuse

theorem State.Canonical.decrement (h : s.Canonical) : (s.decrement l a).Canonical := by
  unfold State.decrement
  split
  · split
    · exact h.notice
    · exact h.writeNum
  · split
    · exact h.freeze
    · exact h.notice

theorem State.Canonical.finishZero (h : s.Canonical) : (s.finishZero l).Canonical := (h.ite h.decrement.decrement).dropLaunch.countCompleted

theorem State.Canonical.readEntry (h : s.Canonical) : (s.readEntry age t).Canonical := by
  unfold State.readEntry
  split
  · exact h
  · split
    · exact h
    · split
      · exact h.refuse
      · split
        · exact h.frontFault
        · exact h.refuse
        · exact h.mapL

theorem State.Canonical.readEntries (h : s.Canonical) : (s.readEntries age).Canonical := by
  unfold State.readEntries
  split
  · split
    · exact h.foldl (fun _ _ h => h.readEntry)
    · exact h
  · exact h

theorem State.Canonical.makeReady (h : s.Canonical) : (s.makeReady l).Canonical := by
  unfold State.makeReady
  extract_lets
  split
  · exact h.finishZero
  · exact h.mapL.readEntries

theorem State.Canonical.enqueue (h : s.Canonical) : (s.enqueue slot bs).Canonical := by
  unfold State.enqueue
  extract_lets
  split
  · exact h.setCtx.update.makeReady
  · exact h.setCtx.update

theorem State.Canonical.hostPacket (h : s.Canonical) : (s.hostPacket slot bs).Canonical := by
  unfold State.hostPacket
  split
  · exact h.setCtx.notice
  · split
    · exact h.enqueue
    · exact h.setCtx.update.notice.countCompleted

theorem State.Canonical.hostPacketBody (h : s.Canonical) : (hostPacketBody slot off bs s).Canonical := by
  unfold Machine.hostPacketBody
  extract_lets
  split
  · exact h.setCtx
  · split
    · exact h.setCtx
    · exact h.hostPacket

theorem State.Canonical.pollDeps (h : s.Canonical) : (s.pollDeps l is).Canonical := by
  induction is generalizing s with
  | nil =>
    unfold State.pollDeps
    split
    · split
      · exact h.makeReady
      · exact h
    · exact h
  | cons i is ih =>
    unfold State.pollDeps
    split
    · exact ih h
    · split
      · exact ih h.mapL
      · exact ih h
      · split
        · exact h.freeze
        · exact h.refuse

theorem State.Canonical.dependencePollBody (h : s.Canonical) : SomeHolds State.Canonical (dependencePollBody age s) := by
  unfold Machine.dependencePollBody
  split
  · split
    · trivial
    · exact h.pollDeps
  · trivial

theorem State.Canonical.checkDesc (h : s.Canonical) : (s.checkDesc l).Canonical := by
  unfold State.checkDesc
  split
  · split
    · exact h.freeze
    · exact h.refuse
  · split
    · exact h.mapL
    · exact h.refuse

theorem State.Canonical.beginMeasure (h : s.Canonical) : (s.beginMeasure l).Canonical := by
  unfold State.beginMeasure
  extract_lets
  split
  · exact h
  · exact h.setCtx

theorem State.Canonical.startTeam (h : s.Canonical) : (s.startTeam l d cn t f).Canonical := h.dropTiles.setCtx.beginMeasure.mapL.readEntries

theorem State.Canonical.checkDescs (h : s.Canonical) : (s.checkDescs pt rnd).Canonical := h.foldl (fun _ _ h => h.checkDesc)

theorem State.Canonical.noteMaps (h : s.Canonical) : (s.noteMaps ages).Canonical := by
  unfold State.noteMaps
  dsimp only
  refine h.foldl fun _ _ ht => ?_
  split
  · split
    · exact ht
    · exact ht.setCtx.mapL
  · exact ht

theorem State.Canonical.noteRoom (h : s.Canonical) : (s.noteRoom rnd pt).Canonical := h.update

theorem State.Canonical.offerCluster (h : s.Canonical) : SomeHolds State.Canonical (s.offerCluster cn rnd) := by
  unfold State.offerCluster
  extract_lets
  split
  · trivial
  · split
    · exact h.checkDescs.update.noteMaps.noteRoom.update.startTeam
    · split
      · trivial
      · exact h.checkDescs.update.noteMaps.noteRoom

theorem State.Canonical.badDescRead (h : s.Canonical) : SomeHolds State.Canonical (s.badDescRead cn) := by
  unfold State.badDescRead
  extract_lets
  split
  · trivial
  · split
    · exact h.countEcc.refuse
    · trivial

theorem State.Canonical.teamDispatchBody (h : s.Canonical) : SomeHolds State.Canonical (teamDispatchBody cn ecc s) := by
  unfold Machine.teamDispatchBody
  split
  · exact h.badDescRead
  · exact h.offerCluster

theorem State.Canonical.priorityAgingBody (h : s.Canonical) : SomeHolds State.Canonical (priorityAgingBody age s) := by
  unfold Machine.priorityAgingBody
  split
  · extract_lets
    split
    · exact h.mapL
    · trivial
  · trivial

theorem State.Canonical.placementTimeoutBody (h : s.Canonical) : SomeHolds State.Canonical (placementTimeoutBody age s) := by
  unfold Machine.placementTimeoutBody
  split
  · split
    · exact h.mapL
    · trivial
  · trivial

theorem State.Canonical.intensityBody (h : s.Canonical) : SomeHolds State.Canonical (intensityBody slot kdesc n link s) := by
  unfold Machine.intensityBody
  extract_lets
  split
  · trivial
  · extract_lets
    split
    · trivial
    · exact h.setCtx.update

theorem State.Canonical.testTask (h : s.Canonical) : SomeHolds State.Canonical (s.testTask l t) := by
  unfold State.testTask
  split
  · trivial
  · split
    · exact h.frontFault
    · exact h.frontFault
    · extract_lets
      split
      · trivial
      · exact h.setCtx

theorem State.Canonical.taskTestBody (h : s.Canonical) : SomeHolds State.Canonical (taskTestBody age t s) := by
  unfold Machine.taskTestBody
  split
  · split
    · trivial
    · split
      · exact h.checkDesc
      · exact h.testTask
  · trivial

theorem State.Canonical.takeTask (h : s.Canonical) : SomeHolds State.Canonical (s.takeTask cn slot r) := by
  unfold State.takeTask
  split
  · trivial
  · split
    · trivial
    · exact SomeHolds.map fun _ => h.setCtx.startTeam

theorem State.Canonical.taskTakeBody (h : s.Canonical) : SomeHolds State.Canonical (taskTakeBody rnd cn slot s) := by
  unfold Machine.taskTakeBody
  split
  · split
    · exact h.takeTask
    · trivial
  · trivial

theorem State.Canonical.taskStealBody (h : s.Canonical) : SomeHolds State.Canonical (taskStealBody rnd cn slot s) := by
  unfold Machine.taskStealBody
  split
  · trivial
  · split
    · trivial
    · split
      · trivial
      · split
        · trivial
        · split
          · exact h.takeTask.of ‹_›
          · exact h.setCtx

theorem State.Canonical.releaseTeam (h : s.Canonical) : (s.releaseTeam t flops).Canonical := (h.addFlops.foldl (fun _ _ h => h.mapQueue)).update

theorem State.Canonical.checkDrained (h : s.Canonical) : (s.checkDrained slot).Canonical := by
  unfold State.checkDrained
  extract_lets
  split
  · exact h.setCtx
  · exact h

theorem State.Canonical.teamRetirementBody (h : s.Canonical) : SomeHolds State.Canonical (teamRetirementBody tag s) := by
  unfold Machine.teamRetirementBody
  split
  · trivial
  · split
    · exact h.releaseTeam.mapL.checkDrained
    · trivial

theorem State.Canonical.signal (h : s.Canonical) : (s.signal l done).Canonical := (h.ite h.decrement).mapL

theorem State.Canonical.signalBody (h : s.Canonical) : SomeHolds State.Canonical (signalBody age done s) := by
  unfold Machine.signalBody
  split
  · split
    · exact h.signal
    · trivial
  · trivial

theorem State.Canonical.launchCompletionBody (h : s.Canonical) : SomeHolds State.Canonical (launchCompletionBody age s) := by
  unfold Machine.launchCompletionBody
  split
  · split
    · exact h.dropLaunch.countCompleted
    · trivial
  · trivial

theorem State.Canonical.image (h : s.Canonical) : (s.image k n bs).Canonical :=
  ⟨Memory.wf_setAll _ (Memory.wf_filter _ h.mem), h.tiles⟩

theorem State.Canonical.writeGroupRecord (h : s.Canonical) : (s.writeGroupRecord g).Canonical := h.writeFrame.image

theorem State.Canonical.writeTeamRecord (h : s.Canonical) : (s.writeTeamRecord t).Canonical := by
  unfold State.writeTeamRecord
  extract_lets
  split
  · exact ((h.image.ite h).image.image.foldl (fun _ _ h => h.writeBytes)).update.image
  · exact ((h.image.ite h).image.image.foldl (fun _ _ h => h.writeBytes)).update

theorem State.Canonical.freeTeamRecord (h : s.Canonical) : (s.freeTeamRecord t).Canonical := by
  unfold State.freeTeamRecord
  dsimp only
  split
  · exact (h.image.ite h).image
  · split
    · exact h.image
    · exact h

theorem State.Canonical.saveTeam (h : s.Canonical) : (s.saveTeam t).Canonical := by
  unfold State.saveTeam
  extract_lets sv s1 out
  have h1 : s1.Canonical := h.foldl fun _ _ h => h.writeGroupRecord
  have ho : OkHolds State.Canonical out := by
    refine OkHolds.foldl h1 fun x g hx => ?_
    split
    · trivial
    · split
      · exact (State.Canonical.switchOut hx).of ‹_›
      · trivial
  clear_value out
  split
  · split
    · exact h1.regFault
    · exact h1
  · exact (ho.of rfl).writeTeamRecord.dropKvAt.setCtx.releaseTeam

theorem State.Canonical.settleFront (h : s.Canonical) : (s.settleFront).Canonical := h.update

theorem State.Canonical.leave (h : s.Canonical) : (s.leave slot).Canonical := h.update

theorem State.Canonical.saveReady (h : s.Canonical) : (s.saveReady).Canonical :=
  (h.foldl (fun _ _ h => h.saveTeam.ite h)).settleFront.foldl (fun _ _ h => h.checkDrained)

theorem State.Canonical.deliverPend (h : s.Canonical) : (s.deliverPend gi).Canonical := by
  unfold State.deliverPend
  split
  · exact h
  · split
    · split
      · exact h.setG.takeTrap
      · exact h
    · exact h

theorem State.Canonical.resumeLoad (h : s.Canonical) : (s.resumeLoad gi old o).Canonical := by
  unfold State.resumeLoad
  split
  · exact h.update.mapG
  · exact h.inject

theorem State.Canonical.resumeGroup (h : s.Canonical) : (s.resumeGroup gi old).Canonical := by
  unfold State.resumeGroup
  split
  · exact h
  · split
    · exact (h.setG.foldl (fun _ _ h => h.resumeLoad)).deliverPend
    · exact h.regFault

theorem State.Canonical.putBack (h : s.Canonical) : (s.putBack t f).Canonical :=
  ((h.freeTeamRecord.setCtx.image.update.foldl fun _ _ h => h.setTile).foldl fun _ _ h => h.mapQueue).update.admitLathe.foldl
    fun _ _ h => h.resumeGroup

theorem State.Canonical.checkRestored (h : s.Canonical) : (s.checkRestored slot).Canonical := by
  unfold State.checkRestored
  extract_lets
  split
  · exact h.setCtx
  · exact h

theorem State.Canonical.tryRestore (h : s.Canonical) : SomeHolds State.Canonical (s.tryRestore rnd t) := by
  unfold State.tryRestore
  split
  · exact SomeHolds.map fun _ => h.putBack.checkRestored
  · trivial

theorem State.Canonical.teamRestoreBody (h : s.Canonical) : SomeHolds State.Canonical (teamRestoreBody tag s) := by
  unfold Machine.teamRestoreBody
  split
  · exact h.tryRestore
  · trivial

theorem State.Canonical.preempt (h : s.Canonical) : (s.preempt slot level).Canonical := by
  unfold State.preempt
  extract_lets
  split
  · exact h.setCtx.checkDrained
  · exact h.setCtx.update.saveReady

theorem State.Canonical.restore (h : s.Canonical) : (s.restore slot).Canonical :=
  (h.setCtx.foldl (fun _ _ h => h.ite (h.tryRestore.getD h))).checkRestored

theorem State.Canonical.forceReset (h : s.Canonical) : (s.forceReset slot).Canonical :=
  ((h.foldl (fun _ _ h => h.releaseTeam)).dropKv.setCtx.foldl (fun _ _ h => h.dropLaunch.post)).settleFront

theorem State.Canonical.beginReset (h : s.Canonical) : (s.beginReset slot).Canonical := by
  unfold State.beginReset
  extract_lets
  split
  · exact h.setCtx
  · exact h.forceReset

theorem State.Canonical.servePcmd (h : s.Canonical) : (s.servePcmd slot).Canonical := by
  unfold State.servePcmd
  extract_lets
  split
  · exact h
  · split
    · exact h
    · split
      · exact h.setCtx.restore
      · split
        · exact h.setCtx.beginReset
        · exact h.setCtx.preempt

theorem State.Canonical.pcmdBody (h : s.Canonical) : (pcmdBody slot k s).Canonical := by
  unfold Machine.pcmdBody
  extract_lets
  split
  · exact h.setCtx
  · exact h.setCtx.servePcmd

theorem State.Canonical.pcmdNoneBody (h : s.Canonical) : (pcmdNoneBody slot s).Canonical := h.setCtx

theorem State.Canonical.forcedResetBody (h : s.Canonical) : SomeHolds State.Canonical (forcedResetBody slot s) := by
  unfold Machine.forcedResetBody
  extract_lets
  split
  · exact h.forceReset
  · trivial

theorem State.Canonical.without (h : s.Canonical) : (s.without ts).Canonical := h.update

theorem State.Canonical.frontPreemptBody (h : s.Canonical) : SomeHolds State.Canonical (frontPreemptBody age s) := by
  unfold Machine.frontPreemptBody
  split
  · trivial
  · split
    · trivial
    · extract_lets
      split
      · trivial
      · exact SomeHolds.map fun _ => h.update.saveReady

/-! ### Replies, retries, commit rounds, contexts, the host's side -/

theorem State.Canonical.launchReply (h : s.Canonical) : (s.launchReply gi g o bs px).Canonical := by
  unfold State.launchReply
  split
  · exact h.lateFault
  · extract_lets
    split
    · exact h.setG
    · exact h.setG.enqueue

theorem State.Canonical.launchReplyBody (h : s.Canonical) : SomeHolds State.Canonical (launchReplyBody gi k s) := by
  unfold Machine.launchReplyBody
  split
  · split
    · split
      · exact h.launchReply
      · trivial
    · trivial
  · trivial

theorem State.Canonical.timerFireBody (h : s.Canonical) : SomeHolds State.Canonical (timerFireBody gi s) := by
  unfold Machine.timerFireBody
  split
  · split
    · exact h.takeTimer
    · trivial
  · trivial

theorem State.Canonical.takeTrapBody (h : s.Canonical) : SomeHolds State.Canonical (takeTrapBody gi s) := by
  unfold Machine.takeTrapBody
  split
  · split
    · split
      · trivial
      · exact h.takeTrap
    · trivial
  · trivial

theorem State.Canonical.replayableStopBody (h : s.Canonical) : SomeHolds State.Canonical (replayableStopBody gi s) := by
  unfold Machine.replayableStopBody
  split
  · split
    · split
      · exact h.postReplayable
      · trivial
    · trivial
  · trivial

theorem State.Canonical.cmd (h : s.Canonical) : SomeHolds State.Canonical (recordRetryBody.cmd slot k s) := by
  unfold recordRetryBody.cmd
  split
  · split
    · extract_lets
      split
      · exact h.postCmd
      · trivial
    · trivial
  · trivial

theorem State.Canonical.recordRetryBody (h : s.Canonical) : SomeHolds State.Canonical (recordRetryBody slot k s) := by
  unfold Machine.recordRetryBody
  split
  · split
    · split
      · exact h.replayableStopBody.of ‹_›
      · exact h.cmd
    · exact h.cmd
  · exact h.cmd

theorem State.Canonical.msixDeferredBody (h : s.Canonical) : SomeHolds State.Canonical (msixDeferredBody slot s) := by
  unfold Machine.msixDeferredBody
  extract_lets
  split
  · exact h.setCtx
  · trivial

theorem State.Canonical.retryLoads (h : s.Canonical) : (s.retryLoads gi).Canonical := by
  unfold State.retryLoads
  split
  · exact h
  · exact h.foldl (fun _ _ h => h.mapG.inject)

theorem State.Canonical.retryGroup (h : s.Canonical) : (s.retryGroup gi).Canonical := h.mapG.retryLoads.deliverPend

theorem State.Canonical.retryCmd (h : s.Canonical) : (s.retryCmd cn e c).Canonical := h.putCmd.tuneOwner

theorem State.Canonical.mapSavedCmds (h : s.Canonical) : (s.mapSavedCmds slot f).Canonical := h.setCtx

theorem State.Canonical.retrySavedCmd (h : s.Canonical) : (s.retrySavedCmd slot k).Canonical := h.mapSavedCmds

theorem State.Canonical.failSavedCmd (h : s.Canonical) : (s.failSavedCmd slot k).Canonical := by
  unfold State.failSavedCmd
  split
  · exact h.mapSavedCmds.mapOwner
  · exact h

theorem State.Canonical.mapSaved (h : s.Canonical) : (s.mapSaved slot seq k f).Canonical := h.setCtx

theorem State.Canonical.answered (h : s.Canonical) : (s.answered slot r).Canonical := h.setCtx

theorem State.Canonical.answer (h : s.Canonical) (hh : ∀ (t : State) gi, t.Canonical → (here t gi).Canonical)
    (hc : ∀ (t : State) cn e c, t.Canonical → (byCmd t cn e c).Canonical)
    (hs : ∀ (t : State) k, t.Canonical → (bySaved t k).Canonical) :
    SomeHolds State.Canonical (s.answer slot idx here saved byCmd bySaved) := by
  unfold State.answer
  extract_lets
  split
  · trivial
  · split
    · trivial
    · extract_lets
      split
      · split
        · exact hh _ _ h.answered
        · exact h.answered.mapSaved
      · split
        · exact hc _ _ _ _ h.answered
        · exact hs _ _ h.answered
      · exact h.answered

theorem State.Canonical.replayRetryBody (h : s.Canonical) : SomeHolds State.Canonical (replayRetryBody slot k s) :=
  h.answer (fun _ _ h => h.retryGroup) (fun _ _ _ _ h => h.retryCmd) fun _ _ h => h.retrySavedCmd

theorem State.Canonical.failGroup (h : s.Canonical) : (s.failGroup gi).Canonical := by
  unfold State.failGroup
  split
  · exact h
  · split
    · exact h.setG.takeTrap.deliverPend
    · exact h

theorem State.Canonical.failCmd (h : s.Canonical) : (s.failCmd cn e c).Canonical := h.failResult.failStream.endCmd.tuneOwner

theorem State.Canonical.replayFailBody (h : s.Canonical) : SomeHolds State.Canonical (replayFailBody slot k s) :=
  h.answer (fun _ _ h => h.failGroup) (fun _ _ _ _ h => h.failCmd) fun _ _ h => h.failSavedCmd

theorem State.Canonical.quantumEndBody (h : s.Canonical) : SomeHolds State.Canonical (quantumEndBody gi s) := by
  unfold Machine.quantumEndBody
  split
  · split
    · exact h.setG
    · trivial
  · trivial

theorem State.Canonical.allSteps (h : s.Canonical) : (State.allSteps n s gi k).Canonical := by
  induction n generalizing s with
  | zero => exact h
  | succ n ih =>
    unfold State.allSteps
    split
    · split
      · exact h
      · exact ih h.stepOp
    · exact h

theorem State.Canonical.spindleAll (h : s.Canonical) : (s.spindleAll).Canonical := h.foldl (fun _ _ h => h.spnComplete.ite h)

theorem State.Canonical.commitKiln (h : s.Canonical) : (s.commitKiln gi k n).Canonical := by
  unfold State.commitKiln
  extract_lets
  split
  · split
    · exact h.allSteps.spindleAll.lateFault
    · exact h.allSteps.spindleAll.replyOp
  · exact h.allSteps.spindleAll

theorem State.Canonical.drainTo (h : s.Canonical) : (State.drainTo n s cn k).Canonical := by
  induction n generalizing s with
  | zero => exact h
  | succ n ih =>
    unfold State.drainTo
    extract_lets
    split
    · exact h
    · split
      · exact h
      · exact ih h.latheWork.admitLathe

theorem State.Canonical.commitAccept (h : s.Canonical) : (s.commitAccept gi g o e c).Canonical := by
  unfold State.commitAccept
  extract_lets
  split
  · split
    · exact h.setG
    · exact h.setG.mapQueue.acceptStream
  · exact h.setG.mapQueue
  · exact h.setG.mapQueue
  · exact h.setG.mapQueue.runGather.settleCmd
  · exact h.setG.mapQueue.runGather.settleCmd
  · exact h.setG
  · split
    · have hl := (h.mapQueue (cn := g.gid.cluster) (e := .lathe) (f := (· ++ [c]))).admitLathe (cn := g.gid.cluster)
      split
      · exact hl.drainTo
      · exact hl
    · exact h.setG.mapQueue

theorem State.Canonical.commitAt (h : s.Canonical) : (s.commitAt gi k).Canonical := by
  unfold State.commitAt
  split
  · exact h
  · split
    · exact h.setG.performStore
    · exact h.setG.performStore
    · exact h.setG.fetest
    · exact h.commitKiln
    · split
      exact (h.deliverFlit.ofFst ‹_›).mapG
    · exact h.launchReply
    · exact h.commitAccept
    · exact h.setG
    · exact h

theorem State.Canonical.commitOp (h : s.Canonical) : (s.commitOp gi k).Canonical := by
  unfold State.commitOp
  split
  · exact h
  · exact h.withLines (fun _ h => h.commitAt)

theorem State.Canonical.commitGroup (h : s.Canonical) : (s.commitGroup gi).Canonical := by
  unfold State.commitGroup
  split
  · exact h
  · exact (h.setG.foldl (fun _ _ h => h.commitOp)).takeTrap

theorem State.Canonical.settleFresh (h : s.Canonical) : (s.settleFresh gis).Canonical := h.write

theorem State.Canonical.roundSignals (h : s.Canonical) : (s.roundSignals slot).Canonical := by
  refine h.foldl fun t l ht => ?_
  split
  · exact ht.finishZero.ite ht
  · extract_lets u
    have hu : u.Canonical := by
      unfold u
      split
      · exact ht.signal.ite ht
      · exact ht
    split
    · exact hu.signal.ite hu
    · exact hu

theorem State.Canonical.roundSaves (h : s.Canonical) : (s.roundSaves slot).Canonical :=
  h.leave.saveReady.foldl fun _ _ h => h.tryRestore.getD h

theorem State.Canonical.roundReset (h : s.Canonical) : (s.roundReset slot).Canonical := by
  unfold State.roundReset
  split
  · exact h.forceReset
  · exact h

theorem State.Canonical.roundPackets (h : s.Canonical) : (s.roundPackets slot).Canonical := h.setCtx.foldl (fun _ _ h => h.hostPacket)

theorem State.Canonical.untilNone (h : s.Canonical) (hf : ∀ t, t.Canonical → SomeHolds State.Canonical (f t)) : (untilNone f n s).Canonical := by
  induction n generalizing s with
  | zero => exact h
  | succ n ih =>
    unfold Machine.untilNone
    split
    · exact ih ((hf _ h).of ‹_›)
    · exact h

theorem State.Canonical.roundTests (h : s.Canonical) : (s.roundTests slot).Canonical := by
  refine h.foldl fun t l ht => State.Canonical.foldl (ht.checkDesc.ite ht) fun u x hu => ?_
  split
  · split
    · exact hu.testTask.getD hu
    · exact hu
  · exact hu

theorem State.Canonical.roundDispatch (h : s.Canonical) : (s.roundDispatch slot).Canonical := by
  unfold State.roundDispatch
  extract_lets each waits s1 s2 s3
  have h1 : s1.Canonical := (h.untilNone fun _ h => SomeHolds.findSome fun _ => h.offerCluster).ite h
  have h2 : s2.Canonical := h1.roundTests
  have h3 : s3.Canonical := h2.foldl fun _ _ h => h.untilNone fun _ h => h.taskTakeBody
  split
  · exact h2
  · exact h3.foldl fun _ _ h => h.taskStealBody.getD h

theorem State.Canonical.commitRoundBody (h : s.Canonical) : SomeHolds State.Canonical (commitRoundBody slot s) := by
  unfold Machine.commitRoundBody
  extract_lets
  split
  · trivial
  · exact (h.settleFresh.foldl (fun _ _ h => h.commitGroup)).update.roundSignals.roundReset.roundSaves.roundPackets.roundDispatch

theorem State.Canonical.initTq (h : s.Canonical) : (s.initTq slot).Canonical := h.writeBytes

theorem State.Canonical.activate (h : s.Canonical) : (activate slot s).Canonical := by
  unfold Machine.activate
  extract_lets
  split
  · exact h
  · split
    · exact h.setCtx
    · split
      · exact h.setCtx
      · split
        · exact h.setCtx
        · exact h.setCtx.initTq

theorem State.Canonical.closeCtx (h : s.Canonical) : (s.closeCtx slot).Canonical :=
  (h.foldl (fun _ _ h => h.foldl (fun _ _ h => h.mapQueue))).setCtx.update.settleFront

theorem State.Canonical.dropTlb (h : s.Canonical) : (s.dropTlb p).Canonical := h.update

theorem State.Canonical.freeCtx (h : s.Canonical) : (s.freeCtx slot).Canonical := (h.foldl (fun _ _ h => h.releaseTeam)).dropKv.setCtx.dropTlb.update

theorem State.Canonical.releaseBody (h : s.Canonical) : SomeHolds State.Canonical (releaseBody slot s) := by
  unfold Machine.releaseBody
  split
  · trivial
  · split
    · trivial
    · exact h.freeCtx
  · exact h.closeCtx

theorem State.Canonical.invalidate (h : s.Canonical) : (s.invalidate slot npage all).Canonical := by
  unfold State.invalidate
  split
  · exact h
  · extract_lets
    split
    · exact h.setCtx
    · exact h.setCtx.dropTlb

theorem State.Canonical.invalidationBody (h : s.Canonical) : (invalidationBody slot npage s).Canonical := h.invalidate

theorem State.Canonical.invalidateAllBody (h : s.Canonical) : (invalidateAllBody slot npage s).Canonical := h.invalidate

theorem State.Canonical.ctxWrite (h : s.Canonical) : (s.ctxWrite fn j f).Canonical := h.atSlot fun _ => h.setCtx

theorem State.Canonical.ccbWrite (h : s.Canonical) : (s.ccbWrite fn pfOnly j f).Canonical := h.ctxWrite

theorem State.Canonical.whenPf (h : s.Canonical) (ht : t.Canonical) : (whenPf fn s t).Canonical := by
  unfold Machine.whenPf
  split
  · exact ht
  · exact h

theorem State.Canonical.invctlWrite (h : s.Canonical) : (s.invctlWrite slot v).Canonical := by
  unfold State.invctlWrite
  split
  · exact h.invalidate
  · exact h.setCtx

theorem State.Canonical.registerWriteBody (h : s.Canonical) : (registerWriteBody fn r v s).Canonical := by
  unfold Machine.registerWriteBody
  extract_lets
  split
  · exact h.ccbWrite
  · exact h.ccbWrite
  · exact h.ccbWrite
  · exact h.ccbWrite
  · exact h.ccbWrite
  · exact h.ccbWrite
  · exact h.ccbWrite
  · exact h.ccbWrite
  · exact h.ccbWrite
  · exact h.ccbWrite
  · exact h.ccbWrite
  · exact h.ccbWrite
  · exact h.ctxWrite
  · exact h.atSlot (fun _ => h.invctlWrite)
  · exact h.ctxWrite
  · exact h.ctxWrite
  · exact h.ctxWrite
  · exact h.ctxWrite
  · exact h.ctxWrite
  · exact h.whenPf h.update
  · exact h.whenPf h.update
  · exact h.update
  · exact h.whenPf h.update
  · exact h.update
  · exact h.whenPf (h.update.ite h)
  · exact h

theorem State.Canonical.portownBody (h : s.Canonical) : (portownBody cn p v s).Canonical := by
  unfold Machine.portownBody
  extract_lets
  split
  · exact h
  · exact h.setPort

theorem State.Canonical.writeHost (h : s.Canonical) : (s.writeHost a bs).Canonical := h.write

theorem State.Canonical.hostAccessBody (h : s.Canonical) : (hostAccessBody fn op s).Canonical := by
  unfold Machine.hostAccessBody
  extract_lets
  split
  · split
    · exact h.writeBytes
    · exact h
  · split
    · exact h.update
    · exact h
  · exact h.update
  · exact h.update
  · exact h.update
  · exact h.update
  · exact h.update
  · exact h.update
  · exact h.update
  · exact h.update
  · exact h.update
  · exact h.update
  · exact h.update
  · exact h.update
  · exact h.writeHost
  · exact h.writeBytes

theorem State.Canonical.resyncBody (h : s.Canonical) : (resyncBody ok s).Canonical := by
  unfold Machine.resyncBody
  extract_lets
  split
  · exact h.update.writeHost
  · exact h.update

theorem State.Canonical.firmwareBody (h : s.Canonical) : SomeHolds State.Canonical (firmwareBody s) := by
  unfold Machine.firmwareBody
  extract_lets
  split
  · trivial
  · split
    · exact h.update
    · split
      · exact h.update
      · split <;> exact h.update

theorem State.Canonical.quoteBody (h : s.Canonical) : SomeHolds State.Canonical (quoteBody fn go s) := by
  unfold Machine.quoteBody
  split
  · trivial
  · split
    · exact h.update
    · split
      · trivial
      · exact h.update

theorem State.Canonical.peerAccessBody (h : s.Canonical) : (peerAccessBody slot va op s).Canonical := by
  unfold Machine.peerAccessBody
  extract_lets remote step
  have hr : remote.Canonical := h.update
  have hs : ∀ n f, (step n f).Canonical := by
    intro n f
    unfold step
    split
    · split
      · exact hr
      · exact State.Canonical.update h.writeNum
    · exact hr
  clear_value remote step
  split
  · split
    · exact h.update
    · exact hr
  · split
    · exact State.Canonical.update h.write
    · exact hr
  · exact hs _ _
  · exact hs _ _
  · exact hs _ _

theorem State.Canonical.linkFailureBody (h : s.Canonical) : SomeHolds State.Canonical (linkFailureBody i s) := by
  unfold Machine.linkFailureBody
  split
  · trivial
  · split
    · trivial
    · refine State.Canonical.foldl (State.Canonical.foldl h.update fun u x h => ?_)
        fun _ _ h => h.foldl fun _ _ h => h.linkFault
      split
      · exact h.lateFault
      · exact h

theorem State.Canonical.trainingBody (h : s.Canonical) : (trainingBody p ln dev retrain s).Canonical := h.update

theorem State.Canonical.cxlBody (h : s.Canonical) : (cxlBody p st error s).Canonical := h.update

theorem State.Canonical.patrolBody (h : s.Canonical) : SomeHolds State.Canonical (patrolBody stack corrected uncorrected s) := by
  unfold Machine.patrolBody
  extract_lets
  split
  · trivial
  · exact h.update

theorem State.Canonical.dirtyBody (h : s.Canonical) : SomeHolds State.Canonical (dirtyBody pa old s) := by
  unfold Machine.dirtyBody
  split
  · trivial
  · exact ⟨Memory.wf_setBytes _ _ h.mem, h.tiles⟩

theorem State.Canonical.afterReset (h : s.Canonical) : s.afterReset.Canonical :=
  ⟨h.mem, List.Pairwise.nil, fun _ hp => absurd hp (List.not_mem_nil)⟩

theorem State.Canonical.lost (h : s.Canonical) : Memory.wf (lostMem s.mem) = true := Memory.wf_filter _ h.mem

theorem State.Canonical.resetBody (h : s.Canonical) : (resetBody s).Canonical := h.afterReset

theorem State.Canonical.powerDownBody (h : s.Canonical) : (powerDownBody s).Canonical := ⟨h.lost, h.afterReset.tiles⟩

theorem State.Canonical.powerUpBody (h : s.Canonical) : SomeHolds State.Canonical (powerUpBody s) := by
  unfold Machine.powerUpBody
  split
  · trivial
  · exact ⟨h.lost, h.afterReset.tiles⟩

theorem State.Canonical.lineFor (h : s.Canonical) : OkHolds (·.2.Canonical) (s.lineFor g c) := by
  unfold State.lineFor
  split
  · exact h
  · split
    · trivial
    · exact h.setG.noteTlb

theorem State.Canonical.aim (h : s.Canonical) : (s.aim c pc).Canonical := h.update

theorem State.Canonical.issueSelectionBody (h : s.Canonical) : SomeHolds State.Canonical (issueSelectionBody cn pt sl s) :=
  SomeHolds.map fun _ => h.update

theorem State.Canonical.lineEntryBody (h : s.Canonical) : SomeHolds State.Canonical (lineEntryBody gi p s) := by
  unfold Machine.lineEntryBody
  split
  · trivial
  · extract_lets
    split
    · trivial
    · split
      · exact h.lineFor.of ‹_›
      · trivial
      · exact h.aim.stop

/-! ### One instruction or event -/

theorem SomeHolds.bind {α β : Type} {P : β → Prop} {f : α → Option β} {o : Option α} (h : ∀ x, SomeHolds P (f x)) : SomeHolds P (o.bind f) := by
  cases o with
  | none => trivial
  | some x => exact h x

theorem State.Canonical.execAcknowledgement (h : s.Canonical) : NextHolds State.Canonical (execAcknowledgement k n s) := by
  refine h.eventOf ?_
  split
  · exact h.acknowledgementBody.of ‹_›
  · exact h.collAckBody

/-- An instruction keeps the canonical form when what it does after the checks does. -/
theorem State.Canonical.issue (h : s.Canonical) (hb : ∀ {e t}, t.Canonical → OkHolds State.Canonical (body e t)) :
    NextHolds State.Canonical (issue i body s) := by
  unfold Machine.issue
  split
  · trivial
  · split
    · exact h.stop
    · split
      · exact h.stop
      · next hk => exact State.Canonical.report (State.Canonical.mapG ((hb h.setG).of hk))

/-- An effect on the group alone keeps the canonical form. -/
theorem State.Canonical.issueGroup (h : s.Canonical) : NextHolds State.Canonical (Machine.issue i (Machine.groupBody f) s) :=
  h.issue fun h => h.groupBody

theorem State.Canonical.exec (h : s.Canonical) : NextHolds State.Canonical (exec i s) := by
  cases i with
  | bra => exact h.issue fun h => h.braBody
  | brx => exact h.issue fun h => h.jumpBody
  | call => exact h.issue fun h => h.jumpBody
  | ret => exact h.issue fun h => h.jumpBody
  | recon => exact h.issue fun h => h.reconBody
  | exit => exact h.issue fun h => h.exitBody
  | nop => exact h.issue (body := Machine.nopBody) fun h => h.nopBody
  | yield => exact h.issue fun h => h.yieldBody
  | ldp => exact h.issue fun h => h.loadBody
  | stp => exact h.issue fun h => h.storeBody
  | lds => exact h.issue fun h => h.loadBody
  | sts => exact h.issue fun h => h.storeBody
  | ldd => exact h.issue fun h => h.loadBody
  | std => exact h.issue fun h => h.storeBody
  | ldg => exact h.issue fun h => h.loadBody
  | stg => exact h.issue fun h => h.storeBody
  | ldx => exact h.issue fun h => h.loadBody
  | stx => exact h.issue fun h => h.storeBody
  | ldh => exact h.issue fun h => h.loadBody
  | sth => exact h.issue fun h => h.storeBody
  | ldq => exact h.issue fun h => h.ldqBody
  | qbpush => exact h.issue fun h => h.qbpushBody
  | qbpop => exact h.issue fun h => h.qbpopBody
  | qsync => exact h.issue fun h => h.qsyncBody
  | qstat => exact h.issue fun h => h.qstatBody
  | pref => exact h.issue (body := Machine.nopBody) fun h => h.nopBody
  | acp => exact h.issue fun h => h.acpBody
  | bclose => exact h.issue fun h => h.bcloseBody
  | bwait => exact h.issue fun h => h.bwaitBody
  | fetest => exact h.issue fun h => h.fetestBody
  | kvlook => exact h.issue fun h => h.kvlookBody
  | kvgather => exact h.issue fun h => h.kvgatherBody
  | kvappend => exact h.issue fun h => h.kvappendBody
  | kvshare => exact h.issue fun h => h.kvshareBody
  | atom => exact h.issue fun h => h.atomBody
  | red => exact h.issue fun h => h.redBody
  | cas => exact h.issue fun h => h.casBody
  | cas2 => exact h.issue fun h => h.casBody
  | obinit => exact h.issue fun h => h.obinitBody
  | ann => exact h.issue fun h => h.annBody
  | help => exact h.issue fun h => h.helpBody
  | barinit => exact h.issue fun h => h.barBody
  | barv => exact h.issue fun h => h.barBody
  | bardrop => exact h.issue fun h => h.barBody
  | btx => exact h.issue fun h => h.barBody
  | btest => exact h.issue fun h => h.btestBody
  | sred => exact h.issue fun h => h.sredBody
  | msend => exact h.issue fun h => h.msendBody
  | mrecv => exact h.issue fun h => h.mrecvBody
  | mstat => exact h.issue fun h => h.mstatBody
  | park => exact h.issue fun h => h.parkBody
  | xscale => exact h.issue fun h => h.xscaleBody
  | xred => exact h.issue fun h => h.xredBody
  | fence => exact h.issue fun h => h.fenceBody
  | drain => exact h.issue fun h => h.drainBody
  | drainNb => exact h.issue fun h => h.drainNbBody
  | gmma => exact h.issue fun h => h.gmmaBody
  | cvtdxb => exact h.issue fun h => h.cvtdxbBody
  | lmma => exact h.issue fun h => h.lmmaBody
  | lmmv => exact h.issue fun h => h.lmmvBody
  | lzero => exact h.issue fun h => h.lzeroBody
  | lload => exact h.issue fun h => h.lloadBody
  | lstore => exact h.issue fun h => h.lstoreBody
  | lread => exact h.issue fun h => h.lreadBody
  | lcmd => exact h.issue fun h => h.lcmdBody
  | tmatch => exact h.issue fun h => h.tmatchBody
  | tmerge => exact h.issue fun h => h.tmergeBody
  | tunmerge => exact h.issue fun h => h.tunmergeBody
  | smaxr => exact h.issue fun h => h.smaxrBody
  | tmask => exact h.issue fun h => h.tmaskBody
  | launch => exact h.issue fun h => h.launchBody
  | trigger => exact h.issue fun h => h.triggerBody
  | timerAbs => exact h.issue fun h => h.timerAbsBody
  | timerRel => exact h.issue fun h => h.timerRelBody
  | timerOff => exact h.issue fun h => h.timerOffBody
  | qend => exact h.issue fun h => h.qendBody
  | trap => exact h.issue fun h => h.trapBody
  | trapret => exact h.issue fun h => h.trapretBody
  | replay => exact h.issue fun h => h.replayBody
  | rdsr => exact h.issue fun h => h.rdsrBody
  | wrsr => exact h.issue fun h => h.wrsrBody
  | bkpt => exact h.issue fun h => h.bkptBody
  | lineEntry => exact h.eventOf h.lineEntryBody
  | issueSelection => exact h.eventOf h.issueSelectionBody
  | loadCompletion => exact h.eventOf h.loadCompletionBody
  | acknowledgement => exact h.execAcknowledgement
  | ldqDataReturn => exact h.eventOf h.ldqReturnBody
  | registerLineFill => exact h.eventOf h.registerFillBody
  | longLatencyFault => exact h.eventOf h.longLatencyBody
  | kilnStep => exact h.eventOf h.stepBody
  | kilnReply => exact h.eventOf h.kilnReplyBody
  | spindlePhaseCompletion => exact h.eventOf h.spindlePhaseBody
  | msendAnswer => exact h.eventOf h.msendAnswerBody
  | launchReply => exact h.eventOf h.launchReplyBody
  | engineOperation => exact h.eventOf h.engineOperationBody
  | latheKBlock => exact h.eventOf h.latheKBlockBody
  | streamAcceptance => exact h.eventOf h.streamAcceptanceBody
  | streamStep => exact h.eventOf h.streamStepBody
  | trowelCommand => exact h.eventOf h.trowelCommandBody
  | collectiveCompletion => exact h.eventOf h.collectiveBody
  | parkWakeByWrite => exact h.eventOf h.parkEnd
  | parkBoundExpiry => exact h.eventOf h.parkEnd
  | spuriousWakeUp => exact h.eventOf h.parkEnd
  | timerFire => exact h.eventOf h.timerFireBody
  | asyncTimeout => exact h.eventOf h.asyncTimeoutBody
  | memTimeout => exact h.eventOf h.memTimeoutBody
  | takeTrap => exact h.eventOf h.takeTrapBody
  | replayableFaultStop => exact h.eventOf h.replayableStopBody
  | replayableRecordRetry => exact h.eventOf h.recordRetryBody
  | msixDeferredRaise => exact h.eventOf h.msixDeferredBody
  | quantumEnd => exact h.eventOf h.quantumEndBody
  | commitRound => exact h.eventOf h.commitRoundBody
  | hostLaunchPacket => exact State.Canonical.event (h.atSlot fun _ => h.hostPacketBody)
  | dependencePoll => exact h.eventOf h.dependencePollBody
  | teamDispatch => exact h.eventOf h.teamDispatchBody
  | priorityAging => exact h.eventOf h.priorityAgingBody
  | placementMapTimeout => exact h.eventOf h.placementTimeoutBody
  | intensityMeasurementEnd => exact h.eventOf h.intensityBody
  | frontEndPreemption => exact h.eventOf h.frontPreemptBody
  | teamRetirement => exact h.eventOf h.teamRetirementBody
  | launchCompletion => exact h.eventOf h.launchCompletionBody
  | signalDecrement => exact h.eventOf h.signalBody
  | taskEligibilityTest => exact h.eventOf h.taskTestBody
  | taskTake => exact h.eventOf h.taskTakeBody
  | taskSteal => exact h.eventOf h.taskStealBody
  | contextActivation => exact State.Canonical.event (h.atSlot fun _ => h.activate)
  | contextRelease => exact h.eventOf (SomeHolds.bind fun _ => h.releaseBody)
  | invalidation => exact State.Canonical.event (h.atSlot fun _ => h.invalidationBody)
  | invalidateAll => exact State.Canonical.event (h.atSlot fun _ => h.invalidateAllBody)
  | preemptTeamBoundary => exact State.Canonical.event (h.atSlot fun _ => h.pcmdBody)
  | preemptInstructionLevel => exact State.Canonical.event (h.atSlot fun _ => h.pcmdBody)
  | pcmdRestore => exact State.Canonical.event (h.atSlot fun _ => h.pcmdBody)
  | teamRestore => exact h.eventOf h.teamRestoreBody
  | pcmdReset => exact State.Canonical.event (h.atSlot fun _ => h.pcmdBody)
  | pcmdNone => exact State.Canonical.event (h.atSlot fun _ => h.pcmdNoneBody)
  | forcedReset => exact h.eventOf h.forcedResetBody
  | replayRetry => exact h.eventOf (SomeHolds.bind fun _ => h.replayRetryBody)
  | replayFail => exact h.eventOf (SomeHolds.bind fun _ => h.replayFailBody)
  | resync => exact State.Canonical.event h.resyncBody
  | firmwareLoad => exact h.eventOf h.firmwareBody
  | quote => exact h.eventOf h.quoteBody
  | portownWrite => exact State.Canonical.event h.portownBody
  | registerWrite => exact State.Canonical.event h.registerWriteBody
  | peerAccessRequest => exact State.Canonical.event h.peerAccessBody
  | linkFailure => exact h.eventOf h.linkFailureBody
  | patrolPass => exact h.eventOf h.patrolBody
  | dirtyLineDiscard => exact h.eventOf h.dirtyBody
  | powerUp => exact h.eventOf h.powerUpBody
  | deviceReset => exact State.Canonical.event h.resetBody
  | hostAccess => exact State.Canonical.event h.hostAccessBody
  | flitDelivery => exact h.eventOf h.flitDeliveryBody
  | spindleArrival => exact h.eventOf h.stepBody
  | tlantoLinkTraining => exact State.Canonical.event h.trainingBody
  | cxlPortEvent => exact State.Canonical.event h.cxlBody
  | powerDown => exact State.Canonical.event h.powerDownBody
  | _ => exact h.issueGroup

/-! ### A step -/

/-! ### The default order of events (log 1) -/

/-- An event that keeps the canonical form. -/
def Event.Keeps (e : Event) : Prop := ∀ {t : State}, t.Canonical → NextHolds State.Canonical (e t)

theorem opEvent_keeps : Event.Keeps (opEvent s gi o) := by
  unfold Machine.opEvent
  cases o.late with
  | some f => exact fun h => h.eventOf h.longLatencyBody
  | none =>
    dsimp only
    split
    · exact fun h => h.execAcknowledgement
    · exact fun h => h.execAcknowledgement
    · exact fun h => h.execAcknowledgement
    · exact fun h => h.eventOf h.ldqReturnBody
    · split
      · exact fun h => h.eventOf h.stepBody
      · exact fun h => h.eventOf h.stepBody
    · exact fun h => h.eventOf h.kilnReplyBody
    · exact fun h => h.eventOf h.flitDeliveryBody
    · exact fun h => h.eventOf h.msendAnswerBody
    · exact fun h => h.eventOf h.launchReplyBody
    · exact fun h => h.eventOf h.loadCompletionBody

theorem groupEvents_keep (he : e ∈ groupEvents s gi g) : Event.Keeps e := by
  simp only [groupEvents, List.mem_append, List.mem_cons, List.not_mem_nil, or_false, List.mem_flatMap, List.mem_map, or_assoc] at he
  intro t h
  obtain rfl | rfl | rfl | rfl | rfl | he | ⟨p, -, rfl | rfl⟩ | ⟨o, -, rfl⟩ := he
  · exact h.eventOf h.timerFireBody
  · exact h.eventOf h.takeTrapBody
  · exact h.eventOf h.replayableStopBody
  · exact h.eventOf h.quantumEndBody
  · exact h.eventOf h.asyncTimeoutBody
  · split at he
    · obtain rfl := List.mem_singleton.1 he
      exact h.eventOf h.registerFillBody
    · exact absurd he List.not_mem_nil
  · exact h.eventOf h.parkEnd
  · exact h.eventOf h.parkEnd
  · exact opEvent_keeps h

theorem clusterEvents_keep (he : e ∈ clusterEvents k c) : Event.Keeps e := by
  simp only [clusterEvents, List.mem_append, List.mem_map, List.mem_filterMap, or_assoc] at he
  intro t h
  obtain ⟨x, -, rfl⟩ | ⟨x, -, rfl⟩ | ⟨x, -, rfl⟩ | ⟨x, -, rfl⟩ | ⟨x, -, rfl⟩ | he | he | ⟨x, -, he⟩ := he
  · exact h.eventOf h.engineOperationBody
  · exact h.eventOf h.engineOperationBody
  · exact h.eventOf h.engineOperationBody
  · exact h.eventOf h.streamAcceptanceBody
  · exact h.eventOf h.streamStepBody
  · split at he
    · exact absurd he List.not_mem_nil
    · obtain rfl := List.mem_singleton.1 he
      exact h.eventOf h.latheKBlockBody
  · split at he
    · exact absurd he List.not_mem_nil
    · obtain rfl := List.mem_singleton.1 he
      exact h.eventOf h.trowelCommandBody
  · split at he
    · obtain rfl := Option.some.inj he
      exact h.eventOf h.recordRetryBody
    · exact absurd he (by simp)

theorem launchEvents_keep (he : e ∈ launchEvents s l) : Event.Keeps e := by
  simp only [launchEvents, List.mem_append, List.mem_cons, List.not_mem_nil, or_false, or_assoc] at he
  intro t h
  obtain he | rfl | rfl | rfl | rfl | rfl | he := he
  · split at he
    · obtain rfl := List.mem_singleton.1 he
      exact h.eventOf h.dependencePollBody
    · exact absurd he List.not_mem_nil
  · exact h.eventOf h.launchCompletionBody
  · exact h.eventOf h.signalBody
  · exact h.eventOf h.signalBody
  · exact h.eventOf h.priorityAgingBody
  · exact h.eventOf h.placementTimeoutBody
  · split at he
    · obtain ⟨x, -, rfl⟩ := List.mem_map.1 he
      exact h.eventOf h.taskTestBody
    · exact absurd he List.not_mem_nil

theorem contextEvents_keep (he : e ∈ contextEvents s slot c) : Event.Keeps e := by
  unfold contextEvents at he
  intro t h
  split at he
  · exact absurd he List.not_mem_nil
  · simp only [List.mem_append, List.mem_map, or_assoc] at he
    obtain he | he | he | he | ⟨x, -, rfl⟩ | ⟨x, -, rfl⟩ | he := he
    · split at he
      · obtain rfl := List.mem_singleton.1 he
        exact h.eventOf h.msixDeferredBody
      · exact absurd he List.not_mem_nil
    · split at he
      · exact absurd he List.not_mem_nil
      · obtain rfl := List.mem_singleton.1 he
        exact h.eventOf h.forcedResetBody
    · split at he
      · obtain rfl := List.mem_singleton.1 he
        exact h.eventOf (SomeHolds.bind fun _ => h.releaseBody)
      · exact absurd he List.not_mem_nil
    · split at he
      · obtain rfl := List.mem_singleton.1 he
        exact h.eventOf h.commitRoundBody
      · exact absurd he List.not_mem_nil
    · exact h.eventOf h.teamRestoreBody
    · exact h.eventOf h.intensityBody
    · split at he
      · exact absurd he List.not_mem_nil
      · simp only [List.mem_append, List.mem_map] at he
        obtain ⟨x, -, rfl⟩ | ⟨x, -, rfl⟩ := he
        · exact h.eventOf h.taskTakeBody
        · exact h.eventOf h.taskStealBody

theorem events_keep (he : e ∈ s.events) : Event.Keeps e := by
  simp only [State.events, List.mem_append, List.mem_map, List.mem_flatMap, or_assoc] at he
  obtain ⟨p, -, he⟩ | ⟨p, -, rfl⟩ | ⟨p, -, he⟩ | ⟨x, -, rfl⟩ | ⟨x, -, he⟩ | ⟨p, -, he⟩ | ⟨x, -, rfl⟩ | he := he
  · exact groupEvents_keep he
  · exact fun h => h.eventOf h.spindlePhaseBody
  · exact clusterEvents_keep he
  · exact fun h => h.eventOf h.teamRetirementBody
  · exact launchEvents_keep he
  · exact contextEvents_keep he
  · exact fun h => h.eventOf h.quoteBody
  · intro t h
    split at he
    · simp only [List.mem_append, List.mem_map] at he
      obtain ⟨x, -, rfl⟩ | ⟨x, -, rfl⟩ := he
      · exact h.eventOf h.teamDispatchBody
      · exact h.eventOf h.frontPreemptBody
    · exact absurd he List.not_mem_nil

theorem State.Canonical.firstEvent (h : s.Canonical) (hl : ∀ e ∈ l, Event.Keeps e) : SomeHolds (NextHolds State.Canonical) (firstEvent l s) := by
  induction l with
  | nil => trivial
  | cons e l ih =>
    obtain ⟨he, hl⟩ := List.forall_mem_cons.1 hl
    unfold Machine.firstEvent
    split
    · exact ih hl
    · exact he h

theorem State.Canonical.housekeep (h : s.Canonical) : SomeHolds State.Canonical s.housekeep := by
  unfold State.housekeep
  split
  · exact h.saveReady
  · exact SomeHolds.map fun _ => h.servePcmd

/-! ### An issue: one slot, a pair, the candidates in order -/

theorem State.Canonical.runOne (h : s.Canonical) : NextHolds State.Canonical s.runOne := by
  unfold State.runOne
  split
  · exact h.stop
  · exact h.exec

theorem State.Canonical.second (h : s.Canonical) : (s.second g w).Canonical := h.update

theorem State.Canonical.trial (h : s.Canonical) : (s.trial g i w).Canonical := h.setG.second

theorem NextHolds.runSecond (ho : NextHolds State.Canonical o) : NextHolds State.Canonical (runSecond g w i o) := by
  unfold Machine.runSecond
  split
  · split
    · next hu => exact State.Canonical.update ((State.Canonical.exec (State.Canonical.second ho)).of hu)
    · exact State.Canonical.exec (State.Canonical.second ho)
  · exact ho

theorem State.Canonical.runPair (h : s.Canonical) : NextHolds State.Canonical (s.runPair g w) := by
  unfold State.runPair
  split
  · exact State.Canonical.stop (h.second.ite h)
  · split
    · dsimp only
      split
      · exact h.exec
      · split
        · exact h.trial.exec
        · exact h.exec.runSecond
    · exact h.runOne

theorem NextHolds.noteIssue (ho : NextHolds State.Canonical o) : NextHolds State.Canonical (noteIssue c gid now o) := by
  unfold Machine.noteIssue
  split
  · split
    · exact State.Canonical.update (State.Canonical.mapG ho)
    · split
      · exact State.Canonical.mapG ho
      · exact ho
  · exact ho

theorem NextHolds.ite {P : State → Prop} {p : Prop} [Decidable p] (ha : NextHolds P a) (hb : NextHolds P b) :
    NextHolds P (if p then a else b) := by
  split
  · exact ha
  · exact hb

theorem State.Canonical.runSlot (h : s.Canonical) : NextHolds State.Canonical (s.runSlot c l pc) := by
  unfold State.runSlot
  dsimp only
  split
  · exact h.update
  · exact NextHolds.noteIssue (NextHolds.ite h.update.runPair h.update.runOne)

theorem State.Canonical.issueAt (h : s.Canonical) : NextHolds State.Canonical (s.issueAt c) := by
  unfold State.issueAt
  split
  · exact h.report
  · split
    · exact h.takeTimer.report
    · split
      · exact h.aim.stop
      · exact (h.lineFor.of ‹_›).runSlot

theorem State.Canonical.tryAll (h : s.Canonical) : NextHolds State.Canonical (tryAll l s) := by
  induction l generalizing s with
  | nil => exact h
  | cons c l ih =>
    have hc := h.issueAt (c := c)
    unfold Machine.tryAll
    split
    · have ht := hc.of ‹_›
      split
      · exact ih ht
      · exact ht
    · exact hc

/-! ### One step -/

theorem State.Canonical.runDefault (h : s.Canonical) : NextHolds State.Canonical s.runDefault := by
  unfold State.runDefault
  split
  · exact (h.housekeep.of ‹_›).report
  · split
    · exact (h.firstEvent fun _ => events_keep).of ‹_›
    · exact h.report.tryAll

theorem State.Canonical.run (h : s.Canonical) : NextHolds State.Canonical s.run := by
  unfold State.run
  split
  · exact h.issueAt
  · split
    · split
      · exact State.Canonical.exec h.update
      · exact h.update
    · exact h.runDefault

theorem NextHolds.ticked (ho : NextHolds State.Canonical o) : NextHolds State.Canonical (ticked o) := by
  unfold Machine.ticked
  split
  · exact State.Canonical.update ho
  · exact ho

theorem State.Canonical.step (h : s.Canonical) : NextHolds State.Canonical (step s) := h.run.ticked

end

/-- Settles O59: every function of the model that gives a state keeps the canonical form, and so does a step. -/
theorem canonicalFormIsKept : Obligations.CanonicalFormIsKept := by
  intro s t hm ht hs
  obtain ⟨hm', ht'⟩ := (State.Canonical.step ⟨hm, ht⟩).of hs
  exact ⟨hm', ht'⟩

end Sys2Proof.Machine
end

section
/-! # Reading what has been written

A number's bytes, and what memory reads as after bytes are written at consecutive keys or at the keys of another space. -/

namespace Sys2Proof.Machine
open Sys2Proof.Claims

/-! ### A number's bytes (R3) -/

@[simp] theorem length_bytesOfWord (n w : Nat) : (bytesOfWord n w).length = n := by
  induction n generalizing w with
  | zero => rfl
  | succ n ih => simp [bytesOfWord, ih]

/-- A number comes back from its bytes, but for what they do not hold. -/
theorem wordOfBytes_bytesOfWord (n w : Nat) : wordOfBytes (bytesOfWord n w) = w % 256 ^ n := by
  induction n generalizing w with
  | zero => simp [bytesOfWord, wordOfBytes, Nat.mod_one]
  | succ n ih =>
    have h : (BitVec.ofNat 8 w).toNat = w % 256 := BitVec.toNat_ofNat w 8
    rw [bytesOfWord, wordOfBytes, ih, h, Nat.pow_succ', Nat.mod_mul]

theorem wordOfBytes_lt (bs : List Byte) : wordOfBytes bs < 256 ^ bs.length := by
  induction bs with
  | nil => simp [wordOfBytes]
  | cons b bs ih =>
    have := b.isLt
    rw [wordOfBytes, List.length_cons, Nat.pow_succ]
    omega

@[simp] theorem length_zeros (n : Nat) : (zeros n).length = n := List.length_replicate

/-! ### Bytes written at keys that differ -/

/-- Bytes written one after another at keys that differ read back. -/
theorem Mem.get_setAll_zipIdx {m : Mem} {key : Nat → Nat} {bs : List Byte} {i : Nat} (w : Memory.wf m = true)
    (inj : ∀ i j, key i = key j → i = j) (h : i < bs.length) :
    (m.setAll (bs.zipIdx.map fun p => (key p.2, p.1))).get (key i) = bs.getD i 0 := by
  have e : bs.zipIdx = (bs.take i).zipIdx ++ (bs[i], i) :: (bs.drop (i + 1)).zipIdx (i + 1) := by
    have hz := List.zipIdx_append (xs := bs.take i) (ys := bs.drop i) (k := 0)
    rw [List.take_append_drop, List.drop_eq_getElem_cons h, List.zipIdx_cons, List.length_take_of_le h.le, Nat.zero_add] at hz
    exact hz
  rw [e, List.map_append, List.map_cons, List.getD_eq_getElem _ _ h]
  refine Mem.get_setAll_last _ _ _ _ w fun p hp => ?_
  obtain ⟨q, hq, rfl⟩ := List.mem_map.1 hp
  have := List.le_snd_of_mem_zipIdx hq
  intro hk
  have := inj _ _ hk
  omega

/-- Keys that no written byte stands at read as before. -/
theorem Mem.get_setAll_zipIdx_other {m : Mem} {key : Nat → Nat} {bs : List Byte} {x : Nat} (w : Memory.wf m = true)
    (h : ∀ i < bs.length, x ≠ key i) : (m.setAll (bs.zipIdx.map fun p => (key p.2, p.1))).get x = m.get x := by
  refine Mem.get_setAll_other _ w fun p hp => ?_
  obtain ⟨q, hq, rfl⟩ := List.mem_map.1 hp
  exact (h _ (by simpa using List.snd_lt_of_mem_zipIdx hq)).symm

theorem Mem.get_setBytes {m : Mem} {k : Nat} {bs : List Byte} {i : Nat} (w : Memory.wf m = true) (h : i < bs.length) :
    (m.setBytes k bs).get (k + i) = bs.getD i 0 :=
  Mem.get_setAll_zipIdx w (key := (k + ·)) (fun _ _ h => Nat.add_left_cancel h) h

theorem Mem.get_setBytes_other {m : Mem} {k x : Nat} {bs : List Byte} (w : Memory.wf m = true) (h : x < k ∨ k + bs.length ≤ x) :
    (m.setBytes k bs).get x = m.get x :=
  Mem.get_setAll_zipIdx_other w (key := (k + ·)) fun i hi => by omega

/-! ### Numbers in memory -/

theorem Mem.num_eq (m : Mem) (k n : Nat) : m.num k n = wordOfBytes (bytesAt m k n) := by
  unfold Mem.num Mem.getAll bytesAt
  rw [List.map_map]
  rfl

theorem Mem.num_lt (m : Mem) (k n : Nat) : m.num k n < 256 ^ n := by
  have h := wordOfBytes_lt (bytesAt m k n)
  rwa [← Mem.num_eq, bytesAt, List.length_map, List.length_range] at h

/-- A number none of whose bytes has changed. -/
theorem Mem.num_congr {m n : Mem} {k l : Nat} (h : ∀ i < l, n.get (k + i) = m.get (k + i)) : n.num k l = m.num k l := by
  rw [Mem.num_eq, Mem.num_eq]
  congr 1
  exact List.map_congr_left fun i hi => h i (List.mem_range.1 hi)

/-- The bytes of a function are those of a list that it agrees with from an offset on. -/
theorem map_range_eq_slice {f : Nat → Byte} {bs : List Byte} {off n : Nat} (h : off + n ≤ bs.length)
    (hf : ∀ i < bs.length, f i = bs.getD i 0) : ((List.range n).map fun i => f (off + i)) = (bs.drop off).take n := by
  apply List.ext_getElem
  · simp; omega
  · intro i hi _
    have hi' : i < n := by simpa using hi
    rw [List.getElem_map, List.getElem_range, hf (off + i) (by omega), List.getD_eq_getElem _ _ (by omega), List.getElem_take,
      List.getElem_drop]

/-- A number within bytes that have been written. -/
theorem Mem.num_setBytes {m : Mem} {k off n : Nat} {bs : List Byte} (w : Memory.wf m = true) (h : off + n ≤ bs.length) :
    (m.setBytes k bs).num (k + off) n = wordOfBytes ((bs.drop off).take n) := by
  rw [Mem.num_eq, bytesAt, ← map_range_eq_slice (f := fun i => (m.setBytes k bs).get (k + i)) h fun i hi => Mem.get_setBytes w hi]
  simp only [Nat.add_assoc]

theorem Mem.num_setNum {m : Mem} {k n v : Nat} (w : Memory.wf m = true) : (m.setNum k n v).num k n = v % 256 ^ n := by
  have h := Mem.num_setBytes (k := k) (off := 0) (n := n) (bs := bytesOfWord n v) w (by simp)
  rw [List.drop_zero, List.take_of_length_le (by simp), wordOfBytes_bytesOfWord] at h
  exact h

theorem Mem.num_setBytes_other {m : Mem} {k a n : Nat} {bs : List Byte} (w : Memory.wf m = true) (h : apart a n k bs.length) :
    (m.setBytes k bs).num a n = m.num a n :=
  Mem.num_congr fun i hi => Mem.get_setBytes_other w (by unfold apart at h; omega)

/-- What is left of a memory when keys are lost. -/
theorem Mem.get_filter {f : Nat → Bool} {m : Mem} {lo : Nat} (w : Mem.wfFrom lo m = true) (a : Nat) :
    Mem.get (m.filter fun p => f p.1) a = if f a then Mem.get m a else unlisted := by
  induction m generalizing lo with
  | nil => simp [Mem.get]
  | cons p m ih =>
    obtain ⟨k, b⟩ := p
    simp only [Mem.wfFrom, Bool.and_eq_true, decide_eq_true_eq] at w
    obtain ⟨-, wm⟩ := w
    have hm := ih wm
    by_cases ha : a ≤ k
    · have hlow : Mem.get (m.filter fun p => f p.1) a = unlisted := Mem.get_below (Mem.wfFrom_filter _ wm) (by omega)
      rw [List.filter_cons]
      rcases Nat.lt_or_eq_of_le ha with hlt | rfl
      · split <;> simp [Mem.get, hlt, hlow]
      · split
        · simp [Mem.get]
        · simp [hlow]
    · have e : Mem.get ((k, b) :: m) a = Mem.get m a := by
        simp only [Mem.get]
        rw [if_neg (by omega), if_neg (by omega)]
      rw [List.filter_cons, e, ← hm]
      split
      · simp only [Mem.get]
        rw [if_neg (by omega), if_neg (by omega)]
      · rfl

end Sys2Proof.Machine
end

section
/-! # The host's accesses and RESYNC (R4, R33, R319, R285, R334, R363, R364) -/

namespace Sys2Proof.Machine
open Sys2Proof.Claims

/-! ### Writes by an agent outside -/

theorem keyHost_inj {a b : Nat} (h : keyHost a = keyHost b) : a = b := by
  unfold keyHost at h
  split at h <;> split at h <;> omega

/-- Paths keep all but their watches through a write: a group is as before but for its paths. -/
theorem State.write_noPaths (s : State) (kvs : List (Nat × Byte)) :
    (s.write kvs).groups.map (fun g => { g with paths := [] }) = s.groups.map fun g => { g with paths := [] } := by
  simp only [State.write, List.map_map]
  rfl

/-- A write of bytes one after another at keys that differ is what an agent outside does. -/
theorem outsideWrite_write {s : State} {key : Nat → Nat} {bs : List Byte} (w : Memory.wf s.mem = true) (inj : ∀ i j, key i = key j → i = j) :
    outsideWrite s ((s.write (bs.zipIdx.map fun p => (key p.2, p.1))).report .event) key bs :=
  ⟨fun _ hi => Mem.get_setAll_zipIdx w inj hi, fun _ hx => Mem.get_setAll_zipIdx_other w hx, rfl, s.write_noPaths _⟩

theorem hostAccess_memWrite {s : State} {fn pa : Nat} {bs : List Byte} (w : Memory.wf s.mem = true) (h : rangeDram pa bs.length = true) :
    ∃ t, exec (.hostAccess (.memWrite pa bs) fn) s = .next t ∧ outsideWrite s t (pa + ·) bs := by
  refine ⟨(s.writeBytes (keyPhys pa) bs).report .event, ?_, outsideWrite_write w fun _ _ h => Nat.add_left_cancel h⟩
  show Host.Outcome.next (State.report (if _ then _ else _) _) = _
  rw [if_pos h]

theorem hostAccess_memWrite_outside {s : State} {fn pa : Nat} {bs : List Byte} (h : rangeDram pa bs.length = false) :
    exec (.hostAccess (.memWrite pa bs) fn) s = .next { s with last := .event } := by
  show Host.Outcome.next (State.report (if _ then _ else _) _) = _
  rw [if_neg (by simp [h])]
  rfl

theorem hostAccess_memRead {s : State} {fn pa n : Nat} (h : rangeDram pa n = true) :
    exec (.hostAccess (.memRead pa n) fn) s = .next { s with last := .event, hostData := bytesAt s.mem pa n } := by
  show Host.Outcome.next (State.report (if _ then _ else _) _) = _
  rw [if_pos h, Mem.getAll, List.map_map]
  rfl

theorem hostAccess_hostWrite {s : State} {fn pa : Nat} {bs : List Byte} (w : Memory.wf s.mem = true) :
    ∃ t, exec (.hostAccess (.hostWrite pa bs) fn) s = .next t ∧ outsideWrite s t (fun i => keyHost (pa + i)) bs :=
  ⟨_, rfl, outsideWrite_write w fun _ _ h => Nat.add_left_cancel (keyHost_inj h)⟩

theorem hostAccess_peerWrite {s : State} {fn dev slot va : Nat} {bs : List Byte} (w : Memory.wf s.mem = true) :
    ∃ t, exec (.hostAccess (.peerWrite dev slot va bs) fn) s = .next t ∧ outsideWrite s t (keyPeer dev slot va + ·) bs :=
  ⟨_, rfl, outsideWrite_write w fun _ _ h => Nat.add_left_cancel h⟩

/-! ### Reads of a slot's registers -/

/-- What a read through a function shows of a slot. -/
def slotReads (s : State) (k : Nat) : HostOp → List Byte
  | .readCcb _ off => at8 (s.ccbBytes k) off
  | .readLaunch _ off => if off < 0xFC0 then zeros 8 else at8 (s.launchStatus k) (off - 0xFC0)
  | .readDoorbell _ off => at8 (s.ctx k).doorbell off
  | _ => []

theorem hostAccess_slot {s : State} {fn j k off : Nat} {op : HostOp} (h : s.slotOf fn j = some k)
    (hop : op ∈ [HostOp.readCcb j off, .readLaunch j off, .readDoorbell j off]) :
    exec (.hostAccess op fn) s = .next { s with last := .event, hostData := slotReads s k op } := by
  simp only [List.mem_cons, List.not_mem_nil, or_false] at hop
  obtain rfl | rfl | rfl := hop <;>
  · show Host.Outcome.next { s with hostData := match s.slotOf fn j with | some k => _ | none => _, last := _ } = _
    rw [h]
    rfl

theorem hostAccess_noSlot {s : State} {fn j off : Nat} {op : HostOp} (h : s.slotOf fn j = none)
    (hop : op ∈ [HostOp.readCcb j off, .readLaunch j off, .readDoorbell j off]) :
    exec (.hostAccess op fn) s = .next { s with last := .event, hostData := zeros 8 } := by
  simp only [List.mem_cons, List.not_mem_nil, or_false] at hop
  obtain rfl | rfl | rfl := hop <;>
  · show Host.Outcome.next { s with hostData := match s.slotOf fn j with | some k => _ | none => _, last := _ } = _
    rw [h]

/-- A read of eight bytes in a row of such reads. -/
theorem at8_flatten {bs : List (List Byte)} {r : List Byte} {i : Nat} (hl : ∀ b ∈ bs, b.length = 8) (hi : i < bs.length) :
    at8 (bs.flatten ++ r) (8 * i) = bs[i] := by
  induction bs generalizing i with
  | nil => exact absurd hi (Nat.not_lt_zero i)
  | cons b bs ih =>
    obtain ⟨hb, hl⟩ := List.forall_mem_cons.1 hl
    rw [List.flatten_cons, List.append_assoc]
    cases i with
    | zero => rw [at8, Nat.mul_zero, List.drop_zero, List.take_left' hb]; rfl
    | succ i =>
      have e : 8 * (i + 1) = b.length + 8 * i := by omega
      rw [at8, e, ← List.drop_drop, List.drop_left, List.getElem_cons_succ]
      exact ih hl (Nat.lt_of_succ_lt_succ hi)

/-- INVCTL as it reads. -/
theorem invctl_eq (all busy : Bool) (n : Nat) :
    all.toNat * 2 + n * 2 ^ 8 + (!busy).toNat * 2 ^ 31 = (if all then 2 else 0) + n * 2 ^ 8 + if busy then 0 else 2 ^ 31 := by
  cases all <;> cases busy <;> rfl

/-- A CCB's registers stand in a row (R319, R345). -/
theorem ccbBytes_eq (s : State) (k : Nat) : s.ccbBytes k = ((ccbReads s k).map (·.2)).flatten ++ (s.ctx k).aevb.bytes := by
  unfold State.ccbBytes ccbReads Freeze.bytes Context.ctrl
  extract_lets c st w
  have hst : c.state.num = st := by
    unfold st
    cases c.state <;> rfl
  rw [invctl_eq, hst]
  simp only [List.map_cons, List.map_nil, List.flatten_cons, List.flatten_nil, List.append_nil, List.append_assoc]
  rfl

theorem at8_ccbBytes {s : State} {k : Nat} {r : Nat × List Byte} (hr : r ∈ ccbReads s k) : at8 (s.ccbBytes k) r.1 = r.2 := by
  obtain ⟨i, hi, rfl⟩ := List.mem_iff_getElem.1 hr
  have hoff : (ccbReads s k)[i].1 = 8 * i := by
    have h : (ccbReads s k).map (·.1) = (List.range 16).map (8 * ·) := rfl
    have hi' : i < 16 := hi
    have := List.getElem_of_eq h (i := i) (by simpa using hi)
    simpa using this
  have hlen : ∀ b ∈ (ccbReads s k).map (·.2), b.length = 8 := by
    simp [ccbReads]
  rw [ccbBytes_eq, hoff, at8_flatten hlen (by simpa using hi), List.getElem_map]

theorem hostAccess_launchStatus {s : State} {fn j k : Nat} (h : s.slotOf fn j = some k) :
    let c := s.ctx k
    let get (off : Nat) (bs : List Byte) : Prop := exec (.hostAccess (.readLaunch j off) fn) s = .next { s with last := .event, hostData := bs }
    get 0xFC0 (bytesOfWord 8 c.accepted) ∧ get 0xFC8 (bytesOfWord 8 c.completed) ∧ get 0xFD0 (bytesOfWord 4 c.refused ++ bytesOfWord 4 (s.qdepth k)) ∧
      get 0xFD8 (bytesOfWord 4 c.mapign ++ zeros 4) ∧ ∀ off < 0xFC0, get off (zeros 8) := by
  have hr (off : Nat) := hostAccess_slot (off := off) (op := .readLaunch j off) h (by simp)
  refine ⟨hr _, hr _, hr _, hr _, fun off ho => (hr off).trans ?_⟩
  rw [slotReads, if_pos ho]

/-! ### Reads of the device's registers -/

theorem hostAccess_device {s : State} {fn i cl p : Nat} {r : HostOp × Bool × List Byte} (hr : r ∈ deviceReads s i cl p) :
    exec (.hostAccess r.1 fn) s = .next { s with last := .event, hostData := if fn = 16 ∨ r.2.1 = true then r.2.2 else zeros r.2.2.length } := by
  simp only [deviceReads, List.mem_cons, List.not_mem_nil, or_false] at hr
  obtain rfl | rfl | rfl | rfl | rfl | rfl | rfl := hr
  · simp only [Bool.false_eq_true, or_false]; rfl
  · simp only [Bool.false_eq_true, or_false]; rfl
  · simp only [Bool.false_eq_true, or_false]; rfl
  · simp only [Bool.false_eq_true, or_false]; rfl
  · simp only [Bool.false_eq_true, or_false]; rfl
  · have hd : s.rsDone.toNat * 2 ^ 31 = if s.rsDone then 2 ^ 31 else 0 := by cases s.rsDone <;> rfl
    simp only [Bool.false_eq_true, or_false, ← hd]
    rfl
  · simp only [or_true, if_true]; rfl

/-! ### RESYNC -/

theorem resync_failed (s : State) :
    exec (.resync false) s = .next { s with last := .event, snapshots := s.snapshots + 1, rsStat := 1, rsDone := true } := rfl

/-- A number that stands in bytes written to the host reads back from the host's memory. -/
theorem wordOfBytes_writeHost {s : State} {addr off n v : Nat} {bs : List Byte} (w : Memory.wf s.mem = true) (hl : off + n ≤ bs.length)
    (hv : (bs.drop off).take n = bytesOfWord n v) :
    wordOfBytes ((List.range n).map fun i => (s.writeHost addr bs).mem.get (keyHost (addr + (off + i)))) = v % 256 ^ n := by
  have hget : ∀ i < bs.length, (s.writeHost addr bs).mem.get (keyHost (addr + i)) = bs.getD i 0 := fun i hi =>
    Mem.get_setAll_zipIdx w (key := fun i => keyHost (addr + i)) (fun _ _ h => Nat.add_left_cancel (keyHost_inj h)) hi
  rw [map_range_eq_slice (f := fun i => (s.writeHost addr bs).mem.get (keyHost (addr + i))) hl hget, hv, wordOfBytes_bytesOfWord]

/-- The summary begins with its version, its length, the clock, the count of snapshots and the firmware's status (R364). -/
theorem summary_head (s : State) : ∃ c, s.summary = bytesOfWord 4 1 ++ (bytesOfWord 4 0x4600 ++ (bytesOfWord 8 s.clock.toNat ++
    (bytesOfWord 8 s.snapshots ++ (bytesOfWord 4 s.fw.stat ++ c)))) :=
  ⟨_, by simp only [State.summary, List.append_assoc]; rfl⟩

/-- The counts of errors stand behind the measurements (R364). -/
theorem summary_errs {s : State} {i : Nat} (hm : s.fw.meas.length = 8) (hi : i < s.errs.length) :
    ∃ a c, s.summary = a ++ (bytesOfWord 8 (s.errs.getD i 0) ++ c) ∧ a.length = 0x240 + 8 * i := by
  have he : s.errs = s.errs.take i ++ s.errs.getD i 0 :: s.errs.drop (i + 1) := by
    rw [List.getD_eq_getElem _ _ hi, ← List.drop_eq_getElem_cons hi, List.take_append_drop]
  have hf : (s.errs.flatMap fun n => bytesOfWord 8 n) = (s.errs.take i).flatMap (fun n => bytesOfWord 8 n) ++
      (bytesOfWord 8 (s.errs.getD i 0) ++ (s.errs.drop (i + 1)).flatMap fun n => bytesOfWord 8 n) := by
    conv_lhs => rw [he]
    rw [List.flatMap_append, List.flatMap_cons]
  refine ⟨bytesOfWord 4 1 ++ bytesOfWord 4 0x4600 ++ bytesOfWord 8 s.clock.toNat ++ bytesOfWord 8 s.snapshots ++ bytesOfWord 4 s.fw.stat ++
    bytesOfWord 4 s.fw.stages ++ zeros 32 ++ (s.fw.meas.flatMap fun m => bytesOfWord 64 m.toNat) ++
    (s.errs.take i).flatMap (fun n => bytesOfWord 8 n), ?_, ?_, ?_⟩
  rotate_left
  · simp only [State.summary, hf, List.append_assoc]
    rfl
  · simp [List.length_flatMap, hm, Nat.min_eq_left hi.le]
    omega

/-- RESYNC leaves the summary in the host's memory. -/
theorem resync_written {s : State} (w : Memory.wf s.mem = true) : ∃ t, exec (.resync true) s = .next t ∧ t.last = .event ∧ t.rsStat = 0 ∧ t.rsDone = true ∧
    t.snapshots = s.snapshots + 1 ∧ t.ctxs = s.ctxs ∧ t.launches = s.launches ∧ t.teams = s.teams ∧
    let at_ (off n : Nat) : Nat := wordOfBytes ((List.range n).map fun i => t.mem.get (keyHost (s.rsAddr.toNat + (off + i))))
    at_ 0 4 = 1 ∧ at_ 4 4 = 0x4600 ∧ at_ 8 8 = s.clock.toNat ∧ at_ 0x10 8 = (s.snapshots + 1) % 2 ^ 64 ∧ at_ 0x18 4 = s.fw.stat % 2 ^ 32 ∧
      (s.fw.meas.length = 8 → ∀ i < 7, s.errs.length = 7 → at_ (0x240 + 8 * i) 8 = s.errs.getD i 0 % 2 ^ 64) := by
  let u : State := { s with snapshots := s.snapshots + 1, rsStat := 0, rsDone := true }
  obtain ⟨c, hc⟩ := summary_head u
  have hlen : 0x1C ≤ u.summary.length := by
    rw [hc]
    simp only [List.length_append, length_bytesOfWord]
    omega
  obtain ⟨m, gs, hx, hm⟩ : ∃ m gs, exec (.resync true) s = .next { u with last := .event, mem := m, groups := gs } ∧
      m = (u.writeHost s.rsAddr.toNat u.summary).mem := ⟨_, _, rfl, rfl⟩
  refine ⟨_, hx, rfl, (show u.rsStat = 0 from rfl), rfl, rfl, rfl, rfl, rfl, ?_⟩
  intro at_
  have read {off n v : Nat} (hl : off + n ≤ u.summary.length) (hv : (u.summary.drop off).take n = bytesOfWord n v) :
      at_ off n = v % 256 ^ n := by
    rw [← wordOfBytes_writeHost (s := u) w hl hv, ← hm]
  clear_value at_
  refine ⟨?_, ?_, ?_, ?_, ?_, fun hw i hi hl => ?_⟩
  · exact read (v := 1) (by omega) (by rw [hc]; rfl)
  · exact read (v := 0x4600) (by omega) (by rw [hc]; rfl)
  · exact (read (by omega) (by rw [hc]; rfl)).trans (Nat.mod_eq_of_lt s.clock.isLt)
  · exact read (v := s.snapshots + 1) (by omega) (by rw [hc]; rfl)
  · exact read (v := s.fw.stat) (by omega) (by rw [hc]; rfl)
  · obtain ⟨a, c, e, ha⟩ := summary_errs (s := u) hw (hl ▸ hi : i < s.errs.length)
    refine read (v := s.errs.getD i 0) ?_ ?_
    · rw [e, List.length_append, List.length_append, length_bytesOfWord, ha]
      omega
    · rw [e, List.drop_left' ha, List.take_left' (length_bytesOfWord _ _)]

end Sys2Proof.Machine
end

section
/-! # Firmware, quotes, peers, links' states, errors, power and reset (R248, R251, R332, R335, R336, R362, R364) -/

namespace Sys2Proof.Machine
open Sys2Proof.Claims

/-! ### Firmware and quotes -/

theorem firmwareLoad_badFormat {s : State} (hp : s.fw.powered = true) (hl : s.fw.loaded = false) (hf : Config.fwFormatOk s.fw.bytes = false) :
    exec .firmwareLoad s = .next (loadResult s 2) := by
  show eventOf s (firmwareBody s) = _
  unfold firmwareBody
  extract_lets f bs
  rw [if_neg (by simp [f, hp, hl]), if_pos (by simp [bs, f, hf])]
  rfl

theorem firmwareLoad_badSignature {s : State} (hp : s.fw.powered = true) (hl : s.fw.loaded = false) (hf : Config.fwFormatOk s.fw.bytes = true)
    (hs : Config.fwSignatureOk s.fw.bytes = false) : exec .firmwareLoad s = .next (loadResult s 3) := by
  show eventOf s (firmwareBody s) = _
  unfold firmwareBody
  extract_lets f bs
  rw [if_neg (by simp [f, hp, hl]), if_neg (by simp [bs, f, hf]), if_pos (by simp [bs, f, hs])]
  rfl

theorem firmwareLoad_badVersion {s : State} (hp : s.fw.powered = true) (hl : s.fw.loaded = false) (hf : Config.fwFormatOk s.fw.bytes = true)
    (hs : Config.fwSignatureOk s.fw.bytes = true) (hv : Config.fwVersionOk s.fw.bytes = false) : exec .firmwareLoad s = .next (loadResult s 4) := by
  show eventOf s (firmwareBody s) = _
  unfold firmwareBody
  extract_lets f bs
  rw [if_neg (by simp [f, hp, hl]), if_neg (by simp [bs, f, hf]), if_neg (by simp [bs, f, hs]), if_pos (by simp [bs, f, hv])]
  rfl

theorem firmwareLoad_good {s : State} (hp : s.fw.powered = true) (hl : s.fw.loaded = false) (hf : Config.fwFormatOk s.fw.bytes = true)
    (hs : Config.fwSignatureOk s.fw.bytes = true) (hv : Config.fwVersionOk s.fw.bytes = true) :
    let ms := (Config.fwStages s.fw.bytes).take 6
    ∃ m, exec .firmwareLoad s = .next { s with last := .event, fw := { s.fw with stat := 1, loaded := true, meas := m, stages := ms.length } } ∧
      m.length = 8 ∧ m.take ms.length = ms ∧ ∀ x ∈ m.drop ms.length, x = 0 := by
  intro ms
  have h6 : ms.length ≤ 6 := List.length_take_le _ _
  refine ⟨ms ++ List.replicate (8 - ms.length) 0, ?_, ?_, List.take_left, ?_⟩
  · show eventOf s (firmwareBody s) = _
    unfold firmwareBody
    extract_lets f bs
    rw [if_neg (by simp [f, hp, hl]), if_neg (by simp [bs, f, hf]), if_neg (by simp [bs, f, hs]), if_neg (by simp [bs, f, hv])]
    rfl
  · rw [List.length_append, List.length_replicate]
    omega
  · intro x hx
    rw [List.drop_left] at hx
    exact List.eq_of_mem_replicate hx

theorem quote_go {s : State} {fn : Nat} {b : QuoteBox} (h : s.quotes[fn]? = some b) :
    exec (.quote fn true) s = .next { s with last := .event, quotes := s.quotes.set fn { b with done := false } } := by
  show eventOf s (quoteBody fn true s) = _
  simp only [quoteBody, h]
  rfl

/-- What a quote holds (R336). -/
theorem quoteBytes_fields {s : State} {b : QuoteBox} (hm : s.fw.meas.length = 8) :
    let q := s.quoteBytes b
    q.take 8 = bytesOfWord 4 1 ++ bytesOfWord 4 s.fw.stages ∧ (q.drop 16).take 32 = bytesOfWord 32 b.nonce.toNat ∧
      (q.drop 48).take 32 = bytesOfWord 32 Config.identityKey.toNat ∧ (q.drop 80).take 512 = s.fw.meas.flatMap (fun m => bytesOfWord 64 m.toNat) ∧
      q.drop 592 = bytesOfWord 64 (Config.quoteSignature (q.take 592)).toNat := by
  intro q
  let head := bytesOfWord 4 1 ++ bytesOfWord 4 s.fw.stages
  let nonce := bytesOfWord 32 b.nonce.toNat
  let key := bytesOfWord 32 Config.identityKey.toNat
  let meas := s.fw.meas.flatMap fun m => bytesOfWord 64 m.toNat
  have hmeas : meas.length = 512 := by simp [meas, List.length_flatMap, hm]
  have hq : q = head ++ zeros 8 ++ nonce ++ key ++ meas ++ bytesOfWord 64 (Config.quoteSignature (head ++ zeros 8 ++ nonce ++ key ++ meas)).toNat := rfl
  have hbody : (head ++ zeros 8 ++ nonce ++ key ++ meas).length = 592 := by simp [head, nonce, key, hmeas]
  generalize hsig : bytesOfWord 64 (Config.quoteSignature (head ++ zeros 8 ++ nonce ++ key ++ meas)).toNat = sig at hq
  refine ⟨?_, ?_, ?_, ?_, ?_⟩
  · rw [hq]; simp only [List.append_assoc]; exact List.take_left' rfl
  · have e : q = (head ++ zeros 8) ++ (nonce ++ (key ++ (meas ++ sig))) := by rw [hq]; simp only [List.append_assoc]
    rw [e, List.drop_left' (by simp [head]), List.take_left' (by simp [nonce])]
  · have e : q = (head ++ zeros 8 ++ nonce) ++ (key ++ (meas ++ sig)) := by rw [hq]; simp only [List.append_assoc]
    rw [e, List.drop_left' (by simp [head, nonce]), List.take_left' (by simp [key])]
  · have e : q = (head ++ zeros 8 ++ nonce ++ key) ++ (meas ++ sig) := by rw [hq]; simp only [List.append_assoc]
    rw [e, List.drop_left' (by simp [head, nonce, key]), List.take_left' hmeas]
  · rw [hq, List.drop_left' hbody, List.take_left' hbody, hsig]

theorem quote_made {s : State} {fn : Nat} {b : QuoteBox} (h : s.quotes[fn]? = some b) (hd : b.done = false) :
    exec (.quote fn false) s = .next { s with last := .event, quotes := s.quotes.set fn { b with done := true, quote := s.quoteBytes b } } := by
  show eventOf s (quoteBody fn false s) = _
  simp only [quoteBody, h, hd]
  rfl

theorem hostAccess_readQuoteCtl {s : State} {fn : Nat} {b : QuoteBox} (h : s.quotes[fn]? = some b) :
    exec (.hostAccess .readQuoteCtl fn) s = .next { s with last := .event, hostData := bytesOfWord 4 (if b.done then 2 ^ 31 else 0) } := by
  have hb : s.quotes.getD fn {} = b := by rw [List.getD_eq_getElem?_getD, h, Option.getD_some]
  have hc : b.ctl = if b.done then 2 ^ 31 else 0 := by
    unfold QuoteBox.ctl
    cases b.done <;> rfl
  rw [← hc, ← hb]
  rfl

theorem hostAccess_readQuote {s : State} {fn off : Nat} {b : QuoteBox} (h : s.quotes[fn]? = some b) :
    exec (.hostAccess (.readQuote off) fn) s = .next { s with last := .event, hostData := (b.quote.drop off).take 8 } := by
  have hb : s.quotes.getD fn {} = b := by rw [List.getD_eq_getElem?_getD, h, Option.getD_some]
  rw [← hb]
  rfl

/-! ### The states of links -/

theorem modify_eq_set {α : Type} {l : List α} {i : Nat} {a : α} {f : α → α} (h : l[i]? = some a) : l.modify i f = l.set i (f a) := by
  rw [List.modify_eq_set_getElem?, h]
  rfl

theorem linkTraining_done {s : State} {port lanes dev : Nat} {retrain : Bool} {p : LinkPort} (h : s.tlanto[port]? = some p) (hl : lanes < 16)
    (hd : dev < 2 ^ 12) : exec (.tlantoLinkTraining port lanes dev retrain) s = .next { s with
      last := .event
      tlanto := s.tlanto.set port { st := 2, lanes := lanes, dev := dev, count := if retrain then p.count + 1 else p.count } } := by
  show event (trainingBody port lanes dev retrain s) = _
  rw [trainingBody, modify_eq_set h, Nat.mod_eq_of_lt hl, Nat.mod_eq_of_lt hd]
  cases retrain <;> rfl

theorem cxlPortEvent_done {s : State} {port st : Nat} {e : Bool} {p : LinkPort} (h : s.cxl[port]? = some p) (hs : st < 4) :
    exec (.cxlPortEvent port st e) s = .next { s with
      last := .event
      cxl := s.cxl.set port { p with st := st, count := if e then p.count + 1 else p.count } } := by
  show event (cxlBody port st e s) = _
  rw [cxlBody, modify_eq_set h, Nat.mod_eq_of_lt hs]
  cases e <;> rfl

/-! ### The patrol, and dirty lines -/

theorem getD_modify (l : List Nat) (i j : Nat) (f : Nat → Nat) (hi : i < l.length) : (l.modify i f).getD j 0 = if j = i then f (l.getD j 0) else l.getD j 0 := by
  simp only [List.getD_eq_getElem?_getD, List.getElem?_modify]
  split
  · next h => subst h; simp [hi]
  · next h => simp [Ne.symm h]

theorem patrolPass_counts {s : State} {stack c u : Nat} (hs : stack ≤ 12) (hl : 4 ≤ s.errs.length) :
    ∃ e, exec (.patrolPass stack c u) s = .next { s with last := .event, errs := e } ∧
      let k := if stack = 12 then 2 else 0
      e.getD k 0 = s.errs.getD k 0 + c ∧ e.getD (k + 1) 0 = s.errs.getD (k + 1) 0 + u ∧ ∀ i, i ≠ k → i ≠ k + 1 → e.getD i 0 = s.errs.getD i 0 := by
  let k := if stack = 12 then 2 else 0
  have hk : k + 1 < s.errs.length := by
    unfold k
    split <;> omega
  refine ⟨(s.errs.modify k (· + c)).modify (k + 1) (· + u), ?_, ?_⟩
  · show eventOf s (patrolBody stack c u s) = _
    rw [patrolBody, if_neg (by omega)]
    rfl
  · intro k'
    have hget (i : Nat) := getD_modify (s.errs.modify k (· + c)) (k + 1) i (· + u) (by simpa using hk)
    have hget' (i : Nat) := getD_modify s.errs k i (· + c) (by omega)
    refine ⟨?_, ?_, fun i h1 h2 => ?_⟩
    · rw [hget, hget', if_neg (by omega), if_pos rfl]
    · rw [hget, hget', if_pos rfl, if_neg (by omega)]
    · rw [hget, hget', if_neg h2, if_neg h1]

theorem dirtyLineDiscard_done {s : State} {pa : Nat} {old : List Byte} (w : Memory.wf s.mem = true) (hr : rangeDram pa old.length = true)
    (hn : old ≠ []) (hl : s.errs.length = 7) :
    ∃ m e, exec (.dirtyLineDiscard pa old) s = .next { s with last := .event, mem := m, errs := e, lastBad := pa } ∧ bytesAt m pa old.length = old ∧
      (∀ x, (x < pa ∨ pa + old.length ≤ x) → m.get x = s.mem.get x) ∧
      ∀ i, e.getD i 0 = if i = 4 ∨ i = 6 then s.errs.getD i 0 + 1 else s.errs.getD i 0 := by
  refine ⟨s.mem.setBytes pa old, (s.errs.modify 4 (· + 1)).modify 6 (· + 1), ?_, ?_, fun x hx => Mem.get_setBytes_other w hx, fun i => ?_⟩
  · show eventOf s (dirtyBody pa old s) = _
    rw [dirtyBody, if_neg (by simp [hr, hn])]
    rfl
  · have h := map_range_eq_slice (f := fun i => (s.mem.setBytes pa old).get (pa + i)) (off := 0) (n := old.length) (by omega)
      fun i hi => Mem.get_setBytes w hi
    simpa [bytesAt] using h
  · rw [getD_modify _ _ _ _ (by simp [hl]), getD_modify _ _ _ _ (by omega)]
    split <;> split <;> simp <;> omega

/-! ### Power and reset -/

theorem get_lostMem {m : Mem} (w : Memory.wf m = true) (k : Nat) :
    (lostMem m).get k = if 2 ^ 56 ≤ k ∨ (2 ^ 54 ≤ k ∧ k < 2 ^ 55) then m.get k else 0 := by
  have h := Mem.get_filter (f := fun k => isHostKey k || isPeerKey k) w k
  rw [show Mem.get (lostMem m) k = _ from h]
  have e : (isHostKey k || isPeerKey k) = decide (2 ^ 56 ≤ k ∨ (2 ^ 54 ≤ k ∧ k < 2 ^ 55)) := by
    rw [Bool.eq_iff_iff]
    simp only [isHostKey, isPeerKey, Bool.or_eq_true, Bool.and_eq_true, decide_eq_true_eq]
    omega
  simp only [e, decide_eq_true_eq]
  rfl

theorem deviceReset_done (s : State) : exec .deviceReset s = .next { State.reset with
    last := .event, agenda := s.agenda, free := s.free, nextId := s.nextId, mem := s.mem, fe := s.fe, fw := s.fw } := rfl

theorem powerDown_done (s : State) : exec .powerDown s = .next { State.reset with
    last := .event, agenda := s.agenda, free := s.free, nextId := s.nextId, mem := lostMem s.mem, fe := [], fw := { powered := false } } := rfl

theorem powerUp_done {s : State} (h : s.fw.powered = false) : exec .powerUp s = .next { State.reset with
    last := .event, agenda := s.agenda, free := s.free, nextId := s.nextId, mem := lostMem s.mem, fe := [], fw := {} } := by
  show eventOf s (powerUpBody s) = _
  rw [powerUpBody, if_neg (by simp [h])]
  rfl

/-! ### Atomic values (R252) -/

theorem infBits_lt (b : Bool) : F32.infBits b < 2 ^ 32 := by cases b <;> decide

theorem overflowBits_lt (m : RMode) (b : Bool) : overflowBits F32 m false b < 2 ^ 32 := by
  have hbig : F32.maxBits + (if b then F32.signBit else 0) < 2 ^ 32 := by cases b <;> decide
  unfold overflowBits
  extract_lets big
  rw [if_neg (by decide)]
  split
  · exact hbig
  · split
    · exact infBits_lt b
    · exact hbig
  · split
    · exact hbig
    · exact infBits_lt b
  · exact infBits_lt b

theorem roundFrac_lt (m : RMode) (b : Bool) (n d : Nat) : (roundFrac F32 m false b n d).1 < 2 ^ 32 := by
  have hmax : F32.maxBits < 2 ^ 31 := by decide
  have hs : (if b then F32.signBit else 0) ≤ 2 ^ 31 := by cases b <;> decide
  unfold roundFrac
  extract_lets e q p k0 r k bits sb
  split
  · exact overflowBits_lt m b
  · have hbits : bits + sb < 2 ^ 32 := by
      have : sb ≤ 2 ^ 31 := hs
      omega
    split
    · exact hbits
    · exact hbits

/-- A sum is a pattern of 32 bits, whatever the operands' patterns (R143). -/
theorem fpAdd_lt (a b : Nat) : (fpAdd F32 .rne false a b).1 < 2 ^ 32 := by
  show (roundFx F32 (.dir .rne) false _).1 < 2 ^ 32
  unfold roundFx
  split
  · decide
  · exact infBits_lt _
  · split
    · split <;> decide
    · exact roundFrac_lt _ _ _ _

/-- The model's new value of an atomic is the one of R252. -/
theorem atomicNew_atomVal (op : AtomOp) (w old v : Nat) : atomicNew op w old v (atomVal op w old v) := by
  have hsg (x : Nat) : signedNum w x = signedOf w x := by
    unfold signedNum signedOf
    split <;> split <;> omega
  cases op with
  | add => rfl
  | and => exact fun i => Nat.testBit_and ..
  | or => exact fun i => Nat.testBit_or ..
  | xor => exact fun i => Nat.testBit_xor ..
  | min =>
    simp only [atomicNew, atomVal, hsg]
    split
    · exact ⟨.inr rfl, by omega, le_refl _⟩
    · exact ⟨.inl rfl, le_refl _, by omega⟩
  | max =>
    simp only [atomicNew, atomVal, hsg]
    split
    · exact ⟨.inr rfl, by omega, le_refl _⟩
    · exact ⟨.inl rfl, le_refl _, by omega⟩
  | minu => simp only [atomicNew, atomVal]; omega
  | maxu => simp only [atomicNew, atomVal]; omega
  | exch => rfl
  | incw => rfl
  | decw => rfl
  | fadd => rfl

/-- An atomic's new value fits where its operands do. -/
theorem atomVal_lt {op : AtomOp} {w old v : Nat} (hw : 32 ≤ w) (ho : old < 2 ^ w) (hv : v < 2 ^ w) : atomVal op w old v < 2 ^ w := by
  cases op with
  | add => exact Nat.mod_lt _ (Nat.two_pow_pos w)
  | and => exact Nat.and_lt_two_pow _ hv
  | or => exact Nat.or_lt_two_pow ho hv
  | xor => exact Nat.xor_lt_two_pow ho hv
  | min => simp only [atomVal]; split <;> assumption
  | max => simp only [atomVal]; split <;> assumption
  | minu => simp only [atomVal]; omega
  | maxu => simp only [atomVal]; omega
  | exch => exact hv
  | incw => simp only [atomVal]; split <;> omega
  | decw => simp only [atomVal]; split <;> omega
  | fadd => exact (fpAdd_lt old v).trans_le (Nat.pow_le_pow_right (by omega) hw)

/-! ### A peer's accesses (R332) -/

/-- The reply that a peer's refused access gets. -/
def peerRefusal (s : State) : State := { s with last := .event, hostData := bytesOfWord 2 0x010C }

/-- The page that an atomic of a peer needs. -/
def needAtomic : Need := { types := [0, 4], r := true, w := true, at_ := true }

theorem peerKeys_inactive {s : State} {slot va n : Nat} {nd : Need} (h : (s.ctx slot).state ≠ .active ∨ (s.ctx slot).perm.getLsbD 12 = false) :
    s.peerKeys slot va n nd = none := by
  unfold State.peerKeys
  extract_lets c
  rw [if_pos]
  rcases h with h | h
  · exact .inl h
  · exact .inr (.inl (by rw [h]; rfl))

theorem peerRead_refused {s : State} {slot va n : Nat} (h : s.peerKeys slot va n needR = none) :
    exec (.peerAccessRequest slot va (.read n)) s = .next (peerRefusal s) := by
  show event (peerAccessBody slot va (.read n) s) = _
  simp only [peerAccessBody, h]
  rfl

theorem peerWrite_refused {s : State} {slot va : Nat} {bs : List Byte} (h : s.peerKeys slot va bs.length needW = none) :
    exec (.peerAccessRequest slot va (.write bs)) s = .next (peerRefusal s) := by
  show event (peerAccessBody slot va (.write bs) s) = _
  simp only [peerAccessBody, h]
  rfl

theorem peerRead_done {s : State} {slot va n : Nat} {ks : List Nat} (h : s.peerKeys slot va n needR = some ks) :
    exec (.peerAccessRequest slot va (.read n)) s = .next { s with last := .event, hostData := ks.map s.mem.get } := by
  show event (peerAccessBody slot va (.read n) s) = _
  simp only [peerAccessBody, h]
  rfl

theorem write_regs (s : State) (kvs : List (Nat × Byte)) : (s.write kvs).groups.map (·.regs) = s.groups.map (·.regs) := by
  simp only [State.write, List.map_map]
  rfl

theorem peerWrite_done {s : State} {slot va : Nat} {bs : List Byte} {ks : List Nat} (h : s.peerKeys slot va bs.length needW = some ks) :
    ∃ t, exec (.peerAccessRequest slot va (.write bs)) s = .next t ∧ t.last = .event ∧ t.hostData = [] ∧ t.mem = s.mem.setAll (ks.zip bs) ∧
      t.ctxs = s.ctxs ∧ t.groups.map (·.regs) = s.groups.map (·.regs) := by
  refine ⟨{ s.write (ks.zip bs) with hostData := [], last := .event }, ?_, rfl, rfl, rfl, rfl, write_regs s _⟩
  show event (peerAccessBody slot va (.write bs) s) = _
  simp only [peerAccessBody, h]
  rfl

/-- An atomic of a peer: the bytes it works on and the rule of its new value. -/
def peerStep : PeerOp → Option (Nat × (Nat → Nat))
  | .atom op w64 v => some (if w64 then 8 else 4, fun old => atomVal op (8 * if w64 then 8 else 4) old v.toNat)
  | .cas w64 x y => some (if w64 then 8 else 4, fun old =>
      if old = x.toNat % 2 ^ (8 * if w64 then 8 else 4) then y.toNat % 2 ^ (8 * if w64 then 8 else 4) else old)
  | .cas2 x y => some (16, fun old => if old = x.toNat then y.toNat else old)
  | _ => none

/-- What an atomic of a peer does to the device. -/
def State.peerAtomic (s : State) (slot va n : Nat) (f : Nat → Nat) : State :=
  State.report (match s.peerKeys slot va n needAtomic with
    | some (k :: _) =>
      if va % n ≠ 0 then { s with hostData := bytesOfWord 2 0x010C }
      else { s.writeNum k n (f (s.mem.num k n)) with hostData := bytesOfWord n (s.mem.num k n) }
    | _ => { s with hostData := bytesOfWord 2 0x010C }) .event

theorem exec_peerStep {s : State} {slot va n : Nat} {op : PeerOp} {f : Nat → Nat} (hop : peerStep op = some (n, f)) :
    exec (.peerAccessRequest slot va op) s = .next (s.peerAtomic slot va n f) := by
  cases op with
  | read => exact absurd hop (by simp [peerStep])
  | write => exact absurd hop (by simp [peerStep])
  | atom op w64 v =>
    obtain ⟨rfl, rfl⟩ := Prod.mk.inj (Option.some.inj hop)
    rfl
  | cas w64 x y =>
    obtain ⟨rfl, rfl⟩ := Prod.mk.inj (Option.some.inj hop)
    rfl
  | cas2 x y =>
    obtain ⟨rfl, rfl⟩ := Prod.mk.inj (Option.some.inj hop)
    rfl

theorem peerAtomic_refused {s : State} {slot va n : Nat} {f : Nat → Nat} (h : va % n ≠ 0 ∨ s.peerKeys slot va n needAtomic = none) :
    s.peerAtomic slot va n f = peerRefusal s := by
  unfold State.peerAtomic
  split
  · next hk =>
    have ha : va % n ≠ 0 := h.resolve_right (by simp [hk])
    rw [if_pos ha]
    rfl
  · rfl

/-- An atomic of a peer that reaches its bytes. -/
theorem peerAtomic_done {s : State} {slot va n k : Nat} {ks : List Nat} {f : Nat → Nat} (w : Memory.wf s.mem = true) (ha : va % n = 0)
    (hk : s.peerKeys slot va n needAtomic = some (k :: ks)) (hf : f (s.mem.num k n) < 256 ^ n) :
    let t := s.peerAtomic slot va n f
    t.last = .event ∧ t.hostData = bytesOfWord n (s.mem.num k n) ∧ keepsMem s t k n ∧ t.mem.num k n = f (s.mem.num k n) ∧
      t.groups.map (·.regs) = s.groups.map (·.regs) := by
  have e : s.peerAtomic slot va n f =
      { s.writeNum k n (f (s.mem.num k n)) with last := .event, hostData := bytesOfWord n (s.mem.num k n) } := by
    unfold State.peerAtomic
    rw [hk]
    exact congrArg (State.report · .event) (if_neg (by simp [ha]))
  rw [e]
  refine ⟨rfl, rfl, fun x hx => ?_, (Mem.num_setNum w).trans (Nat.mod_eq_of_lt hf), write_regs s _⟩
  exact Mem.get_setBytes_other w (by rwa [length_bytesOfWord])

end Sys2Proof.Machine
end

section
/-! # Taking a trap (R338-R344, R357)

`State.raise` and `State.takeTrap` write a frame of 12 KiB and deliver the fault: a handler is entered, or the context freezes under a
fatal record. -/

namespace Sys2Proof.Machine
open Sys2Proof.Claims

/-! ### The images that a trap writes -/

/-- A row of blocks of one length. -/
theorem length_flatMap_const {α : Type} {f : α → List Byte} {n : Nat} (l : List α) (h : ∀ a, (f a).length = n) :
    (l.flatMap f).length = l.length * n := by
  rw [List.length_flatMap, List.map_congr_left (g := fun _ => n) fun a _ => h a, List.map_const', List.sum_replicate, smul_eq_mul]

theorem length_qstateBytes (h : Nat) (q : List QPos) : (qstateBytes h q).length = 8 := length_bytesOfWord 8 _

theorem length_rqBytes (rq : List RqEntry) : (rqBytes rq).length = 0x200 := by
  refine length_flatMap_const (n := 64) (List.range 8) fun i => ?_
  split
  · simp [RqEntry.bytes]
  · simp

theorem length_frameBytes {g : Group} (hg : g.flags.length = 12) (f : Frame) (n : Nat) : (g.frameBytes f n).length = 0x400 := by
  simp [Group.frameBytes, Frame.bytes, length_qstateBytes, length_rqBytes, List.length_flatMap, hg]

theorem length_pathBytes (ents : List REntry) (p : Path) : (pathBytes ents p).length = 320 := by
  unfold pathBytes
  extract_lets stk kind parked
  rw [List.length_append, List.length_append, length_flatMap_const (n := 16)]
  · simp
  · intro i
    split
    · simp [entBytes]
    · simp

theorem length_pathArea (ents : List REntry) (ps : List Path) : (pathArea ents ps).length = 0xC00 := by
  unfold pathArea
  extract_lets qs
  have h : qs.length ≤ 9 := List.length_take_le _ _
  rw [List.length_append, List.length_append, length_flatMap_const qs (length_pathBytes ents), length_zeros, length_zeros]
  omega

/-- The operand blocks of a replay queue (R344). -/
def operandBlocks (rq : List RqEntry) : List Byte :=
  (List.range 8).flatMap fun i => match rq[i]? with
    | some r => r.operands
    | none => zeros 512

theorem length_operandBlocks (rq : List RqEntry) : (operandBlocks rq).length = 0x1000 := by
  refine length_flatMap_const (n := 512) (List.range 8) fun i => ?_
  split
  · exact length_flatMap_const (n := 8) (List.range 64) fun l => length_bytesOfWord 8 _
  · simp

/-! ### A frame in memory -/

/-- The base of a group's record in the context save area. -/
def State.record (s : State) (g : Group) : Nat := (s.ctx g.slot).csaGroup g.gid

variable {s : State} {g : Group} {fr : Frame} {ents : List REntry} {ps : List Path}

theorem State.writeBytes_frame (s : State) (k : Nat) (bs : List Byte) :
    s.writeBytes k bs = { s with mem := s.mem.setBytes k bs, groups := (s.writeBytes k bs).groups } := rfl

@[simp] theorem State.writeBytes_mem (s : State) (k : Nat) (bs : List Byte) : (s.writeBytes k bs).mem = s.mem.setBytes k bs := rfl

/-- A frame's write changes memory and the watches of paths, and nothing else. -/
theorem State.writeFrame_frame (s : State) (g : Group) (f : Frame) (save : Bool) (ents : List REntry) (ps : List Path) :
    ∃ m gs, s.writeFrame g f save ents ps = { s with mem := m, groups := gs } := by
  unfold State.writeFrame
  extract_lets b ops
  rw [State.writeBytes_frame ((s.writeBytes _ _).writeBytes _ _), State.writeBytes_frame (s.writeBytes _ _), State.writeBytes_frame s]
  exact ⟨_, _, rfl⟩

theorem writeFrame_mem : (s.writeFrame g fr false ents ps).mem =
    ((s.mem.setBytes (s.record g) (g.frameBytes fr ps.length)).setBytes (s.record g + 0x800) (pathArea ents ps)).setBytes
      (s.record g + 0x2000) (operandBlocks g.rq) := by
  unfold State.writeFrame
  rw [State.writeBytes_mem, State.writeBytes_mem, State.writeBytes_mem]
  rfl

theorem writeFrame_group {i : Nat} {h : Group} (hh : s.groups[i]? = some h) :
    ∃ qs, (s.writeFrame g fr false ents ps).groups[i]? = some { h with paths := qs } := by
  unfold State.writeFrame State.writeBytes
  rw [State.group_write, State.group_write, State.group_write, hh]
  exact ⟨_, rfl⟩

/-- Outside the group's record memory is as before. -/
theorem writeFrame_get_other (w : Memory.wf s.mem = true) (hfl : g.flags.length = 12) {x : Nat} (hx : x < s.record g ∨ s.record g + 0x3000 ≤ x) :
    (s.writeFrame g fr false ents ps).mem.get x = s.mem.get x := by
  rw [writeFrame_mem, Mem.get_setBytes_other (Memory.wf_setBytes _ _ (Memory.wf_setBytes _ _ w)) (by rw [length_operandBlocks]; omega),
    Mem.get_setBytes_other (Memory.wf_setBytes _ _ w) (by rw [length_pathArea]; omega),
    Mem.get_setBytes_other w (by rw [length_frameBytes hfl]; omega)]

/-- A field of a frame as memory holds it. -/
theorem writeFrame_num (w : Memory.wf s.mem = true) (hfl : g.flags.length = 12) {off n v : Nat} (ho : off + n ≤ 0x34)
    (hv : (fr.bytes.drop off).take n = bytesOfWord n v) :
    (s.writeFrame g fr false ents ps).mem.num (s.record g + off) n = v % 256 ^ n := by
  have hlen := length_frameBytes hfl fr ps.length
  have hfb : fr.bytes.length = 0x34 := by simp [Frame.bytes]
  have hslice : ((g.frameBytes fr ps.length).drop off).take n = (fr.bytes.drop off).take n := by
    unfold Group.frameBytes
    simp only [List.append_assoc]
    rw [List.drop_append_of_le_length (by omega), List.take_append_of_le_length (by rw [List.length_drop]; omega)]
  rw [writeFrame_mem, Mem.num_setBytes_other (Memory.wf_setBytes _ _ (Memory.wf_setBytes _ _ w)) (by unfold apart; omega),
    Mem.num_setBytes_other (Memory.wf_setBytes _ _ w) (by unfold apart; omega), Mem.num_setBytes w (by omega), hslice, hv,
    wordOfBytes_bytesOfWord]

/-! ### The group that takes a trap -/

theorem Group.length_flags_lowerFlag (g : Group) (f : Option Nat) : (g.lowerFlag f).flags.length = g.flags.length := by
  cases f <;> simp [Group.lowerFlag]

/-- The flags of cancelled loads fall; nothing else of the group changes. -/
theorem Group.lowerFlags_frame (ls : List Op) (g : Group) : ∃ fl : List Nat, fl.length = g.flags.length ∧
    ls.foldl (fun h o => (h.lowerFlag o.flag).lowerFlag o.flag2) g = { g with flags := fl } := by
  induction ls generalizing g with
  | nil => exact ⟨g.flags, rfl, rfl⟩
  | cons o ls ih =>
    obtain ⟨fl, hl, e⟩ := ih ((g.lowerFlag o.flag).lowerFlag o.flag2)
    refine ⟨fl, by rw [hl, Group.length_flags_lowerFlag, Group.length_flags_lowerFlag], ?_⟩
    rw [List.foldl_cons, e, Group.lowerFlag_frame (g.lowerFlag o.flag), Group.lowerFlag_frame g]

/-- The replay queue of a group's cancelled loads (R339, R344). -/
def Group.replays (g : Group) : List RqEntry := ((g.ops.filter (·.plain)).map Op.rqEntry).take 8

/-- Cancelled loads stand in the replay queue; the other operations stay in flight (R339). -/
theorem Group.cancelLoads_eq (g : Group) : ∃ fl : List Nat, fl.length = g.flags.length ∧
    g.cancelLoads = { g with flags := fl, rq := g.replays, ops := g.ops.filter fun o => !o.plain } := by
  obtain ⟨fl, hl, e⟩ := Group.lowerFlags_frame (g.ops.filter Op.isPlain) g
  refine ⟨fl, hl, ?_⟩
  unfold Group.cancelLoads
  extract_lets ls g'
  have hg : g' = { g with flags := fl } := e
  rw [hg]
  rfl

/-- The paths that a trap keeps, the faulting one first (R339). -/
def Group.keptPaths (g : Group) (pid : Nat) : List Path :=
  ((g.paths.filter (·.id == pid)) ++ (g.paths.filter (·.id != pid))).map Path.wake

theorem mem_keptPaths {pid : Nat} {p : Path} (hp : p ∈ g.paths) :
    ∃ q ∈ g.keptPaths pid, q.id = p.id ∧ q.pc = p.pc ∧ q.exec = p.exec ∧ q.held = p.held ∧ q.stack = p.stack ∧ q.split = p.split := by
  have hw : p.wake.id = p.id ∧ p.wake.pc = p.pc ∧ p.wake.exec = p.exec ∧ p.wake.held = p.held ∧ p.wake.stack = p.stack ∧
      p.wake.split = p.split := by
    unfold Path.wake
    split <;> exact ⟨rfl, rfl, rfl, rfl, rfl, rfl⟩
  refine ⟨p.wake, List.mem_map_of_mem ?_, hw⟩
  by_cases h : p.id = pid
  · exact List.mem_append_left _ (List.mem_filter.2 ⟨hp, by simp [h]⟩)
  · exact List.mem_append_right _ (List.mem_filter.2 ⟨hp, by simp [h]⟩)

theorem mem_replays {o : Op} (ho : o ∈ (g.ops.filter (·.plain)).take 8) :
    ∃ r ∈ g.replays, r.op.id = o.id ∧ r.op.kind = o.kind ∧ r.op.dsts = o.dsts ∧ r.op.flag = o.flag := by
  refine ⟨o.rqEntry, ?_, rfl, rfl, rfl, rfl⟩
  rw [Group.replays, ← List.map_take]
  exact List.mem_map_of_mem ho

/-- The frame of a group's trap (R339, R343). -/
def Group.frameOf (g : Group) (f : FaultInfo) (fpc cpc pid : Nat) : Frame := ({ g with rq := g.replays } : Group).trapFrame f fpc cpc pid

/-- A group whose trap has been taken and not yet delivered; `fl` is what its flags have fallen to. -/
def Group.trapped (g : Group) (fl : List Nat) (f : FaultInfo) (fpc cpc pid : Nat) : Group :=
  { g with
    flags := fl, rq := g.replays, ops := g.ops.filter fun o => !o.plain, frame := some (g.frameOf f fpc cpc pid), trapPaths := g.keptPaths pid,
    trapEnts := g.ents, trapAst := g.ast }

variable {gi fpc cpc pid : Nat} {f : FaultInfo}

/-- A trap that can be taken: the frame is written, and the fault delivered. -/
theorem takeTrap_eq (hg : s.groups[gi]? = some g) (hst : g.st = .trapping f fpc cpc pid) (ha : g.ops.any Op.awaited = false) :
    ∃ fl : List Nat, fl.length = g.flags.length ∧
      let gt := g.trapped fl f fpc cpc pid
      s.takeTrap gi = ((s.setG gi gt).writeFrame gt (g.frameOf f fpc cpc pid) false g.ents (g.keptPaths pid)).deliver gi f fpc := by
  obtain ⟨fl, hl, e⟩ := g.cancelLoads_eq
  refine ⟨fl, hl, ?_⟩
  unfold State.takeTrap
  rw [hg]
  dsimp only
  rw [hst]
  dsimp only
  rw [if_neg (by simp [ha]), e]
  rfl

/-! ### A handler is entered (R341) -/

theorem isTarget_congr {s t : State} (hm : t.mem = s.mem) (hc : t.ctxs = s.ctxs) (ht : t.tlbs = s.tlbs) (cl slot a : Nat) :
    t.isTarget cl slot a = s.isTarget cl slot a := by
  obtain ⟨⟩ := s
  obtain ⟨⟩ := t
  cases hm
  cases hc
  cases ht
  rfl

end Sys2Proof.Machine
end

section
/-! # A trap taken is a frame in memory and a fault delivered

`Framed` says what stands once the frame has been written; the two ends of the delivery (R340) both start from it. -/

namespace Sys2Proof.Machine
open Sys2Proof.Claims

variable {s u : State} {g gu : Group} {gi fpc cpc pid : Nat} {f : FaultInfo}

/-! ### The frame's fields in memory (R343) -/

/-- Where a frame's image holds its addresses, code and mask. -/
theorem Frame.bytes_slices (fr : Frame) :
    (fr.bytes.drop 0).take 8 = bytesOfWord 8 fr.cpc ∧ (fr.bytes.drop 0x10).take 8 = bytesOfWord 8 fr.fpc ∧
    (fr.bytes.drop 0x18).take 8 = bytesOfWord 8 fr.faddr ∧ (fr.bytes.drop 0x20).take 4 = bytesOfWord 4 fr.fcode ∧
    (fr.bytes.drop 0x24).take 4 = bytesOfWord 4 fr.fmask.toNat := by
  simp [Frame.bytes, List.drop_append, List.drop_of_length_le]

/-- A frame stands at `B` in memory. -/
def FrameAt (m : Mem) (B : Nat) (fr : Frame) : Prop :=
  m.num B 8 = fr.cpc % 2 ^ 64 ∧ m.num (B + 0x10) 8 = fr.fpc % 2 ^ 64 ∧ m.num (B + 0x18) 8 = fr.faddr % 2 ^ 64 ∧
    m.num (B + 0x20) 4 = fr.fcode % 2 ^ 32 ∧ m.num (B + 0x24) 4 = fr.fmask.toNat

theorem frameAt_writeFrame {fr : Frame} {ents : List REntry} {ps : List Path} (w : Memory.wf s.mem = true) (hfl : g.flags.length = 12) :
    FrameAt (s.writeFrame g fr false ents ps).mem (s.record g) fr := by
  obtain ⟨hcpc, hfpc, haddr, hcode, hmask⟩ := fr.bytes_slices
  have field (off n v : Nat) (ho : off + n ≤ 0x34) (hv : (fr.bytes.drop off).take n = bytesOfWord n v) :
      (s.writeFrame g fr false ents ps).mem.num (s.record g + off) n = v % 2 ^ (8 * n) := by
    rw [writeFrame_num w hfl ho hv, Nat.pow_mul]
  refine ⟨field 0 8 _ (by omega) hcpc, field 0x10 8 _ (by omega) hfpc, field 0x18 8 _ (by omega) haddr, field 0x20 4 _ (by omega) hcode, ?_⟩
  rw [field 0x24 4 _ (by omega) hmask]
  exact Nat.mod_eq_of_lt fr.fmask.isLt

/-- HSTATE stands behind a frame's fields. -/
theorem FrameAt.setNum_hstate {m : Mem} {B v : Nat} {fr : Frame} (w : Memory.wf m = true) (h : FrameAt m B fr) :
    FrameAt (m.setNum (B + 0x34) 4 v) B fr := by
  have hk (off n : Nat) (ho : off + n ≤ 0x34) : (m.setNum (B + 0x34) 4 v).num (B + off) n = m.num (B + off) n :=
    Mem.num_setBytes_other w (.inl (by omega))
  obtain ⟨hcpc, hfpc, haddr, hcode, hmask⟩ := h
  exact ⟨(hk 0 8 (by omega)).trans hcpc, (hk 0x10 8 (by omega)).trans hfpc, (hk 0x18 8 (by omega)).trans haddr,
    (hk 0x20 4 (by omega)).trans hcode, (hk 0x24 4 (by omega)).trans hmask⟩

/-! ### Before the fault is delivered -/

/-- The state `u`, in which a group's frame has been written and the fault is not yet delivered. -/
structure Framed (s u : State) (gi : Nat) (g gu : Group) (f : FaultInfo) (fpc cpc pid : Nat) : Prop where
  state : ∃ m gs, u = { s with mem := m, groups := gs }
  here : u.groups[gi]? = some gu
  group : ∃ fl qs st bw, gu = { g.trapped fl f fpc cpc pid with paths := qs, st := st, bwait := bw }
  wf : Memory.wf u.mem = true
  frame : FrameAt u.mem (s.record g) (g.frameOf f fpc cpc pid)
  outside : ∀ x, x < s.record g ∨ s.record g + 0x3000 ≤ x → u.mem.get x = s.mem.get x

/-- A trap that can be taken writes the frame, and then the fault is delivered. -/
theorem takeTrap_framed (hg : s.groups[gi]? = some g) (hst : g.st = .trapping f fpc cpc pid) (w : Memory.wf s.mem = true)
    (hfl : g.flags.length = 12) (ha : g.ops.any Op.awaited = false) :
    ∃ u gu, Framed s u gi g gu f fpc cpc pid ∧ s.takeTrap gi = u.deliver gi f fpc := by
  obtain ⟨fl, hl, e⟩ := takeTrap_eq hg hst ha
  have hlt : gi < s.groups.length := (List.getElem?_eq_some_iff.1 hg).1
  have hgt : (s.setG gi (g.trapped fl f fpc cpc pid)).groups[gi]? = some (g.trapped fl f fpc cpc pid) := List.getElem?_set_self hlt
  have hfl' : (g.trapped fl f fpc cpc pid).flags.length = 12 := hl.trans hfl
  obtain ⟨qs, hu⟩ := writeFrame_group (g := g.trapped fl f fpc cpc pid) (fr := g.frameOf f fpc cpc pid) (ents := g.ents)
    (ps := g.keptPaths pid) hgt
  refine ⟨_, _, ⟨?_, hu, ⟨fl, qs, _, _, rfl⟩, State.wf_writeFrame _ _ _ _ _ _ w, frameAt_writeFrame w hfl',
    fun x hx => writeFrame_get_other w hfl' hx⟩, e⟩
  obtain ⟨m, gs, e⟩ := State.writeFrame_frame (s.setG gi (g.trapped fl f fpc cpc pid)) (g.trapped fl f fpc cpc pid) (g.frameOf f fpc cpc pid)
    false g.ents (g.keptPaths pid)
  exact ⟨m, gs, e⟩

/-- A fault whose class traps is a trap taken at once (R338). -/
theorem raise_eq_takeTrap (hg : s.groups[gi]? = some g) (ht : traps f) :
    s.raise gi f fpc cpc pid = (s.setG gi { g with st := .trapping f fpc cpc pid, bwait := [] }).takeTrap gi := by
  unfold State.raise
  rw [hg]
  rcases ht with h | h | h | h <;> rw [h]

/-- A fault whose trap can be taken writes the frame, and then is delivered. -/
theorem raise_framed (hg : s.groups[gi]? = some g) (ht : traps f) (w : Memory.wf s.mem = true) (hfl : g.flags.length = 12)
    (ha : g.ops.any Op.awaited = false) :
    ∃ u gu, Framed s u gi g gu f fpc cpc pid ∧ s.raise gi f fpc cpc pid = u.deliver gi f fpc := by
  have hlt : gi < s.groups.length := (List.getElem?_eq_some_iff.1 hg).1
  rw [raise_eq_takeTrap hg ht]
  obtain ⟨u, gu, h, e⟩ := takeTrap_framed (s := s.setG gi { g with st := .trapping f fpc cpc pid, bwait := [] }) (gi := gi) (f := f)
    (fpc := fpc) (cpc := cpc) (pid := pid) (List.getElem?_set_self hlt) rfl w hfl ha
  refine ⟨u, gu, ⟨?_, h.here, ?_, h.wf, h.frame, h.outside⟩, e⟩
  · obtain ⟨m, gs, e⟩ := h.state
    exact ⟨m, gs, e⟩
  · obtain ⟨fl, qs, st, bw, e⟩ := h.group
    exact ⟨fl, qs, st, bw, e⟩

/-- A state that differs outside neither the contexts nor the translations, nor in memory outside the group's record, marks what it marked. -/
theorem isTarget_of_marks {b : Bool} (hm : marks s g b) (hc : u.ctxs = s.ctxs) (ht : u.tlbs = s.tlbs)
    (ho : ∀ x, x < s.record g ∨ s.record g + 0x3000 ≤ x → u.mem.get x = s.mem.get x) :
    u.isTarget g.gid.cluster g.slot g.regs.tvec.toNat = b :=
  (isTarget_congr (s := { s with mem := u.mem }) (t := u) rfl hc ht _ _ _).trans (hm u.mem ho)

namespace Framed
variable (h : Framed s u gi g gu f fpc cpc pid)
include h

theorem ctx_eq (k : Nat) : u.ctx k = s.ctx k := by
  obtain ⟨m, gs, e⟩ := h.state
  rw [e]
  rfl

theorem clock_eq : u.clock = s.clock := by
  obtain ⟨m, gs, e⟩ := h.state
  rw [e]

theorem record_eq : u.record gu = s.record g := by
  obtain ⟨fl, qs, st, bw, rfl⟩ := h.group
  exact congrArg (fun c : Context => c.csaGroup g.gid) (h.ctx_eq g.slot)

/-- Whether TVEC is marked is as it was. -/
theorem isTarget_eq {b : Bool} (hm : marks s g b) : u.isTarget gu.gid.cluster gu.slot gu.regs.tvec.toNat = b := by
  obtain ⟨m, gs, e⟩ := h.state
  obtain ⟨fl, qs, st, bw, rfl⟩ := h.group
  exact isTarget_of_marks hm (by rw [e]) (by rw [e]) h.outside

end Framed

/-! ### A handler is entered (R341) -/

/-- A group in its handler. -/
def Group.entered (g : Group) (now : Nat) : Group :=
  { g with inh := true, st := .run, paths := [handlerPath g.nextPid g.regs.tvec.toNat now], ents := [], nextPid := g.nextPid + 1 }

theorem deliver_enters (hg : s.groups[gi]? = some g) (hd : f.cls ≠ .direct) (hi : g.inh = false) (hv : g.regs.tvec ≠ 0)
    (ht : s.isTarget g.gid.cluster g.slot g.regs.tvec.toNat = true) (hf : g.frame.isSome = true) :
    s.deliver gi f fpc = (s.setG gi (g.entered s.clock.toNat)).writeNum (s.record g + 0x34) 4 (1 + g.held.toNat * 2 + g.trapPaths.length * 16) := by
  have hlt : gi < s.groups.length := (List.getElem?_eq_some_iff.1 hg).1
  have hv' : g.regs.tvec.toNat ≠ 0 := fun h => hv (BitVec.eq_of_toNat_eq h)
  unfold State.deliver
  rw [hg]
  dsimp only
  rw [if_pos ⟨hd, by simp [hi], hv', ht⟩]
  unfold State.syncHstate
  rw [State.setG_groups, List.getElem?_set_self hlt]
  dsimp only
  rw [if_pos hf]
  rfl

theorem entered_group (hlt : gi < s.groups.length) (k v now : Nat) :
    ((s.setG gi (g.entered now)).writeNum k 4 v).groups[gi]? = some (g.entered now) := by
  unfold State.writeNum
  rw [State.group_write, State.setG_groups, List.getElem?_set_self hlt]
  rfl

/-- Where the handler can run, the delivery enters it. -/
theorem Framed.deliver_entered (h : Framed s u gi g gu f fpc cpc pid) (hc : CanEnter s g) (hd : f.cls ≠ .direct) :
    Entered s (u.deliver gi f fpc) gi g f fpc cpc pid := by
  obtain ⟨-, -, -, -, hi, hv, hmark⟩ := hc
  have ht := h.isTarget_eq hmark
  have hrec := h.record_eq
  have hnow := h.clock_eq
  have hlt : gi < u.groups.length := (List.getElem?_eq_some_iff.1 h.here).1
  have hother := h.outside
  have hwf := h.wf
  have hframe := h.frame
  have hhere := h.here
  obtain ⟨fl, qs, st, bw, rfl⟩ := h.group
  rw [deliver_enters hhere hd hi hv ht rfl, hrec]
  generalize (1 + _ + _ : Nat) = v
  obtain ⟨hcpc, hfpc, haddr, hcode, hmask⟩ := hframe.setNum_hstate (v := v) hwf
  refine ⟨_, g.frameOf f fpc cpc pid, entered_group hlt _ _ _, rfl, rfl, rfl, rfl, rfl, ?_, rfl, rfl, rfl, fun o ho => mem_replays ho,
    fun p hp => mem_keptPaths hp, rfl, rfl, rfl, rfl, ?_, ?_, rfl, hcpc, hfpc, haddr, hcode, hmask, ?_⟩
  · rw [← hnow]
    rfl
  · intro p hp
    show (match g.path pid with | some p => p.exec | none => 0) = p.exec
    rw [hp]
  · show f.fcode = _
    unfold FaultInfo.fcode
    cases f.aorg.isSome <;> cases f.late <;> cases f.hi <;> rfl
  · intro x hx
    refine (Mem.get_setBytes_other hwf ?_).trans (hother x hx)
    rw [length_bytesOfWord]
    unfold State.record
    omega

theorem takeTrap_entered (hg : s.groups[gi]? = some g) (hst : g.st = .trapping f fpc cpc pid) (hc : CanEnter s g) (hd : f.cls ≠ .direct) :
    Entered s (s.takeTrap gi) gi g f fpc cpc pid := by
  obtain ⟨w, hshape, -, ha, -, -, -⟩ := id hc
  obtain ⟨u, gu, h, e⟩ := takeTrap_framed hg hst w hshape.flags ha
  rw [e]
  exact h.deliver_entered hc hd

theorem raise_entered (hg : s.groups[gi]? = some g) (ht : traps f) (hc : CanEnter s g) (hd : f.cls ≠ .direct) :
    Entered s (s.raise gi f fpc cpc pid) gi g f fpc cpc pid := by
  obtain ⟨w, hshape, -, ha, -, -, -⟩ := id hc
  obtain ⟨u, gu, h, e⟩ := raise_framed hg ht w hshape.flags ha
  rw [e]
  exact h.deliver_entered hc hd

end Sys2Proof.Machine
end

section
/-! # A fault that ends the run of a context (R330, R340, R345, R346) -/

namespace Sys2Proof.Machine
open Sys2Proof.Claims

variable {s u : State} {g gu : Group} {gi fpc cpc pid : Nat} {f : FaultInfo}

/-! ### A record in the trap queue (R346) -/

/-- The word of a record that holds its code and its flags (R346). -/
def Rec.codeWord (r : Rec) : Nat := r.code + r.kind * 2 ^ 16 + r.stop.toNat * 2 ^ 18 + r.nest.toNat * 2 ^ 19 + r.master * 2 ^ 20

/-- The 64 bytes of a record with a sequence number. -/
def Rec.image (r : Rec) (prod : Nat) : List Byte :=
  bytesOfWord 4 prod ++ bytesOfWord 4 r.codeWord ++
    bytesOfWord 8 r.addr ++ bytesOfWord 8 r.pc ++ bytesOfWord 8 r.apc ++ bytesOfWord 4 r.who ++ bytesOfWord 4 r.info ++
    bytesOfWord 8 r.lage ++ bytesOfWord 8 r.tidx ++ bytesOfWord 8 0

@[simp] theorem Rec.length_image (r : Rec) (prod : Nat) : (r.image prod).length = 64 := by simp [Rec.image]

/-- Where the next record of a queue stands. -/
def State.recAt (s : State) (slot : Nat) : Nat :=
  (s.ctx slot).tqHeader + 64 + 64 * (s.mem.num (s.ctx slot).tqHeader 4 % (s.ctx slot).tqN)

/-- A record is written, then the count of records, then the vector is raised. -/
theorem writeRec_eq_image (slot : Nat) (r : Rec) :
    let hdr := (s.ctx slot).tqHeader
    let prod := s.mem.num hdr 4
    (s.writeRec slot r).2 =
      ((s.write ((r.image prod).zipIdx.map fun p => (s.recAt slot + p.2, p.1))).writeNum hdr 4 (prod + 1)).raiseMsix slot := rfl

theorem writeNum_mem (k n v : Nat) : (s.writeNum k n v).mem = s.mem.setNum k n v := rfl

theorem post_mem {slot : Nat} {r : Rec} (h : 0 < s.tqFree slot) :
    (s.post slot r).mem = (s.mem.setBytes (s.recAt slot) (r.image (s.mem.num (s.ctx slot).tqHeader 4))).setNum
      (s.ctx slot).tqHeader 4 (s.mem.num (s.ctx slot).tqHeader 4 + 1) := by
  unfold State.post
  rw [if_pos (show 1 ≤ s.tqFree slot from h), writeRec_eq_image, State.raiseMsix_mem, writeNum_mem, State.write_mem, Mem.setBytes]

/-- Where a record's image holds its fields. -/
theorem Rec.image_slices (r : Rec) (prod : Nat) :
    ((r.image prod).drop 0).take 4 = bytesOfWord 4 prod ∧
    ((r.image prod).drop 4).take 4 = bytesOfWord 4 r.codeWord ∧
    ((r.image prod).drop 8).take 8 = bytesOfWord 8 r.addr ∧ ((r.image prod).drop 16).take 8 = bytesOfWord 8 r.pc ∧
    ((r.image prod).drop 32).take 4 = bytesOfWord 4 r.who ∧ ((r.image prod).drop 36).take 4 = bytesOfWord 4 r.info ∧
    ((r.image prod).drop 40).take 8 = bytesOfWord 8 r.lage := by
  simp [Rec.image, List.drop_append, List.drop_of_length_le]

theorem FCode.num_lt (c : FCode) : c.num < 2 ^ 16 := by
  cases c <;> decide

/-- The fields of a record as memory holds them at `a`. -/
def RecAt (m : Mem) (a : Nat) (r : Rec) (prod : Nat) : Prop :=
  m.num a 4 = prod % 2 ^ 32 ∧
    m.num (a + 4) 4 = r.codeWord % 2 ^ 32 ∧
    m.num (a + 8) 8 = r.addr % 2 ^ 64 ∧ m.num (a + 16) 8 = r.pc % 2 ^ 64 ∧ m.num (a + 32) 4 = r.who % 2 ^ 32 ∧
    m.num (a + 36) 4 = r.info % 2 ^ 32 ∧ m.num (a + 40) 8 = r.lage % 2 ^ 64

/-- A record that has been posted stands in the queue, and the queue's count has risen. -/
theorem recAt_post {slot : Nat} {r : Rec} (w : Memory.wf s.mem = true) (h : 0 < s.tqFree slot)
    (ha : apart (s.ctx slot).tqHeader 64 (s.recAt slot) 64) :
    let prod := s.mem.num (s.ctx slot).tqHeader 4
    RecAt (s.post slot r).mem (s.recAt slot) r prod ∧ (s.post slot r).mem.num (s.ctx slot).tqHeader 4 = (prod + 1) % 2 ^ 32 := by
  intro prod
  rw [post_mem h]
  refine ⟨?_, Mem.num_setNum (Memory.wf_setBytes _ _ w)⟩
  obtain ⟨hprod, hcode, haddr, hpc, hwho, hinfo, hlage⟩ := r.image_slices prod
  have field (off n v : Nat) (ho : off + n ≤ 64) (hv : ((r.image prod).drop off).take n = bytesOfWord n v) :
      ((s.mem.setBytes (s.recAt slot) (r.image prod)).setNum (s.ctx slot).tqHeader 4 (prod + 1)).num (s.recAt slot + off) n = v % 2 ^ (8 * n) := by
    have hap : apart (s.recAt slot + off) n (s.ctx slot).tqHeader (bytesOfWord 4 (prod + 1)).length := by
      rw [length_bytesOfWord]
      unfold apart at ha ⊢
      omega
    rw [Mem.setNum, Mem.num_setBytes_other (Memory.wf_setBytes _ _ w) hap, Mem.num_setBytes w (by simpa using ho), hv, wordOfBytes_bytesOfWord,
      Nat.pow_mul]
  exact ⟨field 0 4 _ (by omega) hprod, field 4 4 _ (by omega) hcode, field 8 8 _ (by omega) haddr, field 16 8 _ (by omega) hpc,
    field 32 4 _ (by omega) hwho, field 36 4 _ (by omega) hinfo, field 40 8 _ (by omega) hlage⟩

/-! ### The context freezes (R330) -/

theorem ctx_setCtx {k : Nat} {c : Context} (h : k < s.ctxs.length) : (s.setCtx k c).ctx k = c := by
  unfold State.ctx State.setCtx
  rw [List.getD_eq_getElem?_getD, List.getElem?_set_self h]
  rfl

/-- The vector of a context: no more of it changes than when and whether it is raised. -/
theorem raiseMsix_ctx {k : Nat} (h : k < s.ctxs.length) :
    ∃ n a b, (s.raiseMsix k).ctx k = { s.ctx k with msix := n, msixAt := a, msixHeld := b } := by
  unfold State.raiseMsix
  dsimp only
  split
  · exact ⟨_, _, _, ctx_setCtx h⟩
  · exact ⟨_, _, _, ctx_setCtx h⟩

theorem raiseMsix_length (k : Nat) : (s.raiseMsix k).ctxs.length = s.ctxs.length := by
  unfold State.raiseMsix
  dsimp only
  split <;> exact List.length_set

theorem post_ctx {k : Nat} {r : Rec} (h : k < s.ctxs.length) :
    ((s.post k r).ctx k).state = (s.ctx k).state ∧ (s.post k r).ctxs.length = s.ctxs.length := by
  unfold State.post
  split
  · obtain ⟨kvs, a, n, e⟩ := State.writeRec_eq s k r
    rw [e]
    obtain ⟨m, a, b, e⟩ := raiseMsix_ctx (s := (s.write kvs).writeNum a 4 n) (k := k) h
    rw [e, raiseMsix_length]
    exact ⟨rfl, rfl⟩
  · exact ⟨rfl, rfl⟩

/-- A context that is frozen with what a freeze is given (R330). -/
def FrozenBy (c : Context) (code who addr pc : Nat) : Prop :=
  c.state = .frozen ∧ c.freeze.cause = BitVec.ofNat 32 code ∧ c.freeze.who = BitVec.ofNat 32 who ∧ c.freeze.addr = BitVec.ofNat 64 addr ∧
    c.freeze.pc = BitVec.ofNat 64 pc

theorem freeze_active {k code who addr pc : Nat} (ha : (s.ctx k).state = .active) :
    ∃ c, s.freeze k code 0 who addr pc = (s.setCtx k c).raiseMsix k ∧ FrozenBy c code who addr pc := by
  unfold State.freeze
  dsimp only
  rw [ha]
  exact ⟨_, rfl, rfl, rfl, rfl, rfl, rfl⟩

/-- An active context freezes. -/
theorem frozenBy_freeze {k code who addr pc : Nat} (h : k < s.ctxs.length) (ha : (s.ctx k).state = .active) :
    FrozenBy ((s.freeze k code 0 who addr pc).ctx k) code who addr pc := by
  obtain ⟨c, e, hc⟩ := freeze_active (code := code) (who := who) (addr := addr) (pc := pc) ha
  obtain ⟨n, a, b, e'⟩ := raiseMsix_ctx (s := s.setCtx k c) (k := k) (by simpa [State.setCtx] using h)
  rw [e, e', ctx_setCtx h]
  exact hc

/-! ### The end of the run (R340) -/

/-- The fatal record of a group's fault. -/
def Group.fatalRec (g : Group) (f : FaultInfo) (c : FCode) (fpc : Nat) : Rec :=
  { code := c.num, kind := 1, stop := true, nest := g.inh, addr := f.addr, pc := fpc, apc := if f.aorg.isSome then g.apc else 0,
    who := g.gid.who, info := f.recInfo, lage := g.lage, tidx := g.tidx }

/-- The state in which a group's fault has ended the run of its context. -/
def State.ended (s : State) (gi slot : Nat) (r : Rec) : State :=
  ((s.post slot r).freeze slot r.code 0 r.who r.addr r.pc).mapG gi fun g => { g with st := .dead }

/-- A fault that no handler takes ends the run, with ILLEGAL_TARGET where TVEC names no marked slot. -/
theorem deliver_ends {c : FCode} (hg : s.groups[gi]? = some g)
    (hc : let marked := s.isTarget g.gid.cluster g.slot g.regs.tvec.toNat
      (g.regs.tvec = 0 ∨ f.cls = .direct ∨ g.inh = true ∧ marked = true) ∧ c = f.code ∨
        g.regs.tvec ≠ 0 ∧ f.cls ≠ .direct ∧ marked = false ∧ c = .illegalTarget) :
    s.deliver gi f fpc = s.ended gi g.slot (g.fatalRec f c fpc) := by
  have hz : g.regs.tvec.toNat = 0 ↔ g.regs.tvec = 0 := ⟨fun h => BitVec.eq_of_toNat_eq h, fun h => by rw [h]; rfl⟩
  have hno : ¬ (f.cls ≠ .direct ∧ ¬ g.inh ∧ g.regs.tvec.toNat ≠ 0 ∧ s.isTarget g.gid.cluster g.slot g.regs.tvec.toNat) := by
    rw [ne_eq, ne_eq, hz]
    grind
  have hcode : (if f.cls ≠ .direct ∧ g.regs.tvec.toNat ≠ 0 ∧ ¬ s.isTarget g.gid.cluster g.slot g.regs.tvec.toNat then .illegalTarget
      else f.code) = c := by
    rcases hc with ⟨h, rfl⟩ | ⟨hv, hd, hm, rfl⟩
    · exact if_neg fun ⟨hd, hv, hm⟩ => by simp_all
    · exact if_pos ⟨hd, fun h => hv (hz.1 h), by simp [hm]⟩
  unfold State.deliver
  rw [hg]
  dsimp only
  rw [if_neg hno, hcode]
  rfl

theorem mapG_ctx (k : Nat) (F : Group → Group) : (s.mapG gi F).ctx k = s.ctx k := rfl

/-- The fields of a fatal record in memory, with the code's flags (R346). -/
theorem recAt_fatalRec {m : Mem} {a fpc prod : Nat} {c : FCode} (h : RecAt m a (g.fatalRec f c fpc) prod) (hlow : prod < 2 ^ 32) :
    m.num a 4 = prod ∧ m.num (a + 4) 4 = c.num + 2 ^ 16 + 2 ^ 18 + (if g.inh then 2 ^ 19 else 0) ∧ m.num (a + 8) 8 = f.addr % 2 ^ 64 ∧
      m.num (a + 16) 8 = fpc % 2 ^ 64 ∧ m.num (a + 32) 4 = g.gid.who % 2 ^ 32 ∧ m.num (a + 36) 4 = f.recInfo % 2 ^ 32 ∧
      m.num (a + 40) 8 = g.lage % 2 ^ 64 := by
  unfold RecAt Rec.codeWord Group.fatalRec at h
  dsimp only at h
  obtain ⟨hprod, hcode, haddr, hpc, hwho, hinfo, hlage⟩ := h
  have hnum := c.num_lt
  refine ⟨?_, ?_, haddr, hpc, hwho, hinfo, hlage⟩
  · rw [hprod, Nat.mod_eq_of_lt hlow]
  · rw [hcode]
    cases g.inh
    · simp only [Bool.toNat_true, Bool.toNat_false, Bool.false_eq_true, if_false]
      omega
    · simp only [Bool.toNat_true, if_true]
      omega

theorem ended_ctx {k : Nat} {r : Rec} (h : k < s.ctxs.length) (ha : (s.ctx k).state = .active) :
    FrozenBy ((s.ended gi k r).ctx k) r.code r.who r.addr r.pc := by
  obtain ⟨hst, hlen⟩ := post_ctx (r := r) h
  unfold State.ended
  rw [mapG_ctx]
  exact frozenBy_freeze (s := s.post k r) (hlen ▸ h) (hst.trans ha)

theorem ended_mem (k : Nat) (r : Rec) : (s.ended gi k r).mem = (s.post k r).mem := by
  unfold State.ended
  rw [State.mapG_mem, State.freeze_mem]

/-- A record keeps all of a group but what its paths watch. -/
theorem post_group {k : Nat} {r : Rec} (hg : s.groups[gi]? = some g) : ∃ qs, (s.post k r).groups[gi]? = some { g with paths := qs } := by
  unfold State.post
  split
  · rw [writeRec_eq_image, State.raiseMsix_groups]
    unfold State.writeNum
    rw [State.group_write, State.group_write, hg]
    exact ⟨_, rfl⟩
  · unfold State.writeNum
    rw [State.group_write, hg]
    exact ⟨_, rfl⟩

theorem ended_group {k : Nat} {r : Rec} (hg : s.groups[gi]? = some g) :
    ∃ qs, (s.ended gi k r).groups[gi]? = some { g with paths := qs, st := .dead } := by
  obtain ⟨qs, h⟩ := post_group (k := k) (r := r) hg
  refine ⟨qs, ?_⟩
  unfold State.ended State.mapG
  rw [State.freeze_groups, List.getElem?_modify_eq, h]
  rfl

namespace Framed
variable (h : Framed s u gi g gu f fpc cpc pid)
include h

/-- A number that stands apart from the group's record is as it was. -/
theorem num_eq {a n k m : Nat} (ha : apart (s.record g) 0x3000 k m) (hk : k ≤ a) (hn : a + n ≤ k + m) : u.mem.num a n = s.mem.num a n :=
  Mem.num_congr fun i hi => h.outside _ (by unfold apart at ha; omega)

theorem ctxs_eq : u.ctxs = s.ctxs := by
  obtain ⟨m, gs, e⟩ := h.state
  rw [e]

/-- The record of a fault does not depend on the trap that has been taken. -/
theorem fatalRec_eq (c : FCode) : gu.slot = g.slot ∧ gu.regs = g.regs ∧ gu.fatalRec f c fpc = g.fatalRec f c fpc := by
  obtain ⟨fl, qs, st, bw, rfl⟩ := h.group
  exact ⟨rfl, rfl, rfl⟩

theorem endsWith_delivers {c : FCode} (he : endsWith s g f c) : u.deliver gi f fpc = u.ended gi g.slot (g.fatalRec f c fpc) := by
  obtain ⟨hslot, -, hrec⟩ := h.fatalRec_eq c
  rw [← hslot, ← hrec]
  refine deliver_ends h.here ?_
  have ht {b : Bool} (hm : marks s g b) := h.isTarget_eq hm
  obtain ⟨fl, qs, st, bw, rfl⟩ := h.group
  rcases he with ⟨hv | hd | ⟨hi, hm⟩, rfl⟩ | ⟨hv, hd, hm, rfl⟩
  · exact .inl ⟨.inl hv, rfl⟩
  · exact .inl ⟨.inr (.inl hd), rfl⟩
  · exact .inl ⟨.inr (.inr ⟨hi, ht hm⟩), rfl⟩
  · exact .inr ⟨hv, hd, ht hm, rfl⟩

/-- What the record of a fatal fault reads as in memory (R346). -/
theorem recAt_ended {c : FCode} (hfree : 0 < s.tqFree g.slot) (hB : apart (s.record g) 0x3000 (s.ctx g.slot).tqHeader 64)
    (hq : apart (s.ctx g.slot).tqHeader 64 (s.recAt g.slot) 64) :
    RecAt (u.ended gi g.slot (g.fatalRec f c fpc)).mem (s.recAt g.slot) (g.fatalRec f c fpc) (s.mem.num (s.ctx g.slot).tqHeader 4) ∧
      (u.ended gi g.slot (g.fatalRec f c fpc)).mem.num (s.ctx g.slot).tqHeader 4 = (s.mem.num (s.ctx g.slot).tqHeader 4 + 1) % 2 ^ 32 := by
  have hctx := h.ctx_eq g.slot
  have hprod : u.mem.num (u.ctx g.slot).tqHeader 4 = s.mem.num (s.ctx g.slot).tqHeader 4 := by
    rw [hctx, h.num_eq hB (by omega) (by omega)]
  have hcons : u.mem.num ((u.ctx g.slot).tqHeader + 4) 4 = s.mem.num ((s.ctx g.slot).tqHeader + 4) 4 := by
    rw [hctx, h.num_eq hB (by omega) (by omega)]
  have hat : u.recAt g.slot = s.recAt g.slot := by
    unfold State.recAt
    rw [hprod, hctx]
  have hf : 0 < u.tqFree g.slot := by
    unfold State.tqFree at hfree ⊢
    dsimp only at hfree ⊢
    rw [hprod, hcons, hctx]
    exact hfree
  have hpost := recAt_post (r := g.fatalRec f c fpc) h.wf hf (by rw [hat, hctx]; exact hq)
  rw [hat, hprod, hctx] at hpost
  rw [ended_mem]
  exact hpost

/-- A fault that no handler takes ends the run of its context. -/
theorem deliver_diesWith {c : FCode} (he : endsWith s g f c) (hd : CanDie s g) : DiesWith s (u.deliver gi f fpc) gi g f fpc c := by
  obtain ⟨-, -, -, -, hslot, hact⟩ := hd
  rw [h.endsWith_delivers he]
  have hfrozen := ended_ctx (s := u) (gi := gi) (r := g.fatalRec f c fpc) (by rw [h.ctxs_eq]; exact hslot) (by rw [h.ctx_eq]; exact hact)
  obtain ⟨qs, hgroup⟩ := ended_group (k := g.slot) (r := g.fatalRec f c fpc) h.here
  obtain ⟨-, hregs, -⟩ := h.fatalRec_eq c
  have hrec := h.recAt_ended (c := c)
  generalize u.ended gi g.slot (g.fatalRec f c fpc) = t at *
  obtain ⟨hst, hcause, hwho, haddr, hpc⟩ := hfrozen
  refine ⟨hst, hcause, hwho, haddr, hpc, ⟨_, hgroup, rfl, hregs⟩, fun hfree hB _ hq => ?_⟩
  obtain ⟨hr, hcount⟩ := hrec hfree hB hq
  exact ⟨hcount, recAt_fatalRec hr (Mem.num_lt _ _ 4)⟩

end Framed

theorem raise_diesWith {c : FCode} (hg : s.groups[gi]? = some g) (ht : traps f) (he : endsWith s g f c) (hd : CanDie s g) :
    DiesWith s (s.raise gi f fpc cpc pid) gi g f fpc c := by
  obtain ⟨w, hshape, -, ha, -⟩ := id hd
  obtain ⟨u, gu, h, e⟩ := raise_framed (cpc := cpc) (pid := pid) hg ht w hshape.flags ha
  rw [e]
  exact h.deliver_diesWith he hd

/-! ### What a trap leaves as it was -/

/-- A delivery changes memory, groups and contexts, and nothing else. -/
theorem deliver_frame (s : State) (gi : Nat) (f : FaultInfo) (fpc : Nat) :
    ∃ m gs cs, s.deliver gi f fpc = { s with mem := m, groups := gs, ctxs := cs } := by
  unfold State.deliver
  split
  · exact ⟨s.mem, s.groups, s.ctxs, rfl⟩
  · dsimp only
    split
    · unfold State.syncHstate
      split
      · split
        · unfold State.writeNum
          rw [State.write_frame]
          exact ⟨_, _, _, rfl⟩
        · exact ⟨_, _, _, rfl⟩
      · exact ⟨_, _, _, rfl⟩
    · unfold State.mapG
      rw [State.freeze_frame, State.post_frame]
      exact ⟨_, _, _, rfl⟩

theorem raise_frame (hg : s.groups[gi]? = some g) (ht : traps f) (w : Memory.wf s.mem = true) (hfl : g.flags.length = 12)
    (ha : g.ops.any Op.awaited = false) :
    ∃ m gs cs, s.raise gi f fpc cpc pid = { s with mem := m, groups := gs, ctxs := cs } := by
  obtain ⟨u, gu, h, e⟩ := raise_framed (cpc := cpc) (pid := pid) hg ht w hfl ha
  obtain ⟨m, gs, eu⟩ := h.state
  obtain ⟨m', gs', cs', e'⟩ := deliver_frame u gi f fpc
  rw [e, e', eu]
  exact ⟨_, _, _, rfl⟩

end Sys2Proof.Machine
end

section
/-! # A link fails (R74, R281) -/

namespace Sys2Proof.Machine
open Sys2Proof.Claims

variable {s : State} {g : Group} {gi fpc cpc pid : Nat} {f : FaultInfo}

/-- A port that has failed. -/
def State.failPort (s : State) (port : Nat) (p : LinkPort) : State := { s with tlanto := s.tlanto.set port { p with st := 3, lanes := 0 } }

/-- What is outstanding to a device ends with LINK_DOWN. -/
def State.failOps (s : State) (xs : List (Nat × Op)) : State :=
  xs.foldl (fun (u : State) x => match u.findOp x.1 x.2.id with
    | some (_, o) => u.lateFault x.1 o { code := .linkDown, addr := o.addrOf 255 }
    | none => u) s

/-- The collectives that reach a device end with LINK_DOWN. -/
def State.failLinks (s : State) (dev : Nat) : State :=
  (List.range 128).foldl (fun (u : State) cl =>
    ((u.cl cl).link.filter fun c => c.sent && u.collReaches c.slot c.kind.coll dev).foldl (fun (u : State) c => u.linkFault cl c .linkDown 0) u) s

theorem linkFailureBody_eq {port : Nat} {p : LinkPort} (h : s.tlanto[port]? = some p) (hp : p.st = 2) :
    linkFailureBody port s = some (((s.failPort port p).failOps (s.opsTo p.dev)).failLinks p.dev) := by
  unfold linkFailureBody
  rw [h]
  dsimp only
  rw [if_neg (by simp [hp])]
  rfl

/-- No collective of any cluster reaches the device: none ends. -/
theorem failLinks_none {dev : Nat} (h : ∀ cl, ∀ c ∈ (s.cl cl).link, c.sent = true → s.collReaches c.slot c.kind.coll dev = false) :
    s.failLinks dev = s := by
  refine List.foldl_fixed' (fun cl => ?_) _
  rw [List.filter_eq_nil_iff.2, List.foldl_nil]
  intro c hc hb
  obtain ⟨hsent, hreach⟩ := Bool.and_eq_true_iff.1 hb
  rw [h cl c hc hsent] at hreach
  exact Bool.false_ne_true hreach

/-- A link over which nothing is outstanding fails alone. -/
theorem linkFailure_alone {port : Nat} {p : LinkPort} (h : s.tlanto[port]? = some p) (hp : p.st = 2)
    (hlink : ∀ cl, ∀ c ∈ (s.cl cl).link, c.sent = true → s.collReaches c.slot c.kind.coll p.dev = false) (hops : s.opsTo p.dev = []) :
    exec (.linkFailure port) s = .next { s with last := .event, tlanto := s.tlanto.set port { p with st := 3, lanes := 0 } } := by
  have hl : (s.failPort port p).failLinks p.dev = s.failPort port p := failLinks_none hlink
  show eventOf s (linkFailureBody port s) = _
  rw [linkFailureBody_eq h hp, hops]
  show event ((s.failPort port p).failLinks p.dev) = _
  rw [hl]
  rfl

/-! ### An operation that ends with LINK_DOWN -/

/-- An operation that ends leaves its group's paths, state and team. -/
theorem Group.complete_keeps (g : Group) (o : Op) : (g.complete o).paths = g.paths ∧ (g.complete o).st = g.st ∧ (g.complete o).tag = g.tag := by
  unfold Group.complete Group.dropOp
  dsimp only
  rw [Group.lowerFlag_frame (g.lowerFlag o.flag), Group.lowerFlag_frame g]
  exact ⟨rfl, rfl, rfl⟩

/-- A late fault of an operation that is not replayed ends the operation, and its group takes it (R75, R339). -/
theorem lateFault_raises {k : Nat} {o : Op} {x : Path} (h : CanFail s gi k g o x) (ho : o.plain = false) :
    s.lateFault gi o f = (s.setG gi (g.complete o)).raise gi { f with late := true, direct := o.isStore } o.pc x.pc x.id := by
  obtain ⟨hg, -, hst, hpath, hstop⟩ := h
  obtain ⟨hpaths, hst', htag⟩ := g.complete_keeps o
  have hlt : gi < s.groups.length := (List.getElem?_eq_some_iff.1 hg).1
  have hmap : (s.mapG gi fun g => if o.isPlain then g.setOp { o with late := some { f with late := true, direct := o.isStore } } else g.complete o) =
      s.setG gi (g.complete o) := by
    unfold State.mapG State.setG
    rw [modify_eq_set hg]
    simp [Op.isPlain, ho]
  have hstop' : (s.setG gi (g.complete o)).stopping (g.complete o) = false := by
    unfold State.stopping at hstop ⊢
    rw [htag]
    exact hstop
  have hpath' : (g.complete o).path o.pid = some x := by
    unfold Group.path at hpath ⊢
    rw [hpaths]
    exact hpath
  unfold State.lateFault
  dsimp only
  rw [hmap, State.setG_groups, List.getElem?_set_self hlt]
  dsimp only
  rw [hpath']
  rw [show (some x <|> (g.complete o).paths.head?) = some x from rfl]
  dsimp only
  rw [hstop', if_neg Bool.false_ne_true, if_pos (hst'.trans hst)]

/-- The one operation outstanding to a device is the one that ends. -/
theorem failOps_one {k : Nat} {o : Op} {x : Path} (h : CanFail s gi k g o x) (ho : o.plain = false) :
    s.failOps [(gi, o)] = (s.setG gi (g.complete o)).raise gi
      { code := .linkDown, addr := o.addrOf 255, late := true, direct := o.isStore } o.pc x.pc x.id := by
  have hid : o.id = k := by simpa using List.find?_some h.found
  have hfind : s.findOp gi o.id = some (g, o) := by
    unfold State.findOp
    rw [h.here, hid]
    dsimp only
    rw [h.found]
    rfl
  show (match s.findOp gi o.id with
    | some (_, o) => s.lateFault gi o { code := .linkDown, addr := o.addrOf 255 }
    | none => s) = _
  rw [hfind]
  exact lateFault_raises h ho

/-- The group of an outstanding operation takes LINK_DOWN. -/
theorem linkFailure_raises {port k : Nat} {p : LinkPort} {o : Op} {x : Path} (h : s.tlanto[port]? = some p) (hp : p.st = 2)
    (hlink : ∀ cl, (s.cl cl).link = []) (hops : s.opsTo p.dev = [(gi, o)]) (hf : CanFail s gi k g o x) (ho : o.plain = false)
    (hshape : Safety.Shaped (g.complete o)) (hw : Memory.wf s.mem = true) (ha : (g.complete o).ops.any Op.awaited = false) :
    let f : FaultInfo := { code := .linkDown, addr := o.addrOf 255, late := true, direct := o.isStore }
    let t := ((s.failPort port p).setG gi (g.complete o)).raise gi f o.pc x.pc x.id
    exec (.linkFailure port) s = .next { t with last := .event } ∧ t.tlanto = s.tlanto.set port { p with st := 3, lanes := 0 } := by
  intro f t
  have hf' : CanFail (s.failPort port p) gi k g o x := ⟨hf.here, hf.found, hf.runs, hf.path, hf.stays⟩
  have ht : traps f := by
    unfold traps f FaultInfo.cls
    cases o.isStore
    · exact .inl rfl
    · exact .inr (.inr (.inl rfl))
  have hlt : gi < (s.failPort port p).groups.length := (List.getElem?_eq_some_iff.1 hf.here).1
  obtain ⟨m, gs, cs, e⟩ := raise_frame (s := (s.failPort port p).setG gi (g.complete o)) (cpc := x.pc) (pid := x.id) (fpc := o.pc)
    (List.getElem?_set_self hlt) ht hw hshape.flags ha
  have hl : t.failLinks p.dev = t := failLinks_none fun cl c hc => by
    have hcl : (t.cl cl).link = [] := by
      rw [show t = _ from e]
      exact hlink cl
    rw [hcl] at hc
    exact absurd hc List.not_mem_nil
  refine ⟨?_, by rw [show t = _ from e]; rfl⟩
  show eventOf s (linkFailureBody port s) = _
  rw [linkFailureBody_eq h hp, hops, failOps_one hf' ho, hl]
  rfl

/-- A load or atomic over a link that fails: its group's handler is entered. -/
theorem linkFailure_entered {port k : Nat} {p : LinkPort} {o : Op} {x : Path} (h : s.tlanto[port]? = some p) (hp : p.st = 2)
    (hlink : ∀ cl, (s.cl cl).link = []) (hops : s.opsTo p.dev = [(gi, o)]) (hf : CanFail s gi k g o x) (ho : o.plain = false)
    (hs : o.isStore = false) (hc : CanEnter s (g.complete o)) :
    ∃ t, exec (.linkFailure port) s = .next t ∧ t.last = .event ∧ t.tlanto = s.tlanto.set port { p with st := 3, lanes := 0 } ∧
      Entered s t gi (g.complete o) { code := .linkDown, addr := o.addrOf 255, late := true, direct := o.isStore } o.pc x.pc x.id := by
  obtain ⟨hw, hshape, hn, ha, hi, hv, hm⟩ := hc
  obtain ⟨e, htl⟩ := linkFailure_raises h hp hlink hops hf ho hshape hw ha
  have hlt : gi < (s.failPort port p).groups.length := (List.getElem?_eq_some_iff.1 hf.here).1
  have hm' : marks ((s.failPort port p).setG gi (g.complete o)) (g.complete o) true := fun m ho =>
    (isTarget_congr (s := { s with mem := m }) rfl rfl rfl _ _ _).trans (hm m ho)
  refine ⟨_, e, rfl, htl, ?_⟩
  exact raise_entered (s := (s.failPort port p).setG gi (g.complete o)) (List.getElem?_set_self hlt) (by rw [hs]; exact .inl rfl)
    ⟨hw, hshape, hn, ha, hi, hv, hm'⟩ (by rw [hs]; exact FClass.noConfusion)

/-- A store over a link that fails ends the run of its context. -/
theorem linkFailure_diesWith {port k : Nat} {p : LinkPort} {o : Op} {x : Path} (h : s.tlanto[port]? = some p) (hp : p.st = 2)
    (hlink : ∀ cl, (s.cl cl).link = []) (hops : s.opsTo p.dev = [(gi, o)]) (hf : CanFail s gi k g o x) (ho : o.plain = false)
    (hs : o.isStore = true) (hc : CanDie s (g.complete o)) :
    ∃ t, exec (.linkFailure port) s = .next t ∧ t.last = .event ∧ t.tlanto = s.tlanto.set port { p with st := 3, lanes := 0 } ∧
      DiesWith s t gi (g.complete o) { code := .linkDown, addr := o.addrOf 255, late := true, direct := o.isStore } o.pc .linkDown := by
  obtain ⟨hw, hshape, hn, ha, hrest⟩ := hc
  obtain ⟨e, htl⟩ := linkFailure_raises h hp hlink hops hf ho hshape hw ha
  have hlt : gi < (s.failPort port p).groups.length := (List.getElem?_eq_some_iff.1 hf.here).1
  refine ⟨_, e, rfl, htl, ?_⟩
  exact raise_diesWith (s := (s.failPort port p).setG gi (g.complete o)) (List.getElem?_set_self hlt) (by rw [hs]; exact .inr (.inr (.inl rfl)))
    (.inl ⟨.inr (.inl (by rw [hs]; rfl)), rfl⟩) ⟨hw, hshape, hn, ha, hrest⟩

end Sys2Proof.Machine
end

section
/-! # The device's events (O52) -/

namespace Sys2Proof.Machine
open Sys2Proof.Claims

variable {s : State} {slot va : Nat}

/-! ### A peer's atomics (R251, R332) -/

/-- An atomic that is refused: its address is not aligned, or its bytes have no keys. -/
theorem peerStep_refused {n : Nat} {op : PeerOp} {f : Nat → Nat} (hop : peerStep op = some (n, f))
    (h : va % n ≠ 0 ∨ s.peerKeys slot va n needAtomic = none) : exec (.peerAccessRequest slot va op) s = .next (peerRefusal s) := by
  rw [exec_peerStep hop, peerAtomic_refused h]

/-- An atomic that reaches its bytes. -/
theorem peerStep_done {n k : Nat} {ks : List Nat} {op : PeerOp} {f : Nat → Nat} (hop : peerStep op = some (n, f)) (w : Memory.wf s.mem = true)
    (ha : va % n = 0) (hk : s.peerKeys slot va n needAtomic = some (k :: ks)) (hf : f (s.mem.num k n) < 256 ^ n) :
    ∃ t, exec (.peerAccessRequest slot va op) s = .next t ∧ t.last = .event ∧ t.hostData = bytesOfWord n (s.mem.num k n) ∧ keepsMem s t k n ∧
      t.mem.num k n = f (s.mem.num k n) ∧ t.groups.map (·.regs) = s.groups.map (·.regs) :=
  ⟨_, exec_peerStep hop, peerAtomic_done w ha hk hf⟩

theorem peer_inactive {n : Nat} {bs : List Byte} (h : (s.ctx slot).state ≠ .active ∨ (s.ctx slot).perm.getLsbD 12 = false) :
    exec (.peerAccessRequest slot va (.read n)) s = .next (peerRefusal s) ∧
      exec (.peerAccessRequest slot va (.write bs)) s = .next (peerRefusal s) ∧
      ∀ op m f, peerStep op = some (m, f) → exec (.peerAccessRequest slot va op) s = .next (peerRefusal s) :=
  ⟨peerRead_refused (peerKeys_inactive h), peerWrite_refused (peerKeys_inactive h),
    fun _ _ _ hop => peerStep_refused hop (.inr (peerKeys_inactive h))⟩

/-- The bytes of an atomic that a peer makes. -/
def atomBytes (w64 : Bool) : Nat := if w64 then 8 else 4

theorem atomBytes_pow (w64 : Bool) : 256 ^ atomBytes w64 = 2 ^ (8 * atomBytes w64) := Nat.pow_mul 2 8 (atomBytes w64) |>.symm

theorem peerAtom_done {k : Nat} {ks : List Nat} {op : AtomOp} {w64 : Bool} {v : DWord} (w : Memory.wf s.mem = true)
    (ha : va % atomBytes w64 = 0) (hk : s.peerKeys slot va (atomBytes w64) needAtomic = some (k :: ks)) (hv : w64 = false → v.toNat < 2 ^ 32) :
    let old := s.mem.num k (atomBytes w64)
    ∃ t, exec (.peerAccessRequest slot va (.atom op w64 v)) s = .next t ∧ t.last = .event ∧ t.hostData = bytesOfWord (atomBytes w64) old ∧
      keepsMem s t k (atomBytes w64) ∧ atomicNew op (8 * atomBytes w64) old v.toNat (t.mem.num k (atomBytes w64)) ∧
      t.groups.map (·.regs) = s.groups.map (·.regs) := by
  intro old
  have hold : old < 2 ^ (8 * atomBytes w64) := atomBytes_pow w64 ▸ Mem.num_lt s.mem k (atomBytes w64)
  have hval : v.toNat < 2 ^ (8 * atomBytes w64) := by
    cases w64
    · exact hv rfl
    · exact v.isLt
  have hw : 32 ≤ 8 * atomBytes w64 := by cases w64 <;> decide
  obtain ⟨t, e, hl, hd, hm, hn, hr⟩ := peerStep_done (op := .atom op w64 v) (n := atomBytes w64) rfl w ha hk
    (atomBytes_pow w64 ▸ atomVal_lt hw hold hval)
  exact ⟨t, e, hl, hd, hm, hn ▸ atomicNew_atomVal op _ old v.toNat, hr⟩

theorem peerCas_done {k : Nat} {ks : List Nat} {w64 : Bool} {x y : DWord} (w : Memory.wf s.mem = true)
    (ha : va % atomBytes w64 = 0) (hk : s.peerKeys slot va (atomBytes w64) needAtomic = some (k :: ks)) :
    let old := s.mem.num k (atomBytes w64)
    ∃ t, exec (.peerAccessRequest slot va (.cas w64 x y)) s = .next t ∧ t.last = .event ∧ t.hostData = bytesOfWord (atomBytes w64) old ∧
      keepsMem s t k (atomBytes w64) ∧ t.mem.num k (atomBytes w64) =
        (if old = x.toNat % 2 ^ (8 * atomBytes w64) then y.toNat % 2 ^ (8 * atomBytes w64) else old) ∧
      t.groups.map (·.regs) = s.groups.map (·.regs) := by
  intro old
  have hold : old < 2 ^ (8 * atomBytes w64) := atomBytes_pow w64 ▸ Mem.num_lt s.mem k (atomBytes w64)
  have hnew : (if old = x.toNat % 2 ^ (8 * atomBytes w64) then y.toNat % 2 ^ (8 * atomBytes w64) else old) < 2 ^ (8 * atomBytes w64) := by
    split
    · exact Nat.mod_lt _ (Nat.two_pow_pos _)
    · exact hold
  exact peerStep_done (op := .cas w64 x y) (n := atomBytes w64)
    (f := fun old => if old = x.toNat % 2 ^ (8 * atomBytes w64) then y.toNat % 2 ^ (8 * atomBytes w64) else old) rfl w ha hk
    (atomBytes_pow w64 ▸ hnew)

theorem peerCas2_done {k : Nat} {ks : List Nat} {X Y : BitVec 128} (w : Memory.wf s.mem = true) (ha : va % 16 = 0)
    (hk : s.peerKeys slot va 16 needAtomic = some (k :: ks)) :
    ∃ t, exec (.peerAccessRequest slot va (.cas2 X Y)) s = .next t ∧ t.last = .event ∧ t.hostData = bytesOfWord 16 (s.mem.num k 16) ∧
      keepsMem s t k 16 ∧ t.mem.num k 16 = (if s.mem.num k 16 = X.toNat then Y.toNat else s.mem.num k 16) := by
  have hlt : (if s.mem.num k 16 = X.toNat then Y.toNat else s.mem.num k 16) < 256 ^ 16 := by
    split
    · exact Y.isLt
    · exact Mem.num_lt _ _ _
  obtain ⟨t, e, hl, hd, hm, hn, -⟩ := peerStep_done (op := .cas2 X Y) (n := 16) rfl w ha hk hlt
  exact ⟨t, e, hl, hd, hm, hn⟩

end Sys2Proof.Machine
end

section
namespace Sys2Proof.Machine
open Sys2Proof.Claims

/-- Settles O52: each event is its body's equation; a failed link's last clause is a trap that is taken (`raise_entered`, `raise_diesWith`). -/
theorem deviceEvents : Obligations.DeviceEvents := by
  unfold Obligations.DeviceEvents
  refine ⟨?hostMemory, ?slots, ?resync, ?firmware, ?quotes, ?peers, ?links, ?cxl, ?patrol, ?dirty, ?power⟩
  case hostMemory =>
    exact fun s fn pa n dev slot va bs w =>
      ⟨hostAccess_memWrite w, hostAccess_memWrite_outside, hostAccess_memRead, hostAccess_hostWrite w, hostAccess_peerWrite w⟩
  case slots =>
    refine fun s fn j => ⟨fun k h => ⟨fun r hr => ?_, hostAccess_launchStatus h⟩, fun h off op hop => hostAccess_noSlot h hop,
      fun i cl p r hr => hostAccess_device hr⟩
    rw [← at8_ccbBytes hr]
    exact hostAccess_slot (op := .readCcb j r.1) (off := r.1) h (by simp)
  case resync => exact fun s => ⟨resync_failed s, resync_written⟩
  case firmware =>
    exact fun s hp hl => ⟨firmwareLoad_badFormat hp hl, firmwareLoad_badSignature hp hl, firmwareLoad_badVersion hp hl, firmwareLoad_good hp hl⟩
  case quotes =>
    exact fun s fn b h => ⟨quote_go h, fun hd hm => ⟨_, quote_made h hd, quoteBytes_fields hm⟩, hostAccess_readQuoteCtl h,
      fun off => hostAccess_readQuote h⟩
  case peers =>
    intro s slot va n bs op w64 v x y X Y ev remote w rw'
    refine ⟨fun h => ?_, peerRead_refused, peerWrite_refused, fun ks => peerRead_done, fun ks => peerWrite_done,
      fun h => ⟨peerStep_refused (op := .atom op w64 v) rfl h, peerStep_refused (op := .cas w64 x y) rfl h⟩,
      fun h => peerStep_refused (op := .cas2 X Y) rfl h,
      fun k ks hw ha hk => ⟨peerAtom_done hw ha hk, peerCas_done hw ha hk⟩, fun k ks => peerCas2_done⟩
    obtain ⟨hread, hwrite, hstep⟩ := peer_inactive (va := va) (n := n) (bs := bs) h
    exact ⟨hread, hwrite, hstep (.atom op w64 v) _ _ rfl, hstep (.cas w64 x y) _ _ rfl, hstep (.cas2 X Y) _ _ rfl⟩
  case links =>
    refine fun s port p h => ⟨fun hp hlink => ⟨linkFailure_alone h hp hlink, fun gi k g o x hcl hops hf ho => ⟨?_, ?_⟩⟩,
      fun lanes dev retrain => linkTraining_done h⟩
    · exact linkFailure_entered h hp hcl hops hf ho
    · exact linkFailure_diesWith h hp hcl hops hf ho
  case cxl => exact fun s port st e p => cxlPortEvent_done
  case patrol => exact fun s stack c u => patrolPass_counts
  case dirty => exact fun s pa old => dirtyLineDiscard_done
  case power =>
    exact fun s => ⟨deviceReset_done s, fun w => ⟨⟨_, powerDown_done s, get_lostMem w⟩, fun h => ⟨_, powerUp_done h, get_lostMem w⟩⟩⟩

end Sys2Proof.Machine
end

section
/-! # The state after reset (O60) -/

namespace Sys2Proof.Machine
open Sys2Proof.Claims

/-- Every context slot is FREE after reset, with its registers as a slot's defaults give them. -/
@[simp] theorem reset_ctx (k : Nat) : State.reset.ctx k = {} := by
  unfold State.ctx State.reset
  rw [List.getD_eq_getElem?_getD, List.getElem?_replicate]
  split <;> rfl

/-- Nothing of the device's own waits to be done after reset. -/
theorem housekeep_reset : State.reset.housekeep = none := by
  have hk : (List.range 64).find? (fun k => (State.reset.ctx k).pWait.isSome && !State.reset.frontSaves k) = none :=
    List.find?_eq_none.2 fun k _ => by simp
  unfold State.housekeep
  rw [if_neg (show ¬ State.reset.canSave = true from Bool.false_ne_true), hk]
  rfl

/-- An empty cluster and a free context bring no event: of the device's own events only the quotes are left to try. -/
theorem events_reset : State.reset.events = (List.range 17).map fun fn t => execQuote fn t false := by
  have hcl : (State.reset.clusters.zipIdx.flatMap fun p => clusterEvents p.2 p.1) = [] :=
    List.flatMap_eq_nil_iff.2 fun p hp => by
      rw [show p.1 = {} from List.eq_of_mem_replicate (List.fst_mem_of_mem_zipIdx hp)]
      rfl
  have hctx : (State.reset.ctxs.zipIdx.flatMap fun p => contextEvents State.reset p.2 p.1) = [] :=
    List.flatMap_eq_nil_iff.2 fun p hp => by
      rw [show p.1 = {} from List.eq_of_mem_replicate (List.fst_mem_of_mem_zipIdx hp)]
      rfl
  unfold State.events
  rw [hcl, hctx]
  rfl

/-- No event of a list takes place. -/
theorem firstEvent_none {s : State} {es : List Event} (h : ∀ e ∈ es, lastOf (e s) = .nothing) : firstEvent es s = none := by
  induction es with
  | nil => rfl
  | cons e es ih =>
    rw [firstEvent, if_pos (h e List.mem_cons_self)]
    exact ih fun x hx => h x (List.mem_cons_of_mem _ hx)

/-- No quote is asked for after reset. -/
theorem quote_reset (fn : Nat) : lastOf (execQuote fn State.reset false) = .nothing := by
  have hq : quoteBody fn false State.reset = none := by
    unfold quoteBody
    rw [show State.reset.quotes[fn]? = if fn < 17 then some {} else none from List.getElem?_replicate]
    by_cases h : fn < 17
    · rw [if_pos h]
      rfl
    · rw [if_neg h]
  unfold execQuote
  rw [hq]
  rfl

/-- Where no group is resident there is no candidate to issue. -/
theorem ranked_of_noGroups {s : State} (h : s.groups = []) (sl : Slice) (p : Group → Bool) : s.ranked sl p = [] := by
  unfold State.ranked
  rw [h]
  exact congrArg (List.map _) List.mergeSort_nil

/-- With no event chosen nothing happens in the state after reset (log 1). -/
theorem run_reset : State.reset.run = .next State.reset := by
  have hf : firstEvent State.reset.events State.reset = none := by
    rw [events_reset]
    refine firstEvent_none fun e he => ?_
    obtain ⟨fn, -, rfl⟩ := List.mem_map.1 he
    exact quote_reset fn
  show State.reset.runDefault = _
  unfold State.runDefault
  rw [housekeep_reset]
  dsimp only
  rw [hf, ranked_of_noGroups rfl, ranked_of_noGroups rfl]
  rfl

/-- Settles O60: the fields are those of `State.reset`, and no event of the default order takes place in it (`run_reset`). -/
theorem resetState : Obligations.ResetState := by
  unfold Obligations.ResetState
  refine ⟨rfl, rfl, rfl, rfl, rfl, rfl, rfl, List.length_replicate, List.length_replicate, fun c hc => ?_, Memory.wf_reset,
    ⟨List.Pairwise.nil, fun p hp => absurd hp List.not_mem_nil⟩, rfl, ?_⟩
  · rw [List.eq_of_mem_replicate hc]
    exact ⟨rfl, rfl, rfl, rfl, rfl, rfl, rfl, rfl, rfl, rfl, rfl, rfl, rfl, rfl, rfl, rfl, rfl, rfl⟩
  · unfold step
    rw [run_reset]
    rfl

end Sys2Proof.Machine
end

section
/-! # Late faults and the traps they bring (R75, R250, R309, R339)

A late fault ends its operation and is then raised (`lateFault_raises`). The states in which a trap is taken differ from the first one
in fields that decide neither where the frame is written nor whether TVEC is marked: `SameTrap`. -/

namespace Sys2Proof.Machine
open Sys2Proof.Claims

variable {s u t : State} {g : Group} {gi k fpc cpc pid : Nat} {f : FaultInfo} {o : Op} {p : Path} {c : FCode}

/-! ### States in which a trap is the same -/

/-- `u` differs from `s` in nothing that a trap looks at: what the contexts have posted aside, contexts, memory, translations and time are as in `s`. -/
structure SameTrap (s u : State) : Prop where
  mem : u.mem = s.mem
  tlbs : u.tlbs = s.tlbs
  clock : u.clock = s.clock
  ctxs : ∀ k, ∃ rs, u.ctx k = { s.ctx k with recs := rs }
  length : u.ctxs.length = s.ctxs.length

theorem SameTrap.of_ctxs (hm : u.mem = s.mem) (ht : u.tlbs = s.tlbs) (hn : u.clock = s.clock) (hc : u.ctxs = s.ctxs) : SameTrap s u :=
  ⟨hm, ht, hn, fun k => ⟨(s.ctx k).recs, by unfold State.ctx; rw [hc]⟩, by rw [hc]⟩

theorem sameTrap_setG (s : State) (gi : Nat) (g : Group) : SameTrap s (s.setG gi g) := .of_ctxs rfl rfl rfl rfl

theorem SameTrap.trans {v : State} (h : SameTrap s u) (h' : SameTrap u v) : SameTrap s v where
  mem := h'.mem.trans h.mem
  tlbs := h'.tlbs.trans h.tlbs
  clock := h'.clock.trans h.clock
  ctxs k := by
    obtain ⟨rs, e⟩ := h.ctxs k
    obtain ⟨rs', e'⟩ := h'.ctxs k
    exact ⟨rs', by rw [e', e]⟩
  length := h'.length.trans h.length

namespace SameTrap
variable (h : SameTrap s u)
include h

theorem withMem (m : Mem) : SameTrap { s with mem := m } { u with mem := m } := ⟨rfl, h.tlbs, h.clock, h.ctxs, h.length⟩

theorem record_eq (g : Group) : u.record g = s.record g := by
  obtain ⟨rs, e⟩ := h.ctxs g.slot
  unfold State.record
  rw [e]
  rfl

theorem leaf_eq (cl slot va : Nat) : u.leaf cl slot va = s.leaf cl slot va := by
  obtain ⟨rs, e⟩ := h.ctxs slot
  unfold State.leaf State.cached State.walkOf
  rw [h.tlbs, h.mem, e]

theorem isTarget_eq (cl slot a : Nat) : u.isTarget cl slot a = s.isTarget cl slot a := by
  unfold State.isTarget State.checkTarget State.lineBytesAt State.translate
  rw [h.mem]
  simp only [h.leaf_eq]

theorem marks_eq {b : Bool} (hm : marks s g b) : marks u g b := fun m ho =>
  ((h.withMem m).isTarget_eq _ _ _).trans <| hm m fun x hx => by
    rw [ho x (by rw [show (u.ctx g.slot).csaGroup g.gid = _ from h.record_eq g]; exact hx), h.mem]

theorem canEnter (hc : CanEnter s g) : CanEnter u g := by
  obtain ⟨w, hshape, hn, ha, hi, hv, hm⟩ := hc
  exact ⟨h.mem.symm ▸ w, hshape, hn, ha, hi, hv, h.marks_eq hm⟩

theorem canDie (hd : CanDie s g) : CanDie u g := by
  obtain ⟨w, hshape, hn, ha, hl, hs⟩ := hd
  obtain ⟨rs, e⟩ := h.ctxs g.slot
  exact ⟨h.mem.symm ▸ w, hshape, hn, ha, h.length.symm ▸ hl, by rw [e]; exact hs⟩

theorem endsWith (he : endsWith s g f c) : endsWith u g f c := by
  rcases he with ⟨hv | hd | ⟨hi, hm⟩, rfl⟩ | ⟨hv, hd, hm, rfl⟩
  · exact .inl ⟨.inl hv, rfl⟩
  · exact .inl ⟨.inr (.inl hd), rfl⟩
  · exact .inl ⟨.inr (.inr ⟨hi, h.marks_eq hm⟩), rfl⟩
  · exact .inr ⟨hv, hd, h.marks_eq hm, rfl⟩

/-- A handler entered from `u` is entered from `s`. -/
theorem entered (he : Entered u t gi g f fpc cpc pid) : Entered s t gi g f fpc cpc pid := by
  obtain ⟨rs, e⟩ := h.ctxs g.slot
  unfold Entered at he ⊢
  rw [e, h.clock, h.mem] at he
  exact he

/-- A run that ends from `u` ends from `s`. -/
theorem diesWith (hd : DiesWith u t gi g f fpc c) : DiesWith s t gi g f fpc c := by
  obtain ⟨rs, e⟩ := h.ctxs g.slot
  unfold DiesWith State.tqFree at hd
  rw [e, h.mem] at hd
  exact hd

end SameTrap

/-! ### The group once its trap is delivered -/

/-- A delivery keeps its group's replay queue, and the fault that a save holds over. -/
theorem deliver_keeps (hg : s.groups[gi]? = some g) :
    ∃ gt, (s.deliver gi f fpc).groups[gi]? = some gt ∧ gt.rq = g.rq ∧ gt.pend = g.pend := by
  have hlt : gi < s.groups.length := (List.getElem?_eq_some_iff.1 hg).1
  unfold State.deliver
  rw [hg]
  dsimp only
  split
  · unfold State.syncHstate
    rw [State.setG_groups, List.getElem?_set_self hlt]
    dsimp only
    split
    · unfold State.writeNum
      rw [State.group_write, State.setG_groups, List.getElem?_set_self hlt]
      exact ⟨_, rfl, rfl, rfl⟩
    · exact ⟨_, List.getElem?_set_self hlt, rfl, rfl⟩
  · obtain ⟨qs, e⟩ := ended_group (gi := gi) (k := g.slot) (r := g.fatalRec f
      (if f.cls ≠ .direct ∧ g.regs.tvec.toNat ≠ 0 ∧ ¬ s.isTarget g.gid.cluster g.slot g.regs.tvec.toNat then .illegalTarget else f.code) fpc) hg
    exact ⟨_, e, rfl, rfl⟩

/-- A trap that is taken leaves its loads in the replay queue, and the fault that a save holds over where it is. -/
theorem takeTrap_keeps (hg : s.groups[gi]? = some g) (hst : g.st = .trapping f fpc cpc pid) (w : Memory.wf s.mem = true)
    (hfl : g.flags.length = 12) (ha : g.ops.any Op.awaited = false) :
    ∃ gt, (s.takeTrap gi).groups[gi]? = some gt ∧ gt.rq = g.replays ∧ gt.pend = g.pend := by
  obtain ⟨u, gu, h, e⟩ := takeTrap_framed hg hst w hfl ha
  obtain ⟨gt, ht, hrq, hp⟩ := deliver_keeps (f := f) (fpc := fpc) h.here
  obtain ⟨fl, qs, st, bw, rfl⟩ := h.group
  exact ⟨gt, e ▸ ht, hrq, hp⟩

theorem raise_keeps (hg : s.groups[gi]? = some g) (ht : traps f) (w : Memory.wf s.mem = true) (hfl : g.flags.length = 12)
    (ha : g.ops.any Op.awaited = false) :
    ∃ gt, (s.raise gi f fpc cpc pid).groups[gi]? = some gt ∧ gt.rq = g.replays ∧ gt.pend = g.pend := by
  have hlt : gi < s.groups.length := (List.getElem?_eq_some_iff.1 hg).1
  rw [raise_eq_takeTrap hg ht]
  obtain ⟨gt, h, hrq, hp⟩ := takeTrap_keeps (s := s.setG gi { g with st := .trapping f fpc cpc pid, bwait := [] }) (List.getElem?_set_self hlt) rfl w hfl ha
  exact ⟨gt, h, hrq, hp⟩

theorem takeTrap_diesWith (hg : s.groups[gi]? = some g) (hst : g.st = .trapping f fpc cpc pid) (he : endsWith s g f c) (hd : CanDie s g) :
    DiesWith s (s.takeTrap gi) gi g f fpc c := by
  obtain ⟨w, hshape, -, ha, -⟩ := id hd
  obtain ⟨u, gu, h, e⟩ := takeTrap_framed hg hst w hshape.flags ha
  rw [e]
  exact h.deliver_diesWith he hd

/-! ### A late fault -/

/-- What a late fault is raised as (R75, log 107). -/
def Op.lateInfo (o : Op) (f : FaultInfo) : FaultInfo := { f with late := true, direct := o.isStore }

/-- A load or an atomic whose late fault a handler takes. -/
theorem lateFault_entered (h : CanFail s gi k g o p) (ho : o.plain = false) (hc : CanEnter s (g.complete o)) (ht : traps (o.lateInfo f))
    (hd : (o.lateInfo f).cls ≠ .direct) : Entered s (s.lateFault gi o f) gi (g.complete o) (o.lateInfo f) o.pc p.pc p.id := by
  have hlt : gi < s.groups.length := (List.getElem?_eq_some_iff.1 h.here).1
  have hsame := sameTrap_setG s gi (g.complete o)
  rw [lateFault_raises h ho]
  exact hsame.entered (raise_entered (List.getElem?_set_self hlt) ht (hsame.canEnter hc) hd)

/-- An operation whose late fault ends the run of its context. -/
theorem lateFault_diesWith (h : CanFail s gi k g o p) (ho : o.plain = false) (hd : (o.lateInfo f).cls = .direct) (hc : CanDie s (g.complete o)) :
    DiesWith s (s.lateFault gi o f) gi (g.complete o) (o.lateInfo f) o.pc f.code := by
  have hlt : gi < s.groups.length := (List.getElem?_eq_some_iff.1 h.here).1
  have hsame := sameTrap_setG s gi (g.complete o)
  rw [lateFault_raises h ho]
  exact hsame.diesWith (raise_diesWith (List.getElem?_set_self hlt) (.inr (.inr (.inl hd))) (.inl ⟨.inr (.inl hd), rfl⟩) (hsame.canDie hc))

/-- A late fault changes memory, groups and contexts, and nothing else. -/
theorem lateFault_frame (h : CanFail s gi k g o p) (ho : o.plain = false) (ht : traps (o.lateInfo f)) (w : Memory.wf s.mem = true)
    (hfl : (g.complete o).flags.length = 12) (ha : (g.complete o).ops.any Op.awaited = false) :
    ∃ m gs cs, s.lateFault gi o f = { s with mem := m, groups := gs, ctxs := cs } := by
  have hlt : gi < s.groups.length := (List.getElem?_eq_some_iff.1 h.here).1
  rw [lateFault_raises h ho]
  obtain ⟨m, gs, cs, e⟩ := raise_frame (s := s.setG gi (g.complete o)) (fpc := o.pc) (cpc := p.pc) (pid := p.id) (List.getElem?_set_self hlt) ht w hfl ha
  exact ⟨m, gs, cs, e⟩

/-! ### LONG_LATENCY_FAULT of an operation (R75, R250) -/

variable {code lane addr : Nat} {bad : List Nat} {x : FaultInfo}

/-- The fault that an operation's lane meets (R343). -/
def State.metFault (s : State) (o : Op) (c : FCode) (lane : Nat) : FaultInfo where
  code := c
  addr := o.addrOf lane
  lane := lane
  info := match o.kind with
    | .kiln (st :: _) _ _ _ _ _ => s.objSeq st
    | _ => none

/-- A refusal already met is delivered. -/
theorem longLatency_refused (h : CanFail s gi k g o p) (ho : o.plain = false) (hl : o.late = some x) :
    exec (.longLatencyFault gi k code lane addr bad) s = .next ((s.lateFault gi o x).report .event) := by
  have e : longLatencyBody gi k code lane addr bad s = some (s.lateFault gi o x) := by
    unfold longLatencyBody
    rw [h.here]
    dsimp only
    rw [h.found]
    dsimp only
    rw [h.runs, hl]
    simp [Op.isPlain, ho]
  show eventOf s (longLatencyBody gi k code lane addr bad s) = _
  rw [e]
  rfl

/-- The state in which an operation meets a fault: an error that ECC cannot correct poisons what the operation's step was about (R265). -/
def State.meets (s : State) (o : Op) (c : FCode) (bad : List Nat) : State :=
  if c = .eccUncorrected then (s.poisonStep o bad).countEcc (o.keys.headD 0) else s

/-- The fault named is met. -/
theorem longLatency_met (h : CanFail s gi k g o p) (hl : o.late = none) (hc : lateCode code o = some c) :
    exec (.longLatencyFault gi k code lane addr bad) s = .next (((s.meets o c bad).lateFault gi o (s.metFault o c lane)).report .event) := by
  have e : longLatencyBody gi k code lane addr bad s = some ((s.meets o c bad).lateFault gi o (s.metFault o c lane)) := by
    unfold longLatencyBody
    rw [h.here]
    dsimp only
    rw [h.found]
    dsimp only
    rw [h.runs, hl, hc]
    rfl
  show eventOf s (longLatencyBody gi k code lane addr bad s) = _
  rw [e]
  rfl

end Sys2Proof.Machine
end

section
/-! # Timers, late faults and missing replies (R27, R29, R247, R250, R265, R309) -/

namespace Sys2Proof.Machine
open Sys2Proof.Claims Sys2Proof.Safety

variable {s u t : State} {g : Group} {gi k fpc cpc pid : Nat} {f : FaultInfo} {o : Op} {p : Path} {c : FCode}
variable {code lane addr : Nat} {bad : List Nat} {x : FaultInfo}

/-- The sizes of a group's register files speak of its registers, budgets, flags and queues alone. -/
theorem shaped_of_eq {h : Group} (hs : Shaped g) (hr : h.regs = g.regs) (hv : h.vbud = g.vbud) (hb : h.sbud = g.sbud) (hf : h.flags = g.flags)
    (hq : h.q = g.q) (hx : h.raised = g.raised) : Shaped h :=
  ⟨hr ▸ hv ▸ hs.v, hr ▸ hs.s, hr ▸ hs.a, hr ▸ hs.p, hf ▸ hs.flags, hq ▸ hs.q, hx ▸ hs.raised, hb ▸ hs.sbud⟩

/-! ### TIMER_FIRE -/

theorem timerDue_of_reached (ha : g.armed = true) (hne : g.regs.tcmp.toNat % 2 ^ 48 ≠ 2 ^ 48 - 1)
    (hle : g.regs.tcmp.toNat % 2 ^ 48 ≤
      (if g.dmode then g.retired.toNat else (s.clock + BitVec.ofNat 64 (Config.dieSkew (dieOf g.gid.cluster) % 5)).toNat) % 2 ^ 48) :
    s.timerDue g = true := by
  have hcount : s.timerCount g =
      (if g.dmode then g.retired.toNat else (s.clock + BitVec.ofNat 64 (Config.dieSkew (dieOf g.gid.cluster) % 5)).toNat) % 2 ^ 48 := by
    unfold State.timerCount State.clockOf
    split <;> rfl
  unfold State.timerDue
  dsimp only
  rw [hcount, ha, decide_eq_true hle]
  simpa using hne

theorem timerFire_due (hg : s.groups[gi]? = some g) (hi : s.issues g = true) (hd : s.timerDue g = true) :
    exec (.timerFire gi) s = .next ((s.takeTimer gi).report .event) := by
  have e : timerFireBody gi s = some (s.takeTimer gi) := by
    unfold timerFireBody
    rw [hg]
    dsimp only
    rw [hi, hd]
    rfl
  show eventOf s (timerFireBody gi s) = _
  rw [e]
  rfl

/-- A due timer enters the handler. -/
theorem takeTimer_entered {ps : List Path} (hg : s.groups[gi]? = some g) (hp : g.paths = p :: ps) (hc : CanEnter s g) :
    Entered s (s.takeTimer gi) gi { g with held := false, armed := false } { code := .timer } 0 p.pc p.id := by
  have hlt : gi < s.groups.length := (List.getElem?_eq_some_iff.1 hg).1
  obtain ⟨w, hshape, hn, ha, hi, hv, hm⟩ := hc
  have hsame := sameTrap_setG s gi { g with held := false, armed := false }
  have e : s.takeTimer gi = (s.setG gi { g with held := false, armed := false }).raise gi { code := .timer } 0 p.pc p.id := by
    unfold State.takeTimer
    rw [hg]
    dsimp only
    rw [hi, if_neg Bool.false_ne_true, hp]
  have hc' : CanEnter s { g with held := false, armed := false } := ⟨w, shaped_of_eq hshape rfl rfl rfl rfl rfl rfl, hn, ha, hi, hv, hm⟩
  rw [e]
  exact hsame.entered (raise_entered (List.getElem?_set_self hlt) (.inr (.inl rfl)) (hsame.canEnter hc') FClass.noConfusion)

/-- HSTATE is kept in memory: a group keeps all but the watches of its paths. -/
theorem syncHstate_group {n : Nat} (hg : s.groups[gi]? = some g) : ∃ qs, (s.syncHstate gi n).groups[gi]? = some { g with paths := qs } := by
  unfold State.syncHstate
  rw [hg]
  dsimp only
  split
  · unfold State.writeNum
    rw [State.group_write, hg]
    exact ⟨_, rfl⟩
  · exact ⟨g.paths, hg⟩

/-- A due timer of a group in its handler is held. -/
theorem takeTimer_held (hg : s.groups[gi]? = some g) (hi : g.inh = true) :
    ∃ qs, (s.takeTimer gi).groups[gi]? = some { g with paths := qs, held := true, armed := false } := by
  have hlt : gi < s.groups.length := (List.getElem?_eq_some_iff.1 hg).1
  obtain ⟨qs, e⟩ := syncHstate_group (s := s.setG gi { g with held := true, armed := false }) (n := g.trapPaths.length) (List.getElem?_set_self hlt)
  refine ⟨qs, ?_⟩
  unfold State.takeTimer
  rw [hg]
  dsimp only
  rw [if_pos hi]
  exact e

/-! ### The codes of long-latency faults -/

theorem lateCode_cases {n : Nat} (h : lateCode n o = some c) : c = .peerRemote ∨ c = .linkDown ∨ c = .hostAbort ∨ c = .eccUncorrected := by
  unfold lateCode at h
  dsimp only at h
  split_ifs at h
  · exact .inl (Option.some.inj h).symm
  · exact .inr (.inl (Option.some.inj h).symm)
  · exact .inr (.inr (.inl (Option.some.inj h).symm))
  · exact .inr (.inr (.inr (Option.some.inj h).symm))

theorem lateCode_fatal {n : Nat} (h : lateCode n o = some c) : c.cls = .fatal := by
  rcases lateCode_cases h with rfl | rfl | rfl | rfl <;> rfl

/-- A fault of class Fatal that is not a store's keeps its class. -/
theorem lateInfo_fatal (hs : o.isStore = false) (hf : f.cls = .fatal) (hd : f.direct = false) : (o.lateInfo f).cls = .fatal := by
  unfold FaultInfo.cls at hf ⊢
  unfold Op.lateInfo
  rw [hd, if_neg Bool.false_ne_true] at hf
  rw [hs, if_neg Bool.false_ne_true]
  exact hf

/-- A store's late fault is of class Direct (log 107). -/
theorem lateInfo_direct (hs : o.isStore = true) : (o.lateInfo f).cls = .direct := by
  unfold FaultInfo.cls Op.lateInfo
  rw [hs]
  rfl

theorem metFault_fatal {n : Nat} (h : lateCode n o = some c) (hs : o.isStore = false) : (o.lateInfo (s.metFault o c lane)).cls = .fatal :=
  lateInfo_fatal hs (lateCode_fatal h) rfl

theorem meets_of_ne (h : c ≠ .eccUncorrected) : s.meets o c bad = s := if_neg h

/-! ### A refusal, a load's or an atomic's fault, a store's fault -/

theorem longLatency_refused_entered (h : CanFail s gi k g o p) (hl : o.late = some x) (ho : o.plain = false) (hs : o.isStore = false)
    (hd : x.direct = false) (hx : x.cls = .fatal) (hc : CanEnter s (g.complete o)) :
    ∃ t, exec (.longLatencyFault gi k code lane addr bad) s = .next t ∧ t.last = .event ∧
      Entered s t gi (g.complete o) { x with late := true } o.pc p.pc p.id := by
  have hcls := lateInfo_fatal hs hx hd
  have e : o.lateInfo x = { x with late := true } := by
    unfold Op.lateInfo
    rw [hs, ← hd]
  refine ⟨_, longLatency_refused h ho hl, rfl, ?_⟩
  rw [← e]
  exact lateFault_entered h ho hc (.inl hcls) (by rw [hcls]; exact FClass.noConfusion)

theorem longLatency_met_entered (h : CanFail s gi k g o p) (hl : o.late = none) (ho : o.plain = false) (hs : o.isStore = false)
    (hk : lateCode code o = some c) (hne : c ≠ .eccUncorrected) (hc : CanEnter s (g.complete o)) :
    ∃ t, exec (.longLatencyFault gi k code lane addr bad) s = .next t ∧ t.last = .event ∧
      Entered s t gi (g.complete o) (o.lateInfo (s.metFault o c lane)) o.pc p.pc p.id := by
  have hcls := metFault_fatal (s := s) (lane := lane) hk hs
  refine ⟨_, longLatency_met h hl hk, rfl, ?_⟩
  rw [meets_of_ne hne]
  exact lateFault_entered h ho hc (.inl hcls) (by rw [hcls]; exact FClass.noConfusion)

theorem longLatency_store_diesWith (h : CanFail s gi k g o p) (hl : o.late = none) (ho : o.plain = false) (hs : o.isStore = true)
    (hk : lateCode code o = some c) (hne : c ≠ .eccUncorrected) (hc : CanDie s (g.complete o)) :
    ∃ t, exec (.longLatencyFault gi k code lane addr bad) s = .next t ∧ t.last = .event ∧
      DiesWith s t gi (g.complete o) (o.lateInfo (s.metFault o c lane)) o.pc c := by
  refine ⟨_, longLatency_met h hl hk, rfl, ?_⟩
  rw [meets_of_ne hne]
  exact lateFault_diesWith h ho (lateInfo_direct hs) hc

/-! ### An error that ECC cannot correct, under an atomic (R265, R364) -/

theorem countEcc_eq (s : State) (n : Nat) :
    ∃ b, s.countEcc n = { s with errs := s.errs.modify (if inDram n then 1 else 3) (· + 1), lastBad := b } := by
  unfold State.countEcc
  by_cases h : inDram n = true
  · rw [if_pos h, if_pos h]
    exact ⟨n, rfl⟩
  · rw [if_neg h, if_neg h]
    exact ⟨s.lastBad, rfl⟩

/-- The line of an atomic's location is poisoned, and the error counted. -/
theorem meets_atomic {st : KStep} {todo : List KStep} {res : List KRes} {d : Option Operand} {n : Nat} {px : Option PReg} {uni : Bool}
    (hk : o.kind = .kiln (st :: todo) res d n px uni) (ha : (∃ op w v, st.act = .atom op w v) ∨ ∃ w x y, st.act = .cas w x y) :
    ∃ b, s.meets o .eccUncorrected bad =
      { s with poison := s.poison ++ [st.key / 64 * 64], errs := s.errs.modify (if inDram (o.keys.headD 0) then 1 else 3) (· + 1), lastBad := b } := by
  have hp : s.poisonStep o bad = { s with poison := s.poison ++ [st.key / 64 * 64] } := by
    unfold State.poisonStep
    rw [hk]
    dsimp only
    rcases ha with ⟨op, w, v, e⟩ | ⟨w, x, y, e⟩ <;> rw [e]
  obtain ⟨b, e⟩ := countEcc_eq (s.poisonStep o bad) (o.keys.headD 0)
  refine ⟨b, ?_⟩
  unfold State.meets
  rw [if_pos rfl, e, hp]

theorem longLatency_atomic_poisons {st : KStep} {todo : List KStep} {res : List KRes} {d : Option Operand} {n : Nat} {px : Option PReg} {uni : Bool}
    (h : CanFail s gi k g o p) (hk : o.kind = .kiln (st :: todo) res d n px uni)
    (ha : (∃ op w v, st.act = .atom op w v) ∨ ∃ w x y, st.act = .cas w x y) (hl : o.late = none) (ho : o.plain = false)
    (hcode : lateCode code o = some .eccUncorrected) (hc : CanEnter s (g.complete o)) :
    ∃ t, exec (.longLatencyFault gi k code lane addr bad) s = .next t ∧ t.last = .event ∧ t.poison = s.poison ++ [st.key / 64 * 64] ∧
      t.errs = s.errs.modify (if inDram (o.keys.headD 0) then 1 else 3) (· + 1) ∧
      Entered s t gi (g.complete o) (o.lateInfo (s.metFault o .eccUncorrected lane)) o.pc p.pc p.id := by
  have hs : o.isStore = false := by
    unfold Op.isStore
    rw [hk]
  have hcls := metFault_fatal (s := s) (lane := lane) hcode hs
  obtain ⟨b, e⟩ := meets_atomic (s := s) (bad := bad) hk ha
  have hsame : SameTrap s (s.meets o .eccUncorrected bad) := by
    rw [e]
    exact .of_ctxs rfl rfl rfl rfl
  have h' : CanFail (s.meets o .eccUncorrected bad) gi k g o p := by
    rw [e]
    exact ⟨h.here, h.found, h.runs, h.path, h.stays⟩
  have hc' := hsame.canEnter hc
  have hent := lateFault_entered h' ho hc' (.inl hcls) (by rw [hcls]; exact FClass.noConfusion)
  obtain ⟨w, hshape, -, haw, -⟩ := hc'
  obtain ⟨m, gs, cs, ef⟩ := lateFault_frame h' ho (.inl hcls) w hshape.flags haw
  refine ⟨_, longLatency_met h hl hcode, rfl, ?_, ?_, hsame.entered hent⟩
  · rw [ef, e]
    rfl
  · rw [ef, e]
    rfl

/-! ### A plain load, which a trap cancels (R339, R344) -/

/-- A plain load's late fault stays with the load, and its group takes the fault. -/
theorem lateFault_raises_plain (h : CanFail s gi k g o p) (ho : o.plain = true) :
    s.lateFault gi o f = (s.setG gi (g.setOp { o with late := some (o.lateInfo f) })).raise gi (o.lateInfo f) o.pc p.pc p.id := by
  obtain ⟨hg, -, hst, hpath, hstop⟩ := h
  have hlt : gi < s.groups.length := (List.getElem?_eq_some_iff.1 hg).1
  have hmap : (s.mapG gi fun g => if o.isPlain then g.setOp { o with late := some (o.lateInfo f) } else g.complete o) =
      s.setG gi (g.setOp { o with late := some (o.lateInfo f) }) := by
    unfold State.mapG State.setG
    rw [modify_eq_set hg]
    simp [Op.isPlain, ho]
  unfold State.lateFault
  dsimp only
  rw [show ({ f with late := true, direct := o.isStore } : FaultInfo) = o.lateInfo f from rfl, hmap, State.setG_groups, List.getElem?_set_self hlt]
  dsimp only
  rw [show (g.setOp { o with late := some (o.lateInfo f) }).path o.pid = some p from hpath]
  rw [show (some p <|> (g.setOp { o with late := some (o.lateInfo f) }).paths.head?) = some p from rfl]
  dsimp only
  rw [show (s.setG gi (g.setOp { o with late := some (o.lateInfo f) })).stopping (g.setOp { o with late := some (o.lateInfo f) }) = false from hstop,
    if_neg Bool.false_ne_true]
  exact if_pos hst

/-- A plain load that is at fault is awaited no more than it was. -/
theorem awaited_setOp_late (ha : g.ops.any Op.awaited = false) (ho : o ∈ g.ops) : (g.setOp { o with late := some x }).ops.any Op.awaited = false := by
  have hall : ∀ q ∈ g.ops, q.awaited = false := fun q hq => by simpa using List.any_eq_false.1 ha q hq
  refine List.any_eq_false.2 fun q hq => ?_
  obtain ⟨q', hq', rfl⟩ := List.mem_map.1 hq
  split
  · exact Bool.not_eq_true _ ▸ hall o ho
  · exact Bool.not_eq_true _ ▸ hall q' hq'

/-- The load at fault is among the eight that a trap keeps. -/
theorem mem_plain_setOp (hf : g.ops.find? (·.id == k) = some o) (ho : o.plain = true) (hn : (g.ops.filter (·.plain)).length ≤ 8) :
    ({ o with late := some x } : Op) ∈ ((g.setOp { o with late := some x }).ops.filter (·.plain)).take 8 := by
  obtain ⟨hk, as, bs, e, has⟩ := List.find?_eq_some_iff_append.1 hf
  have hid : o.id = k := by simpa using hk
  have hpre : as.map (fun q => if q.id == o.id then ({ o with late := some x } : Op) else q) = as := by
    refine List.map_congr_left (g := id) (fun q hq => ?_) |>.trans (List.map_id as)
    exact if_neg (by simpa [hid] using has q hq)
  have hops : (g.setOp { o with late := some x }).ops =
      as ++ ({ o with late := some x } : Op) :: bs.map fun q => if q.id == o.id then ({ o with late := some x } : Op) else q := by
    unfold Group.setOp
    dsimp only
    rw [e, List.map_append, hpre, List.map_cons, if_pos (by simp)]
  have hlen : (as.filter (·.plain)).length + 1 ≤ 8 := by
    rw [e, List.filter_append, List.length_append, List.filter_cons_of_pos ho, List.length_cons] at hn
    omega
  rw [hops, List.filter_append, List.filter_cons_of_pos (show ({ o with late := some x } : Op).plain = true from ho), List.take_append, List.mem_append]
  right
  obtain ⟨m, hm⟩ : ∃ m, 8 - (as.filter (·.plain)).length = m + 1 := ⟨7 - (as.filter (·.plain)).length, by omega⟩
  rw [hm, List.take_succ_cons]
  exact List.mem_cons_self

/-- The handler of a plain load's fault finds its entry FAULTED. -/
theorem longLatency_plain (h : CanFail s gi k g o p) (hl : o.late = none) (ho : o.plain = true) (hs : o.isStore = false)
    (hk : lateCode code o = some c) (hne : c ≠ .eccUncorrected) (hc : CanEnter s g) (hn : (g.ops.filter (·.plain)).length ≤ 8) :
    ∃ t gt r, exec (.longLatencyFault gi k code lane addr bad) s = .next t ∧ t.last = .event ∧ t.groups[gi]? = some gt ∧ gt.inh = true ∧ r ∈ gt.rq ∧
      r.op.id = o.id ∧ r.st = 2 ∧ r.code = c.num ∧ gt.regs = g.regs := by
  have hlt : gi < s.groups.length := (List.getElem?_eq_some_iff.1 h.here).1
  have hcls := metFault_fatal (s := s) (lane := lane) hk hs
  have hopen := longLatency_met (lane := lane) (addr := addr) (bad := bad) h hl hk
  rw [meets_of_ne hne, lateFault_raises_plain h ho] at hopen
  have hentry := mem_plain_setOp (x := o.lateInfo (s.metFault o c lane)) h.found ho hn
  have hentry' := List.mem_map_of_mem (f := Op.rqEntry) hentry
  rw [List.map_take] at hentry'
  obtain ⟨w, hshape, hn9, ha, hi, hv, hm⟩ := hc
  have ha' := awaited_setOp_late (x := o.lateInfo (s.metFault o c lane)) ha (List.mem_of_find?_eq_some h.found)
  generalize hh : g.setOp { o with late := some (o.lateInfo (s.metFault o c lane)) } = h' at *
  have hsame := sameTrap_setG s gi h'
  have hc' : CanEnter s h' := by
    subst hh
    exact ⟨w, shaped_of_eq hshape rfl rfl rfl rfl rfl rfl, hn9, ha', hi, hv, hm⟩
  have hhere : (s.setG gi h').groups[gi]? = some h' := List.getElem?_set_self hlt
  obtain ⟨gt, fr, hgt, hinh, -, -, -, hregs, -⟩ := raise_entered (fpc := o.pc) (cpc := p.pc) (pid := p.id) hhere (.inl hcls) (hsame.canEnter hc')
    (by rw [hcls]; exact FClass.noConfusion)
  obtain ⟨gt', hgt', hrq, -⟩ := raise_keeps (fpc := o.pc) (cpc := p.pc) (pid := p.id) hhere (.inl hcls) w (shaped_of_eq hc'.2.1 rfl rfl rfl rfl rfl rfl).flags ha'
  obtain rfl : gt = gt' := Option.some.inj (hgt.symm.trans hgt')
  exact ⟨_, gt, _, hopen, rfl, hgt, hinh, by rw [hrq]; exact hentry', rfl, rfl, rfl, hregs.trans (by subst hh; rfl)⟩

/-! ### MEM_TIMEOUT (R247) -/

theorem memTimeout_diesWith (h : CanFail s gi k g o p) (ho : o.plain = false) (ht : o.time + 7200000 ≤ s.clock.toNat)
    (hk : (∃ todo res d n px uni, o.kind = .kiln todo res d n px uni) ∨ (∃ dst w ans px, o.kind = .msend dst w ans px) ∨ ∃ bs px, o.kind = .launch bs px)
    (hd : CanDie s (g.complete o)) :
    ∃ t, exec (.memTimeout gi k) s = .next t ∧ t.last = .event ∧ t.errs = s.errs.modify 5 (· + 1) ∧
      DiesWith s t gi (g.complete o) { code := .memTimeout, addr := o.addrOf 255, late := true } o.pc .memTimeout := by
  have hs : o.isStore = false := by
    unfold Op.isStore
    rcases hk with ⟨_, _, _, _, _, _, e⟩ | ⟨_, _, _, _, e⟩ | ⟨_, _, e⟩ <;> rw [e]
  have hfind : s.findOp gi k = some (g, o) := by
    unfold State.findOp
    rw [h.here]
    dsimp only
    rw [h.found]
    rfl
  let u : State := { s with errs := s.errs.modify 5 (· + 1) }
  have e : memTimeoutBody gi k s = some (u.lateFault gi o { code := .memTimeout, addr := o.addrOf 255 }) := by
    unfold memTimeoutBody
    rw [hfind]
    dsimp only
    rw [h.runs]
    rcases hk with ⟨_, _, _, _, _, _, e⟩ | ⟨_, _, _, _, e⟩ | ⟨_, _, e⟩ <;> rw [e] <;> simp [ht, u]
  have hsame : SameTrap s u := .of_ctxs rfl rfl rfl rfl
  have h' : CanFail u gi k g o p := ⟨h.here, h.found, h.runs, h.path, h.stays⟩
  have hf : o.lateInfo { code := .memTimeout, addr := o.addrOf 255 } = { code := .memTimeout, addr := o.addrOf 255, late := true } := by
    unfold Op.lateInfo
    rw [hs]
  have hdir : (o.lateInfo { code := .memTimeout, addr := o.addrOf 255 }).cls = .direct := by
    rw [hf]
    rfl
  have hdies := hsame.diesWith (lateFault_diesWith h' ho hdir (hsame.canDie hd))
  obtain ⟨w, hshape, -, haw, -⟩ := hd
  obtain ⟨m, gs, cs, ef⟩ := lateFault_frame h' ho (.inr (.inr (.inl hdir))) w hshape.flags haw
  refine ⟨(u.lateFault gi o { code := .memTimeout, addr := o.addrOf 255 }).report .event, ?_, rfl, ?_, hf ▸ hdies⟩
  · show eventOf s (memTimeoutBody gi k s) = _
    rw [e]
    rfl
  · rw [ef]
    rfl

/-! ### A cancelled load's entry (R339, R344) -/

/-- An identifier that names no operation and no command may name an entry of the replay queue. -/
theorem longLatencyBody_entry (hg : s.groups[gi]? = some g) (hops : ∀ o ∈ g.ops, o.id ≠ k) (hcmd : (s.cl g.gid.cluster).findCmd k = none)
    (hcode : code ∈ [0x10C, 0x10D, 0x10E, 0x10F]) : longLatencyBody gi k code lane addr bad s = s.faultEntry gi k g code := by
  unfold longLatencyBody
  rw [hg]
  dsimp only
  rw [List.find?_eq_none.2 fun o ho => by simp [hops o ho]]
  dsimp only
  rw [hcmd]
  dsimp only
  rw [if_pos (by simpa using hcode)]

/-- Where a group's replay entry of index `i` has its image (R343, R344). -/
def State.entryAt (s : State) (g : Group) (i : Nat) : Nat := (s.ctx g.slot).csaGroup g.gid + 0x100 + 64 * i

/-- The first live entry of a load takes the code, in the group and in the frame's image. -/
theorem faultEntry_eq {i : Nat} {r : RqEntry} (hr : g.rq[i]? = some r) (hid : r.op.id = k) (hst : r.st = 1)
    (hfirst : ∀ j < i, ∀ x, g.rq[j]? = some x → x.op.id ≠ k) :
    s.faultEntry gi k g code = some (((s.setG gi { g with rq := g.rq.set i { r with st := 2, code := code } }).writeNum
      (s.entryAt g i + 0x0C) 4 2).writeNum (s.entryAt g i + 0x18) 4 code) := by
  have hidx : g.rq.findIdx? (fun r => r.op.id == k && r.st == 1) = some i := by
    rw [List.findIdx?_eq_some_iff_getElem]
    obtain ⟨hi, rfl⟩ := List.getElem?_eq_some_iff.1 hr
    exact ⟨hi, by simp [hid, hst], fun j hj => by simp [hfirst j hj _ (List.getElem?_eq_getElem (by omega))]⟩
  unfold State.faultEntry
  rw [hidx]
  dsimp only
  rw [modify_eq_set hr]
  rfl

/-- Two numbers of four bytes written apart. -/
theorem Mem.num_two_setNum {m : Mem} {a b v x : Nat} (w : Memory.wf m = true) (h : a + 4 ≤ b) (hv : v < 2 ^ 32) (hx : x < 2 ^ 32) :
    let n := (m.setNum a 4 v).setNum b 4 x
    n.num a 4 = v ∧ n.num b 4 = x ∧ ∀ y, ¬ (a ≤ y ∧ y < a + 4) → ¬ (b ≤ y ∧ y < b + 4) → n.get y = m.get y := by
  have w' : Memory.wf (m.setNum a 4 v) = true := Memory.wf_setNum _ _ _ w
  refine ⟨?_, (Mem.num_setNum w').trans (Nat.mod_eq_of_lt hx), fun y hy hy' => ?_⟩
  · rw [Mem.setNum, Mem.num_setBytes_other w' (by rw [length_bytesOfWord]; exact .inl h), Mem.num_setNum w]
    exact Nat.mod_eq_of_lt hv
  · rw [Mem.setNum, Mem.get_setBytes_other w' (by rw [length_bytesOfWord]; omega), Mem.setNum, Mem.get_setBytes_other w (by rw [length_bytesOfWord]; omega)]

/-- A cancelled load's entry becomes FAULTED. -/
theorem longLatency_entry {i : Nat} {r : RqEntry} (w : Memory.wf s.mem = true) (hg : s.groups[gi]? = some g) (hops : ∀ o ∈ g.ops, o.id ≠ k)
    (hcmd : (s.cl g.gid.cluster).findCmd k = none) (hr : g.rq[i]? = some r) (hid : r.op.id = k) (hst : r.st = 1)
    (hfirst : ∀ j < i, ∀ x, g.rq[j]? = some x → x.op.id ≠ k) (hcode : code ∈ [0x10C, 0x10D, 0x10E, 0x10F]) :
    ∃ t gt, exec (.longLatencyFault gi k code lane addr bad) s = .next t ∧ t.last = .event ∧ t.groups[gi]? = some gt ∧
      gt.rq = g.rq.set i { r with st := 2, code := code } ∧ gt.regs = g.regs ∧ gt.ops = g.ops ∧
      t.mem.num (s.entryAt g i + 0x0C) 4 = 2 ∧ t.mem.num (s.entryAt g i + 0x18) 4 = code ∧
        ∀ x, ¬ (s.entryAt g i + 0x0C ≤ x ∧ x < s.entryAt g i + 0x10) → ¬ (s.entryAt g i + 0x18 ≤ x ∧ x < s.entryAt g i + 0x1C) →
          t.mem.get x = s.mem.get x := by
  have hlt : gi < s.groups.length := (List.getElem?_eq_some_iff.1 hg).1
  have hlow : code < 2 ^ 32 := by
    simp only [List.mem_cons, List.not_mem_nil, or_false] at hcode
    omega
  obtain ⟨v, e, hmem, qs, hgv⟩ : ∃ v, longLatencyBody gi k code lane addr bad s = some v ∧
      v.mem = (s.mem.setNum (s.entryAt g i + 0x0C) 4 2).setNum (s.entryAt g i + 0x18) 4 code ∧
      ∃ qs, v.groups[gi]? = some { g with rq := g.rq.set i { r with st := 2, code := code }, paths := qs } := by
    refine ⟨_, (longLatencyBody_entry hg hops hcmd hcode).trans (faultEntry_eq hr hid hst hfirst), rfl, ?_⟩
    unfold State.writeNum
    rw [State.group_write, State.group_write, State.setG_groups, List.getElem?_set_self hlt]
    exact ⟨_, rfl⟩
  obtain ⟨hone, htwo, hother⟩ := Mem.num_two_setNum (a := s.entryAt g i + 0x0C) (b := s.entryAt g i + 0x18) w (by omega) (show 2 < 2 ^ 32 by omega) hlow
  rw [← hmem] at hone htwo hother
  refine ⟨v.report .event, _, ?_, rfl, hgv, rfl, rfl, rfl, hone, htwo, hother⟩
  show eventOf s (longLatencyBody gi k code lane addr bad s) = _
  rw [e]
  rfl

end Sys2Proof.Machine
end

section
/-! # Replayable records: their posting and their answers (R346-R348) -/

namespace Sys2Proof.Machine
open Sys2Proof.Claims Sys2Proof.Safety

variable {s u t : State} {g : Group} {gi k slot idx fpc cpc pid pc : Nat} {f : FaultInfo} {o : Op} {p : Path} {c : FCode} {r : Rec}

/-! ### A record that is written -/

theorem writeRec_eq_post (h : 0 < s.tqFree slot) : (s.writeRec slot r).2 = s.post slot r := by
  unfold State.post
  rw [if_pos (show 1 ≤ s.tqFree slot from h)]

/-- A record that is written stands at its place of the queue, and nothing else in memory has changed but the queue's count. -/
theorem recordAt_writeRec (w : Memory.wf s.mem = true) (h : 0 < s.tqFree slot) (hc : r.codeWord < 2 ^ 32) (hm : t.mem = (s.writeRec slot r).2.mem) :
    recordAt s t slot r.codeWord r.addr r.pc r.who r.info := by
  rw [writeRec_eq_post h] at hm
  have hap : apart (s.ctx slot).tqHeader 64 (s.recAt slot) 64 := .inl (by unfold State.recAt; omega)
  obtain ⟨⟨hprod, hcode, haddr, hpc, hwho, hinfo, -⟩, hcount⟩ := recAt_post (r := r) w h hap
  rw [← hm] at hprod hcode haddr hpc hwho hinfo hcount
  refine ⟨hcount, hprod.trans (Nat.mod_eq_of_lt (Mem.num_lt _ _ 4)), hcode.trans (Nat.mod_eq_of_lt hc), haddr, hpc, hwho, hinfo, fun x hx hx' => ?_⟩
  rw [hm, post_mem h, Mem.setNum, Mem.get_setBytes_other (Memory.wf_setBytes _ _ w) (by rw [length_bytesOfWord]; omega),
    Mem.get_setBytes_other w (by rw [Rec.length_image]; unfold State.recAt; omega)]

theorem writeRec_recs (h : slot < s.ctxs.length) :
    ((s.writeRec slot r).2.ctx slot).recs = (s.ctx slot).recs ∧ (s.writeRec slot r).2.ctxs.length = s.ctxs.length := by
  obtain ⟨kvs, a, n, e⟩ := State.writeRec_eq s slot r
  rw [e]
  obtain ⟨m, a, b, e⟩ := raiseMsix_ctx (s := (s.write kvs).writeNum a 4 n) (k := slot) h
  rw [e, raiseMsix_length]
  exact ⟨rfl, rfl⟩

/-! ### The record of a stopped group (R338, R347) -/

/-- The replayable record of a group's fault. -/
def Group.stopRec (g : Group) (f : FaultInfo) (pc : Nat) : Rec :=
  { code := f.code.num, kind := 0, addr := f.addr, pc := pc, apc := if f.aorg.isSome then g.apc else 0, who := g.gid.who, info := f.recInfo,
    lage := g.lage, tidx := g.tidx }

theorem codeWord_stopRec : (g.stopRec f pc).codeWord = f.code.num := by
  unfold Rec.codeWord Group.stopRec
  simp

/-- The state in which a stopped group's record has been posted. -/
def State.stopPosted (s : State) (gi : Nat) (g : Group) (f : FaultInfo) (pc pid : Nat) : State :=
  let v := (s.writeRec g.slot (g.stopRec f pc)).2
  let seq := s.mem.num (s.ctx g.slot).tqHeader 4
  (v.setCtx g.slot { v.ctx g.slot with recs := (v.ctx g.slot).recs ++ [⟨seq, some g.gid, none⟩] }).setG gi { g with st := .stopped f pc pid (some seq) }

theorem replayableStopBody_posts (hg : s.groups[gi]? = some g) (hst : g.st = .stopped f pc pid none) (ha : (s.ctx g.slot).state = .active)
    (hf : 4 < s.tqFree g.slot) : replayableStopBody gi s = some (s.stopPosted gi g f pc pid) := by
  have e : s.postReplayable gi = s.stopPosted gi g f pc pid := by
    unfold State.postReplayable
    rw [hg]
    dsimp only
    rw [hst]
    dsimp only
    rw [if_pos ⟨ha, hf⟩]
    rfl
  unfold replayableStopBody
  rw [hg]
  dsimp only
  rw [hst]
  dsimp only
  rw [if_pos ⟨ha, hf⟩, e]

theorem stopPosted_stands (w : Memory.wf s.mem = true) (hg : s.groups[gi]? = some g) (hf : 4 < s.tqFree g.slot)
    (hl : g.slot < s.ctxs.length) :
    let t := s.stopPosted gi g f pc pid
    recordAt s t g.slot f.code.num f.addr pc g.gid.who (f.info.getD f.lane) ∧
      t.groups[gi]? = some { g with st := .stopped f pc pid (some (s.mem.num (s.ctx g.slot).tqHeader 4)) } ∧
      (t.ctx g.slot).recs = (s.ctx g.slot).recs ++ [⟨s.mem.num (s.ctx g.slot).tqHeader 4, some g.gid, none⟩] := by
  intro t
  have hrec := recordAt_writeRec (t := t) (r := g.stopRec f pc) (slot := g.slot) w (by omega)
    (by rw [codeWord_stopRec]; exact f.code.num_lt.trans (by decide)) rfl
  rw [codeWord_stopRec] at hrec
  obtain ⟨hrecs, hlen⟩ := writeRec_recs (r := g.stopRec f pc) hl
  have hlt : gi < (s.writeRec g.slot (g.stopRec f pc)).2.groups.length := by
    rw [writeRec_eq_post (show 0 < s.tqFree g.slot by omega)]
    obtain ⟨qs, e⟩ := post_group (k := g.slot) (r := g.stopRec f pc) hg
    exact (List.getElem?_eq_some_iff.1 e).1
  refine ⟨hrec, List.getElem?_set_self hlt, ?_⟩
  rw [← hrecs]
  exact congrArg Context.recs (ctx_setCtx (s := (s.writeRec g.slot (g.stopRec f pc)).2) (hlen ▸ hl))

/-- REPLAYABLE_FAULT_STOP and the retry of a group's record post it. -/
theorem stop_posts {ev : Instr} (hg : s.groups[gi]? = some g) (hst : g.st = .stopped f pc pid none) (ha : (s.ctx g.slot).state = .active)
    (hf : 4 < s.tqFree g.slot) (hev : ev = .replayableFaultStop gi ∨ ev = .replayableRecordRetry g.slot gi) :
    exec ev s = .next ((s.stopPosted gi g f pc pid).report .event) := by
  have e := replayableStopBody_posts hg hst ha hf
  rcases hev with rfl | rfl
  · show eventOf s (replayableStopBody gi s) = _
    rw [e]
    rfl
  · have e' : recordRetryBody g.slot gi s = some (s.stopPosted gi g f pc pid) := by
      unfold recordRetryBody
      rw [hg]
      dsimp only
      rw [if_pos rfl, e]
    show eventOf s (recordRetryBody g.slot gi s) = _
    rw [e']
    rfl

/-! ### The answer to a record (R348) -/

variable {fn j cl : Nat} {q : Replayable} {here : State → Nat → State} {saved : Group → Group}
variable {onCmd : State → Nat → EngineKind → Cmd → State} {onSaved : State → Nat → State}

/-- An answer reaches the resident group that the record names. -/
theorem answer_group {n : Nat} (h : StoppedUnder s slot idx gi g q f pc pid) (hn : n = gi) :
    s.answer slot idx here saved onCmd onSaved = some (here (s.answered slot q) n) := by
  unfold State.answer
  dsimp only
  rw [if_neg (not_not.2 h.active), h.record]
  dsimp only
  rw [h.names]
  dsimp only
  rw [show (s.answered slot q).groups.findIdx? (isStoppedBy q.seq g.gid) = some gi from h.first, hn]

/-- An answer reaches the engine command that the record names. -/
theorem answer_cmd {e : EngineKind} {x : Cmd} (ha : (s.ctx slot).state = .active) (hr : (s.ctx slot).record idx = some q) (hg : q.gid = none)
    (hc : q.cmd = some k) (hk : s.anyCmd k = some (cl, e, x)) :
    s.answer slot idx here saved onCmd onSaved = some (onCmd (s.answered slot q) cl e x) := by
  unfold State.answer
  dsimp only
  rw [if_neg (not_not.2 ha), hr]
  dsimp only
  rw [hg, hc]
  dsimp only
  rw [show (s.answered slot q).anyCmd k = some (cl, e, x) from hk]

theorem ctx_set_ne {i : Nat} {x : Context} (h : i ≠ k) : (s.setCtx i x).ctx k = s.ctx k := by
  unfold State.ctx State.setCtx
  rw [List.getD_eq_getElem?_getD, List.getElem?_set_ne h, List.getD_eq_getElem?_getD]

/-- A record that is answered leaves its context's list, and all else stays. -/
theorem answered_ctx (s : State) (slot : Nat) (q : Replayable) (k : Nat) : ∃ rs, (s.answered slot q).ctx k = { s.ctx k with recs := rs } := by
  by_cases h : slot = k
  · subst h
    by_cases hl : slot < s.ctxs.length
    · exact ⟨_, ctx_setCtx hl⟩
    · refine ⟨(s.ctx slot).recs, ?_⟩
      unfold State.answered State.setCtx State.ctx
      dsimp only
      rw [List.set_eq_of_length_le (Nat.le_of_not_lt hl)]
  · exact ⟨(s.ctx k).recs, ctx_set_ne h⟩

theorem sameTrap_answered (s : State) (slot : Nat) (q : Replayable) : SameTrap s (s.answered slot q) :=
  ⟨rfl, rfl, rfl, answered_ctx s slot q, List.length_set⟩

/-- A host's answer is the body of the slot that its function shows. -/
theorem replayRetry_eq (h : s.slotOf fn j = some slot) (e : replayRetryBody slot idx s = some t) :
    exec (.replayRetry j idx fn) s = .next (t.report .event) := by
  show eventOf s ((s.slotOf fn j).bind fun k => replayRetryBody k idx s) = _
  rw [h]
  show eventOf s (replayRetryBody slot idx s) = _
  rw [e]
  rfl

theorem replayFail_eq (h : s.slotOf fn j = some slot) (e : replayFailBody slot idx s = some t) :
    exec (.replayFail j idx fn) s = .next (t.report .event) := by
  show eventOf s ((s.slotOf fn j).bind fun k => replayFailBody k idx s) = _
  rw [h]
  show eventOf s (replayFailBody slot idx s) = _
  rw [e]
  rfl

/-! ### REPLAY_RETRY of a group -/

/-- A stopped group that runs again: its paths enter their lines anew. -/
def Group.released (g : Group) : Group := { g with st := .run, paths := g.paths.map fun p => { p with line := none } }

theorem retry_released {n : Option Nat} (h : g.st = .stopped f pc pid n) (ha : f.aorg = none) : g.retry = g.released := by
  unfold Group.retry
  rw [h]
  dsimp only
  rw [ha]
  rfl

/-- The A-slice's halted instruction runs again, and its queue gives up the position that holds the fault (R85). -/
theorem retry_aslice {n : Option Nat} {x : FaultInfo} {i a : Nat} {b : Bool} (h : g.st = .stopped f pc pid n) (ha : f.aorg = some a)
    (hast : g.ast = .halted x (some i) b) :
    g.retry = { g.released with ast := .run, aline := none, astall := false, q := g.q.modify i List.dropLast } := by
  unfold Group.retry
  rw [h]
  dsimp only
  rw [ha, if_pos (show (some a).isSome = true from rfl)]
  unfold Group.resumeA
  dsimp only
  rw [hast]
  rfl

theorem deliverPend_none (hg : s.groups[gi]? = some g) (hp : g.pend = none) : s.deliverPend gi = s := by
  unfold State.deliverPend
  rw [hg]
  dsimp only
  rw [hp]

/-- A group without a load at fault goes on, and nothing else happens. -/
theorem retryGroup_noLoads (hg : s.groups[gi]? = some g) (hl : (g.retry.ops.filter fun o => o.plain && o.late.isSome) = []) (hp : g.retry.pend = none) :
    s.retryGroup gi = s.setG gi g.retry := by
  have hlt : gi < s.groups.length := (List.getElem?_eq_some_iff.1 hg).1
  have hm : s.mapG gi Group.retry = s.setG gi g.retry := by
    unfold State.mapG State.setG
    rw [modify_eq_set hg]
  have hhere : (s.setG gi g.retry).groups[gi]? = some g.retry := List.getElem?_set_self hlt
  have hloads : (s.setG gi g.retry).retryLoads gi = s.setG gi g.retry := by
    unfold State.retryLoads
    rw [hhere]
    dsimp only
    rw [show (g.retry.ops.filter fun o => o.isPlain && o.late.isSome) = [] from hl, List.foldl_nil]
  unfold State.retryGroup
  rw [hm, hloads]
  exact deliverPend_none hhere hp

/-- A load made anew keeps what names it. -/
theorem rekey_keeps {o' : Op} {xs : List (Nat × Nat × Nat)} (h : s.rekey g o = .ok (o', xs)) :
    o'.pc = o.pc ∧ o'.dsts = o.dsts ∧ o'.addrs = o.addrs ∧ o'.flag = o.flag := by
  unfold State.rekey at h
  split at h
  · split at h
    · cases h
      exact ⟨rfl, rfl, rfl, rfl⟩
    · cases h
  · cases h
    exact ⟨rfl, rfl, rfl, rfl⟩

/-- A load injected again is in flight under a new identifier (R344). -/
theorem inject_adds (hg : s.groups[gi]? = some g) :
    ∃ o', (s.inject gi o).groups[gi]? = some (g.addOp o') ∧ o'.id = s.nextId ∧ o'.pc = o.pc ∧ o'.dsts = o.dsts ∧ o'.addrs = o.addrs ∧ o'.flag = o.flag := by
  unfold State.inject
  rw [hg]
  dsimp only
  cases hk : s.rekey g o with
  | ok v =>
    obtain ⟨o', xs⟩ := v
    obtain ⟨hpc, hd, ha, hf⟩ := rekey_keeps hk
    refine ⟨{ o' with id := s.nextId }, ?_, rfl, hpc, hd, ha, hf⟩
    unfold State.mapG
    dsimp only
    rw [(State.noteAcc_frame _ _ _ _).1, List.getElem?_modify_eq]
    dsimp only
    rw [hg]
    rfl
  | error f =>
    refine ⟨{ o with id := s.nextId, late := some f }, ?_, rfl, rfl, rfl, rfl, rfl⟩
    unfold State.mapG
    dsimp only
    rw [List.getElem?_modify_eq, hg]
    rfl

/-- A group whose one load at fault is made anew. -/
theorem retryGroup_oneLoad (hg : s.groups[gi]? = some g) (hr : g.retry = g.released) (hl : (g.ops.filter fun o => o.plain && o.late.isSome) = [o])
    (hp : g.pend = none) :
    ∃ gt, (s.retryGroup gi).mem = s.mem ∧ (s.retryGroup gi).groups[gi]? = some gt ∧ gt.st = .run ∧ gt.regs = g.regs ∧
      (∀ x ∈ gt.ops, x.id = o.id → x.id = s.nextId) ∧
      ∃ x ∈ gt.ops, x.id = s.nextId ∧ x.pc = o.pc ∧ x.dsts = o.dsts ∧ x.addrs = o.addrs ∧ x.flag = o.flag := by
  have hlt : gi < s.groups.length := (List.getElem?_eq_some_iff.1 hg).1
  have hhere : (s.setG gi g.released).groups[gi]? = some g.released := List.getElem?_set_self hlt
  have hm : s.mapG gi Group.retry = s.setG gi g.released := by
    unfold State.mapG State.setG
    rw [modify_eq_set hg, hr]
  have hloads : (s.setG gi g.released).retryLoads gi = ((s.setG gi g.released).mapG gi fun h => h.dropOp o).inject gi o := by
    unfold State.retryLoads
    rw [hhere]
    dsimp only
    rw [show (g.released.ops.filter fun o => o.isPlain && o.late.isSome) = [o] from hl, List.foldl_cons, List.foldl_nil]
  have hdrop : ((s.setG gi g.released).mapG gi fun h => h.dropOp o).groups[gi]? = some (g.released.dropOp o) := by
    unfold State.mapG
    rw [List.getElem?_modify_eq, hhere]
    rfl
  obtain ⟨o', hin, hid, hpc, hd, ha, hf⟩ := inject_adds (o := o) hdrop
  have hops : ((g.released.dropOp o).addOp o').ops = g.ops.filter (fun x => x.id != o.id) ++ [o'] := by
    rw [Group.addOp_frame, Group.dropOp_frame]
    rfl
  have hrest : ((g.released.dropOp o).addOp o').st = .run ∧ ((g.released.dropOp o).addOp o').regs = g.regs ∧
      ((g.released.dropOp o).addOp o').pend = none := by
    rw [Group.addOp_frame, Group.dropOp_frame]
    exact ⟨rfl, rfl, hp⟩
  obtain ⟨hst, hregs, hpend⟩ := hrest
  have he : s.retryGroup gi = ((s.setG gi g.released).mapG gi fun h => h.dropOp o).inject gi o := by
    unfold State.retryGroup
    rw [hm, hloads]
    exact deliverPend_none hin hpend
  rw [he]
  refine ⟨_, by rw [State.inject_frame]; rfl, hin, hst, hregs, fun x hx hxo => ?_, o', ?_, hid, hpc, hd, ha, hf⟩
  · rw [hops] at hx
    rcases List.mem_append.1 hx with h | h
    · exact absurd hxo (by simpa using (List.mem_filter.1 h).2)
    · rw [List.mem_singleton.1 h]
      exact hid
  · rw [hops]
    exact List.mem_append_right _ List.mem_cons_self

/-! ### REPLAY_FAIL of a group -/

/-- A stopped group whose record has failed takes its fault as a fatal one. -/
def Group.failing (g : Group) (f : FaultInfo) (pc cpc pid : Nat) : Group := { g with st := .trapping { f with fatal := true } pc cpc pid }

theorem failGroup_traps {n : Option Nat} (hg : s.groups[gi]? = some g) (hst : g.st = .stopped f pc pid n) (hp : g.path pid = some p)
    (hpend : g.pend = none) (w : Memory.wf s.mem = true) (hfl : g.flags.length = 12) (ha : g.ops.any Op.awaited = false) :
    s.failGroup gi = (s.setG gi (g.failing f pc p.pc pid)).takeTrap gi := by
  have hlt : gi < s.groups.length := (List.getElem?_eq_some_iff.1 hg).1
  have hhere : (s.setG gi (g.failing f pc p.pc pid)).groups[gi]? = some (g.failing f pc p.pc pid) := List.getElem?_set_self hlt
  obtain ⟨gt, hgt, -, hpt⟩ := takeTrap_keeps hhere rfl w hfl ha
  unfold State.failGroup
  rw [hg]
  dsimp only
  rw [hst]
  dsimp only
  rw [hp]
  exact deliverPend_none hgt (hpt.trans hpend)

theorem failing_fatal (hd : f.direct = false) : ({ f with fatal := true } : FaultInfo).cls = .fatal := by
  unfold FaultInfo.cls
  dsimp only
  rw [hd]
  rfl

/-- A handler that is entered has changed no context. -/
theorem Framed.entered_ctxs {gu : Group} (h : Framed s u gi g gu f fpc cpc pid) (hc : CanEnter s g) (hd : f.cls ≠ .direct) :
    (u.deliver gi f fpc).ctxs = s.ctxs := by
  obtain ⟨-, -, -, -, hi, hv, hmark⟩ := hc
  have ht := h.isTarget_eq hmark
  have hctxs := h.ctxs_eq
  have hhere := h.here
  obtain ⟨fl, qs, st, bw, rfl⟩ := h.group
  rw [deliver_enters hhere hd hi hv ht rfl]
  exact hctxs

theorem takeTrap_entered_ctxs (hg : s.groups[gi]? = some g) (hst : g.st = .trapping f fpc cpc pid) (hc : CanEnter s g) (hd : f.cls ≠ .direct) :
    (s.takeTrap gi).ctxs = s.ctxs := by
  obtain ⟨w, hshape, -, ha, -, -, -⟩ := id hc
  obtain ⟨u, gu, h, e⟩ := takeTrap_framed hg hst w hshape.flags ha
  rw [e]
  exact h.entered_ctxs hc hd

/-- The failed record's group enters its handler, and no context changes. -/
theorem failGroup_entered {n : Option Nat} (hg : s.groups[gi]? = some g) (hst : g.st = .stopped f pc pid n) (hp : g.path pid = some p)
    (hpend : g.pend = none) (hd : f.direct = false) (hc : CanEnter s g) :
    Entered s (s.failGroup gi) gi g { f with fatal := true } pc p.pc pid ∧ (s.failGroup gi).ctxs = s.ctxs := by
  have hlt : gi < s.groups.length := (List.getElem?_eq_some_iff.1 hg).1
  have hne : ({ f with fatal := true } : FaultInfo).cls ≠ .direct := by
    rw [failing_fatal hd]
    exact FClass.noConfusion
  obtain ⟨w, hshape, hn, ha, hi, hv, hm⟩ := hc
  have hsame := sameTrap_setG s gi (g.failing f pc p.pc pid)
  have hc' : CanEnter (s.setG gi (g.failing f pc p.pc pid)) (g.failing f pc p.pc pid) :=
    hsame.canEnter ⟨w, shaped_of_eq hshape rfl rfl rfl rfl rfl rfl, hn, ha, hi, hv, hm⟩
  have hhere : (s.setG gi (g.failing f pc p.pc pid)).groups[gi]? = some (g.failing f pc p.pc pid) := List.getElem?_set_self hlt
  rw [failGroup_traps hg hst hp hpend w hshape.flags ha]
  have hent := takeTrap_entered hhere rfl hc' hne
  have hctxs := takeTrap_entered_ctxs hhere rfl hc' hne
  exact ⟨hsame.entered hent, hctxs⟩

/-- The failed record's group ends the run of its context where no handler takes the fault. -/
theorem failGroup_diesWith {n : Option Nat} (hg : s.groups[gi]? = some g) (hst : g.st = .stopped f pc pid n) (hp : g.path pid = some p)
    (hpend : g.pend = none) (he : endsWith s g { f with fatal := true } c) (hd : CanDie s g) :
    DiesWith s (s.failGroup gi) gi g { f with fatal := true } pc c := by
  have hlt : gi < s.groups.length := (List.getElem?_eq_some_iff.1 hg).1
  obtain ⟨w, hshape, hn, ha, hl, hs⟩ := hd
  have hsame := sameTrap_setG s gi (g.failing f pc p.pc pid)
  have hd' : CanDie (s.setG gi (g.failing f pc p.pc pid)) (g.failing f pc p.pc pid) :=
    hsame.canDie ⟨w, shaped_of_eq hshape rfl rfl rfl rfl rfl rfl, hn, ha, hl, hs⟩
  have hhere : (s.setG gi (g.failing f pc p.pc pid)).groups[gi]? = some (g.failing f pc p.pc pid) := List.getElem?_set_self hlt
  have he' : endsWith (s.setG gi (g.failing f pc p.pc pid)) (g.failing f pc p.pc pid) { f with fatal := true } c := hsame.endsWith he
  rw [failGroup_traps hg hst hp hpend w hshape.flags ha]
  have hdies := takeTrap_diesWith hhere rfl he' hd'
  exact hsame.diesWith hdies

end Sys2Proof.Machine
end

section
/-! # An engine's command that fails, is suspended, or is answered (R96, R337, R347, R348) -/

namespace Sys2Proof.Machine
open Sys2Proof.Claims Sys2Proof.Safety

variable {s u t : State} {g : Group} {gi k cl slot idx a : Nat} {f : FaultInfo} {e : EngineKind} {c : Cmd} {code : FCode} {r : Option FaultInfo}

/-! ### What the end of a command looks at -/

/-- A group's place, team and status, and what its batches have still to do (R97). -/
def Group.account (g : Group) : Gid × Nat × GStat × List Nat × Option FaultInfo × List Batch :=
  (g.gid, g.tag, g.st, g.openLeft, g.openFail, g.batches)

/-- The engines' queues, and every group's account, are those of `s`. -/
structure SameAccounts (s u : State) : Prop where
  clusters : u.clusters = s.clusters
  groups : u.groups.map Group.account = s.groups.map Group.account

theorem SameAccounts.refl (s : State) : SameAccounts s s := ⟨rfl, rfl⟩

theorem SameAccounts.trans {v : State} (h : SameAccounts s u) (h' : SameAccounts u v) : SameAccounts s v :=
  ⟨h'.clusters.trans h.clusters, h'.groups.trans h.groups⟩

/-- The group that a command belongs to. -/
def ownedBy (c : Cmd) (g : Group) : Bool := g.gid == c.gid && g.tag == c.tag

theorem SameAccounts.owner (h : SameAccounts s u) (c : Cmd) : u.groups.findIdx? (ownedBy c) = s.groups.findIdx? (ownedBy c) := by
  have hmap (l : List Group) : l.findIdx? (ownedBy c) = (l.map Group.account).findIdx? fun x => x.1 == c.gid && x.2.1 == c.tag := by
    rw [List.findIdx?_map]
    rfl
  rw [hmap, hmap, h.groups]

theorem SameAccounts.group (h : SameAccounts s u) (hg : s.groups[gi]? = some g) : ∃ gu, u.groups[gi]? = some gu ∧ gu.account = g.account := by
  have e := congrArg (·[gi]?) h.groups
  simp only [List.getElem?_map, hg, Option.map_some] at e
  exact Option.map_eq_some_iff.1 e

theorem map_account_modify {F : Group → Group} (hF : ∀ g, (F g).account = g.account) (l : List Group) (i : Nat) :
    (l.modify i F).map Group.account = l.map Group.account := by
  apply List.ext_getElem?
  intro n
  rw [List.getElem?_map, List.getElem?_map, List.getElem?_modify, Option.map_eq_map, Option.map_map]
  congr 1
  funext g
  dsimp only [Function.comp_apply]
  split
  · exact hF g
  · rfl

/-- A change of a command's group, resident or saved, changes groups and contexts alone. -/
theorem mapOwner_frame (s : State) (gid : Gid) (tag slot : Nat) (F : Group → Group) :
    ∃ gs cs, s.mapOwner gid tag slot F = { s with groups := gs, ctxs := cs } := by
  unfold State.mapOwner
  split
  · exact ⟨_, _, rfl⟩
  · exact ⟨_, _, rfl⟩

theorem sameAccounts_mapOwner {F : Group → Group} (hF : ∀ g, (F g).account = g.account) (s : State) (gid : Gid) (tag slot : Nat) :
    SameAccounts s (s.mapOwner gid tag slot F) := by
  unfold State.mapOwner
  split
  · exact ⟨rfl, map_account_modify hF _ _⟩
  · exact ⟨rfl, rfl⟩

theorem sameAccounts_tuneOwner (s : State) (gid : Gid) (tag slot : Nat) : SameAccounts s (s.tuneOwner gid tag slot) := by
  unfold State.tuneOwner
  exact sameAccounts_mapOwner (F := fun g => g.tuneBwait _ _ _) (fun _ => rfl) s gid tag slot

theorem sameAccounts_write (s : State) (kvs : List (Nat × Byte)) : SameAccounts s (s.write kvs) := by
  refine ⟨rfl, ?_⟩
  unfold State.write
  dsimp only
  rw [List.map_map]
  exact List.map_congr_left fun g _ => rfl

theorem sameAccounts_post (s : State) (slot : Nat) (x : Rec) : SameAccounts s (s.post slot x) := by
  unfold State.post
  split
  · obtain ⟨kvs, h, n, e⟩ := State.writeRec_eq s slot x
    have hw : SameAccounts s ((s.write kvs).writeNum h 4 n) := (sameAccounts_write s kvs).trans (sameAccounts_write _ _)
    rw [e]
    refine ⟨?_, ?_⟩
    · rw [State.raiseMsix_frame]
      exact hw.clusters
    · rw [State.raiseMsix_groups]
      exact hw.groups
  · exact sameAccounts_write _ _

theorem sameAccounts_engWrite {n v : Nat} (h : s.engWrite c a n v = .ok t) : SameAccounts s t := by
  unfold State.engWrite State.writeV at h
  split at h
  · cases h
  · split at h
    · cases h
      exact sameAccounts_write _ _
    · cases h

theorem account_setPAll (g : Group) (n : Nat) (m : Mask) (b : Bool) : (g.setPAll n m b).account = g.account := by
  unfold Group.setPAll Group.setP
  split <;> rfl

theorem sameAccounts_writeResult (s : State) (c : Cmd) (d px v : Nat) (ok : Bool) : SameAccounts s (s.writeResult c d px v ok) := by
  unfold State.writeResult
  refine sameAccounts_mapOwner (fun g => ?_) s c.gid c.tag c.slot
  rw [account_setPAll]
  rfl

/-- The result of a KVAPPEND or KVSHARE that a fault ends is memory and registers (R105, R106). -/
theorem sameAccounts_failResult (s : State) (c : Cmd) (a : Nat) : SameAccounts s (s.failResult c a) := by
  unfold State.failResult
  split
  · exact sameAccounts_writeResult _ _ _ _ _ _
  · dsimp only
    split
    · exact sameAccounts_writeResult _ _ _ _ _ _
    · split
      · exact (sameAccounts_engWrite ‹_›).trans (sameAccounts_writeResult _ _ _ _ _ _)
      · exact sameAccounts_writeResult _ _ _ _ _ _
  · exact .refl s

theorem sameAccounts_writeCword (s : State) (c : Cmd) (n : Nat) : SameAccounts s (s.writeCword c n) := by
  unfold State.writeCword
  split
  · split
    · split
      · exact sameAccounts_write _ _
      · exact .refl s
    · exact .refl s
  · exact .refl s

/-- What a failed stream leaves is a word and a record (R194). -/
theorem sameAccounts_failStream (s : State) (c : Cmd) (x : FCode) (a : Nat) : SameAccounts s (s.failStream c x a) := by
  unfold State.failStream
  split
  · exact (sameAccounts_writeCword s c _).trans (sameAccounts_post _ _ _)
  · exact .refl s

/-! ### A command ends -/

theorem queue_setQueue (x : Cluster) (e : EngineKind) (q : List Cmd) : (x.setQueue e q).queue e = q := by
  cases e <;> rfl

theorem mapQueue_queue (h : cl < s.clusters.length) (F : List Cmd → List Cmd) : ((s.mapQueue cl e F).cl cl).queue e = F ((s.cl cl).queue e) := by
  unfold State.mapQueue State.setCl State.cl
  dsimp only
  rw [List.getD_eq_getElem?_getD, List.getElem?_set_self h]
  exact queue_setQueue _ _ _

/-- A command that ends has left its engine. -/
theorem endCmd_queue (h : cl < s.clusters.length) : ((s.endCmd cl e c r).cl cl).queue e = ((s.cl cl).queue e).filter (·.id != c.id) := by
  unfold State.endCmd
  obtain ⟨gs, cs, hf⟩ := mapOwner_frame (s.mapQueue cl e fun q => q.filter (·.id != c.id)) c.gid c.tag c.slot fun g => g.finishCmd c.id r
  rw [hf]
  exact mapQueue_queue h _

/-- Its group takes note of the end. -/
theorem endCmd_group (ho : s.groups.findIdx? (ownedBy c) = some gi) (hg : s.groups[gi]? = some g) :
    (s.endCmd cl e c r).groups[gi]? = some (g.finishCmd c.id r) := by
  unfold State.endCmd State.mapOwner
  rw [show (s.mapQueue cl e fun q => q.filter (·.id != c.id)).groups.findIdx? (fun g => g.gid == c.gid && g.tag == c.tag) = some gi from ho]
  unfold State.mapG
  dsimp only
  rw [List.getElem?_modify_eq, show (s.mapQueue cl e fun q => q.filter (·.id != c.id)).groups[gi]? = some g from hg]
  rfl

/-- What the end of a command is to its group: its batches (R97) and nothing of its status. -/
theorem finishCmd_account (g : Group) (n : Nat) (r : Option FaultInfo) : (g.finishCmd n r).account =
    (g.gid, g.tag, g.st, g.openLeft.filter (· != n), if g.openLeft.contains n then g.openFail <|> r else g.openFail, g.batches.map (·.finish n r)) := by
  unfold Group.finishCmd
  dsimp only
  split
  · rw [Group.dropOp_frame]
    rfl
  · rfl

theorem mem_finished {b : Batch} {n : Nat} {bs : List Batch} {x : FaultInfo} (hb : b ∈ bs) (hl : n ∈ b.left) (hf : b.failed = none) :
    ({ b with left := b.left.filter (· != n), failed := some x } : Batch) ∈ bs.map (·.finish n (some x)) := by
  refine List.mem_map.2 ⟨b, hb, ?_⟩
  unfold Batch.finish
  rw [if_pos (by simpa using hl), hf]
  rfl

/-- A command that a fault ends, after what it writes: its engine has it no more, and its batch has failed. -/
theorem endCmd_failed {v : State} {x : FaultInfo} (hv : SameAccounts s v) (h : cl < s.clusters.length) (ho : s.groups.findIdx? (ownedBy c) = some gi)
    (hg : s.groups[gi]? = some g) (hu : SameAccounts (v.endCmd cl e c (some x)) u) :
    (u.cl cl).queue e = ((s.cl cl).queue e).filter (·.id != c.id) ∧ ∃ gt, u.groups[gi]? = some gt ∧ gt.st = g.st ∧
      (c.id ∈ g.openLeft → g.openFail = none → gt.openFail = some x) ∧
      ∀ b ∈ g.batches, c.id ∈ b.left → b.failed = none → ({ b with left := b.left.filter (· != c.id), failed := some x } : Batch) ∈ gt.batches := by
  have hcl (w z : State) (h : SameAccounts w z) : z.cl cl = w.cl cl := congrArg (fun l : List Cluster => l.getD cl {}) h.clusters
  obtain ⟨gv, hgv, hav⟩ := hv.group hg
  obtain ⟨gt, hgt, hat⟩ := hu.group (endCmd_group (cl := cl) (e := e) (r := some x) ((hv.owner c).trans ho) hgv)
  rw [finishCmd_account] at hat
  unfold Group.account at hav hat
  injection hav with hgid hav
  injection hav with htag hav
  injection hav with hst hav
  injection hav with hleft hav
  injection hav with hfail hbat
  injection hat with hgid' hat
  injection hat with htag' hat
  injection hat with hst' hat
  injection hat with hleft' hat
  injection hat with hfail' hbat'
  refine ⟨?_, gt, hgt, hst'.trans hst, fun hl hn => ?_, fun b hb hl hn => ?_⟩
  · rw [hcl _ _ hu, endCmd_queue (by rw [hv.clusters]; exact h), hcl _ _ hv]
  · rw [hfail', hleft, hfail, if_pos (by simpa using hl), hn]
    rfl
  · rw [hbat', hbat]
    exact mem_finished hb hl hn

/-! ### LONG_LATENCY_FAULT of a command (R96) -/

theorem settleCmd_fails (hp : code ≠ .pageAbsent) (hf : code.cls ≠ .freeze) :
    s.settleCmd cl e c (.fault code a) = ((s.failResult c a).failStream c code a).endCmd cl e c (some { code := code, addr := a }) := by
  unfold State.settleCmd
  split
  · contradiction
  · next h => exact absurd (EngEnd.fault.inj h).1 hp
  · next h =>
    obtain ⟨rfl, rfl⟩ := EngEnd.fault.inj h
    exact if_neg hf

variable {lane addr : Nat} {bad : List Nat} {x : Nat × FCode}

theorem longLatencyBody_cmd (hg : s.groups[gi]? = some g) (hops : ∀ o ∈ g.ops, o.id ≠ k) (hcmd : (s.cl g.gid.cluster).findCmd k = some (e, c))
    (hlink : e ≠ .link) (ha : (s.ctx c.slot).state = .active) (hx : x ∈ ([(0x10C, .peerRemote), (0x10D, .linkDown), (0x10E, .hostAbort)] : List (Nat × FCode))) :
    longLatencyBody gi k x.1 lane addr bad s = some (s.settleCmd g.gid.cluster e c (.fault x.2 addr)) := by
  have hnamed : [(0x10C, FCode.peerRemote), (0x10D, .linkDown), (0x10E, .hostAbort), (0x10F, .eccUncorrected)].find? (·.1 == x.1) = some x ∧
      x.2 ≠ .eccUncorrected := by
    simp only [List.mem_cons, List.not_mem_nil, or_false] at hx
    rcases hx with rfl | rfl | rfl <;> exact ⟨rfl, FCode.noConfusion⟩
  unfold longLatencyBody
  rw [hg]
  dsimp only
  rw [List.find?_eq_none.2 fun o ho => by simp [hops o ho]]
  dsimp only
  rw [hcmd]
  dsimp only
  rw [hnamed.1]
  dsimp only
  rw [if_neg (not_not.2 ha), if_neg hnamed.2, if_neg hlink]

theorem longLatency_cmd (hg : s.groups[gi]? = some g) (hst : g.st = .run) (hops : ∀ o ∈ g.ops, o.id ≠ k)
    (hcmd : (s.cl g.gid.cluster).findCmd k = some (e, c)) (hid : c.id = k) (hlink : e ≠ .link) (ha : (s.ctx c.slot).state = .active)
    (hl : g.gid.cluster < s.clusters.length) (ho : s.groups.findIdx? (ownedBy c) = some gi)
    (hx : x ∈ ([(0x10C, .peerRemote), (0x10D, .linkDown), (0x10E, .hostAbort)] : List (Nat × FCode))) :
    ∃ t gt, exec (.longLatencyFault gi k x.1 lane addr bad) s = .next t ∧ t.last = .event ∧
      (t.cl g.gid.cluster).queue e = ((s.cl g.gid.cluster).queue e).filter (fun x => x.id != k) ∧ t.groups[gi]? = some gt ∧ gt.st = .run ∧
      (k ∈ g.openLeft → g.openFail = none → gt.openFail = some { code := x.2, addr := addr }) ∧
      ∀ b ∈ g.batches, k ∈ b.left → b.failed = none →
        ({ b with left := b.left.filter (· != k), failed := some { code := x.2, addr := addr } } : Batch) ∈ gt.batches := by
  subst hid
  have hcode : x.2 ≠ .pageAbsent ∧ x.2.cls ≠ .freeze := by
    simp only [List.mem_cons, List.not_mem_nil, or_false] at hx
    rcases hx with rfl | rfl | rfl <;> exact ⟨FCode.noConfusion, FClass.noConfusion⟩
  have hbody := (longLatencyBody_cmd (lane := lane) (addr := addr) (bad := bad) hg hops hcmd hlink ha hx).trans
    (congrArg some (settleCmd_fails hcode.1 hcode.2))
  obtain ⟨hq, gt, hgt, hst', hopen, hbat⟩ := endCmd_failed (e := e) (x := { code := x.2, addr := addr })
    ((sameAccounts_failResult s c addr).trans (sameAccounts_failStream _ c x.2 addr)) hl ho hg (.refl _)
  refine ⟨State.report _ .event, gt, ?_, rfl, hq, hgt, hst'.trans hst, hopen, hbat⟩
  show eventOf s (longLatencyBody gi c.id x.1 lane addr bad s) = _
  rw [hbody]
  rfl

/-! ### The record of a suspended command (R347) -/

/-- The replayable record of a suspended command (R346). -/
def Cmd.suspRec (c : Cmd) (e : EngineKind) (a : Nat) : Rec :=
  { code := FCode.pageAbsent.num, kind := 0, master := e.master, addr := a, pc := c.pc, who := c.gid.who, info := 255, lage := c.lage }

theorem codeWord_suspRec : (c.suspRec e a).codeWord = 0x0106 + e.master * 2 ^ 20 := by
  unfold Rec.codeWord Cmd.suspRec
  simp [FCode.num]

theorem codeWord_lt (e : EngineKind) : 0x0106 + e.master * 2 ^ 20 < 2 ^ 32 := by
  cases e <;> decide

/-- A change of a command's group keeps the records of the contexts. -/
theorem mapOwner_recs (s : State) (gid : Gid) (tag slot : Nat) (F : Group → Group) (h : slot < s.ctxs.length) :
    ((s.mapOwner gid tag slot F).ctx slot).recs = (s.ctx slot).recs := by
  unfold State.mapOwner
  split
  · rfl
  · dsimp only
    rw [ctx_setCtx h]

/-- The state in which a suspended command's record has been posted. -/
def State.suspPosted (s : State) (e : EngineKind) (c : Cmd) (a : Nat) : State :=
  let v := (s.writeRec c.slot (c.suspRec e a)).2
  (v.setCtx c.slot { v.ctx c.slot with recs := (v.ctx c.slot).recs ++ [⟨s.mem.num (s.ctx c.slot).tqHeader 4, none, some c.id⟩] }).tuneOwner
    c.gid c.tag c.slot

theorem postCmd_posts (ha : (s.ctx c.slot).state = .active) (hf : 4 < s.tqFree c.slot) (hr : ∀ r ∈ (s.ctx c.slot).recs, r.cmd ≠ some c.id) :
    s.postCmd e c .pageAbsent a = s.suspPosted e c a := by
  have hno : (!(s.ctx c.slot).recs.any (·.cmd == some c.id)) = true := by
    rw [Bool.not_eq_true', List.any_eq_false]
    exact fun r hr' => by simpa using hr r hr'
  unfold State.postCmd
  dsimp only
  rw [if_pos ⟨ha, hf, hno⟩]
  rfl

theorem suspPosted_stands (w : Memory.wf s.mem = true) (hf : 4 < s.tqFree c.slot) (hl : c.slot < s.ctxs.length) :
    let t := s.suspPosted e c a
    recordAt s t c.slot (0x0106 + e.master * 2 ^ 20) a c.pc c.gid.who 255 ∧ t.clusters = s.clusters ∧
      (t.ctx c.slot).recs = (s.ctx c.slot).recs ++ [⟨s.mem.num (s.ctx c.slot).tqHeader 4, none, some c.id⟩] := by
  intro t
  obtain ⟨hrecs, hlen⟩ := writeRec_recs (r := c.suspRec e a) hl
  generalize hx : ({ (s.writeRec c.slot (c.suspRec e a)).2.ctx c.slot with recs := ((s.writeRec c.slot (c.suspRec e a)).2.ctx c.slot).recs ++
    [⟨s.mem.num (s.ctx c.slot).tqHeader 4, none, some c.id⟩] } : Context) = x
  have ht : t = ((s.writeRec c.slot (c.suspRec e a)).2.setCtx c.slot x).tuneOwner c.gid c.tag c.slot := by
    rw [← hx]
    rfl
  obtain ⟨gs, cs, hframe⟩ := mapOwner_frame ((s.writeRec c.slot (c.suspRec e a)).2.setCtx c.slot x) c.gid c.tag c.slot
    fun g => g.tuneBwait _ _ _
  have hrec := recordAt_writeRec (t := t) (r := c.suspRec e a) (slot := c.slot) w (by omega)
    (by rw [codeWord_suspRec]; exact codeWord_lt e) (by rw [ht]; unfold State.tuneOwner; dsimp only; rw [hframe]; rfl)
  rw [codeWord_suspRec] at hrec
  refine ⟨hrec, ?_, ?_⟩
  · rw [ht, (sameAccounts_tuneOwner _ _ _ _).clusters]
    rw [show ((s.writeRec c.slot (c.suspRec e a)).2.setCtx c.slot x).clusters = (s.writeRec c.slot (c.suspRec e a)).2.clusters from rfl, State.writeRec_frame]
  · rw [ht, ← hrecs]
    unfold State.tuneOwner
    dsimp only
    rw [mapOwner_recs _ _ _ _ _ (by unfold State.setCtx; dsimp only; rw [List.length_set, hlen]; exact hl), ctx_setCtx (hlen ▸ hl), ← hx]

theorem recordRetry_cmd {y : Nat} (w : Memory.wf s.mem = true) (hk : s.anyCmd k = some (cl, e, c)) (hs : c.susp = some (y, a)) (hn : s.groups.length ≤ k)
    (ha : (s.ctx c.slot).state = .active) (hf : 4 < s.tqFree c.slot) (hl : c.slot < s.ctxs.length) (hr : ∀ r ∈ (s.ctx c.slot).recs, r.cmd ≠ some c.id) :
    exec (.replayableRecordRetry c.slot k) s = .next ((s.suspPosted e c a).report .event) := by
  have hne : s.suspPosted e c a ≠ s := fun h => by
    obtain ⟨⟨hcount, -⟩, -, -⟩ := suspPosted_stands (e := e) (a := a) w hf hl
    rw [h] at hcount
    have hlow := Mem.num_lt s.mem (s.ctx c.slot).tqHeader 4
    omega
  have e' : recordRetryBody c.slot k s = some (s.suspPosted e c a) := by
    unfold recordRetryBody
    rw [List.getElem?_eq_none hn]
    dsimp only
    unfold recordRetryBody.cmd
    rw [hk]
    dsimp only
    rw [hs]
    dsimp only
    rw [postCmd_posts ha hf hr, if_pos ⟨rfl, hne⟩]
  show eventOf s (recordRetryBody c.slot k s) = _
  rw [e']
  rfl

/-! ### The answers to a command's record (R348) -/

theorem retryCmd_done (h : cl < s.clusters.length) : (s.retryCmd cl e c).mem = s.mem ∧
    ((s.retryCmd cl e c).cl cl).queue e = ((s.cl cl).queue e).map fun x => if x.id = c.id then { c with susp := none } else x := by
  obtain ⟨gs, cs, hframe⟩ := mapOwner_frame (s.putCmd cl e { c with susp := none }) c.gid c.tag c.slot fun g => g.tuneBwait _ _ _
  unfold State.retryCmd State.tuneOwner
  dsimp only
  rw [hframe]
  refine ⟨rfl, ?_⟩
  rw [show (State.cl { s.putCmd cl e { c with susp := none } with groups := gs, ctxs := cs } cl) = (s.putCmd cl e { c with susp := none }).cl cl from rfl]
  unfold State.putCmd
  rw [mapQueue_queue h]
  simp only [beq_iff_eq]

theorem failCmd_queue (h : cl < s.clusters.length) : ((s.failCmd cl e c).cl cl).queue e = ((s.cl cl).queue e).filter (fun x => x.id != c.id) := by
  have hv := (sameAccounts_failResult s c c.failed.addr).trans (sameAccounts_failStream _ c .pageAbsent c.failed.addr)
  have hcl (w z : State) (h : SameAccounts w z) : z.cl cl = w.cl cl := congrArg (fun l : List Cluster => l.getD cl {}) h.clusters
  unfold State.failCmd
  rw [hcl _ _ (sameAccounts_tuneOwner _ _ _ _), endCmd_queue (by rw [hv.clusters]; exact h), hcl _ _ hv]

theorem failCmd_batch {y : Nat} {b : Batch} (h : cl < s.clusters.length) (ho : s.groups.findIdx? (ownedBy c) = some gi) (hg : s.groups[gi]? = some g)
    (hb : b ∈ g.batches) (hl : c.id ∈ b.left) (hf : b.failed = none) (hs : c.susp = some (y, a)) :
    ∃ gt, (s.failCmd cl e c).groups[gi]? = some gt ∧
      ({ b with left := b.left.filter (· != c.id), failed := some { code := .pageAbsent, addr := a, fatal := true } } : Batch) ∈ gt.batches := by
  have hfailed : c.failed = { code := .pageAbsent, addr := a, fatal := true } := by
    unfold Cmd.failed
    rw [hs]
    rfl
  obtain ⟨-, gt, hgt, -, -, hbat⟩ := endCmd_failed (e := e) (x := c.failed)
    ((sameAccounts_failResult s c c.failed.addr).trans (sameAccounts_failStream _ c .pageAbsent c.failed.addr)) h ho hg
    (sameAccounts_tuneOwner _ c.gid c.tag c.slot)
  exact ⟨gt, hgt, hfailed ▸ hbat b hb hl hf⟩

end Sys2Proof.Machine
end

section
/-! # O47: timers, late faults, records and their answers -/

namespace Sys2Proof.Machine
open Sys2Proof.Claims

variable {s : State} {g : Group} {gi fn j slot idx pc pid : Nat} {f : FaultInfo} {o : Op} {p : Path} {c : FCode} {q : Replayable}

/-! ### The answer to a stopped group's record -/

theorem answered_here (h : StoppedUnder s slot idx gi g q f pc pid) : (s.answered slot q).groups[gi]? = some g := h.here

theorem replayRetry_group (h : StoppedUnder s slot idx gi g q f pc pid) (hj : s.slotOf fn j = some slot) :
    exec (.replayRetry j idx fn) s = .next (((s.answered slot q).retryGroup gi).report .event) :=
  replayRetry_eq hj (answer_group h rfl)

theorem replayFail_group (h : StoppedUnder s slot idx gi g q f pc pid) (hj : s.slotOf fn j = some slot) :
    exec (.replayFail j idx fn) s = .next (((s.answered slot q).failGroup gi).report .event) :=
  replayFail_eq hj (answer_group h rfl)

/-- A group stopped at one of its own instructions runs again. -/
theorem replayRetry_runs (h : StoppedUnder s slot idx gi g q f pc pid) (hj : s.slotOf fn j = some slot) (hp : g.pend = none) (ha : f.aorg = none)
    (hl : (g.ops.filter fun o => o.plain && o.late.isSome) = []) :
    exec (.replayRetry j idx fn) s = .next (((s.answered slot q).setG gi g.released).report .event) := by
  have hr := retry_released h.st ha
  rw [replayRetry_group h hj, retryGroup_noLoads (answered_here h) (by rw [hr]; exact hl) (by rw [hr]; exact hp), hr]

/-- A group stopped at its A-slice's instruction runs again with the A-slice. -/
theorem replayRetry_runs_aslice {i a : Nat} {x : FaultInfo} {b : Bool} (h : StoppedUnder s slot idx gi g q f pc pid) (hj : s.slotOf fn j = some slot)
    (hp : g.pend = none) (ha : f.aorg = some a) (hl : (g.ops.filter fun o => o.plain && o.late.isSome) = []) (hast : g.ast = .halted x (some i) b) :
    exec (.replayRetry j idx fn) s = .next (((s.answered slot q).setG gi
      { g.released with ast := .run, aline := none, astall := false, q := g.q.modify i List.dropLast }).report .event) := by
  have hr := retry_aslice h.st ha hast
  rw [replayRetry_group h hj, retryGroup_noLoads (answered_here h) (by rw [hr]; exact hl) (by rw [hr]; exact hp), hr]

/-- A group whose record has failed enters its handler, and the record is answered. -/
theorem replayFail_enters (h : StoppedUnder s slot idx gi g q f pc pid) (hj : s.slotOf fn j = some slot) (hpend : g.pend = none) (hp : g.path pid = some p)
    (hd : f.direct = false) (hc : CanEnter s g) :
    ∃ t, exec (.replayFail j idx fn) s = .next t ∧ t.last = .event ∧ Entered s t gi g { f with fatal := true } pc p.pc pid ∧
      (g.slot = slot → slot < s.ctxs.length → q ∉ (t.ctx slot).recs) := by
  have hsame := sameTrap_answered s slot q
  obtain ⟨hent, hctxs⟩ := failGroup_entered (answered_here h) h.st hp hpend hd (hsame.canEnter hc)
  refine ⟨_, replayFail_group h hj, rfl, hsame.entered hent, fun _ hl hmem => ?_⟩
  have hctx : (((s.answered slot q).failGroup gi).report .event).ctx slot = (s.answered slot q).ctx slot := congrArg (·.getD slot {}) hctxs
  rw [hctx, show s.answered slot q = s.setCtx slot _ from rfl, ctx_setCtx hl] at hmem
  exact absurd (List.mem_filter.1 hmem).2 (by simp)

theorem replayFail_dies (h : StoppedUnder s slot idx gi g q f pc pid) (hj : s.slotOf fn j = some slot) (hpend : g.pend = none) (hp : g.path pid = some p)
    (he : endsWith s g { f with fatal := true } c) (hd : CanDie s g) :
    ∃ t, exec (.replayFail j idx fn) s = .next t ∧ t.last = .event ∧ DiesWith s t gi g { f with fatal := true } pc c := by
  have hsame := sameTrap_answered s slot q
  exact ⟨_, replayFail_group h hj, rfl, hsame.diesWith (failGroup_diesWith (answered_here h) h.st hp hpend (hsame.endsWith he) (hsame.canDie hd))⟩

/-- A raise that was held back takes place a microsecond after the last (R346). -/
theorem msixDeferred_raises (hh : (s.ctx slot).msixHeld = true) (ht : (s.ctx slot).msixAt + 3600 ≤ s.clock.toNat) :
    msixDeferredBody slot s =
      some (s.setCtx slot { s.ctx slot with msix := (s.ctx slot).msix + 1, msixAt := s.clock.toNat, msixHeld := false }) :=
  if_pos ⟨hh, ht⟩

/-- Settles O47: a trap looks at memory, contexts, translations and time alone (`SameTrap`), so each way to a late fault, and each answer that fails, is the entry to a handler, or the
end of a run, from the state as it was; a command's end looks at the groups' accounts alone (`SameAccounts`), which nothing that it writes before changes. -/
theorem faultEvents : Obligations.FaultEvents := by
  unfold Obligations.FaultEvents
  refine ⟨?timer, ?late, ?entry, ?command, ?timeout, ?stopped, ?suspended, ?answerGroup, ?answerCmd, ?msix⟩
  case timer =>
    intro s gi g p ps hg hi hp harm clock hne hle
    have hexec := timerFire_due hg hi (timerDue_of_reached harm hne hle)
    refine ⟨fun hc => ⟨_, hexec, rfl, takeTimer_entered hg hp hc⟩, fun hinh => ?_⟩
    obtain ⟨qs, hgt⟩ := takeTimer_held hg hinh
    exact ⟨_, _, hexec, rfl, hgt, rfl, rfl, hinh, rfl, rfl, rfl⟩
  case late =>
    intro s gi k code lane addr bad g o p h ev f
    exact ⟨fun x hl ho hs hd hx hc => longLatency_refused_entered h hl ho hs hd hx hc,
      fun c hl ho hs hk hne hc => longLatency_met_entered h hl ho hs hk hne hc,
      fun c hl ho hs hk hne hc => longLatency_store_diesWith h hl ho hs hk hne hc,
      fun st todo res d n px uni hk ha hl ho hcode hc => longLatency_atomic_poisons h hk ha hl ho hcode hc,
      fun c hl ho hs hk hne hc hn => longLatency_plain h hl ho hs hk hne hc hn⟩
  case entry =>
    intro s gi k lane addr i bad g r w hg hops hcmd hr hid hst hfirst code hcode
    exact longLatency_entry w hg hops hcmd hr hid hst hfirst hcode
  case command =>
    intro s gi k lane addr bad g e c hg hst hops hcmd hid hlink _ ha hl ho r hr
    exact longLatency_cmd hg hst hops hcmd hid hlink ha hl ho hr
  case timeout =>
    intro s gi k g o p h ho ht hk hd
    exact memTimeout_diesWith h ho ht hk hd
  case stopped =>
    intro s gi g f pc pid w hg hst _ ha hfree hl ev hev
    obtain ⟨hrec, hgt, hrecs⟩ := stopPosted_stands (pc := pc) (pid := pid) w hg hfree hl
    exact ⟨_, _, stop_posts hg hst ha hfree hev, rfl, hrec, hgt, rfl, rfl, hrecs⟩
  case suspended =>
    intro s k cl e c x a w hk hs hn ha hf hl hr
    obtain ⟨hrec, hcl, hrecs⟩ := suspPosted_stands (e := e) (a := a) w hf hl
    exact ⟨_, recordRetry_cmd w hk hs hn ha hf hl hr, rfl, hrec, hcl, hrecs⟩
  case answerGroup =>
    intro s fn j slot idx gi g r f pc pid hj h hp cs released late
    refine ⟨fun ha hl => replayRetry_runs h hj hp ha hl, fun q x n b ha hl hast => replayRetry_runs_aslice h hj hp ha hl hast, fun o ha hl => ?_,
      fun p hpath hd => ⟨fun hc => replayFail_enters h hj hp hpath hd hc, fun code he hc => replayFail_dies h hj hp hpath he hc⟩⟩
    obtain ⟨gt, hmem, hgt, hst, hregs, hnew, hop⟩ := retryGroup_oneLoad (answered_here h) (retry_released h.st ha) hl hp
    exact ⟨_, gt, replayRetry_group h hj, rfl, hmem, hgt, hst, hregs, hnew, hop⟩
  case answerCmd =>
    intro s fn j slot idx k cl r e c hj hcl ha hr hg hc hk
    obtain ⟨hmem, hq⟩ := retryCmd_done (s := s.answered slot r) (e := e) (c := c) hcl
    exact ⟨⟨_, replayRetry_eq hj (answer_cmd ha hr hg hc hk), rfl, hmem, hq⟩,
      _, replayFail_eq hj (answer_cmd ha hr hg hc hk), rfl, failCmd_queue (s := s.answered slot r) hcl,
      fun gi g b x a ho hgi hb hl hf hs => failCmd_batch (s := s.answered slot r) hcl ho hgi hb hl hf hs⟩
  case msix =>
    intro s slot hh ht
    show eventOf s (msixDeferredBody slot s) = _
    rw [msixDeferred_raises hh ht]
    rfl

end Sys2Proof.Machine
end

section
/-! # A launch's record, a new group and a new team (R13, R22, R169, R291, R298) -/

namespace Sys2Proof.Machine
open Sys2Proof.Claims

variable {s u : State} {l l₀ : Launch} {d : KDesc} {f : Fit} {age cl n i : Nat}

/-! ### The launch of an age -/

theorem launch_age (h : s.launch age = some l) : l.age = age := by
  simpa using List.find?_some h

/-- A change of a launch that keeps its age changes what stands under that age. -/
theorem launch_mapL {F : Launch → Launch} (h : s.launch age = some l) (hF : (F l).age = l.age) : (s.mapL age F).launch age = some (F l) := by
  have hage := hF.trans (launch_age h)
  unfold State.launch State.mapL at *
  dsimp only
  generalize s.launches = ls at h
  induction ls with
  | nil => cases h
  | cons x xs ih =>
    rw [List.map_cons]
    by_cases hx : (x.age == age) = true
    · rw [List.find?_cons_of_pos (p := fun y : Launch => y.age == age) hx] at h
      obtain rfl : x = l := Option.some.inj h
      rw [if_pos hx, List.find?_cons_of_pos (p := fun y : Launch => y.age == age) (by simpa using hage)]
    · rw [List.find?_cons_of_neg (p := fun y : Launch => y.age == age) hx] at h
      rw [if_neg hx, List.find?_cons_of_neg (p := fun y : Launch => y.age == age) hx]
      exact ih h

/-! ### A group at its start -/

theorem getD_replicate_self {α : Type} (m k : Nat) (a : α) : (List.replicate m a).getD k a = a := by
  rw [List.getD_eq_getElem?_getD, List.getElem?_replicate]
  split <;> rfl

theorem startRegs_sreg (v a : Nat) : (startRegs v a).s.getD 0 0 = BitVec.ofNat 32 a ∧ (startRegs v a).s.getD 1 0 = BitVec.ofNat 32 (a / 2 ^ 32) ∧
    ∀ n, 2 ≤ n → (startRegs v a).s.getD n 0 = 0 := by
  refine ⟨?_, ?_, fun n hn => ?_⟩
  · show (BitVec.ofNat 64 a).setWidth 32 = _
    apply BitVec.eq_of_toNat_eq
    simp only [BitVec.toNat_setWidth, BitVec.toNat_ofNat]
    omega
  · show (BitVec.ofNat 64 a >>> 32).setWidth 32 = _
    apply BitVec.eq_of_toNat_eq
    simp only [BitVec.toNat_setWidth, BitVec.toNat_ushiftRight, BitVec.toNat_ofNat, Nat.shiftRight_eq_div_pow]
    omega
  · obtain ⟨k, rfl⟩ := Nat.exists_eq_add_of_le' hn
    exact getD_replicate_self 62 k 0

theorem startRegs_areg (v a : Nat) : (startRegs v a).a.getD 0 0 = BitVec.ofNat 64 a ∧ ∀ n, 0 < n → (startRegs v a).a.getD n 0 = 0 := by
  refine ⟨rfl, fun n hn => ?_⟩
  obtain ⟨k, rfl⟩ := Nat.exists_eq_add_of_le' hn
  exact getD_replicate_self 63 k 0

theorem startRegs_vlane (v a n x : Nat) : ((startRegs v a).v.getD n []).getD x 0 = 0 := by
  show ((List.replicate v (List.replicate 32 (0 : Word))).getD n []).getD x 0 = 0
  rw [List.getD_eq_getElem?_getD (l := List.replicate v _), List.getElem?_replicate]
  split
  · exact getD_replicate_self 32 x 0
  · rfl

theorem startRegs_pred (v a : Nat) {n : Nat} (hn : 0 < n) (x : Nat) : (n == 0 || ((startRegs v a).p.getD n 0).getLsbD x) = false := by
  obtain ⟨k, rfl⟩ := Nat.exists_eq_add_of_le' hn
  show (false || ((List.replicate 63 (0 : Mask)).getD k 0).getLsbD x) = false
  rw [getD_replicate_self]
  exact BitVec.getLsbD_zero

/-- A new group of a team has what a group starts with (R22, R23). -/
theorem started_newGroup (l : Launch) (d : KDesc) (t : Team) (i : Nat) (place : Nat × Nat) (b : BitVec 40) (now : Nat) :
    Claims.Started l d t.tag t.cluster i place (newGroup l d t i place b now) := by
  obtain ⟨hs0, hs1, hs⟩ := startRegs_sreg ((roleAt d.roles 0 i).getD (0, 0, ⟨1, 8, 1⟩)).2.2.vregs l.argp
  obtain ⟨ha0, ha⟩ := startRegs_areg ((roleAt d.roles 0 i).getD (0, 0, ⟨1, 8, 1⟩)).2.2.vregs l.argp
  exact ⟨rfl, rfl, rfl, rfl, rfl, hs0, hs1, hs, ha0, ha, startRegs_vlane _ _, fun n hn x => startRegs_pred _ _ hn x,
    rfl, rfl, rfl, rfl, rfl, rfl, rfl, rfl, rfl, rfl, rfl, rfl, rfl, rfl⟩

/-! ### What a dispatch is given -/

/-- The new team (R22). -/
def State.newTeam (s : State) (l : Launch) (d : KDesc) (cl t : Nat) (f : Fit) : Team :=
  { tag := s.nextTag, lage := l.age, slot := l.slot, cluster := cl, part := l.part, tlin := t, tx := t % l.gx, ty := t / l.gx % l.gy,
    tz := t / (l.gx * l.gy), pclass := l.pclass, prio := l.prio, dmode := l.dmode, shBase := f.shBase, shBytes := d.shbytes, ztiles := f.tiles }

/-- Its groups. -/
def State.newGroups (s : State) (l : Launch) (d : KDesc) (cl t : Nat) (f : Fit) : List Group :=
  f.slots.zipIdx.map fun p => newGroup l d (s.newTeam l d cl t f) p.2 p.1 (Config.rbase l.slot (s.free + p.2)) s.clock.toNat

/-- The granules of its shared memory. -/
def Fit.sharesGranule (f : Fit) (d : KDesc) (cl x : Nat) : Bool :=
  decide (granuleOf (keyShared cl f.shBase) ≤ x) && decide (x < granuleOf (keyShared cl f.shBase) + round4k d.shbytes / 64)

/-- The elements of its tiles. -/
def Fit.hasElem (f : Fit) (cl k : Nat) : Bool := f.tiles.any fun z => decide (tileBase cl z ≤ k) && decide (k < tileBase cl (z + 1))

/-- The team takes its place and what it needs there. -/
def State.takePlace (s : State) (l : Launch) (d : KDesc) (cl t : Nat) (f : Fit) : State :=
  { s with
    nextTag := if s.nextTag + 1 = 2 ^ 32 then 1 else s.nextTag + 1
    free := s.free + (s.newGroups l d cl t f).length
    teams := s.teams ++ [s.newTeam l d cl t f]
    groups := s.groups ++ s.newGroups l d cl t f
    fe := s.fe.filter fun x => !f.sharesGranule d cl x
    tiles := s.tiles.filter fun p => !f.hasElem cl p.1 }

/-- Its launch after it. -/
def Launch.afterTeam (l : Launch) (t now : Nat) : Launch :=
  { l with
    next := l.next + 1, alive := l.alive + 1, lastDisp := now, noRoom := none, mapSkip := false
    dispatched := if l.task then l.dispatched ++ [t] else l.dispatched
    entries := l.entries.filter (·.1 != t) }

/-- A change of a context that keeps one thing of it keeps that thing of every context. -/
theorem ctx_setCtx_keeps {α : Type} (P : Context → α) {c : Context} (h : P c = P (s.ctx n)) (k : Nat) : P ((s.setCtx n c).ctx k) = P (s.ctx k) := by
  by_cases hk : n = k
  · subst hk
    by_cases hl : n < s.ctxs.length
    · rw [ctx_setCtx hl, h]
    · unfold State.setCtx State.ctx
      dsimp only
      rw [List.set_eq_of_length_le (Nat.le_of_not_lt hl)]
  · rw [ctx_set_ne hk]

/-- A measurement begins with a change of contexts, none of whose ready lists changes. -/
theorem beginMeasure_ctxs (s : State) (l : Launch) :
    ∃ cs, s.beginMeasure l = { s with ctxs := cs } ∧ ∀ k, ((s.beginMeasure l).ctx k).ready = (s.ctx k).ready := by
  unfold State.beginMeasure
  dsimp only
  split
  · exact ⟨s.ctxs, rfl, fun _ => rfl⟩
  · exact ⟨_, rfl, ctx_setCtx_keeps Context.ready rfl⟩

/-- A new team takes its place, and its launch goes on from it (R298). -/
theorem startTeam_eq (s : State) (l : Launch) (d : KDesc) (cl t : Nat) (f : Fit) :
    ∃ cs, s.startTeam l d cl t f = (({ s.takePlace l d cl t f with ctxs := cs } : State).mapL l.age (·.afterTeam t s.clock.toNat)).readEntries l.age ∧
      ∀ k, (({ s.takePlace l d cl t f with ctxs := cs } : State).ctx k).ready = (s.ctx k).ready := by
  generalize hc : ({ s.ctx l.slot with classes := (s.ctx l.slot).classes.filter (·.1 != l.kdesc) ++ (s.ctx l.slot).classes.filter (·.1 == l.kdesc) } :
    Context) = c
  obtain ⟨cs, e, hr⟩ := beginMeasure_ctxs ((s.takePlace l d cl t f).setCtx l.slot c) l
  have hset : ∀ k, (((s.takePlace l d cl t f).setCtx l.slot c).ctx k).ready = (s.ctx k).ready :=
    ctx_setCtx_keeps (s := s.takePlace l d cl t f) Context.ready (by rw [← hc]; rfl)
  refine ⟨cs, ?_, fun k => ?_⟩
  · rw [show s.startTeam l d cl t f =
      ((((s.takePlace l d cl t f).setCtx l.slot c).beginMeasure l).mapL l.age (·.afterTeam t s.clock.toNat)).readEntries l.age by rw [← hc]; rfl, e]
    rfl
  · rw [← hset k, ← hr k, e]
    rfl

/-! ### The entries of a task launch -/

theorem foldl_eq_self {α β : Type} {F : β → α → β} {b : β} {as : List α} (h : ∀ a ∈ as, F b a = b) : as.foldl F b = b := by
  induction as with
  | nil => rfl
  | cons a as ih =>
    rw [List.foldl_cons, h a List.mem_cons_self]
    exact ih fun x hx => h x (List.mem_cons_of_mem a hx)

/-- A launch whose pending tasks have their entries reads no more of them (R298). -/
theorem readEntries_done (hl : s.launch age = some l) (h : l.task = true → ∀ i < l.total, i ∉ l.dispatched → ∃ e ∈ l.entries, e.1 = i) :
    s.readEntries age = s := by
  unfold State.readEntries
  rw [hl]
  dsimp only
  split
  case isTrue ht =>
    refine foldl_eq_self fun i hi => ?_
    have hp : l.pendingTask i = true := (List.mem_filter.1 hi).2
    unfold Launch.pendingTask at hp
    simp only [Bool.and_eq_true, decide_eq_true_eq, Bool.not_eq_true', List.contains_eq_mem, decide_eq_false_iff_not] at hp
    obtain ⟨⟨hlt, hnot⟩, -⟩ := hp
    obtain ⟨e, he, hei⟩ := h ht i hlt hnot
    have hany : l.entries.any (·.1 == i) = true := List.any_eq_true.2 ⟨e, he, by simpa using hei⟩
    unfold State.readEntry
    rw [hl]
    dsimp only
    rw [if_pos (.inr hany)]
  case isFalse => rfl

/-! ### A dispatch -/

/-- No element of the team's tiles is listed after it has taken them. -/
theorem tileElems_cleared {z : Nat} (hz : z ∈ f.tiles) : (s.tiles.filter fun p => !f.hasElem cl p.1).filter
    (fun p => decide (tileBase cl z + 0 ≤ p.1) && decide (p.1 < tileBase cl z + 0 + 16384)) = [] := by
  refine List.filter_eq_nil_iff.2 fun p hp hin => ?_
  have hout := (List.mem_filter.1 hp).2
  have hbase : tileBase cl (z + 1) = tileBase cl z + 16384 := by
    unfold tileBase
    ring
  have hhas : f.hasElem cl p.1 = true := List.any_eq_true.2 ⟨z, hz, by rw [hbase]; simpa using hin⟩
  rw [hhas] at hout
  exact Bool.noConfusion hout

theorem denseFrom_nil (n k : Nat) : denseFrom n k [] = List.replicate n 0 := by
  induction n generalizing k with
  | zero => rfl
  | succ n ih => exact congrArg (0 :: ·) (ih (k + 1))

theorem tileAt_cleared {z k : Nat} (ht : u.tiles = s.tiles.filter fun p => !f.hasElem cl p.1) (hz : z ∈ f.tiles) : tileAt u cl z k = 0 := by
  unfold tileAt State.tileElems
  dsimp only
  rw [ht, tileElems_cleared hz, denseFrom_nil, getD_replicate_self]
  rfl

theorem getElem?_newGroups {k : Nat} {place : Nat × Nat} {t : Nat} (h : f.slots[k]? = some place) :
    ∃ g, (s.newGroups l d cl t f)[k]? = some g ∧ Claims.Started l d s.nextTag cl k place g := by
  refine ⟨newGroup l d (s.newTeam l d cl t f) k place (Config.rbase l.slot (s.free + k)) s.clock.toNat, ?_, started_newGroup _ _ _ _ _ _ _⟩
  unfold State.newGroups
  rw [List.getElem?_map, List.getElem?_zipIdx, h]
  simp

/-- A team that is dispatched stands on its cluster with what it takes, and its launch has gone on from it. -/
theorem startTeam_dispatched {t : Nat} (hl : s.launch l.age = some l₀) (hn : l₀.next = l.next) (ha : l₀.alive = l.alive)
    (he : l₀.task = true → ∀ i < l₀.total, i ∉ l₀.dispatched → ∃ e ∈ l₀.entries, e.1 = i) :
    Dispatched s (s.startTeam l d cl t f) l d cl t f ∧ ∀ k, ((s.startTeam l d cl t f).ctx k).ready = (s.ctx k).ready := by
  obtain ⟨cs, e, hready⟩ := startTeam_eq s l d cl t f
  have hlaunch : (({ s.takePlace l d cl t f with ctxs := cs } : State).mapL l.age (·.afterTeam t s.clock.toNat)).launch l.age =
      some (l₀.afterTeam t s.clock.toNat) := launch_mapL hl rfl
  have hdone : ((l₀.afterTeam t s.clock.toNat).task = true → ∀ i < (l₀.afterTeam t s.clock.toNat).total,
      i ∉ (l₀.afterTeam t s.clock.toNat).dispatched → ∃ e ∈ (l₀.afterTeam t s.clock.toNat).entries, e.1 = i) := by
    intro ht i hi hnot
    have hdisp : (l₀.afterTeam t s.clock.toNat).dispatched = l₀.dispatched ++ [t] := if_pos ht
    rw [hdisp, List.mem_append, List.mem_singleton, not_or] at hnot
    obtain ⟨x, hx, hxi⟩ := he ht i hi hnot.1
    exact ⟨x, List.mem_filter.2 ⟨hx, by simpa [hxi] using hnot.2⟩, hxi⟩
  rw [readEntries_done hlaunch hdone] at e
  have hlen : (s.newGroups l d cl t f).length = f.slots.length := by
    unfold State.newGroups
    rw [List.length_map, List.length_zipIdx]
  rw [e]
  refine ⟨⟨⟨s.newTeam l d cl t f, rfl, rfl, rfl, rfl, rfl, rfl, rfl, rfl, rfl, rfl, rfl, rfl⟩, List.take_left' rfl, ?_, fun k place hk => ?_, rfl, rfl,
    fun z hz k _ => tileAt_cleared rfl hz, fun x hx => ?_, l₀.afterTeam t s.clock.toNat, hlaunch, congrArg (· + 1) hn, congrArg (· + 1) ha, rfl, rfl, rfl⟩,
    hready⟩
  · rw [← hlen]
    exact List.length_append
  · obtain ⟨g, hg, hs⟩ := getElem?_newGroups (s := s) (l := l) (d := d) (cl := cl) (t := t) hk
    refine ⟨g, ?_, hs⟩
    show (s.groups ++ s.newGroups l d cl t f)[s.groups.length + k]? = some g
    rw [List.getElem?_append_right (Nat.le_add_right _ _), Nat.add_sub_cancel_left, hg]
  · obtain ⟨hx, hout⟩ := List.mem_filter.1 hx
    refine ⟨hx, fun ⟨hlo, hhi⟩ => ?_⟩
    unfold Fit.sharesGranule at hout
    simp [hlo, hhi] at hout

end Sys2Proof.Machine
end

section
/-! # The offer of a cluster, and a descriptor that is refused (R16, R290, R293) -/

namespace Sys2Proof.Machine
open Sys2Proof.Claims

variable {s u : State} {l : Launch} {d : KDesc} {f : Fit} {age cl n slot : Nat} {ls : List Launch} {round : Option Nat} {code : FCode}

/-! ### What an offer keeps of a launch -/

/-- The level that a launch has risen to is all that its waiting changes (R290). -/
theorem aged_eq (l : Launch) (now : Nat) : ∃ r, l.aged now = { l with risen := r } := by
  unfold Launch.aged
  split
  · exact ⟨_, rfl⟩
  · exact ⟨l.risen, rfl⟩

theorem noteRoom_single (s : State) (l : Launch) (pt : Nat) :
    ∃ x, ({ s with launches := [l] } : State).noteRoom round pt = { s with launches := [{ l with noRoom := x }] } := by
  unfold State.noteRoom
  rw [List.map_singleton]
  split
  · exact ⟨_, rfl⟩
  · exact ⟨l.noRoom, rfl⟩

/-- Descriptors that have been checked are not checked again. -/
theorem checkDescs_checked {pt : Nat} (h : ∀ l ∈ s.launches, l.desc ≠ none) : s.checkDescs pt round = s := by
  unfold State.checkDescs
  rw [List.filter_eq_nil_iff.2 fun l hl hc => ?_, List.foldl_nil]
  simp only [Bool.and_eq_true] at hc
  exact h l hl (Option.isNone_iff_eq_none.1 hc.1.2)

/-- Saved teams that go first under no priority go first under none whatever the launches are. -/
theorem restoreFirst_launches {p : Nat} (h : ∀ p, s.restoreFirst round cl p = false) (ls : List Launch) :
    ({ s with launches := ls } : State).restoreFirst round cl p = false := by
  unfold State.restoreFirst at h ⊢
  refine List.any_eq_false.2 fun c hc hcon => ?_
  obtain ⟨hact, hsaved⟩ := Bool.and_eq_true_iff.1 hcon
  obtain ⟨t, ht, hfits⟩ := List.any_eq_true.1 hsaved
  obtain ⟨hprio, hroom⟩ := Bool.and_eq_true_iff.1 hfits
  obtain ⟨hwaits, -⟩ := Bool.and_eq_true_iff.1 hprio
  refine List.any_eq_false.1 (h (s.savedPrio t)) c hc (Bool.and_eq_true_iff.2 ⟨hact, List.any_eq_true.2 ⟨t, ht, ?_⟩⟩)
  exact Bool.and_eq_true_iff.2 ⟨Bool.and_eq_true_iff.2 ⟨hwaits, decide_eq_true (Nat.le_refl _)⟩, hroom⟩

/-! ### The one cluster that a team fits -/

theorem filter_range_single {p : Nat → Bool} (hc : cl < n) (hp : p cl = true) (hne : ∀ c < n, c ≠ cl → p c = false) : (List.range n).filter p = [cl] := by
  have hsame : (List.range n).filter p = (List.range n).filter (· = cl) := by
    refine List.filter_congr fun c hcn => ?_
    by_cases h : c = cl
    · subst h
      rw [hp, decide_eq_true rfl]
    · rw [hne c (List.mem_range.1 hcn) h, decide_eq_false h]
  rw [hsame, List.filter_eq, List.count_eq_one_of_mem List.nodup_range (List.mem_range.2 hc)]
  rfl

theorem keepBest_single (c : Nat) (p : Nat → Bool) : keepBest [c] p = [c] := by
  unfold keepBest
  by_cases h : p c = true
  · rw [List.filter_cons_of_pos h]
    rfl
  · rw [List.filter_cons_of_neg h]
    rfl

/-- A launch without a map whose team fits one cluster alone is placed there (R293). -/
theorem placeTeam_only {t : Nat} (hm : l.map = 0) (hp : s.partOf cl = l.part) (hc : cl < 128) (hs : (s.ctx l.slot).stopMask.getLsbD cl = false)
    (hf : s.fits cl l d = some f) (hne : ∀ c < 128, c ≠ cl → s.partOf c = l.part → s.fits c l d = none) :
    s.placeTeam l d t = (some cl, false) := by
  have honly : (List.range 128).filter (fun c => s.partOf c == l.part && !(s.ctx l.slot).stopMask.getLsbD c && (s.fits c l d).isSome) = [cl] := by
    refine filter_range_single hc ?_ fun c hcn hcne => ?_
    · rw [hp, hs, hf]
      simp
    · by_cases hpc : s.partOf c = l.part
      · rw [hne c hcn hcne hpc, Option.isSome_none, Bool.and_false]
      · rw [beq_false_of_ne hpc, Bool.false_and, Bool.false_and]
  have hpages : (if l.map = 0 ∨ l.task ∨ l.mapBad then some [] else s.mapPages l t) = some [] := if_pos (.inl hm)
  have hdies : s.mapDies l.slot [] = [] := rfl
  unfold State.placeTeam
  dsimp only
  rw [honly, hpages, Option.getD_some, hdies, if_pos List.isEmpty_nil, if_neg (fun h => Bool.noConfusion h.1), if_neg (fun h => Bool.noConfusion h),
    keepBest_single, keepBest_single]
  split
  · rfl
  · rfl
  · rw [keepBest_single]
    rfl

theorem offer_takes (hd : l.desc = some d) (ht : l.task = false) (hm : l.dmode = false) (hr : s.restoreFirst none cl l.eff = false)
    (hp : s.placeTeam l d l.next = (some cl, false)) (hf : s.fits cl l d = some f) : State.offer 1 s none true cl [l] = (some (l, d, f), []) := by
  have hgo : ¬ (l.task ∨ ¬ l.inTurn none ∨ s.restoreFirst none cl l.eff) := by
    unfold Launch.inTurn
    rw [ht, hm, hr]
    simp
  unfold State.offer
  dsimp only [firstLaunch, List.foldl_nil]
  rw [hd]
  dsimp only
  simp only [if_neg hgo, hp, if_true, hf, Option.map_some, Bool.false_eq_true, if_false]

/-- A cluster that the one ready launch's next team fits alone takes it (R290). -/
theorem offerCluster_takes (hl : s.launches = [l]) (hr : s.isReady l = true) (hd : l.desc = some d) (ht : l.task = false) (hm : l.dmode = false)
    (hmap : l.map = 0) (hp : s.partOf cl = l.part) (hp8 : l.part < 8) (hc : cl < 128) (hs : (s.ctx l.slot).stopMask.getLsbD cl = false)
    (hf : s.fits cl l d = some f) (hrest : ∀ p, s.restoreFirst none cl p = false)
    (hne : ∀ c < 128, c ≠ cl → s.partOf c = l.part → s.fits c l d = none) :
    ∃ r x, s.offerCluster cl none = some (({ s with launches := [{ l with risen := r, noRoom := x }], free := s.free + 1 } : State).startTeam
      { l with risen := r } d cl l.next f) := by
  obtain ⟨r, hag⟩ := aged_eq l s.clock.toNat
  obtain ⟨x, hroom⟩ := noteRoom_single (round := none) s { l with risen := r } l.part
  have hready : ({ s with launches := [{ l with risen := r }] } : State).isReady { l with risen := r } = true := hr
  have hfilter : [({ l with risen := r } : Launch)].filter (fun y => ({ s with launches := [{ l with risen := r }] } : State).isReady y && y.part == l.part) =
      [{ l with risen := r }] := by
    rw [List.filter_cons_of_pos (by rw [hready]; simp), List.filter_nil]
  have hplace : ({ s with launches := [{ l with risen := r }] } : State).placeTeam { l with risen := r } d l.next = (some cl, false) :=
    placeTeam_only hmap hp hc hs hf hne
  have hoffer := offer_takes (s := { s with launches := [{ l with risen := r }] }) (l := { l with risen := r }) hd ht hm (restoreFirst_launches hrest _) hplace hf
  refine ⟨r, x, ?_⟩
  unfold State.offerCluster
  dsimp only
  rw [hp, if_neg (Nat.not_le.2 hp8), checkDescs_checked (by rw [hl]; simp [hd]), hl, List.map_singleton, hag, hfilter, List.length_singleton, hoffer]
  dsimp only [State.noteMaps, List.foldl_nil]
  rw [hroom]

end Sys2Proof.Machine
end

section
/-! # A launch that is refused, and a launch that waits (R16, R290, R292, R293) -/

namespace Sys2Proof.Machine
open Sys2Proof.Claims

variable {s u : State} {l : Launch} {d : KDesc} {age cl n slot : Nat} {ks : List Nat} {code : FCode}

/-! ### A refusal -/

theorem post_completed {r : Rec} (h : slot < s.ctxs.length) :
    ((s.post slot r).ctx slot).completed = (s.ctx slot).completed ∧ (s.post slot r).ctxs.length = s.ctxs.length := by
  refine ⟨?_, (post_ctx h).2⟩
  unfold State.post
  split
  · obtain ⟨kvs, a, n, e⟩ := State.writeRec_eq s slot r
    rw [e]
    obtain ⟨m, a, b, e⟩ := raiseMsix_ctx (s := (s.write kvs).writeNum a 4 n) (k := slot) h
    rw [e]
    rfl
  · rfl

theorem codeWord_notice (c : FCode) (a lage info : Nat) :
    Rec.codeWord { code := c.num, kind := 2, master := 5, addr := a, lage := lage, info := info } = c.num + 2 * 2 ^ 16 + 5 * 2 ^ 20 := by
  unfold Rec.codeWord
  simp only [Bool.toNat_false, Nat.zero_mul, Nat.add_zero]

/-- A notice of the front end stands in the queue, when a record is free (R346). -/
theorem notice_noticed {a lage info : Nat} : noticed s (s.notice slot code a lage info) slot code := by
  intro w h
  have hap : apart (s.ctx slot).tqHeader 64 (s.recAt slot) 64 := .inl (by unfold State.recAt; omega)
  obtain ⟨⟨-, hcode, -⟩, -⟩ := recAt_post (r := { code := code.num, kind := 2, master := 5, addr := a, lage := lage, info := info }) w h hap
  have hlt := code.num_lt
  rw [codeWord_notice, Nat.mod_eq_of_lt (by omega)] at hcode
  exact hcode

theorem notice_frame (s : State) (slot : Nat) (code : FCode) (a lage info : Nat) :
    (s.notice slot code a lage info).launches = s.launches ∧ (s.notice slot code a lage info).teams = s.teams ∧
      (s.notice slot code a lage info).errs = s.errs := by
  unfold State.notice
  rw [State.post_frame]
  exact ⟨rfl, rfl, rfl⟩

theorem notice_completed {a lage info : Nat} (h : slot < s.ctxs.length) :
    ((s.notice slot code a lage info).ctx slot).completed = (s.ctx slot).completed ∧ (s.notice slot code a lage info).ctxs.length = s.ctxs.length :=
  post_completed h

/-- The launch and its tasks leave their lists. -/
def State.forget (s : State) (l : Launch) : State := (s.dropLaunch l.age).dropReady l.slot l.age

theorem forget_frame (s : State) (l : Launch) :
    (s.forget l).launches = s.launches.filter (·.age != l.age) ∧ (s.forget l).teams = s.teams ∧ (s.forget l).errs = s.errs := ⟨rfl, rfl, rfl⟩

theorem forget_ctx (h : l.slot < s.ctxs.length) :
    (s.forget l).ctx l.slot = { s.ctx l.slot with ready := (s.ctx l.slot).ready.filter fun r => r.2.1 != l.age } :=
  ctx_setCtx (s := s.dropLaunch l.age) h

theorem forget_length (s : State) (l : Launch) : (s.forget l).ctxs.length = s.ctxs.length := List.length_set

theorem forget_noticed (h : l.slot < s.ctxs.length) (hn : noticed (s.forget l) u l.slot code) : noticed s u l.slot code := by
  unfold noticed State.tqFree at hn
  rw [forget_ctx h] at hn
  exact hn

theorem countCompleted_frame (s : State) (slot : Nat) : (s.countCompleted slot).launches = s.launches ∧ (s.countCompleted slot).teams = s.teams ∧
    (s.countCompleted slot).errs = s.errs ∧ (s.countCompleted slot).mem = s.mem := ⟨rfl, rfl, rfl, rfl⟩

theorem countCompleted_completed (h : slot < s.ctxs.length) : ((s.countCompleted slot).ctx slot).completed = (s.ctx slot).completed + 1 :=
  congrArg Context.completed (ctx_setCtx h)

theorem noticed_of_mem {t : State} (h : t.mem = u.mem) (hn : noticed s u slot code) : noticed s t slot code := by
  unfold noticed at hn ⊢
  rw [h]
  exact hn

/-- A refusal is a notice of a launch that has left, counted as completed. -/
theorem refuse_eq (s : State) (l : Launch) (code : FCode) (a : Nat) :
    s.refuse l code a = ((s.forget l).notice l.slot code a l.age 0).countCompleted l.slot := rfl

theorem refuse_frame (s : State) (l : Launch) (code : FCode) (a : Nat) :
    (s.refuse l code a).launches = s.launches.filter (·.age != l.age) ∧ (s.refuse l code a).teams = s.teams ∧ (s.refuse l code a).errs = s.errs := by
  obtain ⟨hl, ht, he⟩ := forget_frame s l
  obtain ⟨hl', ht', he'⟩ := notice_frame (s.forget l) l.slot code a l.age 0
  obtain ⟨hl'', ht'', he'', -⟩ := countCompleted_frame ((s.forget l).notice l.slot code a l.age 0) l.slot
  rw [refuse_eq, hl'', hl', hl, ht'', ht', ht, he'', he', he]
  exact ⟨rfl, rfl, rfl⟩

theorem refuse_completed {a : Nat} (h : l.slot < s.ctxs.length) : ((s.refuse l code a).ctx l.slot).completed = (s.ctx l.slot).completed + 1 := by
  have hlen : l.slot < (s.forget l).ctxs.length := (forget_length s l).symm ▸ h
  obtain ⟨hcomp, hlen'⟩ := notice_completed (code := code) (a := a) (lage := l.age) (info := 0) hlen
  rw [refuse_eq, countCompleted_completed (hlen'.symm ▸ hlen), hcomp, forget_ctx h]

/-- The context of a refused launch is told (R16). -/
theorem refuse_noticed {a : Nat} (h : l.slot < s.ctxs.length) : noticed s (s.refuse l code a) l.slot code := by
  obtain ⟨-, -, -, hm⟩ := countCompleted_frame ((s.forget l).notice l.slot code a l.age 0) l.slot
  rw [refuse_eq]
  exact noticed_of_mem hm (forget_noticed h notice_noticed)

/-! ### A descriptor that fails -/

/-- The one launch of a partition, not yet checked, is refused when its descriptor fails (R16). -/
theorem checkDescs_refuses (hl : s.launches = [l]) (hr : s.isReady l = true) (hd : l.desc = none) (hm : l.dmode = false)
    (hk : s.rangeKeys noCluster l.slot l.kdesc 64 needR = .ok ks) (hbad : s.descOf l.slot l.part (wordOfBytes (s.mem.getAll ks)) = none) :
    s.checkDescs l.part none = s.refuse l .badDescriptor l.kdesc := by
  have hlist : [l].filter (fun l' => s.isReady l' && l'.part == l.part && l'.desc.isNone && l'.inTurn none) = [l] := by
    rw [List.filter_cons_of_pos (by unfold Launch.inTurn; rw [hr, hd, hm]; simp), List.filter_nil]
  unfold State.checkDescs
  rw [hl, hlist, List.foldl_cons, List.foldl_nil]
  unfold State.checkDesc
  rw [hk]
  dsimp only
  rw [hbad]

theorem offerCluster_refuses (hl : s.launches = [l]) (hp : s.partOf cl = l.part) (hp8 : l.part < 8)
    (hc : s.checkDescs l.part none = u) (hu : u.launches = []) : s.offerCluster cl none = some u := by
  have hne : u ≠ s := fun h => by
    rw [h, hl] at hu
    exact List.cons_ne_nil _ _ hu
  have hroom : ({ u with launches := [] } : State).noteRoom none l.part = u := by
    unfold State.noteRoom
    rw [List.map_nil, ← hu]
  unfold State.offerCluster
  dsimp only
  rw [hp, if_neg (Nat.not_le.2 hp8), hc, hu, List.map_nil, List.filter_nil, List.length_nil]
  simp only [State.offer, State.noteMaps, List.foldl_nil, hroom, if_neg hne]

theorem badDescRead_refuses (hl : s.launches = [l]) (hr : s.isReady l = true) (hd : l.desc = none) (hp : s.partOf cl = l.part)
    (hk : s.rangeKeys noCluster l.slot l.kdesc 64 needR = .ok ks) : s.badDescRead cl = some ((s.countEcc (ks.headD 0)).refuse l .badDescriptor l.kdesc) := by
  have hlist : [l].filter (fun l' => s.isReady l' && l'.part == l.part && l'.desc.isNone) = [l] := by
    rw [List.filter_cons_of_pos (by rw [hr, hd]; simp), List.filter_nil]
  unfold State.badDescRead
  dsimp only
  rw [hp, hl, hlist]
  dsimp only [firstLaunch, List.foldl_nil]
  rw [hk]

/-- The errors counted are nothing that a refusal looks at. -/
theorem refuse_counted {es : List Nat} {b : Nat} (hs : l.slot < s.ctxs.length) (hu : u = { s with errs := es, lastBad := b }) (code : FCode) (a : Nat) :
    (u.refuse l code a).launches = s.launches.filter (·.age != l.age) ∧ ((u.refuse l code a).ctx l.slot).completed = (s.ctx l.slot).completed + 1 ∧
      (u.refuse l code a).teams = s.teams ∧ noticed s (u.refuse l code a) l.slot code ∧ (u.refuse l code a).errs = es := by
  have hus : l.slot < u.ctxs.length := by rw [hu]; exact hs
  have hctx : u.ctx l.slot = s.ctx l.slot := by rw [hu]; rfl
  have hmem : u.mem = s.mem := by rw [hu]
  obtain ⟨hlaunches, hteams, herrs⟩ := refuse_frame u l code a
  have hn := refuse_noticed (code := code) (a := a) hus
  unfold noticed State.tqFree at hn
  rw [hctx, hmem] at hn
  rw [hlaunches, refuse_completed hus, hctx, hteams, herrs, hu]
  rw [hu] at hn
  exact ⟨rfl, rfl, rfl, hn, rfl⟩

/-- The one launch of a partition, not yet checked, leaves when its descriptor fails or cannot be read (R16). -/
theorem teamDispatch_refuses {ecc : Bool} (hl : s.launches = [l]) (hr : s.isReady l = true) (hd : l.desc = none) (hm : l.dmode = false)
    (hp : s.partOf cl = l.part) (hp8 : l.part < 8) (hs : l.slot < s.ctxs.length) (hk : s.rangeKeys noCluster l.slot l.kdesc 64 needR = .ok ks)
    (hbad : ecc = false → s.descOf l.slot l.part (wordOfBytes (s.mem.getAll ks)) = none) :
    ∃ v, teamDispatchBody cl ecc s = some v ∧ v.launches = [] ∧ (v.ctx l.slot).completed = (s.ctx l.slot).completed + 1 ∧ v.teams = s.teams ∧
      noticed s v l.slot .badDescriptor ∧ v.errs = if ecc then s.errs.modify (if inDram (ks.headD 0) then 1 else 3) (· + 1) else s.errs := by
  have hnone : s.launches.filter (·.age != l.age) = [] := by rw [hl, List.filter_cons_of_neg (by simp), List.filter_nil]
  cases ecc with
  | false =>
    obtain ⟨hlaunches, hrest⟩ := refuse_counted (es := s.errs) (b := s.lastBad) hs rfl .badDescriptor l.kdesc
    have hgone := hlaunches.trans hnone
    exact ⟨_, offerCluster_refuses hl hp hp8 (checkDescs_refuses hl hr hd hm hk (hbad rfl)) hgone, hgone, hrest⟩
  | true =>
    obtain ⟨b, hb⟩ := countEcc_eq s (ks.headD 0)
    obtain ⟨hlaunches, hrest⟩ := refuse_counted hs hb .badDescriptor l.kdesc
    exact ⟨_, badDescRead_refuses hl hr hd hp hk, hlaunches.trans hnone, hrest⟩

/-! ### Waiting -/

/-- A change of a launch changes nothing else. -/
theorem mapL_does {F : Launch → Launch} (hl : s.launch age = some l) (hF : (F l).age = l.age) :
    (s.mapL age F).launch age = some (F l) ∧ (s.mapL age F).groups = s.groups ∧ (s.mapL age F).mem = s.mem :=
  ⟨launch_mapL hl hF, rfl, rfl⟩

theorem priorityAging_rises {t₀ : Nat} (hl : s.launch age = some l) (hr : s.isReady l = true) (ht : l.ready = some t₀)
    (hlow : l.risen < min l.prio ((s.clock.toNat - t₀) / 3600000)) :
    ∃ v, priorityAgingBody age s = some v ∧ v.launch age = some { l with risen := min l.prio ((s.clock.toNat - t₀) / 3600000) } ∧
      v.groups = s.groups ∧ v.mem = s.mem := by
  have hag : l.aged s.clock.toNat = { l with risen := min l.prio ((s.clock.toNat - t₀) / 3600000) } := by
    unfold Launch.aged
    rw [ht]
    dsimp only
    rw [Nat.max_eq_right (Nat.le_of_lt hlow)]
  refine ⟨s.mapL age fun _ => l.aged s.clock.toNat, ?_, ?_⟩
  · unfold priorityAgingBody
    rw [hl]
    dsimp only
    rw [if_pos ⟨hr, by rw [hag]; exact hlow⟩]
  · rw [hag]
    exact mapL_does hl rfl

theorem placementTimeout_skips (hl : s.launch age = some l) (hr : s.isReady l = true) (hm : l.map ≠ 0) (ht : l.task = false) (hs : l.mapSkip = false)
    (hw : l.lastDisp + 36000 ≤ s.clock.toNat) :
    ∃ v, placementTimeoutBody age s = some v ∧ v.launch age = some { l with mapSkip := true } ∧ v.groups = s.groups ∧ v.mem = s.mem := by
  refine ⟨s.mapL age fun l => { l with mapSkip := true }, ?_, mapL_does hl rfl⟩
  unfold placementTimeoutBody
  rw [hl]
  dsimp only
  rw [if_pos ⟨hr, hm, by rw [ht]; exact Bool.false_ne_true, by rw [hs]; exact Bool.false_ne_true, hw⟩]

/-! ### Pre-emption by the front end (R292) -/

/-- What the end of a drain changes is its context alone. -/
theorem checkDrained_frame (s : State) (k : Nat) : ∃ cs, s.checkDrained k = { s with ctxs := cs } := by
  unfold State.checkDrained
  dsimp only
  split
  · exact ⟨_, rfl⟩
  · exact ⟨s.ctxs, rfl⟩

theorem checkDraineds_frame (ks : List Nat) (s : State) : ∃ cs, ks.foldl (fun u k => u.checkDrained k) s = { s with ctxs := cs } := by
  induction ks generalizing s with
  | nil => exact ⟨s.ctxs, rfl⟩
  | cons k ks ih =>
    obtain ⟨cs, e⟩ := checkDrained_frame s k
    obtain ⟨cs', e'⟩ := ih { s with ctxs := cs }
    exact ⟨cs', by rw [List.foldl_cons, e, e']⟩

/-- Where no team is quiet none is saved. -/
theorem saveReady_noneQuiet (h : ∀ t ∈ s.teams, s.teamQuiet t = false) : ∃ cs ps, s.saveReady = { s with ctxs := cs, fePre := ps } := by
  have hnone : s.teams.foldl (fun (u : State) t => if u.saveNow t then u.saveTeam t else u) s = s := by
    refine foldl_eq_self fun t ht => if_neg fun hnow => ?_
    unfold State.saveNow at hnow
    rw [h t ht, Bool.and_false] at hnow
    exact Bool.false_ne_true hnow
  obtain ⟨cs, e⟩ := checkDraineds_frame (List.range 64) s.settleFront
  unfold State.saveReady
  dsimp only
  rw [hnone, e]
  exact ⟨cs, _, rfl⟩

/-- The teams that a launch pre-empts are to be saved for the front end. -/
def Team.preempted (ts : List Team) (t : Team) : Team := if ts.any (·.tag == t.tag) then { t with saving := true, front := true } else t

theorem teamQuiet_preempted {ts : List Team} {ps : List Nat} {xs : List Team} (t : Team) :
    ({ s with fePre := ps, teams := xs } : State).teamQuiet (t.preempted ts) = s.teamQuiet t := by
  unfold Team.preempted
  split <;> rfl

theorem frontPreempt_marks {ts : List Team} {t₀ : Nat} (hl : s.launch age = some l) (hr : s.isReady l = true) (hd : l.desc = some d) (hpre : l.part ∉ s.fePre)
    (hn : l.noRoom = some t₀) (hw : t₀ + 72000 ≤ s.clock.toNat)
    (hfull : ∀ c ∈ s.partClusters l.part, (s.ctx l.slot).stopMask.getLsbD c = false ∧ s.fits c l d = none)
    (hv : (s.partClusters l.part).findSome? (fun c => s.victimsFor c l d) = some ts) :
    frontPreemptBody age s = some ({ s with fePre := s.fePre ++ [l.part], teams := s.teams.map (Team.preempted ts) } : State).saveReady := by
  have hroomless : s.roomless l = true := by
    unfold State.roomless
    rw [hd]
    refine List.all_eq_true.2 fun c hc => ?_
    rw [(hfull c hc).2]
    exact Bool.or_true _
  have hgo : ¬ ((!s.isReady l || s.fePre.contains l.part || !l.noRoom.any (fun t => decide (t + 72000 ≤ s.clock.toNat)) || !s.roomless l) = true) := by
    rw [hr, hroomless, hn]
    simp [hpre, hw]
  have hall : (s.partClusters l.part).filter (fun c => !(s.ctx l.slot).stopMask.getLsbD c) = s.partClusters l.part := by
    refine List.filter_eq_self.2 fun c hc => ?_
    rw [(hfull c hc).1]
    rfl
  unfold frontPreemptBody
  rw [hl]
  dsimp only
  rw [hd]
  dsimp only
  rw [if_neg hgo, hall, hv]
  rfl

/-- The teams that a launch pre-empts are marked, and none is saved yet. -/
theorem frontPreempt_saves {ts : List Team} {t₀ : Nat} (hl : s.launch age = some l) (hr : s.isReady l = true) (hd : l.desc = some d) (hpre : l.part ∉ s.fePre)
    (hn : l.noRoom = some t₀) (hw : t₀ + 72000 ≤ s.clock.toNat)
    (hfull : ∀ c ∈ s.partClusters l.part, (s.ctx l.slot).stopMask.getLsbD c = false ∧ s.fits c l d = none)
    (hv : (s.partClusters l.part).findSome? (fun c => s.victimsFor c l d) = some ts) (hq : ∀ t ∈ s.teams, s.teamQuiet t = false) :
    ∃ v, frontPreemptBody age s = some v ∧ v.groups = s.groups ∧ v.mem = s.mem ∧
      v.teams = s.teams.map fun x => if ∃ y ∈ ts, y.tag = x.tag then { x with saving := true, front := true } else x := by
  obtain ⟨cs, ps, e⟩ := saveReady_noneQuiet (s := { s with fePre := s.fePre ++ [l.part], teams := s.teams.map (Team.preempted ts) }) <| by
    intro x hx
    obtain ⟨y, hy, rfl⟩ := List.mem_map.1 hx
    exact (teamQuiet_preempted y).trans (hq y hy)
  refine ⟨_, (frontPreempt_marks hl hr hd hpre hn hw hfull hv).trans (congrArg some e), rfl, rfl, List.map_congr_left fun x _ => ?_⟩
  unfold Team.preempted
  simp only [List.any_eq_true, beq_iff_eq]

end Sys2Proof.Machine
end

section
/-! # The end of a measurement, of a team, and tasks (R234, R292, R296, R298, R299) -/

namespace Sys2Proof.Machine
open Sys2Proof.Claims

variable {s u : State} {l : Launch} {d : KDesc} {f : Fit} {x : Team} {age cl n slot v i : Nat} {r : Nat × Nat × Nat}

/-! ### INTENSITY_MEASUREMENT_END -/

theorem intensityClass_counted {flops bytes pick : Nat} (h : ¬ (bytes = 0 ∧ flops = 0)) :
    intensityClass flops bytes pick = if flops < 64 * bytes then 0 else if 512 * bytes < flops then 2 else 1 :=
  if_neg fun ⟨hf, hb⟩ => h ⟨hb, hf⟩

theorem intensity_classifies {kdesc mem link : Nat} {m : Measure} (ha : (s.ctx slot).state = .active)
    (hm : (s.ctx slot).meas.find? (·.kdesc == kdesc) = some m) (hw : m.since + 72000 ≤ s.clock.toNat ∨ s.launch m.lage = none)
    (hn : ¬ (mem + link = 0 ∧ m.flops + s.flopsOf slot m.lage = 0)) (hl : (s.ctx slot).classes.length < 256) :
    intensityBody slot kdesc mem link s = some { s.setCtx slot { s.ctx slot with
      classes := (s.ctx slot).classes ++ [(kdesc, if m.flops + s.flopsOf slot m.lage < 64 * (mem + link) then 0
        else if 512 * (mem + link) < m.flops + s.flopsOf slot m.lage then 2 else 1)]
      meas := (s.ctx slot).meas.filter (· != m) } with free := s.free + 1 } := by
  have hgo : ¬ ((s.ctx slot).state ≠ .active ∨ (s.clock.toNat < m.since + 72000 ∧ (s.launch m.lage).isSome)) := by
    rintro (hna | ⟨hlt, hs⟩)
    · exact hna ha
    · rcases hw with hle | hnone
      · omega
      · rw [hnone] at hs
        exact Bool.noConfusion hs
  have hdrop (y : Nat × Nat) : ((s.ctx slot).classes ++ [y]).drop (((s.ctx slot).classes ++ [y]).length - 256) = (s.ctx slot).classes ++ [y] := by
    rw [List.length_append, List.length_singleton, Nat.sub_eq_zero_of_le (by omega), List.drop_zero]
  unfold intensityBody
  dsimp only
  rw [hm]
  dsimp only
  rw [if_neg hgo, intensityClass_counted hn, hdrop]

/-! ### TEAM_RETIREMENT -/

theorem mapQueue_cl (e : EngineKind) (F : List Cmd → List Cmd) (h : cl < s.clusters.length) :
    (s.mapQueue cl e F).cl cl = (s.cl cl).setQueue e (F ((s.cl cl).queue e)) ∧ (s.mapQueue cl e F).clusters.length = s.clusters.length := by
  refine ⟨?_, List.length_set⟩
  show ((s.clusters.set cl _).getD cl {}) = _
  rw [List.getD_eq_getElem?_getD, List.getElem?_set_self h]
  rfl

/-- Every queue of a cluster changed. -/
theorem mapQueues_queue (F : List Cmd → List Cmd) (h : cl < s.clusters.length) (e : EngineKind) :
    ((allEngines.foldl (fun (u : State) e => u.mapQueue cl e F) s).cl cl).queue e = F ((s.cl cl).queue e) := by
  unfold allEngines
  simp only [List.foldl_cons, List.foldl_nil]
  obtain ⟨e₁, l₁⟩ := mapQueue_cl .copy F h
  obtain ⟨e₂, l₂⟩ := mapQueue_cl .gather F (l₁ ▸ h)
  obtain ⟨e₃, l₃⟩ := mapQueue_cl .link F (l₂ ▸ l₁ ▸ h)
  obtain ⟨e₄, l₄⟩ := mapQueue_cl .lathe F (l₃ ▸ l₂ ▸ l₁ ▸ h)
  obtain ⟨e₅, -⟩ := mapQueue_cl .trowel F (l₄ ▸ l₃ ▸ l₂ ▸ l₁ ▸ h)
  rw [e₅, e₄, e₃, e₂, e₁]
  cases e <;> rfl

theorem mapQueues_frame (F : List Cmd → List Cmd) (es : List EngineKind) (s : State) :
    ∃ cls, es.foldl (fun (u : State) e => u.mapQueue cl e F) s = { s with clusters := cls } := by
  induction es generalizing s with
  | nil => exact ⟨s.clusters, rfl⟩
  | cons e es ih =>
    obtain ⟨cls, h⟩ := ih (s.mapQueue cl e F)
    exact ⟨cls, by rw [List.foldl_cons, h]; rfl⟩

/-- A team that is released has left with its groups and its commands. -/
theorem releaseTeam_does (n : Nat) (h : x.cluster < s.clusters.length) :
    (∃ cls cs, s.releaseTeam x n = { s with
      teams := s.teams.filter (·.tag != x.tag), groups := s.groups.filter (·.tag != x.tag), cur := {}, clusters := cls, ctxs := cs }) ∧
      ∀ e, ((s.releaseTeam x n).cl x.cluster).queue e = ((s.cl x.cluster).queue e).filter (·.tag != x.tag) := by
  obtain ⟨cls, hf⟩ := mapQueues_frame (cl := x.cluster) (fun q => q.filter (·.tag != x.tag)) allEngines (s.addFlops x.slot x.lage n)
  refine ⟨⟨cls, (s.addFlops x.slot x.lage n).ctxs, ?_⟩, fun e => mapQueues_queue (s := s.addFlops x.slot x.lage n) (fun q => q.filter (·.tag != x.tag)) h e⟩
  unfold State.releaseTeam
  dsimp only
  rw [hf]
  rfl

theorem team_tag {tag : Nat} (h : s.team tag = some x) : x.tag = tag := by
  simpa using List.find?_some h

/-- An ended team leaves, and its launch has one fewer alive (R234). -/
theorem teamRetirement_does {tag : Nat} (ht : s.team tag = some x) (he : s.teamEnded x = true) (hl : s.launch x.lage = some l)
    (hc : x.cluster < s.clusters.length) :
    ∃ t, teamRetirementBody tag s = some t ∧ t.teams = s.teams.filter (·.tag != tag) ∧ t.groups = s.groups.filter (·.tag != tag) ∧
      (∀ e, (t.cl x.cluster).queue e = ((s.cl x.cluster).queue e).filter (·.tag != tag)) ∧ t.mem = s.mem ∧
      t.launch x.lage = some { l with alive := l.alive - 1 } := by
  have htag := team_tag ht
  subst htag
  obtain ⟨⟨cls, cs, hrel⟩, hq⟩ := releaseTeam_does (s.teamFlops x) hc
  have hbody : teamRetirementBody x.tag s = some (((s.releaseTeam x (s.teamFlops x)).mapL x.lage fun l => { l with alive := l.alive - 1 }).checkDrained x.slot) := by
    unfold teamRetirementBody
    rw [ht]
    dsimp only
    rw [if_pos he]
  obtain ⟨cs', hdrain⟩ := checkDrained_frame ((s.releaseTeam x (s.teamFlops x)).mapL x.lage fun l => { l with alive := l.alive - 1 }) x.slot
  have hlaunch := launch_mapL (s := s.releaseTeam x (s.teamFlops x)) (F := fun l => { l with alive := l.alive - 1 })
    (by rw [hrel]; exact hl) rfl
  refine ⟨_, hbody, ?_, ?_, fun e => ?_, ?_, ?_⟩
  · rw [hdrain, hrel]
    rfl
  · rw [hdrain, hrel]
    rfl
  · rw [hdrain]
    exact hq e
  · rw [hdrain, hrel]
    rfl
  · rw [hdrain]
    exact hlaunch

/-! ### TASK_ELIGIBILITY_TEST -/

section Test
variable {ins outs : List Nat} {xs ys : List Bool} (hl : s.launch age = some l) (hp : s.taskPending l i = true) (hd : l.dmode = false)
  (hdesc : l.desc ≠ none) (he : l.entries.find? (·.1 == i) = some (i, ins, outs)) (hxs : s.slotBits l.slot ins = .ok xs)
  (hys : s.slotBits l.slot outs = .ok ys)
include hl hp hd hdesc he hxs hys

/-- The test of a pending task, whose descriptor is checked, looks at the words of its slots (R298). -/
theorem taskTestBody_tests : taskTestBody age i s =
    if !xs.all id || ys.any id || (s.partClusters l.part).isEmpty then none
    else some (s.setCtx l.slot { s.ctx l.slot with
      ready := (s.ctx l.slot).ready ++ [((s.partClusters l.part).getD (i % (s.partClusters l.part).length) 0, l.age, i)] }) := by
  unfold taskTestBody
  rw [hl]
  dsimp only
  rw [hp, hd, if_neg (by decide), if_neg (by rwa [Option.isNone_iff_eq_none])]
  unfold State.testTask
  rw [he]
  dsimp only
  rw [hxs, hys]

theorem taskTest_eligible (hin : ∀ x ∈ xs, x = true) (hout : ∀ y ∈ ys, y = false) (hc : s.partClusters l.part ≠ []) :
    taskTestBody age i s = some (s.setCtx l.slot { s.ctx l.slot with
      ready := (s.ctx l.slot).ready ++ [((s.partClusters l.part).getD (i % (s.partClusters l.part).length) 0, l.age, i)] }) := by
  have hgo : ¬ ((!xs.all id || ys.any id || (s.partClusters l.part).isEmpty) = true) := by
    rw [(List.all_eq_true (p := id)).2 hin, (List.any_eq_false (p := id)).2 fun y hy => by rw [hout y hy]; exact Bool.false_ne_true]
    simpa using hc
  rw [taskTestBody_tests hl hp hd hdesc he hxs hys, if_neg hgo]

theorem taskTest_ineligible (h : (∃ x ∈ xs, x = false) ∨ ∃ y ∈ ys, y = true) : taskTestBody age i s = none := by
  have hstop : (!xs.all id || ys.any id || (s.partClusters l.part).isEmpty) = true := by
    rcases h with ⟨x, hx, rfl⟩ | ⟨y, hy, rfl⟩
    · rw [List.all_eq_false.2 ⟨false, hx, Bool.false_ne_true⟩]
      rfl
    · rw [List.any_eq_true.2 ⟨true, hy, rfl⟩, Bool.or_true, Bool.true_or]
  rw [taskTestBody_tests hl hp hd hdesc he hxs hys, if_pos hstop]

end Test

/-! ### TASK_TAKE and TASK_STEAL -/

/-- Whether the head of a list may be taken is whether its launch is held back (R290). -/
theorem taskNow_eq (hl : s.launch r.2.1 = some l) (hm : l.dmode = false) (hr : s.isReady l = true) (hp : s.partOf cl = l.part)
    (hs : (s.ctx l.slot).stopMask.getLsbD cl = false) (hrest : s.restoreFirst none cl l.eff = false) :
    s.taskNow none cl r = !s.heldBack l := by
  unfold State.taskNow Launch.inTurn
  rw [hl]
  dsimp only
  rw [hm, hr, hp, hs, hrest]
  simp

theorem takeTask_fits (hl : s.launch r.2.1 = some l) (hd : l.desc = some d) (hf : s.fits cl l d = some f) : s.takeTask cl slot r =
    some ((s.setCtx slot { s.ctx slot with ready := (s.ctx slot).ready.filter (· != r) }).startTeam l d cl r.2.2 f) := by
  unfold State.takeTask
  rw [hl]
  dsimp only
  rw [hd]
  dsimp only
  rw [hf]
  rfl

theorem takeTask_full (hl : s.launch r.2.1 = some l) (hd : l.desc = some d) (hf : s.fits cl l d = none) : s.takeTask cl slot r = none := by
  unfold State.takeTask
  rw [hl]
  dsimp only
  rw [hd]
  dsimp only
  rw [hf]
  rfl

theorem taskTake_takes (hr : s.readyHead cl slot = some r) (hn : s.taskNow none cl r = true) : taskTakeBody none cl slot s = s.takeTask cl slot r := by
  unfold taskTakeBody
  rw [hr]
  dsimp only
  rw [if_pos hn]

theorem taskTake_waits (hr : s.readyHead cl slot = some r) (hn : s.taskNow none cl r = false) : taskTakeBody none cl slot s = none := by
  unfold taskTakeBody
  rw [hr]
  dsimp only
  rw [if_neg (by rw [hn]; exact Bool.false_ne_true)]

/-- A cluster with a free slot and no task of its own takes one of the longest list, or puts it back at the tail (R299). -/
theorem taskSteal_takes (hnone : s.readyHead cl slot = none) (hp : s.partOf cl < 8) (hfree : ∃ p < 4, s.freeSlots cl p ≠ []) (hv : s.victim cl slot = some v)
    (hr : s.readyHead v slot = some r) (hn : s.taskNow none cl r = true) : taskStealBody none cl slot s =
      (s.takeTask cl slot r <|> some (s.setCtx slot { s.ctx slot with ready := (s.ctx slot).ready.filter (· != r) ++ [r] })) := by
  have hslots : (List.range 4).all (fun p => (s.freeSlots cl p).isEmpty) = false := by
    obtain ⟨p, hp4, hne⟩ := hfree
    exact List.all_eq_false.2 ⟨p, List.mem_range.2 hp4, by simpa using hne⟩
  have hgo : ¬ ((s.readyHead cl slot).isSome ∨ 8 ≤ s.partOf cl ∨ (List.range 4).all (fun p => (s.freeSlots cl p).isEmpty)) := by
    rw [hnone, hslots]
    simpa using hp
  unfold taskStealBody
  rw [if_neg hgo, hv]
  dsimp only
  rw [hr]
  dsimp only
  rw [hn, if_neg (by decide)]
  cases s.takeTask cl slot r with
  | some t => rfl
  | none => rfl

/-- A task that is taken is dispatched, and has left its list. -/
theorem takeTask_dispatched (hl : s.launch r.2.1 = some l) (hs : slot < s.ctxs.length)
    (he : l.task = true → ∀ i < l.total, i ∉ l.dispatched → ∃ e ∈ l.entries, e.1 = i) :
    let t := (s.setCtx slot { s.ctx slot with ready := (s.ctx slot).ready.filter (· != r) }).startTeam l d cl r.2.2 f
    Dispatched s t l d cl r.2.2 f ∧ (t.ctx slot).ready = (s.ctx slot).ready.filter (· != r) := by
  intro t
  have hage : s.launch l.age = some l := (launch_age hl).symm ▸ hl
  obtain ⟨hd, hr⟩ := startTeam_dispatched (s := s.setCtx slot { s.ctx slot with ready := (s.ctx slot).ready.filter (· != r) }) (d := d) (cl := cl) (f := f)
    (t := r.2.2) hage rfl rfl he
  refine ⟨hd, (hr slot).trans ?_⟩
  rw [ctx_setCtx hs]

end Sys2Proof.Machine
end

section
/-! # O49: dispatch, placement priority, tasks and retirement -/

namespace Sys2Proof.Machine
open Sys2Proof.Claims

variable {s t : State}

theorem eventOf_eq {o : Option State} (h : o = some t) : eventOf s o = .next (t.report .event) := by
  rw [h]
  rfl

theorem eventOf_none {o : Option State} (h : o = none) : eventOf s o = .next (s.report .nothing) := by
  rw [h]
  rfl

/-- Settles O49: a dispatch is `takePlace` and what its launch keeps (`startTeam_dispatched`), from the offer that the one launch's next team takes and from a task's list alike;
every other clause is what its event's body gives on the states named. -/
theorem teamsAndTasks : Obligations.TeamsAndTasks := by
  unfold Obligations.TeamsAndTasks
  refine ⟨?dispatch, ?descriptor, ?waiting, ?intensity, ?retirement, ?test, ?tasks⟩
  case dispatch =>
    intro s cl l d f hl hr hd ht hm hmap hp hp8 hc hs hf hrest hne
    obtain ⟨r, x, e⟩ := offerCluster_takes hl hr hd ht hm hmap hp hp8 hc hs hf hrest hne
    have hlaunch : ({ s with launches := [{ l with risen := r, noRoom := x }], free := s.free + 1 } : State).launch l.age =
        some { l with risen := r, noRoom := x } := List.find?_cons_of_pos (by simp)
    obtain ⟨hdisp, -⟩ := startTeam_dispatched (l := { l with risen := r }) (d := d) (cl := cl) (t := l.next) (f := f) hlaunch rfl rfl
      fun h => absurd (ht.symm.trans h) Bool.false_ne_true
    exact ⟨_, eventOf_eq e, rfl, hdisp⟩
  case descriptor =>
    intro s cl l ks ecc hl hr hd hm hp hp8 hs hk hbad
    obtain ⟨v, e, hlaunches, hcomp, hteams, hnote, herrs⟩ := teamDispatch_refuses hl hr hd hm hp hp8 hs hk hbad
    exact ⟨_, eventOf_eq e, rfl, hlaunches, hcomp, hteams, hnote, herrs⟩
  case waiting =>
    intro s age l hl hr
    refine ⟨fun t₀ ht hlow => ?_, fun hm ht hs hw => ?_, fun d ts t₀ hd hpre hn hw hfull hv hq => ?_⟩
    · obtain ⟨v, e, hv⟩ := priorityAging_rises hl hr ht hlow
      exact ⟨_, eventOf_eq e, rfl, hv⟩
    · obtain ⟨v, e, hv⟩ := placementTimeout_skips hl hr hm ht hs hw
      exact ⟨_, eventOf_eq e, rfl, hv⟩
    · obtain ⟨v, e, hv⟩ := frontPreempt_saves hl hr hd hpre hn hw hfull hv hq
      exact ⟨_, eventOf_eq e, rfl, hv⟩
  case intensity =>
    intro s slot kdesc mem link m ha hm hw bytes of flops hn hl
    exact eventOf_eq (intensity_classifies ha hm hw hn hl)
  case retirement =>
    intro s tag x l ht he hl hc
    obtain ⟨t, e, hteams, hgroups, hq, hmem, hlaunch⟩ := teamRetirement_does ht he hl hc
    exact ⟨_, eventOf_eq e, rfl, hteams, hgroups, hq, hmem, hlaunch⟩
  case test =>
    intro s age i l ins outs xs ys hl hp hd hdesc he hxs hys hc
    exact ⟨fun hin hout => eventOf_eq (taskTest_eligible hl hp hd hdesc he hxs hys hin hout hc),
      fun h => eventOf_none (taskTest_ineligible hl hp hd hdesc he hxs hys h)⟩
  case tasks =>
    intro s cl v slot r l d hr hl hd hm hslot hlen hready hstop hp hrest free
    subst hslot
    have hnow := taskNow_eq hl hm hready hp hstop hrest
    refine ⟨fun f hf hback _ he ev hev => ?_, fun hf hback hfree => ?_, fun hback hv => ?_⟩
    · rw [hback] at hnow
      obtain ⟨hdisp, hlist⟩ := takeTask_dispatched (d := d) (cl := cl) (f := f) hl hlen fun _ => he
      have htake := takeTask_fits (slot := l.slot) hl hd hf
      rcases hev with ⟨rfl, rfl⟩ | ⟨rfl, hnone, hp8, hslots, hv⟩
      · exact ⟨_, eventOf_eq ((taskTake_takes hr hnow).trans htake), rfl, hdisp, hlist⟩
      · have e := taskSteal_takes hnone hp8 hslots hv hr hnow
        rw [htake] at e
        exact ⟨_, eventOf_eq e, rfl, hdisp, hlist⟩
    · rw [hback] at hnow
      obtain ⟨hnone, hp8, hslots, hv⟩ := hfree
      have e := taskSteal_takes hnone hp8 hslots hv hr hnow
      rw [takeTask_full hl hd hf] at e
      exact eventOf_eq e
    · rw [hback] at hnow
      subst hv
      exact eventOf_none (taskTake_waits hr hnow)

end Sys2Proof.Machine
end

section
/-! # Encoding and decoding agree (O58)

A word is the fields of its format and nothing else (`pack_unpack`), and its opcode names the format (`decodeWord_eq`). A field that a code fills holds the code of the value it
decodes to (`ofCode_eq_some`). So each arm of the decoder can be read backwards: the conditions that it puts on the fields say that the fields are those that the
encoder writes. -/

namespace Sys2Proof

/-! ### Words and their fields (R36, R37) -/

theorem extract_append_extract {w n m s t : Nat} (x : BitVec w) (h : t = s + m) :
    x.extractLsb' t n ++ x.extractLsb' s m = x.extractLsb' s (n + m) := by
  subst h
  apply BitVec.eq_of_getLsbD_eq
  intro i hi
  simp only [BitVec.getLsbD_append, BitVec.getLsbD_extractLsb']
  by_cases him : i < m
  · simp [him]; omega
  · simp [him, show i - m < n by omega, hi, show s + m + (i - m) = s + i by omega]

theorem FV.pack_unpack (w : BitVec 96) : (FV.unpack w).pack = w := by
  simp (disch := decide) only [FV.pack, FV.unpack, extract_append_extract]
  exact extract_all w
theorem FI.pack_unpack (w : BitVec 96) : (FI.unpack w).pack = w := by
  simp (disch := decide) only [FI.pack, FI.unpack, extract_append_extract]
  exact extract_all w
theorem FM.pack_unpack (w : BitVec 96) : (FM.unpack w).pack = w := by
  simp (disch := decide) only [FM.pack, FM.unpack, extract_append_extract]
  exact extract_all w
theorem FX.pack_unpack (w : BitVec 96) : (FX.unpack w).pack = w := by
  simp (disch := decide) only [FX.pack, FX.unpack, extract_append_extract]
  exact extract_all w
theorem FC.pack_unpack (w : BitVec 96) : (FC.unpack w).pack = w := by
  simp (disch := decide) only [FC.pack, FC.unpack, extract_append_extract]
  exact extract_all w
theorem FY.pack_unpack (w : BitVec 96) : (FY.unpack w).pack = w := by
  simp (disch := decide) only [FY.pack, FY.unpack, extract_append_extract]
  exact extract_all w
theorem FZ.pack_unpack (w : BitVec 96) : (FZ.unpack w).pack = w := by
  simp (disch := decide) only [FZ.pack, FZ.unpack, extract_append_extract]
  exact extract_all w

theorem toNat_append_eq {n m : Nat} (x : BitVec n) (y : BitVec m) : (x ++ y).toNat = x.toNat * 2 ^ m + y.toNat := by
  rw [BitVec.toNat_append, ← Nat.shiftLeft_add_eq_or_of_lt y.isLt, Nat.shiftLeft_eq]

theorem toNat_extract {n : Nat} (x : BitVec n) (s k : Nat) : (x.extractLsb' s k).toNat = x.toNat / 2 ^ s % 2 ^ k := by
  rw [BitVec.extractLsb'_toNat, Nat.shiftRight_eq_div_pow]

/-! ### Codes and what they name (R23, R41, R42) -/

@[simp] theorem SetF.ofCode_eq_some {x : BitVec 2} {t : SetF} : SetF.ofCode x = some t ↔ x = t.code :=
  ⟨(by decide : ∀ x, ∀ t ∈ SetF.ofCode x, x = t.code) x t, fun h => h ▸ SetF.ofCode_code t⟩
@[simp] theorem Ty.ofCode_eq_some {x : BitVec 4} {t : Ty} : Ty.ofCode x = some t ↔ x = t.code :=
  ⟨(by decide : ∀ x, ∀ t ∈ Ty.ofCode x, x = t.code) x t, fun h => h ▸ Ty.ofCode_code t⟩
@[simp] theorem Ord.ofCode_eq_some {x : BitVec 2} {t : Ord} : Ord.ofCode x = some t ↔ x = t.code :=
  ⟨(by decide : ∀ x, ∀ t ∈ Ord.ofCode x, x = t.code) x t, fun h => h ▸ Ord.ofCode_code t⟩
@[simp] theorem Scope.ofCode_eq_some {x : BitVec 3} {t : Scope} : Scope.ofCode x = some t ↔ x = t.code :=
  ⟨(by decide : ∀ x, ∀ t ∈ Scope.ofCode x, x = t.code) x t, fun h => h ▸ Scope.ofCode_code t⟩
@[simp] theorem CacheP.ofCode_eq_some {x : BitVec 2} {t : CacheP} : CacheP.ofCode x = some t ↔ x = t.code :=
  ⟨(by decide : ∀ x, ∀ t ∈ CacheP.ofCode x, x = t.code) x t, fun h => h ▸ CacheP.ofCode_code t⟩
@[simp] theorem Width.ofCode_eq_some {x : BitVec 3} {t : Width} : Width.ofCode x = some t ↔ x = t.code :=
  ⟨(by decide : ∀ x, ∀ t ∈ Width.ofCode x, x = t.code) x t, fun h => h ▸ Width.ofCode_code t⟩
@[simp] theorem Rnd.ofCode_eq_some {x : BitVec 2} {t : Rnd} : Rnd.ofCode x = some t ↔ x = t.code :=
  ⟨(by decide : ∀ x, ∀ t ∈ Rnd.ofCode x, x = t.code) x t, fun h => h ▸ Rnd.ofCode_code t⟩
@[simp] theorem CmpOp.ofCode_eq_some {x : BitVec 3} {t : CmpOp} : CmpOp.ofCode x = some t ↔ x = t.code :=
  ⟨(by decide : ∀ x, ∀ t ∈ CmpOp.ofCode x, x = t.code) x t, fun h => h ▸ CmpOp.ofCode_code t⟩
@[simp] theorem Combine.ofCode_eq_some {x : BitVec 2} {t : Combine} : Combine.ofCode x = some t ↔ x = t.code :=
  ⟨(by decide : ∀ x, ∀ t ∈ Combine.ofCode x, x = t.code) x t, fun h => h ▸ Combine.ofCode_code t⟩
@[simp] theorem VoteMode.ofCode_eq_some {x : BitVec 2} {t : VoteMode} : VoteMode.ofCode x = some t ↔ x = t.code :=
  ⟨(by decide : ∀ x, ∀ t ∈ VoteMode.ofCode x, x = t.code) x t, fun h => h ▸ VoteMode.ofCode_code t⟩
@[simp] theorem ShflMode.ofCode_eq_some {x : BitVec 2} {t : ShflMode} : ShflMode.ofCode x = some t ↔ x = t.code :=
  ⟨(by decide : ∀ x, ∀ t ∈ ShflMode.ofCode x, x = t.code) x t, fun h => h ▸ ShflMode.ofCode_code t⟩
@[simp] theorem RedOp.ofCode_eq_some {x : BitVec 4} {t : RedOp} : RedOp.ofCode x = some t ↔ x = t.code :=
  ⟨(by decide : ∀ x, ∀ t ∈ RedOp.ofCode x, x = t.code) x t, fun h => h ▸ RedOp.ofCode_code t⟩
@[simp] theorem Space.ofCode_eq_some {x : BitVec 3} {t : Space} : Space.ofCode x = some t ↔ x = t.code :=
  ⟨(by decide : ∀ x, ∀ t ∈ Space.ofCode x, x = t.code) x t, fun h => h ▸ Space.ofCode_code t⟩
@[simp] theorem AtomOp.ofCode_eq_some {x : BitVec 4} {t : AtomOp} : AtomOp.ofCode x = some t ↔ x = t.code :=
  ⟨(by decide : ∀ x, ∀ t ∈ AtomOp.ofCode x, x = t.code) x t, fun h => h ▸ AtomOp.ofCode_code t⟩
@[simp] theorem FeOp.ofCode_eq_some {x : BitVec 2} {t : FeOp} : FeOp.ofCode x = some t ↔ x = t.code :=
  ⟨(by decide : ∀ x, ∀ t ∈ FeOp.ofCode x, x = t.code) x t, fun h => h ▸ FeOp.ofCode_code t⟩
@[simp] theorem KvRows.ofCode_eq_some {x : BitVec 2} {t : KvRows} : KvRows.ofCode x = some t ↔ x = t.code :=
  ⟨(by decide : ∀ x, ∀ t ∈ KvRows.ofCode x, x = t.code) x t, fun h => h ▸ KvRows.ofCode_code t⟩
@[simp] theorem ObjKind.ofCode_eq_some {x : BitVec 4} {t : ObjKind} : ObjKind.ofCode x = some t ↔ x = t.code :=
  ⟨(by decide : ∀ x, ∀ t ∈ ObjKind.ofCode x, x = t.code) x t, fun h => h ▸ ObjKind.ofCode_code t⟩
@[simp] theorem ObjOp.ofCode_eq_some {x : BitVec 4} {t : ObjOp} : ObjOp.ofCode x = some t ↔ x = t.code :=
  ⟨(by decide : ∀ x, ∀ t ∈ ObjOp.ofCode x, x = t.code) x t, fun h => h ▸ ObjOp.ofCode_code t⟩
@[simp] theorem SredOp.ofCode_eq_some {x : BitVec 4} {t : SredOp} : SredOp.ofCode x = some t ↔ x = t.code :=
  ⟨(by decide : ∀ x, ∀ t ∈ SredOp.ofCode x, x = t.code) x t, fun h => h ▸ SredOp.ofCode_code t⟩
@[simp] theorem RowFmt.ofCode_eq_some {x : BitVec 2} {t : RowFmt} : RowFmt.ofCode x = some t ↔ x = t.code :=
  ⟨(by decide : ∀ x, ∀ t ∈ RowFmt.ofCode x, x = t.code) x t, fun h => h ▸ RowFmt.ofCode_code t⟩
@[simp] theorem TrapReg.ofCode_eq_some {x : BitVec 4} {t : TrapReg} : TrapReg.ofCode x = some t ↔ x = t.code :=
  ⟨(by decide : ∀ x, ∀ t ∈ TrapReg.ofCode x, x = t.code) x t, fun h => h ▸ TrapReg.ofCode_code t⟩

@[simp] theorem ofBit_bitOf (x : BitVec 1) : ofBit (bitOf x) = x := by revert x; decide

@[simp] theorem guardOf_code (g : Guard) : guardOf g.p (ofBit g.neg) = g := by simp [guardOf]

@[simp] theorem acqRelOf_code (x : AcqRel) : acqRelOf (ofBit x.acq) (ofBit x.rel) x.scope.code = some x := by simp [acqRelOf]

@[simp] theorem fenceOf_code (x : FenceOrd) : fenceOf x.ord x.yop = some x := by cases x <;> rfl

@[simp] theorem headOf_eq_some {gp : BitVec 6} {gn : BitVec 1} {sf : BitVec 2} {h : Head} :
    headOf gp gn sf = some h ↔ gp = h.g.p ∧ gn = ofBit h.g.neg ∧ sf = h.setf.code := by
  constructor
  · obtain ⟨⟨p, n⟩, t⟩ := h
    simp only [headOf, Option.map_eq_some_iff, SetF.ofCode_eq_some, guardOf, Head.mk.injEq, Guard.mk.injEq]
    rintro ⟨_, rfl, ⟨rfl, rfl⟩, rfl⟩
    simp
  · rintro ⟨rfl, rfl, rfl⟩
    exact headOf_code h

@[simp] theorem ordScopeOf_eq_some {o : BitVec 2} {sc : BitVec 3} {x : OrdScope} :
    ordScopeOf o sc = some x ↔ o = x.ord.code ∧ sc = x.scope.code := by
  obtain ⟨a, b⟩ := x
  rw [← Ord.ofCode_eq_some, ← Scope.ofCode_eq_some]
  cases ho : Ord.ofCode o <;> cases hs : Scope.ofCode sc <;> simp [ordScopeOf, ho, hs]

@[simp] theorem acqRelOf_eq_some {a r : BitVec 1} {sc : BitVec 3} {x : AcqRel} :
    acqRelOf a r sc = some x ↔ a = ofBit x.acq ∧ r = ofBit x.rel ∧ sc = x.scope.code := by
  constructor
  · obtain ⟨p, q, t⟩ := x
    simp only [acqRelOf, Option.map_eq_some_iff, Scope.ofCode_eq_some, AcqRel.mk.injEq]
    rintro ⟨_, rfl, rfl, rfl, rfl⟩
    simp
  · rintro ⟨rfl, rfl, rfl⟩
    exact acqRelOf_code x

@[simp] theorem fenceOf_eq_some {o : BitVec 2} {y : BitVec 4} {x : FenceOrd} : fenceOf o y = some x ↔ o = x.ord ∧ y = x.yop := by
  revert o y
  cases x <;> decide

@[simp] theorem Operand.code_ofCode : ∀ x : BitVec 9, (Operand.ofCode x).code = x := by decide

/-! ### What an accepted instruction's fields are (R38)

A condition of `Instr.wf` as what the decoder asks of the field that the value encodes to. -/

theorem Operand.ok_iff (o : Operand) : o.ok = true ↔ Operand.ofCode o.code = o := by
  refine ⟨Operand.ofCode_code o, ?_⟩
  cases o with
  | unassigned c => revert c; decide
  | _ => exact fun _ => rfl

/-- Two bits hold the code of every space but the host's (R94, R278). -/
theorem Space.ne_host_iff (x : Space) : (x != .host) = true ↔ Space.ofCode ((x.code.setWidth 2).setWidth 3) = some x := by
  cases x <;> decide

theorem SetF.eq_none_iff (x : SetF) : (x == .none) = true ↔ (x.code == 0#2) = true := by cases x <;> decide

@[simp] theorem must_true : must true = some () := rfl

@[simp] theorem must_eq_some {b : Bool} {u : Unit} : must b = some u ↔ b = true := by cases b <;> simp [must]

theorem accept_eq_ok {o : Option Instr} {i : Instr} : accept o = .ok i ↔ o = some i ∧ i.wf = true := by
  cases o with
  | none => simp [accept]
  | some j =>
    by_cases h : j.wf = true
    · simp only [accept, h, ite_true, Except.ok.injEq, Option.some.injEq, iff_self_and]
      rintro rfl
      exact h
    · simp only [accept, h, Bool.false_eq_true, ite_false, reduceCtorEq, Option.some.injEq, false_iff, not_and]
      rintro rfl
      exact h

/-! ### The format of an opcode (R54) -/

/-- The seven formats of R40. -/
inductive WordFormat
  | v | i | m | x | c | y | z

/-- The format in which the word of an opcode is read (R54). -/
def formatOf (op : BitVec 10) : WordFormat :=
  if op.toNat < 0x180 then (if op.toNat % 2 = 0 then .v else .i)
  else if op.toNat < 0x200 then .c
  else if op.toNat < 0x280 then
    if op.toNat = 0x20F then .c
    else if (0x212 ≤ op.toNat ∧ op.toNat ≤ 0x214) ∨ (0x216 ≤ op.toNat ∧ op.toNat ≤ 0x219) then .x
    else .m
  else if op.toNat < 0x300 then .y
  else if op.toNat < 0x380 then .x
  else .z

theorem decodeWord_eq (w : BitVec 96) : decodeWord w = match formatOf (w.extractLsb' 86 10) with
    | .v => decodeV (.unpack w)
    | .i => decodeI (.unpack w)
    | .m => decodeM (.unpack w)
    | .x => decodeX (.unpack w)
    | .c => decodeC (.unpack w)
    | .y => decodeY (.unpack w)
    | .z => decodeZ (.unpack w) := by
  simp only [decodeWord, formatOf]
  split_ifs <;> rfl

theorem decodeWord_packV {f : FV} (h : formatOf f.op = .v) : decodeWord f.pack = decodeV f := by
  rw [decodeWord_eq, FV.op_pack, h, FV.unpack_pack]
theorem decodeWord_packI {f : FI} (h : formatOf f.op = .i) : decodeWord f.pack = decodeI f := by
  rw [decodeWord_eq, FI.op_pack, h, FI.unpack_pack]
theorem decodeWord_packM {f : FM} (h : formatOf f.op = .m) : decodeWord f.pack = decodeM f := by
  rw [decodeWord_eq, FM.op_pack, h, FM.unpack_pack]
theorem decodeWord_packX {f : FX} (h : formatOf f.op = .x) : decodeWord f.pack = decodeX f := by
  rw [decodeWord_eq, FX.op_pack, h, FX.unpack_pack]
theorem decodeWord_packC {f : FC} (h : formatOf f.op = .c) : decodeWord f.pack = decodeC f := by
  rw [decodeWord_eq, FC.op_pack, h, FC.unpack_pack]
theorem decodeWord_packY {f : FY} (h : formatOf f.op = .y) : decodeWord f.pack = decodeY f := by
  rw [decodeWord_eq, FY.op_pack, h, FY.unpack_pack]
theorem decodeWord_packZ {f : FZ} (h : formatOf f.op = .z) : decodeWord f.pack = decodeZ f := by
  rw [decodeWord_eq, FZ.op_pack, h, FZ.unpack_pack]

/-! ### From an instruction to its word and back -/

theorem encode_isSome (i : Instr) : (encode i).isSome = !i.isEvent := by cases i <;> rfl

/-- The opcode that the encoder writes selects the arm of the instruction; there every field decodes to what was encoded in it, an operand and a space because the instruction is well
formed. -/
theorem decodeWord_of_encode {i : Instr} {w : BitVec 96} (hw : i.wf = true) (he : encode i = some w) : decodeWord w = .ok i := by
  cases i
  all_goals try contradiction
  all_goals
    obtain rfl := Option.some.inj he
    clear he
    simp (disch := simp [formatOf]) only [decodeWord_packV, decodeWord_packI, decodeWord_packM, decodeWord_packX, decodeWord_packC, decodeWord_packY,
      decodeWord_packZ, decodeM, decodeX, decodeC, decodeY, decodeZ, BitVec.toNat_ofNat, Nat.reducePow, Nat.reduceMod]
    refine accept_eq_ok.2 ⟨?_, hw⟩
    delta Instr.wf at hw
    simp only [Bool.and_eq_true, Operand.ok_iff, SetF.eq_none_iff, Space.ne_host_iff] at hw
    simp (disch := decide) only [Option.bind_eq_bind, Option.pure_def, Option.bind_some, must_true, Bool.and_true, beq_self_eq_true, BitVec.ofNat_eq_ofNat,
      headOf_code, guardOf_code, ordScopeOf_code, acqRelOf_code, fenceOf_code, bitOf_ofBit, Ty.ofCode_code, CmpOp.ofCode_code, Combine.ofCode_code, Rnd.ofCode_code,
      VoteMode.ofCode_code, ShflMode.ofCode_code, RedOp.ofCode_code, Space.ofCode_code, AtomOp.ofCode_code, FeOp.ofCode_code, KvRows.ofCode_code,
      ObjKind.ofCode_code, ObjOp.ofCode_code, SredOp.ofCode_code, RowFmt.ofCode_code, TrapReg.ofCode_code, Width.ofCode_code, CacheP.ofCode_code,
      Scope.ofCode_code, extract_append_high, extract_append_low, extract_all, Nat.reduceSub, hw]

/-! ### From a word to its instruction and back -/

/-- What R54 says of a word that decodes: its instruction is one, is well formed, and has that word. -/
def IsWordOf (w : BitVec 96) (i : Instr) : Prop := i.isEvent = false ∧ i.wf = true ∧ encode i = some w

/-- The instruction that an arm of the decoder yields, if it yields one, has the word. -/
def Encodes (w : BitVec 96) (o : Option Instr) : Prop := ∀ i, o = some i → i.isEvent = false ∧ encode i = some w

theorem encodes_bind {α : Type} {w : BitVec 96} {o : Option α} {k : α → Option Instr} :
    Encodes w (o.bind k) ↔ ∀ a, o = some a → Encodes w (k a) := by
  simp only [Encodes, Option.bind_eq_some_iff]
  exact ⟨fun h a ha i hi => h i ⟨a, ha, hi⟩, fun h i ⟨a, ha, hi⟩ => h a ha i hi⟩

theorem encodes_some {w : BitVec 96} {i : Instr} : Encodes w (some i) ↔ i.isEvent = false ∧ encode i = some w := by
  simp [Encodes]

theorem Encodes.accepted {w : BitVec 96} {o : Option Instr} {i : Instr} (ho : Encodes w o) (h : accept o = .ok i) : IsWordOf w i := by
  obtain ⟨hi, hwf⟩ := accept_eq_ok.mp h
  obtain ⟨hev, he⟩ := ho i hi
  exact ⟨hev, hwf, he⟩

/-! In each format: an arm's conditions become equations of fields, and the word that the encoder writes has the same fields. Where a field holds several sub-fields, the two agree as
numbers. -/

theorem encodes_of_decodeV {f : FV} {i : Instr} (h : decodeV f = .ok i) : IsWordOf f.pack i := by
  unfold decodeV at h
  cases f
  split at h
  case h_72 => cases h
  all_goals
    refine Encodes.accepted ?_ h
    clear h
    simp only [Option.bind_eq_bind, Option.pure_def, encodes_bind, encodes_some, must_eq_some, headOf_eq_some, Ty.ofCode_eq_some, Rnd.ofCode_eq_some, CmpOp.ofCode_eq_some, Combine.ofCode_eq_some, VoteMode.ofCode_eq_some,
      ShflMode.ofCode_eq_some, RedOp.ofCode_eq_some, Bool.and_eq_true, beq_iff_eq, and_imp, forall_const]
    intros
    refine ⟨rfl, congrArg some (congrArg FV.pack ?_)⟩
    simp only [FV.mk.injEq, Operand.code_ofCode, and_true, true_and, ofBit_bitOf, toNat_append_eq, toNat_extract, *,
      ← BitVec.toNat_inj, BitVec.ofNat_eq_ofNat, BitVec.toNat_ofNat, Nat.reducePow, Nat.reduceMod] at *
    all_goals omega

theorem encodes_of_decodeI {f : FI} {i : Instr} (h : decodeI f = .ok i) : IsWordOf f.pack i := by
  unfold decodeI at h
  cases f
  split at h
  case h_41 => cases h
  all_goals
    refine Encodes.accepted ?_ h
    clear h
    simp only [Option.bind_eq_bind, Option.pure_def, encodes_bind, encodes_some, must_eq_some, headOf_eq_some, Ty.ofCode_eq_some, Rnd.ofCode_eq_some, CmpOp.ofCode_eq_some, ShflMode.ofCode_eq_some, Bool.and_eq_true, beq_iff_eq, and_imp, forall_const]
    intros
    refine ⟨rfl, congrArg some (congrArg FI.pack ?_)⟩
    simp only [FI.mk.injEq, Operand.code_ofCode, and_true, true_and, ofBit_bitOf, toNat_append_eq, toNat_extract, *,
      ← BitVec.toNat_inj, BitVec.ofNat_eq_ofNat, BitVec.toNat_ofNat, Nat.reducePow, Nat.reduceMod] at *
    all_goals omega

theorem encodes_of_decodeM {f : FM} {i : Instr} (h : decodeM f = .ok i) : IsWordOf f.pack i := by
  unfold decodeM at h
  cases f
  split at h
  case h_19 => cases h
  all_goals
    refine Encodes.accepted ?_ h
    clear h
    simp only [Option.bind_eq_bind, Option.pure_def, encodes_bind, encodes_some, must_eq_some, headOf_eq_some, ordScopeOf_eq_some, Width.ofCode_eq_some, CacheP.ofCode_eq_some, FeOp.ofCode_eq_some, Bool.and_eq_true, beq_iff_eq, and_imp, forall_const]
    intros
    refine ⟨rfl, congrArg some (congrArg FM.pack ?_)⟩
    simp only [FM.mk.injEq, Operand.code_ofCode, and_true, true_and, guardOf, ofBit_bitOf, toNat_append_eq, toNat_extract, *,
      ← BitVec.toNat_inj, BitVec.ofNat_eq_ofNat, BitVec.toNat_ofNat, Nat.reducePow, Nat.reduceMod] at *
    all_goals omega

theorem encodes_of_decodeX {f : FX} {i : Instr} (h : decodeX f = .ok i) : IsWordOf f.pack i := by
  unfold decodeX at h
  cases f
  split at h
  case h_22 => cases h
  all_goals
    refine Encodes.accepted ?_ h
    clear h
    simp only [Option.bind_eq_bind, Option.pure_def, encodes_bind, encodes_some, must_eq_some, headOf_eq_some, acqRelOf_eq_some, Space.ofCode_eq_some, KvRows.ofCode_eq_some, RowFmt.ofCode_eq_some, Bool.and_eq_true, beq_iff_eq, and_imp, forall_const]
    intros
    refine ⟨rfl, congrArg some (congrArg FX.pack ?_)⟩
    simp only [FX.mk.injEq, Operand.code_ofCode, and_true, true_and, guardOf, ofBit_bitOf, toNat_append_eq, toNat_extract, BitVec.toNat_setWidth, *,
      ← BitVec.toNat_inj, BitVec.ofNat_eq_ofNat, BitVec.toNat_ofNat, Nat.reducePow, Nat.reduceMod] at *
    all_goals omega

theorem encodes_of_decodeC {f : FC} {i : Instr} (h : decodeC f = .ok i) : IsWordOf f.pack i := by
  unfold decodeC at h
  cases f
  split at h
  case h_10 => cases h
  all_goals
    refine Encodes.accepted ?_ h
    clear h
    simp only [Option.bind_eq_bind, Option.pure_def, encodes_bind, encodes_some, must_eq_some, Bool.and_eq_true, beq_iff_eq, and_imp, forall_const]
    intros
    refine ⟨rfl, congrArg some (congrArg FC.pack ?_)⟩
    simp only [FC.mk.injEq, Operand.code_ofCode, and_true, guardOf, ofBit_bitOf, *,
      ← BitVec.toNat_inj, BitVec.ofNat_eq_ofNat, BitVec.toNat_ofNat, Nat.reducePow, Nat.reduceMod] at *

theorem encodes_of_decodeY {f : FY} {i : Instr} (h : decodeY f = .ok i) : IsWordOf f.pack i := by
  unfold decodeY at h
  cases f
  split at h
  case h_22 => cases h
  case' h_21 => split at h
  case h_3 => cases h
  all_goals
    refine Encodes.accepted ?_ h
    clear h
    simp only [Option.bind_eq_bind, Option.pure_def, encodes_bind, encodes_some, must_eq_some, headOf_eq_some, ordScopeOf_eq_some, Scope.ofCode_eq_some, Width.ofCode_eq_some, Space.ofCode_eq_some, AtomOp.ofCode_eq_some,
      ObjKind.ofCode_eq_some, ObjOp.ofCode_eq_some, SredOp.ofCode_eq_some, fenceOf_eq_some, Bool.and_eq_true, beq_iff_eq, and_imp, forall_const]
    intros
    refine ⟨rfl, congrArg some (congrArg FY.pack ?_)⟩
    simp only [FY.mk.injEq, Operand.code_ofCode, and_true, true_and, ofBit_bitOf, toNat_append_eq, toNat_extract, BitVec.toNat_setWidth, *,
      ← BitVec.toNat_inj, BitVec.ofNat_eq_ofNat, BitVec.toNat_ofNat, Nat.reducePow, Nat.reduceMod] at *
    all_goals omega

theorem encodes_of_decodeZ {f : FZ} {i : Instr} (h : decodeZ f = .ok i) : IsWordOf f.pack i := by
  unfold decodeZ at h
  cases f
  split at h
  case h_11 => cases h
  case' h_3 => split at h
  case h_4 => cases h
  all_goals
    refine Encodes.accepted ?_ h
    clear h
    simp only [Option.bind_eq_bind, Option.pure_def, encodes_bind, encodes_some, must_eq_some, headOf_eq_some, TrapReg.ofCode_eq_some, Bool.and_eq_true, beq_iff_eq, and_imp, forall_const]
    intros
    refine ⟨rfl, congrArg some (congrArg FZ.pack ?_)⟩
    simp only [FZ.mk.injEq, Operand.code_ofCode, and_true, true_and, toNat_append_eq, toNat_extract, *,
      ← BitVec.toNat_inj, BitVec.ofNat_eq_ofNat, BitVec.toNat_ofNat, Nat.reducePow, Nat.reduceMod] at *
    all_goals omega

/-- A word that decodes is the word of the instruction that it decodes to. -/
theorem isWordOf_of_decodeWord {w : BitVec 96} {i : Instr} (h : decodeWord w = .ok i) : IsWordOf w i := by
  rw [decodeWord_eq] at h
  cases hf : formatOf (w.extractLsb' 86 10) <;> rw [hf] at h
  case v => exact FV.pack_unpack w ▸ encodes_of_decodeV h
  case i => exact FI.pack_unpack w ▸ encodes_of_decodeI h
  case m => exact FM.pack_unpack w ▸ encodes_of_decodeM h
  case x => exact FX.pack_unpack w ▸ encodes_of_decodeX h
  case c => exact FC.pack_unpack w ▸ encodes_of_decodeC h
  case y => exact FY.pack_unpack w ▸ encodes_of_decodeY h
  case z => exact FZ.pack_unpack w ▸ encodes_of_decodeZ h

/-- The bytes of a word decode as the word (R37). -/
theorem decode_bytesOfWord (w : BitVec 96) : decode (bytesOfWord 12 w.toNat) = decodeWord w := by
  have hl : (bytesOfWord 12 w.toNat).length = 12 := Machine.length_bytesOfWord 12 _
  have hw : w.toNat % 256 ^ 12 = w.toNat := Nat.mod_eq_of_lt w.isLt
  rw [decode, if_pos hl.ge, List.take_of_length_le hl.le, Machine.wordOfBytes_bytesOfWord, hw, BitVec.ofNat_toNat, BitVec.setWidth_eq]

/-- Settles O58: from an instruction to its word and back, and from a word to its instruction and back, format by format. -/
theorem encodeDecode : Obligations.EncodeDecode := by
  unfold Obligations.EncodeDecode
  refine ⟨fun i hi => ?_, fun i w => decodeWord_of_encode, fun w i => isWordOf_of_decodeWord, decode_bytesOfWord⟩
  exact Option.isSome_iff_exists.1 (by rw [encode_isSome, hi]; rfl)

end Sys2Proof
end

section
/-! # Written-out words decode (O57) -/

namespace Sys2Proof

/-- Settles O57: the decoder runs on each of the words. -/
theorem tableWordsDecode : Obligations.TableWordsDecode := by
  unfold Obligations.TableWordsDecode
  exact ⟨by decide, by decide⟩

end Sys2Proof
end

section
/-! # A step runs the chosen instruction (O54)

What ISSUE_SELECTION has chosen still stands, so the step is the issue at the cursor's candidate; its line is the one it has
entered, or the one it enters now; and the issue stage's notes are what the statement calls `stepOf`. -/

namespace Sys2Proof.Machine

open Sys2Proof.Claims

variable {s t : State} {g : Group} {l : Line} {pc : Nat}

/-- The candidate that the cursor names. -/
def State.cand (s : State) : Cand := ⟨s.cur.g, s.cur.sl, s.cur.p⟩

/-! ### The path of an identifier -/

theorem path_id {pid : Nat} {p : Path} (h : g.path pid = some p) : p.id = pid := beq_iff_eq.mp (List.find?_some h :)

theorem path_mem {pid : Nat} {p : Path} (h : g.path pid = some p) : p ∈ g.paths := List.mem_of_find?_eq_some h

/-! ### What has been chosen stands -/

@[simp] theorem rank_c (g : Group) (c : Cand) : (g.rank c).c = c := by
  unfold Group.rank
  cases c.sl with
  | a => rfl
  | c => dsimp only; split <;> rfl

theorem chosen_running (h : Chosen s g pc) : s.cand ∈ s.running s.cur.g g := by
  unfold State.running
  rw [h.live]
  cases hs : s.cur.sl with
  | a =>
    obtain ⟨h0, hr, hi, -⟩ := h.pathA hs
    simp [State.cand, hs, h0, hr, hi]
  | c =>
    obtain ⟨p, hp, hr, -⟩ := h.pathC hs
    simp only [State.cand, hs, Bool.not_true, Bool.false_eq_true, if_false, List.mem_append, List.mem_map, List.mem_filter]
    exact .inr ⟨p, ⟨path_mem hp, by rw [hr]; rfl⟩, by rw [path_id hp]⟩

theorem chosen_stands (h : Chosen s g pc) : s.stands s.cand = true := by
  have hc : s.groups[s.cand.g]? = some g := h.here
  have hf : s.yields g s.cand = false := h.free
  unfold State.stands
  rw [hc]
  simp only [State.candsOf, List.any_map, List.any_eq_true, List.mem_filter, Function.comp, rank_c]
  exact ⟨s.cand, ⟨chosen_running h, by rw [hf]; rfl⟩, beq_self_eq_true _⟩

theorem chosen_pcOf (h : Chosen s g pc) : g.pcOf s.cand = pc := by
  unfold Group.pcOf
  cases hs : s.cur.sl with
  | a => simpa [State.cand, hs] using (h.pathA hs).2.2.2
  | c =>
    obtain ⟨p, hp, -, hpc⟩ := h.pathC hs
    simp [State.cand, hs, hp, hpc]

theorem chosen_run_eq (h : Chosen s g pc) : s.run = s.issueAt s.cand := by
  unfold State.run
  rw [if_pos (by rw [h.chosen]; exact chosen_stands h)]
  rfl

/-! ### What the issue stage notes -/

theorem waitsFrom_eq (s : State) (g : Group) : g.waitsFrom s.cand s.clock.toNat = waitsAnew s g := by
  unfold Group.waitsFrom waitsAnew State.cand
  cases s.cur.sl <;> rfl

theorem issued_eq (s : State) (g : Group) : g.issued s.cand s.clock.toNat = hasIssued s g := by
  unfold Group.issued hasIssued
  rw [waitsFrom_eq]
  cases hs : s.cur.sl with
  | a => simp [State.cand, hs]
  | c =>
    have hw : (waitsAnew s g).path s.cur.p = (g.path s.cur.p).map fun p => { p with since := s.clock.toNat } := by
      rw [← path_mapPath g s.cur.p (fun p => { p with since := s.clock.toNat }) fun _ => rfl]
      unfold waitsAnew
      rw [hs]
      rfl
    simp only [State.cand, hs, hw]
    cases g.path s.cur.p <;> rfl

theorem offered_eq (s : State) (id : Gid) (g : Group) : g.offered id s.cur.sl s.cur.p s.clock.toNat = hasSeen s id g := by
  unfold Group.offered hasSeen
  cases s.cur.sl <;> rfl

theorem ticked_noteIssue (s : State) (id : Gid) (o : Host.Outcome State Fault Refusal) :
    ticked (noteIssue s.cand id s.clock.toNat o) = stepOf s id o := by
  cases o with
  | next t =>
    have hi : (fun g : Group => g.issued s.cand s.clock.toNat) = hasIssued s := funext (issued_eq s)
    have hw : (fun g : Group => g.waitsFrom s.cand s.clock.toNat) = waitsAnew s := funext (waitsFrom_eq s)
    have ho : (fun g : Group => g.offered id s.cur.sl s.cur.p s.clock.toNat) = hasSeen s id := funext (offered_eq s id)
    unfold noteIssue stepOf
    dsimp only [State.cand] at hi hw ho ⊢
    rw [hi, hw, ho]
    by_cases hr : t.last = .retired
    · rw [if_pos hr]
      split
      · rfl
      · next h => exact absurd (h.symm.trans hr) (by decide)
      · next h _ => exact absurd hr h
    · rw [if_neg hr]
      by_cases hs : t.last = .stalled
      · rw [if_pos hs]
        split
        · next h => exact absurd h hr
        · rfl
        · next h => exact absurd hs h
      · rw [if_neg hs]
        split
        · next h => exact absurd h hr
        · next h => exact absurd h hs
        · rfl
  | fault f => rfl
  | refused r => rfl

/-- The step of what has been chosen is the slot of its line. -/
theorem step_slot (h : Chosen s g pc) (hl : s.lineFor g s.cand = .ok (l, t)) : step s = ticked (t.runSlot s.cand l pc) := by
  have hg : s.groups[s.cand.g]? = some g := h.here
  have hd : (s.timerDue g || (g.held && !g.inh)) = false := by
    rw [h.due]
    obtain hh | hi := h.held
    · rw [hh]; rfl
    · rw [hi]; simp
  unfold step
  rw [chosen_run_eq h]
  unfold State.issueAt
  simp only [hg, hd, hl, chosen_pcOf h, Bool.false_eq_true, if_false]

/-! ### The slot of a line, alone or as a pair -/

theorem runSlot_aimed (hg : t.groups[t.cur.g]? = some g) : t.runSlot t.cand l pc =
    noteIssue t.cand g.gid t.clock.toNat (if l.pair (pc % 64 / 12) then (aimed t l pc).runPair g (l.words.getD (pc % 64 / 12 + 1) 0) else (aimed t l pc).runOne) := by
  unfold State.runSlot
  simp only [show t.cand.g = t.cur.g from rfl, hg]
  rfl

@[simp] theorem lastOf_next (t : State) : lastOf (.next t) = t.last := rfl

theorem runOne_decoded {i : Instr} (h : decodeWord s.cur.word = .ok i) : s.runOne = exec i s := by
  unfold State.runOne
  rw [h]

theorem runOne_rejected {r : Reject} (h : decodeWord s.cur.word = .error r) : s.runOne = .next (s.stop (.fault { code := rejectCode r }) none) := by
  unfold State.runOne
  rw [h]

/-- A pair without a decode fault, whose first slot has a next state (R50, R51). -/
theorem runPair_next {i j : Instr} {w : BitVec 96} (hf : s.pairFault g s.cur.word w = none) (hi : decodeWord s.cur.word = .ok i) (hj : decodeWord w = .ok j)
    (ht : exec i s = .next t) : s.runPair g w = if t.last ≠ .retired then .next t
      else if lastOf (exec j (s.trial g i w)) ≠ .retired then exec j (s.trial g i w) else runSecond g w j (.next t) := by
  unfold State.runPair
  rw [hf]
  simp only [hi, hj, ht]
  rfl

/-! ### The line of the candidate (R46) -/

theorem latched_some (h : l.addr = pc / 64 * 64) : latched (some l) pc = some l := by simp [latched, h]

theorem lineFor_latched (h : Chosen s g pc) (ha : l.addr = pc / 64 * 64) (hc : s.cur.sl = .c → ∀ p, g.path s.cur.p = some p → p.line = some l)
    (hA : s.cur.sl = .a → g.aline = some l) : s.lineFor g s.cand = .ok (l, s) := by
  have : g.lineOf s.cand = some l := by
    unfold Group.lineOf
    cases hs : s.cur.sl with
    | a =>
      obtain ⟨-, -, -, hpc⟩ := h.pathA hs
      simp [State.cand, hs, hA hs, hpc, latched_some ha]
    | c =>
      obtain ⟨p, hp, -, hpc⟩ := h.pathC hs
      simp [State.cand, hs, hp, hc hs p hp, hpc, latched_some ha]
  unfold State.lineFor
  rw [this]

theorem lineFor_enters (h : Chosen s g pc) (hc : s.cur.sl = .c → ∀ p, g.path s.cur.p = some p → p.line = none) (hA : s.cur.sl = .a → g.aline = none)
    (he : s.enterLine g s.cur.sl pc = .ok l) : s.lineFor g s.cand = .ok (l, (s.setG s.cur.g (g.latch s.cand l)).noteTlb g.gid.cluster g.slot l.addr) := by
  have : g.lineOf s.cand = none := by
    unfold Group.lineOf
    cases hs : s.cur.sl with
    | a => simp [State.cand, hs, hA hs, latched]
    | c =>
      obtain ⟨p, hp, -, -⟩ := h.pathC hs
      simp [State.cand, hs, hp, hc hs p hp, latched]
  unfold State.lineFor
  rw [this, chosen_pcOf h, show s.cand.sl = s.cur.sl from rfl, he]
  rfl

/-- A fetched line that nothing holds back is entered (R46). -/
theorem enterLine_ok {sl : Slice} {bs : List Byte} (hb : s.lineBytesAt g.gid.cluster g.slot (pc / 64 * 64) = .ok bs)
    (hp : (Line.ofBytes (pc / 64 * 64) bs).parityOk bs = true) (hbad : badLine (Line.ofBytes (pc / 64 * 64) bs) sl = false)
    (hpair : 0 < pc % 64 / 12 → (Line.ofBytes (pc / 64 * 64) bs).pair (pc % 64 / 12 - 1) = false)
    (hw : ∀ f < 12, (Line.ofBytes (pc / 64 * 64) bs).wait f = true → g.flags.getD f 0 = 0) :
    s.enterLine g sl pc = .ok (Line.ofBytes (pc / 64 * 64) bs) := by
  have hnone : g.lineWait (Line.ofBytes (pc / 64 * 64) bs) = none := by
    have : ((List.range 12).filter fun f => (Line.ofBytes (pc / 64 * 64) bs).wait f && g.flags.getD f 0 != 0) = [] :=
      List.filter_eq_nil_iff.mpr fun f hf => by
        have := hw f (List.mem_range.mp hf)
        simp_all
    unfold Group.lineWait
    rw [this]
    rfl
  have hmid : ¬ (0 < pc % 64 / 12 ∧ (Line.ofBytes (pc / 64 * 64) bs).pair (pc % 64 / 12 - 1) = true) := fun ⟨h0, hq⟩ => by
    rw [hpair h0] at hq
    cases hq
  unfold State.enterLine
  simp only [hb, hp, hbad, hnone, if_neg hmid, Bool.not_true, Bool.false_eq_true, if_false]

/-- The word of a slot is its twelve bytes (R37). -/
theorem decodeWord_ofBytes {a k : Nat} {bs : List Byte} {i : Instr} (hk : k < 5) (h : decode ((bs.drop (12 * k)).take 12) = .ok i) :
    decodeWord ((Line.ofBytes a bs).words.getD k 0) = .ok i := by
  unfold decode at h
  split at h
  · simpa [Line.ofBytes, hk, List.take_take] using h
  · cases h

/-! ### The step -/

/-- What the issue of a line's only slot does, once the line has been found in `t`. -/
theorem step_single {gt : Group} {i : Instr} (h : Chosen s g pc) (hl : s.lineFor g s.cand = .ok (l, t)) (hcur : t.cur = s.cur) (hnow : t.clock = s.clock)
    (hg : t.groups[t.cur.g]? = some gt) (hid : gt.gid = g.gid) (hp : l.pair (pc % 64 / 12) = false) (hi : decodeWord (l.words.getD (pc % 64 / 12) 0) = .ok i) :
    step s = stepOf s g.gid (exec i (aimed t l pc)) := by
  have hc : s.cand = t.cand := by unfold State.cand; rw [hcur]
  rw [step_slot h hl, hc, runSlot_aimed hg, hp, if_neg Bool.false_ne_true, runOne_decoded (s := aimed t l pc) hi, ← hc, hid, hnow, ticked_noteIssue]

theorem step_latched {i : Instr} (h : Chosen s g pc) (ha : l.addr = pc / 64 * 64) (hp : l.pair (pc % 64 / 12) = false)
    (hc : s.cur.sl = .c → ∀ p, g.path s.cur.p = some p → p.line = some l) (hA : s.cur.sl = .a → g.aline = some l)
    (hi : decodeWord (l.words.getD (pc % 64 / 12) 0) = .ok i) : step s = stepOf s g.gid (exec i (aimed s l pc)) :=
  step_single h (lineFor_latched h ha hc hA) rfl rfl h.here rfl hp hi

theorem slot_lt (h : slotOk pc = true) : pc % 64 / 12 < 5 := by
  have : pc % 64 ∈ [0, 12, 24, 36, 48] := of_decide_eq_true h
  simp only [List.mem_cons, List.not_mem_nil, or_false] at this
  omega

theorem latch_gid (g : Group) (c : Cand) (l : Line) : (g.latch c l).gid = g.gid := by
  unfold Group.latch
  cases c.sl <;> rfl

theorem step_enters {i : Instr} (h : Chosen s g pc)
    (hc : s.cur.sl = .c → ∀ p, g.path s.cur.p = some p → p.line = none) (hA : s.cur.sl = .a → g.aline = none)
    (he : s.enterLine g s.cur.sl pc = .ok l) (hp : l.pair (pc % 64 / 12) = false) (hi : decodeWord (l.words.getD (pc % 64 / 12) 0) = .ok i) :
    ∃ tl, step s = stepOf s g.gid (exec i (aimed { s with groups := s.groups.set s.cur.g (g.latch s.cand l), tlbs := tl } l pc)) := by
  have hlt : s.cur.g < s.groups.length := (List.getElem?_eq_some_iff.mp h.here).1
  have hl := lineFor_enters h hc hA he
  rw [State.noteTlb_frame] at hl
  exact ⟨_, step_single h hl rfl rfl (gt := g.latch s.cand l) (List.getElem?_set_self hlt) (latch_gid _ _ _) hp hi⟩

theorem latch_eq (s : State) (g : Group) (l : Line) : g.latch s.cand l = match s.cur.sl with
    | .a => { g with aline := some l }
    | .c => Safety.Group.withPath g s.cur.p fun p => { p with line := some l } := by
  unfold Group.latch Safety.Group.withPath Group.mapPath
  simp only [State.cand, beq_iff_eq] <;> cases s.cur.sl <;> rfl

/-- The step at the first slot of a pair. -/
theorem step_pair {p : Path} (h : Chosen s g p.pc) (hs : s.cur.sl = .c) (hp : g.path s.cur.p = some p) (hl : p.line = some l) (ha : l.addr = p.pc / 64 * 64)
    (hk : l.pair (p.pc % 64 / 12) = true) : step s = stepOf s g.gid ((aimed s l p.pc).runPair g (l.words.getD (p.pc % 64 / 12 + 1) 0)) := by
  have hline : s.lineFor g s.cand = .ok (l, s) := lineFor_latched h ha (fun _ q hq => by rw [hp] at hq; cases hq; exact hl) fun hA => by rw [hs] at hA; cases hA
  rw [step_slot h hline, runSlot_aimed h.here, hk, if_pos rfl, ticked_noteIssue]

theorem stop_fault_last (f : FaultInfo) (q : Option Nat) (hs : s.cur.sl = .c) : (s.stop (.fault f) q).last = .faulted f.code := by
  unfold State.stop
  simp only [hs]
  rfl

theorem noteIssue_other {c : Cand} {id : Gid} {now : Nat} (hr : t.last ≠ .retired) (hs : t.last ≠ .stalled) : noteIssue c id now (.next t) = .next t := by
  unfold noteIssue
  simp only [if_neg hr, if_neg hs]

/-- A word that does not decode is a fault, which the step reports (R52, R53). -/
theorem step_rejected {p : Path} {r : Reject} (h : Chosen s g p.pc) (hs : s.cur.sl = .c) (hp : g.path s.cur.p = some p) (hl : p.line = some l)
    (ha : l.addr = p.pc / 64 * 64) (hk : l.pair (p.pc % 64 / 12) = false) (hr : decodeWord (l.words.getD (p.pc % 64 / 12) 0) = .error r) :
    ∃ t, step s = .next t ∧ t.last = .faulted (rejectCode r) := by
  have hline : s.lineFor g s.cand = .ok (l, s) := lineFor_latched h ha (fun _ q hq => by rw [hp] at hq; cases hq; exact hl) fun hA => by rw [hs] at hA; cases hA
  have hlast : ((aimed s l p.pc).stop (.fault { code := rejectCode r }) none).last = .faulted (rejectCode r) := stop_fault_last _ none hs
  rw [step_slot h hline, runSlot_aimed h.here, hk, if_neg Bool.false_ne_true, runOne_rejected (s := aimed s l p.pc) hr]
  refine ⟨((aimed s l p.pc).stop (.fault { code := rejectCode r }) none).tick, ?_, hlast⟩
  rw [noteIssue_other (by rw [hlast]; exact nofun) (by rw [hlast]; exact nofun)]
  rfl

theorem step_agenda {e : Instr} {r : List Instr} (hc : s.cur.chosen = false) (ha : s.agenda = e :: r) (he : e.isEvent = true) :
    step s = ticked (exec e { s with agenda := r }) := by
  unfold step State.run
  simp only [hc, ha, he, Bool.false_and, Bool.false_eq_true, if_false, if_true]

/-- Settles O54: what has been chosen stands, so the step is the issue of the slot of its line. -/
theorem stepRunsDecoded : Obligations.StepRunsDecoded := by
  unfold Obligations.StepRunsDecoded
  refine ⟨fun s g pc l i h ha hp hc hA hi => step_latched h ha hp hc hA hi, ?_, ?_, ?_, ?_⟩
  · intro s g pc bs i h hok hc hA hb l k hpar hbad hpair hwait hone hi
    obtain ⟨tl, ht⟩ := step_enters h hc hA (enterLine_ok hb hpar hbad hpair hwait) hone (decodeWord_ofBytes (slot_lt hok) hi)
    refine ⟨tl, ?_⟩
    intro gt
    have hgt : g.latch s.cand l = gt := latch_eq s g l
    rw [ht, hgt]
  · intro s g p l i j t h hs hp hl ha k a w hk hi hj hf hx
    have hw : a.cur.word = l.words.getD k 0 := rfl
    have hstep : step s = stepOf s g.gid (a.runPair g w) := step_pair h hs hp hl ha hk
    rw [runPair_next (hw ▸ hf) (hw ▸ hi) hj hx] at hstep
    refine ⟨fun hn => by rw [hstep, if_pos hn], fun u ht hu => ?_⟩
    rw [if_neg (not_not.mpr ht), hu, lastOf_next] at hstep
    refine ⟨fun hn => by rw [hstep, if_pos hn], fun hr v hv => ?_⟩
    rw [hstep, if_neg (not_not.mpr hr)]
    unfold runSecond
    simp only [hv]
  · intro s g p l r h hs hp hl ha hk hr _
    obtain ⟨t, ht, hlast⟩ := step_rejected h hs hp hl ha hk hr
    exact ⟨t, ht, by rw [hlast]; cases r <;> rfl⟩
  · intro s e r hc ha he
    rw [step_agenda hc ha he]
    cases exec e { s with agenda := r } <;> rfl

end Sys2Proof.Machine
end

section
/-! # Instructions that only pass, and YIELD (O19)

An effect that leaves its state as it finds it retires as `Passed` says; an effect on its group alone does so but for that effect. -/

namespace Sys2Proof.Machine

open Sys2Proof.Claims Sys2Proof.Safety

variable {i : Instr} {s : State} {g h : Group}

theorem mapG_self (s : State) (k : Nat) : s.mapG k (fun g => g) = s := by
  unfold State.mapG
  rw [show (fun g : Group => g) = id from rfl, List.modify_id]

/-- The group of an instruction with no effect of its own, once it has retired. -/
theorem passed_retire (st : Started i s g h) (n : Nat) : Passed i s g (h.retire s.cur.sl false n) := by
  obtain ⟨x, z, hr⟩ := retire_eq h s.cur.sl n
  refine ⟨keepsRest_of st (show OnlyRegs h h from rfl) rfl (fun _ => rfl) n, ?_, ?_, ?_, ?_⟩
  · rw [hr, st.rest]
  · rw [hr, st.rest]
  · rw [hr]
    show h.paths.map _ = _
    rw [st.paths]
    split
    · rw [List.map_map]
      refine List.map_congr_left fun p _ => ?_
      dsimp only [Function.comp]
      split <;> rfl
    · rfl
  · rw [hr, st.rest]

/-- An effect that changes its group alone, by `F`. -/
theorem issue_mapG (hi : Issues i s g) {body : Env → State → Except Stop State} {F : Group → Group}
    (hb : ∀ h, body (envOf i s g) (s.setG s.cur.g h) = .ok ((s.setG s.cur.g h).mapG s.cur.g F)) : ∃ h, Started i s g h ∧
      issue i body s = .next (Becomes s ((F h).retire s.cur.sl false (i.laneFlops * (envOf i s g).active.length))) := by
  obtain ⟨h, h1, -⟩ := prepare_ok hi
  have : issue i body s = issue i (groupBody fun _ => F) s := by
    unfold issue
    rw [hi.here]
    simp only [h1, hb]
    rfl
  rw [this]
  exact issue_group hi fun _ => F

/-- An instruction whose effect leaves every state as it is passes. -/
theorem passes_of_body (hi : Issues i s g) {body : Env → State → Except Stop State} (hx : exec i s = issue i body s)
    (hb : ∀ t, body (envOf i s g) t = .ok t) : Passes i s g := by
  obtain ⟨h, st, hn⟩ := issue_mapG (F := fun g => g) hi fun h => by rw [mapG_self]; exact hb _
  exact ⟨_, passed_retire st _, hx.trans hn⟩

/-- An instruction whose effect is guarded passes where its guard is false (R39, R58). -/
theorem passes_of_whenGuard (hi : Issues i s g) (hg : (envOf i s g).uguard = false) {body : Env → State → Except Stop State}
    (hx : exec i s = issue i (whenGuard body) s) : Passes i s g :=
  passes_of_body hi hx fun t => by rw [whenGuard, hg]; rfl

/-- An effect `F` on the group that retirement does not look at. -/
theorem leaves_of_body (hi : Issues i s g) {body : Env → State → Except Stop State} {F : Group → Group} (hx : exec i s = issue i body s)
    (hb : ∀ h, body (envOf i s g) (s.setG s.cur.g h) = .ok ((s.setG s.cur.g h).mapG s.cur.g F))
    (hF : ∀ h n, (F h).retire s.cur.sl false n = F (h.retire s.cur.sl false n)) : Leaves i s g F := by
  obtain ⟨h, st, hn⟩ := issue_mapG hi hb
  rw [hF] at hn
  exact ⟨_, passed_retire st _, hx.trans hn⟩

/-! ### NOP and PREF (R55, R93) -/

theorem nop_passes (hi : Issues .nop s g) : Passes .nop s g := passes_of_body (body := nopBody) hi rfl fun _ => rfl

theorem pref_passes {hd : Head} {cp : CacheP} {a : Operand} {off : BitVec 21} (hi : Issues (.pref hd cp a off) s g) : Passes (.pref hd cp a off) s g :=
  passes_of_body (body := nopBody) hi rfl fun _ => rfl

/-! ### YIELD (R165) -/

theorem envOf_path_id (hs : s.cur.sl = .c) (hi : Issues i s g) : (envOf i s g).p.id = s.cur.p := by
  obtain ⟨p, hp⟩ := hi.path hs
  show (g.curPath s.cur).id = s.cur.p
  unfold Group.curPath
  simp only [hs, hp]
  exact path_id hp

theorem withPath_eq (g : Group) (pid : Nat) (f : Path → Path) : Group.withPath g pid f = g.mapPath pid f := by
  unfold Group.withPath Group.mapPath
  simp only [beq_iff_eq]

theorem yield_leaves_path {gd : Guard} (hi : Issues (.yield gd) s g) (hg : (envOf (.yield gd) s g).uguard = true) (hs : s.cur.sl = .c) :
    Leaves (.yield gd) s g fun k => Group.withPath k s.cur.p fun q => { q with yield := s.clock.toNat + 64, passed := [] } := by
  refine leaves_of_body (body := yieldBody) hi rfl (fun h => ?_) fun h n => by rw [hs]; rfl
  unfold yieldBody
  simp only [hg, if_true, withPath_eq, envOf_path_id hs hi]
  rw [show (envOf (.yield gd) s g).sl = .c from hs]
  rfl

theorem yield_leaves_aslice {gd : Guard} (hi : Issues (.yield gd) s g) (hg : (envOf (.yield gd) s g).uguard = true) (hs : s.cur.sl = .a) :
    Leaves (.yield gd) s g fun k => { k with ayield := s.clock.toNat + 64, apassed := [] } := by
  refine leaves_of_body (body := yieldBody) hi rfl (fun h => ?_) fun h n => by rw [hs]; rfl
  unfold yieldBody
  simp only [hg, if_true]
  rw [show (envOf (.yield gd) s g).sl = .a from hs]
  rfl

/-! ### A false guard (R39, R58) -/

theorem recon_passes {gd : Guard} {tok : BitVec 6} (hi : Issues (.recon gd tok) s g) (hg : (envOf (.recon gd tok) s g).uguard = false) :
    Passes (.recon gd tok) s g := by
  refine passes_of_body (body := reconBody tok) hi rfl fun t => ?_
  unfold reconBody
  cases (envOf (.recon gd tok) s g).sl with
  | a => rfl
  | c => simp only [hg, Bool.false_eq_true, if_false]

theorem yield_passes {gd : Guard} (hi : Issues (.yield gd) s g) (hg : (envOf (.yield gd) s g).uguard = false) : Passes (.yield gd) s g :=
  passes_of_body (body := yieldBody) hi rfl fun t => by simp only [yieldBody, hg, Bool.false_eq_true, if_false]

/-- Settles O19: the effect leaves the state as it is, or changes only when YIELD's hold ends. -/
theorem hintsAndFalseGuards : Obligations.HintsAndFalseGuards := by
  unfold Obligations.HintsAndFalseGuards
  refine ⟨fun s g gd hd cp a off => ⟨nop_passes, pref_passes, fun hi hg => ⟨yield_leaves_path hi hg, yield_leaves_aslice hi hg⟩⟩, fun s g i hi hg hform => ?_⟩
  split at hform
  · exact recon_passes hi hg
  · exact yield_passes hi hg
  · exact passes_of_whenGuard hi hg rfl
  · exact passes_of_whenGuard hi hg rfl
  · exact passes_of_whenGuard hi hg rfl
  · exact passes_of_whenGuard hi hg rfl
  · exact passes_of_whenGuard hi hg rfl
  · exact hform.elim

end Sys2Proof.Machine
end

section
/-! # The bytes of a line, its parity, and NOP (O55)

A bit of a little-endian number is a bit of one of its bytes; the ones of some bytes are counted byte by byte; and of the words with NOP's opcode the decoder takes
one. -/

namespace Sys2Proof

open Sys2Proof.Claims

/-! ### The bits of a word (R37, R44) -/

theorem testBit_wordOfBytes (bs : List Byte) (b : Nat) : (wordOfBytes bs).testBit b = (bs.getD (b / 8) 0).getLsbD (b % 8) := by
  induction bs generalizing b with
  | nil => simp [wordOfBytes]
  | cons x xs ih =>
    rw [wordOfBytes, Nat.add_comm, show (256 : Nat) = 2 ^ 8 from rfl, Nat.testBit_two_pow_mul_add _ x.isLt]
    split
    · next h => rw [Nat.div_eq_of_lt h, Nat.mod_eq_of_lt h]; rfl
    · next h =>
      obtain ⟨c, rfl⟩ := Nat.exists_eq_add_of_le (not_lt.mp h)
      rw [ih, Nat.add_sub_cancel_left, Nat.add_mod_left, Nat.add_div_left c (by decide : 0 < 8), List.getD_cons_succ]

/-- A bit of the number that stands at an offset (R37). -/
theorem getLsbD_ofBytes {w n o b : Nat} (bs : List Byte) (hb : b < w) (hn : b / 8 < n) :
    (BitVec.ofNat w (wordOfBytes ((bs.drop o).take n))).getLsbD b = (bs.getD (o + b / 8) 0).getLsbD (b % 8) := by
  rw [BitVec.getLsbD_ofNat, testBit_wordOfBytes]
  simp [hb, hn, List.getD_eq_getElem?_getD, List.getElem?_drop]

theorem ofBytes_words (a : Nat) (bs : List Byte) {k b : Nat} (hk : k < 5) (hb : b < 96) :
    ((Line.ofBytes a bs).words.getD k 0).getLsbD b = (bs.getD (12 * k + b / 8) 0).getLsbD (b % 8) := by
  rw [← getLsbD_ofBytes (n := 12) bs hb (by omega)]
  simp [Line.ofBytes, hk]

theorem ofBytes_lw (a : Nat) (bs : List Byte) {b : Nat} (hb : b < 32) : (Line.ofBytes a bs).lw.getLsbD b = (bs.getD (60 + b / 8) 0).getLsbD (b % 8) :=
  getLsbD_ofBytes bs hb (by omega)

/-! ### Parity (R45) -/

theorem ones_eq (x : Byte) : ((List.range 8).filter fun i => x.getLsbD i).length = Byte.ones x := by revert x; decide

theorem onesIn_cons (x : Byte) (bs : List Byte) : onesIn (x :: bs) = Byte.ones x + onesIn bs := by
  have first : (List.range 8).filter (fun i => ((x :: bs).getD (i / 8) 0).getLsbD (i % 8)) = (List.range 8).filter fun i => x.getLsbD i :=
    List.filter_congr fun i hi => by rw [Nat.div_eq_of_lt (List.mem_range.mp hi), Nat.mod_eq_of_lt (List.mem_range.mp hi)]; rfl
  have rest : ((fun i => ((x :: bs).getD (i / 8) 0).getLsbD (i % 8)) ∘ fun i => 8 + i) = fun i => (bs.getD (i / 8) 0).getLsbD (i % 8) := by
    funext i
    dsimp only [Function.comp]
    rw [Nat.add_mod_left, Nat.add_div_left i (by decide : 0 < 8), List.getD_cons_succ]
  unfold onesIn
  rw [List.length_cons, Nat.mul_succ, Nat.add_comm, List.range_add, List.filter_append, List.length_append, List.filter_map, List.length_map, first, rest, ones_eq]

theorem foldl_ones (bs : List Byte) (n : Nat) : bs.foldl (fun n b => n + Byte.ones b) n = n + onesIn bs := by
  induction bs generalizing n with
  | nil => rfl
  | cons x xs ih => rw [List.foldl_cons, ih, onesIn_cons, Nat.add_assoc]

/-- A parity bit is correct when it makes the number of ones even (R45). -/
theorem parityBit_iff (p : Bool) (bs : List Byte) : (p == parityBit bs) = true ↔ (onesIn bs + p.toNat) % 2 = 0 := by
  unfold parityBit
  rw [foldl_ones, Nat.zero_add]
  cases p with
  | false => simp
  | true => simp; omega

theorem parityOk_iff (l : Line) (bs : List Byte) : l.parityOk bs = true ↔
    (onesIn (bs.take 30) + l.parlo.toNat) % 2 = 0 ∧ (onesIn ((bs.drop 30).take 30) + l.parhi.toNat) % 2 = 0 := by
  unfold Line.parityOk
  rw [Bool.and_eq_true, parityBit_iff, parityBit_iff]

/-! ### The words of NOP's opcode (R55) -/

theorem decodeC_nopCode {f : FC} (h : f.op = 0x186) : decodeC f = if f = { op := 0x186 } then .ok .nop else .error .illegalEncoding := by
  obtain ⟨op, gp, gn, dst, a, b, c, res, rtok, disp⟩ := f
  obtain rfl : op = 0x186 := h
  show accept (do must (gp == 0 && gn == 0 && dst == 0 && a == 0 && b == 0 && c == 0 && res == 0 && rtok == 0 && disp == 0); return .nop) = _
  split
  · next he => cases he; rfl
  · next hne =>
    have : (gp == 0 && gn == 0 && dst == 0 && a == 0 && b == 0 && c == 0 && res == 0 && rtok == 0 && disp == 0) = false := by
      rw [Bool.eq_false_iff]
      intro hz
      simp only [Bool.and_eq_true, beq_iff_eq] at hz
      obtain ⟨⟨⟨⟨⟨⟨⟨⟨rfl, rfl⟩, rfl⟩, rfl⟩, rfl⟩, rfl⟩, rfl⟩, rfl⟩, rfl⟩ := hz
      exact hne rfl
    rw [this]
    rfl

theorem decodeWord_nopCode {w : BitVec 96} (h : w.extractLsb' 86 10 = 0x186) :
    decodeWord w = if w = 0x186 <<< 86 then .ok .nop else .error .illegalEncoding := by
  have hw : (FC.unpack w = { op := 0x186 }) ↔ w = 0x186 <<< 86 := by
    constructor
    · intro he
      rw [← FC.pack_unpack w, he]
      decide
    · rintro rfl
      decide
  rw [decodeWord_eq, h]
  show decodeC (FC.unpack w) = _
  rw [decodeC_nopCode h]
  simp only [hw]

end Sys2Proof

namespace Sys2Proof.Machine

open Sys2Proof.Claims

/-- Settles O55, by the bits of a little-endian number, the decoder's one arm for NOP's opcode, and the fault of a word that does not decode. -/
theorem bytesOfALine : Obligations.BytesOfALine := by
  unfold Obligations.BytesOfALine
  refine ⟨fun a bs _ => ⟨fun k hk b hb => ofBytes_words a bs hk hb, fun b hb => ofBytes_lw a bs hb, parityOk_iff _ bs⟩, fun w hw => decodeWord_nopCode hw,
    fun s g hi => ⟨nop_passes hi, fun h hp => hp.keeps.retired⟩, ?_⟩
  intro s g p l hc hs hp hl ha hk _ hop hne
  refine step_rejected (r := .illegalEncoding) hc hs hp hl ha hk ?_
  rw [decodeWord_nopCode hop, if_neg hne]

end Sys2Proof.Machine
end

section
/-! # What a source operand reads (O53)

A register, a popped entry or a special register is read as it stands. An integer constant in a floating-point source is rounded: that the bits which the model gives
lie on the format's grid, within half a step of the integer, is evaluated, and such a point is the one that R113 takes. -/

namespace Sys2Proof.Machine

open Sys2Proof.Claims Sys2Proof.Safety

/-! ### Registers, popped entries and lanes (R20, R24, R58) -/

theorem join_low (lo hi : Word) : ((join lo hi).setWidth 32).setWidth 64 = lo.setWidth 64 := by
  rw [join, BitVec.setWidth_append_eq_right]

theorem setWidth_low {x : DWord} {w : Word} (h : x = w.setWidth 64) : (x.setWidth 32).setWidth 64 = w.setWidth 64 := by
  subst h
  simp

theorem rd_v (e : Env) (n : BitVec 8) (l : Nat) : e.rd (.v n) true l = e.g.vlane (n.toNat + 1) l ++ e.g.vlane n.toNat l ∧
    e.rd (.v n) false l = (e.g.vlane n.toNat l).setWidth 64 := ⟨rfl, join_low _ _⟩

theorem rd_s (e : Env) (n : BitVec 6) (l : Nat) : e.rd (.s n) true l = e.g.sreg (n.toNat + 1) ++ e.g.sreg n.toNat ∧
    e.rd (.s n) false l = (e.g.sreg n.toNat).setWidth 64 := ⟨rfl, join_low _ _⟩

theorem low_ofNat (n : Nat) : ((BitVec.ofNat 64 n).setWidth 32).setWidth 64 = BitVec.ofNat 64 (n % 2 ^ 32) := by
  apply BitVec.eq_of_toNat_eq
  simp only [BitVec.toNat_setWidth, BitVec.toNat_ofNat]
  omega

theorem find_popped {ps : List (Nat × LaneVec)} {p : Nat × LaneVec} (hp : p ∈ ps) (hd : (ps.map (·.1)).Nodup) : ps.find? (·.1 == p.1) = some p := by
  induction ps with
  | nil => cases hp
  | cons x xs ih =>
    simp only [List.map_cons, List.nodup_cons] at hd
    rcases List.mem_cons.mp hp with rfl | hx
    · simp
    · have : x.1 ≠ p.1 := fun h => hd.1 (h ▸ List.mem_map_of_mem hx)
      simp [this, ih hx hd.2]

theorem lowLane_lowest {m : Mask} (h : ∃ i < 32, m.getLsbD i = true) : lowLane m < 32 ∧ m.getLsbD (lowLane m) = true ∧ ∀ i < lowLane m, m.getLsbD i = false := by
  unfold lowLane
  cases hf : lanes.find? fun l => m.getLsbD l with
  | none =>
    obtain ⟨i, hi, hb⟩ := h
    exact absurd hb (by simpa using List.find?_eq_none.mp hf i (List.mem_range.mpr hi))
  | some k =>
    obtain ⟨hk, hlt, hmin⟩ := List.find?_range_eq_some.mp hf
    exact ⟨List.mem_range.mp hlt, hk, fun i hi => by simpa using hmin i hi⟩

theorem rd_popped {e : Env} {q : BitVec 2} {v : LaneVec} (l : Nat) (h : (q.toNat, v) ∈ e.pops) (hd : (e.pops.map (·.1)).Nodup) :
    e.rd (.q q) false l = (v.getD l 0).setWidth 64 := by
  unfold Env.rd
  simp only [find_popped h hd]
  exact setWidth_low rfl

theorem isActive_iff (e : Env) (l : Nat) : e.isActive l = true ↔ (e.p.exec.getLsbD l = true ∧ e.g.pred e.gd.p.toNat l = !e.gd.neg) := by
  unfold Env.isActive Group.guardAt
  rw [Bool.and_eq_true]
  cases e.g.pred e.gd.p.toNat l <;> cases e.gd.neg <;> simp

/-! ### The neighbour that rounds to nearest takes (R113) -/

/-- Of the multiples of `U`, the one within half a step is the nearest, and another is as near on a tie only. -/
theorem multiple_nearest {U X : ℝ} {m : ℤ} (hU : 0 < U) (h : 2 * |m * U - X| ≤ U) (k : ℤ) :
    |m * U - X| ≤ |k * U - X| ∧ (k ≠ m → |k * U - X| = |m * U - X| → 2 * |m * U - X| = U) := by
  by_cases hk : k = m
  · subst hk
    exact ⟨le_rfl, fun h => absurd rfl h⟩
  · have hone : (1 : ℝ) ≤ |((k - m : ℤ) : ℝ)| := by
      rw [← Int.cast_abs]
      exact_mod_cast Int.one_le_abs (sub_ne_zero.mpr hk)
    have hstep : U ≤ |k * U - X| + |m * U - X| := by
      calc U ≤ |((k - m : ℤ) : ℝ)| * U := le_mul_of_one_le_left hU.le hone
        _ = |(k * U - X) - (m * U - X)| := by rw [← abs_of_pos hU, ← abs_mul, abs_of_pos hU]; push_cast; ring_nf
        _ ≤ |k * U - X| + |m * U - X| := abs_sub _ _
    exact ⟨by linarith, fun _ he => by linarith⟩

/-- A point of the grid lies at most at `2^e`, or is a multiple of the spacing above it. -/
theorem onGrid_cases {f : Fmt} {z : ℝ} (h : OnGrid f z) (e : ℤ) : |z| ≤ 2 ^ e ∨ ∃ k : ℤ, z = k * (2 : ℝ) ^ (e - f.frac) := by
  obtain ⟨k, q, hk, -, rfl⟩ := h
  by_cases hq : e - f.frac ≤ q
  · obtain ⟨d, hd⟩ := Int.le.dest hq
    refine .inr ⟨k * 2 ^ d, ?_⟩
    rw [← hd, zpow_add₀ two_ne_zero, zpow_natCast]
    push_cast
    ring
  · refine .inl ?_
    have hk' : |(k : ℝ)| ≤ 2 ^ (f.frac + 1) := by exact_mod_cast hk
    calc |k * (2 : ℝ) ^ q| = |(k : ℝ)| * 2 ^ q := by rw [abs_mul, abs_of_pos (zpow_pos two_pos q : (0 : ℝ) < 2 ^ q)]
      _ ≤ 2 ^ (f.frac + 1) * 2 ^ q := mul_le_mul_of_nonneg_right hk' (zpow_pos two_pos q).le
      _ = 2 ^ ((f.frac + 1 : ℕ) + q) := by rw [zpow_add₀ two_ne_zero, zpow_natCast]
      _ ≤ 2 ^ e := zpow_le_zpow_right₀ one_le_two (by push_cast; omega)

/-- The nearest multiple of the spacing at `X` is its neighbour, and a tie lies half a step away. -/
theorem grid_nearest {f : Fmt} {e m : ℤ} {X z : ℝ} (hX : (2 : ℝ) ^ e ≤ X) (h : 2 * |m * (2 : ℝ) ^ (e - f.frac) - X| ≤ 2 ^ (e - f.frac)) (hz : OnGrid f z) :
    |m * (2 : ℝ) ^ (e - f.frac) - X| ≤ |z - X| ∧
      (z ≠ m * (2 : ℝ) ^ (e - f.frac) → |z - X| = |m * (2 : ℝ) ^ (e - f.frac) - X| → 2 * |m * (2 : ℝ) ^ (e - f.frac) - X| = 2 ^ (e - f.frac)) := by
  have hU : (0 : ℝ) < 2 ^ (e - f.frac) := zpow_pos two_pos _
  have near (k : ℤ) := multiple_nearest hU h k
  have other {k : ℤ} (hk : (k : ℝ) * 2 ^ (e - f.frac) ≠ m * 2 ^ (e - f.frac)) : k ≠ m := fun h => hk (by rw [h])
  obtain hle | ⟨k, rfl⟩ := onGrid_cases hz e
  · have hb : ((2 ^ f.frac : ℤ) : ℝ) * 2 ^ (e - f.frac) = 2 ^ e := by
      push_cast
      rw [← zpow_natCast, ← zpow_add₀ two_ne_zero]
      congr 1
      ring
    have hz' := (abs_le.mp hle).2
    have hbX : |(2 : ℝ) ^ e - X| = X - 2 ^ e := by rw [abs_of_nonpos (by linarith)]; ring
    have hzX : |z - X| = X - z := by rw [abs_of_nonpos (by linarith)]; ring
    obtain ⟨h1, h2⟩ := near (2 ^ f.frac)
    rw [hb, hbX] at h1 h2
    rw [hzX]
    refine ⟨by linarith, fun hne he => ?_⟩
    have hzb : z = 2 ^ e := by linarith
    exact h2 (other (by rw [hb, ← hzb]; exact hne)) (by linarith)
  · exact ⟨(near k).1, fun hne => (near k).2 (other hne)⟩

theorem onGrid_neg {f : Fmt} {z : ℝ} (h : OnGrid f z) : OnGrid f (-z) := by
  obtain ⟨k, q, hk, hq, rfl⟩ := h
  exact ⟨-k, q, by rwa [abs_neg], hq, by push_cast; ring⟩

/-- The number with a sign. -/
def signed (s : Bool) (x : ℝ) : ℝ := if s then -x else x

theorem onGrid_signed {f : Fmt} {z : ℝ} (s : Bool) (h : OnGrid f z) : OnGrid f (signed s z) := by
  cases s
  · exact h
  · exact onGrid_neg h

theorem abs_signed (s : Bool) (x : ℝ) : |signed s x| = |x| := by
  cases s
  · rfl
  · exact abs_neg x

theorem signed_sub (s : Bool) (x y : ℝ) : |signed s x - y| = |x - signed s y| := by
  cases s
  · rfl
  · simp only [signed, if_true]
    rw [← abs_neg]
    ring_nf

theorem signed_signed (s : Bool) (x : ℝ) : signed s (signed s x) = x := by
  cases s <;> simp [signed]

theorem signed_inj {s : Bool} {x y : ℝ} : signed s x = signed s y ↔ x = y := by
  cases s <;> simp [signed]

/-! ### Integers rounded to nearest, checked by evaluation -/

/-- The decoded bits are a multiple of the spacing at the integer `n`, at most half a step from it, with an even last bit at half a step, and the conditions say whether
they differ; all in units of 2^-30. -/
def roundsInteger (f : Fmt) (s : Bool) (n : Nat) (o : Nat × Cnd) : Bool :=
  match f.decode o.1, f.decode f.maxBits with
  | .fin t m g, .fin false M G =>
    let u := 2 ^ (n.log2 + 30 - f.frac)
    let v := m * 2 ^ (g + 30).toNat
    let x := n * 2 ^ 30
    decide (t = s ∧ 0 ≤ g + 30 ∧ 0 ≤ G + 30 ∧ v % u = 0 ∧ v ≤ u * 2 ^ (f.frac + 1) ∧ 2 ^ 30 ≤ v ∧ v ≤ M * 2 ^ (G + 30).toNat ∧
      2 * (v - x + (x - v)) ≤ u ∧ (2 * (v - x + (x - v)) = u → o.1 % 2 = 0) ∧ o.2 = if v = x then 0 else cInexact)
  | _, _ => false

/-- `m · 2^g` in units of 2^-30. -/
theorem units_eq {m : Nat} {g : ℤ} (h : 0 ≤ g + 30) : (m : ℝ) * 2 ^ g = ((m * 2 ^ (g + 30).toNat : ℕ) : ℝ) / 2 ^ 30 := by
  have : (g : ℤ) = ((g + 30).toNat : ℤ) - (30 : ℕ) := by rw [Int.toNat_of_nonneg h]; push_cast; ring
  conv_lhs => rw [this, zpow_sub₀ two_ne_zero, zpow_natCast, zpow_natCast]
  push_cast
  ring

theorem abs_units (a b : Nat) : |(a : ℝ) / 2 ^ 30 - (b : ℝ) / 2 ^ 30| = ((a - b + (b - a) : ℕ) : ℝ) / 2 ^ 30 := by
  rw [← sub_div, abs_div, abs_of_pos (by positivity : (0 : ℝ) < 2 ^ 30)]
  congr 1
  obtain h | h := le_total a b
  · rw [abs_of_nonpos (by simpa using h), Nat.sub_eq_zero_of_le h, Nat.zero_add, Nat.cast_sub h]
    ring
  · rw [abs_of_nonneg (by simpa using h), Nat.sub_eq_zero_of_le h, Nat.add_zero, Nat.cast_sub h]

theorem numberOf_fin (s : Bool) (m : Nat) (g : ℤ) : ((numberOf (.fin s m g) : ℚ) : ℝ) = signed s (m * 2 ^ g) := by
  cases s <;> simp [numberOf, signed]

theorem natCast_units (n : Nat) : (n : ℝ) = ((n * 2 ^ 30 : ℕ) : ℝ) / 2 ^ 30 := by
  rw [Nat.cast_mul, Nat.cast_pow, Nat.cast_ofNat, mul_div_cancel_right₀ _ (by positivity)]

theorem dist_units {m n : Nat} {g : ℤ} (h : 0 ≤ g + 30) : |(m : ℝ) * 2 ^ g - n| =
    ((m * 2 ^ (g + 30).toNat - n * 2 ^ 30 + (n * 2 ^ 30 - m * 2 ^ (g + 30).toNat) : ℕ) : ℝ) / 2 ^ 30 := by
  rw [units_eq h]
  conv_lhs => rw [natCast_units n]
  exact abs_units _ _

theorem eq_natCast_iff {m n : Nat} {g : ℤ} (h : 0 ≤ g + 30) : (m : ℝ) * 2 ^ g = n ↔ m * 2 ^ (g + 30).toNat = n * 2 ^ 30 := by
  rw [units_eq h, div_eq_iff (by positivity)]
  exact_mod_cast Iff.rfl

theorem spacing_units {f : Fmt} (n : Nat) (hf : f.frac ≤ 30) : (2 : ℝ) ^ ((n.log2 : ℤ) - f.frac) = ((2 ^ (n.log2 + 30 - f.frac) : ℕ) : ℝ) / 2 ^ 30 := by
  have : ((n.log2 : ℤ) - f.frac) = ((n.log2 + 30 - f.frac : ℕ) : ℤ) - (30 : ℕ) := by omega
  rw [this, zpow_sub₀ two_ne_zero, zpow_natCast, zpow_natCast]
  push_cast
  rfl

/-- On the grid, the nearest point of the grid to `n`, and half a step away where another is as near. -/
theorem nearest_units {f : Fmt} {n m : Nat} {g : ℤ} (hn : 0 < n) (hf : f.frac ≤ 30) (hmin : f.emin ≤ 0) (hg : 0 ≤ g + 30)
    (hdvd : m * 2 ^ (g + 30).toNat % 2 ^ (n.log2 + 30 - f.frac) = 0) (htop : m * 2 ^ (g + 30).toNat ≤ 2 ^ (n.log2 + 30 - f.frac) * 2 ^ (f.frac + 1))
    (hnear : 2 * (m * 2 ^ (g + 30).toNat - n * 2 ^ 30 + (n * 2 ^ 30 - m * 2 ^ (g + 30).toNat)) ≤ 2 ^ (n.log2 + 30 - f.frac)) :
    OnGrid f (m * 2 ^ g) ∧ ∀ z, OnGrid f z → |(m : ℝ) * 2 ^ g - n| ≤ |z - n| ∧ (z ≠ m * 2 ^ g → |z - n| = |(m : ℝ) * 2 ^ g - n| →
      2 * (m * 2 ^ (g + 30).toNat - n * 2 ^ 30 + (n * 2 ^ 30 - m * 2 ^ (g + 30).toNat)) = 2 ^ (n.log2 + 30 - f.frac)) := by
  obtain ⟨c, hc⟩ := Nat.dvd_of_mod_eq_zero hdvd
  have hY : (m : ℝ) * 2 ^ g = ((c : ℤ) : ℝ) * 2 ^ ((n.log2 : ℤ) - f.frac) := by
    rw [units_eq hg, spacing_units n hf, hc]
    push_cast
    ring
  have hlow : (2 : ℝ) ^ (n.log2 : ℤ) ≤ n := by
    rw [zpow_natCast]
    exact_mod_cast Nat.log2_self_le hn.ne'
  have hhalf : 2 * |(m : ℝ) * 2 ^ g - n| ≤ 2 ^ ((n.log2 : ℤ) - f.frac) := by
    rw [dist_units hg, spacing_units n hf, ← mul_div_assoc]
    gcongr
    exact_mod_cast hnear
  refine ⟨⟨c, n.log2 - f.frac, ?_, by omega, hY⟩, fun z hz => ?_⟩
  · rw [abs_of_nonneg (Int.natCast_nonneg c)]
    rw [hc] at htop
    have := Nat.le_of_mul_le_mul_left htop (Nat.two_pow_pos _)
    exact_mod_cast this
  · rw [hY] at hhalf
    obtain ⟨hle, htie⟩ := grid_nearest hlow hhalf hz
    rw [← hY] at hle htie
    refine ⟨hle, fun hne he => ?_⟩
    have := htie hne he
    rw [dist_units hg, spacing_units n hf, ← mul_div_assoc, div_left_inj' (by positivity)] at this
    exact_mod_cast this

theorem roundsTo_integer {f : Fmt} {s : Bool} {n : Nat} {o : Nat × Cnd} (hn : 0 < n) (hf : f.frac ≤ 30) (hmin : f.emin ≤ 0) (h : roundsInteger f s n o = true) :
    RoundsTo f .rne false s (signed s n) o := by
  unfold roundsInteger at h
  split at h
  case h_2 => cases h
  case h_1 t m g M G hd hM =>
  obtain ⟨rfl, hg, hG, hdvd, htop, hone, hmax, hnear, heven, hcnd⟩ := of_decide_eq_true h
  obtain ⟨hgrid, hbest⟩ := nearest_units hn hf hmin hg hdvd htop hnear
  have hpos : (0 : ℝ) ≤ m * 2 ^ g := by positivity
  have dist (z : ℝ) : |z - signed t n| = |signed t z - n| := (signed_sub t z n).symm
  refine ⟨signed t (m * 2 ^ g), ⟨onGrid_signed t hgrid, fun z hz => ?_⟩, fun _ => ?_, fun hbig => ?_⟩
  · rw [dist, dist, signed_signed]
    exact (hbest _ (onGrid_signed t hz)).1
  · rw [hd, numberOf_fin]
    refine ⟨rfl, rfl, rfl, fun _ ⟨z, hz, hzg, hzd⟩ => heven ?_, fun h => ?_, fun h _ => ?_, fun _ hsub => ?_⟩
    · rw [dist, dist, signed_signed] at hzd
      exact (hbest _ (onGrid_signed t hzg)).2 (fun h => hz (by rw [← h, signed_signed])) hzd
    · rw [hcnd, if_pos ((eq_natCast_iff hg).mp (signed_inj.mp h))]
    · rw [hcnd, if_neg fun hx => h (by rw [(eq_natCast_iff hg).mpr hx])]
    · exfalso
      rw [abs_signed, abs_of_nonneg hpos, units_eq hg] at hsub
      have h1 : (1 : ℝ) ≤ ((m * 2 ^ (g + 30).toNat : ℕ) : ℝ) / 2 ^ 30 := (one_le_div (by positivity)).mpr (by exact_mod_cast hone)
      have h2 : (2 : ℝ) ^ f.emin ≤ 1 := zpow_le_one_of_nonpos₀ one_le_two hmin
      linarith
  · exfalso
    rw [hM, numberOf_fin, abs_signed, abs_of_nonneg hpos, units_eq hg, show signed false ((M : ℝ) * 2 ^ G) = M * 2 ^ G from rfl, units_eq hG] at hbig
    have : ((m * 2 ^ (g + 30).toNat : ℕ) : ℝ) / 2 ^ 30 ≤ ((M * 2 ^ (G + 30).toNat : ℕ) : ℝ) / 2 ^ 30 := by gcongr
    linarith

/-! ### Constants (R43) -/

/-- The bits of an integer constant in a format (R43). -/
def constBits (ty : Ty) (x : Int) : Nat × Cnd := roundFx (fmtOf ty) (.dir .rne) false (.fin (decide (x < 0)) x.natAbs 0)

/-- The types of floating-point sources (R109). -/
def floatTypes : List Ty := [.f32, .f16, .bf16, .e4m3, .e5m2]

theorem mem_floatTypes {ty : Ty} (h : ty.isFloat = true) : ty ∈ floatTypes := by
  cases ty with
  | f32 | f16 | bf16 | e4m3 | e5m2 => decide
  | _ => cases h

theorem constBits_rounds : ∀ k : BitVec 6, k.toNat < 48 → intConst k.toNat ≠ 0 → ∀ ty ∈ floatTypes,
    roundsInteger (fmtOf ty) (decide (intConst k.toNat < 0)) (intConst k.toNat).natAbs (constBits ty (intConst k.toNat)) = true ∧
      (constBits ty (intConst k.toNat)).1 < 2 ^ ty.bits := by
  decide

/-- The digit at bit `k`, above `a` and below `b`. -/
theorem digit_at {w k v a : Nat} (b : Nat) (hv : v < 2 ^ w) (ha : a < 2 ^ k) : (a + 2 ^ k * (v + 2 ^ w * b)) / 2 ^ k % 2 ^ w = v := by
  rw [Nat.add_mul_div_left _ _ (Nat.two_pow_pos k), Nat.div_eq_of_lt ha, Nat.zero_add, Nat.add_mul_mod_self_left, Nat.mod_eq_of_lt hv]

theorem element_of_pair {v j : Nat} (hv : v < 2 ^ 16) (hj : j < 2) : (v + v * 2 ^ 16) % 2 ^ 32 / 2 ^ (16 * j) % 2 ^ 16 = v := by
  rw [show (v + v * 2 ^ 16) % 2 ^ 32 = v + v * 2 ^ 16 from Nat.mod_eq_of_lt (by omega)]
  interval_cases j
  · rw [show v + v * 2 ^ 16 = 0 + 2 ^ (16 * 0) * (v + 2 ^ 16 * v) by ring]
    exact digit_at v hv (by decide)
  · rw [show v + v * 2 ^ 16 = v + 2 ^ (16 * 1) * (v + 2 ^ 16 * 0) by ring]
    exact digit_at 0 hv hv

theorem element_of_four {v j : Nat} (hv : v < 2 ^ 8) (hj : j < 4) : v * 0x01010101 % 2 ^ 32 / 2 ^ (8 * j) % 2 ^ 8 = v := by
  rw [show v * 0x01010101 % 2 ^ 32 = v * 0x01010101 from Nat.mod_eq_of_lt (by omega)]
  interval_cases j
  · rw [show v * 0x01010101 = 0 + 2 ^ (8 * 0) * (v + 2 ^ 8 * (v * 0x10101)) by ring]
    exact digit_at _ hv (by decide)
  · rw [show v * 0x01010101 = v + 2 ^ (8 * 1) * (v + 2 ^ 8 * (v * 0x101)) by ring]
    exact digit_at _ hv hv
  · rw [show v * 0x01010101 = v * 0x101 + 2 ^ (8 * 2) * (v + 2 ^ 8 * v) by ring]
    exact digit_at _ hv (by omega)
  · rw [show v * 0x01010101 = v * 0x10101 + 2 ^ (8 * 3) * (v + 2 ^ 8 * 0) by ring]
    exact digit_at _ hv (by omega)

theorem elementOf_eq (ty : Ty) (w : Word) (j : Nat) : elementOf ty w j = w.toNat / 2 ^ (ty.bits * j) % 2 ^ ty.bits := by
  rw [elementOf, BitVec.toNat_ushiftRight, Nat.shiftRight_eq_div_pow]

theorem elementOf_replicateBits {ty : Ty} (hty : ty ∈ floatTypes) {j v : Nat} (hj : j < ty.count) (hv : v < 2 ^ ty.bits) :
    elementOf ty (replicateBits ty.bits v) j = v := by
  have h16 : (replicateBits 16 v).toNat = (v + v * 2 ^ 16) % 2 ^ 32 := BitVec.toNat_ofNat _ _
  have h8 : (replicateBits 8 v).toNat = v * 0x01010101 % 2 ^ 32 := BitVec.toNat_ofNat _ _
  have h32 : (replicateBits 32 v).toNat = v % 2 ^ 32 := BitVec.toNat_ofNat _ _
  rw [elementOf_eq]
  simp only [floatTypes, List.mem_cons, List.not_mem_nil, or_false] at hty
  rcases hty with rfl | rfl | rfl | rfl | rfl
  all_goals simp only [Ty.count, Ty.bits] at hj hv ⊢
  · obtain rfl : j = 0 := Nat.lt_one_iff.mp hj
    rw [h32, Nat.mul_zero, Nat.pow_zero, Nat.div_one, Nat.mod_mod, Nat.mod_eq_of_lt hv]
  · rw [h16, element_of_pair hv hj]
  · rw [h16, element_of_pair hv hj]
  · rw [h8, element_of_four hv hj]
  · rw [h8, element_of_four hv hj]

theorem rd_const_int (e : Env) (l : Nat) {k : BitVec 6} (w64 : Bool) (hk : k.toNat < 48) :
    e.rd (.const k) w64 l = if w64 then BitVec.ofInt 64 (intConst k.toNat) else (BitVec.ofInt 32 (intConst k.toNat)).setWidth 64 := by
  have h : ∀ k : BitVec 6, k.toNat < 48 → constInt k = BitVec.ofInt 64 (intConst k.toNat) ∧
      ((constInt k).setWidth 32).setWidth 64 = (BitVec.ofInt 32 (intConst k.toNat)).setWidth 64 := by decide
  cases w64
  · exact (h k hk).2
  · exact (h k hk).1

theorem rd_const_fp (e : Env) (l : Nat) {k : BitVec 6} {w : Word} (w64 : Bool) (hk : 48 ≤ k.toNat) (hw : fpConst (k.toNat - 48) = w) :
    e.rd (.const k) w64 l = w.setWidth 64 ∧ e.rdF (.const k) .f32 l = w := by
  have hi : constInt k = w.setWidth 64 := by rw [constInt, if_neg (by omega), hw]
  refine ⟨?_, ?_⟩
  · cases w64
    · exact setWidth_low hi
    · exact hi
  · show constFp k .f32 = w
    rw [constFp, if_neg (by omega)]
    exact hw

/-- A floating-point source takes an integer constant rounded to its format, in every element (R43). -/
theorem rdF_const_rounds (e : Env) (l : Nat) {k : BitVec 6} (hk : k.toNat < 48) (hx : intConst k.toNat ≠ 0) {ty : Ty} (hty : ty.isFloat = true) {j : Nat}
    (hj : j < ty.count) : ∃ c, RoundsTo (fmtOf ty) .rne false (decide (intConst k.toNat < 0)) (intConst k.toNat : ℝ) (elementOf ty (e.rdF (.const k) ty l) j, c) := by
  have hmem := mem_floatTypes hty
  obtain ⟨hr, hlt⟩ := constBits_rounds k hk hx ty hmem
  have hword : e.rdF (.const k) ty l = replicateBits ty.bits (constBits ty (intConst k.toNat)).1 := if_pos hk
  have hfmt : ∀ ty ∈ floatTypes, (fmtOf ty).frac ≤ 30 ∧ (fmtOf ty).emin ≤ 0 := by decide
  have hsgn : ∀ x : ℤ, signed (decide (x < 0)) x.natAbs = x := fun x => by
    obtain h | h := lt_or_ge x 0
    · rw [decide_eq_true h, signed, if_pos rfl, Nat.cast_natAbs, abs_of_neg h, Int.cast_neg, neg_neg]
    · rw [decide_eq_false (not_lt.mpr h), signed, if_neg Bool.false_ne_true, Nat.cast_natAbs, abs_of_nonneg h]
  rw [hword, elementOf_replicateBits hmem hj hlt]
  have := roundsTo_integer (Int.natAbs_pos.mpr hx) (hfmt ty hmem).1 (hfmt ty hmem).2 hr
  rw [hsgn] at this
  exact ⟨_, this⟩

/-- Settles O53: each operand's case of the read, the lowest lane of EXEC, and integer constants whose rounding is checked by evaluation. -/
theorem sourceRead : Obligations.SourceRead := by
  unfold Obligations.SourceRead
  refine ⟨fun e l n m => ⟨(rd_v e n l).1, (rd_v e n l).2, (rd_s e m l).1, (rd_s e m l).2, rfl, low_ofNat l, setWidth_low rfl, rfl, rfl, rfl, rfl, low_ofNat _⟩,
    fun e l q v h hd => rd_popped l h hd, fun e l k w64 hk => ?_, fun e l w64 r hr => ?_, fun e h => lowLane_lowest h, isActive_iff⟩
  · intro x
    exact ⟨rd_const_int e l w64 hk, fun ty hty j hj hx => rdF_const_rounds e l hk hx hty hj⟩
  · have h : 48 ≤ r.1.toNat ∧ fpConst (r.1.toNat - 48) = r.2 := by
      fin_cases hr <;> exact ⟨by decide, rfl⟩
    exact rd_const_fp e l w64 h.1 h.2

end Sys2Proof.Machine
end

section
/-! # Line entry, issue selection, register lines and commit rounds (R46, R47, R305, R362): a counterexample

`Obligations.IssueAndRounds` says of every state, whatever its memory, that an instruction which names a register line with an uncorrectable error changes no byte but those
that report the fault. A memory that is not canonical (`Memory.wf`, log 2) refutes it: of two entries out of order the first hides the second, and the fault's report removes
the first. The clause would need `Memory.wf s.mem = true`, as the other statements of `FaultsFirst` have it. -/

namespace Sys2Proof.Machine
open Sys2Proof.Claims Sys2Proof.Safety

/-! ## An entry that stands first in a memory stays there while larger keys are written -/

/-- The first entry of a memory. -/
def Mem.Heads (c : Host.Cell) (m : Mem) : Prop := ∃ r, m = c :: r

variable {c : Host.Cell} {m : Mem}

theorem Mem.Heads.get (h : m.Heads c) : m.get c.1 = c.2 := by
  obtain ⟨r, rfl⟩ := h
  simp [Mem.get]

theorem Mem.Heads.set {k : Nat} (x : Byte) (h : m.Heads c) (hk : c.1 < k) : (m.set k x).Heads c := by
  obtain ⟨r, rfl⟩ := h
  refine ⟨Mem.set r k x, ?_⟩
  rw [Mem.set, if_neg (by omega), if_neg (by omega)]

theorem Mem.Heads.setAll {kvs : List (Nat × Byte)} (h : m.Heads c) (hk : ∀ p ∈ kvs, c.1 < p.1) : (m.setAll kvs).Heads c := by
  induction kvs generalizing m with
  | nil => exact h
  | cons p kvs ih => exact ih (h.set p.2 (hk p (by simp))) fun q hq => hk q (by simp [hq])

theorem Mem.Heads.setBytes {k : Nat} (bs : List Byte) (h : m.Heads c) (hk : c.1 < k) : (m.setBytes k bs).Heads c := by
  refine h.setAll fun p hp => ?_
  obtain ⟨q, -, rfl⟩ := List.mem_map.1 hp
  exact hk.trans_le (Nat.le_add_right k q.2)

/-! ## A fault's report on a memory out of order -/

variable {s : State} {g : Group} {gi fpc cpc pid : Nat} {f : FaultInfo}

/-- The frame's first byte, which is that of CPC, is zero at the first slot of a line at a multiple of 256; its write removes the entry that stands there. -/
theorem heads_setBytes_frame {k n : Nat} {y : Byte} {r : Mem} {fr : Frame} (h : fr.cpc % 256 = 0) (hk : c.1 < k) :
    (Mem.setBytes ((k, y) :: c :: r) k (g.frameBytes fr n)).Heads c := by
  obtain ⟨bs, e⟩ : ∃ bs, g.frameBytes fr n = 0 :: bs := by
    simp only [Group.frameBytes, Frame.bytes, List.append_assoc, bytesOfWord, List.cons_append]
    exact ⟨_, congrArg (· :: _) (BitVec.eq_of_toNat_eq (by simpa using h))⟩
  have first : Mem.set ((k, y) :: c :: r) k 0 = c :: r := by simp [Mem.set, Mem.cons, unlisted]
  rw [e, Mem.setBytes, List.zipIdx_cons, List.map_cons, Mem.setAll, Nat.add_zero, first]
  refine Mem.Heads.setAll ⟨r, rfl⟩ fun p hp => ?_
  obtain ⟨q, -, rfl⟩ := List.mem_map.1 hp
  exact hk.trans_le (Nat.le_add_right k q.2)

/-- A record of the trap queue, or its overflow count, is written past the queue's header. -/
theorem heads_post {slot : Nat} {r : Rec} (h : s.mem.Heads c) (hq : c.1 < (s.ctx slot).tqHeader) : (s.post slot r).mem.Heads c := by
  by_cases hf : 0 < s.tqFree slot
  · rw [post_mem hf, Mem.setNum]
    refine (h.setBytes _ ?_).setBytes _ hq
    unfold State.recAt
    omega
  · unfold State.post
    rw [if_neg (by omega), writeNum_mem, Mem.setNum]
    exact h.setBytes _ (hq.trans_le (Nat.le_add_right _ 8))

/-- A fault that no handler takes posts its record and freezes the context. -/
theorem heads_deliver (hg : s.groups[gi]? = some g) (hv : g.regs.tvec = 0) (h : s.mem.Heads c) (hq : c.1 < (s.ctx g.slot).tqHeader) :
    (s.deliver gi f fpc).mem.Heads c := by
  unfold State.deliver
  rw [hg]
  dsimp only
  rw [if_neg (by simp [hv])]
  rw [State.mapG_mem, State.freeze_mem]
  exact heads_post h hq

/-- A trap writes its frame over the entry that stands first, and what was hidden behind it stands first. -/
theorem heads_raise {y : Byte} {r : Mem} (hg : s.groups[gi]? = some g) (ht : traps f) (ha : g.ops.any Op.awaited = false) (hv : g.regs.tvec = 0)
    (hm : s.mem = (s.record g, y) :: c :: r) (hp : cpc % 256 = 0) (hb : c.1 < s.record g) (hq : c.1 < (s.ctx g.slot).tqHeader) :
    (s.raise gi f fpc cpc pid).mem.Heads c := by
  have hlt : gi < s.groups.length := (List.getElem?_eq_some_iff.1 hg).1
  rw [raise_eq_takeTrap hg ht]
  obtain ⟨fl, -, e⟩ := takeTrap_eq (s := s.setG gi { g with st := .trapping f fpc cpc pid, bwait := [] }) (gi := gi) (f := f)
    (fpc := fpc) (cpc := cpc) (pid := pid) (List.getElem?_set_self hlt) rfl ha
  rw [e]
  have hlt' : gi < (s.setG gi { g with st := .trapping f fpc cpc pid, bwait := [] }).groups.length := by simpa [State.setG] using hlt
  obtain ⟨qs, hu⟩ := writeFrame_group (s := (s.setG gi { g with st := .trapping f fpc cpc pid, bwait := [] }).setG gi _)
    (List.getElem?_set_self hlt')
  refine heads_deliver hu hv ?_ ?_
  · rw [writeFrame_mem]
    refine Mem.Heads.setBytes _ (Mem.Heads.setBytes _ ?_ ?_) ?_
    · exact hm ▸ heads_setBytes_frame hp hb
    · exact hb.trans_le (Nat.le_add_right _ _)
    · exact hb.trans_le (Nat.le_add_right _ _)
  · obtain ⟨m, gs, e'⟩ := State.writeFrame_frame ((s.setG gi { g with st := .trapping f fpc cpc pid, bwait := [] }).setG gi _) _ _ _ _ _
    rw [e']
    exact hq

/-! ## An instruction that faults before its body -/

theorem issue_of_prepare_error {i : Instr} {st : Stop} (hg : s.groups[s.cur.g]? = some g) (h : prepare i g s = .error st)
    (body : Env → State → Except Stop State) : issue i body s = .next (s.stop st none) := by
  unfold issue
  rw [hg]
  dsimp only
  rw [h]

/-- A fault of the C-slice, no pair's second instruction at issue, is raised at the cursor. -/
theorem stop_fault_c {q : Option Nat} (hs : s.snap = none) (hc : s.cur.sl = .c) :
    s.stop (.fault f) q = (s.raise s.cur.g { f with hi := false } s.cur.addr s.cur.addr s.cur.p).report (.faulted f.code) := by
  simp [State.stop, hs, hc]

theorem heads_stop {y : Byte} {r : Mem} {q : Option Nat} (hs : s.snap = none) (hc : s.cur.sl = .c) (hg : s.groups[s.cur.g]? = some g)
    (ht : traps { f with hi := false }) (ha : g.ops.any Op.awaited = false) (hv : g.regs.tvec = 0) (hm : s.mem = (s.record g, y) :: c :: r)
    (hp : s.cur.addr % 256 = 0) (hb : c.1 < s.record g) (hq : c.1 < (s.ctx g.slot).tqHeader) : (s.stop (.fault f) q).mem.Heads c := by
  rw [stop_fault_c hs hc]
  exact heads_raise hg ht ha hv hm hp hb hq

/-! ## The state -/

/-- A group whose line `V1` is resident with an uncorrectable error. -/
def badLineG : Group := { fetchGroup 1 0 with vbud := 8, vres := [1, 6], vbad := [1] }

/-- A state whose memory lists the first byte of the group's record before byte 5, which it hides. -/
def unsorted : State := { State.reset with
  groups := [badLineG]
  mem := [(0x10000, 1), (5, 1)]
  cur := { addr := 0x1000 }
  ctxs := [{ State.reset.ctx 0 with state := .active, tqbase := 64 }] }

/-- `IADD V6 = V1 + 3` (R135). -/
def addBad : Instr := .iadd ⟨⟨0, false⟩, .none⟩ .i32 (.v 6) (.v 1) (.const 3)

theorem exec_addBad_unsorted : exec addBad unsorted = .next (unsorted.stop (.fault { code := .eccUncorrected }) none) := by
  have h : prepare addBad badLineG unsorted = .error (.fault { code := .eccUncorrected }) := rfl
  have e : exec addBad unsorted = execIadd ⟨⟨0, false⟩, .none⟩ .i32 (.v 6) (.v 1) (.const 3) unsorted := rfl
  rw [e, execIadd]
  exact issue_of_prepare_error rfl h _

theorem record_unsorted : unsorted.record badLineG = 0x10000 := by
  decide

theorem get_stop_unsorted : (unsorted.stop (.fault { code := .eccUncorrected }) none).mem.get 5 = 1 := by
  have hm : unsorted.mem = (unsorted.record badLineG, 1) :: (5, 1) :: [] := by
    rw [record_unsorted]; rfl
  exact (heads_stop rfl rfl rfl (.inl rfl) (by decide) (by decide) hm (by decide) (by rw [record_unsorted]; decide) (by decide)).get

/-- Byte 5 is none of those that report a fault of the group. -/
theorem not_reportByte_unsorted : ¬ ReportByte unsorted badLineG 5 := by
  unfold ReportByte
  decide

end Sys2Proof.Machine

namespace Sys2Proof
open Machine Claims Safety

/-- Refutes O46: the clause of R362 holds of canonical memories alone. In `unsorted` the report of the fault of `addBad` removes the entry that hid byte 5, and byte 5, which
reports nothing, reads 1 where it read 0. -/
theorem not_issueAndRounds : ¬ Obligations.IssueAndRounds := by
  unfold Obligations.IssueAndRounds
  rintro ⟨-, -, -, -, ecc, -⟩
  obtain ⟨t, he, -, -, -, hmem⟩ := ecc addBad unsorted badLineG 1 rfl rfl (by decide) (by decide) (by decide) (by decide) (by decide)
  obtain rfl : unsorted.stop (.fault { code := .eccUncorrected }) none = t := by simpa [exec_addBad_unsorted] using he
  have kept := hmem 5 not_reportByte_unsorted
  rw [get_stop_unsorted] at kept
  exact absurd kept (by decide)

end Sys2Proof
end

section
/-! # What an issued instruction comes to, by what its effect answers

An effect that answers a stall leaves the state as it was, one that answers a fault ends in it, one that adds an operation to its group leaves the
group as `Passed` says but for the operation. -/

namespace Sys2Proof.Machine

open Sys2Proof.Claims Sys2Proof.Safety

variable {i : Instr} {s : State} {g h : Group}

/-- An instruction whose effect answers a stop is what `State.stop` makes of it. -/
theorem exec_of_stop (hi : Issues i s g) {body : Env → State → Except Stop State} {st : Stop} (hx : exec i s = issue i body s)
    (hb : ∀ h, Started i s g h → body (envOf i s g) (s.setG s.cur.g h) = .error st) : exec i s = .next (s.stop st i.ldqOf) := by
  obtain ⟨h, hst, hn⟩ := issue_ok hi body
  rw [hx, hn, hb h hst]

theorem stalls_of_body (hi : Issues i s g) {body : Env → State → Except Stop State} (hx : exec i s = issue i body s)
    (hb : ∀ h, Started i s g h → body (envOf i s g) (s.setG s.cur.g h) = .error .stall) : Stalls i s := by
  have := exec_of_stop hi hx hb
  rwa [State.stop, hi.alone] at this

/-- The report of a fault, in either slice. -/
theorem stop_fault_report (s : State) (f : FaultInfo) (q : Option Nat) : (s.stop (.fault f) q).last = .faulted f.code := by
  unfold State.stop
  cases s.cur.sl <;> rfl

theorem faults_of_body (hi : Issues i s g) {body : Env → State → Except Stop State} {f : FaultInfo} (hx : exec i s = issue i body s)
    (hb : ∀ h, Started i s g h → body (envOf i s g) (s.setG s.cur.g h) = .error (.fault f)) : Faults i s f.code :=
  ⟨_, exec_of_stop hi hx hb, stop_fault_report s f _⟩

/-- The state of an issued instruction's group before the effect, with the group changed. -/
theorem mapG_setG (hg : s.groups[s.cur.g]? = some g) (F : Group → Group) :
    (s.setG s.cur.g h).mapG s.cur.g F = s.setG s.cur.g (F h) := by
  have hlt := (List.getElem?_eq_some_iff.1 hg).1
  have hk : (s.groups.set s.cur.g h)[s.cur.g]? = some h := List.getElem?_set_self hlt
  unfold State.mapG State.setG
  rw [modify_eq_set hk, List.set_set]

theorem groups_setG (hg : s.groups[s.cur.g]? = some g) : (s.setG s.cur.g h).groups[s.cur.g]? = some h :=
  List.getElem?_set_self (List.getElem?_eq_some_iff.1 hg).1

/-- The state after the effect of an issued instruction, once its group has been changed again and the retirement reported. -/
theorem becomes_of_setG (hg : s.groups[s.cur.g]? = some g) (k : Group) (m : Nat) (fe : List Nat) (cs : List Context) (tl : Tlbs) (F : Group → Group) :
    (({ s.setG s.cur.g k with nextId := m, fe := fe, ctxs := cs, tlbs := tl } : State).mapG s.cur.g F).report .retired =
      { Becomes s (F k) with nextId := m, fe := fe, ctxs := cs, tlbs := tl } := by
  have hgs := congrArg State.groups (mapG_setG (h := k) hg F)
  unfold State.mapG State.setG at hgs
  unfold State.report State.mapG State.setG Becomes
  dsimp only at hgs ⊢
  rw [hgs]

/-- Retirement and an operation added, by what they change. -/
theorem retire_addOp (h : Group) (o : Op) (sl : Slice) (n : Nat) : (h.addOp o).retire sl false n = (h.retire sl false n).addOp o := by
  unfold Group.addOp Group.raiseFlag
  cases sl <;> cases o.flag <;> cases o.flag2 <;> rfl

theorem retire_bufOp (h : Group) (o : Op) (sl : Slice) (n : Nat) : (h.bufOp o).retire sl false n = (h.retire sl false n).bufOp o := by
  unfold Group.bufOp Group.raiseFlag
  cases sl <;> cases o.flag <;> cases o.flag2 <;> rfl

/-- An issued effect that adds an operation to its group, and may note translations and windows, leaves what `Queues` says. -/
theorem queues_of_body (hi : Issues i s g) {body : Env → State → Except Stop State} {F : Group → Group} (hx : exec i s = issue i body s)
    (hb : ∀ h, Started i s g h → ∃ cs tl, cs.map blankCaches = s.ctxs.map blankCaches ∧ body (envOf i s g) (s.setG s.cur.g h) =
      .ok { s.setG s.cur.g (F h) with nextId := s.nextId + 1, ctxs := cs, tlbs := tl })
    (hF : ∀ h n, (F h).retire s.cur.sl false n = F (h.retire s.cur.sl false n)) : Queues i s g F := by
  obtain ⟨h, st, hn⟩ := issue_ok hi body
  obtain ⟨cs, tl, hcs, hbd⟩ := hb h st
  refine ⟨_, cs, tl, passed_retire st (i.laneFlops * (envOf i s g).active.length), ?_, hcs⟩
  rw [hx, hn, hbd]
  rw [← hF]
  exact congrArg _ (becomes_of_setG hi.here (F h) _ s.fe cs tl _)

end Sys2Proof.Machine
end

section
/-! # QBPUSH, QBPOP, QSTAT and QSYNC (O25) -/

namespace Sys2Proof.Machine

open Sys2Proof.Claims Sys2Proof.Safety

variable {s : State} {g : Group} {hd : Head} {gd : Guard} {a d : Operand} {disp : BitVec 32}

/-! ### QBPUSH (R88, R83, R87) -/

theorem whenGuard_of_guard {e : Env} {body : Env → State → Except Stop State} (hg : e.uguard = true) (t : State) : whenGuard body e t = body e t :=
  if_pos hg

/-- QBPUSH with room in QB. -/
theorem qbpushBody_room {e : Env} (hg : e.uguard = true) (hl : e.g.qb.length < 8) (t : State) :
    qbpushBody a e t = .ok (t.mapG e.gi fun k => { k with qb := k.qb ++ [e.rd32 a e.ulane], astall := false }) :=
  (whenGuard_of_guard hg t).trans (if_pos hl)

/-- QBPUSH on a full QB answers by the state of the A-slice. -/
theorem qbpushBody_full {e : Env} (hg : e.uguard = true) (hl : 8 ≤ e.g.qb.length) {x : Except Stop State} (t : State)
    (hx : (match e.g.ast with
      | .halted f _ _ => .error (.fault { f with aorg := some 4, lane := 255 })
      | .run => .error .stall
      | _ => .error (.fault { code := .queueOverrun })) = x) : qbpushBody a e t = x :=
  (whenGuard_of_guard hg t).trans ((if_neg (by omega)).trans hx)

theorem qbpush_appends (hi : Issues (.qbpush hd a) s g) (hg : (envOf (.qbpush hd a) s g).uguard = true) (hl : g.qb.length < 8) :
    Leaves (.qbpush hd a) s g fun k =>
      { k with qb := k.qb ++ [(envOf (.qbpush hd a) s g).rd32 a (envOf (.qbpush hd a) s g).ulane], astall := false } :=
  leaves_of_body (body := qbpushBody a) hi rfl (fun _ => qbpushBody_room hg hl _) fun h n => by cases s.cur.sl <;> rfl

theorem qbpush_stalls (hi : Issues (.qbpush hd a) s g) (hg : (envOf (.qbpush hd a) s g).uguard = true) (hl : 8 ≤ g.qb.length)
    (ha : g.ast = .run) : Stalls (.qbpush hd a) s :=
  stalls_of_body (body := qbpushBody a) hi rfl fun _ _ => qbpushBody_full hg hl _ (by rw [show (envOf (.qbpush hd a) s g).g.ast = _ from ha])

theorem qbpush_halted (hi : Issues (.qbpush hd a) s g) (hg : (envOf (.qbpush hd a) s g).uguard = true) (hl : 8 ≤ g.qb.length)
    {f : FaultInfo} {q : Option Nat} {b : Bool} (ha : g.ast = .halted f q b) : Faults (.qbpush hd a) s f.code :=
  faults_of_body (f := { f with aorg := some 4, lane := 255 }) (body := qbpushBody a) hi rfl fun _ _ => qbpushBody_full hg hl _ (by rw [show (envOf (.qbpush hd a) s g).g.ast = _ from ha])

theorem qbpush_overrun (hi : Issues (.qbpush hd a) s g) (hg : (envOf (.qbpush hd a) s g).uguard = true) (hl : 8 ≤ g.qb.length)
    (ha : g.ast = .absent ∨ g.ast = .exited) : Faults (.qbpush hd a) s .queueOverrun :=
  faults_of_body (f := { code := .queueOverrun }) (body := qbpushBody a) hi rfl fun _ _ => by
    rcases ha with ha | ha <;> exact qbpushBody_full hg hl _ (by rw [show (envOf (.qbpush hd a) s g).g.ast = _ from ha])

/-! ### QBPOP and QSTAT write one A register (R88, R89) -/

/-- An A register written in the group of an issued instruction, which then retires: the register holds the value, and every other register and
every predicate is as before. -/
theorem setA_retired {i : Instr} {h k : Group} (st : Started i s g h) (hr : k.regs = h.regs) (hp : k.paths = h.paths) (hs : Shaped g) (n : BitVec 6)
    (x : DWord) (m : Nat) :
    ((k.setA n.toNat x).retire s.cur.sl false m).areg n.toNat = x ∧
    KeepsRegs (envOf i s g) g ((k.setA n.toNat x).retire s.cur.sl false m) [.a n.toNat] (.a n) ∧
    KeepsPreds g ((k.setA n.toNat x).retire s.cur.sl false m) := by
  have hregs : k.regs = g.regs := by rw [hr, st.rest]
  have hn : n.toNat < k.regs.a.length := by rw [hregs, hs.a]; exact n.isLt
  obtain ⟨fl, as, he⟩ := retire_eq (k.setA n.toNat x) s.cur.sl m
  have hin : SameRead (envOf i s g).p.id k g := by
    refine ⟨by rw [hregs], ?_⟩
    rw [show k.path (envOf i s g).p.id = h.path (envOf i s g).p.id by unfold Group.path; rw [hp]]
    exact (st.sameRead _).path.symm
  have hout : SameRead (envOf i s g).p.id (k.setA n.toNat x) ((k.setA n.toNat x).retire s.cur.sl false m) := by rw [he]; exact ⟨rfl, rfl⟩
  refine ⟨?_, ?_, fun j l _ _ => ?_⟩
  · rw [he]
    exact (areg_setA k n.toNat x hn n.toNat).trans (if_pos rfl)
  · exact hin.keeps hout (fun _ hx => hx) (writeD_keepsRegs (envOf i s g) k (.a n) false (fun _ => some x) hn)
  · rw [he]
    show k.pred j l = g.pred j l
    unfold Group.pred
    rw [hregs]

/-- What retirement and a write of an A register leave. -/
theorem retire_setA (k : Group) (n : Nat) (x : DWord) (sl : Slice) (m : Nat) :
    (k.setA n x).retire sl false m = { k.retire sl false m with regs := ((k.setA n x).retire sl false m).regs } := by
  cases sl <;> rfl

theorem qbpop_pops {n : BitVec 6} (hi : Issues (.qbpop hd (.a n)) s g) (hs : Shaped g) {x : Word} {r : List Word} (hq : g.qb = x :: r) :
    ∃ k gt, Passed (.qbpop hd (.a n)) s g k ∧ exec (.qbpop hd (.a n)) s = .next (Becomes s gt) ∧ gt = { k with qb := r, regs := gt.regs } ∧
      gt.areg n.toNat = x.setWidth 64 ∧ KeepsRegs (envOf (.qbpop hd (.a n)) s g) g gt [.a n.toNat] (.a n) ∧ KeepsPreds g gt := by
  obtain ⟨h, st, hn⟩ := issue_mapG (body := qbpopBody (.a n)) (F := fun k => ({ k with qb := r } : Group).setA n.toNat (x.setWidth 64)) hi fun h => by
    unfold qbpopBody
    rw [show (envOf (.qbpop hd (.a n)) s g).g.qb = x :: r from hq]
    rfl
  obtain ⟨hv, hk, hp⟩ := setA_retired (k := { h with qb := r }) st rfl rfl hs n (x.setWidth 64)
    ((Instr.qbpop hd (.a n)).laneFlops * (envOf (.qbpop hd (.a n)) s g).active.length)
  refine ⟨_, _, passed_retire st ((Instr.qbpop hd (.a n)).laneFlops * (envOf (.qbpop hd (.a n)) s g).active.length), hn, ?_, hv, hk, hp⟩
  rw [retire_setA]
  cases s.cur.sl <;> rfl

theorem stop_qbpop {q : Option Nat} (hs : s.snap = none) :
    s.stop .qbpop q = (s.mapG s.cur.g fun k => { k with astall := true }).report .stalled := by
  unfold State.stop
  rw [hs]

theorem qbpop_stalls (hi : Issues (.qbpop hd d) s g) (hq : g.qb = []) :
    exec (.qbpop hd d) s = .next { s with groups := s.groups.set s.cur.g { g with astall := true }, last := .stalled } := by
  refine (exec_of_stop (st := .qbpop) (body := qbpopBody d) hi rfl fun _ _ => ?_).trans ?_
  · unfold qbpopBody
    rw [show (envOf (.qbpop hd d) s g).g.qb = [] from hq]
  · rw [stop_qbpop hi.alone, State.mapG, modify_eq_set hi.here]
    rfl

theorem writeD_areg (k : Group) (pid u : Nat) (n : BitVec 6) (w64 : Bool) (x : DWord) :
    k.writeD pid u (.a n) w64 (fun _ => some x) = k.setA n.toNat x := rfl

theorem qstat_writes {n : BitVec 6} {x : DWord} (hi : Issues (.qstat gd (.a n)) s g) (hs : Shaped g) (hx : g.qstat = x) :
    ∃ k gt, Passed (.qstat gd (.a n)) s g k ∧ exec (.qstat gd (.a n)) s = .next (Becomes s gt) ∧ gt = { k with regs := gt.regs } ∧
      KeepsRegs (envOf (.qstat gd (.a n)) s g) g gt [.a n.toNat] (.a n) ∧ KeepsPreds g gt ∧ gt.areg n.toNat = x := by
  obtain ⟨h, st, hn⟩ := issue_mapG (body := qstatBody (.a n)) (F := fun k => k.setA n.toNat x) hi fun h => by
    unfold qstatBody groupBody
    simp only [writeD_areg]
    rw [show (envOf (.qstat gd (.a n)) s g).g.qstat = x from hx]
    rfl
  obtain ⟨hv, hk, hp⟩ := setA_retired st rfl rfl hs n x ((Instr.qstat gd (.a n)).laneFlops * (envOf (.qstat gd (.a n)) s g).active.length)
  exact ⟨_, _, passed_retire st _, hn, retire_setA h _ _ _ _, hk, hp, hv⟩

/-- A field of a word that a number gives. -/
theorem ofNat_field {m w k x : Nat} (hm : m < 2 ^ 64) (hx : m / 2 ^ k % 2 ^ w = x % 2 ^ w) :
    (BitVec.ofNat 64 m).extractLsb' k w = BitVec.ofNat w x := by
  apply BitVec.eq_of_toNat_eq
  rw [BitVec.extractLsb'_toNat, BitVec.toNat_ofNat, BitVec.toNat_ofNat, Nat.mod_eq_of_lt hm, Nat.shiftRight_eq_div_pow, hx]

/-- The number of QSTAT's word from its fields. -/
def qstatNum (n : Nat → Nat) (b : Nat) (f : Bool) : Nat :=
  n 0 + n 1 * 256 + n 2 * 65536 + n 3 * 16777216 + b * 4294967296 + f.toNat * 68719476736

theorem qstatNum_fields {n : Nat → Nat} {b : Nat} {f : Bool} (hn : ∀ j < 4, n j ≤ 16) (hb : b ≤ 8) :
    qstatNum n b f < 2 ^ 37 ∧ (∀ j < 4, qstatNum n b f / 2 ^ (8 * j) % 2 ^ 8 = n j % 2 ^ 8) ∧ qstatNum n b f / 2 ^ 32 % 2 ^ 4 = b % 2 ^ 4 ∧
      qstatNum n b f / 2 ^ 36 % 2 = f.toNat := by
  have h0 := hn 0 (by omega)
  have h1 := hn 1 (by omega)
  have h2 := hn 2 (by omega)
  have h3 := hn 3 (by omega)
  have hf : f.toNat ≤ 1 := Bool.toNat_le f
  unfold qstatNum
  refine ⟨by omega, fun j hj => ?_, by omega, by omega⟩
  have hj' : j = 0 ∨ j = 1 ∨ j = 2 ∨ j = 3 := by omega
  rcases hj' with rfl | rfl | rfl | rfl <;> omega

/-- The fields of QSTAT's word (R89). -/
theorem qstat_fields (g : Group) (hq : ∀ j < 4, (g.q.getD j []).length ≤ 16) (hb : g.qb.length ≤ 8) :
    (∀ j < 4, g.qstat.extractLsb' (8 * j) 8 = BitVec.ofNat 8 (g.q.getD j []).length) ∧
    g.qstat.extractLsb' 32 4 = BitVec.ofNat 4 g.qb.length ∧
    g.qstat.getLsbD 36 = g.q.any (fun q => q.any fun p => match p with
      | .fault _ => true
      | _ => false) ∧ g.qstat.toNat < 2 ^ 37 := by
  have he : g.qstat = BitVec.ofNat 64 (qstatNum (fun j => (g.q.getD j []).length) g.qb.length (g.q.any fun q => q.any fun p => match p with
      | .fault _ => true
      | _ => false)) := rfl
  rw [he]
  generalize (g.q.any _) = f
  obtain ⟨hlt, hn, hb, hf⟩ := qstatNum_fields (f := f) hq hb
  generalize qstatNum _ _ f = m at hlt hn hb hf ⊢
  have hw : m < 2 ^ 64 := by omega
  refine ⟨fun j hj => ofNat_field hw (hn j hj), ofNat_field hw hb, ?_, ?_⟩
  · rw [BitVec.getLsbD_ofNat, Nat.testBit_eq_decide_div_mod_eq, hf]
    cases f <;> rfl
  · rw [BitVec.toNat_ofNat, Nat.mod_eq_of_lt hw]
    exact hlt

/-! ### QSYNC (R90) -/

theorem qsync_split (hi : Issues (.qsync gd disp) s g) (hg : (envOf (.qsync gd disp) s g).uguard = true)
    (hp : 1 < g.paths.length ∨ ∃ x ∈ g.ents, x.deferred ≠ none) : Faults (.qsync gd disp) s .qsyncSplit := by
  refine faults_of_body (f := { code := .qsyncSplit }) (body := qsyncBody disp) hi rfl fun h _ => ?_
  have hsp : g.isSplit = true := by
    unfold Group.isSplit
    rw [Bool.or_eq_true, decide_eq_true_eq, List.any_eq_true]
    exact hp.imp_right fun ⟨x, hx, hn⟩ => ⟨x, hx, Option.isSome_iff_ne_none.2 hn⟩
  exact (whenGuard_of_guard hg _).trans (if_pos hsp)

theorem qsync_restarts (hi : Issues (.qsync gd disp) s g) (hg : (envOf (.qsync gd disp) s g).uguard = true) (hp : g.paths.length = 1)
    (he : ∀ x ∈ g.ents, x.deferred = none)
    (ht : s.isTarget g.gid.cluster g.slot (dispTarget g.aentry disp) = true) :
    Leaves (.qsync gd disp) s g fun k =>
      { k with
        q := [[], [], [], []], qb := [], apc := dispTarget g.aentry disp, ast := .run, aline := none, astall := false, ayield := 0, apassed := [],
        qbar := s.nextId,
        ops := k.ops.filter fun o => match o.kind with
          | .ldq _ _ _ => false
          | _ => true } := by
  refine leaves_of_body (body := qsyncBody disp) hi rfl (fun h => ?_) fun h n => by cases s.cur.sl <;> rfl
  have hsp : g.isSplit = false := by
    unfold Group.isSplit
    rw [Bool.or_eq_false_iff, decide_eq_false_iff_not, List.any_eq_false]
    exact ⟨by omega, fun x hx => by rw [he x hx]; exact Bool.false_ne_true⟩
  have hc : (s.setG s.cur.g h).isTarget g.gid.cluster g.slot (dispTarget g.aentry disp) = true := ht
  unfold State.isTarget at hc
  refine (whenGuard_of_guard hg _).trans ((if_neg (Bool.eq_false_iff.1 hsp)).trans ?_)
  show (match (s.setG s.cur.g h).checkTarget g.gid.cluster g.slot (dispTarget g.aentry disp) with
    | .error x => _
    | .ok _ => _) = _
  cases hk : (s.setG s.cur.g h).checkTarget g.gid.cluster g.slot (dispTarget g.aentry disp) with
  | ok _ => rfl
  | error _ => rw [hk] at hc; exact absurd hc Bool.false_ne_true

/-- Settles O25: each instruction's effect by its branches, QSTAT's word by its fields. -/
theorem queueBackAndSync : Obligations.QueueBackAndSync := by
  unfold Obligations.QueueBackAndSync
  intro s g hd gd a d disp hs
  refine ⟨fun hi hg => ⟨qbpush_appends hi hg, qbpush_stalls hi hg, fun hl f q b ha => qbpush_halted hi hg hl ha, qbpush_overrun hi hg⟩,
    ?_, ?_, fun hi hg => ⟨qsync_split hi hg, qsync_restarts hi hg⟩⟩
  · rintro hi n rfl
    exact ⟨qbpop_stalls hi, fun x r hq => qbpop_pops hi hs hq⟩
  · rintro hi n rfl
    obtain ⟨k, gt, hp, hx, hg, hk, hkp, hv⟩ := qstat_writes hi hs rfl
    refine ⟨k, gt, hp, hx, hg, hk, hkp, ?_⟩
    rw [hv]
    exact qstat_fields g

end Sys2Proof.Machine
end

section
/-! # Addresses, operations of an instruction, and operations that leave (R60, R48, R227) -/

namespace Sys2Proof.Machine

open Sys2Proof.Claims Sys2Proof.Safety

variable {i : Instr} {s : State} {g h : Group}

/-- The sum of a word and a sign-extended offset, modulo the word's width (R60). -/
theorem add_signExtend_toNat {w : Nat} (x : BitVec w) (off : BitVec 21) (hw : 21 ≤ w) :
    (x + off.signExtend w).toNat = (((x.toNat : Int) + off.toInt) % 2 ^ w).toNat := by
  have ho : off.toInt = (off.signExtend w).toInt := by rw [BitVec.toInt_signExtend_of_le hw]
  rw [ho, BitVec.toInt_eq_toNat_bmod, Int.bmod_def]
  have hp : ((2 ^ w : Nat) : Int) = (2 : Int) ^ w := by push_cast; rfl
  rw [BitVec.toNat_add]
  have e : (((x.toNat + (off.signExtend w).toNat) % 2 ^ w : Nat) : Int) = ((x.toNat : Int) + ((off.signExtend w).toNat : Int)) % 2 ^ w := by push_cast; rfl
  have e2 : ∀ z : Int, ((x.toNat : Int) + z) % 2 ^ w = (((x.toNat + (off.signExtend w).toNat) % 2 ^ w : Nat) : Int) →
      (x.toNat + (off.signExtend w).toNat) % 2 ^ w = (((x.toNat : Int) + z) % 2 ^ w).toNat := fun z hz => by rw [hz]; rfl
  apply e2
  rw [e, hp]
  split
  · rw [Int.add_emod_emod]
  · rw [← Int.add_sub_assoc, Int.sub_emod_right, Int.add_emod_emod]

/-- The state of an issued instruction, with its group as it then is, once the caches have noted what it used (R326, R332). -/
def State.noted (s : State) (h : Group) (cs : List Context) (tl : Tlbs) : State := { s.setG s.cur.g h with ctxs := cs, tlbs := tl }

theorem noteTlbs_noted (cl slot : Nat) (vas : List Nat) : ∃ tl, (s.setG s.cur.g h).noteTlbs cl slot vas = s.noted h s.ctxs tl :=
  ⟨_, State.noteTlbs_frame cl slot vas (s.setG s.cur.g h)⟩

theorem noteAcc_noted (k : Group) (sp : MSpace) (acc : List (Nat × Nat × Nat)) :
    ∃ cs tl, cs.map blankCaches = s.ctxs.map blankCaches ∧ (s.setG s.cur.g h).noteAcc k sp acc = s.noted h cs tl :=
  ⟨_, _, (State.noteAcc_frame (s.setG s.cur.g h) k sp acc).2, (State.noteAcc_frame (s.setG s.cur.g h) k sp acc).1⟩

theorem mapG_noted (hg : s.groups[s.cur.g]? = some g) (cs : List Context) (tl : Tlbs) (F : Group → Group) :
    (s.noted h cs tl).mapG s.cur.g F = s.noted (F h) cs tl := by
  unfold State.noted
  rw [← mapG_setG hg]
  rfl

/-- An operation issued in flight. -/
theorem issueOp_noted (hg : s.groups[s.cur.g]? = some g) (cs : List Context) (tl : Tlbs) (i : Instr) (o : Op) {b : Bool} (hb : (g.dmode && b) = false) :
    (s.noted h cs tl).issueOp (envOf i s g) o b = .ok { s.setG s.cur.g (h.addOp o) with nextId := s.nextId + 1, ctxs := cs, tlbs := tl } := by
  unfold State.issueOp
  rw [show ((envOf i s g).g.dmode && b) = false from hb]
  exact congrArg (fun t : State => Except.ok { t with nextId := s.nextId + 1 }) (mapG_noted hg cs tl fun k => k.addOp o)

/-- An operation issued into the commit buffer of a D-mode group. -/
theorem issueOp_buffered (hg : s.groups[s.cur.g]? = some g) (cs : List Context) (tl : Tlbs) (i : Instr) (o : Op) {b : Bool} (hb : (g.dmode && b) = true)
    (hl : g.cbuf.length < 512) :
    (s.noted h cs tl).issueOp (envOf i s g) o b = .ok { s.setG s.cur.g (h.bufOp o) with nextId := s.nextId + 1, ctxs := cs, tlbs := tl } := by
  unfold State.issueOp
  rw [show ((envOf i s g).g.dmode && b) = true from hb, if_pos rfl]
  refine (if_neg (show ¬ 512 ≤ g.cbuf.length by omega)).trans ?_
  exact congrArg (fun t : State => Except.ok { t with nextId := s.nextId + 1 }) (mapG_noted hg cs tl fun k => k.bufOp o)

/-- The fields that `Env.op` gives an operation. -/
theorem opOf_op (i : Instr) (s : State) (g : Group) (k : OpKind) (ok : OKind) (sc : Scope) (ds : List RegRef) (b : Bool) :
    OpOf i s (envOf i s g) ((envOf i s g).op k ok sc ds b) := ⟨rfl, rfl, rfl, rfl, rfl, rfl, rfl, rfl, rfl⟩

/-! ### An operation that leaves its group -/

theorem lowerFlag_frame (g : Group) (f : Option Nat) : g.lowerFlag f = { g with flags := (g.lowerFlag f).flags } := by
  cases f <;> rfl

theorem complete_frame (g : Group) (o : Op) :
    g.complete o = { g with ops := (g.complete o).ops, flags := (g.complete o).flags, acks := (g.complete o).acks } := by
  unfold Group.complete Group.dropOp
  dsimp only
  rw [lowerFlag_frame (g.lowerFlag o.flag), lowerFlag_frame g]

theorem complete_ops (g : Group) (o : Op) : (g.complete o).ops = (g.ops.filter (·.id != o.id)).filter fun x =>
    x.kind != .marker || (((g.dropOp o).pending (g.dropOp o).ops).map (·.id)).contains x.id := by
  have hd : (g.dropOp o).ops = ((g.lowerFlag o.flag).lowerFlag o.flag2).ops.filter (·.id != o.id) := rfl
  have hl : ((g.lowerFlag o.flag).lowerFlag o.flag2).ops = g.ops := by rw [lowerFlag_frame (g.lowerFlag o.flag), lowerFlag_frame g]
  rw [hl] at hd
  show (g.dropOp o).ops.filter _ = _
  rw [hd]

/-- `Group.complete` is what R48 and R227 say of an operation that ends. -/
theorem left_complete (g : Group) (o : Op) : Left g (g.complete o) o := by
  refine ⟨fun x hx => ?_, fun x hx hid hk => ?_, rfl, ?_⟩
  · rw [complete_ops, List.mem_filter, List.mem_filter, bne_iff_ne] at hx
    exact hx.1
  · rw [complete_ops, List.mem_filter, List.mem_filter, bne_iff_ne, Bool.or_eq_true, bne_iff_ne]
    exact ⟨⟨hx, hid⟩, Or.inl hk⟩
  · show (if o.counted then ((g.lowerFlag o.flag).lowerFlag o.flag2).acks - 1 else ((g.lowerFlag o.flag).lowerFlag o.flag2).acks) = _
    rw [lowerFlag_frame (g.lowerFlag o.flag), lowerFlag_frame g]

theorem findOp_group {gi k : Nat} {o : Op} (h : s.findOp gi k = some (g, o)) : s.groups[gi]? = some g ∧ o ∈ g.ops ∧ o.id = k := by
  unfold State.findOp at h
  split at h
  · next g' hg =>
    obtain ⟨x, hx, he⟩ := Option.map_eq_some_iff.1 h
    cases he
    exact ⟨hg, List.mem_of_find?_eq_some hx, by simpa using List.find?_some hx⟩
  · cases h

end Sys2Proof.Machine
end

section
/-! # LDQ and the return of its data (O24) -/

namespace Sys2Proof.Machine

open Sys2Proof.Claims Sys2Proof.Safety

variable {s : State} {g h : Group} {gd : Guard} {q : BitVec 2} {cp : CacheP} {a : Operand} {off : BitVec 21}

/-- An instruction that only the A-slice executes issues in the A-slice (R17). -/
theorem slice_of_aOnly {i : Instr} (hi : Issues i s g) (ha : i.aOnly = true) : s.cur.sl = .a := by
  have hl := hi.legal
  unfold decodeFault at hl
  split at hl
  · cases hl
  · split at hl
    · cases hl
    · next ho =>
      simp only [operandsOk, Bool.not_eq_true', Bool.not_eq_false, Bool.and_eq_true] at ho
      obtain ⟨⟨⟨⟨hsl, -⟩, -⟩, -⟩, -⟩ := ho
      cases hs : s.cur.sl with
      | a => rfl
      | c => rw [hs] at hsl; simp [ha] at hsl

/-- The address that an LDQ reads (R82). -/
def ldqAddr (e : Env) (a : Operand) (off : BitVec 21) : Nat := (e.rd a true 0 + off.signExtend 64).toNat

theorem ldqAddr_eq (e : Env) (a : Operand) (off : BitVec 21) : ldqAddr e a off = ((((e.rd a true 0).toNat : Int) + off.toInt) % 2 ^ 64).toNat :=
  add_signExtend_toNat _ off (by omega)

theorem ldq_stalls (hi : Issues (.ldq gd q cp a off) s g) (hq : g.regs.slip ≤ (g.q.getD q.toNat []).length) : Stalls (.ldq gd q cp a off) s := by
  refine stalls_of_body (body := ldqBody q a off) hi rfl fun h _ => if_pos ?_
  show g.ldqStalls q.toNat = true
  unfold Group.ldqStalls
  rw [decide_eq_true hq, Bool.true_or]

theorem ldqStalls_false (hq : (g.q.getD q.toNat []).length < g.regs.slip) (hw : g.qsyncWaits = false) : ¬ g.ldqStalls q.toNat = true := by
  unfold Group.ldqStalls
  rw [hw, Bool.or_false, decide_eq_true_eq]
  omega

/-- The operation of an LDQ that issues. -/
def ldqOp (e : Env) (q : BitVec 2) (x : Nat) (ks : List Nat) : Op :=
  { e.op (.ldq q.toNat ((e.g.qh.getD q.toNat 0 + (e.g.q.getD q.toNat []).length) % 16) ks) .ld .grp [] false with addrs := [(0, x)] }

theorem ldqBody_ok (hq : (g.q.getD q.toNat []).length < g.regs.slip) (hw : g.qsyncWaits = false) (i : Instr) {ks : List Nat}
    (hk : s.taggedKeys g (ldqAddr (envOf i s g) a off) 128 4 needR = .ok ks) :
    ldqBody q a off (envOf i s g) (s.setG s.cur.g h) =
      (((s.setG s.cur.g h).noteTlbs g.gid.cluster g.slot (pagesOf (ldqAddr (envOf i s g) a off) 128)).mapG s.cur.g fun k =>
        { k with q := k.q.modify q.toNat (· ++ [QPos.reserved]) }).issueOp (envOf i s g) (ldqOp (envOf i s g) q (ldqAddr (envOf i s g) a off) ks) false := by
  refine (if_neg (ldqStalls_false hq hw)).trans ?_
  have hk' : (s.setG s.cur.g h).taggedKeys g (ldqAddr (envOf i s g) a off) 128 4 needR = .ok ks := hk
  show (match (s.setG s.cur.g h).taggedKeys g (ldqAddr (envOf i s g) a off) 128 4 needR with
    | .error f => _
    | .ok ks => _) = _
  rw [hk']
  rfl

theorem ldq_reserves (hi : Issues (.ldq gd q cp a off) s g) (hq : (g.q.getD q.toNat []).length < g.regs.slip) (hw : g.qsyncWaits = false) {ks : List Nat}
    (hk : s.taggedKeys g (ldqAddr (envOf (.ldq gd q cp a off) s g) a off) 128 4 needR = .ok ks) :
    Queues (.ldq gd q cp a off) s g fun k => Group.addOp { k with q := k.q.modify q.toNat (· ++ [QPos.reserved]) }
      (ldqOp (envOf (.ldq gd q cp a off) s g) q (ldqAddr (envOf (.ldq gd q cp a off) s g) a off) ks) := by
  refine queues_of_body (body := ldqBody q a off) hi rfl (fun h _ => ?_) fun h n => ?_
  · obtain ⟨tl, ht⟩ := noteTlbs_noted (h := h) (s := s) g.gid.cluster g.slot (pagesOf (ldqAddr (envOf (.ldq gd q cp a off) s g) a off) 128)
    refine ⟨s.ctxs, tl, rfl, (ldqBody_ok hq hw _ hk).trans ?_⟩
    rw [ht, mapG_noted hi.here, issueOp_noted hi.here _ _ _ _ (Bool.and_false _)]
  · rw [retire_addOp]
    cases s.cur.sl <;> rfl

theorem stop_ldq (hs : s.snap = none) (ha : s.cur.sl = .a) (hg : s.groups[s.cur.g]? = some g) (f : FaultInfo) (k : Nat) :
    s.stop (.fault f) (some k) = { s with
      groups := s.groups.set s.cur.g { g with ast := .halted f (some k) false, q := g.q.modify k (· ++ [QPos.fault f]) }, last := .faulted f.code } := by
  have hx : s.stop (.fault f) (some k) = (s.mapG s.cur.g fun g => g.haltA f (some k)).report (.faulted f.code) := by
    unfold State.stop
    simp only [hs, ha]
  rw [hx, State.mapG, modify_eq_set hg]
  rfl

theorem ldq_faults (hi : Issues (.ldq gd q cp a off) s g) (hq : (g.q.getD q.toNat []).length < g.regs.slip) (hw : g.qsyncWaits = false) {c : FCode} {ad : Nat}
    (hk : s.taggedKeys g (ldqAddr (envOf (.ldq gd q cp a off) s g) a off) 128 4 needR = .error (c, ad)) :
    exec (.ldq gd q cp a off) s = .next { s with
      groups := s.groups.set s.cur.g { g with
        ast := .halted { code := c, addr := ad } (some q.toNat) false, q := g.q.modify q.toNat (· ++ [QPos.fault { code := c, addr := ad }]) },
      last := .faulted c } := by
  refine (exec_of_stop (st := .fault { code := c, addr := ad, lane := 255 }) (body := ldqBody q a off) hi rfl fun h _ => ?_).trans ?_
  · refine (if_neg (ldqStalls_false hq hw)).trans ?_
    have hk' : (s.setG s.cur.g h).taggedKeys g (ldqAddr (envOf (.ldq gd q cp a off) s g) a off) 128 4 needR = .error (c, ad) := hk
    show (match (s.setG s.cur.g h).taggedKeys g (ldqAddr (envOf (.ldq gd q cp a off) s g) a off) 128 4 needR with
      | .error f => _
      | .ok ks => _) = _
    rw [hk']
    rfl
  · exact congrArg _ (stop_ldq hi.alone (slice_of_aOnly hi rfl) hi.here _ _)

/-- What an LDQ's data return puts into its position (R81, R84). -/
def ldqEntry (s : State) (g : Group) (o : Op) (ks : List Nat) (ecc : Bool) : QPos :=
  if ecc then .fault { code := .eccUncorrected, addr := (o.addrs.headD (0, 0)).2 }
  else .data (lanes.map fun l => BitVec.ofNat 32 (wordOfBytes ((ks.drop (4 * l)).take 4 |>.map (s.seen g s.nextId))))

theorem countEcc_keeps (s : State) (k : Nat) : (s.countEcc k).groups = s.groups := by
  unfold State.countEcc
  split <;> rfl

theorem ldqReturn_enters {gi k q pos : Nat} {ecc : Bool} {o : Op} {ks : List Nat} (hf : s.findOp gi k = some (g, o)) (ho : o.kind = .ldq q pos ks) :
    exec (.ldqDataReturn gi k ecc) s = .next { (if ecc then s.countEcc (ks.headD 0) else s) with
      groups := s.groups.set gi { g.complete o with q := g.q.modify q fun ps => ps.set ((pos + 16 - g.qh.getD q 0) % 16) (ldqEntry s g o ks ecc) },
      last := .event } := by
  refine (eventOf_eq (t := (if ecc then s.countEcc (ks.headD 0) else s).setG gi
    { g.complete o with q := g.q.modify q fun ps => ps.set ((pos + 16 - g.qh.getD q 0) % 16) (ldqEntry s g o ks ecc) }) ?_).trans ?_
  · unfold ldqReturnBody
    rw [hf]
    dsimp only
    rw [ho]
    dsimp only
    have hq : (g.complete o).q = g.q := by rw [complete_frame]
    rw [hq]
    cases ecc <;> rfl
  · have hg : (if ecc then s.countEcc (ks.headD 0) else s).groups = s.groups := by
      cases ecc
      · rfl
      · exact countEcc_keeps s _
    unfold State.setG State.report
    rw [hg]

/-- Settles O24, by LDQ's branches and by what a data return puts into the position. -/
theorem hodQueueLoad : Obligations.HodQueueLoad := by
  unfold Obligations.HodQueueLoad
  refine ⟨?_, fun s gi k ecc g o q pos ks hf ho => ?_⟩
  · intro s g gd q cp a off i e x qs hi
    have hx : x.toNat = ldqAddr e a off := (ldqAddr_eq e a off).symm
    refine ⟨ldq_stalls hi, fun hq hw ks hk => ?_, fun hq hw c ad hk => ?_⟩
    · rw [hx] at hk ⊢
      exact ⟨ldqOp e q (ldqAddr e a off) ks, ⟨rfl, rfl, rfl, rfl, rfl, rfl, rfl, rfl, rfl⟩, rfl, rfl, rfl, ldq_reserves hi hq hw hk⟩
    · rw [hx] at hk
      exact ⟨_, rfl, rfl, ldq_faults hi hq hw hk⟩
  · refine ⟨_, ldqEntry s g o ks ecc, ldqReturn_enters hf ho, left_complete g o, ?_, ?_, ?_⟩
    · dsimp only
      rw [complete_frame]
    · rintro rfl
      rfl
    · rintro rfl
      refine ⟨_, rfl, by simp [lanes], fun l hl => ?_⟩
      simp [lanes, hl]

end Sys2Proof.Machine
end

section
/-! # Loads and stores issue (O20) -/

namespace Sys2Proof.Machine

open Sys2Proof.Claims Sys2Proof.Safety

variable {i : Instr} {s : State} {g h : Group}

/-! ### The check pass (R60, R68) -/

theorem address_eq (e : Env) (sp : MSpace) (a : Operand) (off : BitVec 21) (l : Nat) : e.address sp a off l = accessAddr e sp a off l := by
  unfold Env.address accessAddr
  split
  · exact add_signExtend_toNat _ off (by omega)
  · exact add_signExtend_toNat _ off (by omega)

theorem accLanes_eq (e : Env) (uni : Bool) : e.accLanes uni = accessLanes e uni := rfl

theorem spaceKey_setG (k : Nat) (sp : MSpace) (l a n : Nat) (rd wr at_ : Bool) : (s.setG k h).spaceKey g sp l a n rd wr at_ = s.spaceKey g sp l a n rd wr at_ := by
  cases sp <;> rfl

theorem laneKey_setG (k : Nat) (sp : MSpace) (n l a : Nat) (rd wr at_ : Bool) : (s.setG k h).laneKey g sp n l a rd wr at_ = s.laneKey g sp n l a rd wr at_ := by
  unfold State.laneKey
  rw [spaceKey_setG]

theorem laneKey_ok {sp : MSpace} {n l a key : Nat} {wr : Bool} (h : AccessOk s g sp n l a key wr) : s.laneKey g sp n l a (!wr) wr false = .ok key := by
  obtain ⟨hr, hm, hk⟩ := h
  unfold State.laneKey
  rw [if_neg fun hw => absurd (hr hw.1) (by omega), if_neg (not_not.2 hm), hk]
  rfl

/-- An access whose lanes pass their checks: the lane, the address and the key of each. -/
theorem checkPass_ok {e : Env} {sp : MSpace} {n : Nat} {uni : Bool} {a : Operand} {off : BitVec 21} {key : Nat → Nat} {wr : Bool} (k : Nat)
    (hk : ∀ l ∈ accessLanes e uni, AccessOk s g sp n l (accessAddr e sp a off l) (key l) wr) :
    (s.setG k h).checkPass g sp n (e.accLanes uni) (e.address sp a off) (!wr) wr false =
      .ok ((accessLanes e uni).map fun l => (l, accessAddr e sp a off l, key l)) := by
  unfold State.checkPass
  refine Tests.mapM_ok _ _ _ fun l hl => ?_
  rw [laneKey_setG, address_eq, laneKey_ok (hk l hl)]

/-- The accesses of no lane note nothing. -/
theorem noteAcc_nil (s : State) (g : Group) (sp : MSpace) : s.noteAcc g sp [] = s := by cases sp <;> rfl

/-- An effect that leaves the state of its issue as it is. -/
theorem passes_of_started (hi : Issues i s g) {body : Env → State → Except Stop State} (hx : exec i s = issue i body s)
    (hb : ∀ h, body (envOf i s g) (s.setG s.cur.g h) = .ok (s.setG s.cur.g h)) : Passes i s g := by
  obtain ⟨h, st, hn⟩ := issue_mapG (F := fun g => g) hi fun h => by rw [mapG_self]; exact hb h
  exact ⟨_, passed_retire st _, hx.trans hn⟩

/-! ### Loads (R64-R68, R75, R78) -/

section Load

variable {sp : MSpace} {w : Width} {sx : Bool} {o : OrdScope} {d a : Operand} {off : BitVec 21} {take : Option PReg} {key : Nat → Nat}

/-- The registers and the predicate that a load writes. -/
def loadDsts (w : Width) (d : Operand) (take : Option PReg) : List RegRef :=
  destRefs d w.regs ++ (match take with
    | some px => predRefs [px.toNat]
    | none => [])

/-- The operation of a load that issues: each of its lanes with its key. -/
def loadOp (e : Env) (sp : MSpace) (w : Width) (sx : Bool) (o : OrdScope) (d a : Operand) (off : BitVec 21) (take : Option PReg) (key : Nat → Nat) : Op :=
  { e.op (.load ((accessLanes e d.isS).map fun l => (l, key l)) w.bytes sx d d.isS take) (ldKind o.ord) o.scope (loadDsts w d take) false with
    sp := sp, plain := take.isNone, addrs := (accessLanes e d.isS).map fun l => (if d.isS then 0 else l, accessAddr e sp a off l) }

/-- What a load does after its check pass. -/
theorem loadBody_checked
    (hk : ∀ l ∈ accessLanes (envOf i s g) d.isS, AccessOk s g sp w.bytes l (accessAddr (envOf i s g) sp a off l) (key l) false) :
    loadBody sp w sx o d a off take (envOf i s g) (s.setG s.cur.g h) =
      let t := (s.setG s.cur.g h).noteAcc g sp ((accessLanes (envOf i s g) d.isS).map fun l => (l, accessAddr (envOf i s g) sp a off l, key l))
      if (accessLanes (envOf i s g) d.isS).isEmpty then .ok t
      else if take.isNone ∧ 8 ≤ g.plainLoads then .error .stall
      else if g.dmode ∧ take.isSome then
        if g.mustWait g.ops (envOf i s g).p.id (envOf i s g).p.born (ldKind o.ord) (loadOp (envOf i s g) sp w sx o d a off take key).keys then .error .stall
        else .ok ({ t with nextId := t.nextId + 1 }.performLoad s.cur.g ((t.groups[s.cur.g]?).getD g)
          { loadOp (envOf i s g) sp w sx o d a off take key with flag := none })
      else t.issueOp (envOf i s g) (loadOp (envOf i s g) sp w sx o d a off take key) false := by
  have hc := checkPass_ok (h := h) s.cur.g hk
  unfold loadBody
  rw [show (envOf i s g).g = g from rfl]
  simp only [Bool.not_false] at hc
  dsimp only
  rw [hc]
  dsimp only
  rw [List.isEmpty_map]
  unfold loadOp loadDsts
  simp only [List.map_map, Function.comp_def]
  rfl

theorem load_passes (hi : Issues i s g) (hx : exec i s = issue i (loadBody sp w sx o d a off take) s) (hl : accessLanes (envOf i s g) d.isS = []) :
    Passes i s g := by
  refine passes_of_started hi hx fun h => ?_
  rw [loadBody_checked (key := fun _ => 0) fun l hm => by rw [hl] at hm; cases hm]
  rw [hl]
  exact congrArg _ (noteAcc_nil _ _ _)

theorem load_stalls (hi : Issues i s g) (hx : exec i s = issue i (loadBody sp w sx o d a off take) s)
    (hk : ∀ l ∈ accessLanes (envOf i s g) d.isS, AccessOk s g sp w.bytes l (accessAddr (envOf i s g) sp a off l) (key l) false)
    (hl : accessLanes (envOf i s g) d.isS ≠ []) (ht : take = none) (h8 : 8 ≤ g.plainLoads) : Stalls i s := by
  refine stalls_of_body hi hx fun h _ => ?_
  rw [loadBody_checked hk]
  dsimp only
  rw [if_neg (by rwa [List.isEmpty_iff]), if_pos ⟨by rw [ht]; rfl, h8⟩]

theorem load_queues (hi : Issues i s g) (hx : exec i s = issue i (loadBody sp w sx o d a off take) s)
    (hk : ∀ l ∈ accessLanes (envOf i s g) d.isS, AccessOk s g sp w.bytes l (accessAddr (envOf i s g) sp a off l) (key l) false)
    (hl : accessLanes (envOf i s g) d.isS ≠ []) (hd : take = none ∨ g.dmode = false) (h8 : take = none → g.plainLoads < 8) :
    Queues i s g fun k => k.addOp (loadOp (envOf i s g) sp w sx o d a off take key) := by
  refine queues_of_body hi hx (fun h _ => ?_) fun h n => retire_addOp h _ _ n
  rw [loadBody_checked hk]
  dsimp only
  rw [if_neg (by rwa [List.isEmpty_iff]), if_neg fun hw => absurd (h8 (Option.isNone_iff_eq_none.1 hw.1)) (by omega), if_neg ?_]
  · obtain ⟨cs, tl, hcs, ht⟩ := noteAcc_noted (h := h) (s := s) g sp
      ((accessLanes (envOf i s g) d.isS).map fun l => (l, accessAddr (envOf i s g) sp a off l, key l))
    refine ⟨cs, tl, hcs, ?_⟩
    rw [ht]
    exact issueOp_noted hi.here cs tl i _ (Bool.and_false _)
  · rintro ⟨hg, hs⟩
    rcases hd with rfl | hd
    · exact absurd hs Bool.false_ne_true
    · rw [hd] at hg
      exact absurd hg Bool.false_ne_true

theorem refs_data (d : Operand) (n al : Nat) : Use.refs ⟨d, .data, n, al, true⟩ = destRefs d n := by cases d <;> rfl

/-- The effect of each load form. -/
theorem loadForms_exec {hd : Head} {cp : CacheP} {px : PReg} {f : LoadForm} (hf : f ∈ loadForms hd w sx o cp d a off px) (s : State) :
    exec f.i s = issue f.i (loadBody f.sp w sx o d a off f.take) s := by
  simp only [loadForms, List.mem_cons, List.not_mem_nil, or_false] at hf
  rcases hf with rfl | rfl | rfl | rfl | rfl | rfl | rfl <;> rfl

/-- The registers that each load form writes. -/
theorem loadForms_dsts {hd : Head} {cp : CacheP} {px : PReg} {f : LoadForm} (hf : f ∈ loadForms hd w sx o cp d a off px) : loadDsts w d f.take = f.i.dsts := by
  have hr : loadDsts w d none = Use.refs ⟨d, .data, w.regs, w.regs, true⟩ ++ [] := by rw [refs_data]; rfl
  have hp : ∀ p : PReg, loadDsts w d (some p) = Use.refs ⟨d, .data, w.regs, w.regs, true⟩ ++ predRefs [p.toNat] := fun p => by rw [refs_data]; rfl
  simp only [loadForms, List.mem_cons, List.not_mem_nil, or_false] at hf
  rcases hf with rfl | rfl | rfl | rfl | rfl | rfl | rfl <;> simp only [hr, hp] <;> exact congrArg (· ++ _) (List.append_nil _).symm

end Load

/-! ### Stores (R64-R68, R78, R236) -/

section Store

variable {sp : MSpace} {w : Width} {o : OrdScope} {a b : Operand} {off : BitVec 21} {fill : Option PReg} {key : Nat → Nat}

/-- The lanes, keys and values of a store. -/
def storeVals (e : Env) (w : Width) (a b : Operand) (key : Nat → Nat) : List (Nat × Nat × Nat) :=
  (accessLanes e (!a.isV && !b.isV)).map fun l => (l, key l, e.num b w.regs l % 2 ^ (8 * w.bytes))

/-- The operation of a store that issues. -/
def storeOp (e : Env) (sp : MSpace) (w : Width) (o : OrdScope) (a b : Operand) (fill : Option PReg) (key : Nat → Nat) : Op :=
  { e.op (match fill with
      | none => .store (storeVals e w a b key) w.bytes
      | some px => .fill (storeVals e w a b key) w.bytes px (!a.isV && !b.isV)) (stKind o.ord) o.scope (match fill with
      | some px => predRefs [px.toNat]
      | none => []) true with sp := sp }

/-- What a store does after its check pass. -/
theorem storeBody_checked
    (hk : ∀ l ∈ accessLanes (envOf i s g) (!a.isV && !b.isV), AccessOk s g sp w.bytes l (accessAddr (envOf i s g) sp a off l) (key l) true) :
    storeBody sp w o a b off fill (envOf i s g) (s.setG s.cur.g h) =
      let t := (s.setG s.cur.g h).noteAcc g sp ((accessLanes (envOf i s g) (!a.isV && !b.isV)).map fun l =>
        (l, accessAddr (envOf i s g) sp a off l, key l))
      if (accessLanes (envOf i s g) (!a.isV && !b.isV)).isEmpty then .ok t
      else t.issueOp (envOf i s g) (storeOp (envOf i s g) sp w o a b fill key)
        (dmodeBuffers g sp o fill.isSome (storeOp (envOf i s g) sp w o a b fill key).keys) := by
  have hc := checkPass_ok (h := h) s.cur.g hk
  unfold storeBody
  rw [show (envOf i s g).g = g from rfl]
  simp only [Bool.not_true] at hc
  dsimp only
  rw [hc]
  dsimp only
  rw [List.isEmpty_map]
  unfold storeOp storeVals
  simp only [List.map_map, Function.comp_def]
  cases fill <;> rfl

theorem store_passes (hi : Issues i s g) (hx : exec i s = issue i (storeBody sp w o a b off fill) s)
    (hl : accessLanes (envOf i s g) (!a.isV && !b.isV) = []) : Passes i s g := by
  refine passes_of_started hi hx fun h => ?_
  rw [storeBody_checked (key := fun _ => 0) fun l hm => by rw [hl] at hm; cases hm]
  rw [hl]
  exact congrArg _ (noteAcc_nil _ _ _)

theorem store_queues (hi : Issues i s g) (hx : exec i s = issue i (storeBody sp w o a b off fill) s)
    (hk : ∀ l ∈ accessLanes (envOf i s g) (!a.isV && !b.isV), AccessOk s g sp w.bytes l (accessAddr (envOf i s g) sp a off l) (key l) true)
    (hl : accessLanes (envOf i s g) (!a.isV && !b.isV) ≠ []) (hc : g.cbuf.length < 512) :
    Queues i s g fun k =>
      if g.dmode && dmodeBuffers g sp o fill.isSome (storeOp (envOf i s g) sp w o a b fill key).keys
      then k.bufOp (storeOp (envOf i s g) sp w o a b fill key) else k.addOp (storeOp (envOf i s g) sp w o a b fill key) := by
  refine queues_of_body hi hx (fun h _ => ?_) fun h n => ?_
  · rw [storeBody_checked hk]
    dsimp only
    rw [if_neg (by rwa [List.isEmpty_iff])]
    obtain ⟨cs, tl, hcs, ht⟩ := noteAcc_noted (h := h) (s := s) g sp
      ((accessLanes (envOf i s g) (!a.isV && !b.isV)).map fun l => (l, accessAddr (envOf i s g) sp a off l, key l))
    refine ⟨cs, tl, hcs, ?_⟩
    rw [ht]
    split
    · next hb => exact issueOp_buffered hi.here cs tl i _ hb hc
    · next hb => exact issueOp_noted hi.here cs tl i _ (Bool.eq_false_iff.2 hb)
  · split
    · exact retire_bufOp h _ _ n
    · exact retire_addOp h _ _ n

/-- The effect of each store form. -/
theorem storeForms_exec {hd : Head} {cp : CacheP} {px : PReg} {f : StoreForm} (hf : f ∈ storeForms hd w o cp a b off px) (s : State) :
    exec f.i s = issue f.i (storeBody f.sp w o a b off f.fill) s := by
  simp only [storeForms, List.mem_cons, List.not_mem_nil, or_false] at hf
  rcases hf with rfl | rfl | rfl | rfl | rfl | rfl | rfl <;> rfl

/-- The predicate that each store form writes. -/
theorem storeForms_dsts {hd : Head} {cp : CacheP} {px : PReg} {f : StoreForm} (hf : f ∈ storeForms hd w o cp a b off px) (e : Env) (key : Nat → Nat) :
    (storeOp e f.sp w o a b f.fill key).dsts = f.i.dsts := by
  simp only [storeForms, List.mem_cons, List.not_mem_nil, or_false] at hf
  rcases hf with rfl | rfl | rfl | rfl | rfl | rfl | rfl <;> rfl

end Store

/-- Settles O20: what a load and a store do after their check pass, for each form. -/
theorem loadsAndStoresIssue : Obligations.LoadsAndStoresIssue := by
  unfold Obligations.LoadsAndStoresIssue
  constructor
  · intro s g hd w sx o cp d a off px key f hf e ls hi ht hk
    have hx := loadForms_exec hf s
    refine ⟨load_passes hi hx, load_stalls hi hx hk, fun hl h8 => ⟨loadOp e f.sp w sx o d a off f.take key, ?_, rfl, rfl, rfl, loadForms_dsts hf, rfl, rfl,
      rfl, rfl, load_queues hi hx hk hl ht h8⟩⟩
    exact ⟨rfl, rfl, rfl, rfl, rfl, rfl, rfl, rfl, rfl⟩
  · intro s g hd w o cp a b off px key f hf e uni ls acc hi hk
    have hx := storeForms_exec hf s
    refine ⟨store_passes hi hx, fun hl hc => ⟨storeOp e f.sp w o a b f.fill key, ?_, rfl, rfl, rfl, storeForms_dsts hf e key, rfl, rfl,
      store_queues hi hx hk hl hc⟩⟩
    exact ⟨rfl, rfl, rfl, rfl, rfl, rfl, rfl, rfl, rfl⟩

end Sys2Proof.Machine
end

section
/-! # A misaligned load of a group with more flags than a group has (O21)

The statement of O21 holds every byte of memory but those that report the fault to what it was, and does not ask for a group of R48's shape. The frame of a
trap holds the group's flags one after the other (R343), so that a group with 40,000 of them writes past its part of the context save area. -/

namespace Sys2Proof.Machine

open Sys2Proof.Claims Sys2Proof.Safety

variable {s : State} {g : Group} {gi fpc cpc pid : Nat} {f : FaultInfo}

/-- A record changes memory in its queue alone. -/
theorem post_get_other {slot x : Nat} {r : Rec} (w : Memory.wf s.mem = true)
    (hx : (s.ctx slot).tqHeader + 64 + 64 * (s.ctx slot).tqN ≤ x) : (s.post slot r).mem.get x = s.mem.get x := by
  by_cases hf : 0 < s.tqFree slot
  · have hn : s.mem.num (s.ctx slot).tqHeader 4 % (s.ctx slot).tqN < (s.ctx slot).tqN := Nat.mod_lt _ (Nat.two_pow_pos _)
    rw [post_mem hf, Mem.setNum, Mem.get_setBytes_other (Memory.wf_setBytes _ _ w) (by rw [length_bytesOfWord]; omega),
      Mem.get_setBytes_other w (by rw [Rec.length_image]; unfold State.recAt; omega)]
  · unfold State.post
    rw [if_neg (show ¬ 1 ≤ s.tqFree slot from hf), writeNum_mem, Mem.setNum, Mem.get_setBytes_other w (by rw [length_bytesOfWord]; omega)]

/-- A byte of a frame that holds a flag. -/
theorem frameBytes_flag (g : Group) (fr : Frame) (n : Nat) {i : Nat} {c m : Nat} (hf : g.flags = List.replicate m c) (hi : i < m) :
    (g.frameBytes fr n).getD (64 + i) 0 = BitVec.ofNat 8 c := by
  have hfl : g.flags.flatMap (bytesOfWord 1) = List.replicate m (BitVec.ofNat 8 c) := by
    rw [hf, List.flatMap_replicate]
    exact List.flatten_replicate_singleton
  unfold Group.frameBytes
  rw [hfl]
  generalize hpre : fr.bytes ++ _ ++ _ ++ _ = pre
  have hlen : pre.length = 64 := by subst hpre; simp [Frame.bytes]
  simp only [List.append_assoc, List.getD_eq_getElem?_getD]
  rw [List.getElem?_append_right (by omega), hlen, Nat.add_sub_cancel_left, List.getElem?_append_left (by rw [List.length_replicate]; exact hi),
    List.getElem?_replicate, if_pos hi]
  rfl

theorem length_frameBytes_ge (g : Group) (fr : Frame) (n : Nat) {c m : Nat} (hf : g.flags = List.replicate m c) : 64 + m ≤ (g.frameBytes fr n).length := by
  have hfl : (g.flags.flatMap (bytesOfWord 1)).length = m := by
    rw [hf, List.flatMap_replicate, List.length_flatten]
    simp
  unfold Group.frameBytes
  simp only [List.length_append, hfl]
  simp [Frame.bytes]
  omega

/-- No load of a group without operations is cancelled. -/
theorem cancelLoads_of_no_ops (ho : g.ops = []) : g.cancelLoads = { g with flags := g.flags, rq := g.replays, ops := g.ops.filter fun o => !o.plain } := by
  unfold Group.cancelLoads Group.replays
  rw [ho]
  rfl

theorem takeTrap_of_no_ops (hg : s.groups[gi]? = some g) (hst : g.st = .trapping f fpc cpc pid) (ho : g.ops = []) :
    s.takeTrap gi = ((s.setG gi (g.trapped g.flags f fpc cpc pid)).writeFrame (g.trapped g.flags f fpc cpc pid) (g.frameOf f fpc cpc pid) false
      g.ents (g.keptPaths pid)).deliver gi f fpc := by
  unfold State.takeTrap
  rw [hg]
  dsimp only
  rw [hst]
  dsimp only
  rw [if_neg (by simp [ho]), cancelLoads_of_no_ops ho]
  rfl

/-- A fault of a group without operations, whose trap no handler takes, leaves a flag's byte in memory where nothing else of the report stands. -/
theorem takeTrap_get_flag (hg : s.groups[gi]? = some g) (hst : g.st = .trapping f fpc cpc pid) (w : Memory.wf s.mem = true) (ho : g.ops = [])
    (hv : g.regs.tvec = 0) {c m i : Nat} (hf : g.flags = List.replicate m c) (hi : i < m) (hlo : 0x3000 ≤ 64 + i)
    (hq : (s.ctx g.slot).tqHeader + 64 + 64 * (s.ctx g.slot).tqN ≤ s.record g + (64 + i)) :
    (s.takeTrap gi).mem.get (s.record g + (64 + i)) = BitVec.ofNat 8 c := by
  have hlt : gi < s.groups.length := (List.getElem?_eq_some_iff.1 hg).1
  rw [takeTrap_of_no_ops hg hst ho]
  have hflags : (g.trapped g.flags f fpc cpc pid).flags = List.replicate m c := hf
  have htv : (g.trapped g.flags f fpc cpc pid).regs.tvec = 0 := hv
  have hslot : (g.trapped g.flags f fpc cpc pid).slot = g.slot := rfl
  have hrec : s.record (g.trapped g.flags f fpc cpc pid) = s.record g := rfl
  generalize g.trapped g.flags f fpc cpc pid = gt at hflags htv hslot hrec
  generalize g.frameOf f fpc cpc pid = fr
  obtain ⟨qs, hu⟩ := writeFrame_group (s := s.setG gi gt) (g := gt) (fr := fr) (ents := g.ents) (ps := g.keptPaths pid) (List.getElem?_set_self hlt)
  obtain ⟨m', gs, he⟩ := State.writeFrame_frame (s.setG gi gt) gt fr false g.ents (g.keptPaths pid)
  have hctx : ∀ k, ((s.setG gi gt).writeFrame gt fr false g.ents (g.keptPaths pid)).ctx k = s.ctx k := fun k => by rw [he]; rfl
  have hlen := length_frameBytes_ge gt fr (g.keptPaths pid).length hflags
  have hb : (s.setG gi gt).record gt = s.record g := hrec
  have hw : Memory.wf ((s.setG gi gt).writeFrame gt fr false g.ents (g.keptPaths pid)).mem = true := State.wf_writeFrame _ _ _ _ _ _ w
  rw [deliver_ends hu (c := f.code) (.inl ⟨.inl htv, rfl⟩), ended_mem, post_get_other hw (by rw [hctx, hslot]; exact hq), writeFrame_mem, hb,
    show (s.setG gi gt).mem = s.mem from rfl,
    Mem.get_setBytes_other (Memory.wf_setBytes _ _ (Memory.wf_setBytes _ _ w)) (by rw [length_operandBlocks]; omega),
    Mem.get_setBytes_other (Memory.wf_setBytes _ _ w) (by rw [length_pathArea]; omega),
    Mem.get_setBytes w (by omega)]
  exact frameBytes_flag _ _ _ hflags hi

/-! ### The state -/

/-- A group of `Tests.base` with 40,000 flags. -/
def flagged : Group := { Tests.baseG with flags := List.replicate 40000 1 }

/-- `Tests.base` with that group. -/
def flaggedState : State := Tests.withG fun _ => flagged

/-- A load at address 1, which no 4-byte access may have. -/
def misalignedLoad : Instr := .lds Tests.h0 .b32 false ⟨.rlx, .grp⟩ .ca (.v 0) (.const 0) 1 false 0

theorem misalignedLoad_issues : Issues misalignedLoad flaggedState flagged := Tests.issues_of rfl (by decide)

theorem not_reportByte_flagged : ¬ ReportByte flaggedState flagged 0x18000 := by
  unfold ReportByte
  decide

theorem flaggedState_wf : Memory.wf flaggedState.mem = true := by decide

theorem flaggedState_get : flaggedState.mem.get 0x18000 = 0 := by decide

theorem record_flagged : flaggedState.record flagged = 0x10000 := by decide

theorem raise_flagged (ht : traps f) : (flaggedState.raise 0 f fpc cpc pid).mem.get 0x18000 = 1 := by
  have hr : flaggedState.record flagged + (64 + 0x7FC0) = 0x18000 := by rw [record_flagged]
  rw [raise_eq_takeTrap (g := flagged) rfl ht, ← hr]
  exact takeTrap_get_flag (g := { flagged with st := .trapping f fpc cpc pid, bwait := [] })
    (s := flaggedState.setG 0 { flagged with st := .trapping f fpc cpc pid, bwait := [] }) (c := 1) (m := 40000) rfl rfl flaggedState_wf rfl rfl rfl
    (by omega) (by omega) (show (flaggedState.ctx flagged.slot).tqHeader + 64 + 64 * (flaggedState.ctx flagged.slot).tqN ≤
      flaggedState.record flagged + (64 + 0x7FC0) by decide)

theorem traps_of_misaligned (h : f.code = .misaligned) : traps f := by
  unfold traps FaultInfo.cls
  rw [h]
  cases f.direct <;> cases f.fatal <;> decide

/-- Refutes O21: the statement asks for no shape of the group. The fault of `misalignedLoad` in `flaggedState` writes a frame with 40,000 flags, and byte 0x18000, which no
report of the group may write, reads 1 where it read 0. -/
theorem not_misalignedFaults : ¬ Obligations.MisalignedFaults := by
  unfold Obligations.MisalignedFaults
  intro h
  obtain ⟨hl, -⟩ := h flaggedState flagged Tests.h0 .b32 false ⟨.rlx, .grp⟩ .ca (.v 0) (.const 0) (.v 0) 1 0 (fun _ => 0) flaggedState_wf
  obtain ⟨-, hm⟩ := hl ⟨misalignedLoad, .s, .b32, false, ⟨.rlx, .grp⟩, .v 0, .const 0, 1, none⟩ (List.mem_cons_of_mem _ List.mem_cons_self) []
    0 ((List.range 32).tail) (by decide) misalignedLoad_issues fun k hk => absurd hk List.not_mem_nil
  obtain ⟨t, -, -, hc, -, hmem⟩ := hm (fun hw => absurd hw (by decide)) (by decide)
  obtain ⟨f, hf, rfl⟩ := hc rfl
  have kept := hmem 0x18000 not_reportByte_flagged
  rw [flaggedState_get] at kept
  exact absurd ((raise_flagged (traps_of_misaligned hf)).symm.trans kept) (by decide)

end Sys2Proof.Machine
end

section
/-! # Loads and stores take effect (O22) -/

namespace Sys2Proof.Machine

open Sys2Proof.Claims Sys2Proof.Safety

variable {s : State} {g : Group}

/-! ### Consecutive registers written (R65, R68) -/

/-- The register that `Group.writeRegs` writes `i` places from its destination. -/
def Group.writeReg (g : Group) (d : Operand) (vals : List (Nat × Nat)) (i : Nat) : Group :=
  match d with
  | .v n => g.setV (n.toNat + i) fun l => (vals.find? (·.1 == l)).map fun p => BitVec.ofNat 32 (p.2 / 2 ^ (32 * i))
  | .s n => match vals with
    | p :: _ => g.setS (n.toNat + i) (BitVec.ofNat 32 (p.2 / 2 ^ (32 * i)))
    | [] => g
  | _ => g

theorem writeRegs_zero (g : Group) (d : Operand) (vals : List (Nat × Nat)) : g.writeRegs d 0 vals = g := rfl

theorem writeRegs_succ (g : Group) (d : Operand) (k : Nat) (vals : List (Nat × Nat)) :
    g.writeRegs d (k + 1) vals = (g.writeRegs d k vals).writeReg d vals k := by
  unfold Group.writeRegs
  rw [List.range_succ, List.foldl_append]
  cases d with
  | s n => cases vals <;> rfl
  | _ => rfl

/-- Writing registers changes the V and S files and what is known of V lines. -/
theorem writeReg_only (g : Group) (d : Operand) (vals : List (Nat × Nat)) (i : Nat) : g.writeReg d vals i = { g with
    regs := { g.regs with v := (g.writeReg d vals i).regs.v, s := (g.writeReg d vals i).regs.s },
    vwr := (g.writeReg d vals i).vwr, vdirty := (g.writeReg d vals i).vdirty } := by
  unfold Group.writeReg
  cases d with
  | v n =>
    dsimp only
    have h := Group.setV_only g (n.toNat + i) fun l => (vals.find? (·.1 == l)).map fun p => BitVec.ofNat 32 (p.2 / 2 ^ (32 * i))
    generalize g.setV _ _ = x at h ⊢
    rw [h]
  | s n => cases vals <;> rfl
  | _ => rfl

theorem writeReg_lengths (g : Group) (d : Operand) (vals : List (Nat × Nat)) (i : Nat) :
    (g.writeReg d vals i).regs.v.length = g.regs.v.length ∧ (g.writeReg d vals i).regs.s.length = g.regs.s.length := by
  unfold Group.writeReg
  cases d with
  | v n => exact ⟨Group.setV_length g _ _, by
      show (Group.setV _ _ _).regs.s.length = _
      rw [Group.setV_only]⟩
  | s n => cases vals with
    | nil => exact ⟨rfl, rfl⟩
    | cons p r => exact ⟨rfl, List.length_set⟩
  | _ => exact ⟨rfl, rfl⟩

theorem writeRegs_only (g : Group) (d : Operand) (vals : List (Nat × Nat)) (k : Nat) : g.writeRegs d k vals = { g with
    regs := { g.regs with v := (g.writeRegs d k vals).regs.v, s := (g.writeRegs d k vals).regs.s },
    vwr := (g.writeRegs d k vals).vwr, vdirty := (g.writeRegs d k vals).vdirty } := by
  induction k with
  | zero => rfl
  | succ k ih =>
    rw [writeRegs_succ, writeReg_only]
    generalize (Group.writeReg _ _ _ _) = x
    rw [ih]

theorem writeRegs_lengths (g : Group) (d : Operand) (vals : List (Nat × Nat)) (k : Nat) :
    (g.writeRegs d k vals).regs.v.length = g.regs.v.length ∧ (g.writeRegs d k vals).regs.s.length = g.regs.s.length := by
  induction k with
  | zero => exact ⟨rfl, rfl⟩
  | succ k ih =>
    rw [writeRegs_succ]
    exact ⟨(writeReg_lengths _ d vals k).1.trans ih.1, (writeReg_lengths _ d vals k).2.trans ih.2⟩

/-- A V destination: each register of it holds the words of the lanes that have a value. -/
theorem vlane_writeRegs {r : BitVec 8} {vals : List (Nat × Nat)} {l : Nat} (hl : l < 32) (m : Nat) : ∀ k, r.toNat + k ≤ g.regs.v.length →
    (g.writeRegs (.v r) k vals).vlane m l = if r.toNat ≤ m ∧ m < r.toNat + k then
      ((vals.find? (·.1 == l)).map fun p => BitVec.ofNat 32 (p.2 / 2 ^ (32 * (m - r.toNat)))).getD (g.vlane m l) else g.vlane m l
  | 0, _ => by rw [writeRegs_zero, if_neg (by omega)]
  | k + 1, hk => by
    rw [writeRegs_succ]
    show (Group.setV _ _ _).vlane m l = _
    rw [vlane_setV _ _ _ (by rw [(writeRegs_lengths g _ _ k).1]; omega) m l hl, vlane_writeRegs hl _ k (by omega), vlane_writeRegs hl _ k (by omega)]
    by_cases hm : m = r.toNat + k
    · subst hm
      rw [if_pos rfl, if_neg (by omega), if_pos (by omega), Nat.add_sub_cancel_left]
    · rw [if_neg hm]
      by_cases hb : r.toNat ≤ m ∧ m < r.toNat + k
      · rw [if_pos hb, if_pos (by omega)]
      · rw [if_neg hb, if_neg (by omega)]

/-- An S destination: the registers hold the words of the first value. -/
theorem sreg_writeRegs {r : BitVec 6} {p : Nat × Nat} {ps : List (Nat × Nat)} (m : Nat) : ∀ k, r.toNat + k ≤ g.regs.s.length →
    (g.writeRegs (.s r) k (p :: ps)).sreg m = if r.toNat ≤ m ∧ m < r.toNat + k then BitVec.ofNat 32 (p.2 / 2 ^ (32 * (m - r.toNat))) else g.sreg m
  | 0, _ => by rw [writeRegs_zero, if_neg (by omega)]
  | k + 1, hk => by
    rw [writeRegs_succ]
    show (Group.setS _ _ _).sreg m = _
    rw [sreg_setS _ _ _ (by rw [(writeRegs_lengths g _ _ k).2]; omega), sreg_writeRegs m k (by omega)]
    by_cases hm : m = r.toNat + k
    · subst hm
      rw [if_pos rfl, if_pos (by omega), Nat.add_sub_cancel_left]
    · rw [if_neg hm]
      by_cases hb : r.toNat ≤ m ∧ m < r.toNat + k
      · rw [if_pos hb, if_pos (by omega)]
      · rw [if_neg hb, if_neg (by omega)]

/-- Registers of another file are as before. -/
theorem vlane_writeRegs_of_ne {d : Operand} (hd : ∀ r, d ≠ .v r) (vals : List (Nat × Nat)) (m l : Nat) (k : Nat) :
    (g.writeRegs d k vals).vlane m l = g.vlane m l := by
  induction k with
  | zero => rfl
  | succ k ih =>
    rw [writeRegs_succ, ← ih]
    unfold Group.writeReg
    cases d with
    | v n => exact absurd rfl (hd n)
    | s n => cases vals <;> rfl
    | _ => rfl

theorem sreg_writeRegs_of_ne {d : Operand} (hd : ∀ r, d ≠ .s r) (vals : List (Nat × Nat)) (m : Nat) (k : Nat) :
    (g.writeRegs d k vals).sreg m = g.sreg m := by
  induction k with
  | zero => rfl
  | succ k ih =>
    rw [writeRegs_succ, ← ih]
    unfold Group.writeReg
    cases d with
    | s n => exact absurd rfl (hd n)
    | v n =>
      show (Group.setV _ _ _).sreg m = _
      rw [Group.setV_only]
      rfl
    | _ => rfl

/-- The value that a list of distinct keys gives one of them. -/
theorem find_map_key {α β : Type} [DecidableEq α] {xs : List (α × β)} {γ : Type} (f : α × β → γ) (hn : (xs.map (·.1)).Nodup) {p : α × β} (hp : p ∈ xs) :
    (xs.map fun q => (q.1, f q)).find? (·.1 == p.1) = some (p.1, f p) := by
  induction xs with
  | nil => cases hp
  | cons x xs ih =>
    rw [List.map_cons, List.nodup_cons] at hn
    rw [List.map_cons, List.find?_cons]
    rcases List.mem_cons.1 hp with rfl | hp'
    · simp
    · have hx : (x.1 == p.1) = false := by
        rw [beq_eq_false_iff_ne]
        rintro he
        exact hn.1 (he ▸ List.mem_map_of_mem hp')
      rw [hx]
      exact ih hn.2 hp'

theorem find_map_none {α β : Type} [DecidableEq α] {xs : List (α × β)} {γ : Type} (f : α × β → γ) {l : α} (hl : l ∉ xs.map (·.1)) :
    (xs.map fun q => (q.1, f q)).find? (·.1 == l) = none := by
  rw [List.find?_eq_none]
  intro q hq
  obtain ⟨p, hp, rfl⟩ := List.mem_map.1 hq
  rw [beq_iff_eq]
  rintro rfl
  exact hl (List.mem_map_of_mem hp)

/-! ### The number that a load delivers (R65, R68) -/

theorem length_byteKeys (pv : Bool) (k n : Nat) : (byteKeys pv k n).length = n := by simp [byteKeys]

theorem signExtend_ofNat_toNat {w v : Nat} (hv : v < 2 ^ w) (hw : w < 32) :
    ((BitVec.ofNat w v).signExtend 32).toNat = if 2 ^ (w - 1) ≤ v then v + 2 ^ 32 - 2 ^ w else v := by
  have h32 : (2 : Nat) ^ w < 2 ^ 32 := Nat.pow_lt_pow_right (by omega) hw
  have hm : v % 2 ^ 32 = v := Nat.mod_eq_of_lt (by omega)
  rw [BitVec.toNat_signExtend, BitVec.msb_eq_decide, BitVec.toNat_setWidth, BitVec.toNat_ofNat, Nat.mod_eq_of_lt hv, hm]
  simp only [decide_eq_true_eq]
  split
  · omega
  · rfl

theorem loadVal_eq (s : State) (g : Group) (upto : Nat) (pv : Bool) (k n : Nat) (sx : Bool) :
    s.loadVal g upto pv k n sx = loadedNum ((byteKeys pv k n).map (s.seen g upto)) n sx := by
  have hlt := wordOfBytes_lt ((byteKeys pv k n).map (s.seen g upto))
  rw [List.length_map, length_byteKeys] at hlt
  unfold State.loadVal loadedNum
  dsimp only
  generalize wordOfBytes ((byteKeys pv k n).map (s.seen g upto)) = v at hlt
  have h256 : (256 : Nat) ^ n = 2 ^ (8 * n) := by rw [Nat.pow_mul]
  rw [h256] at hlt
  by_cases hs : sx = true ∧ n < 4
  · rw [if_pos hs]
    obtain ⟨hsx, hn⟩ := hs
    rw [signExtend_ofNat_toNat hlt (by omega)]
    simp only [hsx, hn, true_and]
  · rw [if_neg hs, if_neg fun h => hs ⟨h.1, h.2.1⟩]

/-! ### LOAD_COMPLETION (R31, R68, R75) -/

theorem linesIn_resident {gi : Nat} (hg : s.groups[gi]? = some g) : ∀ ns : List Nat, (∀ n ∈ ns, n ∈ g.vres) → s.linesIn gi ns = .ok s
  | [], _ => rfl
  | n :: ns, h => by
    have hn : s.lineIn gi n = .ok s := by
      unfold State.lineIn
      rw [hg]
      dsimp only
      rw [if_pos (List.contains_iff_mem.2 (h n List.mem_cons_self))]
    show ns.foldl _ (s.lineIn gi n) = _
    rw [hn]
    exact linesIn_resident hg ns fun m hm => h m (List.mem_cons_of_mem _ hm)

/-- The lanes of a load with the numbers that they deliver. -/
def loadVals (s : State) (g : Group) (o : Op) (acc : List (Nat × Nat)) (n : Nat) (sx : Bool) : List (Nat × Nat) :=
  acc.map fun p => (p.1, loadedNum ((byteKeys o.pv p.2 n).map (s.seen g o.id)) n sx)

/-- What a group sees does not depend on its operations in flight, nor on the counts of errors. -/
theorem seen_complete (s : State) (g : Group) (o : Op) (key c upto : Nat) : (s.countCorrected key c).seen (g.complete o) upto = s.seen g upto := by
  rw [complete_frame]
  rfl

theorem loadCompletion_writes {gi k c n : Nat} {o : Op} {acc : List (Nat × Nat)} {sx uni : Bool} {d : Operand} (hf : s.findOp gi k = some (g, o))
    (ho : o.kind = .load acc n sx d uni none) (hm : g.mayPerform o = true) (hl : o.late = none) (hv : ∀ r ∈ vRefs o.dsts, r ∈ g.vres) :
    exec (.loadCompletion gi k c) s = .next { s.countCorrected (o.keys.headD 0) c with
      groups := s.groups.set gi ((g.complete o).writeRegs d (wordsOf n) (loadVals s g o acc n sx)), last := .event } := by
  have hg := (findOp_group hf).1
  refine eventOf_eq (t := (s.countCorrected (o.keys.headD 0) c).setG gi ((g.complete o).writeRegs d (wordsOf n) (loadVals s g o acc n sx))) ?_
  unfold loadCompletionBody
  rw [hf]
  dsimp only
  rw [ho]
  dsimp only
  rw [if_pos ⟨hm, by rw [hl]; rfl⟩, linesIn_resident hg _ hv]
  dsimp only
  rw [hg, Option.map_some]
  unfold State.performLoad loadVals
  rw [ho]
  simp only [loadVal_eq, seen_complete]

theorem left_of_ops {g g' gt : Group} {o : Op} (ho : gt.ops = g'.ops) (hf : gt.flags = g'.flags) (ha : gt.acks = g'.acks) (h : Left g g' o) : Left g gt o := by
  obtain ⟨h1, h2, h3, h4⟩ := h
  exact ⟨fun x hx => h1 x (ho ▸ hx), fun x hx hi hk => ho ▸ h2 x hx hi hk, hf.trans h3, ha.trans h4⟩

theorem lowerFlag_flags {g k : Group} (h : k.flags = g.flags) (f : Option Nat) : (k.lowerFlag f).flags = (g.lowerFlag f).flags := by
  cases f with
  | none => exact h
  | some n => exact congrArg (fun fl : List Nat => fl.modify n (· - 1)) h

theorem left_of_before {g k gt : Group} {o : Op} (ho : k.ops = g.ops) (hf : k.flags = g.flags) (ha : k.acks = g.acks) (h : Left k gt o) : Left g gt o := by
  obtain ⟨h1, h2, h3, h4⟩ := h
  exact ⟨fun x hx => ho ▸ h1 x hx, fun x hx => h2 x (ho ▸ hx), h3.trans (lowerFlag_flags (lowerFlag_flags hf _) _), ha ▸ h4⟩

theorem left_writeRegs (g : Group) (o : Op) (d : Operand) (k : Nat) (vals : List (Nat × Nat)) : Left g ((g.complete o).writeRegs d k vals) o := by
  have h := writeRegs_only (g.complete o) d vals k
  exact left_of_ops (congrArg Group.ops h) (congrArg Group.flags h) (congrArg Group.acks h) (left_complete g o)

/-- The group after a load: registers, what is known of their lines, and what an operation that ends counts. -/
theorem writeRegs_complete_frame (g : Group) (o : Op) (d : Operand) (k : Nat) (vals : List (Nat × Nat)) :
    (g.complete o).writeRegs d k vals = { g with
      regs := { g.regs with v := ((g.complete o).writeRegs d k vals).regs.v, s := ((g.complete o).writeRegs d k vals).regs.s },
      ops := ((g.complete o).writeRegs d k vals).ops, flags := ((g.complete o).writeRegs d k vals).flags,
      acks := ((g.complete o).writeRegs d k vals).acks, vwr := ((g.complete o).writeRegs d k vals).vwr,
      vdirty := ((g.complete o).writeRegs d k vals).vdirty } := by
  have h := writeRegs_only (g.complete o) d vals k
  generalize (g.complete o).writeRegs d k vals = x at h ⊢
  rw [h, complete_frame]

theorem regs_complete (g : Group) (o : Op) : (g.complete o).regs = g.regs := by rw [complete_frame]

/-! ### ACKNOWLEDGEMENT (R8, R68, R227) -/

theorem noteFresh_frame (s : State) (gi : Nat) (bs : List (Nat × Byte)) : ∃ fr : Group → List (Nat × Byte × Byte), s.noteFresh gi bs =
    s.mapG gi fun g => { g with fresh := fr g } := by
  refine ⟨fun g => if g.dmode then g.fresh ++ bs.map fun p => (p.1, s.committed g.slot p.1, p.2) else g.fresh, ?_⟩
  unfold State.noteFresh
  congr 1
  funext g
  dsimp only
  split
  · next h => rfl
  · next h => rfl

theorem regs_modify (gs : List Group) (gi : Nat) (f : Group → Group) (hf : ∀ g, (f g).regs = g.regs) : (gs.modify gi f).map (·.regs) = gs.map (·.regs) := by
  apply List.ext_getElem?
  intro j
  rw [List.getElem?_map, List.getElem?_modify, List.getElem?_map]
  cases gs[j]? with
  | none => split <;> rfl
  | some g =>
    split
    · exact congrArg some (hf g)
    · rfl

theorem acknowledgement_stores {gi k n : Nat} {o : Op} {acc : List (Nat × Nat × Nat)} (hf : s.findOp gi k = some (g, o)) (ho : o.kind = .store acc n)
    (hm : g.mayPerform o = true) (hl : o.late = none) : ∃ (fr : List (Nat × Byte × Byte)) (qs : List Path) (gs : List Group),
      exec (.acknowledgement gi k) s = .next { s with mem := s.mem.setAll (storeBytes o.pv n acc), groups := gs, last := .event } ∧
      gs[gi]? = some ({ g with fresh := fr, paths := qs } |>.complete o) ∧ gs.map (·.regs) = s.groups.map (·.regs) := by
  have hg := (findOp_group hf).1
  obtain ⟨fr, hfr⟩ := noteFresh_frame s gi (storeBytes o.pv n acc)
  let t := (s.mapG gi fun g => { g with fresh := fr g }).write (storeBytes o.pv n acc)
  refine ⟨fr g, (g.noteWrite ((storeBytes o.pv n acc).map fun q => lineOf q.1).eraseDups).paths, (t.mapG gi fun g => g.complete o).groups, ?_, ?_, ?_⟩
  · refine (eventOf_eq (t := t.mapG gi fun g => g.complete o) ?_).trans rfl
    unfold acknowledgementBody
    rw [hf]
    dsimp only
    rw [ho]
    dsimp only
    rw [if_pos ⟨hm, by rw [hl]; rfl⟩]
    unfold State.performStore
    rw [ho]
    dsimp only
    rw [hfr]
  · show (t.groups.modify gi _)[gi]? = _
    rw [List.getElem?_modify_eq]
    show Option.map _ (((s.mapG gi fun g => { g with fresh := fr g }).write (storeBytes o.pv n acc)).groups[gi]?) = _
    rw [State.group_write]
    show Option.map _ (Option.map _ ((s.groups.modify gi _)[gi]?)) = _
    rw [List.getElem?_modify_eq, hg]
    rfl
  · show (t.groups.modify gi _).map _ = _
    rw [regs_modify _ _ _ fun h => regs_complete h o]
    refine (write_regs _ _).trans ?_
    exact regs_modify _ _ _ fun h => rfl

/-- Settles O22: a load writes the registers that `loadVals` fills, a store the bytes of `storeBytes`, and the operation leaves. -/
theorem loadsAndStoresEnd : Obligations.LoadsAndStoresEnd := by
  unfold Obligations.LoadsAndStoresEnd
  constructor
  · intro s gi k g o acc n sx uni d hs hf ho hm hl _ hn h32 hne hdv hds hv c
    have hregs := regs_complete g o
    have hlv : ∀ m l, (g.complete o).vlane m l = g.vlane m l := fun m l => by unfold Group.vlane; rw [hregs]
    have hls : ∀ m, (g.complete o).sreg m = g.sreg m := fun m => by unfold Group.sreg; rw [hregs]
    refine ⟨_, loadCompletion_writes hf ho hm hl hv, left_writeRegs g o _ _ _, writeRegs_complete_frame g o _ _ _, ?_, ?_, ?_, ?_⟩
    · intro m l hl hno
      by_cases hd : ∃ r, d = .v r
      · obtain ⟨r, rfl⟩ := hd
        rw [vlane_writeRegs hl m _ (by rw [hregs, hs.v]; exact hdv r rfl), hlv]
        split
        · next hb =>
          rw [loadVals, find_map_none _ ((hno r rfl).resolve_left (not_not.2 hb))]
          rfl
        · rfl
      · rw [vlane_writeRegs_of_ne fun r hr => hd ⟨r, hr⟩, hlv]
    · intro m hno
      by_cases hd : ∃ r, d = .s r
      · obtain ⟨r, rfl⟩ := hd
        obtain ⟨p, ps, rfl⟩ := List.exists_cons_of_ne_nil hne
        rw [loadVals, List.map_cons, sreg_writeRegs m _ (by rw [hregs, hs.s]; exact hds r rfl), if_neg (hno r rfl), hls]
      · rw [sreg_writeRegs_of_ne fun r hr => hd ⟨r, hr⟩, hls]
    · rintro r rfl p hp j hj
      rw [vlane_writeRegs (h32 p hp) _ _ (by rw [hregs, hs.v]; exact hdv r rfl), if_pos (by omega), Nat.add_sub_cancel_left, loadVals, find_map_key _ hn hp]
      rfl
    · rintro r p rfl hp j hj
      obtain ⟨ps, rfl⟩ : ∃ ps, acc = p :: ps := by
        cases acc with
        | nil => cases hp
        | cons q qs => cases hp; exact ⟨qs, rfl⟩
      rw [loadVals, List.map_cons, sreg_writeRegs _ _ (by rw [hregs, hs.s]; exact hds r rfl), if_pos (by omega), Nat.add_sub_cancel_left]
  · intro s gi k g o acc n w hf ho hm hl
    obtain ⟨fr, qs, gs, he, hgt, hgs⟩ := acknowledgement_stores hf ho hm hl
    refine ⟨_, _, he, rfl, hgt, ?_, regs_complete _ o, ?_, ?_, rfl, rfl, rfl, rfl, rfl, hgs⟩
    · exact left_of_before (k := { g with fresh := fr, paths := qs }) rfl rfl rfl (left_complete _ o)
    · intro x hx
      exact Mem.get_setAll_other _ w fun p hp he => hx (List.mem_map.2 ⟨p, hp, he⟩)
    · intro x b pre post hsp hx
      show Mem.get (s.mem.setAll (storeBytes o.pv n acc)) x = b
      rw [hsp]
      exact Mem.get_setAll_last pre post x b w fun p hp he => hx (List.mem_map.2 ⟨p, hp, he⟩)

end Sys2Proof.Machine
end

section
/-! # Full/empty accesses and FETEST (O23) -/

namespace Sys2Proof.Machine

open Sys2Proof.Claims Sys2Proof.Safety

variable {s : State} {g k gt : Group}

/-! ### A predicate result (R39, R78) -/

theorem find_key {β : Type} {xs : List (Nat × β)} (hn : (xs.map (·.1)).Nodup) {l : Nat} {b : β} (h : (l, b) ∈ xs) : xs.find? (·.1 == l) = some (l, b) := by
  have := find_map_key (fun q : Nat × β => q.2) hn h
  rwa [show (fun q : Nat × β => (q.1, q.2)) = id from rfl, List.map_id] at this

theorem find_key_none {β : Type} {xs : List (Nat × β)} {l : Nat} (h : l ∉ xs.map (·.1)) : xs.find? (·.1 == l) = none := by
  have := find_map_none (fun q : Nat × β => q.2) h
  rwa [show (fun q : Nat × β => (q.1, q.2)) = id from rfl, List.map_id] at this

theorem writePred_only (g : Group) (px : PReg) (uni : Bool) (held : Mask) (vals : List (Nat × Bool)) : OnlyPred g (g.writePred px uni held vals) := by
  unfold Group.writePred
  cases uni with
  | true => cases vals with
    | nil => exact OnlyPred.refl g
    | cons p r => exact setP_only g _ _
  | false => exact setP_only g _ _

theorem setP_raised (g : Group) (p : Nat) (f : Nat → Option Bool) : (g.setP p f).raised = g.raised := by
  unfold Group.setP
  split <;> rfl

/-- A predicate written changes the predicates alone. -/
theorem writePred_frame (g : Group) (px : PReg) (uni : Bool) (held : Mask) (vals : List (Nat × Bool)) :
    g.writePred px uni held vals = { g with regs := { g.regs with p := (g.writePred px uni held vals).regs.p } } := by
  have hr : (g.writePred px uni held vals).raised = g.raised := by
    unfold Group.writePred
    cases uni with
    | true => cases vals with
      | nil => rfl
      | cons p r => exact setP_raised g _ _
    | false => exact setP_raised g _ _
  have h := writePred_only g px uni held vals
  unfold OnlyPred at h
  rwa [hr] at h

theorem setPAll_pred (g : Group) (p : Nat) (held : Mask) (b : Bool) (h : p < g.regs.p.length) (m l : Nat) (hl : l < 32) :
    (g.setPAll p held b).pred m l = if m = p ∧ m ≠ 0 ∧ held.getLsbD l = true then b else g.pred m l := by
  unfold Group.setPAll
  rw [pred_setP g p _ h m l hl]
  cases held.getLsbD l <;> simp

theorem tookPred_writePred {px : PReg} {uni : Bool} {held : Mask} {vals : List (Nat × Bool)} (hp : g.regs.p.length = 64) (hx : px ≠ 0)
    (hn : (vals.map (·.1)).Nodup) : TookPred g (g.writePred px uni held vals) px uni held vals := by
  have hx0 : px.toNat ≠ 0 := fun h => hx (BitVec.eq_of_toNat_eq h)
  have hlt : px.toNat < g.regs.p.length := by rw [hp]; exact px.isLt
  intro q l _ hl
  cases uni with
  | true =>
    refine ⟨fun _ h => absurd h.symm Bool.false_ne_true, fun hq _ hh p hv => ?_, fun h => ?_⟩
    · obtain ⟨r, rfl⟩ : ∃ r, vals = p :: r := by
        cases vals with
        | nil => cases hv
        | cons a r => cases hv; exact ⟨r, rfl⟩
      show (g.setPAll px.toNat held p.2).pred q l = _
      rw [setPAll_pred g _ _ _ hlt q l hl, if_pos ⟨hq, hq ▸ hx0, hh⟩]
    · cases vals with
      | nil => rfl
      | cons p r =>
        show (g.setPAll px.toNat held p.2).pred q l = _
        rw [setPAll_pred g _ _ _ hlt q l hl, if_neg]
        rintro ⟨hq, -, hh⟩
        rcases h with h | h
        · exact h hq
        · rw [if_pos rfl, hh] at h
          cases h
  | false =>
    refine ⟨fun hq _ b hb => ?_, fun _ h => absurd h Bool.false_ne_true, fun h => ?_⟩
    · show (g.setP px.toNat _).pred q l = _
      rw [pred_setP g _ _ hlt q l hl, if_pos ⟨hq, hq ▸ hx0⟩, find_key hn hb]
      rfl
    · show (g.setP px.toNat _).pred q l = _
      rw [pred_setP g _ _ hlt q l hl]
      split
      · next hq =>
        rw [find_key_none (h.resolve_left fun hne => hne hq.1)]
        rfl
      · rfl

/-- The answers that `TookPred` speaks of depend on the predicates alone. -/
theorem tookPred_of_preds {g k gt kt : Group} {px : PReg} {uni : Bool} {held : Mask} {vals : List (Nat × Bool)} (h : TookPred k kt px uni held vals)
    (hg : k.regs.p = g.regs.p) (ht : gt.regs.p = kt.regs.p) : TookPred g gt px uni held vals := by
  have hgp : ∀ q l, g.pred q l = k.pred q l := fun q l => by unfold Group.pred; rw [hg]
  have htp : ∀ q l, gt.pred q l = kt.pred q l := fun q l => by unfold Group.pred; rw [ht]
  intro q l hq hl
  rw [hgp, htp]
  exact h q l hq hl

/-! ### LDS with TAKE (R77, R78, R366) -/

section Take

variable {fe : List Nat} {d : Operand} {n : Nat} {acc : List (Nat × Nat)} {px : PReg} {uni : Bool} {held : Mask} {val : Nat → Nat}

/-- The accesses of an LDS with TAKE that find their granules full. -/
def taken (fe : List Nat) (acc : List (Nat × Nat)) : List (Nat × Nat) := acc.filter fun p => fe.contains (granuleOf p.2)

/-- The full granules that an LDS with TAKE leaves. -/
def feAfterTake (fe : List Nat) (acc : List (Nat × Nat)) : List Nat := fe.filter fun k => !((taken fe acc).map fun p => granuleOf p.2).contains k

/-- The group after an LDS with TAKE: its destination, then its predicate. -/
def Group.takes (k : Group) (fe : List Nat) (d : Operand) (n : Nat) (acc : List (Nat × Nat)) (px : PReg) (uni : Bool) (held : Mask) (val : Nat → Nat) : Group :=
  (k.writeRegs d (wordsOf n) ((taken fe acc).map fun p => (p.1, val p.2))).writePred px uni held (acc.map fun p => (p.1, fe.contains (granuleOf p.2)))

theorem performLoad_take {gi : Nat} {o : Op} {sx : Bool} (ho : o.kind = .load acc n sx d uni (some px)) :
    s.performLoad gi k o = { s.setG gi (k.takes s.fe d n acc px uni o.held fun q => s.loadVal k o.id o.pv q n sx) with fe := feAfterTake s.fe acc } := by
  unfold State.performLoad
  rw [ho]
  rfl

theorem mem_taken {p : Nat × Nat} : p ∈ taken fe acc ↔ p ∈ acc ∧ granuleOf p.2 ∈ fe := by
  unfold taken
  rw [List.mem_filter, List.contains_iff_mem]

theorem mem_feAfterTake {x : Nat} : x ∈ feAfterTake fe acc ↔ x ∈ fe ∧ ∀ p ∈ acc, granuleOf p.2 ≠ x := by
  unfold feAfterTake
  simp only [List.mem_filter, Bool.not_eq_true', List.contains_eq_mem, decide_eq_false_iff_not, List.mem_map, not_exists, not_and, mem_taken]
  constructor
  · rintro ⟨hx, h⟩
    exact ⟨hx, fun p hp he => h p ⟨hp, he ▸ hx⟩ he⟩
  · rintro ⟨hx, h⟩
    exact ⟨hx, fun p hp => h p hp.1⟩

theorem takes_frame (k : Group) (fe : List Nat) (d : Operand) (n : Nat) (acc : List (Nat × Nat)) (px : PReg) (uni : Bool) (held : Mask) (val : Nat → Nat) :
    k.takes fe d n acc px uni held val = { k with
      regs := (k.takes fe d n acc px uni held val).regs, vwr := (k.takes fe d n acc px uni held val).vwr,
      vdirty := (k.takes fe d n acc px uni held val).vdirty } := by
  unfold Group.takes
  have hw := writeRegs_only k d ((taken fe acc).map fun p => (p.1, val p.2)) (wordsOf n)
  generalize k.writeRegs d (wordsOf n) ((taken fe acc).map fun p => (p.1, val p.2)) = m at hw ⊢
  have hp := writePred_frame m px uni held (acc.map fun p => (p.1, fe.contains (granuleOf p.2)))
  generalize m.writePred px uni held (acc.map fun p => (p.1, fe.contains (granuleOf p.2))) = r at hp ⊢
  rw [hp, hw]

/-- An LDS with TAKE leaves what `Took` says, by the registers that its group then has. -/
theorem took_of_regs {t : State} {id : Nat} {pv sx : Bool} (hs : Shaped g) (hk : k.regs = g.regs) (hx : px ≠ 0) (hn : (acc.map (·.1)).Nodup)
    (h32 : ∀ r, d = .v r → ∀ p ∈ acc, p.1 < 32) (hdv : ∀ r, d = .v r → r.toNat + wordsOf n ≤ g.vbud) (hds : ∀ r, d = .s r → r.toNat + wordsOf n ≤ 64)
    (hfe : t.fe = feAfterTake s.fe acc)
    (ht : gt.regs = (k.takes s.fe d n acc px uni held fun q => loadedNum ((byteKeys pv q n).map (s.seen g id)) n sx).regs) :
    Took s t g gt id pv held acc n sx d px uni := by
  have hv : k.regs.v.length = g.vbud := by rw [hk]; exact hs.v
  have hsl : k.regs.s.length = 64 := by rw [hk]; exact hs.s
  have hkv : ∀ m l, k.vlane m l = g.vlane m l := fun m l => by unfold Group.vlane; rw [hk]
  have hks : ∀ m, k.sreg m = g.sreg m := fun m => by unfold Group.sreg; rw [hk]
  let w := k.writeRegs d (wordsOf n) ((taken s.fe acc).map fun p => (p.1, loadedNum ((byteKeys pv p.2 n).map (s.seen g id)) n sx))
  have hw : gt.regs.v = w.regs.v ∧ gt.regs.s = w.regs.s := by
    rw [ht]
    show (w.writePred _ _ _ _).regs.v = _ ∧ (w.writePred _ _ _ _).regs.s = _
    rw [writePred_frame]
    exact ⟨rfl, rfl⟩
  have hgv : ∀ m l, gt.vlane m l = w.vlane m l := fun m l => by unfold Group.vlane; rw [hw.1]
  have hgs : ∀ m, gt.sreg m = w.sreg m := fun m => by unfold Group.sreg; rw [hw.2]
  have htn : ((taken s.fe acc).map (·.1)).Nodup := hn.sublist (List.filter_sublist.map _)
  refine ⟨fun x => by rw [hfe]; exact mem_feAfterTake, ?_, ?_, ?_, ?_, ?_⟩
  · have hwp : w.regs.p = g.regs.p := by
      show (Group.writeRegs _ _ _ _).regs.p = _
      rw [writeRegs_only, hk]
    have h := tookPred_writePred (g := w) (uni := uni) (held := held) (vals := acc.map fun p => (p.1, s.fe.contains (granuleOf p.2))) (by rw [hwp]; exact hs.p)
      hx (by rw [List.map_map]; exact hn)
    have hd : (acc.map fun p => (p.1, decide (granuleOf p.2 ∈ s.fe))) = acc.map fun p => (p.1, s.fe.contains (granuleOf p.2)) :=
      List.map_congr_left fun p _ => by rw [List.contains_eq_mem]
    rw [hd]
    exact tookPred_of_preds h hwp (by rw [ht]; rfl)
  · intro m l hl hno
    rw [hgv]
    by_cases hd : ∃ r, d = .v r
    · obtain ⟨r, rfl⟩ := hd
      show (k.writeRegs _ _ _).vlane m l = _
      rw [vlane_writeRegs hl m _ (by rw [hv]; exact hdv r rfl), hkv]
      split
      · next hb =>
        rw [find_map_none]
        · rfl
        · rintro hm
          obtain ⟨p, hp, rfl⟩ := List.mem_map.1 hm
          exact ((hno r rfl).resolve_left (not_not.2 hb)) p (mem_taken.1 hp).1 rfl (mem_taken.1 hp).2
      · rfl
    · show (k.writeRegs _ _ _).vlane m l = _
      rw [vlane_writeRegs_of_ne fun r hr => hd ⟨r, hr⟩, hkv]
  · intro m hno
    rw [hgs]
    show (k.writeRegs _ _ _).sreg m = _
    by_cases hd : ∃ r, d = .s r
    · obtain ⟨r, rfl⟩ := hd
      cases htk : taken s.fe acc with
      | nil =>
        have he : ∀ j, k.writeRegs (.s r) j [] = k := fun j => by
          induction j with
          | zero => rfl
          | succ j ih => rw [writeRegs_succ, ih]; rfl
        rw [List.map_nil, he, hks]
      | cons p ps =>
        have hp : p ∈ taken s.fe acc := by rw [htk]; exact List.mem_cons_self
        rw [List.map_cons, sreg_writeRegs m _ (by rw [hsl]; exact hds r rfl), if_neg, hks]
        exact (hno r rfl).resolve_right fun h => h p (mem_taken.1 hp).1 (mem_taken.1 hp).2
    · rw [sreg_writeRegs_of_ne fun r hr => hd ⟨r, hr⟩, hks]
  · rintro r rfl p hp hf j hj
    rw [hgv]
    show (k.writeRegs _ _ _).vlane _ _ = _
    rw [vlane_writeRegs (h32 r rfl p hp) _ _ (by rw [hv]; exact hdv r rfl), if_pos (by omega), Nat.add_sub_cancel_left,
      find_map_key _ htn (mem_taken.2 ⟨hp, hf⟩)]
    rfl
  · rintro r p rfl rfl hf j hj
    have htk : taken s.fe [p] = [p] := by
      unfold taken
      rw [List.filter_cons_of_pos (by rw [List.contains_iff_mem]; exact hf)]
      rfl
    rw [hgs]
    show (k.writeRegs _ _ _).sreg _ = _
    rw [htk, List.map_cons, sreg_writeRegs _ _ (by rw [hsl]; exact hds r rfl), if_pos (by omega), Nat.add_sub_cancel_left]

end Take

theorem regs_left (g : Group) (o : Op) {d : Operand} {n : Nat} {acc : List (Nat × Nat)} {px : PReg} {uni : Bool} {held : Mask} {fe : List Nat} {val : Nat → Nat} :
    Left g ((g.complete o).takes fe d n acc px uni held val) o := by
  have h := takes_frame (g.complete o) fe d n acc px uni held val
  exact left_of_ops (congrArg Group.ops h) (congrArg Group.flags h) (congrArg Group.acks h) (left_complete g o)

theorem loadCompletion_takes {gi k c n : Nat} {o : Op} {acc : List (Nat × Nat)} {sx uni : Bool} {d : Operand} {px : PReg} (hf : s.findOp gi k = some (g, o))
    (ho : o.kind = .load acc n sx d uni (some px)) (hm : g.mayPerform o = true) (hl : o.late = none) (hv : ∀ r ∈ vRefs o.dsts, r ∈ g.vres) :
    exec (.loadCompletion gi k c) s = .next { s.countCorrected (o.keys.headD 0) c with
      groups := s.groups.set gi ((g.complete o).takes s.fe d n acc px uni o.held fun q => loadedNum ((byteKeys o.pv q n).map (s.seen g o.id)) n sx),
      fe := feAfterTake s.fe acc, last := .event } := by
  have hg := (findOp_group hf).1
  refine eventOf_eq (t := { (s.countCorrected (o.keys.headD 0) c).setG gi
    ((g.complete o).takes s.fe d n acc px uni o.held fun q => loadedNum ((byteKeys o.pv q n).map (s.seen g o.id)) n sx) with fe := feAfterTake s.fe acc }) ?_
  unfold loadCompletionBody
  rw [hf]
  dsimp only
  rw [ho]
  dsimp only
  rw [if_pos ⟨hm, by rw [hl]; rfl⟩, linesIn_resident hg _ hv]
  dsimp only
  rw [hg, Option.map_some, performLoad_take ho]
  simp only [loadVal_eq, seen_complete]
  rfl

/-! ### STS with FILL (R77, R78) -/

/-- The accesses of an STS with FILL that find their granules empty. -/
def filled (fe : List Nat) (acc : List (Nat × Nat × Nat)) : List (Nat × Nat × Nat) := acc.filter fun p => !fe.contains (granuleOf p.2.1)

theorem acknowledgement_fills {gi k n : Nat} {o : Op} {acc : List (Nat × Nat × Nat)} {px : PReg} {uni : Bool} (hf : s.findOp gi k = some (g, o))
    (ho : o.kind = .fill acc n px uni) (hm : g.mayPerform o = true) (hl : o.late = none) : ∃ (qs : List Path) (t : State),
      exec (.acknowledgement gi k) s = .next t ∧ t.last = .event ∧ t.mem = s.mem.setAll (storeBytes o.pv n (filled s.fe acc)) ∧
      t.fe = s.fe ++ ((filled s.fe acc).map fun p => granuleOf p.2.1).eraseDups ∧
      t.groups[gi]? = some ((({ g with paths := qs } : Group).writePred px uni o.held (acc.map fun p => (p.1, !s.fe.contains (granuleOf p.2.1)))).complete o) := by
  have hg := (findOp_group hf).1
  let u : State := { s.write (storeBytes o.pv n (filled s.fe acc)) with fe := s.fe ++ ((filled s.fe acc).map fun p => granuleOf p.2.1).eraseDups }
  refine ⟨(g.noteWrite ((storeBytes o.pv n (filled s.fe acc)).map fun q => lineOf q.1).eraseDups).paths,
    (((u.mapG gi fun g => g.writePred px uni o.held (acc.map fun p => (p.1, !s.fe.contains (granuleOf p.2.1)))).mapG gi fun g => g.complete o).report .event), ?_,
    rfl, rfl, rfl, ?_⟩
  · refine eventOf_eq ?_
    unfold acknowledgementBody
    rw [hf]
    dsimp only
    rw [ho]
    dsimp only
    rw [if_pos ⟨hm, by rw [hl]; rfl⟩]
    unfold State.performStore
    rw [ho]
    rfl
  · show ((u.groups.modify gi _).modify gi _)[gi]? = _
    rw [List.getElem?_modify_eq, List.getElem?_modify_eq]
    show Option.map _ (Option.map _ ((s.write (storeBytes o.pv n (filled s.fe acc))).groups[gi]?)) = _
    rw [State.group_write, hg]
    rfl

theorem mem_filled {fe : List Nat} {acc : List (Nat × Nat × Nat)} {p : Nat × Nat × Nat} : p ∈ filled fe acc ↔ p ∈ acc ∧ granuleOf p.2.1 ∉ fe := by
  unfold filled
  rw [List.mem_filter, Bool.not_eq_true', ← Bool.not_eq_true, List.contains_iff_mem]

/-- An STS with FILL leaves what `Filled` says. -/
theorem filled_acknowledged {gi k n : Nat} {o : Op} {acc : List (Nat × Nat × Nat)} {px : PReg} {uni : Bool} (hs : Shaped g) (w : Memory.wf s.mem = true)
    (hf : s.findOp gi k = some (g, o)) (hm : g.mayPerform o = true) (hl : o.late = none) (hx : px ≠ 0) (ho : o.kind = .fill acc n px uni)
    (hn : (acc.map (·.1)).Nodup) :
    ∃ t gt, exec (.acknowledgement gi k) s = .next t ∧ t.last = .event ∧ t.groups[gi]? = some gt ∧ Left g gt o ∧ Filled s t g gt o acc n px uni := by
  obtain ⟨qs, t, he, hlast, hmem, hfe, hgt⟩ := acknowledgement_fills hf ho hm hl
  refine ⟨t, _, he, hlast, hgt, ?_, ?_⟩
  · have h := left_complete ((({ g with paths := qs } : Group).writePred px uni o.held (acc.map fun p => (p.1, !s.fe.contains (granuleOf p.2.1))))) o
    refine left_of_before ?_ ?_ ?_ h
    all_goals rw [writePred_frame]
  · have hw := writePred_frame ({ g with paths := qs } : Group) px uni o.held (acc.map fun p => (p.1, !s.fe.contains (granuleOf p.2.1)))
    have hd : (acc.map fun p => (p.1, decide (granuleOf p.2.1 ∉ s.fe))) = acc.map fun p => (p.1, !s.fe.contains (granuleOf p.2.1)) :=
      List.map_congr_left fun p _ => by rw [List.contains_eq_mem, decide_not]
    unfold Filled
    refine ⟨?_, ?_, fun x => ?_, ?_, fun x hx => ?_, fun x b pre post hsp hx => ?_⟩
    · rw [regs_complete, hw]
    · rw [regs_complete, hw]
    · rw [hfe, List.mem_append, List.mem_eraseDups, List.mem_map]
      constructor
      · rintro (h | ⟨p, hp, rfl⟩)
        · exact .inl h
        · exact .inr ⟨p, (mem_filled.1 hp).1, rfl⟩
      · rintro (h | ⟨p, hp, rfl⟩)
        · exact .inl h
        · by_cases hin : granuleOf p.2.1 ∈ s.fe
          · exact .inl hin
          · exact .inr ⟨p, mem_filled.2 ⟨hp, hin⟩, rfl⟩
    · rw [hd]
      refine tookPred_of_preds (tookPred_writePred (g := { g with paths := qs }) hs.p hx ?_) rfl (by rw [regs_complete])
      rw [List.map_map]
      exact hn
    · rw [hmem]
      exact Mem.get_setAll_other _ w fun p hp he => hx (List.mem_map.2 ⟨p, hp, he⟩)
    · rw [hmem]
      show Mem.get (s.mem.setAll (storeBytes o.pv n (acc.filter fun p => !s.fe.contains (granuleOf p.2.1)))) x = b
      rw [hsp]
      exact Mem.get_setAll_last pre post x b w fun p hp he => hx (List.mem_map.2 ⟨p, hp, he⟩)

/-! ### LDS with TAKE in D-mode is performed as it issues (R366) -/

section Issue

variable {i : Instr} {h : Group} {px : PReg}

theorem findSome_set {α β : Type} {l : List α} {j : Nat} {x y : α} (f : α → Option β) (hx : l[j]? = some x) (hf : f y = f x) :
    (l.set j y).findSome? f = l.findSome? f := by
  have hm : (l.set j y).map f = l.map f := by
    rw [List.map_set, hf]
    apply List.ext_getElem?
    intro n
    by_cases hn : n = j
    · subst hn
      rw [List.getElem?_set_self (by rw [List.length_map]; exact (List.getElem?_eq_some_iff.1 hx).1), List.getElem?_map, hx]
      rfl
    · rw [List.getElem?_set_ne (Ne.symm hn)]
  have hid : ∀ m : List α, m.findSome? f = (m.map f).findSome? id := fun m => by rw [List.findSome?_map]; rfl
  rw [hid, hid, hm]

/-- What a group sees is not changed by the issue of its instruction. -/
theorem seen_started (hg : s.groups[s.cur.g]? = some g) (st : Started i s g h) (m upto : Nat) :
    ({ s.setG s.cur.g h with nextId := m } : State).seen h upto = s.seen g upto := by
  have hc : h.cbuf = g.cbuf := by rw [st.rest]
  have hd : h.dmode = g.dmode := by rw [st.rest]
  have hf : h.fresh = g.fresh := by rw [st.rest]
  have hs : h.slot = g.slot := by rw [st.rest]
  funext k
  have hcom : ({ s.setG s.cur.g h with nextId := m } : State).committed h.slot k = s.committed g.slot k := by
    rw [hs]
    have hl := findSome_set (y := h) (fun q : Group => if q.slot == g.slot then (q.fresh.find? fun p => p.1 == k).map (·.2.1) else none) hg
      (by rw [hs, hf])
    exact congrArg (fun o : Option Byte => match o with
      | some b => b
      | none => s.mem.get k) hl
  unfold State.seen Group.own
  rw [hcom, hc, hd, hf]
  rfl

theorem accessLanes_nodup (e : Env) (uni : Bool) : (accessLanes e uni).Nodup := by
  unfold accessLanes
  split
  · split
    · exact List.nodup_singleton _
    · exact List.nodup_nil
  · exact List.nodup_range.filter _

theorem wordsOf_bytes (w : Width) : wordsOf w.bytes = w.regs := by cases w <;> rfl

/-- The data registers of an access lie in the budget (R21, R65). -/
theorem data_fits {d : Operand} {w : Width} (hi : Issues i s g) (hs : Shaped g) (hu : (⟨d, .data, w.regs, w.regs, true⟩ : Use) ∈ i.uses) :
    (∀ r, d = .v r → r.toNat + wordsOf w.bytes ≤ g.vbud) ∧ ∀ r, d = .s r → r.toNat + wordsOf w.bytes ≤ 64 := by
  have ho := legal_use hi.legal hu
  rw [wordsOf_bytes]
  refine ⟨?_, ?_⟩
  · rintro r rfl
    simp only [Use.ok, Use.fits, Bool.and_eq_true, decide_eq_true_eq] at ho
    exact ho.2.2
  · rintro r rfl
    simp only [Use.ok, Use.fits, Bool.and_eq_true, decide_eq_true_eq] at ho
    have := hs.sbud
    omega

theorem retire_takes (k : Group) (fe : List Nat) (d : Operand) (n : Nat) (acc : List (Nat × Nat)) (px : PReg) (uni : Bool) (held : Mask) (val : Nat → Nat)
    (sl : Slice) (m : Nat) : (k.takes fe d n acc px uni held val).retire sl false m = { k.retire sl false m with
      regs := (k.takes fe d n acc px uni held val).regs, vdirty := ((k.takes fe d n acc px uni held val).retire sl false m).vdirty,
      vwr := ((k.takes fe d n acc px uni held val).retire sl false m).vwr } := by
  have h := takes_frame k fe d n acc px uni held val
  generalize k.takes fe d n acc px uni held val = x at h ⊢
  rw [h]
  cases sl <;> rfl

theorem mustWait_nil (g : Group) (pid born : Nat) (k : OKind) (ks : List Nat) : g.mustWait [] pid born k ks = false := rfl

theorem lds_take_dmode {hd : Head} {w : Width} {sx : Bool} {o : OrdScope} {cp : CacheP} {d a : Operand} {off : BitVec 21} {key : Nat → Nat}
    (hs : Shaped g) (hx : px ≠ 0) (hi : Issues (.lds hd w sx o cp d a off true px) s g) (hdm : g.dmode = true) (hops : g.ops = [])
    (hl : accessLanes (envOf (.lds hd w sx o cp d a off true px) s g) d.isS ≠ [])
    (hk : ∀ l ∈ accessLanes (envOf (.lds hd w sx o cp d a off true px) s g) d.isS,
      AccessOk s g .s w.bytes l (accessAddr (envOf (.lds hd w sx o cp d a off true px) s g) .s a off l) (key l) false) :
    ∃ k gt fe, Passed (.lds hd w sx o cp d a off true px) s g k ∧ gt = { k with regs := gt.regs, vdirty := gt.vdirty, vwr := gt.vwr } ∧
      exec (.lds hd w sx o cp d a off true px) s = .next { Becomes s gt with nextId := s.nextId + 1, fe := fe } ∧
      Took s { s with fe := fe } g gt s.nextId false (envOf (.lds hd w sx o cp d a off true px) s g).p.held
        ((accessLanes (envOf (.lds hd w sx o cp d a off true px) s g) d.isS).map fun l => (l, key l)) w.bytes sx d px d.isS := by
  generalize hii : Instr.lds hd w sx o cp d a off true px = i at *
  have hex : exec i s = issue i (loadBody .s w sx o d a off (some px)) s := by rw [← hii]; rfl
  have huse : (⟨d, .data, w.regs, w.regs, true⟩ : Use) ∈ i.uses := by rw [← hii]; exact List.mem_cons_self
  let acc := (accessLanes (envOf i s g) d.isS).map fun l => (l, key l)
  let val : Nat → Nat := fun q => loadedNum ((byteKeys false q w.bytes).map (s.seen g s.nextId)) w.bytes sx
  obtain ⟨h, st, hn⟩ := issue_ok hi (loadBody .s w sx o d a off (some px))
  have hbody : loadBody .s w sx o d a off (some px) (envOf i s g) (s.setG s.cur.g h) = .ok { s.setG s.cur.g
      (h.takes s.fe d w.bytes acc px d.isS (envOf i s g).p.held val) with nextId := s.nextId + 1, fe := feAfterTake s.fe acc } := by
    rw [loadBody_checked hk]
    dsimp only
    rw [if_neg (by rwa [List.isEmpty_iff]), if_neg fun hh => absurd hh.1 Bool.false_ne_true, if_pos ⟨hdm, rfl⟩, hops, mustWait_nil,
      if_neg Bool.false_ne_true]
    have hnote : ∀ as, (s.setG s.cur.g h).noteAcc g .s as = s.setG s.cur.g h := fun as => rfl
    rw [hnote, groups_setG hi.here, Option.getD_some, performLoad_take (n := w.bytes) (sx := sx) (acc := acc) (uni := d.isS) (px := px) (d := d) rfl]
    have hseen := seen_started hi.here st (s.nextId + 1) s.nextId
    simp only [loadVal_eq]
    show Except.ok ({ ({ s.setG s.cur.g h with nextId := s.nextId + 1 } : State).setG s.cur.g (h.takes s.fe d w.bytes acc px d.isS (envOf i s g).p.held fun q =>
      loadedNum ((byteKeys false q w.bytes).map (({ s.setG s.cur.g h with nextId := s.nextId + 1 } : State).seen h s.nextId)) w.bytes sx) with
      fe := feAfterTake s.fe acc } : State) = _
    rw [hseen]
    unfold State.setG
    dsimp only
    rw [List.set_set]
  rw [hbody] at hn
  obtain ⟨fdv, fds⟩ := data_fits hi hs huse
  refine ⟨_, (h.takes s.fe d w.bytes acc px d.isS (envOf i s g).p.held val).retire s.cur.sl false (i.laneFlops * (envOf i s g).active.length),
    feAfterTake s.fe acc, passed_retire st (i.laneFlops * (envOf i s g).active.length), ?_, ?_, ?_⟩
  · rw [retire_takes]
  · rw [hex, hn]
    exact congrArg _ (becomes_of_setG hi.here _ (s.nextId + 1) (feAfterTake s.fe acc) s.ctxs s.tlbs _)
  · refine took_of_regs (k := h) hs (by rw [st.rest]) hx ?_ ?_ fdv fds rfl ?_
    · rw [List.map_map]
      show ((accessLanes (envOf i s g) d.isS).map fun l => l).Nodup
      rw [List.map_id']
      exact accessLanes_nodup _ _
    · rintro r rfl p hp
      obtain ⟨l, hl, rfl⟩ := List.mem_map.1 hp
      exact List.mem_range.1 (List.mem_filter.1 hl).1
    · obtain ⟨fl, as, hr⟩ := retire_eq (h.takes s.fe d w.bytes acc px d.isS (envOf i s g).p.held val) s.cur.sl (i.laneFlops * (envOf i s g).active.length)
      rw [hr]

/-! ### FETEST (R79) -/

section Fetest

variable {hd : Head} {op : FeOp} {o : OrdScope} {a : Operand} {off : BitVec 21} {gran : Nat → Nat}

/-- The active lanes with their granules. -/
def granules (e : Env) (gran : Nat → Nat) : List (Nat × Nat) := ((List.range 32).filter e.isActive).map fun l => (l, gran l)

/-- FETEST after its checks. -/
theorem fetestBody_checked
    (hk : ∀ l < 32, (envOf i s g).isActive l = true → ∃ k, s.sharedKey g (accessAddr (envOf i s g) .s a off l) 1 = .ok k ∧ gran l = granuleOf k) :
    fetestBody op o px a off (envOf i s g) (s.setG s.cur.g h) =
      if g.dmode ∧ op ≠ .test then
        if (granules (envOf i s g) gran).isEmpty then .ok (s.setG s.cur.g h)
        else (s.setG s.cur.g h).issueOp (envOf i s g)
          ((envOf i s g).op (.fetest (granules (envOf i s g) gran) (op == .set) px) (feKind op o.ord) o.scope (predRefs [px.toNat]) false) true
      else if g.mustWait g.ops (envOf i s g).p.id (envOf i s g).p.born (feKind op o.ord) [] ∨
          g.ops.any (fun x => g.before x (envOf i s g).p.id (envOf i s g).p.born && x.onGranules ((granules (envOf i s g) gran).map (·.2))) then .error .stall
      else .ok ((s.setG s.cur.g h).fetest s.cur.g (granules (envOf i s g) gran) op px) := by
  unfold fetestBody
  rw [show (envOf i s g).g = g from rfl]
  dsimp only
  rw [Tests.mapM_ok _ fun l => (l, gran l)]
  · rfl
  · intro l hl
    obtain ⟨hl, ha⟩ := List.mem_filter.1 hl
    obtain ⟨k, hk, hg⟩ := hk l (List.mem_range.1 hl) ha
    rw [address_eq, show (s.setG s.cur.g h).sharedKey g (accessAddr (envOf i s g) .s a off l) 1 = .ok k from hk, hg]

theorem granules_isEmpty (e : Env) (gran : Nat → Nat) : (granules e gran).isEmpty = true ↔ ∀ l < 32, e.isActive l = false := by
  unfold granules
  rw [List.isEmpty_map, List.isEmpty_iff, List.filter_eq_nil_iff]
  simp only [List.mem_range, Bool.not_eq_true]

/-- The full granules after a FETEST of these granules. -/
def feAfter (fe named : List Nat) : FeOp → List Nat
  | .test => fe
  | .set => fe ++ named.filter fun k => !fe.contains k
  | .clr => fe.filter fun k => !named.contains k

theorem mem_feAfter_set {fe named : List Nat} {x : Nat} : x ∈ feAfter fe named .set ↔ x ∈ fe ∨ x ∈ named := by
  show x ∈ fe ++ named.filter _ ↔ _
  rw [List.mem_append, List.mem_filter, Bool.not_eq_true', ← Bool.not_eq_true, List.contains_iff_mem]
  by_cases hin : x ∈ fe <;> simp [hin]

theorem mem_feAfter_clr {fe named : List Nat} {x : Nat} : x ∈ feAfter fe named .clr ↔ x ∈ fe ∧ x ∉ named := by
  show x ∈ fe.filter _ ↔ _
  rw [List.mem_filter, Bool.not_eq_true', ← Bool.not_eq_true, List.contains_iff_mem]

theorem fetest_setG (hg : s.groups[s.cur.g]? = some g) (gs : List (Nat × Nat)) : (s.setG s.cur.g h).fetest s.cur.g gs op px =
    { s.setG s.cur.g (h.setP px.toNat fun l => (gs.find? (·.1 == l)).map fun (p : Nat × Nat) => s.fe.contains p.2) with
      fe := feAfter s.fe (gs.map (·.2)).eraseDups op } := by
  unfold State.fetest
  rw [mapG_setG hg]
  cases op <;> rfl

/-- FETEST's effect: the predicate of the active lanes, and the granules. -/
theorem fetest_done (hi : Issues (.fetest hd op o px a off) s g) (hs : Shaped g)
    (hk : ∀ l < 32, (envOf (.fetest hd op o px a off) s g).isActive l = true →
      ∃ k, s.sharedKey g (accessAddr (envOf (.fetest hd op o px a off) s g) .s a off l) 1 = .ok k ∧ gran l = granuleOf k)
    (hd' : g.dmode = false ∨ op = .test) (hops : g.ops = []) :
    ∃ h' gt fe, Passed (.fetest hd op o px a off) s g h' ∧ exec (.fetest hd op o px a off) s = .next { Becomes s gt with fe := fe } ∧
      gt = { h' with regs := { h'.regs with p := gt.regs.p } } ∧
      (∀ q l, q < 64 → l < 32 → gt.pred q l =
        if q ≠ 0 ∧ q = px.toNat ∧ (envOf (.fetest hd op o px a off) s g).isActive l = true then decide (gran l ∈ s.fe) else g.pred q l) ∧
      fe = feAfter s.fe ((granules (envOf (.fetest hd op o px a off) s g) gran).map (·.2)).eraseDups op := by
  generalize hii : Instr.fetest hd op o px a off = i at *
  have hex : exec i s = issue i (fetestBody op o px a off) s := by rw [← hii]; rfl
  obtain ⟨h, st, hn⟩ := issue_ok hi (fetestBody op o px a off)
  let ans : Nat → Option Bool := fun l => ((granules (envOf i s g) gran).find? (·.1 == l)).map fun (p : Nat × Nat) => s.fe.contains p.2
  let m := i.laneFlops * (envOf i s g).active.length
  have hbody : fetestBody op o px a off (envOf i s g) (s.setG s.cur.g h) = .ok ((s.setG s.cur.g h).fetest s.cur.g (granules (envOf i s g) gran) op px) := by
    rw [fetestBody_checked hk, if_neg, if_neg]
    · rw [hops, mustWait_nil]
      rintro (hf | hf)
      · exact Bool.false_ne_true hf
      · exact Bool.false_ne_true hf
    · rintro ⟨h1, h2⟩
      rcases hd' with h3 | h3
      · rw [h3] at h1
        exact Bool.false_ne_true h1
      · exact h2 h3
  rw [hbody, fetest_setG hi.here] at hn
  have hlt : px.toNat < h.regs.p.length := by rw [st.rest, hs.p]; exact px.isLt
  have hret : (h.setP px.toNat ans).retire s.cur.sl false m = { h.retire s.cur.sl false m with
      regs := { (h.retire s.cur.sl false m).regs with p := ((h.setP px.toNat ans).retire s.cur.sl false m).regs.p } } := by
    unfold Group.setP
    split <;> cases s.cur.sl <;> rfl
  refine ⟨_, (h.setP px.toNat ans).retire s.cur.sl false m, _, passed_retire st m, ?_, hret, fun q l _ hl => ?_, rfl⟩
  · rw [hex, hn]
    exact congrArg _ (becomes_of_setG hi.here _ s.nextId _ s.ctxs s.tlbs _)
  · have hp : ((h.setP px.toNat ans).retire s.cur.sl false m).pred q l = (h.setP px.toNat ans).pred q l := by cases s.cur.sl <;> rfl
    have hg : h.pred q l = g.pred q l := by unfold Group.pred; rw [st.rest]
    rw [hp, pred_setP h _ _ hlt q l hl, hg]
    by_cases hq : q = px.toNat ∧ q ≠ 0
    · rw [if_pos hq]
      by_cases ha : (envOf i s g).isActive l = true
      · rw [if_pos ⟨hq.2, hq.1, ha⟩]
        have hmem : (l, gran l) ∈ granules (envOf i s g) gran := List.mem_map.2 ⟨l, List.mem_filter.2 ⟨List.mem_range.2 hl, ha⟩, rfl⟩
        have hnd : ((granules (envOf i s g) gran).map (·.1)).Nodup := by
          unfold granules
          rw [List.map_map]
          show (((List.range 32).filter _).map fun l => l).Nodup
          rw [List.map_id']
          exact List.nodup_range.filter _
        show (Option.map _ ((granules (envOf i s g) gran).find? (·.1 == l))).getD _ = _
        rw [find_key hnd hmem, Option.map_some, Option.getD_some, List.contains_eq_mem]
      · rw [if_neg fun hh => ha hh.2.2]
        show (Option.map _ ((granules (envOf i s g) gran).find? (·.1 == l))).getD _ = _
        rw [find_key_none]
        · rfl
        · intro hm
          obtain ⟨⟨l', x⟩, hx, rfl⟩ := List.mem_map.1 hm
          obtain ⟨l'', hl'', he⟩ := List.mem_map.1 hx
          cases he
          exact ha (List.mem_filter.1 hl'').2
    · rw [if_neg hq, if_neg fun hh => hq ⟨hh.2.1, hh.1⟩]

theorem mem_granules {e : Env} {x : Nat} : x ∈ ((granules e gran).map (·.2)).eraseDups ↔ ∃ l < 32, e.isActive l = true ∧ gran l = x := by
  rw [List.mem_eraseDups]
  unfold granules
  simp only [List.map_map, List.mem_map, List.mem_filter, List.mem_range, Function.comp_def, and_assoc]

end Fetest

end Issue

/-- Settles O23: TAKE by `takes`, FILL by `filled`, FETEST by `fetest_done` and by the commit buffer in D-mode. -/
theorem fullEmptyBits : Obligations.FullEmptyBits := by
  unfold Obligations.FullEmptyBits
  refine ⟨?take, ?dmode, ?fetest⟩
  case take =>
    intro s gi k g o px n uni hs w hf hm hl hx
    refine ⟨fun acc sx d ho _ hn h32 _ hdv hds hv c => ?_, fun acc ho hn _ => filled_acknowledged hs w hf hm hl hx ho hn⟩
    have hlt := (List.getElem?_eq_some_iff.1 (findOp_group hf).1).1
    exact ⟨_, _, loadCompletion_takes hf ho hm hl hv, rfl, rfl, List.getElem?_set_self hlt, regs_left g o,
      took_of_regs hs (regs_complete g o) hx hn (fun _ _ => h32) hdv hds rfl rfl⟩
  case dmode =>
    intro s g hd w sx o cp d a off px key hs hx i e ls acc hi hdm hops hl hk
    exact lds_take_dmode hs hx hi hdm hops hl hk
  case fetest =>
    intro s g hd op o px a off gran hs i e hi hk
    refine ⟨fun hdm hop => ⟨fun hno => ?_, fun hsome hc => ?_⟩, fun hd' hops => ?_⟩
    · refine passes_of_started (body := fetestBody op o px a off) hi rfl fun h => ?_
      rw [fetestBody_checked hk, if_pos ⟨hdm, hop⟩, if_pos ((granules_isEmpty _ _).2 hno)]
    · refine ⟨_, opOf_op i s g (.fetest (granules e gran) (op == .set) px) (feKind op o.ord) o.scope (predRefs [px.toNat]) false, rfl, rfl, rfl, ?_⟩
      refine queues_of_body (body := fetestBody op o px a off) hi rfl (fun h _ => ⟨s.ctxs, s.tlbs, rfl, ?_⟩) fun h n => retire_bufOp h _ _ n
      rw [fetestBody_checked hk, if_pos ⟨hdm, hop⟩, if_neg]
      · exact issueOp_buffered hi.here s.ctxs s.tlbs i _ (by rw [hdm]; rfl) hc
      · rw [granules_isEmpty]
        obtain ⟨l, hl, ha⟩ := hsome
        exact fun h => Bool.false_ne_true ((h l hl).symm.trans ha)
    · obtain ⟨h', gt, fe, hp, hx, hg, hpred, hfe⟩ := fetest_done hi hs hk hd' hops
      refine ⟨h', gt, fe, hp, hx, hg, hpred, ?_⟩
      cases op with
      | test => exact hfe
      | set =>
        intro x
        rw [hfe, mem_feAfter_set, mem_granules]
      | clr =>
        intro x
        rw [hfe, mem_feAfter_clr, mem_granules]
        exact and_congr_right fun _ => ⟨fun h l hl ha he => h ⟨l, hl, ha, he⟩, fun h ⟨l, hl, ha, he⟩ => h l hl ha he⟩

end Sys2Proof.Machine
end

section
/-! # BCLOSE, BWAIT and KVLOOK (O28) -/

namespace Sys2Proof.Machine

open Sys2Proof.Claims Sys2Proof.Safety

variable {s : State} {g h : Group} {hd : Head} {gd : Guard} {a b d : Operand} {px : PReg}

/-! ### BCLOSE (R98) -/

/-- A group whose open batch has been closed. -/
def Group.closed (g : Group) : Group :=
  { g with batches := g.batches ++ [⟨(g.lastb + 1).toNat, g.openLeft, g.openFail⟩], openLeft := [], openN := 0, openFail := none, lastb := g.lastb + 1 }

/-- The issue of an instruction does not look at a group's batches. -/
theorem started_closed {i : Instr} (st : Started i s g h) : Started i s g.closed h.closed := by
  refine ⟨?_, st.paths, st.apc, st.pops⟩
  unfold Group.closed
  rw [st.rest]

/-- BCLOSE's destination is an S register (R98). -/
theorem bclose_dest (hi : Issues (.bclose hd d) s g) : ∃ n : BitVec 6, d = .s n ∧ n.toNat < 64 := by
  have ho := legal_use hi.legal (u := ⟨d, .uni, 1, 1, true⟩) List.mem_cons_self
  cases d with
  | s n => exact ⟨n, rfl, n.isLt⟩
  | _ => simp [Use.ok] at ho

theorem sreg_only {k : Group} (hr : k.regs = h.regs) (n : Nat) : k.sreg n = h.sreg n := by unfold Group.sreg; rw [hr]

theorem bclose_completes (hi : Issues (.bclose hd d) s g) (hs : Shaped g) (hg : (envOf (.bclose hd d) s g).uguard = true) :
    CompletesIn (.bclose hd d) s g.closed
      fun e _ gt => WritesAll e g gt d false ((g.lastb + 1).setWidth 64) ∧ KeepsRegs e g gt (Instr.bclose hd d).dsts d ∧ KeepsPreds g gt := by
  obtain ⟨n, rfl, hn⟩ := bclose_dest hi
  obtain ⟨h, st, he⟩ := issue_mapG (body := bcloseBody (.s n)) (F := fun k => k.closed.setS n.toNat (((k.lastb + 1).setWidth 64).setWidth 32)) hi fun h =>
    (whenGuard_of_guard hg _).trans rfl
  have hl : h.lastb = g.lastb := by rw [st.rest]
  rw [hl] at he
  let x : Word := ((g.lastb + 1).setWidth 64).setWidth 32
  let m := (Instr.bclose hd (.s n)).laneFlops * (envOf (.bclose hd (.s n)) s g).active.length
  have hregs : h.closed.regs = g.regs := by show h.regs = g.regs; rw [st.rest]
  have hlen : n.toNat < h.closed.regs.s.length := by rw [hregs, hs.s]; exact hn
  obtain ⟨fl, as, hr⟩ := retire_eq (h.closed.setS n.toNat x) s.cur.sl m
  have hpid : (envOf (.bclose hd (.s n)) s g.closed).p.id = (envOf (.bclose hd (.s n)) s g).p.id := rfl
  have hin : SameRead (envOf (.bclose hd (.s n)) s g.closed).p.id h.closed g := by
    have := (st.sameRead (envOf (.bclose hd (.s n)) s g).p.id)
    exact ⟨this.regs.symm, this.path.symm⟩
  have hout : SameRead (envOf (.bclose hd (.s n)) s g.closed).p.id (h.closed.setS n.toNat x) ((h.closed.setS n.toNat x).retire s.cur.sl false m) := by
    rw [hr]; exact ⟨rfl, rfl⟩
  refine ⟨(h.closed.setS n.toNat x).retire s.cur.sl false m, he, ⟨⟨?_, fun hf => absurd hf Bool.false_ne_true⟩, ?_, fun p l _ _ => ?_⟩, ?_⟩
  · rw [hr]
    exact (sreg_setS _ _ _ hlen _).trans (if_pos rfl)
  · exact hin.keeps hout (fun _ hx => hx)
      (writeD_keepsRegs (envOf (.bclose hd (.s n)) s g.closed) h.closed (.s n) false (fun _ => some ((g.lastb + 1).setWidth 64)) hlen)
  · rw [hr]
    show h.pred p l = g.pred p l
    unfold Group.pred
    rw [st.rest]
  · exact keepsRest_of (started_closed st) (show OnlyRegs h.closed (h.closed.setS n.toNat x) from rfl) rfl (fun _ => rfl) m

/-! ### BWAIT (R98, R97, R239) -/

/-- The number of a BWAIT names a batch that has been closed. -/
def Group.closedNum (g : Group) (n : Word) : Bool := decide ((g.lastb - n).toNat < 2 ^ 31)

/-- A batch that a BWAIT of `n` awaits. -/
def Group.awaits (g : Group) (n : Word) (b : Batch) : Bool :=
  !g.closedNum n || decide ((g.lastb - n).toNat ≤ (g.lastb - BitVec.ofNat 32 b.num).toNat)

theorem awaitedBatches_eq (g : Group) (n : Word) : g.awaitedBatches n = g.batches.filter (g.awaits n) := by
  unfold Group.awaitedBatches Group.awaits
  split
  · next h =>
    have hc : g.closedNum n = true := decide_eq_true h
    simp only [hc, Bool.not_true, Bool.false_or]
  · next h =>
    have hc : g.closedNum n = false := decide_eq_false h
    simp only [hc, Bool.not_false, Bool.true_or, List.filter_true]

/-- BWAIT, by what it awaits. -/
theorem bwaitBody_eq {e : Env} (hg : e.uguard = true) (t : State) : bwaitBody a px e t =
    let n := e.rd32 a e.ulane
    let bs := e.g.batches.filter (e.g.awaits n)
    let left := bs.flatMap (·.left)
    if e.g.cbuf.any (fun o => match o.kind with
      | .accept _ c => left.contains c.id
      | _ => false) then .error .quantum
    else if !left.isEmpty then .error (.bwait left)
    else match bs.findSome? fun b => b.failed.map fun f => (b.num, f) with
      | some (k, f) => .error (.fault { f with info := some k, fatal := true })
      | none => .ok (t.mapG e.gi fun g =>
        { g.setPAll px.toNat e.p.held (e.g.closedNum n) with
          batches := (g.setPAll px.toNat e.p.held (e.g.closedNum n)).batches.filter (fun b => !bs.contains b),
          bwait := (g.setPAll px.toNat e.p.held (e.g.closedNum n)).bwait.filter (·.pid != e.p.id),
          qend := (g.setPAll px.toNat e.p.held (e.g.closedNum n)).qend || (g.setPAll px.toNat e.p.held (e.g.closedNum n)).dmode }) := by
  refine (whenGuard_of_guard hg t).trans ?_
  dsimp only
  rw [awaitedBatches_eq]
  rfl

/-- What a group's stalled BWAITs are once one of a path has stalled on these commands. -/
def Group.bwaitStalled (g : Group) (pid now : Nat) (ids posted : List Nat) : List BWaiting :=
  ((g.noteBwait pid now ids).tuneBwait now false posted).bwait

theorem noteBwait_frame (g : Group) (pid now : Nat) (ids : List Nat) : g.noteBwait pid now ids = { g with bwait := (g.noteBwait pid now ids).bwait } := by
  unfold Group.noteBwait
  split <;> rfl

theorem stop_bwait {q : Option Nat} (hs : s.snap = none) (hg : s.groups[s.cur.g]? = some g) (ids : List Nat) :
    s.stop (.bwait ids) q = { s with
      last := .stalled,
      groups := s.groups.set s.cur.g { g with bwait := g.bwaitStalled s.cur.p s.clock.toNat ids (s.ctx g.slot).posted } } := by
  have hx : s.stop (.bwait ids) q = (s.mapG s.cur.g fun g =>
      (g.noteBwait s.cur.p s.clock.toNat ids).tuneBwait s.clock.toNat false (s.ctx g.slot).posted).report .stalled := by
    unfold State.stop
    rw [hs]
  rw [hx, State.mapG, modify_eq_set hg]
  unfold Group.bwaitStalled Group.tuneBwait
  rw [noteBwait_frame]
  rfl

/-- The time of one stalled BWAIT that stands still or goes on. -/
def BWaiting.tuned (w : BWaiting) (now : Nat) (hold : Bool) : BWaiting :=
  match w.still, hold with
  | none, true => { w with still := some now }
  | some t, false => { w with since := w.since + (now - t), still := none }
  | _, _ => w

theorem tuned_names (w : BWaiting) (now : Nat) (hold : Bool) : (w.tuned now hold).pid = w.pid ∧ (w.tuned now hold).ids = w.ids := by
  unfold BWaiting.tuned
  split <;> exact ⟨rfl, rfl⟩

theorem tuned_since (w : BWaiting) (now : Nat) (hold : Bool) (h : w.still = none) : (w.tuned now hold).since = w.since := by
  unfold BWaiting.tuned
  rw [h]
  cases hold <;> rfl

theorem bwaitStalled_eq (g : Group) (pid now : Nat) (ids posted : List Nat) :
    ∃ hold : BWaiting → Bool, g.bwaitStalled pid now ids posted = (g.noteBwait pid now ids).bwait.map fun w => w.tuned now (hold w) :=
  ⟨fun w => false || w.ids.any posted.contains, List.map_congr_left fun w _ => by
    unfold BWaiting.tuned
    rfl⟩

theorem noteBwait_self (g : Group) (pid now : Nat) (ids : List Nat) :
    ∃ w ∈ (g.noteBwait pid now ids).bwait, w.pid = pid ∧ w.ids = ids ∧ ((∀ x ∈ g.bwait, x.pid ≠ pid) → w.since = now ∧ w.still = none) := by
  unfold Group.noteBwait
  split
  · next h =>
    obtain ⟨w, hw, hp⟩ := List.any_eq_true.1 h
    rw [beq_iff_eq] at hp
    exact ⟨{ w with ids := ids }, List.mem_map.2 ⟨w, hw, by rw [if_pos (by rw [beq_iff_eq]; exact hp)]⟩, hp, rfl, fun hno => absurd hp (hno w hw)⟩
  · exact ⟨_, List.mem_append_right _ List.mem_cons_self, rfl, rfl, fun _ => ⟨rfl, rfl⟩⟩

theorem noteBwait_other (g : Group) (pid now : Nat) (ids : List Nat) {w : BWaiting} (hw : w ∈ g.bwait) (hp : w.pid ≠ pid) :
    w ∈ (g.noteBwait pid now ids).bwait := by
  unfold Group.noteBwait
  split
  · exact List.mem_map.2 ⟨w, hw, if_neg (by rw [beq_iff_eq]; exact hp)⟩
  · exact List.mem_append_left _ hw

theorem findSome_first {pre post : List Batch} {bt : Batch} {f : FaultInfo} {p : Batch → Bool} (hb : p bt = true) (hf : bt.failed = some f)
    (hpre : ∀ x ∈ pre, p x = true → x.failed = none) :
    ((pre ++ bt :: post).filter p).findSome? (fun b => b.failed.map fun f => (b.num, f)) = some (bt.num, f) := by
  rw [List.filter_append, List.filter_cons_of_pos hb, List.findSome?_append]
  rw [List.findSome?_eq_none_iff.2 fun x hx => ?_]
  · rw [List.findSome?_cons, hf]
    rfl
  · obtain ⟨hx, hp⟩ := List.mem_filter.1 hx
    rw [hpre x hx hp]
    rfl

theorem bwait_faults {pre post : List Batch} {bt : Batch} {f : FaultInfo} (hg : (envOf (.bwait hd a px) s g).uguard = true)
    (hl : (g.batches.filter (g.awaits ((envOf (.bwait hd a px) s g).rd32 a (envOf (.bwait hd a px) s g).ulane))).flatMap (·.left) = [])
    (hbs : g.batches = pre ++ bt :: post) (hb : g.awaits ((envOf (.bwait hd a px) s g).rd32 a (envOf (.bwait hd a px) s g).ulane) bt = true)
    (hf : bt.failed = some f)
    (hpre : ∀ x ∈ pre, g.awaits ((envOf (.bwait hd a px) s g).rd32 a (envOf (.bwait hd a px) s g).ulane) x = true → x.failed = none) (h : Group) :
    bwaitBody a px (envOf (.bwait hd a px) s g) (s.setG s.cur.g h) = .error (.fault { f with info := some bt.num, fatal := true }) := by
  rw [bwaitBody_eq hg]
  dsimp only
  rw [show (envOf (.bwait hd a px) s g).g = g from rfl, hl]
  rw [if_neg, if_neg, hbs, findSome_first hb hf hpre]
  · exact fun h => Bool.false_ne_true h
  · rw [Bool.not_eq_true, List.any_eq_false]
    intro o _
    split <;> simp

/-- A group whose BWAIT lets its batches go. -/
def Group.letGo (k : Group) (px : PReg) (held : Mask) (c : Bool) (bs : List Batch) (pid : Nat) : Group :=
  { k.setPAll px.toNat held c with
    batches := k.batches.filter fun b => !bs.contains b, bwait := k.bwait.filter (·.pid != pid), qend := k.qend || k.dmode }

section Letting

variable (k : Group) (px : PReg) (held : Mask) (c : Bool) (bs : List Batch) (pid : Nat) (sl : Slice) (m : Nat)

theorem letGo_bwait : ((k.letGo px held c bs pid).retire sl false m).bwait = k.bwait.filter (·.pid != pid) := by
  cases sl <;> rfl

theorem letGo_batches : ((k.letGo px held c bs pid).retire sl false m).batches = k.batches.filter fun b => !bs.contains b := by
  cases sl <;> rfl

theorem letGo_pred (p l : Nat) : ((k.letGo px held c bs pid).retire sl false m).pred p l = (k.setPAll px.toNat held c).pred p l := by
  cases sl <;> rfl

end Letting

theorem bwait_releases (hi : Issues (.bwait hd a px) s g) (hg : (envOf (.bwait hd a px) s g).uguard = true)
    (hl : (g.batches.filter (g.awaits ((envOf (.bwait hd a px) s g).rd32 a (envOf (.bwait hd a px) s g).ulane))).flatMap (·.left) = [])
    (hno : ∀ b ∈ g.batches, g.awaits ((envOf (.bwait hd a px) s g).rd32 a (envOf (.bwait hd a px) s g).ulane) b = true → b.failed = none) :
    ∃ h m, Started (.bwait hd a px) s g h ∧ exec (.bwait hd a px) s = .next (Becomes s
      ((h.letGo px (envOf (.bwait hd a px) s g).p.held (g.closedNum ((envOf (.bwait hd a px) s g).rd32 a (envOf (.bwait hd a px) s g).ulane))
        (g.batches.filter (g.awaits ((envOf (.bwait hd a px) s g).rd32 a (envOf (.bwait hd a px) s g).ulane)))
        (envOf (.bwait hd a px) s g).p.id).retire s.cur.sl false m)) := by
  have hb : ∀ h, bwaitBody a px (envOf (.bwait hd a px) s g) (s.setG s.cur.g h) = .ok ((s.setG s.cur.g h).mapG s.cur.g fun k =>
      k.letGo px (envOf (.bwait hd a px) s g).p.held (g.closedNum ((envOf (.bwait hd a px) s g).rd32 a (envOf (.bwait hd a px) s g).ulane))
        (g.batches.filter (g.awaits ((envOf (.bwait hd a px) s g).rd32 a (envOf (.bwait hd a px) s g).ulane))) (envOf (.bwait hd a px) s g).p.id) := by
    intro h
    rw [bwaitBody_eq hg]
    dsimp only
    rw [show (envOf (.bwait hd a px) s g).g = g from rfl, hl, if_neg, if_neg]
    · rw [List.findSome?_eq_none_iff.2]
      · dsimp only
        refine congrArg Except.ok (congrArg _ (funext fun k => ?_))
        unfold Group.letGo Group.setPAll Group.setP
        split <;> rfl
      · intro x hx
        obtain ⟨hx, hp⟩ := List.mem_filter.1 hx
        rw [hno x hx hp]
        rfl
    · exact fun h => Bool.false_ne_true h
    · rw [Bool.not_eq_true, List.any_eq_false]
      intro o _
      split <;> simp
  obtain ⟨h, st, hn⟩ := issue_mapG (body := bwaitBody a px) hi hb
  exact ⟨h, _, st, hn⟩

/-! ### KVLOOK (R102, R103) -/

section Kvlook

variable {inv : Bool} {dn : BitVec 6} {k : KvDesc}

/-- The position that a KVLOOK names. -/
def kvPos (e : Env) (b : Operand) : Nat := (e.rd b true 0).toNat
/-- The sequence descriptor that a KVLOOK names. -/
def kvSd (e : Env) (a : Operand) : Nat := (e.rd a true 0).toNat

/-- The A register of a KVLOOK written in a state. -/
def putA (s : State) (gi : Nat) (dn : BitVec 6) (x : DWord) : State := s.mapG gi fun g => g.setA dn.toNat x

/-- KVLOOK with the last QSYNC passed. -/
theorem kvlookBody_eq {e : Env} (hq : e.g.qsyncWaits = false) (t : State) : kvlookBody inv (.a dn) a b e t =
    if 2 ^ 32 ≤ kvPos e b then faultAt .kvRange (kvSd e a)
    else match kvDesc (t.readG e.g.gid.cluster e.g.slot) (kvSd e a) with
      | .error f => liftF (.error f)
      | .ok k =>
        if k.cap ≤ kvPos e b / 16 then faultAt .kvRange (kvSd e a)
        else if inv then .ok (putA (t.setCl e.g.gid.cluster { t.cl e.g.gid.cluster with
          kvtb := (t.cl e.g.gid.cluster).kvtb.filter fun q => !(q.1 == e.g.slot && q.2.1 == kvSd e a) }) e.gi dn (BitVec.ofNat 64 0))
        else match t.kvBlock e.g.gid.cluster e.g.slot (kvSd e a) (kvPos e b / 16) k (t.readG e.g.gid.cluster e.g.slot) with
          | .error f => liftF (.error f)
          | .ok r => .ok (putA r.1 e.gi dn (BitVec.ofNat 64 (k.row r.2 (kvPos e b % 16) false))) := by
  unfold kvlookBody
  rw [hq, if_neg Bool.false_ne_true]
  rfl

/-- What a KVLOOK looks up, from the entry of the KVTB or from the table. -/
theorem kvBlock_eq {cl slot sd lb n : Nat} {rd : Nat → Nat → Except (FCode × Nat) Nat} (t : State)
    (hn : ∀ q, (t.cl cl).kvtb.find? (isKv slot sd lb) = some q → n = q.2.2.2)
    (hr : (t.cl cl).kvtb.find? (isKv slot sd lb) = none → rd (k.table + 4 * lb) 4 = .ok n) :
    t.kvBlock cl slot sd lb k rd = if n = 0xFFFFFFFF then .error (.kvUnmapped, k.table + 4 * lb)
      else if k.nblk ≤ n then .error (.kvRange, k.table + 4 * lb) else .ok (t.kvNote cl slot sd lb n, n) := by
  unfold State.kvBlock
  cases hf : (t.cl cl).kvtb.find? (isKv slot sd lb) with
  | some q =>
    dsimp only
    rw [hn q hf]
  | none =>
    dsimp only
    rw [hr hf]

/-- The KVTB after a block number has entered it (R102). -/
def kvtbAfter (q : List (Nat × Nat × Nat × Nat)) (slot sd lb n : Nat) : List (Nat × Nat × Nat × Nat) :=
  let r := q.filter (fun p => !isKv slot sd lb p) ++ [(slot, sd, lb, n)]
  r.drop (r.length - 512)

theorem kvNote_eq (t : State) (cl slot sd lb n : Nat) :
    t.kvNote cl slot sd lb n = t.setCl cl { t.cl cl with kvtb := kvtbAfter (t.cl cl).kvtb slot sd lb n } := rfl

theorem kvtbAfter_keeps (q : List (Nat × Nat × Nat × Nat)) (slot sd lb n : Nat) :
    (kvtbAfter q slot sd lb n).getLast? = some (slot, sd, lb, n) ∧ (kvtbAfter q slot sd lb n).length ≤ 512 ∧
      ∀ x ∈ kvtbAfter q slot sd lb n, x = (slot, sd, lb, n) ∨ x ∈ q := by
  unfold kvtbAfter
  dsimp only
  generalize hr : q.filter (fun p => !isKv slot sd lb p) ++ [(slot, sd, lb, n)] = r
  have hlen : 0 < r.length := by subst hr; simp
  refine ⟨?_, by rw [List.length_drop]; omega, fun x hx => ?_⟩
  · rw [List.getLast?_drop, if_neg (by omega), ← hr, List.getLast?_concat]
  · have hx := List.mem_of_mem_drop hx
    rw [← hr, List.mem_append, List.mem_singleton, List.mem_filter] at hx
    rcases hx with hx | hx
    · exact .inr hx.1
    · exact .inl hx

/-- A KVLOOK that writes its register and a cluster. -/
theorem kvlook_writes (hi : Issues (.kvlook gd inv (.a dn) a b) s g) (hs : Shaped g) {x : DWord} {cs : List Cluster}
    (hb : ∀ h, kvlookBody inv (.a dn) a b (envOf (.kvlook gd inv (.a dn) a b) s g) (s.setG s.cur.g h) =
      .ok (putA { s.setG s.cur.g h with clusters := cs } s.cur.g dn x)) :
    ∃ h gt, Passed (.kvlook gd inv (.a dn) a b) s g h ∧ gt = { h with regs := gt.regs } ∧
      KeepsRegs (envOf (.kvlook gd inv (.a dn) a b) s g) g gt [.a dn.toNat] (.a dn) ∧ KeepsPreds g gt ∧ gt.areg dn.toNat = x ∧
      exec (.kvlook gd inv (.a dn) a b) s = .next { Becomes s gt with clusters := cs } := by
  obtain ⟨h, st, hn⟩ := issue_ok hi (kvlookBody inv (.a dn) a b)
  rw [hb h] at hn
  let m := (Instr.kvlook gd inv (.a dn) a b).laneFlops * (envOf (.kvlook gd inv (.a dn) a b) s g).active.length
  obtain ⟨hv, hk, hp⟩ := setA_retired st rfl rfl hs dn x m
  refine ⟨_, (h.setA dn.toNat x).retire s.cur.sl false m, passed_retire st m, retire_setA h _ _ _ _, hk, hp, hv, hn.trans ?_⟩
  have h1 := mapG_setG (h := h) hi.here fun k => k.setA dn.toNat x
  have h2 := becomes_of_setG hi.here (h.setA dn.toNat x) s.nextId s.fe s.ctxs s.tlbs fun k => k.retire s.cur.sl false m
  have h3 : putA { s.setG s.cur.g h with clusters := cs } s.cur.g dn x = { s.setG s.cur.g (h.setA dn.toNat x) with clusters := cs } :=
    congrArg (fun t : State => { t with clusters := cs }) h1
  dsimp only
  rw [h3]
  exact congrArg (fun t : State => Host.Outcome.next { t with clusters := cs }) h2

/-- A KVLOOK that raises a fault. -/
theorem kvlook_faults {c : FCode} {ad : Nat} (hi : Issues (.kvlook gd inv (.a dn) a b) s g)
    (hb : ∀ h, kvlookBody inv (.a dn) a b (envOf (.kvlook gd inv (.a dn) a b) s g) (s.setG s.cur.g h) = .error (.fault { code := c, addr := ad })) :
    Faults (.kvlook gd inv (.a dn) a b) s c :=
  faults_of_body (f := { code := c, addr := ad }) (body := kvlookBody inv (.a dn) a b) hi rfl fun h _ => hb h

theorem row_ofNat (k : KvDesc) (n p : Nat) : BitVec.ofNat 64 (k.row n (p % 16) false) = BitVec.ofNat 64 (k.pool + n * 32 * k.rb + p % 16 * k.rb) := by
  apply BitVec.eq_of_toNat_eq
  rw [BitVec.toNat_ofNat, BitVec.toNat_ofNat]
  exact Nat.mod_mod _ _

end Kvlook

/-- Settles O28: BCLOSE and BWAIT by their branches over the awaited batches, KVLOOK by its checks and by what the KVTB then holds. -/
theorem batchesAndLookup : Obligations.BatchesAndLookup := by
  unfold Obligations.BatchesAndLookup
  constructor
  · intro s g hd a d px hs
    refine ⟨fun hi hg => bclose_completes hi hs hg, ?_⟩
    intro hi hg e n closed awaits left
    have hcl : closed = g.closedNum n := rfl
    have haw : awaits = g.awaits n := rfl
    refine ⟨fun hne hc => ?_, fun hl pre bt post f hbs hb hf hpre => ?_, fun hl hno => ?_⟩
    · refine ⟨g.bwaitStalled s.cur.p s.clock.toNat left (s.ctx g.slot).posted, ?_, ?_, ?_⟩
      · refine (exec_of_stop (st := .bwait left) (body := bwaitBody a px) hi rfl fun h _ => ?_).trans (congrArg _ (stop_bwait hi.alone hi.here left))
        rw [bwaitBody_eq hg]
        dsimp only
        rw [show (envOf (.bwait hd a px) s g).g = g from rfl, hc, if_neg, if_pos]
        · rfl
        · rw [Bool.not_eq_true', List.isEmpty_eq_false_iff]
          exact hne
        · exact fun h => Bool.false_ne_true h
      · obtain ⟨hold, hmap⟩ := bwaitStalled_eq g s.cur.p s.clock.toNat left (s.ctx g.slot).posted
        obtain ⟨w, hw, hp, hid, hsince⟩ := noteBwait_self g s.cur.p s.clock.toNat left
        have hn := tuned_names w s.clock.toNat (hold w)
        refine ⟨w.tuned s.clock.toNat (hold w), hmap ▸ List.mem_map.2 ⟨w, hw, rfl⟩, hn.1.trans hp, hn.2.trans hid, fun hall => ?_⟩
        rw [tuned_since _ _ _ (hsince hall).2]
        exact (hsince hall).1
      · intro w hw hp
        obtain ⟨hold, hmap⟩ := bwaitStalled_eq g s.cur.p s.clock.toNat left (s.ctx g.slot).posted
        have hn := tuned_names w s.clock.toNat (hold w)
        exact ⟨w.tuned s.clock.toNat (hold w), hmap ▸ List.mem_map.2 ⟨w, noteBwait_other g _ _ _ hw hp, rfl⟩, hn.1, hn.2⟩
    · have hx := exec_of_stop (st := .fault { f with info := some bt.num, fatal := true }) (body := bwaitBody a px) hi rfl fun h _ =>
        bwait_faults hg hl hbs hb hf hpre h
      refine ⟨⟨_, hx, stop_fault_report s _ _⟩, fun hsl => hx.trans (congrArg _ ?_)⟩
      exact stop_fault_c hi.alone hsl
    · obtain ⟨h, m, st, hx⟩ := bwait_releases hi hg hl hno
      have hbw : h.bwait = g.bwait := by rw [st.rest]
      have hba : h.batches = g.batches := by rw [st.rest]
      have hq : h.qend = g.qend := by rw [st.rest]
      have hd : h.dmode = g.dmode := by rw [st.rest]
      refine ⟨_, _, passed_retire st m, hx, ?_, fun w => ?_, fun b => ?_, fun p l _ hl => ?_⟩
      · rw [← hq, ← hd]
        unfold Group.letGo Group.setPAll Group.setP
        split <;> cases s.cur.sl <;> rfl
      · rw [letGo_bwait, hbw, List.mem_filter, bne_iff_ne]
      · rw [letGo_batches, hba, List.mem_filter, Bool.not_eq_true', ← Bool.not_eq_true, List.contains_iff_mem]
        exact Iff.rfl
      · rw [letGo_pred]
        have hg : h.pred p l = g.pred p l := by unfold Group.pred; rw [st.rest]
        rw [setPAll_pred h _ _ _ (by rw [st.rest, hs.p]; exact px.isLt) p l hl, hg]
        by_cases hc : p ≠ 0 ∧ p = px.toNat ∧ e.p.held.getLsbD l = true
        · rw [if_pos hc, if_pos ⟨hc.2.1, hc.1, hc.2.2⟩]
          exact hcl.symm
        · rw [if_neg hc, if_neg fun h => hc ⟨h.2.1, h.1, h.2.2⟩]
  · intro s g gd inv dn a b k hs i e sd p cl ta found hi hq
    have hbody := fun h => kvlookBody_eq (inv := inv) (dn := dn) (a := a) (b := b) (e := e) hq (s.setG s.cur.g h)
    refine ⟨fun hp => ?_, fun hp hk => ⟨fun hc => ?_, fun hc hin => ?_, fun hc hin n hn => ⟨fun hn1 => ?_, fun hn1 hn2 => ?_, fun hn1 hn2 => ?_⟩⟩⟩
    · exact kvlook_faults (ad := sd) hi fun h => (hbody h).trans (if_pos hp)
    all_goals
      have hdesc : ∀ h, kvDesc ((s.setG s.cur.g h).readG e.g.gid.cluster e.g.slot) (kvSd e a) = .ok k := fun _ => hk
      have hbody' := fun h => (hbody h).trans (if_neg (show ¬ 2 ^ 32 ≤ kvPos e b by show ¬ 2 ^ 32 ≤ p; omega))
      simp only [hdesc] at hbody'
    · exact kvlook_faults (ad := sd) hi fun h => (hbody' h).trans (if_pos hc)
    · refine kvlook_writes (x := 0) hi hs fun h => (hbody' h).trans ((if_neg (show ¬ k.cap ≤ kvPos e b / 16 by show ¬ k.cap ≤ p / 16; omega)).trans ((if_pos hin).trans ?_))
      rfl
    all_goals
      have hblk : ∀ h, (s.setG s.cur.g h).kvBlock e.g.gid.cluster e.g.slot (kvSd e a) (kvPos e b / 16) k
          ((s.setG s.cur.g h).readG e.g.gid.cluster e.g.slot) = _ := fun h =>
        kvBlock_eq (s.setG s.cur.g h) (fun q hf => by rw [show found = some q from hf] at hn; exact hn)
          (fun hf => by rw [show found = none from hf] at hn; exact hn)
      have hbody'' := fun h => (hbody' h).trans ((if_neg (show ¬ k.cap ≤ kvPos e b / 16 by show ¬ k.cap ≤ p / 16; omega)).trans
        (if_neg (by rw [hin]; exact Bool.false_ne_true)))
      simp only [hblk] at hbody''
    · refine kvlook_faults (ad := ta) hi fun h => (hbody'' h).trans ?_
      rw [if_pos hn1]
      rfl
    · refine kvlook_faults (ad := ta) hi fun h => (hbody'' h).trans ?_
      rw [if_neg hn1, if_pos hn2]
      rfl
    · obtain ⟨h1, h2, h3⟩ := kvtbAfter_keeps (s.cl cl).kvtb g.slot sd (p / 16) n
      obtain ⟨h, gt, hp, hg, hkr, hkp, hv, hx⟩ := kvlook_writes (x := BitVec.ofNat 64 (k.pool + n * 32 * k.rb + p % 16 * k.rb))
        (cs := s.clusters.set cl { s.cl cl with kvtb := kvtbAfter (s.cl cl).kvtb g.slot sd (p / 16) n }) hi hs fun h => (hbody'' h).trans (by
          rw [if_neg hn1, if_neg (by omega), ← row_ofNat]
          rfl)
      exact ⟨h, gt, _, hp, hg, hkr, hkp, hv, hx, h1, h2, h3⟩

end Sys2Proof.Machine
end

section
/-! # Engine commands are accepted (O26)

Every body that hands a command to an engine ends in `State.command` once its checks pass; the Lathe's go through `State.enter` first. -/

namespace Sys2Proof.Machine

open Sys2Proof.Claims Sys2Proof.Safety

variable {i : Instr} {s : State} {g : Group}

/-! ### Contexts that differ in their window caches -/

theorem ptbase_of_blank {cs ct : List Context} (h : cs.map blankCaches = ct.map blankCaches) (k : Nat) : (cs.getD k {}).ptbase = (ct.getD k {}).ptbase := by
  have hk := congrArg (fun l : List Context => (l[k]?).map Context.ptbase) h
  simp only [List.getElem?_map, Option.map_map] at hk
  rw [List.getD_eq_getElem?_getD, List.getD_eq_getElem?_getD]
  cases ha : cs[k]? <;> cases hb : ct[k]? <;> rw [ha, hb] at hk
  · cases hk
  · cases hk
  · exact Option.some.inj hk

/-- What is translated does not depend on the window caches (R332). -/
theorem regspaceAt_of_blank (t : State) {cs : List Context} (h : cs.map blankCaches = t.ctxs.map blankCaches) (cl slot a n : Nat) :
    ({ t with ctxs := cs } : State).regspaceAt cl slot a n = t.regspaceAt cl slot a n := by
  have hw : ∀ va, ({ t with ctxs := cs } : State).walkOf slot va = t.walkOf slot va := fun va => by
    unfold State.walkOf State.ctx
    rw [ptbase_of_blank h slot]
  have hl : ({ t with ctxs := cs } : State).leaf cl slot = t.leaf cl slot := funext fun va => by
    unfold State.leaf
    rw [hw]
    rfl
  unfold State.regspaceAt
  rw [hl]

/-- A window noted where an address is a peer one. -/
theorem noteWinIf_frame (t : State) (p : Prop) [Decidable p] (slot va : Nat) : ∃ cs, cs.map blankCaches = t.ctxs.map blankCaches ∧
    (if p then t.noteWin slot va else t) = { t with ctxs := cs } := by
  split
  · exact ⟨_, (t.noteWin_frame slot va).2, (t.noteWin_frame slot va).1⟩
  · exact ⟨_, rfl, rfl⟩

/-! ### The checks of register-space pages (R33) -/

theorem regspace_ok {e : Env} {t : State} {rs : List (Nat × Nat)} (h : ∀ r ∈ rs, t.regspaceAt e.g.gid.cluster e.g.slot r.1 r.2 = none)
    (next : Except Stop State) : e.regspace t rs next = next := by
  unfold Env.regspace
  rw [List.findSome?_eq_none_iff.2 h]

theorem regspace_fault {e : Env} {t : State} {rs : List (Nat × Nat)} (h : ¬ ∀ r ∈ rs, t.regspaceAt e.g.gid.cluster e.g.slot r.1 r.2 = none)
    (next : Except Stop State) : ∃ f : FaultInfo, f.code = .regspaceAccess ∧ e.regspace t rs next = .error (.fault f) := by
  unfold Env.regspace
  cases hf : rs.findSome? fun r => t.regspaceAt e.g.gid.cluster e.g.slot r.1 r.2 with
  | none => exact absurd (List.findSome?_eq_none_iff.1 hf) h
  | some a => exact ⟨_, rfl, rfl⟩

theorem allOk_ok {xs : List (Except (FCode × Nat) Unit)} (h : ∀ x ∈ xs, x = .ok ()) : allOk xs = .ok () := by
  unfold allOk
  induction xs with
  | nil => rfl
  | cons x xs ih =>
    rw [List.foldl_cons]
    dsimp only
    rw [h x (List.mem_cons_self ..)]
    exact ih fun y hy => h y (List.mem_cons_of_mem _ hy)

/-! ### Checks of an issuing instruction do not look at the groups -/

section Unmoved

variable (i : Nat) (k q : Group)

theorem acpCheck_setG (sp : Space) (a n : Nat) (wr : Bool) : (s.setG i k).acpCheck q sp a n wr = s.acpCheck q sp a n wr := by
  cases sp <;> rfl

theorem regspaceAt_setG (cl slot a n : Nat) : (s.setG i k).regspaceAt cl slot a n = s.regspaceAt cl slot a n := rfl

theorem scratchKey_setG (slot a n : Nat) : (s.setG i k).scratchKey slot a n = s.scratchKey slot a n := rfl

theorem sharedKey_setG (a n : Nat) : (s.setG i k).sharedKey q a n = s.sharedKey q a n := rfl

theorem tagCheck_setG (a n al : Nat) (ts : List Nat) : (s.setG i k).tagCheck q a n al ts = s.tagCheck q a n al ts := by
  unfold State.tagCheck State.tagBound
  rw [regspaceAt_setG, sharedKey_setG, scratchKey_setG]

theorem tagStart_setG (a : Nat) : (s.setG i k).tagStart q a = s.tagStart q a := by
  unfold State.tagStart
  rw [regspaceAt_setG]

theorem scaleCheck_setG (f : FmtBlock) (n : Nat) : (s.setG i k).scaleCheck q f n = s.scaleCheck q f n := by
  unfold State.scaleCheck
  rw [tagCheck_setG]

theorem tileBusy_setG (ts : List Nat) : (s.setG i k).tileBusy q ts = s.tileBusy q ts := rfl

end Unmoved

/-! ### The commands of the copy, gather and Trowel engines -/

/-- The instruction of a form hands its command to its engine, whatever it has noted in the window caches. -/
def Hands (s : State) (g : Group) (r : CommandForm) : Prop :=
  ∃ body, exec r.i s = issue r.i body s ∧ ∀ h, ∃ cs, cs.map blankCaches = s.ctxs.map blankCaches ∧
    body (envOf r.i s g) (s.setG s.cur.g h) =
      ({ s.setG s.cur.g h with ctxs := cs } : State).command (envOf r.i s g) r.eng ((envOf r.i s g).cmd r.ar r.kind) r.batch r.dsts

section Bodies

variable {e : Env} {t : State} {ss ds : Space} {bar sc : Bool} {ar : AcqRel} {d a b c : Operand} {rows : KvRows} {dim : BitVec 2} {f : RowFmt}
  {width : BitVec 11} {px : PReg}

theorem acpBody_eq (hu : e.uguard = true) (ha : e.u64 a % 16 = 0) (hb : e.u64 b % 16 = 0) (hc : e.u32 c % 16 = 0)
    (hs : t.acpCheck e.g ss (e.u64 a) (e.u32 c) false = .ok ()) (hd : t.acpCheck e.g ds (e.u64 b) (e.u32 c) true = .ok ())
    (hp : ∀ r ∈ globRange ss (e.u64 a) (e.u32 c) ++ globRange ds (e.u64 b) (e.u32 c), t.regspaceAt e.g.gid.cluster e.g.slot r.1 r.2 = none) :
    ∃ cs, cs.map blankCaches = t.ctxs.map blankCaches ∧ acpBody ss ds bar ar d a b c e t =
      ({ t with ctxs := cs } : State).command e .copy
        (e.cmd ar (.acp ss ds (e.u64 a) (e.u64 b) (e.u32 c) (if bar then some (e.u64 d) else none))) true [] := by
  obtain ⟨cs, hcs, h1⟩ := noteWinIf_frame t (ss = .peer) e.g.slot (e.u64 a)
  obtain ⟨cs', hcs', h2⟩ := noteWinIf_frame { t with ctxs := cs } (ds = .peer) e.g.slot (e.u64 b)
  have hf : [e.u64 a, e.u64 b, e.u32 c].find? (fun x => x % 16 != 0) = none := by simp [ha, hb, hc]
  refine ⟨cs', hcs'.trans hcs, (whenGuard_of_guard hu t).trans ?_⟩
  dsimp only
  rw [hf, hs, hd]
  dsimp only
  rw [h1, h2]
  exact regspace_ok (fun r hr => (regspaceAt_of_blank t (hcs'.trans hcs) _ _ _ _).trans (hp r hr)) _

theorem kvgatherBody_eq {k : Nat} (hu : e.uguard = true) (h1 : 1 ≤ e.u64 b / 2 ^ 32) (h2 : e.u64 b / 2 ^ 32 ≤ 4096) (hc : e.u32 c % 16 = 0)
    (hp : ∀ r ∈ [(e.u64 a, 32)], t.regspaceAt e.g.gid.cluster e.g.slot r.1 r.2 = none)
    (hk : (if sc then t.scratchKey e.g.slot (e.u32 c) ((if rows = .kv then 2 * (e.u64 b / 2 ^ 32) else e.u64 b / 2 ^ 32) * 1024)
      else t.sharedKey e.g (e.u32 c) ((if rows = .kv then 2 * (e.u64 b / 2 ^ 32) else e.u64 b / 2 ^ 32) * 1024)) = .ok k) :
    kvgatherBody rows sc ar a b c e t =
      t.command e .gather (e.cmd ar (.kvgather rows sc (e.u64 a) (e.u64 b % 2 ^ 32) (e.u64 b / 2 ^ 32) (e.u32 c))) true [] := by
  refine (whenGuard_of_guard hu t).trans ((if_neg (by omega)).trans ((if_neg (not_not.2 hc)).trans ?_))
  rw [hk]
  exact regspace_ok hp _

theorem kvappendBody_eq {dn : BitVec 6} (hu : e.uguard = true) (h1 : 1 ≤ e.u32 b) (h2 : e.u32 b ≤ 1024) :
    kvappendBody ar (.s dn) a b px e t = e.regspace t [(e.u64 a, 16 * e.u32 b)]
      (t.command e .gather (e.cmd ar (.kvappend dn.toNat px.toNat (e.u64 a) (e.u32 b))) true (destRefs (.s dn) 1 ++ predRefs [px.toNat])) :=
  (whenGuard_of_guard hu t).trans (if_neg (by omega))

theorem kvshareBody_eq {dn : BitVec 6} (hu : e.uguard = true) :
    kvshareBody ar (.s dn) a b c px e t = e.regspace t [(e.u64 a, 32), (e.u64 b, 32)]
      (t.command e .gather (e.cmd ar (.kvshare dn.toNat px.toNat (e.u64 a) (e.u64 b) (e.u32 c))) true (destRefs (.s dn) 1 ++ predRefs [px.toNat])) :=
  whenGuard_of_guard hu t

theorem tmatchBody_eq (hu : e.uguard = true) (ht : 1 ≤ ebits (e.u64 c) 31 0) (ht' : ebits (e.u64 c) 31 0 ≤ 65535) (hd : 1 ≤ ebits (e.u64 c) 51 48)
    (hd' : ebits (e.u64 c) 51 48 ≤ 8) (hp : e.u64 c < 2 ^ 52) (hr : ebits (e.u64 c) 47 32 ≤ (ebits (e.u64 c) 31 0 + 1) / 2)
    (hr' : ebits (e.u64 c) 31 0 = 1 → ebits (e.u64 c) 47 32 = 0)
    (hk : ∀ r ∈ [(e.u64 d, 32 + 4 * ebits (e.u64 c) 31 0 + 8 * (ebits (e.u64 c) 31 0 - ebits (e.u64 c) 47 32), [0, 2]),
      (e.u64 a, ebits (e.u64 c) 31 0 * (32 * 2 ^ dim.toNat) * rowFmtBytes f, [0, 1, 2])], t.tagCheck e.g r.1 r.2.1 16 r.2.2 = .ok ()) :
    tmatchBody dim f ar d a c e t = t.command e .trowel (e.cmd ar (.tmatch (e.u64 d) (e.u64 a) (ebits (e.u64 c) 31 0) (ebits (e.u64 c) 47 32)
      (ebits (e.u64 c) 51 48) (32 * 2 ^ dim.toNat) f)) true [] := by
  refine (whenGuard_of_guard hu t).trans ((if_neg ?_).trans ?_)
  · rintro (h | h | h | h | h | h | ⟨h, h'⟩)
    · omega
    · omega
    · omega
    · omega
    · exact h (Nat.div_eq_of_lt hp)
    · omega
    · exact h (hr' h')
  · rw [allOk_ok]
    simp only [List.forall_mem_cons, List.not_mem_nil, false_implies, implies_true, and_true] at hk ⊢
    exact hk

theorem merge_checks {x : Except (FCode × Nat) Unit} (hs : ∀ x ∈ [e.u64 d, e.u64 a], t.tagStart e.g x = .ok ())
    (hb : t.tagCheck e.g (e.u64 b) 32 16 [0, 2] = .ok ()) (hx : x = .ok ()) :
    allOk [t.tagStart e.g (e.u64 d), t.tagStart e.g (e.u64 a), t.tagCheck e.g (e.u64 b) 32 16 [0, 2], x] = .ok () := by
  rw [hs _ (List.mem_cons_self ..), hs _ (List.mem_cons_of_mem _ (List.mem_cons_self ..)), hb, hx]
  rfl

/-- TMERGE has no size map where C is V0 (R208). -/
theorem tmergeBody_eq (hu : e.uguard = true)
    (hall : ∀ x ∈ [e.u64 d, e.u64 a] ++ (if c = .v 0 then none else some (e.u64 c)).toList, t.tagStart e.g x = .ok ()) (hb : t.tagCheck e.g (e.u64 b) 32 16 [0, 2] = .ok ()) :
    tmergeBody width f ar d a b c e t = t.command e .trowel
      (e.cmd ar (.tmerge (e.u64 d) (e.u64 a) (e.u64 b) (if c = .v 0 then none else some (e.u64 c)) (16 * width.toNat) f)) true [] := by
  obtain ⟨hs, hz⟩ := List.forall_mem_append.1 hall
  refine (whenGuard_of_guard hu t).trans ?_
  by_cases hc : c = .v 0
  · subst hc
    dsimp only
    rw [if_pos rfl, if_pos rfl]
    dsimp only
    rw [merge_checks hs hb rfl]
  · rw [if_neg hc] at hz ⊢
    have hz := hz _ (List.mem_singleton.2 rfl)
    cases c with
    | v n =>
      have hn : n ≠ 0 := fun h => hc (h ▸ rfl)
      dsimp only
      rw [if_neg hn]
      dsimp only
      rw [merge_checks hs hb hz]
    | _ =>
      dsimp only
      rw [merge_checks hs hb hz]

theorem tunmergeBody_eq (hu : e.uguard = true) (hs : ∀ x ∈ [e.u64 d, e.u64 a], t.tagStart e.g x = .ok ())
    (hb : t.tagCheck e.g (e.u64 b) 32 16 [0, 2] = .ok ()) : tunmergeBody width f ar d a b e t =
      t.command e .trowel (e.cmd ar (.tunmerge (e.u64 d) (e.u64 a) (e.u64 b) (16 * width.toNat) f)) true [] := by
  refine (whenGuard_of_guard hu t).trans ?_
  rw [hs _ (List.mem_cons_self ..), hs _ (List.mem_cons_of_mem _ (List.mem_cons_self ..)), hb]
  rfl

end Bodies

/-! ### The Lathe's commands -/

/-- The instruction of a form asks the Lathe for an entry for its command. -/
def Enters (s : State) (g : Group) (r : CommandForm) : Prop :=
  r.eng = .lathe ∧ r.tiles = some r.kind.tiles ∧ ∃ body, exec r.i s = issue r.i body s ∧ ∀ h,
    body (envOf r.i s g) (s.setG s.cur.g h) =
      (s.setG s.cur.g h).enter (envOf r.i s g) ((envOf r.i s g).cmd r.ar r.kind) r.batch r.dsts

section Lathe

variable {e : Env} {t : State} {f32 sat sp : Bool} {ar : AcqRel} {zt zx : BitVec 5} {cf cg : BitVec 6} {nb : BitVec 3} {a b c : Operand} {F G : FmtBlock}

theorem lreadBody_eq {dn : BitVec 8} (hu : e.uguard = true) (ha : e.u32 a ≤ 127) :
    lreadBody zt (.v dn) a e t = t.enter e (e.cmd noAr (.lread zt.toNat dn.toNat (e.u32 a))) true (destRefs (.v dn) 4) :=
  (whenGuard_of_guard hu t).trans (if_neg (by omega))

/-- The format block of a tile's move. -/
theorem tileFmt_ok (h : if f32 then F = ⟨0, 0, 0, 0, false⟩ else e.fmtBlock cf = .ok F) : e.tileFmt f32 cf = .ok F := by
  cases f32 with
  | true => exact congrArg Except.ok h.symm
  | false => exact h

/-- The checks of a tile's move pass, with the stride it takes. -/
theorem tileMove_ok {x st : Nat} (hst : st ≠ 0 → st % 16 = 0 ∧ rowBytes f32 F ≤ st) (hx : x / 2 ^ 62 = 1 ∨ x / 2 ^ 62 = 2 → x / 2 ^ 28 % 16 = 0)
    (ht : t.tagCheck e.g x (127 * (if st = 0 then rowBytes f32 F else st) + rowBytes f32 F) 16 [0, 1, 2] = .ok ())
    (hs : f32 = false → t.scaleCheck e.g F (128 * (128 / F.bl)) = .ok ()) :
    t.tileMove e x st f32 F = .ok (if st = 0 then rowBytes f32 F else st) := by
  unfold State.tileMove
  dsimp only
  rw [if_neg, allOk_ok]
  · intro y hy
    simp only [List.mem_cons, List.not_mem_nil, or_false] at hy
    obtain rfl | rfl := hy
    · exact ht
    · cases f32 with
      | true => rfl
      | false => exact hs rfl
  · rintro (⟨h0, h | h⟩ | ⟨h, h'⟩)
    · exact h (hst h0).1
    · have := (hst h0).2
      omega
    · exact h' (hx h)

theorem lloadBody_eq {st : Nat} (hu : e.uguard = true) (hf : e.tileFmt f32 cf = .ok F) (hm : t.tileMove e (e.u64 a) (e.u32 b) f32 F = .ok st) :
    lloadBody f32 ar zt cf a b e t = t.enter e (e.cmd ar (.lload zt.toNat (e.u64 a) st f32 F)) true [] := by
  refine (whenGuard_of_guard hu t).trans ?_
  rw [hf]
  dsimp only
  rw [hm]

theorem lstoreBody_eq {st : Nat} (hu : e.uguard = true) (hf : e.tileFmt f32 cf = .ok F) (hm : t.tileMove e (e.u64 a) (e.u32 b) f32 F = .ok st)
    (hs : sat = true → f32 = true ∨ 3 ≤ F.fmt) :
    lstoreBody f32 sat ar zt cf a b e t = t.enter e (e.cmd ar (.lstore zt.toNat (e.u64 a) st f32 sat F)) true [] := by
  have hn : ¬ (sat && !f32 && F.dxb) = true := by
    intro h
    simp only [Bool.and_eq_true, Bool.not_eq_true', FmtBlock.dxb, decide_eq_true_eq] at h
    obtain ⟨⟨h1, h2⟩, h3⟩ := h
    obtain h | h := hs h1
    · rw [h2] at h
      cases h
    · omega
  refine (whenGuard_of_guard hu t).trans ?_
  rw [hf]
  dsimp only
  rw [if_neg hn, hm]

/-- An LMMA whose checks pass asks for an entry; with no K-block it is a finished member of the batch (R183-R186). -/
theorem lmmaBody_eq (hu : e.uguard = true) (hF : e.fmtBlock cf = .ok F) (hG : e.fmtBlock cg = .ok G) (hp : pairFmt F G = true)
    (hsp : sp = true → F.b16 = false) (hk : e.u32 c % 32 = 0) (hk' : e.u32 c ≤ 65536)
    (ha : t.tagCheck e.g (e.u64 a) (if sp then 128 * (e.u32 c * elemBits F.fmt / 8) / 2 + 128 * (e.u32 c / 8) else 128 * (e.u32 c * elemBits F.fmt / 8)) 16
      [1, 2] = .ok ())
    (hb : t.tagCheck e.g (e.u64 b) (128 * (e.u32 c * elemBits G.fmt / 8)) 16 [1, 2] = .ok ())
    (h1 : t.scaleCheck e.g F (128 * (e.u32 c / F.bl)) = .ok ()) (h2 : t.scaleCheck e.g G (128 * (e.u32 c / G.bl)) = .ok ()) :
    lmmaBody ar zt cf cg sp a b c e t =
      t.general e (e.cmd ar (.lmma zt.toNat (e.u64 a) (e.u64 b) (e.u32 c) sp F G)) true [] fun s =>
        if e.u32 c = 0 then .ok (s.mapG e.gi fun g => { g with openN := g.openN + 1 })
        else s.command e .lathe (e.cmd ar (.lmma zt.toNat (e.u64 a) (e.u64 b) (e.u32 c) sp F G)) true [] := by
  refine (whenGuard_of_guard hu t).trans ?_
  rw [hF, hG]
  dsimp only
  rw [if_neg, if_neg, ha, hb, h1, h2]
  · rfl
  · omega
  · rintro (h | ⟨h, h'⟩)
    · rw [hp] at h
      cases h
    · rw [hsp h] at h'
      cases h'

/-- What is asked of the Lathe for a K-block is an entry, whether the group is in D-mode or not. -/
theorem general_enter {cmd : Cmd} {batch : Bool} {ds : List RegRef} {k : Nat} {z : State → Except Stop State} (hk : e.g.dmode = false → 0 < k) :
    (t.general e cmd batch ds fun s => if k = 0 then z s else s.command e .lathe cmd batch ds) = t.enter e cmd batch ds := by
  unfold State.enter State.general
  cases hd : e.g.dmode with
  | true => rfl
  | false =>
    have hk := hk hd
    dsimp only
    rw [if_neg (show ¬ k = 0 by omega)]

theorem lmmvBody_eq (hu : e.uguard = true) (hF : e.fmtBlock cf = .ok F) (hk : e.u32 b % 32 = 0) (hk0 : 0 < e.u32 b) (hn0 : 0 < e.u32 c)
    (hkm : e.u32 b * (nb.toNat + 1) ≤ 16384) (hnm : e.u32 c * (nb.toNat + 1) ≤ 16384)
    (ha : t.tagCheck e.g (e.u64 a) (e.u32 c * (e.u32 b * elemBits F.fmt / 8)) 16 [0, 2] = .ok ())
    (hs : t.scaleCheck e.g F (e.u32 c * (e.u32 b / F.bl)) = .ok ()) :
    lmmvBody ar zt cf zx nb a b c e t =
      t.enter e (e.cmd ar (.lmmv zt.toNat zx.toNat (e.u64 a) (e.u32 b) (e.u32 c) (nb.toNat + 1) F)) true [] := by
  refine (whenGuard_of_guard hu t).trans ?_
  rw [hF]
  dsimp only
  rw [if_neg (by omega), ha, hs]
  rfl

end Lathe

/-! ### A command that is handed over is accepted -/

/-- The issuing group changed in a state that holds it. -/
theorem mapG_held (hg : s.groups[s.cur.g]? = some g) {u : State} {k : Group} (hu : u.groups = s.groups.set s.cur.g k) (F : Group → Group) :
    u.mapG s.cur.g F = { u with groups := s.groups.set s.cur.g (F k) } := by
  have hk : (s.groups.set s.cur.g k)[s.cur.g]? = some k := List.getElem?_set_self (List.getElem?_eq_some_iff.1 hg).1
  unfold State.mapG
  rw [hu, modify_eq_set hk, List.set_set]

/-- A group once a command of the open batch, or of none, has its identifier. -/
def Group.joinIf (k : Group) (batch : Bool) (id : Nat) : Group := if batch then k.join id else k

theorem joinIf_retire (k : Group) (batch : Bool) (id : Nat) (sl : Slice) (n : Nat) :
    (k.joinIf batch id).retire sl false n = (k.retire sl false n).joinIf batch id := by
  cases batch <;> cases sl <;> rfl

section Accepting

variable {h : Group} {cs : List Context} (hi : Issues i s g) (eng : EngineKind) (ar : AcqRel) (kind : CmdKind) (batch : Bool) (ds : List RegRef)
include hi

theorem command_joins : (if batch then ({ s.setG s.cur.g h with ctxs := cs, nextId := s.nextId + 1 } : State).mapG s.cur.g fun g => g.join s.nextId
    else { s.setG s.cur.g h with ctxs := cs, nextId := s.nextId + 1 }) =
    { s.setG s.cur.g (h.joinIf batch s.nextId) with ctxs := cs, nextId := s.nextId + 1 } := by
  cases batch with
  | true => exact mapG_held (u := { s.setG s.cur.g h with ctxs := cs, nextId := s.nextId + 1 }) hi.here rfl _
  | false => rfl

/-- What `State.command` leaves outside D-mode. -/
theorem command_queued (hd : g.dmode = false) :
    ({ s.setG s.cur.g h with ctxs := cs } : State).command (envOf i s g) eng ((envOf i s g).cmd ar kind) batch ds =
      .ok { s.setG s.cur.g (if ds = [] then h.joinIf batch s.nextId else (h.joinIf batch s.nextId).addOp ((envOf i s g).engineOp s.nextId ds)) with
        nextId := s.nextId + 1, ctxs := cs, clusters := queued s g eng (commandOf s g ar kind) } := by
  unfold State.command
  dsimp only
  rw [show (envOf i s g).g.dmode = false from hd, if_neg Bool.false_ne_true]
  refine congrArg Except.ok ((congrArg (fun u : State =>
    let v := u.mapQueue g.gid.cluster eng (· ++ [commandOf s g ar kind])
    if ds.isEmpty then v else v.mapG s.cur.g fun k => k.addOp ((envOf i s g).engineOp s.nextId ds)) (command_joins (cs := cs) (h := h) hi batch)).trans ?_)
  cases ds with
  | nil => rfl
  | cons d ds => exact mapG_held hi.here rfl _

/-- What `State.command` leaves in D-mode. -/
theorem command_buffered (hd : g.dmode = true) (hl : g.cbuf.length < 512) :
    ({ s.setG s.cur.g h with ctxs := cs } : State).command (envOf i s g) eng ((envOf i s g).cmd ar kind) batch ds =
      .ok { s.setG s.cur.g ((h.joinIf batch s.nextId).bufOp ((envOf i s g).op (.accept eng (commandOf s g ar kind)) .eng .grp ds false)) with
        nextId := s.nextId + 1, ctxs := cs } := by
  unfold State.command
  dsimp only
  rw [show (envOf i s g).g.dmode = true from hd, if_pos rfl, if_neg (show ¬ 512 ≤ (envOf i s g).g.cbuf.length from Nat.not_le.2 hl)]
  refine congrArg Except.ok ?_
  refine (congrArg (State.mapG · s.cur.g _) (command_joins (cs := cs) (h := h) hi batch)).trans ?_
  exact mapG_held hi.here rfl _

end Accepting

/-- A form whose instruction hands its command over is accepted. -/
theorem accepted_of_hands {r : CommandForm} (hi : Issues r.i s g) (hl : g.cbuf.length < 512) (hr : Hands s g r) : Accepted s g r := by
  obtain ⟨body, hx, hb⟩ := hr
  obtain ⟨h, st, hn⟩ := issue_ok hi body
  obtain ⟨cs, hcs, hbd⟩ := hb h
  have hj : ∀ k : Group, (if r.batch then { k with openLeft := k.openLeft ++ [s.nextId], openN := k.openN + 1 } else k) = k.joinIf r.batch s.nextId := fun _ => rfl
  rw [← hx] at hn
  cases hd : g.dmode with
  | false =>
    refine ⟨_, (envOf r.i s g).engineOp s.nextId r.dsts, cs, passed_retire st (r.i.laneFlops * (envOf r.i s g).active.length), hcs, rfl, rfl, rfl, ?_⟩
    dsimp only
    refine ⟨fun _ => ⟨rfl, rfl, rfl, ?_⟩, fun h => (nomatch hd.symm.trans h)⟩
    rw [hn, hbd, command_queued hi r.eng r.ar r.kind r.batch r.dsts hd, hj, ← joinIf_retire]
    refine congrArg Host.Outcome.next ((congrArg (State.report · .retired) (mapG_held hi.here rfl _)).trans ?_)
    split
    · rfl
    · rw [retire_addOp]
      rfl
  | true =>
    refine ⟨_, (envOf r.i s g).op (.accept r.eng (commandOf s g r.ar r.kind)) .eng .grp r.dsts false, cs,
      passed_retire st (r.i.laneFlops * (envOf r.i s g).active.length), hcs, rfl, rfl, rfl, ?_⟩
    dsimp only
    refine ⟨fun h => (nomatch hd.symm.trans h), fun _ => ⟨rfl, rfl, rfl, ?_⟩⟩
    rw [hn, hbd, command_buffered hi r.eng r.ar r.kind r.batch r.dsts hd hl, hj, ← joinIf_retire, ← retire_bufOp]
    exact congrArg (fun u : State => Host.Outcome.next (u.report .retired)) (mapG_held hi.here rfl _)

/-! ### What the Lathe answers -/

/-- With a free entry the command is handed over. -/
theorem hands_of_enters {r : CommandForm} {ts : List Nat} (hr : Enters s g r) (ht : r.tiles = some ts) (hf : latheFree s g ts) : Hands s g r := by
  obtain ⟨heng, htl, body, hx, hb⟩ := hr
  cases htl.symm.trans ht
  obtain ⟨hbusy, hroom⟩ := hf
  refine ⟨body, hx, fun h => ⟨s.ctxs, rfl, (hb h).trans ?_⟩⟩
  unfold State.enter State.general
  rw [if_neg (by rw [tileBusy_setG]; exact Bool.eq_false_iff.1 hbusy), heng]
  cases hd : g.dmode with
  | true =>
    rw [hd] at hroom
    exact (if_pos hd).trans (if_neg (Nat.not_le.2 hroom))
  | false =>
    rw [hd] at hroom
    exact (if_neg (by rw [show (envOf r.i s g).g.dmode = false from hd]; exact Bool.false_ne_true)).trans (if_neg (Nat.not_le.2 hroom))

theorem tileBusy_of_enters {r : CommandForm} {ts : List Nat} (hi : Issues r.i s g) (hr : Enters s g r) (ht : r.tiles = some ts)
    (hb : s.tileBusy g ts = true) : Faults r.i s .tileBusy := by
  obtain ⟨-, htl, body, hx, hbd⟩ := hr
  cases htl.symm.trans ht
  refine faults_of_body hi (f := { code := .tileBusy }) hx fun h _ => (hbd h).trans ?_
  exact if_pos hb

theorem stalls_of_enters {r : CommandForm} {ts : List Nat} (hi : Issues r.i s g) (hr : Enters s g r) (ht : r.tiles = some ts)
    (hb : s.tileBusy g ts = false) (hd : g.dmode = false) (hl : 16 ≤ ((s.cl g.gid.cluster).lathe.filter fun x => !x.isStream).length) : Stalls r.i s := by
  obtain ⟨-, htl, body, hx, hbd⟩ := hr
  cases htl.symm.trans ht
  refine stalls_of_body hi hx fun h _ => (hbd h).trans ?_
  exact (if_neg (Bool.eq_false_iff.1 hb)).trans ((if_neg (Bool.eq_false_iff.1 hd)).trans (if_pos hl))

/-! ### The forms -/

section Forms

variable {h : Head} {ss ds : Space} {bar sc f32 sat sp : Bool} {ar : AcqRel} {d a b c : Operand} {sn : BitVec 6} {vn : BitVec 8} {px : PReg}
  {rows : KvRows} {dim : BitVec 2} {f : RowFmt} {width : BitVec 11} {zt zx : BitVec 5} {cf cg : BitVec 6} {nb : BitVec 3} {F G : FmtBlock} {r : CommandForm}

/-- A form is handed over whose body, its checks passed, is its command. -/
theorem Hands.of_command {body : Env → State → Except Stop State} (hx : exec r.i s = issue r.i body s)
    (hb : ∀ h, body (envOf r.i s g) (s.setG s.cur.g h) =
      (s.setG s.cur.g h).command (envOf r.i s g) r.eng ((envOf r.i s g).cmd r.ar r.kind) r.batch r.dsts) : Hands s g r :=
  ⟨body, hx, fun h => ⟨s.ctxs, rfl, hb h⟩⟩

theorem copyForms_hand (hu : (envOf i s g).uguard = true)
    (hr : r ∈ copyForms s g (envOf i s g) h ss ds bar sc ar d a b c sn px rows dim f width) (hri : r.i = i) (hok : r.ok) : Hands s g r := by
  simp only [copyForms, List.mem_cons, List.not_mem_nil, or_false] at hr
  obtain rfl | rfl | rfl | rfl | rfl | rfl | rfl := hr <;> dsimp only at hri hok <;> subst hri
  · obtain ⟨ha, hb, hc, hs, hd, hp⟩ := hok
    refine ⟨acpBody ss ds bar ar d a b c, rfl, fun k => ?_⟩
    refine acpBody_eq (t := s.setG s.cur.g k) hu ha hb hc ?_ ?_ ?_
    · rw [acpCheck_setG]
      exact hs
    · rw [acpCheck_setG]
      exact hd
    · exact hp
  · obtain ⟨h1, h2, hc, hp, k, hk⟩ := hok
    refine .of_command (body := kvgatherBody rows sc ar a b c) rfl fun _ => kvgatherBody_eq (k := k) hu h1 h2 hc hp ?_
    rw [scratchKey_setG, sharedKey_setG]
    exact hk
  · obtain ⟨h1, h2, hp⟩ := hok
    exact .of_command (body := kvappendBody ar (.s sn) a b px) rfl fun k =>
      (kvappendBody_eq hu h1 h2).trans (regspace_ok (e := envOf _ s g) (t := s.setG s.cur.g k) hp _)
  · exact .of_command (body := kvshareBody ar (.s sn) a b c px) rfl fun k =>
      (kvshareBody_eq hu).trans (regspace_ok (e := envOf _ s g) (t := s.setG s.cur.g k) hok _)
  · obtain ⟨h1, h2, h3, h4, h5, h6, h7, hk⟩ := hok
    refine .of_command (body := tmatchBody dim f ar d a c) rfl fun k => tmatchBody_eq hu h1 h2 h3 h4 h5 h6 h7 fun x hx => ?_
    rw [tagCheck_setG]
    exact hk x hx
  · obtain ⟨hs, hb⟩ := hok
    refine .of_command (body := tmergeBody width f ar d a b c) rfl fun k => tmergeBody_eq hu (fun x hx => ?_) ?_
    · rw [tagStart_setG]
      exact hs x hx
    · rw [tagCheck_setG]
      exact hb _ (List.mem_singleton.2 rfl)
  · obtain ⟨hs, hb⟩ := hok
    refine .of_command (body := tunmergeBody width f ar d a b) rfl fun k => tunmergeBody_eq hu (fun x hx => ?_) ?_
    · rw [tagStart_setG]
      exact hs x hx
    · rw [tagCheck_setG]
      exact hb _ (List.mem_singleton.2 rfl)

/-- A form asks for an entry whose body, its checks passed, does. -/
theorem Enters.of_enter {body : Env → State → Except Stop State} (heng : r.eng = .lathe) (ht : r.tiles = some r.kind.tiles)
    (hx : exec r.i s = issue r.i body s) (hb : ∀ h, body (envOf r.i s g) (s.setG s.cur.g h) =
      (s.setG s.cur.g h).enter (envOf r.i s g) ((envOf r.i s g).cmd r.ar r.kind) r.batch r.dsts) : Enters s g r :=
  ⟨heng, ht, body, hx, hb⟩

/-- The checks that LLOAD and LSTORE share. -/
theorem moves_ok {e : Env} (heg : e.g = g) (k : Group) (hst : e.u32 b ≠ 0 → e.u32 b % 16 = 0 ∧ rowBytes f32 F ≤ e.u32 b)
    (hx : e.u64 a / 2 ^ 62 = 1 ∨ e.u64 a / 2 ^ 62 = 2 → e.u64 a / 2 ^ 28 % 16 = 0)
    (ht : tagged s g [(e.u64 a, 127 * (if e.u32 b = 0 then rowBytes f32 F else e.u32 b) + rowBytes f32 F, [0, 1, 2])])
    (hs : f32 = false → s.scaleCheck g F (128 * (128 / F.bl)) = .ok ()) :
    (s.setG s.cur.g k).tileMove e (e.u64 a) (e.u32 b) f32 F = .ok (if e.u32 b = 0 then rowBytes f32 F else e.u32 b) := by
  subst heg
  refine tileMove_ok hst hx ?_ fun hf => ?_
  · rw [tagCheck_setG]
    exact ht _ (List.mem_singleton.2 rfl)
  · rw [scaleCheck_setG]
    exact hs hf

theorem latheForms_enter (hu : (envOf i s g).uguard = true)
    (hr : r ∈ latheForms s g (envOf i s g) h ar zt zx f32 sat sp cf cg nb vn a b c F G) (hri : r.i = i) (hok : r.ok) : Enters s g r := by
  simp only [latheForms, List.mem_cons, List.not_mem_nil, or_false] at hr
  obtain rfl | rfl | rfl | rfl | rfl | rfl := hr <;> dsimp only at hri hok <;> subst hri
  · exact .of_enter (body := lzeroBody zt) rfl rfl rfl fun k => whenGuard_of_guard hu _
  · exact .of_enter (body := lreadBody zt (.v vn) a) rfl rfl rfl fun k => lreadBody_eq hu hok
  · obtain ⟨hf, hst, hx, ht, hs⟩ := hok
    exact .of_enter (body := lloadBody f32 ar zt cf a b) rfl rfl rfl fun k => lloadBody_eq hu (tileFmt_ok hf) (moves_ok rfl k hst hx ht hs)
  · obtain ⟨⟨hf, hst, hx, ht, hs⟩, hsat⟩ := hok
    exact .of_enter (body := lstoreBody f32 sat ar zt cf a b) rfl rfl rfl fun k => lstoreBody_eq hu (tileFmt_ok hf) (moves_ok rfl k hst hx ht hs) hsat
  · obtain ⟨hF, hG, hp, hsp, hk, hk0, hk', ht, h1, h2⟩ := hok
    refine .of_enter (body := lmmaBody ar zt cf cg sp a b c) rfl rfl rfl fun k => (lmmaBody_eq hu hF hG hp hsp hk hk' ?_ ?_ ?_ ?_).trans (general_enter hk0)
    · rw [tagCheck_setG]
      exact ht _ (List.mem_cons_self ..)
    · rw [tagCheck_setG]
      exact ht _ (List.mem_cons_of_mem _ (List.mem_cons_self ..))
    · rw [scaleCheck_setG]
      exact h1
    · rw [scaleCheck_setG]
      exact h2
  · obtain ⟨hF, hk, hk0, hn0, hkm, hnm, ht, h1⟩ := hok
    refine .of_enter (body := lmmvBody ar zt cf zx nb a b c) rfl rfl rfl fun k => lmmvBody_eq hu hF hk hk0 hn0 hkm hnm ?_ ?_
    · rw [tagCheck_setG]
      exact ht _ (List.mem_cons_self ..)
    · rw [scaleCheck_setG]
      exact h1

theorem envOf_g (i : Instr) (s : State) (g : Group) : (envOf i s g).g = g := rfl

/-- LMMA with no K-block, where an entry is free, is a finished member of the open batch (R183). -/
theorem lmma_empty (hi : Issues (.lmma h ar zt cf cg sp a b c) s g) (hu : (envOf (.lmma h ar zt cf cg sp a b c) s g).uguard = true)
    (hk : (envOf (.lmma h ar zt cf cg sp a b c) s g).u32 c = 0) (hF : (envOf (.lmma h ar zt cf cg sp a b c) s g).fmtBlock cf = .ok F)
    (hG : (envOf (.lmma h ar zt cf cg sp a b c) s g).fmtBlock cg = .ok G) (hp : pairFmt F G = true) (hsp : sp = true → F.b16 = false)
    (ht : tagged s g [((envOf (.lmma h ar zt cf cg sp a b c) s g).u64 a, 0, [1, 2]), ((envOf (.lmma h ar zt cf cg sp a b c) s g).u64 b, 0, [1, 2])])
    (h1 : s.scaleCheck g F 0 = .ok ()) (h2 : s.scaleCheck g G 0 = .ok ()) (hd : g.dmode = false) (hf : latheFree s g [zt.toNat]) :
    Leaves (.lmma h ar zt cf cg sp a b c) s g fun k => { k with openN := k.openN + 1 } := by
  obtain ⟨hbusy, hroom⟩ := hf
  rw [hd] at hroom
  obtain ⟨k, st, hx⟩ := issue_mapG (body := lmmaBody ar zt cf cg sp a b c) (F := fun k => { k with openN := k.openN + 1 }) hi fun k => by
    rw [lmmaBody_eq hu hF hG hp hsp]
    · unfold State.general
      rw [if_neg (by rw [tileBusy_setG]; exact Bool.eq_false_iff.1 hbusy)]
      exact (if_neg (Bool.eq_false_iff.1 hd)).trans ((if_neg (Nat.not_le.2 hroom)).trans (if_pos hk))
    · rw [hk]
    · rw [hk]
      exact Nat.zero_le _
    · rw [hk, tagCheck_setG, envOf_g]
      cases sp <;> simpa using ht _ (List.mem_cons_self ..)
    · rw [hk, tagCheck_setG, envOf_g]
      simpa using ht _ (List.mem_cons_of_mem _ (List.mem_cons_self ..))
    · rw [hk, scaleCheck_setG, envOf_g]
      simpa using h1
    · rw [hk, scaleCheck_setG, envOf_g]
      simpa using h2
  refine ⟨_, passed_retire st (Instr.laneFlops (.lmma h ar zt cf cg sp a b c) * (envOf (.lmma h ar zt cf cg sp a b c) s g).active.length), hx.trans ?_⟩
  cases s.cur.sl <;> rfl

end Forms

/-- A register-space page among the ranges that a command names is refused at issue (R33). -/
theorem faults_of_regspace {body : Env → State → Except Stop State} {rs : List (Nat × Nat)} (hi : Issues i s g)
    (hx : exec i s = issue i body s) (hp : ¬ plainPages s g rs)
    (hb : ∀ h, ∃ next, body (envOf i s g) (s.setG s.cur.g h) = (envOf i s g).regspace (s.setG s.cur.g h) rs next) : Faults i s .regspaceAccess := by
  obtain ⟨h, -, hn⟩ := issue_ok hi body
  obtain ⟨next, hbd⟩ := hb h
  obtain ⟨f, hf, hr⟩ := regspace_fault (e := envOf i s g) (t := s.setG s.cur.g h) hp next
  rw [hbd, hr] at hn
  exact ⟨_, hx.trans hn, hf ▸ stop_fault_report s f _⟩

/-- Settles O26: every command's body ends in `State.command` or `State.enter` once its checks pass. -/
theorem commandsAccepted : Obligations.CommandsAccepted := by
  unfold Obligations.CommandsAccepted
  intro s g h ss ds bar sc f32 sat sp ar d a b c sn vn px rows dim f width zt zx cf cg nb F G i e hi hu hl
  have enters := fun r hr hri hok => latheForms_enter (r := r) (h := h) (ar := ar) (zt := zt) (zx := zx) (f32 := f32) (sat := sat) (sp := sp) (cf := cf) (cg := cg)
    (nb := nb) (vn := vn) (a := a) (b := b) (c := c) (F := F) (G := G) hu hr hri hok
  refine ⟨fun r hr hri hok hfree => ?_, fun r hr hri hok ts ht hbusy => ?_, fun r hr hri hok ts ht hbusy hd hfull => ?_, ?_, ?_, ?_⟩
  · refine accepted_of_hands (hri ▸ hi) hl ?_
    obtain hr | hr := List.mem_append.1 hr
    · exact copyForms_hand hu hr hri hok
    · obtain ⟨-, ht, -⟩ := enters r hr hri hok
      exact hands_of_enters (enters r hr hri hok) ht (hfree _ ht)
  · exact hri ▸ tileBusy_of_enters (hri ▸ hi) (enters r hr hri hok) ht hbusy
  · exact hri ▸ stalls_of_enters (hri ▸ hi) (enters r hr hri hok) ht hbusy hd hfull
  · rintro rfl hk hF hG hp hsp ht h1 h2 hd hf
    exact lmma_empty hi hu hk hF hG hp hsp ht h1 h2 hd hf
  · rintro rfl h1 h2 hp
    exact faults_of_regspace hi (body := kvappendBody ar (.s sn) a b px) rfl hp fun k => ⟨_, kvappendBody_eq hu h1 h2⟩
  · rintro rfl hp
    exact faults_of_regspace hi (body := kvshareBody ar (.s sn) a b c px) rfl hp fun k => ⟨_, kvshareBody_eq hu⟩

end Sys2Proof.Machine
end

section
/-! # What engines write, and how their commands end (R95, R96, R278)

A run of an engine writes memory, and the writes change the watches of paths. `Drift` says so; `Filled` says which bytes stand where. -/

namespace Sys2Proof.Machine

open Sys2Proof.Claims Sys2Proof.Safety

/-! ### Memory and watches change, nothing else of a group -/

/-- The groups of `t` are those of `s`, but for the watches of their paths. -/
def Watched (s t : State) : Prop := ∃ f : Group → Group, t.groups = s.groups.map f ∧ ∀ g, ∃ ps, f g = { g with paths := ps }

/-- What an agent's writes to memory keep: the engines' queues, the time, the groups but for their watches, and memory's canonical form. -/
structure Drift (s t : State) : Prop where
  clusters : t.clusters = s.clusters
  clock : t.clock = s.clock
  watched : Watched s t
  wf : Memory.wf s.mem = true → Memory.wf t.mem = true

section Drifting

variable {s t u : State} {g : Group} {gi : Nat} {c : Cmd}

theorem Watched.of_groups (h : t.groups = s.groups) : Watched s t := ⟨id, h.trans (List.map_id _).symm, fun g => ⟨g.paths, rfl⟩⟩

theorem Watched.trans (h : Watched s t) (h' : Watched t u) : Watched s u := by
  obtain ⟨f, e, hf⟩ := h
  obtain ⟨f', e', hf'⟩ := h'
  refine ⟨f' ∘ f, by rw [e', e, List.map_map], fun g => ?_⟩
  obtain ⟨ps, hp⟩ := hf g
  obtain ⟨qs, hq⟩ := hf' { g with paths := ps }
  exact ⟨qs, by rw [Function.comp_apply, hp, hq]⟩

theorem Watched.group (h : Watched s t) (hg : s.groups[gi]? = some g) : ∃ ps, t.groups[gi]? = some { g with paths := ps } := by
  obtain ⟨f, e, hf⟩ := h
  obtain ⟨ps, hp⟩ := hf g
  exact ⟨ps, by rw [e, List.getElem?_map, hg, Option.map_some, hp]⟩

theorem Watched.regs (h : Watched s t) : t.groups.map (·.regs) = s.groups.map (·.regs) := by
  obtain ⟨f, e, hf⟩ := h
  rw [e, List.map_map]
  refine List.map_congr_left fun g _ => ?_
  obtain ⟨ps, hp⟩ := hf g
  rw [Function.comp_apply, hp]

theorem Watched.owner (h : Watched s t) (c : Cmd) : t.groups.findIdx? (ownedBy c) = s.groups.findIdx? (ownedBy c) := by
  obtain ⟨f, e, hf⟩ := h
  have hp : (ownedBy c ∘ f) = ownedBy c := funext fun g => by
    obtain ⟨ps, hp⟩ := hf g
    rw [Function.comp_apply, hp]
    rfl
  rw [e, List.findIdx?_map, hp]

theorem Drift.refl (s : State) : Drift s s := ⟨rfl, rfl, .of_groups rfl, id⟩

theorem Drift.trans (h : Drift s t) (h' : Drift t u) : Drift s u :=
  ⟨h'.clusters.trans h.clusters, h'.clock.trans h.clock, h.watched.trans h'.watched, h'.wf ∘ h.wf⟩

/-- Fields that a drift says nothing of. -/
theorem Drift.of_eq (hc : t.clusters = s.clusters) (hn : t.clock = s.clock) (hg : t.groups = s.groups) (hm : t.mem = s.mem) : Drift s t :=
  ⟨hc, hn, .of_groups hg, fun w => hm ▸ w⟩

theorem drift_write (s : State) (kvs : List (Nat × Byte)) : Drift s (s.write kvs) :=
  ⟨rfl, rfl, ⟨_, State.write_groups s kvs, fun _ => ⟨_, rfl⟩⟩, State.wf_write s kvs⟩

theorem drift_writeNum (s : State) (k n v : Nat) : Drift s (s.writeNum k n v) := drift_write s _

theorem drift_raiseMsix (s : State) (slot : Nat) : Drift s (s.raiseMsix slot) := by
  rw [State.raiseMsix_frame]
  exact .of_eq rfl rfl rfl rfl

theorem drift_freeze (s : State) (slot code master who addr pc : Nat) : Drift s (s.freeze slot code master who addr pc) := by
  rw [State.freeze_frame]
  exact .of_eq rfl rfl rfl rfl

theorem drift_post (s : State) (slot : Nat) (r : Rec) : Drift s (s.post slot r) := by
  unfold State.post
  split
  · obtain ⟨kvs, h, n, e⟩ := State.writeRec_eq s slot r
    rw [e]
    exact ((drift_write s kvs).trans (drift_writeNum _ h 4 n)).trans (drift_raiseMsix _ slot)
  · exact drift_writeNum _ _ _ _

theorem drift_engWrite {a n v : Nat} (h : s.engWrite c a n v = .ok t) : Drift s t := by
  unfold State.engWrite State.writeV at h
  split at h
  · cases h
  · split at h
    · cases h
      exact drift_write _ _
    · cases h

/-! ### Steps at the Kiln that engines ask for (R259, R263, R269) -/

theorem drift_mailbox (s : State) (r owner va mb seq res stat : Nat) : Drift s (s.mailbox r owner va mb seq res stat) := by
  have h : Drift s { s with mailers := dropKey s.mailers r } := .of_eq rfl rfl rfl rfl
  unfold State.mailbox
  dsimp only
  split
  · exact h
  · split
    · exact h.trans (drift_write _ _)
    · exact h.trans (drift_post _ _ _)

theorem drift_foldl {α : Type} {F : State → α → State} (hF : ∀ t x, Drift t (F t x)) (l : List α) (s : State) : Drift s (l.foldl F s) := by
  induction l generalizing s with
  | nil => exact .refl s
  | cons x l ih => exact (hF s x).trans (ih _)

theorem drift_popRecord (s : State) (key : Nat) : Drift s (s.popRecord key) :=
  ((drift_writeNum s _ _ _).trans (drift_writeNum _ _ _ _)).trans (drift_writeNum _ _ _ _)

theorem drift_applyRec (s : State) (key va : Nat) : Drift s (s.applyRec key va).1 := by
  unfold State.applyRec
  dsimp only
  refine Drift.trans ?_ ((drift_popRecord _ key).trans (drift_mailbox _ _ _ _ _ _ _ _))
  split
  · exact (drift_write s _).trans (drift_foldl (fun t i => drift_writeNum t _ _ _) _ _)
  · dsimp only
    split
    · exact drift_freeze _ _ _ _ _ _ _
    · exact .refl s

theorem drift_applyAll (key va : Nat) : ∀ (n : Nat) (s : State), Drift s (State.applyAll n s key va)
  | 0, s => .refl s
  | n + 1, s => by
    unfold State.applyAll
    split
    · exact .refl s
    · exact (drift_applyRec s key va).trans (drift_applyAll key va n _)

theorem drift_takeBlocks (s : State) (a : Asker) (key va n : Nat) : Drift s (s.takeBlocks a key va n).1 := by
  unfold State.takeBlocks
  split
  · exact .refl s
  · split
    · exact .refl s
    · dsimp only
      split
      · exact drift_applyAll _ _ _ _
      · split
        · exact drift_applyAll _ _ _ _
        · exact (drift_applyAll _ _ _ _).trans (drift_writeNum _ _ _ _)

theorem creditStep_writes {key n : Nat} (h : s.creditStep key n = .ok t) : ∃ v, t = s.writeNum key 16 v := by
  unfold State.creditStep State.barStep at h
  dsimp only at h
  generalize (readBar s.mem key).credit n = x at h
  cases x with
  | error e => cases h
  | ok b => exact ⟨_, (Except.ok.inj h).symm⟩

/-- A credit is one write, or nothing. -/
theorem drift_credit (s : State) (c : Cmd) (bar n : Nat) : Drift s (s.credit c bar n).1 := by
  unfold State.credit
  split
  · exact .refl s
  · split
    · exact .refl s
    · split
      · next h =>
        obtain ⟨v, rfl⟩ := creditStep_writes h
        exact drift_writeNum _ _ _ _
      · exact .refl s

/-- A credit looks at its command's group alone, and gives the command back. -/
theorem credit_at (s : State) (c : Cmd) (p bar n : Nat) :
    s.credit { c with pos := p } bar n = ((s.credit c bar n).1, { c with pos := p }, (s.credit c bar n).2.2) := by
  unfold State.credit
  dsimp only
  split
  · rfl
  · split
    · rfl
    · split <;> rfl

end Drifting

/-! ### Bytes that stand at keys -/

/-- From `s` to `t`, the first `m` keys have taken these bytes, and every other byte is as before. -/
def Filled (s t : State) (key : Nat → Nat) (m : Nat) (v : Nat → Byte) : Prop :=
  (∀ o < m, t.mem.get (key o) = v o) ∧ ∀ x, (∀ o < m, x ≠ key o) → t.mem.get x = s.mem.get x

section Filling

variable {s t u : State} {key : Nat → Nat} {v : Nat → Byte} {m r total : Nat}

theorem setAll_append (m : Mem) (a b : List (Nat × Byte)) : m.setAll (a ++ b) = (m.setAll a).setAll b := by
  induction a generalizing m with
  | nil => rfl
  | cons p a ih => exact ih _

theorem Filled.refl (s : State) (key : Nat → Nat) (v : Nat → Byte) : Filled s s key 0 v := ⟨fun _ h => absurd h (Nat.not_lt_zero _), fun _ _ => rfl⟩

theorem Filled.congr {v' : Nat → Byte} (h : Filled s t key m v) (hv : ∀ o < m, v o = v' o) : Filled s t key m v' :=
  ⟨fun o ho => (h.1 o ho).trans (hv o ho), h.2⟩

/-- One more byte. -/
theorem setAll_fill {n : Mem} (w : Memory.wf n = true) (hd : distinct key total) (k : Nat) : ∀ r, k + r ≤ total →
    (∀ o < r, (n.setAll ((List.range r).map fun i => (key (k + i), v (k + i)))).get (key (k + o)) = v (k + o)) ∧
      ∀ x, (∀ o < r, x ≠ key (k + o)) → (n.setAll ((List.range r).map fun i => (key (k + i), v (k + i)))).get x = n.get x
  | 0, _ => ⟨fun _ h => absurd h (Nat.not_lt_zero _), fun _ _ => rfl⟩
  | r + 1, hr => by
    obtain ⟨h1, h2⟩ := setAll_fill w hd k r (by omega)
    have wr := Memory.wf_setAll ((List.range r).map fun i => (key (k + i), v (k + i))) w
    rw [List.range_succ, List.map_append, setAll_append]
    refine ⟨fun o ho => ?_, fun x hx => ?_⟩
    · by_cases h : o = r
      · subst h
        exact Mem.get_set_self wr
      · refine (Mem.get_set_other wr fun e => ?_).trans (h1 o (by omega))
        have := hd _ (by omega) _ (by omega) e
        omega
    · exact (Mem.get_set_other wr (hx r (by omega))).trans (h2 x fun o ho => hx o (by omega))

/-- The next bytes are written. -/
theorem Filled.step (h : Filled s u key m v) (w : Memory.wf u.mem = true) (hd : distinct key total) (hm : m + r ≤ total) :
    Filled s (u.write ((List.range r).map fun i => (key (m + i), v (m + i)))) key (m + r) v := by
  obtain ⟨h1, h2⟩ := setAll_fill (v := v) w hd m r hm
  refine ⟨fun o ho => ?_, fun x hx => (h2 x fun o ho => hx _ (by omega)).trans (h.2 x fun o ho => hx o (by omega))⟩
  by_cases hom : o < m
  · refine (h2 (key o) fun p hp e => ?_).trans (h.1 o hom)
    have := hd _ (by omega) _ (by omega) e
    omega
  · have := h1 (o - m) (by omega)
    rwa [Nat.add_sub_cancel' (by omega)] at this

/-- A state that the writes of a command have made: what it translates by is as it was. -/
structure Wrote (s u : State) (key : Nat → Nat) (m : Nat) (v : Nat → Byte) : Prop where
  drift : Drift s u
  filled : Filled s u key m v
  ctxs : u.ctxs = s.ctxs
  teams : u.teams = s.teams
  tlbs : u.tlbs = s.tlbs

theorem Wrote.refl (s : State) (key : Nat → Nat) (v : Nat → Byte) : Wrote s s key 0 v := ⟨.refl s, .refl s key v, rfl, rfl, rfl⟩

theorem Wrote.step (h : Wrote s u key m v) (w : Memory.wf s.mem = true) (hd : distinct key total) (hm : m + r ≤ total) :
    Wrote s (u.write ((List.range r).map fun i => (key (m + i), v (m + i)))) key (m + r) v :=
  ⟨h.drift.trans (drift_write _ _), h.filled.step (h.drift.wf w) hd hm, h.ctxs, h.teams, h.tlbs⟩

theorem Wrote.undisturbed (h : Wrote s u key m v) (hm : m ≤ total) : Undisturbed s u fun x => ∃ o < total, x = key o :=
  ⟨h.ctxs, h.teams, h.tlbs, fun x hx => h.filled.2 x fun o ho e => hx ⟨o, by omega, e⟩⟩

end Filling

/-! ### A command ends (R96, R97) -/

section Ending

variable {s u v : State} {g : Group} {gi cl : Nat} {c c' : Cmd} {e : EngineKind} {r : Option FaultInfo} {ev : Instr}

theorem endCmd_mem : (v.endCmd cl e c r).mem = v.mem := by
  unfold State.endCmd
  obtain ⟨gs, cs, hf⟩ := mapOwner_frame (v.mapQueue cl e fun q => q.filter (·.id != c.id)) c.gid c.tag c.slot fun g => g.finishCmd c.id r
  rw [hf]
  rfl

theorem finishCmd_frame (g : Group) (n : Nat) (r : Option FaultInfo) : ∃ ops flags acks left fail bs, g.finishCmd n r =
    { g with ops := ops, flags := flags, acks := acks, openLeft := left, openFail := fail, batches := bs } := by
  unfold Group.finishCmd
  dsimp only
  split
  · exact ⟨_, _, _, _, _, _, Group.dropOp_frame _ _⟩
  · exact ⟨_, _, _, _, _, _, rfl⟩

theorem endCmd_regs : (v.endCmd cl e c r).groups.map (·.regs) = v.groups.map (·.regs) := by
  unfold State.endCmd State.mapOwner
  split
  · apply List.ext_getElem?
    intro n
    unfold State.mapG State.mapQueue State.setCl
    dsimp only
    rw [List.getElem?_map, List.getElem?_map, List.getElem?_modify, Option.map_eq_map, Option.map_map]
    congr 1
    funext k
    dsimp only [Function.comp_apply]
    split
    · obtain ⟨_, _, _, _, _, _, hf⟩ := finishCmd_frame k c.id r
      rw [hf]
    · rfl
  · rfl

/-- The event of a command that ends, after what it has written. -/
theorem ended_endCmd (hl : cl < v.clusters.length) (hq : (v.cl cl).queue e = (s.cl cl).queue e) (hid : c'.id = c.id)
    (hx : exec ev s = .next ((v.endCmd cl e c' r).report .event)) : Ended s ((v.endCmd cl e c' r).report .event) ev cl e c := by
  refine ⟨hx, rfl, ?_⟩
  rw [← hq, ← hid]
  exact endCmd_queue hl

theorem Drift.queue (h : Drift s v) : (v.cl cl).queue e = (s.cl cl).queue e := by
  unfold State.cl
  rw [h.clusters]

/-- What the end of a command is to the group that it belongs to. -/
theorem endCmd_owner (h : Watched s v) (ho : s.groups.findIdx? (ownedBy c) = some gi) (hg : s.groups[gi]? = some g) :
    ∃ ps, (v.endCmd cl e c r).groups[gi]? = some (Group.finishCmd { g with paths := ps } c.id r) := by
  obtain ⟨ps, hp⟩ := h.group hg
  exact ⟨ps, endCmd_group ((h.owner c).trans ho) hp⟩

theorem finishCmd_left (g : Group) (n : Nat) (r : Option FaultInfo) : (g.finishCmd n r).openLeft = g.openLeft.filter (· != n) := by
  unfold Group.finishCmd
  dsimp only
  split
  · rw [Group.dropOp_frame]
  · rfl

theorem finishCmd_fails {n : Nat} {f : FaultInfo} (hl : n ∈ g.openLeft) (hf : g.openFail = none) : (g.finishCmd n (some f)).openFail = some f := by
  unfold Group.finishCmd
  dsimp only
  have : (if g.openLeft.contains n then g.openFail <|> some f else g.openFail) = some f := by
    rw [if_pos (List.contains_iff_mem.2 hl), hf]
    rfl
  split
  · rw [Group.dropOp_frame]
    exact this
  · exact this

theorem finishCmd_regs (g : Group) (n : Nat) (r : Option FaultInfo) : (g.finishCmd n r).regs = g.regs := by
  obtain ⟨_, _, _, _, _, _, hf⟩ := finishCmd_frame g n r
  rw [hf]

/-! ### The event of an engine -/

variable {eng : Engine}

/-- An engine performs a command that may run. -/
theorem engineOperation_event (hf : ((s.cl cl).queue (engineKind eng)).find? (·.id == c.id) = some c) (hr : s.cmdReady c = true) (hs : c.sent = false) :
    exec (.engineOperation cl eng c.id) s = .next ((match eng with
      | .copy => (s.runCopy c).1.settleCmd cl .copy (s.runCopy c).2.1 (s.runCopy c).2.2
      | .gather => (s.runGather cl c).1.settleCmd cl .gather (s.runGather cl c).2.1 (s.runGather cl c).2.2
      | .link => s.sendLink cl c).report .event) := by
  show eventOf s (engineOperationBody cl eng c.id s) = _
  unfold engineOperationBody
  rw [hf]
  dsimp only
  rw [if_neg (by simp [hr, hs])]
  cases eng <;> rfl

end Ending

end Sys2Proof.Machine
end

section
/-! # The copy and link engines (O43) -/

namespace Sys2Proof.Machine

open Sys2Proof.Claims Sys2Proof.Safety

variable {s t u : State} {g : Group} {gi cl : Nat} {c : Cmd}

/-! ### ACP (R95, R96) -/

section Copying

variable {ss ds : Space} {src dst total : Nat} {sk dk : Nat → Nat}

/-- The places of an ACP's bytes, which none of its writes changes. -/
def CopyKeys (s : State) (c : Cmd) (ss ds : Space) (src dst len : Nat) (sk dk : Nat → Nat) : Prop :=
  ∀ u, Undisturbed s u (fun x => ∃ o < len, x = dk o) → ∀ j < len / 16,
    u.engKeys c ss (src + 16 * j) 16 false = .ok ((List.range 16).map fun i => sk (16 * j + i)) ∧
    u.engKeys c ds (dst + 16 * j) 16 true = .ok ((List.range 16).map fun i => dk (16 * j + i))

theorem engKeys_at (u : State) (c : Cmd) (p : Nat) (sp : Space) (a n : Nat) (wr : Bool) : u.engKeys { c with pos := p } sp a n wr = u.engKeys c sp a n wr := by
  cases sp <;> rfl

/-- Bytes read at keys and written at others. -/
theorem zip_getAll (m : Mem) (a b : Nat → Nat) (n : Nat) :
    ((List.range n).map b).zip (m.getAll ((List.range n).map a)) = (List.range n).map fun i => (b i, m.get (a i)) := by
  unfold Mem.getAll
  rw [List.map_map, List.zip_map']
  rfl

/-- A copy ends with all its bytes written, each as it was read before any write. -/
theorem copyFrom_copies (w : Memory.wf s.mem = true) (hk : CopyKeys s c ss ds src dst total sk dk) (hd : distinct dk total)
    (hap : ∀ o < total, ∀ p < total, sk o ≠ dk p) : ∀ (n j : Nat) (u : State), 16 * (j + n) = total →
      Wrote s u dk (16 * j) (fun o => s.mem.get (sk o)) → ∃ v, State.copyFrom n u { c with pos := j } ss ds src dst = (v, { c with pos := j + n }, .fin) ∧
        Wrote s v dk total fun o => s.mem.get (sk o)
  | 0, j, u, hn, hu => ⟨u, rfl, hn ▸ hu⟩
  | n + 1, j, u, hn, hu => by
    obtain ⟨h1, h2⟩ := hk u (hu.undisturbed (by omega)) j (by omega)
    have hread : ∀ i ∈ List.range 16, (dk (16 * j + i), u.mem.get (sk (16 * j + i))) = (dk (16 * j + i), s.mem.get (sk (16 * j + i))) := fun i hi => by
      rw [hu.filled.2 _ fun o ho => hap _ (by have := List.mem_range.1 hi; omega) _ (by omega)]
    have hstep := hu.step (r := 16) w hd (by omega)
    obtain ⟨v, hv, hw⟩ := copyFrom_copies w hk hd hap n (j + 1) _ (by omega) hstep
    refine ⟨v, ?_, hw⟩
    unfold State.copyFrom
    dsimp only
    rw [engKeys_at u c j ss, engKeys_at u c j ds, h1, h2]
    dsimp only
    rw [zip_getAll, List.map_congr_left hread, hv, Nat.add_assoc, Nat.add_comm 1 n]

theorem copyFrom_faults {n : Nat} {f : FCode} {a : Nat} (hn : 0 < n) (hp : c.pos = 0) (he : s.engKeys c ss src 16 false = .error (f, a)) :
    State.copyFrom n s c ss ds src dst = (s, c, .fault f a) := by
  obtain ⟨n, rfl⟩ := Nat.exists_eq_add_of_lt hn
  rw [Nat.zero_add]
  unfold State.copyFrom
  dsimp only
  rw [hp, Nat.mul_zero, Nat.add_zero, he]

end Copying


/-! #### The event -/

section CopyEvent

variable {ss ds : Space} {src dst len : Nat} {bar : Option Nat} {sk dk : Nat → Nat}

/-- What a copy's event comes to when all bytes have been copied. -/
theorem runCopy_fin (hk : c.kind = .acp ss ds src dst len bar) (hp : c.pos = 0) {v : State}
    (hc : State.copyFrom (len / 16) s c ss ds src dst = (v, { c with pos := len / 16 }, .fin)) :
    s.runCopy c = bar.elim (v, { c with pos := len / 16 }, .fin) fun b => v.credit { c with pos := len / 16 } b len := by
  unfold State.runCopy
  split
  · next heq =>
    cases hk.symm.trans heq
    rw [hp, Nat.sub_zero, hc]
    cases bar <;> rfl
  · next hno => exact absurd hk (hno _ _ _ _ _ _)

theorem acp_ends (w : Memory.wf s.mem = true) (hl : cl < s.clusters.length) (hf : (s.cl cl).copy.find? (·.id == c.id) = some c)
    (hr : s.cmdReady c = true) (hs : c.sent = false) (hp : c.pos = 0) (hk : c.kind = .acp ss ds src dst len bar) (hlen : len % 16 = 0)
    (hkeys : CopyKeys s c ss ds src dst len sk dk) (hd : distinct dk len) (hap : ∀ o < len, ∀ p < len, sk o ≠ dk p) :
    ∃ u t : State, Undisturbed s u (fun x => ∃ o < len, x = dk o) ∧ (∀ o < len, u.mem.get (dk o) = s.mem.get (sk o)) ∧
      (bar = none → Ended s t (.engineOperation cl .copy c.id) cl .copy c ∧ t.mem = u.mem ∧ t.groups.map (·.regs) = s.groups.map (·.regs)) ∧
      (∀ b, bar = some b → (u.credit c b len).2.2 = .fin → Ended s t (.engineOperation cl .copy c.id) cl .copy c ∧
        t.mem = (u.credit c b len).1.mem ∧ t.groups.map (·.regs) = s.groups.map (·.regs)) := by
  obtain ⟨v, hv, hw⟩ := copyFrom_copies w hkeys hd hap (len / 16) 0 s (by omega) (.refl s dk _)
  rw [Nat.zero_add, ← hp] at hv
  have hrun := runCopy_fin hk hp hv
  have hev := engineOperation_event (eng := .copy) hf hr hs
  have ends : ∀ (x : State) (c' : Cmd), Drift s x → c'.id = c.id → s.runCopy c = (x, c', .fin) →
      Ended s ((x.endCmd cl .copy c' none).report .event) (.engineOperation cl .copy c.id) cl .copy c ∧
        ((x.endCmd cl .copy c' none).report .event).mem = x.mem ∧
        ((x.endCmd cl .copy c' none).report .event).groups.map (·.regs) = s.groups.map (·.regs) := fun x c' hx hid hrx => by
    rw [hrx] at hev
    exact ⟨ended_endCmd (by rw [hx.clusters]; exact hl) hx.queue hid hev, endCmd_mem, endCmd_regs.trans hx.watched.regs⟩
  cases bar with
  | none =>
    obtain ⟨h1, h2, h3⟩ := ends v { c with pos := len / 16 } hw.drift rfl hrun
    exact ⟨v, _, hw.undisturbed (le_refl _), hw.filled.1, fun _ => ⟨h1, h2, h3⟩, fun b hb => (nomatch hb)⟩
  | some b =>
    rw [Option.elim_some, credit_at] at hrun
    cases hfin : (v.credit c b len).2.2 with
    | fault f a => exact ⟨v, v, hw.undisturbed (le_refl _), hw.filled.1, fun hb => (nomatch hb), fun b' hb' h => by cases hb'; rw [hfin] at h; cases h⟩
    | fin =>
      rw [hfin] at hrun
      obtain ⟨h1, h2, h3⟩ := ends _ { c with pos := len / 16 } (hw.drift.trans (drift_credit v c b len)) rfl hrun
      exact ⟨v, _, hw.undisturbed (le_refl _), hw.filled.1, fun hb => (nomatch hb), fun b' hb' _ => by cases hb'; exact ⟨h1, h2, h3⟩⟩

/-- A copy whose first access faults. -/
theorem acp_faults (hf : (s.cl cl).copy.find? (·.id == c.id) = some c) (hr : s.cmdReady c = true) (hs : c.sent = false) (hp : c.pos = 0)
    (hk : c.kind = .acp ss ds src dst len bar) (hlen : len % 16 = 0) {f : FCode} {a : Nat} (h0 : 0 < len) (he : s.engKeys c ss src 16 false = .error (f, a)) :
    exec (.engineOperation cl .copy c.id) s = .next ((s.settleCmd cl .copy c (.fault f a)).report .event) := by
  have hrun : s.runCopy c = (s, c, .fault f a) := by
    unfold State.runCopy
    rw [hk]
    dsimp only
    rw [copyFrom_faults (by rw [hp]; omega) hp he]
  have hev := engineOperation_event (eng := .copy) hf hr hs
  rwa [hrun] at hev

theorem tuneOwner_clusters (s : State) (gid : Gid) (tag slot : Nat) : (s.tuneOwner gid tag slot).clusters = s.clusters :=
  (sameAccounts_tuneOwner s gid tag slot).clusters

theorem postCmd_clusters (s : State) (e : EngineKind) (c : Cmd) (f : FCode) (a : Nat) : (s.postCmd e c f a).clusters = s.clusters := by
  unfold State.postCmd
  dsimp only
  split
  · rw [tuneOwner_clusters]
    show ((s.writeRec c.slot _).2).clusters = _
    rw [State.writeRec_frame]
  · rfl

/-- A command whose page is absent is suspended, at the address that it was to read or write (R96). -/
theorem settleCmd_suspends (hl : cl < s.clusters.length) (e : EngineKind) (c : Cmd) (a : Nat) :
    ((s.settleCmd cl e c (.fault .pageAbsent a)).cl cl).queue e =
      ((s.cl cl).queue e).map fun x => if x.id = c.id then { c with susp := some (s.clock.toNat, a) } else x := by
  have hq : (State.settleCmd s cl e c (.fault .pageAbsent a)).clusters = (s.putCmd cl e { c with susp := some (s.clock.toNat, a) }).clusters :=
    postCmd_clusters _ _ _ _ _
  unfold State.cl at hq ⊢
  rw [hq]
  have := mapQueue_queue (e := e) hl fun q => q.map fun x => if x.id == c.id then { c with susp := some (s.clock.toNat, a) } else x
  unfold State.cl at this
  simp only [beq_iff_eq] at this
  simpa [State.putCmd, State.cl] using this

end CopyEvent

end Sys2Proof.Machine
end

section
/-! ### The link engine (R130, R131, R280, R281) -/

namespace Sys2Proof.Machine

open Sys2Proof.Claims Sys2Proof.Safety

variable {s t u v : State} {g : Group} {gi cl : Nat} {c c' : Cmd} {e : EngineKind} {ev : Instr} {r : Option FaultInfo}

/-- The event of a command that has ended, after what is written then. -/
theorem ended_drift (hl : cl < v.clusters.length) (hq : (v.cl cl).queue e = (s.cl cl).queue e) (hid : c'.id = c.id) (hd : Drift (v.endCmd cl e c' r) t)
    (hx : exec ev s = .next (t.report .event)) : Ended s (t.report .event) ev cl e c := by
  refine ⟨hx, rfl, ?_⟩
  rw [← hq, ← hid, ← endCmd_queue hl (r := r)]
  exact hd.queue

theorem linkFault_drift (f : FCode) (a : Nat) : Drift (s.endCmd cl .link c none) (s.linkFault cl c f a) := by
  unfold State.linkFault
  dsimp only
  split
  · exact drift_freeze _ _ _ _ _ _ _
  · exact drift_post _ _ _

section Sending

variable (hf : (s.cl cl).link.find? (·.id == c.id) = some c) (hr : s.cmdReady c = true) (hs : c.sent = false)
include hf hr hs

theorem sendLink_stops (hl : cl < s.clusters.length) (hw : s.collWindows c.slot c.kind.coll = false) : ∃ t, Ended s t (.engineOperation cl .link c.id) cl .link c := by
  have hev := engineOperation_event (eng := .link) hf hr hs
  have hsend : s.sendLink cl c = s.linkFault cl c .peerWindow 0 := if_pos (by rw [hw]; rfl)
  dsimp only at hev
  rw [hsend] at hev
  exact ⟨_, ended_drift hl rfl rfl (linkFault_drift _ _) hev⟩

theorem sendLink_sends {ws : List (Nat × Nat × Nat)} (hw : s.collWindows c.slot c.kind.coll = true) (hws : s.linkWords c = .ok ws) :
    exec (.engineOperation cl .link c.id) s = .next { s with
      last := .event
      clusters := s.clusters.set cl { s.cl cl with link := (s.cl cl).link.map fun x => if x.id = c.id then { c with todo := ws, sent := true } else x } } := by
  have hev := engineOperation_event (eng := .link) hf hr hs
  have hsend : s.sendLink cl c = s.putCmd cl .link { c with todo := ws, sent := true } := by
    unfold State.sendLink
    rw [hw, hws]
    rfl
  dsimp only at hev
  rw [hsend] at hev
  unfold State.putCmd at hev
  simp only [beq_iff_eq] at hev
  exact hev

end Sending

/-! #### The words that a member sends -/

theorem linkWords_xscale {bar src dst nb coll : Nat} (hk : c.kind = .xscale bar src dst nb coll) {xs : Nat → List Nat}
    (hx : ∀ b < nb, s.readWords c (src + 128 * b) 32 = .ok (xs b)) :
    s.linkWords c = .ok ((List.range nb).map fun b => (dst + 8 * b, 8, (xscaleWord (xs b)).toNat)) := by
  unfold State.linkWords
  split
  · next heq =>
    cases hk.symm.trans heq
    refine Tests.mapM_ok _ _ _ fun b hb => ?_
    rw [hx b (List.mem_range.1 hb)]
  · next heq => cases hk.symm.trans heq
  · next hno _ => exact absurd hk (hno _ _ _ _ _)

theorem mapM_length {α β ε : Type} {f : α → Except ε β} : ∀ {l : List α} {ys : List β}, l.mapM f = .ok ys → ys.length = l.length
  | [], ys, h => by
    cases h
    rfl
  | x :: l, ys, h => by
    rw [List.mapM_cons] at h
    cases hx : f x with
    | error e => rw [hx] at h; cases h
    | ok y =>
      rw [hx] at h
      cases hl : l.mapM f with
      | error e => rw [hl] at h; cases h
      | ok zs =>
        rw [hl] at h
        cases h
        exact congrArg (· + 1) (mapM_length hl)

theorem map_range_mul {α : Type} (F : Nat → α) (k n : Nat) :
    (List.range (k * n)).map F = (List.range n).flatMap fun b => (List.range k).map fun i => F (k * b + i) := by
  induction n with
  | zero => rfl
  | succ n ih =>
    rw [Nat.mul_succ, List.range_add, List.map_append, ih, List.range_succ, List.flatMap_append, List.map_map]
    simp [Function.comp_def]

theorem map_zipIdx_range {α β : Type} (G : Nat → α → β) (l : List α) (d : α) : (l.zipIdx.map fun p => G p.2 p.1) = (List.range l.length).map fun i => G i (l.getD i d) := by
  apply List.ext_getElem
  · simp
  · intro n h1 h2
    have hn : n < l.length := by simpa using h1
    simp [hn]

theorem ebit_eq_testBit (x i : Nat) : ebit x i = x.testBit i := by
  rw [Nat.testBit_eq_decide_div_mod_eq]
  rfl

/-- An XRED's words: the integers of its blocks, then their scale words. -/
theorem linkWords_xred {bar data scl nb coll : Nat} (hk : c.kind = .xred bar data scl nb coll) {sw : Nat → Nat} {xs : Nat → List Nat}
    (hx : ∀ b < nb, s.engRead c (scl + 8 * b) 8 = .ok (sw b) ∧ s.readWords c (data + 128 * b) 32 = .ok (xs b)) :
    s.linkWords c = .ok (((List.range (32 * nb)).map fun i => (data + 4 * i, 4,
        if (sw (i / 32)).testBit (32 + i % 32) then 0 else (BitVec.ofInt 64 (xredQuant (BitVec.ofNat 16 (sw (i / 32))).toInt ((xs (i / 32)).getD (i % 32) 0))).toNat)) ++
      (List.range nb).map fun b => (scl + 8 * b, 8, sw b)) := by
  unfold State.linkWords
  split
  · next heq => cases hk.symm.trans heq
  · next heq =>
    cases hk.symm.trans heq
    dsimp only
    rw [Tests.mapM_ok _ (fun b => ((xs b).zipIdx.map fun p => (data + 128 * b + 4 * p.2, 4,
      if ebit (sw b) (32 + p.2) then 0 else (BitVec.ofInt 64 (xredQuant (BitVec.ofNat 16 (sw b)).toInt p.1)).toNat), (scl + 8 * b, 8, sw b))) _ fun b hb => ?_]
    · dsimp only
      rw [map_range_mul, List.flatMap_map, List.map_map]
      refine congrArg Except.ok (congrArg (· ++ _) (List.flatMap_congr fun b hb => ?_))
      have hlen : (xs b).length = 32 := (mapM_length (hx b (List.mem_range.1 hb)).2).trans List.length_range
      dsimp only
      rw [map_zipIdx_range (fun i x => (data + 128 * b + 4 * i, 4,
        if ebit (sw b) (32 + i) then 0 else (BitVec.ofInt 64 (xredQuant (BitVec.ofNat 16 (sw b)).toInt x)).toNat)) (xs b) 0, hlen]
      refine List.map_congr_left fun i hi => ?_
      have hi := List.mem_range.1 hi
      rw [show (32 * b + i) / 32 = b by omega, show (32 * b + i) % 32 = i by omega, show data + 4 * (32 * b + i) = data + 128 * b + 4 * i by omega,
        ebit_eq_testBit]
    · obtain ⟨h1, h2⟩ := hx b (List.mem_range.1 hb)
      rw [h1, h2]
  · next hno => exact absurd hk (hno _ _ _ _ _)

/-! #### The acknowledgement (R48, R280) -/

theorem collAck_completes {k id : Nat} {o : Op} (ho : s.findOp gi k = some (g, o)) (hk : o.kind = .coll id)
    (hsent : ∀ c ∈ (s.cl g.gid.cluster).link, c.id = id → c.sent = true) :
    exec (.acknowledgement gi k) s = .next { s with groups := s.groups.set gi (g.complete o), last := .event } := by
  have hack : acknowledgementBody gi k s = none := by
    unfold acknowledgementBody
    rw [ho]
    dsimp only
    rw [hk]
  have hall : ((s.cl g.gid.cluster).link.find? (·.id == id)).all (·.sent) = true := by
    cases hf : (s.cl g.gid.cluster).link.find? (·.id == id) with
    | none => rfl
    | some c => exact hsent c (List.mem_of_find?_eq_some hf) (by simpa using List.find?_some hf)
  have hcoll : collAckBody gi k s = some (s.setG gi (g.complete o)) := by
    unfold collAckBody
    rw [ho]
    dsimp only
    rw [hk]
    exact if_pos hall
  show eventOf s (match acknowledgementBody gi k s with
    | some t => some t
    | none => collAckBody gi k s) = _
  rw [hack, hcoll]
  rfl

end Sys2Proof.Machine
end

section
/-! ### A collective completes (R130-R132, R280, R281) -/

namespace Sys2Proof.Machine

open Sys2Proof.Claims Sys2Proof.Safety

variable {s t u v : State} {g : Group} {gi cl : Nat} {c : Cmd} {others : List (Bool × List DWord)}

/-! #### Words written one after another -/

/-- Numbers written at their keys. -/
def State.puts (s : State) (ks : List (List Nat)) (ws : List (Nat × Nat × Nat)) : State :=
  (ks.zip ws).foldl (fun t p => t.write (p.1.zip (bytesOfWord p.2.2.1 p.2.2.2))) s

/-- The byte at an offset within numbers of `n` bytes. -/
def byteOf (n : Nat) (val : Nat → Nat) (o : Nat) : Byte := (bytesOfWord n (val (o / n))).getD (o % n) 0

theorem zip_bytesOfWord (b : Nat → Nat) (n w : Nat) :
    ((List.range n).map b).zip (bytesOfWord n w) = (List.range n).map fun i => (b i, (bytesOfWord n w).getD i 0) := by
  apply List.ext_getElem
  · simp
  · intro i h1 h2
    have hi : i < n := by simpa using h2
    simp [hi]

/-- The first `m` numbers of `n` bytes are written. -/
theorem puts_fill {key at_ val : Nat → Nat} {n M : Nat} (w : Memory.wf s.mem = true) (hd : distinct key (n * M)) (hn : 0 < n) : ∀ m ≤ M,
    Wrote s (s.puts ((List.range m).map fun j => (List.range n).map fun i => key (n * j + i)) ((List.range m).map fun j => (at_ j, n, val j))) key (n * m) (byteOf n val)
  | 0, _ => .refl s key _
  | m + 1, hm => by
    have ih := puts_fill (at_ := at_) (val := val) w hd hn m (by omega)
    have hle : n * (m + 1) ≤ n * M := Nat.mul_le_mul_left n hm
    have hstep := ih.step (r := n) w hd (by rw [Nat.mul_succ] at hle; exact hle)
    unfold State.puts at hstep ⊢
    rw [List.range_succ, List.map_append, List.map_append, List.zip_append (by simp), List.foldl_append, Nat.mul_succ]
    show Wrote s (State.write _ (((List.range n).map fun i => key (n * m + i)).zip (bytesOfWord n (val m)))) key _ _
    rw [zip_bytesOfWord]
    have hb : ∀ i ∈ List.range n, (key (n * m + i), byteOf n val (n * m + i)) = (key (n * m + i), (bytesOfWord n (val m)).getD i 0) := fun i hi => by
      unfold byteOf
      rw [Nat.mul_add_div hn, Nat.mul_add_mod, Nat.div_eq_of_lt (List.mem_range.1 hi), Nat.mod_eq_of_lt (List.mem_range.1 hi), Nat.add_zero]
    rwa [List.map_congr_left hb] at hstep

/-- Numbers that have been written stand there. -/
theorem stands_of_wrote {key val : Nat → Nat} {n m : Nat} (hn : 0 < n) (h : Wrote s u key (n * m) (byteOf n val)) : Stands s u key n m val := by
  refine ⟨fun j hj => ?_, h.filled.2⟩
  have hb : ((List.range n).map fun i => u.mem.get (key (n * j + i))) = bytesOfWord n (val j) := by
    apply List.ext_getElem
    · simp
    · intro i h1 h2
      have hi : i < n := by simpa using h1
      have hlt : n * j + i < n * m := by
        have := Nat.mul_le_mul_left n (Nat.succ_le_of_lt hj)
        rw [Nat.mul_succ] at this
        omega
      rw [List.getElem_map, List.getElem_range, h.filled.1 _ hlt]
      unfold byteOf
      rw [Nat.mul_add_div hn, Nat.mul_add_mod, Nat.div_eq_of_lt hi, Nat.mod_eq_of_lt hi, Nat.add_zero, List.getD_eq_getElem _ _ h2]
  rw [hb, wordOfBytes_bytesOfWord, Nat.pow_mul]

/-! #### The event -/

/-- What each other member has to send. -/
def CmdKind.words : CmdKind → Nat
  | .xscale _ _ _ nb _ => nb
  | .xred _ _ _ nb _ => 32 * nb
  | _ => 0

/-- The branches of the event, once the command is found sent and its context active. -/
theorem collectiveBody_eq (hf : (s.cl cl).link.find? (·.id == c.id) = some c) (hs : c.sent = true) (ha : (s.ctx c.slot).state = .active) :
    collectiveBody cl c.id others s =
      if collN (s.collCtrl c.slot c.kind.coll) < others.length + 1 then none
      else if others.length + 1 < collN (s.collCtrl c.slot c.kind.coll) then some (s.linkNotice cl c .collAbort)
      else if others.any (fun o => o.1 != c.kind.isXred || o.2.length != c.kind.words) then some (s.linkNotice cl c .collMismatch)
      else match s.writeKeys c (linkResult c (others.map (·.2))).1 with
        | .error e => some (s.linkFault cl c e.1 e.2)
        | .ok ks => match (s.puts ks (linkResult c (others.map (·.2))).1).credit c (linkResult c (others.map (·.2))).2.1 (linkResult c (others.map (·.2))).2.2 with
          | (_, _, .fault f a) => some (s.linkFault cl c f a)
          | (t, c, .fin) => some (t.endCmd cl .link c none) := by
  unfold collectiveBody
  rw [hf]
  dsimp only
  by_cases hn : collN (s.collCtrl c.slot c.kind.coll) < others.length + 1
  · rw [if_pos (.inr (.inr hn)), if_pos hn]
  · rw [if_neg (by simp [hs, ha, hn]), if_neg hn]
    rfl

/-- All words are there: the results are written, and the barrier takes its credit. -/
theorem collective_completes {key : Nat → Nat} {a n m bar len : Nat} {val at_ : Nat → Nat} (hl : cl < s.clusters.length) (h : Combines s cl c others key a n m)
    (hm : c.kind.words = m) (hn : 0 < n) (hat : ∀ j < m, at_ j = a + n * j)
    (hres : linkResult c (others.map (·.2)) = ((List.range m).map fun j => (at_ j, n, val j), bar, len)) :
    ∃ u t : State, Undisturbed s u (fun x => ∃ o < n * m, x = key o) ∧ Stands s u key n m val ∧
      ((u.credit c bar len).2.2 = .fin → Ended s t (.collectiveCompletion cl c.id others) cl .link c ∧ t.mem = (u.credit c bar len).1.mem) := by
  obtain ⟨w, hf, hs, ha, hall, heach, hkeys, hd⟩ := h
  have hbody := collectiveBody_eq (others := others) hf hs ha
  have hany : others.any (fun o => o.1 != c.kind.isXred || o.2.length != c.kind.words) = false := by
    rw [List.any_eq_false]
    intro o ho
    obtain ⟨h1, h2⟩ := heach o ho
    simp [h1, h2, hm]
  have hk : s.writeKeys c ((List.range m).map fun j => (at_ j, n, val j)) = .ok ((List.range m).map fun j => (List.range n).map fun i => key (n * j + i)) := by
    unfold State.writeKeys
    rw [List.mapM_map, Tests.mapM_ok]
    intro j hj
    have hj := List.mem_range.1 hj
    dsimp only [Function.comp_apply]
    rw [hat j hj]
    exact hkeys j hj
  rw [if_neg (by omega), if_neg (by omega), hany, if_neg Bool.false_ne_true, hres] at hbody
  dsimp only at hbody
  rw [hk] at hbody
  dsimp only at hbody
  have hw := puts_fill (at_ := at_) (val := val) w hd hn m (le_refl _)
  generalize s.puts ((List.range m).map fun j => (List.range n).map fun i => key (n * j + i)) ((List.range m).map fun j => (at_ j, n, val j)) = u at hbody hw
  refine ⟨u, ((u.credit c bar len).1.endCmd cl .link c none).report .event, hw.undisturbed (le_refl _), stands_of_wrote hn hw, fun hfin => ?_⟩
  have hc : u.credit c bar len = ((u.credit c bar len).1, c, .fin) := by
    have := credit_at u c c.pos bar len
    rw [hfin] at this
    exact this
  have hdr := hw.drift.trans (drift_credit u c bar len)
  have hev : exec (.collectiveCompletion cl c.id others) s = .next (((u.credit c bar len).1.endCmd cl .link c none).report .event) := by
    show eventOf s (collectiveBody cl c.id others s) = _
    rw [hbody, hc]
    rfl
  exact ⟨ended_endCmd (by rw [hdr.clusters]; exact hl) hdr.queue rfl hev, endCmd_mem⟩

theorem combineAt_eq (f : DWord → DWord → DWord) (own : DWord) (i : Nat) (others : List (Bool × List DWord)) :
    combineAt f own.toNat i (others.map (·.2)) = (others.map fun o => o.2.getD i 0).foldl f own := by
  unfold combineAt
  rw [List.foldl_map, List.foldl_map, BitVec.ofNat_toNat, BitVec.setWidth_eq]

theorem xscale_result {bar src dst nb coll : Nat} {own : Nat → DWord} (hk : c.kind = .xscale bar src dst nb coll)
    (ht : c.todo = (List.range nb).map fun b => (dst + 8 * b, 8, (own b).toNat)) :
    linkResult c (others.map (·.2)) = ((List.range nb).map fun b => (dst + 8 * b, 8, ((others.map fun o => o.2.getD b 0).foldl xscaleCombine (own b)).toNat),
      bar, 8 * nb) := by
  unfold linkResult
  split
  · next heq =>
    cases hk.symm.trans heq
    rw [ht, List.zipIdx_map, List.map_map]
    refine congrArg (·, bar, 8 * nb) ?_
    apply List.ext_getElem
    · simp
    · intro i h1 h2
      simp [combineAt_eq, Function.comp_def]
  · next heq => cases hk.symm.trans heq
  · next hno _ => exact absurd hk (hno _ _ _ _ _)

theorem xred_result {bar data scl nb coll : Nat} {own scale : Nat → DWord} (hk : c.kind = .xred bar data scl nb coll)
    (ht : c.todo = ((List.range (32 * nb)).map fun i => (data + 4 * i, 4, (own i).toNat)) ++ ((List.range nb).map fun b => (scl + 8 * b, 8, (scale b).toNat))) :
    linkResult c (others.map (·.2)) = ((List.range (32 * nb)).map fun i => (data + 4 * i, 4,
      xredResult ((scale (i / 32)).setWidth 16).toInt ((scale (i / 32)).getLsbD (32 + i % 32)) ((others.map fun o => o.2.getD i 0).foldl (· + ·) (own i))),
      bar, 128 * nb) := by
  unfold linkResult
  split
  · next heq => cases hk.symm.trans heq
  · next heq =>
    cases hk.symm.trans heq
    rw [ht, List.take_left' (by simp), List.drop_left' (by simp), List.map_map]
    refine congrArg (·, bar, 128 * nb) ?_
    apply List.ext_getElem
    · simp
    · intro i h1 h2
      have hi : i < 32 * nb := by simpa using h2
      have hw : ((List.range nb).map ((fun p : Nat × Nat × Nat => p.2.2) ∘ fun b => (scl + 8 * b, 8, (scale b).toNat))).getD (i / 32) 0 = (scale (i / 32)).toNat := by
        rw [List.getD_eq_getElem _ _ (by simp; omega)]
        simp
      simp only [List.getElem_map, List.getElem_zipIdx, List.getElem_range, Nat.zero_add]
      rw [hw, combineAt_eq, ebit_eq_testBit]
      refine congrArg (fun X => (data + 4 * i, 4, xredResult (BitVec.toInt X) _ _)) ?_
      exact BitVec.eq_of_toNat_eq (by simp)
  · next hno => exact absurd hk (hno _ _ _ _ _)

end Sys2Proof.Machine
end

section
/-! ### A collective that ends without a result (R281) -/

namespace Sys2Proof.Machine

open Sys2Proof.Claims Sys2Proof.Safety

variable {s t u v : State} {g : Group} {gi cl k : Nat} {c : Cmd} {others : List (Bool × List DWord)} {e : EngineKind} {r : Option FaultInfo}

/-- The end of a command leaves of each context all but its saved teams. -/
theorem endCmd_ctx : ∃ sv, (s.endCmd cl e c r).ctx k = { s.ctx k with saved := sv } := by
  unfold State.endCmd State.mapOwner
  split
  · exact ⟨_, rfl⟩
  · unfold State.setCtx State.ctx State.mapQueue State.setCl
    dsimp only
    rw [List.getD_eq_getElem?_getD, List.getD_eq_getElem?_getD, List.getElem?_set]
    split
    · next h =>
      subst h
      split
      · exact ⟨_, rfl⟩
      · next h =>
        have hd : s.ctxs.getD c.slot {} = {} := List.getD_eq_default _ _ (by omega)
        exact ⟨(s.ctxs.getD c.slot {}).saved, hd.symm⟩
    · exact ⟨_, rfl⟩

/-- Contexts whose trap queue and save area stand at the same places. -/
theorem places_of_saved {a b : Context} {sv : List SavedTeam} (h : a = { b with saved := sv }) :
    a.tqHeader = b.tqHeader ∧ a.tqN = b.tqN ∧ ∀ gid, a.csaGroup gid = b.csaGroup gid := by
  have hq : a.tqbase = b.tqbase := by rw [h]
  have hc : a.csabase = b.csabase := by rw [h]
  unfold Context.tqHeader Context.tqN Context.csaGroup
  rw [hq, hc]
  exact ⟨rfl, rfl, fun _ => rfl⟩

/-- The end of a command leaves the trap queues where they are. -/
theorem endCmd_recAt : (s.endCmd cl e c r).recAt k = s.recAt k ∧ (s.endCmd cl e c r).tqFree k = s.tqFree k ∧
    ((s.endCmd cl e c r).ctx k).tqHeader = (s.ctx k).tqHeader := by
  obtain ⟨sv, hctx⟩ := endCmd_ctx (s := s) (cl := cl) (e := e) (c := c) (r := r) (k := k)
  obtain ⟨hhd, hn, -⟩ := places_of_saved hctx
  unfold State.recAt State.tqFree
  dsimp only
  rw [hhd, hn, endCmd_mem]
  exact ⟨rfl, rfl, rfl⟩

/-- A notice stands in the trap queue of the command's context. -/
theorem linkNotice_code (w : Memory.wf s.mem = true) (h : 0 < s.tqFree c.slot) (f : FCode) :
    (s.linkNotice cl c f).mem.num (s.recAt c.slot + 4) 4 = f.num + 2 * 2 ^ 16 + 6 * 2 ^ 20 := by
  obtain ⟨hat, hfree, hhd⟩ := endCmd_recAt (s := s) (cl := cl) (e := .link) (c := c) (r := none) (k := c.slot)
  have hap : apart ((s.endCmd cl .link c none).ctx c.slot).tqHeader 64 ((s.endCmd cl .link c none).recAt c.slot) 64 :=
    .inl (Nat.le_add_right _ _)
  have hlt := f.num_lt
  obtain ⟨⟨-, hcode, -⟩, -⟩ := recAt_post (r := { code := f.num, kind := 2, master := 6, pc := c.pc, who := c.gid.who, info := 255, lage := c.lage })
    (by rwa [endCmd_mem]) (by rwa [hfree]) hap
  unfold State.linkNotice
  rw [← hat, hcode]
  unfold Rec.codeWord
  simp only [Bool.toNat_false, Nat.zero_mul, Nat.add_zero]
  omega

/-- Nothing else of memory has changed. -/
theorem linkNotice_other (w : Memory.wf s.mem = true) (h : 0 < s.tqFree c.slot) (f : FCode) {x : Nat}
    (h1 : ¬ ((s.ctx c.slot).tqHeader ≤ x ∧ x < (s.ctx c.slot).tqHeader + 4)) (h2 : ¬ (s.recAt c.slot ≤ x ∧ x < s.recAt c.slot + 64)) :
    (s.linkNotice cl c f).mem.get x = s.mem.get x := by
  obtain ⟨hat, hfree, hhd⟩ := endCmd_recAt (s := s) (cl := cl) (e := .link) (c := c) (r := none) (k := c.slot)
  have hw : Memory.wf (s.endCmd cl .link c none).mem = true := by rwa [endCmd_mem]
  unfold State.linkNotice
  rw [post_mem (by rwa [hfree]), hat, hhd, Mem.setNum, Mem.get_setBytes_other (Memory.wf_setBytes _ _ hw) (by rw [length_bytesOfWord]; omega),
    Mem.get_setBytes_other hw (by rw [Rec.length_image]; omega), endCmd_mem]

/-- A collective that the event ends with a notice. -/
theorem collective_notice {f : FCode} (w : Memory.wf s.mem = true) (hl : cl < s.clusters.length) (h : 0 < s.tqFree c.slot)
    (hb : collectiveBody cl c.id others s = some (s.linkNotice cl c f)) :
    ∃ t, Ended s t (.collectiveCompletion cl c.id others) cl .link c ∧ t.mem.num (s.recAt c.slot + 4) 4 = f.num + 2 * 2 ^ 16 + 6 * 2 ^ 20 ∧
      ∀ x, ¬ ((s.ctx c.slot).tqHeader ≤ x ∧ x < (s.ctx c.slot).tqHeader + 4) → ¬ (s.recAt c.slot ≤ x ∧ x < s.recAt c.slot + 64) → t.mem.get x = s.mem.get x := by
  have hev : exec (.collectiveCompletion cl c.id others) s = .next ((s.linkNotice cl c f).report .event) := by
    show eventOf s (collectiveBody cl c.id others s) = _
    rw [hb]
    rfl
  have hdr : Drift (s.endCmd cl .link c none) (s.linkNotice cl c f) := drift_post _ _ _
  exact ⟨_, ended_drift (v := s) (e := .link) (r := none) hl rfl rfl hdr hev, by
    rw [State.report_mem]
    exact ⟨linkNotice_code w h f, fun x => linkNotice_other w h f⟩⟩

/-! ### ASYNC_TIMEOUT (R99) -/

/-- `u` is `s` in all that a trap looks at, whatever saved teams its contexts hold. -/
structure SameBut (s u : State) : Prop where
  mem : u.mem = s.mem
  tlbs : u.tlbs = s.tlbs
  clock : u.clock = s.clock
  ctxs : ∀ k, ∃ sv, u.ctx k = { s.ctx k with saved := sv }

theorem SameBut.refl (s : State) : SameBut s s := ⟨rfl, rfl, rfl, fun _ => ⟨_, rfl⟩⟩

theorem SameBut.trans (h : SameBut s u) (h' : SameBut u v) : SameBut s v :=
  ⟨h'.mem.trans h.mem, h'.tlbs.trans h.tlbs, h'.clock.trans h.clock, fun k => by
    obtain ⟨sv, e⟩ := h.ctxs k
    obtain ⟨sv', e'⟩ := h'.ctxs k
    exact ⟨sv', by rw [e', e]⟩⟩

theorem sameBut_endCmd : SameBut s (s.endCmd cl e c r) := by
  obtain ⟨gs, cs, hf⟩ := mapOwner_frame (s.mapQueue cl e fun q => q.filter (·.id != c.id)) c.gid c.tag c.slot fun g => g.finishCmd c.id r
  refine ⟨endCmd_mem, ?_, ?_, fun k => endCmd_ctx⟩
  · unfold State.endCmd
    rw [hf]
    rfl
  · unfold State.endCmd
    rw [hf]
    rfl

theorem SameBut.isTarget (h : SameBut s u) (cl slot a : Nat) : u.isTarget cl slot a = s.isTarget cl slot a := by
  obtain ⟨sv, e⟩ := h.ctxs slot
  have hleaf : ∀ va, u.leaf cl slot va = s.leaf cl slot va := fun va => by
    unfold State.leaf State.cached State.walkOf
    rw [h.tlbs, h.mem, e]
  unfold State.isTarget State.checkTarget State.lineBytesAt State.translate
  rw [h.mem]
  simp only [hleaf]

theorem SameBut.csaGroup (h : SameBut s u) (k : Nat) (gid : Gid) : (u.ctx k).csaGroup gid = (s.ctx k).csaGroup gid := by
  obtain ⟨sv, e⟩ := h.ctxs k
  exact (places_of_saved e).2.2 gid

theorem SameBut.canEnter (h : SameBut s u) (hc : CanEnter s g) : CanEnter u g := by
  obtain ⟨w, hshape, hn, ha, hi, hv, hm⟩ := hc
  refine ⟨h.mem.symm ▸ w, hshape, hn, ha, hi, hv, fun m ho => ?_⟩
  have hs : SameBut { s with mem := m } { u with mem := m } := ⟨rfl, h.tlbs, h.clock, h.ctxs⟩
  exact (hs.isTarget _ _ _).trans <| hm m fun x hx => by rw [ho x (by rw [h.csaGroup]; exact hx), h.mem]

theorem SameBut.entered {f : FaultInfo} {fpc cpc pid : Nat} (h : SameBut s u) (he : Entered u t gi g f fpc cpc pid) : Entered s t gi g f fpc cpc pid := by
  unfold Entered at he ⊢
  rw [h.csaGroup g.slot g.gid, h.clock, h.mem] at he
  exact he

theorem deliver_clusters (s : State) (gi : Nat) (f : FaultInfo) (fpc : Nat) : (s.deliver gi f fpc).clusters = s.clusters := by
  obtain ⟨m, gs, cs, h⟩ := deliver_frame s gi f fpc
  rw [h]

theorem writeFrame_clusters (s : State) (g : Group) (f : Frame) (save : Bool) (ents : List REntry) (ps : List Path) :
    (s.writeFrame g f save ents ps).clusters = s.clusters := by
  unfold State.writeFrame State.writeBytes
  simp only [State.write_clusters]

theorem takeTrap_clusters (s : State) (gi : Nat) : (s.takeTrap gi).clusters = s.clusters := by
  unfold State.takeTrap
  split
  · rfl
  · split
    · split
      · rfl
      · dsimp only
        rw [deliver_clusters, writeFrame_clusters, State.setG_clusters]
    · rfl

/-! #### The commands that still run stop -/

/-- The commands of an engine's list ended, without a fault. -/
def State.endAll (s : State) (cl : Nat) (l : List (EngineKind × Cmd)) : State := l.foldl (fun t x => t.endCmd cl x.1 x.2 none) s

/-- A group that commands of its own have left: only its account with the engines has changed. -/
def Settled (g g' : Group) : Prop := ∃ left fail bs, g' = { g with openLeft := left, openFail := fail, batches := bs }

theorem finishCmd_settles {n : Nat} (h : ∀ o ∈ g.ops, ∀ k, o.kind ≠ .engine k ∧ o.kind ≠ .coll k) : Settled g (g.finishCmd n r) := by
  have hno : g.ops.find? (fun o => o.kind == .engine n) = none := by
    rw [List.find?_eq_none]
    exact fun o ho => by simpa using (h o ho n).1
  unfold Group.finishCmd
  dsimp only
  rw [hno]
  exact ⟨_, _, _, rfl⟩

theorem endCmd_settles (hg : s.groups[gi]? = some g) (h : ∀ o ∈ g.ops, ∀ k, o.kind ≠ .engine k ∧ o.kind ≠ .coll k) :
    ∃ g', (s.endCmd cl e c r).groups[gi]? = some g' ∧ Settled g g' := by
  unfold State.endCmd State.mapOwner
  split
  · next i _ =>
    unfold State.mapG
    dsimp only
    rw [List.getElem?_modify, show (s.mapQueue cl e fun q => q.filter (·.id != c.id)).groups[gi]? = some g from hg]
    refine ⟨if i = gi then g.finishCmd c.id r else g, rfl, ?_⟩
    split
    · exact finishCmd_settles h
    · exact ⟨_, _, _, rfl⟩
  · exact ⟨g, hg, _, _, _, rfl⟩

theorem queue_setQueue_other (x : Cluster) {e e' : EngineKind} (q : List Cmd) (h : e' ≠ e) : (x.setQueue e q).queue e' = x.queue e' := by
  cases e <;> cases e' <;> simp [Cluster.setQueue, Cluster.queue] at h ⊢

theorem endCmd_clusters : (s.endCmd cl e c r).clusters = s.clusters.set cl ((s.cl cl).setQueue e (((s.cl cl).queue e).filter (·.id != c.id))) := by
  unfold State.endCmd
  obtain ⟨gs, cs, hf⟩ := mapOwner_frame (s.mapQueue cl e fun q => q.filter (·.id != c.id)) c.gid c.tag c.slot fun g => g.finishCmd c.id r
  rw [hf]
  rfl

/-- A queue keeps what it had, but for the command that ends. -/
theorem endCmd_sub (hl : cl < s.clusters.length) (e' : EngineKind) {x : Cmd} (hx : x ∈ ((s.endCmd cl e c r).cl cl).queue e') : x ∈ (s.cl cl).queue e' := by
  by_cases h : e' = e
  · subst h
    rw [endCmd_queue hl] at hx
    exact (List.mem_filter.1 hx).1
  · unfold State.cl at hx ⊢
    rw [endCmd_clusters, List.getD_eq_getElem?_getD, List.getElem?_set_self hl, Option.getD_some, queue_setQueue_other _ _ h] at hx
    exact hx

/-- What the end of all of a group's commands leaves. -/
theorem endAll_leaves : ∀ (l : List (EngineKind × Cmd)) (s : State) (g : Group), (∀ o ∈ g.ops, ∀ k, o.kind ≠ .engine k ∧ o.kind ≠ .coll k) →
    s.groups[gi]? = some g → cl < s.clusters.length → SameBut s (s.endAll cl l) ∧ (∃ g', (s.endAll cl l).groups[gi]? = some g' ∧ Settled g g') ∧
      (∀ e' x, x ∈ ((s.endAll cl l).cl cl).queue e' → x ∈ (s.cl cl).queue e') ∧ ∀ x ∈ l, x.2 ∉ ((s.endAll cl l).cl cl).queue x.1
  | [], s, g, _, hg, _ => ⟨.refl s, ⟨g, hg, _, _, _, rfl⟩, fun _ _ hx => hx, fun _ hx => absurd hx List.not_mem_nil⟩
  | y :: l, s, g, h, hg, hl => by
    obtain ⟨g', hg', left, fail, bs, rfl⟩ := endCmd_settles (cl := cl) (e := y.1) (c := y.2) (r := none) hg h
    have hl' : cl < (s.endCmd cl y.1 y.2 none).clusters.length := by
      rw [endCmd_clusters, List.length_set]
      exact hl
    obtain ⟨h1, ⟨g'', hg'', left', fail', bs', rfl⟩, h3, h4⟩ := endAll_leaves l _ _ (by exact h) hg' hl'
    refine ⟨sameBut_endCmd.trans h1, ⟨_, hg'', _, _, _, rfl⟩, fun e' x hx => endCmd_sub hl e' (h3 e' x hx), fun x hx hq => ?_⟩
    obtain rfl | hx := List.mem_cons.1 hx
    · have hin := h3 _ _ hq
      rw [endCmd_queue hl] at hin
      simpa using (List.mem_filter.1 hin).2
    · exact h4 x hx hq

theorem findCmd_there {x : Cluster} {n : Nat} {p : EngineKind × Cmd} (h : x.findCmd n = some p) : p.2 ∈ x.queue p.1 := by
  unfold Cluster.findCmd at h
  obtain ⟨y, -, hy⟩ := List.exists_of_findSome?_eq_some h
  obtain ⟨z, hz, rfl⟩ := Option.map_eq_some_iff.1 hy
  exact List.mem_of_find?_eq_some hz

theorem cluster_of_queue {x : Cmd} (h : x ∈ (s.cl cl).queue e) : cl < s.clusters.length := by
  by_contra hn
  unfold State.cl at h
  rw [List.getD_eq_default _ _ (by omega)] at h
  cases e <;> exact absurd h List.not_mem_nil

theorem asyncTimeout_takes {w : BWaiting} {p : Path} (hg : s.groups[gi]? = some g) (hb : g.bwait = [w]) (hp : g.path w.pid = some p) (hst : g.st = .run)
    (hpst : p.st = .run) (hstill : w.still = none) (hover : w.since + 7200000 ≤ s.clock.toNat) (ha : (s.ctx g.slot).state = .active)
    (hlive : w.ids.filterMap (fun k => (s.cl g.gid.cluster).findCmd k) ≠ []) :
    exec (.asyncTimeout gi) s = .next (((s.endAll g.gid.cluster (w.ids.filterMap fun k => (s.cl g.gid.cluster).findCmd k)).raise gi
      { code := .asyncTimeout } p.pc p.pc p.id).report .event) := by
  show eventOf s (asyncTimeoutBody gi s) = _
  unfold asyncTimeoutBody
  rw [hg]
  dsimp only
  have hfind : g.bwait.find? (fun w => w.over s.clock.toNat && !(w.ids.filterMap fun k => (s.cl g.gid.cluster).findCmd k).isEmpty) = some w := by
    rw [hb]
    refine List.find?_cons_of_pos ?_
    unfold BWaiting.over
    simp [hstill, hover, hlive]
  rw [hfind]
  dsimp only
  rw [hp]
  dsimp only
  rw [if_pos (by simp [hst, hpst, ha])]
  rfl

theorem asyncTimeout_traps : traps { code := .asyncTimeout } := .inl rfl

end Sys2Proof.Machine
end

section
/-! ### O43 -/

namespace Sys2Proof.Machine

open Sys2Proof.Claims Sys2Proof.Safety

variable {s t u v : State} {g : Group} {gi cl : Nat} {c : Cmd} {others : List (Bool × List DWord)}

/-- A command that a Fatal fault ends, with nothing written. -/
theorem acp_fails {ss ds : Space} {src dst len : Nat} {bar : Option Nat} (hl : cl < s.clusters.length) (hk : c.kind = .acp ss ds src dst len bar) {f : FCode} {a : Nat}
    (hcls : f.cls = .fatal) (hx : exec (.engineOperation cl .copy c.id) s = .next ((s.settleCmd cl .copy c (.fault f a)).report .event)) :
    ∃ t, Ended s t (.engineOperation cl .copy c.id) cl .copy c ∧ t.mem = s.mem ∧ ∀ (gi : Nat) (g : Group),
      s.groups.findIdx? (fun g => g.gid == c.gid && g.tag == c.tag) = some gi → s.groups[gi]? = some g → c.id ∈ g.openLeft → g.openFail = none →
      ∃ gt, t.groups[gi]? = some gt ∧ gt.openFail = some { code := f, addr := a } ∧ c.id ∉ gt.openLeft ∧ gt.regs = g.regs := by
  have hr : s.failResult c a = s := by
    unfold State.failResult
    rw [hk]
  have hs : s.failStream c f a = s := by
    unfold State.failStream
    rw [hk]
  rw [settleCmd_fails (fun h => by rw [h] at hcls; cases hcls) (fun h => by rw [h] at hcls; cases hcls), hr, hs] at hx
  refine ⟨_, ended_endCmd hl rfl rfl hx, endCmd_mem, fun gi g ho hg hin hno => ?_⟩
  refine ⟨_, endCmd_group ho hg, finishCmd_fails hin hno, fun h => ?_, finishCmd_regs _ _ _⟩
  rw [finishCmd_left] at h
  simpa using (List.mem_filter.1 h).2

theorem canEnter_settled {left : List Nat} {fail : Option FaultInfo} {bs : List Batch} (h : CanEnter s g) :
    CanEnter s { g with openLeft := left, openFail := fail, batches := bs } := by
  obtain ⟨w, hshape, hn, ha, hi, hv, hm⟩ := h
  exact ⟨w, shaped_of_eq hshape rfl rfl rfl rfl rfl rfl, hn, ha, hi, hv, hm⟩

theorem asyncTimeout_ends {l : List (EngineKind × Cmd)} {p : Path} (hg : s.groups[gi]? = some g) (hops : ∀ o ∈ g.ops, ∀ k, o.kind ≠ .engine k ∧ o.kind ≠ .coll k)
    (hx : exec (.asyncTimeout gi) s = .next (((s.endAll g.gid.cluster l).raise gi
      { code := .asyncTimeout } p.pc p.pc p.id).report .event))
    (hl : g.gid.cluster < s.clusters.length) :
    ∃ t, exec (.asyncTimeout gi) s = .next t ∧ t.last = .event ∧
      (∀ x ∈ l, x.2 ∉ (t.cl g.gid.cluster).queue x.1) ∧
      (g.ops.any Op.awaited = true → ∃ gt, t.groups[gi]? = some gt ∧ gt.st = .trapping { code := .asyncTimeout } p.pc p.pc p.id ∧ gt.regs = g.regs ∧ gt.bwait = []) ∧
      (CanEnter s g → ∃ k, k = { g with openLeft := k.openLeft, openFail := k.openFail, batches := k.batches, bwait := [] } ∧
        Entered s t gi k { code := .asyncTimeout } p.pc p.pc p.id) := by
  obtain ⟨hsame, ⟨g', hg', left, fail, bs, rfl⟩, -, hgone⟩ := endAll_leaves l s g hops hg hl
  have hlt := (List.getElem?_eq_some_iff.1 hg').1
  have hraise := raise_eq_takeTrap (fpc := p.pc) (cpc := p.pc) (pid := p.id) hg' asyncTimeout_traps
  refine ⟨_, hx, rfl, fun x hm => ?_, fun ha => ?_, fun hc => ?_⟩
  · have hcl : ((s.endAll g.gid.cluster l).raise gi { code := .asyncTimeout } p.pc p.pc p.id).clusters =
        (s.endAll g.gid.cluster l).clusters := by
      rw [hraise, takeTrap_clusters]
      rfl
    have := hgone x hm
    unfold State.cl at this ⊢
    rw [State.report_clusters, hcl]
    exact this
  · refine ⟨{ g with openLeft := left, openFail := fail, batches := bs, st := .trapping { code := .asyncTimeout } p.pc p.pc p.id, bwait := [] }, ?_, rfl, rfl, rfl⟩
    rw [hraise]
    unfold State.takeTrap
    rw [State.setG_groups, List.getElem?_set_self hlt]
    dsimp only
    rw [if_pos ha]
    exact List.getElem?_set_self hlt
  · have hent := raise_entered (fpc := p.pc) (cpc := p.pc) (pid := p.id) hg' asyncTimeout_traps (hsame.canEnter (canEnter_settled hc)) (fun h => by cases h)
    exact ⟨{ g with openLeft := left, openFail := fail, batches := bs, bwait := [] }, rfl, hsame.entered hent⟩

/-- Settles O43: a copy by its position, a collective by its branches, a timeout by the commands that still run. -/
theorem engineCommands : Obligations.EngineCommands := by
  unfold Obligations.EngineCommands
  refine ⟨?_, ?_, ?_, ?_, ?_⟩
  · intro s cl c ss ds src dst len bar w hl hf hr hs hp hk hlen
    refine ⟨fun sk dk hkeys hd hap => acp_ends w hl hf hr hs hp hk hlen hkeys hd hap, fun f a h0 he => ?_⟩
    have hx := acp_faults hf hr hs hp hk hlen h0 he
    refine ⟨?_, fun hcls => acp_fails hl hk hcls hx⟩
    rintro rfl
    exact ⟨_, hx, rfl, settleCmd_suspends hl .copy c a⟩
  · intro s cl c hl hf hr hs
    exact ⟨fun hw => sendLink_stops hf hr hs hl hw, fun ws hw hws => sendLink_sends hf hr hs hw hws, fun _ _ _ _ _ hk xs hx => linkWords_xscale hk hx,
      fun _ _ _ _ _ hk sw xs hx => linkWords_xred hk hx⟩
  · intro s gi k id g o ho hk hsent
    exact ⟨g.complete o, collAck_completes ho hk hsent, left_complete g o, complete_frame g o⟩
  · intro s cl c others key hl
    refine ⟨fun bar src dst nb coll own hk hc ht => ?_, fun bar data scl nb coll own scale hk hc ht => ?_, fun w hf hs ha => ?_⟩
    · exact collective_completes hl hc (by rw [hk]; rfl) (by omega) (fun _ _ => rfl) (xscale_result hk ht)
    · exact collective_completes hl hc (by rw [hk]; rfl) (by omega) (fun _ _ => rfl) (xred_result hk ht)
    · have hbody := collectiveBody_eq (others := others) hf hs ha
      refine ⟨fun hn => ?_, fun h0 hn => ?_, fun bar src dst nb coll h0 hn hk hbad => ?_, fun bar data scl nb coll h0 hn hk hbad => ?_⟩
      · rw [if_pos hn] at hbody
        show eventOf s (collectiveBody cl c.id others s) = _
        rw [hbody]
        rfl
      · rw [if_neg (by omega), if_pos hn] at hbody
        exact collective_notice w hl h0 hbody
      · rw [if_neg (by omega), if_neg (by omega), if_pos] at hbody
        · exact collective_notice w hl h0 hbody
        · obtain ⟨o, ho, hb⟩ := hbad
          refine List.any_eq_true.2 ⟨o, ho, ?_⟩
          rw [hk]
          simpa [CmdKind.isXred, CmdKind.words] using hb
      · rw [if_neg (by omega), if_neg (by omega), if_pos] at hbody
        · exact collective_notice w hl h0 hbody
        · obtain ⟨o, ho, hb⟩ := hbad
          refine List.any_eq_true.2 ⟨o, ho, ?_⟩
          rw [hk]
          simpa [CmdKind.isXred, CmdKind.words] using hb
  · intro s gi g w p hg hb hp hst hpst hstill hover ha cl live hlive hops
    obtain ⟨y, hy⟩ := List.exists_mem_of_ne_nil _ hlive
    obtain ⟨n, -, hn⟩ := List.mem_filterMap.1 hy
    exact asyncTimeout_ends hg hops (asyncTimeout_takes hg hb hp hst hpst hstill hover ha hlive) (cluster_of_queue (findCmd_there hn))

end Sys2Proof.Machine
end

section
/-! # The gather engine: descriptors, rows, takes (R100, R101, R263) -/

namespace Sys2Proof.Machine

open Sys2Proof.Claims Sys2Proof.Safety

variable {s t u : State} {c : Cmd}

/-! ### Descriptors (R100) -/

/-- A GEOM word names a row length when its fields are not reserved. -/
theorem geomRow_eq (x : Nat) : geomRow x = if x % 16 < 4 ∧ x / 16 < 5 then
    some ([32, 64, 128, 256].getD (x % 16) 0 * [2, 2, 1, 1, 4].getD (x / 16) 0) else none := by
  have hd : ebits x 2 0 = x % 8 := by simp [ebits]
  have hf : ebits x 6 4 = x / 16 % 8 := by simp [ebits]
  have hb : ebit x 3 = decide (x / 8 % 2 = 1) := by
    unfold ebit
    norm_num
    rfl
  unfold geomRow
  dsimp only
  rw [hd, hf, hb]
  by_cases h : x % 16 < 4 ∧ x / 16 < 5
  · rw [if_pos h, if_neg]
    · obtain ⟨h1, h2⟩ := h
      have e1 : x % 8 = x % 16 := by omega
      have e2 : x / 16 % 8 = x / 16 := by omega
      rw [e1, e2]
      generalize x % 16 = a at h1
      generalize x / 16 = b at h2
      interval_cases a <;> interval_cases b <;> rfl
    · simp only [Bool.or_eq_true, decide_eq_true_eq, bne_iff_ne, not_or, not_not]
      omega
  · rw [if_neg h, if_pos]
    simp only [Bool.or_eq_true, decide_eq_true_eq, bne_iff_ne]
    omega

section Descriptors

variable {rd : Nat → Nat → Except (FCode × Nat) Nat} {sd v w rb : Nat} (hv : rd sd 32 = .ok v) (hw : rd (v / 2 ^ 64 % 2 ^ 64) 64 = .ok w)
include hv hw

/-- The fields of a sequence descriptor and of its pool's. -/
theorem kvDesc_good (hg : geomRow (w / 2 ^ 224 % 2 ^ 32) = some rb) (h1 : v / 2 ^ 192 = 0) (h2 : w / 2 ^ 256 = 0) :
    kvDesc rd sd = .ok { table := v % 2 ^ 64, len := v / 2 ^ 128 % 2 ^ 32, cap := v / 2 ^ 160 % 2 ^ 32, pool := w % 2 ^ 64, freel := w / 2 ^ 64 % 2 ^ 64,
                         refc := w / 2 ^ 128 % 2 ^ 64, nblk := w / 2 ^ 192 % 2 ^ 32, rb := rb } := by
  have h0 : ∀ x : Nat, x / 2 ^ 0 = x := fun x => by rw [Nat.pow_zero, Nat.div_one]
  unfold kvDesc
  rw [hv]
  dsimp only [ebits]
  simp only [h0, Nat.reduceAdd, Nat.reduceSub]
  rw [hw]
  dsimp only
  rw [hg]
  dsimp only
  rw [if_neg (not_not.2 h1), if_neg (not_not.2 h2)]

/-- A reserved field is KV_RANGE. -/
theorem kvDesc_reserved (h : ¬ (geomRow (w / 2 ^ 224 % 2 ^ 32) ≠ none ∧ v / 2 ^ 192 = 0 ∧ w / 2 ^ 256 = 0)) : ∃ a, kvDesc rd sd = .error (.kvRange, a) := by
  have h0 : ∀ x : Nat, x / 2 ^ 0 = x := fun x => by rw [Nat.pow_zero, Nat.div_one]
  unfold kvDesc
  rw [hv]
  dsimp only [ebits]
  simp only [h0, Nat.reduceAdd, Nat.reduceSub]
  rw [hw]
  dsimp only
  cases hg : geomRow (w / 2 ^ 224 % 2 ^ 32) with
  | none => exact ⟨_, rfl⟩
  | some rb =>
    dsimp only
    by_cases h1 : v / 2 ^ 192 = 0
    · have h2 : w / 2 ^ 256 ≠ 0 := fun h2 => h ⟨by rw [hg]; exact Option.some_ne_none rb, h1, h2⟩
      rw [if_neg (not_not.2 h1), if_pos h2]
      exact ⟨_, rfl⟩
    · rw [if_pos h1]
      exact ⟨_, rfl⟩

/-- The first clause of O56. -/
theorem kvDesc_fields :
    let geom := w / 2 ^ 224 % 2 ^ 32
    let good : Prop := v / 2 ^ 192 = 0 ∧ w / 2 ^ 256 = 0 ∧ geom % 16 < 4 ∧ geom / 16 < 5
    (good → kvDesc rd sd = .ok { table := v % 2 ^ 64, len := v / 2 ^ 128 % 2 ^ 32, cap := v / 2 ^ 160 % 2 ^ 32, pool := w % 2 ^ 64, freel := w / 2 ^ 64 % 2 ^ 64,
                                 refc := w / 2 ^ 128 % 2 ^ 64, nblk := w / 2 ^ 192 % 2 ^ 32, rb := [32, 64, 128, 256].getD (geom % 16) 0 * [2, 2, 1, 1, 4].getD (geom / 16) 0 }) ∧
    (¬ good → ∃ a, kvDesc rd sd = .error (.kvRange, a)) := by
  intro geom good
  refine ⟨fun ⟨h1, h2, h3, h4⟩ => kvDesc_good hv hw ((geomRow_eq _).trans (if_pos ⟨h3, h4⟩)) h1 h2, fun h => kvDesc_reserved hv hw ?_⟩
  rw [geomRow_eq]
  rintro ⟨hg, h1, h2⟩
  have hg : geom % 16 < 4 ∧ geom / 16 < 5 := by
    by_contra hn
    exact hg (if_neg hn)
  exact h ⟨h1, h2, hg⟩

end Descriptors

/-- The places of a block's rows (R101). -/
theorem row_places (d : KvDesc) (b t : Nat) (ht : t < 16) (hr : 0 < d.rb) (hp : d.pool + b * 32 * d.rb + 32 * d.rb ≤ 2 ^ 64) :
    d.row b t false = d.pool + b * 32 * d.rb + t * d.rb ∧ d.row b t true = d.pool + b * 32 * d.rb + (16 + t) * d.rb := by
  have h1 : t * d.rb < 32 * d.rb := Nat.mul_lt_mul_of_pos_right (by omega) hr
  have h2 : (16 + t) * d.rb < 32 * d.rb := Nat.mul_lt_mul_of_pos_right (by omega) hr
  exact ⟨Nat.mod_eq_of_lt (by simp only [Bool.false_eq_true, if_false]; omega), Nat.mod_eq_of_lt (by simp only [if_true]; omega)⟩

/-! ### Takes (R263) -/

section Takes

variable {a : Asker} {key va n : Nat}

theorem fld_eq (s : State) (key off w : Nat) : s.fld key off w = s.mem.num (key + off) w := rfl

theorem takeBlocks_kind (h : s.mem.num key 4 % 16 ≠ 2) : s.takeBlocks a key va n = (s, .error (.objKind, va)) := by
  unfold State.takeBlocks
  refine if_pos ?_
  rwa [fld_eq, Nat.add_zero, show ebits (s.mem.num key 4) 3 0 = s.mem.num key 4 % 16 by simp [ebits]]

theorem freeList_kind (h : s.mem.num key 4 % 16 = 2) : ¬ ebits (s.fld key 0 4) 3 0 ≠ 2 := by
  rw [fld_eq, Nat.add_zero, show ebits (s.mem.num key 4) 3 0 = s.mem.num key 4 % 16 by simp [ebits]]
  exact not_not.2 h

theorem takeBlocks_refused {f : FCode} (h : s.mem.num key 4 % 16 = 2) (hf : s.objCheck a key va = .error f) :
    s.takeBlocks a key va n = (s, .error (f, va)) := by
  unfold State.takeBlocks
  refine (if_neg (freeList_kind h)).trans ?_
  rw [hf]

theorem objW_eq (t : State) (key i : Nat) (hi : i < 4) : (t.objW key).getD i 0 = t.mem.num (key + 16 + 8 * i) 8 := by
  unfold State.objW
  rw [List.getD_eq_getElem _ _ (by simpa using hi), List.getElem_map, List.getElem_range, fld_eq, Nat.add_assoc]

theorem objSlot_eq (t : State) (key : Nat) : t.objSlot key = t.mem.num (key + 48) 4 / 2 ^ 7 % 2 ^ 6 := rfl

theorem takeBlocks_short (h : s.mem.num key 4 % 16 = 2) (hc : s.objCheck a key va = .ok ())
    (hn : (s.applyAll (s.mem.num (key + 8) 4) key va).mem.num (key + 16 + 8 * 2) 8 < n) :
    s.takeBlocks a key va n = (s.applyAll (s.mem.num (key + 8) 4) key va, .ok none) := by
  unfold State.takeBlocks
  refine (if_neg (freeList_kind h)).trans ?_
  rw [hc]
  exact if_pos ((objW_eq _ _ 2 (by omega)).trans_lt hn)

theorem takeBlocks_takes (h : s.mem.num key 4 % 16 = 2) (hc : s.objCheck a key va = .ok ()) {f : Nat → Nat} {t : State}
    (ht : t = s.applyAll (s.mem.num (key + 8) 4) key va) (hn : n ≤ t.mem.num (key + 16 + 8 * 2) 8)
    (hs : ∀ i < n, sideAt t (t.mem.num (key + 48) 4 / 2 ^ 7 % 2 ^ 6) f
      ((t.mem.num (key + 16 + 8 * 0) 8 + 4 * (t.mem.num (key + 16 + 8 * 2) 8 - 1 - i)) % 2 ^ 64) 4 needR) :
    s.takeBlocks a key va n = (t.writeNum (key + 32) 8 (t.mem.num (key + 16 + 8 * 2) 8 - n), .ok (some ((List.range n).map fun i =>
      numAt t.mem f ((t.mem.num (key + 16 + 8 * 0) 8 + 4 * (t.mem.num (key + 16 + 8 * 2) 8 - 1 - i)) % 2 ^ 64) 4))) := by
  unfold State.takeBlocks
  refine (if_neg (freeList_kind h)).trans ?_
  rw [hc]
  dsimp only
  rw [fld_eq, ← ht]
  refine (if_neg (by rw [objW_eq _ _ 2 (by omega)]; omega)).trans ?_
  rw [objW_eq _ _ 2 (by omega), objW_eq _ _ 0 (by omega), objSlot_eq, Tests.mapM_ok _ _ _ fun i hi => hs i (List.mem_range.1 hi)]
  dsimp only
  rw [List.map_map]
  rfl

/-- The third clause of O56. -/
theorem takeBlocks_cases (w : Memory.wf s.mem = true) :
    (s.mem.num key 4 % 16 ≠ 2 → s.takeBlocks a key va n = (s, .error (.objKind, va))) ∧
    (s.mem.num key 4 % 16 = 2 → ∀ f, s.objCheck a key va = .error f → s.takeBlocks a key va n = (s, .error (f, va))) ∧
    (s.mem.num key 4 % 16 = 2 → s.objCheck a key va = .ok () →
      let t := s.applyAll (s.mem.num (key + 8) 4) key va
      let W (j : Nat) : Nat := t.mem.num (key + 16 + 8 * j) 8
      (W 2 < n → s.takeBlocks a key va n = (t, .ok none)) ∧
      (n ≤ W 2 → ∀ f : Nat → Nat, (∀ i < n, sideAt t (t.mem.num (key + 48) 4 / 2 ^ 7 % 2 ^ 6) f ((W 0 + 4 * (W 2 - 1 - i)) % 2 ^ 64) 4 needR) →
        ∃ u, s.takeBlocks a key va n = (u, .ok (some ((List.range n).map fun i => numAt t.mem f ((W 0 + 4 * (W 2 - 1 - i)) % 2 ^ 64) 4))) ∧
          u.mem.num (key + 32) 8 = W 2 - n ∧ ∀ x, ¬ (key + 32 ≤ x ∧ x < key + 40) → u.mem.get x = t.mem.get x)) := by
  refine ⟨takeBlocks_kind, fun h f hf => takeBlocks_refused h hf, fun h hc => ?_⟩
  · intro t W
    refine ⟨takeBlocks_short h hc, fun hn f hs => ⟨_, takeBlocks_takes h hc rfl hn hs, ?_, fun x hx => ?_⟩⟩
    all_goals have wt : Memory.wf t.mem = true := (drift_applyAll key va _ s).wf w
    · have hlt := Mem.num_lt t.mem (key + 16 + 8 * 2) 8
      rw [writeNum_mem, Mem.num_setNum wt]
      exact Nat.mod_eq_of_lt (by omega)
    · rw [writeNum_mem, Mem.setNum, Mem.get_setBytes_other wt (by rw [length_bytesOfWord]; omega)]

end Takes

end Sys2Proof.Machine
end

section
/-! # KVGATHER (R104) -/

namespace Sys2Proof.Machine

open Sys2Proof.Claims Sys2Proof.Safety

variable {s t u : State} {c : Cmd}

/-- The bytes of a number that has been read are those that were read. -/
theorem bytesOfWord_wordOfBytes (bs : List Byte) : bytesOfWord bs.length (wordOfBytes bs) = bs := by
  induction bs with
  | nil => rfl
  | cons b bs ih =>
    have hb : (b.toNat + 256 * wordOfBytes bs) / 256 = wordOfBytes bs := by
      have := b.isLt
      omega
    rw [List.length_cons, bytesOfWord, wordOfBytes, hb, ih]
    congr 1
    apply BitVec.eq_of_toNat_eq
    rw [BitVec.toNat_ofNat]
    have := b.isLt
    omega

theorem engRead_at (u : State) (c : Cmd) (p a n : Nat) : u.engRead { c with pos := p } a n = u.engRead c a n := rfl

/-- A read by an engine of bytes that stand at keys. -/
theorem engRead_ok {a n : Nat} {ks : List Nat} (h : a + n ≤ 2 ^ 56) (hk : u.rangeKeys c.gid.cluster c.slot a n needR = .ok ks) :
    u.engRead c a n = .ok (wordOfBytes (u.mem.getAll ks)) := by
  unfold State.engRead State.readV
  rw [if_neg (by omega), hk]

/-- A row's bytes, written as they have been read. -/
theorem zip_copied (m : Mem) (a b : Nat → Nat) (n : Nat) :
    ((List.range n).map b).zip (bytesOfWord n (wordOfBytes (m.getAll ((List.range n).map a)))) = (List.range n).map fun i => (b i, m.get (a i)) := by
  have hl : (m.getAll ((List.range n).map a)).length = n := by simp [Mem.getAll]
  have := bytesOfWord_wordOfBytes (m.getAll ((List.range n).map a))
  rw [hl] at this
  rw [this, zip_getAll]

/-! ### A state in which rows have been gathered -/

/-- The rows' bytes are written, and the KVTB of the cluster holds more of the sequence's table. -/
structure Gathered (s u : State) (c : Cmd) (sd : Nat) (b : Nat → Nat) (key : Nat → Nat) (m : Nat) (v : Nat → Byte) : Prop where
  clusters : u.clusters.length = s.clusters.length
  queue : ∀ e, (u.cl c.gid.cluster).queue e = (s.cl c.gid.cluster).queue e
  kvtb : ∀ x ∈ (u.cl c.gid.cluster).kvtb, x.1 = c.slot → x.2.1 = sd → x.2.2.2 = b x.2.2.1
  watched : Watched s u
  wf : Memory.wf u.mem = true
  filled : Filled s u key m v
  ctxs : u.ctxs = s.ctxs
  teams : u.teams = s.teams
  tlbs : u.tlbs = s.tlbs

section Gathering

variable {sd : Nat} {b key : Nat → Nat} {m r total : Nat} {v : Nat → Byte}

theorem Gathered.undisturbed (h : Gathered s u c sd b key m v) (hm : m ≤ total) : Undisturbed s u fun x => ∃ o < total, x = key o :=
  ⟨h.ctxs, h.teams, h.tlbs, fun x hx => h.filled.2 x fun o ho e => hx ⟨o, by omega, e⟩⟩

theorem Gathered.write (h : Gathered s u c sd b key m v) (hd : distinct key total) (hm : m + r ≤ total) :
    Gathered s (u.write ((List.range r).map fun i => (key (m + i), v (m + i)))) c sd b key (m + r) v :=
  ⟨h.clusters, h.queue, h.kvtb, h.watched.trans (drift_write _ _).watched, State.wf_write _ _ h.wf, h.filled.step h.wf hd hm, h.ctxs, h.teams, h.tlbs⟩

theorem cl_setCl {k : Nat} (hl : k < u.clusters.length) (x : Cluster) : (u.setCl k x).cl k = x := by
  unfold State.setCl State.cl
  dsimp only
  rw [List.getD_eq_getElem?_getD, List.getElem?_set_self hl, Option.getD_some]

theorem Gathered.setKvtb (h : Gathered s u c sd b key m v) (hl : c.gid.cluster < s.clusters.length) {q : List (Nat × Nat × Nat × Nat)}
    (hq : ∀ x ∈ q, x.1 = c.slot → x.2.1 = sd → x.2.2.2 = b x.2.2.1) :
    Gathered s (u.setCl c.gid.cluster { u.cl c.gid.cluster with kvtb := q }) c sd b key m v := by
  have hcl := cl_setCl (u := u) (k := c.gid.cluster) (by rw [h.clusters]; exact hl) { u.cl c.gid.cluster with kvtb := q }
  refine ⟨by rw [State.setCl_clusters, List.length_set, h.clusters], fun e => ?_, ?_, h.watched.trans (.of_groups rfl), h.wf, h.filled, h.ctxs, h.teams, h.tlbs⟩
  · rw [hcl, ← h.queue e]
    cases e <;> rfl
  · rw [hcl]
    exact hq

theorem Gathered.note (h : Gathered s u c sd b key m v) (hl : c.gid.cluster < s.clusters.length) (lb : Nat) :
    Gathered s (u.kvNote c.gid.cluster c.slot sd lb (b lb)) c sd b key m v := by
  rw [kvNote_eq]
  refine h.setKvtb hl fun x hx h1 h2 => ?_
  obtain ⟨-, -, hin⟩ := kvtbAfter_keeps (u.cl c.gid.cluster).kvtb c.slot sd lb (b lb)
  rcases hin x hx with rfl | hx
  · rfl
  · exact h.kvtb x hx h1 h2

end Gathering

section Run

variable {rows : KvRows} {sc : Bool} {sd p0 n dst m : Nat} {k : KvDesc} {b sk dk : Nat → Nat}

/-- The block that a gather finds, cached or in the table. -/
theorem Gathered.block {u : State} {key : Nat → Nat} {v : Nat → Byte} (h : Gathered s u c sd b key m v) {lb : Nat}
    (hr : u.engRead c (k.table + 4 * lb) 4 = .ok (b lb)) :
    u.kvBlock c.gid.cluster c.slot sd lb k (u.engRead c) = if b lb = 0xFFFFFFFF then .error (.kvUnmapped, k.table + 4 * lb)
      else if k.nblk ≤ b lb then .error (.kvRange, k.table + 4 * lb) else .ok (u.kvNote c.gid.cluster c.slot sd lb (b lb), b lb) := by
  refine kvBlock_eq u (fun x hx => ?_) fun _ => hr
  have hk := List.find?_some hx
  unfold isKv at hk
  simp only [Bool.and_eq_true, beq_iff_eq] at hk
  obtain ⟨⟨h1, h2⟩, h3⟩ := hk
  rw [h.kvtb x (List.mem_of_find?_eq_some hx) h1 h2, h3]

/-- The address of a gathered row. -/
theorem gathered_row {q j : Nat} (h : k.pool + b (q / 16) * 32 * k.rb + ((if rows = .v ∨ n ≤ j then 16 else 0) + q % 16) * k.rb + k.rb ≤ 2 ^ 56) :
    k.row (b (q / 16)) (q % 16) (rows == .v || decide (n ≤ j)) =
      k.pool + b (q / 16) * 32 * k.rb + ((if rows = .v ∨ n ≤ j then 16 else 0) + q % 16) * k.rb := by
  have hv : (rows == .v || decide (n ≤ j)) = decide (rows = .v ∨ n ≤ j) := by
    rw [Bool.decide_or, beq_eq_decide]
  unfold KvDesc.row
  rw [hv]
  by_cases hc : rows = .v ∨ n ≤ j
  · rw [if_pos hc] at h ⊢
    rw [decide_eq_true hc, if_pos rfl]
    exact Nat.mod_eq_of_lt (by omega)
  · rw [if_neg hc] at h ⊢
    rw [decide_eq_false hc, if_neg Bool.false_ne_true, Nat.zero_add]
    rw [Nat.zero_add] at h
    exact Nat.mod_eq_of_lt (by omega)

/-- One row. -/
theorem gatherFrom_row (hl : c.gid.cluster < s.clusters.length) (R : Claims.Rows s c rows (if sc then .scratch else .shared) sd p0 n dst k b sk dk m)
    (hd : distinct dk (m * k.rb)) {j f : Nat} (hj : j < m) (h : Gathered s u c sd b dk (j * k.rb) fun o => s.mem.get (sk o)) :
    ∃ v, State.gatherFrom (f + 1) u { c with pos := j } c.gid.cluster rows sc sd p0 n dst =
        State.gatherFrom f v { c with pos := j + 1 } c.gid.cluster rows sc sd p0 n dst ∧ Gathered s v c sd b dk ((j + 1) * k.rb) fun o => s.mem.get (sk o) := by
  have hle : j * k.rb + k.rb ≤ m * k.rb := by
    rw [← Nat.succ_mul]
    exact Nat.mul_le_mul_right _ hj
  obtain ⟨hcap, hun, hnblk, hr, hread, -, -⟩ := R.row u (h.undisturbed (by omega)) j hj
  have hnote := h.note hl ((p0 + j % n) / 16)
  obtain ⟨-, -, -, -, -, hsk, hdk⟩ := R.row _ (hnote.undisturbed (by omega)) j hj
  have hdesc : kvDesc (u.engRead { c with pos := j }) sd = .ok k := R.desc u (h.undisturbed (by omega))
  have hblock : u.kvBlock c.gid.cluster c.slot sd ((p0 + j % n) / 16) k (u.engRead { c with pos := j }) =
      .ok (u.kvNote c.gid.cluster c.slot sd ((p0 + j % n) / 16) (b ((p0 + j % n) / 16)), b ((p0 + j % n) / 16)) :=
    (h.block hread).trans ((if_neg hun).trans (if_neg (by omega)))
  generalize u.kvNote c.gid.cluster c.slot sd ((p0 + j % n) / 16) (b ((p0 + j % n) / 16)) = t at hnote hsk hdk hblock
  have hbytes : ∀ i ∈ List.range k.rb, (dk (j * k.rb + i), t.mem.get (sk (j * k.rb + i))) = (dk (j * k.rb + i), s.mem.get (sk (j * k.rb + i))) := fun i hi => by
    rw [hnote.filled.2 _ fun o ho => R.apart _ (by have := List.mem_range.1 hi; omega) _ (by omega)]
  refine ⟨_, ?_, by
    have := hnote.write (r := k.rb) hd hle
    rwa [← Nat.succ_mul] at this⟩
  rw [State.gatherFrom]
  dsimp only
  rw [hdesc]
  dsimp only
  rw [if_neg (Nat.not_le.2 hcap), hblock]
  dsimp only
  rw [gathered_row hr, engRead_at t c j, engRead_ok hr hsk, engKeys_at t c j, hdk]
  dsimp only
  rw [zip_copied, List.map_congr_left hbytes]

theorem gatherFrom_rows (hl : c.gid.cluster < s.clusters.length) (R : Claims.Rows s c rows (if sc then .scratch else .shared) sd p0 n dst k b sk dk m)
    (hd : distinct dk (m * k.rb)) (rest : Nat) : ∀ (f j : Nat) (u : State), j + f = m → Gathered s u c sd b dk (j * k.rb) (fun o => s.mem.get (sk o)) →
      ∃ v, State.gatherFrom (f + rest) u { c with pos := j } c.gid.cluster rows sc sd p0 n dst =
        State.gatherFrom rest v { c with pos := m } c.gid.cluster rows sc sd p0 n dst ∧ Gathered s v c sd b dk (m * k.rb) fun o => s.mem.get (sk o)
  | 0, j, u, hj, h => by
    rw [Nat.add_zero] at hj
    subst hj
    exact ⟨u, by rw [Nat.zero_add], h⟩
  | f + 1, j, u, hj, h => by
    obtain ⟨v, e, hv⟩ := gatherFrom_row (f := f + rest) hl R hd (show j < m by omega) h
    obtain ⟨w, e', hw⟩ := gatherFrom_rows hl R hd rest f (j + 1) v (by omega) hv
    exact ⟨w, by rw [Nat.add_right_comm, e, e'], hw⟩

/-- A position that has no block. -/
theorem gatherFrom_stops (R : Claims.Rows s c rows (if sc then .scratch else .shared) sd p0 n dst k b sk dk m) {rest : Nat}
    (h : Gathered s u c sd b dk (m * k.rb) fun o => s.mem.get (sk o)) {f : FCode} {a : Nat} (hf : k.cap ≤ (p0 + m % n) / 16 ∧ f = .kvRange ∧ a = sd ∨
      (p0 + m % n) / 16 < k.cap ∧ u.engRead c (k.table + 4 * ((p0 + m % n) / 16)) 4 = .ok (b ((p0 + m % n) / 16)) ∧ a = k.table + 4 * ((p0 + m % n) / 16) ∧
        (b ((p0 + m % n) / 16) = 0xFFFFFFFF ∧ f = .kvUnmapped ∨ b ((p0 + m % n) / 16) ≠ 0xFFFFFFFF ∧ k.nblk ≤ b ((p0 + m % n) / 16) ∧ f = .kvRange)) :
    State.gatherFrom (rest + 1) u { c with pos := m } c.gid.cluster rows sc sd p0 n dst = (u, { c with pos := m }, .fault f a) := by
  have hdesc : kvDesc (u.engRead { c with pos := m }) sd = .ok k := R.desc u (h.undisturbed (le_refl _))
  rw [State.gatherFrom]
  dsimp only
  rw [hdesc]
  dsimp only
  obtain ⟨hcap, rfl, rfl⟩ | ⟨hcap, hread, rfl, hb⟩ := hf
  · rw [if_pos hcap]
  · have hblock := h.block (k := k) hread
    rw [if_neg (Nat.not_le.2 hcap)]
    obtain ⟨hun, rfl⟩ | ⟨hun, hn, rfl⟩ := hb
    · rw [if_pos hun] at hblock
      rw [show u.kvBlock c.gid.cluster c.slot sd ((p0 + m % n) / 16) k (u.engRead { c with pos := m }) = _ from hblock]
    · rw [if_neg hun, if_pos hn] at hblock
      rw [show u.kvBlock c.gid.cluster c.slot sd ((p0 + m % n) / 16) k (u.engRead { c with pos := m }) = _ from hblock]

end Run

end Sys2Proof.Machine
end

section
/-! ### KVGATHER's event -/

namespace Sys2Proof.Machine

open Sys2Proof.Claims Sys2Proof.Safety

variable {s t u v : State} {c c' : Cmd} {cl : Nat} {kind : CmdKind}

/-- The event of a command of the gather engine. -/
theorem gathering_event (h : Gathering s cl c kind) : exec (.engineOperation cl .gather c.id) s =
    .next (((s.runGather cl c).1.settleCmd cl .gather (s.runGather cl c).2.1 (s.runGather cl c).2.2).report .event) :=
  engineOperation_event (eng := .gather) h.there h.ready h.unsent

theorem gathering_start (h : Gathering s cl c kind) : ({ c with pos := 0 } : Cmd) = c := by
  obtain ⟨hp, -, -⟩ := h.start
  rw [← hp]

/-- A fault that ends a command fails its batch. -/
theorem failsBatch_endCmd {f : FCode} {a : Nat} {e : EngineKind} (hw : Watched s v) (hid : c'.id = c.id) (hgid : c'.gid = c.gid) (htag : c'.tag = c.tag) :
    FailsBatch s ((v.endCmd cl e c' (some { code := f, addr := a })).report .event) c f a fun g gt => gt.regs = g.regs := by
  intro gi g ho hg
  have ho' : s.groups.findIdx? (ownedBy c') = some gi := by
    unfold ownedBy
    rw [hgid, htag]
    exact ho
  obtain ⟨ps, hps⟩ := endCmd_owner (cl := cl) (e := e) (r := some { code := f, addr := a }) hw ho' hg
  refine ⟨_, hps, fun h => ?_, finishCmd_regs _ _ _, fun hin hno => finishCmd_fails (by rw [hid]; exact hin) hno⟩
  rw [finishCmd_left, hid] at h
  simpa using (List.mem_filter.1 h).2

theorem runGather_kvgather {rows : KvRows} {sc : Bool} {sd p0 n dst : Nat} (hk : c.kind = .kvgather rows sc sd p0 n dst) (hp : c.pos = 0) :
    s.runGather cl c = State.gatherFrom (if rows = .kv then 2 * n else n) s c cl rows sc sd p0 n dst := by
  unfold State.runGather
  rw [hk, hp]
  rfl

/-- KVGATHER: all rows, or those before the first that has no block. -/
theorem kvgather_gathers {rows : KvRows} {sc : Bool} {sd p0 n dst m : Nat} {k : KvDesc} {b sk dk : Nat → Nat}
    (h : Gathering s c.gid.cluster c (.kvgather rows sc sd p0 n dst)) (R : Claims.Rows s c rows (if sc then .scratch else .shared) sd p0 n dst k b sk dk m)
    (hd : distinct dk (m * k.rb)) :
    (m = (if rows = .kv then 2 * n else n) → ∃ t, Ended s t (.engineOperation c.gid.cluster .gather c.id) c.gid.cluster .gather c ∧
      RowsCopied s t sk dk (m * k.rb) ∧ t.groups.map (·.regs) = s.groups.map (·.regs)) ∧
    (m < (if rows = .kv then 2 * n else n) → ∀ f a, (k.cap ≤ (p0 + m % n) / 16 ∧ f = .kvRange ∧ a = sd ∨
        (p0 + m % n) / 16 < k.cap ∧ (∀ u, Undisturbed s u (fun x => ∃ o < m * k.rb, x = dk o) →
          u.engRead c (k.table + 4 * ((p0 + m % n) / 16)) 4 = .ok (b ((p0 + m % n) / 16))) ∧ a = k.table + 4 * ((p0 + m % n) / 16) ∧
          (b ((p0 + m % n) / 16) = 0xFFFFFFFF ∧ f = .kvUnmapped ∨ b ((p0 + m % n) / 16) ≠ 0xFFFFFFFF ∧ k.nblk ≤ b ((p0 + m % n) / 16) ∧ f = .kvRange)) →
      ∃ t, Ended s t (.engineOperation c.gid.cluster .gather c.id) c.gid.cluster .gather c ∧ RowsCopied s t sk dk (m * k.rb) ∧
        FailsBatch s t c f a fun g gt => gt.regs = g.regs) := by
  obtain ⟨hp, -, -⟩ := h.start
  have hrun := runGather_kvgather (s := s) (cl := c.gid.cluster) h.kind hp
  have hev := gathering_event h
  have h0 : Gathered s s c sd b dk (0 * k.rb) fun o => s.mem.get (sk o) :=
    ⟨rfl, fun _ => rfl, R.cached, .of_groups rfl, h.mem, by rw [Nat.zero_mul]; exact .refl s dk _, rfl, rfl, rfl⟩
  have hrows := fun rest => gatherFrom_rows h.cluster R hd rest m 0 s (Nat.zero_add m) h0
  rw [gathering_start h] at hrows
  refine ⟨fun hm => ?_, fun hm f a hf => ?_⟩
  · obtain ⟨v, e, hv⟩ := hrows 0
    rw [Nat.add_zero, hm] at e
    rw [hrun, e] at hev
    refine ⟨_, ended_endCmd (v := v) (c' := { c with pos := m }) (r := none) (by rw [hv.clusters]; exact h.cluster) (hv.queue _) rfl (hm ▸ hev), ?_, endCmd_regs.trans hv.watched.regs⟩
    unfold RowsCopied
    rw [State.report_mem, endCmd_mem]
    exact hv.filled
  · obtain ⟨v, e, hv⟩ := hrows ((if rows = .kv then 2 * n else n) - m)
    obtain ⟨rest, hrest⟩ := Nat.exists_eq_add_of_lt (Nat.sub_pos_of_lt hm)
    rw [Nat.zero_add] at hrest
    have hstop := gatherFrom_stops (rest := rest) R hv (f := f) (a := a) (hf.imp id fun ⟨h1, h2, h3⟩ => ⟨h1, h2 v (hv.undisturbed (le_refl _)), h3⟩)
    rw [Nat.add_sub_cancel' (le_of_lt hm), hrest, hstop] at e
    have hcode : f ≠ .pageAbsent ∧ f.cls ≠ .freeze := by
      obtain ⟨-, rfl, -⟩ | ⟨-, -, -, ⟨-, rfl⟩ | ⟨-, -, rfl⟩⟩ := hf <;> exact ⟨FCode.noConfusion, FClass.noConfusion⟩
    have hkind : ({ c with pos := m } : Cmd).kind = .kvgather rows sc sd p0 n dst := h.kind
    have hres : v.failResult { c with pos := m } a = v := by
      unfold State.failResult
      rw [hkind]
    have hstream : v.failStream { c with pos := m } f a = v := by
      unfold State.failStream
      rw [hkind]
    rw [hrun, e] at hev
    dsimp only at hev
    rw [settleCmd_fails hcode.1 hcode.2, hres, hstream] at hev
    refine ⟨_, ended_endCmd (v := v) (c' := { c with pos := m }) (by rw [hv.clusters]; exact h.cluster) (hv.queue _) rfl hev, ?_, failsBatch_endCmd hv.watched rfl rfl rfl⟩
    unfold RowsCopied
    rw [State.report_mem, endCmd_mem]
    exact hv.filled

end Sys2Proof.Machine
end

section
/-! # KVAPPEND (R105) -/

namespace Sys2Proof.Machine

open Sys2Proof.Claims Sys2Proof.Safety

variable {s t u v w : State} {c c' : Cmd} {cl p q : Nat} {l : List (Nat × Nat × Nat)}

/-! ### A command as it goes on -/

/-- A command at a position, with a block that it holds and writes that it has still to make. -/
def Cmd.upto (c : Cmd) (p q : Nat) (l : List (Nat × Nat × Nat)) : Cmd := { c with pos := p, sub := q, todo := l }

theorem engRead_upto : u.engRead (c.upto p q l) = u.engRead c := rfl

theorem engWrite_upto (a n x : Nat) : u.engWrite (c.upto p q l) a n x = u.engWrite c a n x := rfl

theorem gathering_upto {kind : CmdKind} (h : Gathering s cl c kind) : c.upto 0 0 [] = c := by
  obtain ⟨hp, hq, hl⟩ := h.start
  cases c
  cases hp
  cases hq
  cases hl
  rfl

/-! ### Writes in order -/

theorem runTodo_done : ∀ {ws : List (Nat × Nat)} {u w : State}, writes4 c ws u = (w, none) →
    State.runTodo (ws.map fun x => (x.1, 4, x.2)) u (c.upto p q l) = (w, c.upto p q [], .fin)
  | [], u, w, h => by
    cases h
    rfl
  | x :: ws, u, w, h => by
    obtain ⟨a, y⟩ := x
    rw [writes4] at h
    rw [List.map_cons, State.runTodo, engWrite_upto]
    cases hw : u.engWrite c a 4 y with
    | error e => rw [hw] at h; cases h
    | ok t =>
      rw [hw] at h
      exact runTodo_done h

theorem runTodo_faults {e : FCode × Nat} : ∀ {ws : List (Nat × Nat)} {u w : State}, writes4 c ws u = (w, some e) →
    ∃ td, State.runTodo (ws.map fun x => (x.1, 4, x.2)) u (c.upto p q l) = (w, c.upto p q td, .fault e.1 e.2)
  | [], u, w, h => by cases h
  | x :: ws, u, w, h => by
    obtain ⟨a, y⟩ := x
    rw [writes4] at h
    rw [List.map_cons, State.runTodo, engWrite_upto]
    cases hw : u.engWrite c a 4 y with
    | error e' =>
      rw [hw] at h
      cases h
      exact ⟨_, rfl⟩
    | ok t =>
      rw [hw] at h
      exact runTodo_faults h

/-! ### One entry -/

section Entry

variable {list j x : Nat} {k : KvDesc}

/-- What the next entry makes of the run of an append: it goes on, ends for a reason, or is stopped by a fault. -/
def AppendStep (f : Nat) (u : State) (c : Cmd) (list j : Nat) (r : State × Part) : Prop :=
  match r.2 with
  | .done => State.appendFrom (f + 1) u (c.upto j 0 []) list = State.appendFrom f r.1 (c.upto (j + 1) 0 []) list
  | .stops why _ => State.appendFrom (f + 1) u (c.upto j 0 []) list = (r.1, c.upto j 0 [], .fin, why)
  | .faults e _ => ∃ td, State.appendFrom (f + 1) u (c.upto j 0 []) list = (r.1, c.upto j 0 td, .fault e.1 e.2, 4)

/-- The entry cannot be read or decided. -/
theorem appendStep_error {f : Nat} {e : FCode × Nat} (h : u.appendEntry (c.upto j 0 []) list = .error e) : AppendStep f u c list j (u, .faults e 0) := by
  refine ⟨[], ?_⟩
  rw [State.appendFrom]
  dsimp only
  refine (if_pos rfl).trans ?_
  rw [h]

theorem appendStep_stops {f why tk : Nat} (h : u.appendEntry (c.upto j 0 []) list = .ok (t, .error (.stop why tk))) : AppendStep f u c list j (t, .stops why 0) := by
  show State.appendFrom (f + 1) u (c.upto j 0 []) list = _
  rw [State.appendFrom]
  dsimp only
  refine (if_pos rfl).trans ?_
  rw [h]

theorem appendStep_faults {f : Nat} {e : FCode × Nat} (h : u.appendEntry (c.upto j 0 []) list = .ok (t, .error (.fault e.1 e.2))) :
    AppendStep f u c list j (t, .faults e 0) := by
  refine ⟨[], ?_⟩
  rw [State.appendFrom]
  dsimp only
  refine (if_pos rfl).trans ?_
  rw [h]

/-- The entry's writes are made, up to the first that cannot be. -/
theorem appendStep_writes {f : Nat} {ws : List (Nat × Nat)} (h : u.appendEntry (c.upto j 0 []) list = .ok (t, .ok (ws.map fun x => (x.1, 4, x.2)))) :
    AppendStep f u c list j (match writes4 c ws t with
      | (v, none) => (v, .done)
      | (v, some e) => (v, .faults e 0)) := by
  rcases hw : writes4 c ws t with ⟨v, _ | e⟩
  · show State.appendFrom (f + 1) u (c.upto j 0 []) list = _
    rw [State.appendFrom]
    dsimp only
    refine (if_pos rfl).trans ?_
    rw [h]
    dsimp only
    rw [runTodo_done hw]
    rfl
  · obtain ⟨td, htd⟩ := runTodo_faults (p := j) (q := 0) (l := []) hw
    refine ⟨td, ?_⟩
    rw [State.appendFrom]
    dsimp only
    refine (if_pos rfl).trans ?_
    rw [h]
    dsimp only
    rw [htd]

theorem takeFrom_unaligned {freel n : Nat} {f : FCode} (h : u.syncKey c.gid.cluster c.slot freel 64 64 = .error f) : takeFrom u c freel n = (u, .error (f, freel)) := by
  unfold takeFrom
  rw [h]

theorem takeFrom_poisoned {freel n key : Nat} (h : u.syncKey c.gid.cluster c.slot freel 64 64 = .ok key) (hp : u.poisoned key = true) :
    takeFrom u c freel n = (u, .error (.eccUncorrected, freel)) := by
  unfold takeFrom
  rw [h]
  exact if_pos hp

theorem takeFrom_takes {freel n key : Nat} (h : u.syncKey c.gid.cluster c.slot freel 64 64 = .ok key) (hp : ¬ u.poisoned key = true) :
    takeFrom u c freel n = u.takeBlocks c.asker key freel n := by
  unfold takeFrom
  rw [h]
  exact if_neg hp

/-- What the engine decides of an entry of `a` tokens for the sequence at `sd` (R105): as `State.appendEntry` does, once the entry `x` and the descriptor `k` have been read. -/
def State.decideEntry (u : State) (c : Cmd) (x sd a : Nat) (k : KvDesc) : Except (FCode × Nat) (State × Except KvEnd (List (Nat × Nat × Nat))) :=
  if 1024 < a ∨ x / 2 ^ 96 ≠ 0 then .ok (u, .error (.stop 3 0))
  else if k.cap < blocksFor (k.len + a) then .ok (u, .error (.stop 2 0))
  else if blocksFor (k.len + a) ≤ blocksFor k.len then .ok (u, .ok [(sd + 16, 4, k.len + a)])
  else match u.syncKey c.gid.cluster c.slot k.freel 64 64 with
    | .error f => .error (f, k.freel)
    | .ok key =>
      if u.poisoned key then .error (.eccUncorrected, k.freel)
      else match u.takeBlocks c.asker key k.freel (blocksFor (k.len + a) - blocksFor k.len) with
        | (t, .error e) => .ok (t, .error (.fault e.1 e.2))
        | (t, .ok none) => .ok (t, .error (.stop 1 0))
        | (t, .ok (some bs)) => .ok (t, .ok ((bs.zipIdx.map fun p => (k.table + 4 * (blocksFor k.len + p.2), 4, p.1)) ++
          (bs.map fun b => (k.refc + 4 * b, 4, 1)) ++ [(sd + 16, 4, k.len + a)]))

/-- The writes of an entry, in the engine's form. -/
theorem entry_writes (old table refc sd len : Nat) (bs : List Nat) :
    List.map (fun x : Nat × Nat => (x.1, 4, x.2)) ((bs.zipIdx.map fun b : Nat × Nat => (table + 4 * (old + b.2), b.1)) ++ (bs.map fun b => (refc + 4 * b, 1)) ++ [(sd + 16, len)]) =
      (bs.zipIdx.map fun p => (table + 4 * (old + p.2), 4, p.1)) ++ (bs.map fun b => (refc + 4 * b, 4, 1)) ++ [(sd + 16, 4, len)] := by
  simp only [List.map_append, List.map_map, List.map_cons, List.map_nil, Function.comp_def]

/-- The first 64 bits of an entry. -/
theorem ebits_low (y : Nat) : ebits y 63 0 = y % 2 ^ 64 := by
  rw [ebits, Nat.pow_zero, Nat.div_one]

/-- An entry whose descriptor cannot be read. -/
theorem appendEntry_error {e : FCode × Nat} (hx : u.engRead c (list + 16 * j) 16 = .ok x) (hk : kvDesc (u.engRead c) (x % 2 ^ 64) = .error e) :
    u.appendEntry (c.upto j 0 []) list = .error e := by
  unfold State.appendEntry
  rw [engRead_upto, show (c.upto j 0 []).pos = j from rfl, hx]
  dsimp only
  rw [ebits_low, hk]

theorem appendEntry_decides (hx : u.engRead c (list + 16 * j) 16 = .ok x) (hk : kvDesc (u.engRead c) (x % 2 ^ 64) = .ok k) :
    u.appendEntry (c.upto j 0 []) list = u.decideEntry c x (x % 2 ^ 64) (x / 2 ^ 64 % 2 ^ 32) k := by
  unfold State.appendEntry
  rw [engRead_upto, show (c.upto j 0 []).pos = j from rfl, hx]
  dsimp only
  rw [ebits_low, hk]
  rfl

/-- The engine serves an entry as R105 writes it. -/
theorem appendStep_appendOne (f : Nat) (u : State) (c : Cmd) (list j : Nat) : AppendStep f u c list j (appendOne u c (list + 16 * j)) := by
  unfold appendOne
  cases hx : u.engRead c (list + 16 * j) 16 with
  | error e =>
    refine appendStep_error ?_
    unfold State.appendEntry
    rw [engRead_upto, show (c.upto j 0 []).pos = j from rfl, hx]
  | ok x =>
    dsimp only
    cases hk : kvDesc (u.engRead c) (x % 2 ^ 64) with
    | error e => exact appendStep_error (appendEntry_error hx hk)
    | ok k =>
      dsimp only
      have entry := appendEntry_decides (j := j) hx hk
      unfold State.decideEntry blocksFor at entry
      generalize x / 2 ^ 64 % 2 ^ 32 = n at entry ⊢
      by_cases hbad : 1024 < n ∨ x / 2 ^ 96 ≠ 0
      · rw [if_pos hbad] at entry ⊢
        exact appendStep_stops entry
      rw [if_neg hbad] at entry ⊢
      by_cases hcap : k.cap < (k.len + n + 15) / 16
      · rw [if_pos hcap] at entry ⊢
        exact appendStep_stops entry
      rw [if_neg hcap] at entry ⊢
      by_cases hnew : (k.len + n + 15) / 16 ≤ (k.len + 15) / 16
      · rw [if_pos hnew] at entry ⊢
        exact appendStep_writes (ws := [(x % 2 ^ 64 + 16, k.len + n)]) entry
      rw [if_neg hnew] at entry ⊢
      cases hs : u.syncKey c.gid.cluster c.slot k.freel 64 64 with
      | error e =>
        rw [hs] at entry
        rw [takeFrom_unaligned hs]
        exact appendStep_error entry
      | ok key =>
        rw [hs] at entry
        dsimp only at entry
        by_cases hp : u.poisoned key = true
        · rw [if_pos hp] at entry
          rw [takeFrom_poisoned hs hp]
          exact appendStep_error entry
        · rw [if_neg hp] at entry
          rw [takeFrom_takes hs hp]
          rcases ht : u.takeBlocks c.asker key k.freel ((k.len + n + 15) / 16 - (k.len + 15) / 16) with ⟨t, e | _ | bs⟩
          all_goals rw [ht] at entry
          · exact appendStep_faults entry
          · exact appendStep_stops entry
          · exact appendStep_writes (entry.trans (congrArg (fun ws => Except.ok (t, Except.ok ws)) (entry_writes _ _ _ _ _ bs).symm))

end Entry

end Sys2Proof.Machine
end

section
/-! ### How a KVAPPEND or KVSHARE ends (R105, R106) -/

namespace Sys2Proof.Machine

open Sys2Proof.Claims Sys2Proof.Safety

variable {s t u v w : State} {c c' : Cmd} {cl : Nat}

/-! #### What a run writes -/

theorem Drift.ofFst {α : Type} {r : State × α} {x : α} (h : Drift s r.1) (e : r = (t, x)) : Drift s t := by
  rw [e] at h
  exact h

theorem drift_writes4 : ∀ (ws : List (Nat × Nat)) (u : State), Drift u (writes4 c ws u).1
  | [], u => .refl u
  | (a, x) :: ws, u => by
    rw [writes4]
    cases h : u.engWrite c a 4 x with
    | error e => exact .refl u
    | ok t => exact (drift_engWrite h).trans (drift_writes4 ws t)

theorem drift_takeFrom (u : State) (c : Cmd) (freel n : Nat) : Drift u (takeFrom u c freel n).1 := by
  cases hs : u.syncKey c.gid.cluster c.slot freel 64 64 with
  | error e =>
    rw [takeFrom_unaligned hs]
    exact .refl u
  | ok key =>
    by_cases hp : u.poisoned key = true
    · rw [takeFrom_poisoned hs hp]
      exact .refl u
    · rw [takeFrom_takes hs hp]
      exact drift_takeBlocks u c.asker key freel n

theorem drift_put (ws : List (Nat × Nat)) (u : State) : Drift u (match writes4 c ws u with
    | (v, none) => (v, Part.done)
    | (v, some e) => (v, Part.faults e 0)).1 := by
  have h := drift_writes4 (c := c) ws u
  rcases hw : writes4 c ws u with ⟨v, _ | e⟩ <;> exact h.ofFst hw

theorem drift_appendOne (u : State) (c : Cmd) (a : Nat) : Drift u (appendOne u c a).1 := by
  unfold appendOne
  split
  · exact .refl u
  · dsimp only
    split
    · exact .refl u
    · split
      · exact .refl u
      split
      · exact .refl u
      split
      · exact drift_put _ u
      · next k _ _ _ _ =>
        have h := drift_takeFrom u c k.freel
        split
        · next heq => exact (h _).ofFst heq
        · next heq => exact (h _).ofFst heq
        · next heq => exact ((h _).ofFst heq).trans (drift_put _ _)

theorem drift_appended (s : State) (c : Cmd) (list : Nat) : ∀ j, Drift s (appended s c list j)
  | 0 => .refl s
  | j + 1 => (drift_appended s c list j).trans (drift_appendOne _ c _)

/-! #### The result word and predicate -/

/-- A group with the result of its command `c`. -/
def Group.resulted (g : Group) (c : Cmd) (d px v : Nat) (ok : Bool) : Group :=
  (g.setS d (BitVec.ofNat 32 v)).setPAll px ((g.ops.find? fun o => o.kind == .engine c.id).elim 0 (·.held)) ok

theorem writeResult_eq (u : State) (c : Cmd) (d px v : Nat) (ok : Bool) :
    u.writeResult c d px v ok = u.mapOwner c.gid c.tag c.slot fun g => g.resulted c d px v ok := by
  unfold State.writeResult
  congr 1
  funext g
  unfold Group.resulted
  cases g.ops.find? fun o => o.kind == .engine c.id <;> rfl

theorem writeResult_upto (p q : Nat) (l : List (Nat × Nat × Nat)) (d px v : Nat) (ok : Bool) :
    u.writeResult (c.upto p q l) d px v ok = u.writeResult c d px v ok := rfl

theorem setPAll_frame (g : Group) (p : Nat) (held : Mask) (ok : Bool) : ∃ ps, g.setPAll p held ok = { g with regs := { g.regs with p := ps } } := by
  unfold Group.setPAll Group.setP
  split
  · exact ⟨_, rfl⟩
  · exact ⟨_, rfl⟩

theorem resulted_frame (g : Group) (c : Cmd) (d px v : Nat) (ok : Bool) : ∃ rs, g.resulted c d px v ok = { g with regs := rs } := by
  obtain ⟨ps, h⟩ := setPAll_frame (g.setS d (BitVec.ofNat 32 v)) px ((g.ops.find? fun o => o.kind == .engine c.id).elim 0 (·.held)) ok
  exact ⟨_, h⟩

theorem setPAll_out {g : Group} {p : Nat} (h : g.regs.p.length ≤ p) (held : Mask) (ok : Bool) : g.setPAll p held ok = g := by
  unfold Group.setPAll Group.setP
  split
  · rfl
  · rw [show ∀ f : Mask → Mask, g.regs.p.modify p f = g.regs.p from fun f => List.modify_eq_self h]

theorem mem_writeResult (d px v : Nat) (ok : Bool) : (u.writeResult c d px v ok).mem = u.mem := by
  obtain ⟨gs, cs, h⟩ := mapOwner_frame u c.gid c.tag c.slot fun g => g.resulted c d px v ok
  rw [writeResult_eq, h]

theorem finishCmd_ops {g : Group} {n : Nat} {o : Op} {r : Option FaultInfo} (h : g.ops.find? (fun o => o.kind == .engine n) = some o) :
    (g.finishCmd n r).ops = g.ops.filter fun x => x.id != o.id := by
  unfold Group.finishCmd
  dsimp only
  rw [h]
  dsimp only
  rw [Group.dropOp_frame]

theorem pred_resulted {g : Group} (hs : g.regs.p.length = 64) {p px l : Nat} (held : Mask) (ok : Bool) (hp : p < 64) (hl : l < 32) :
    (g.setPAll px held ok).pred p l = if p ≠ 0 ∧ p = px ∧ held.getLsbD l = true then ok else g.pred p l := by
  by_cases hpx : px < g.regs.p.length
  · rw [setPAll_pred g px held ok hpx p l hl]
    exact if_congr (by tauto) rfl rfl
  · rw [setPAll_out (by omega), if_neg (by omega)]

/-- The group whose command ends with a result. -/
theorem results_finishCmd {g k : Group} {d px v : Nat} {ok : Bool} {r : Option FaultInfo} (hops : k.ops = g.ops) (hregs : k.regs = g.regs) (hid : c'.id = c.id) :
    Results c d px v ok g ((k.resulted c' d px v ok).finishCmd c'.id r) := by
  intro o hg ho hd
  rw [← hops, ← hid] at ho
  have hres : k.resulted c' d px v ok = (k.setS d (BitVec.ofNat 32 v)).setPAll px o.held ok := by
    unfold Group.resulted
    rw [ho]
    rfl
  have hf := finishCmd_regs (k.resulted c' d px v ok) c'.id r
  obtain ⟨qs, hqs⟩ := setPAll_frame (k.setS d (BitVec.ofNat 32 v)) px o.held ok
  have hsregs : ∀ m, ((k.resulted c' d px v ok).finishCmd c'.id r).sreg m = if m = d then BitVec.ofNat 32 v else g.sreg m := fun m => by
    have hks : k.sreg m = g.sreg m := by rw [Group.sreg, hregs, Group.sreg]
    rw [← hks, ← sreg_setS k d (BitVec.ofNat 32 v) (by rw [hregs, hg.s]; exact hd) m, Group.sreg, hf, hres, hqs]
    rfl
  refine ⟨?_, (hsregs d).trans (if_pos rfl), fun m hm => (hsregs m).trans (if_neg hm), ?_, ?_, fun p l hp hl => ?_⟩
  · have hko : (k.resulted c' d px v ok).ops = g.ops := by
      rw [hres, hqs, ← hops]
      rfl
    rw [finishCmd_ops (o := o) (by rw [hko, ← hops, ho]), hko]
  · rw [hf, hres, hqs]
    show k.regs.v = _
    rw [hregs]
  · rw [hf, hres, hqs]
    show k.regs.a = _
    rw [hregs]
  · have hk : (k.setS d (BitVec.ofNat 32 v)).pred p l = g.pred p l := by rw [Group.pred, Group.setS_regs_p, hregs, Group.pred]
    rw [← hk, ← pred_resulted (by rw [Group.setS_regs_p, hregs, hg.p]) o.held ok hp hl, Group.pred, hf, hres, Group.pred]

/-- The groups of a state in which a command has ended with a result. -/
theorem endCmd_resulted {gi : Nat} {g : Group} {e : EngineKind} {d px x : Nat} {ok : Bool} {r : Option FaultInfo} (hw : Watched s v)
    (ho : s.groups.findIdx? (ownedBy c) = some gi) (hg : s.groups[gi]? = some g) :
    ∃ ps, ((v.writeResult c d px x ok).endCmd cl e c r).groups[gi]? = some ((({ g with paths := ps } : Group).resulted c d px x ok).finishCmd c.id r) := by
  obtain ⟨ps, hps⟩ := hw.group hg
  have hv : v.groups.findIdx? (ownedBy c) = some gi := (hw.owner c).trans ho
  have hwr : (v.writeResult c d px x ok).groups[gi]? = some (({ g with paths := ps } : Group).resulted c d px x ok) := by
    rw [writeResult_eq]
    unfold State.mapOwner
    rw [show v.groups.findIdx? (fun g => g.gid == c.gid && g.tag == c.tag) = some gi from hv]
    dsimp only
    rw [State.mapG_groups, List.getElem?_modify_eq, hps]
    rfl
  exact ⟨ps, endCmd_group (((sameAccounts_writeResult v c d px x ok).owner c).trans hv) hwr⟩

section Ends

variable {k : CmdKind} {ev : Instr} {d px x p q : Nat} {l : List (Nat × Nat × Nat)} {ok : Bool}

theorem clusters_writeResult (d px x : Nat) (ok : Bool) : (u.writeResult c d px x ok).clusters = u.clusters :=
  (sameAccounts_writeResult u c d px x ok).clusters

/-- A command ends with its result, and leaves its engine. -/
theorem ended_writeResult {r : Option FaultInfo} (hl : cl < s.clusters.length) (hv : Drift s v)
    (he : exec ev s = .next (((v.writeResult c d px x ok).endCmd cl .gather (c.upto p q l) r).report .event)) :
    Ended s (((v.writeResult c d px x ok).endCmd cl .gather (c.upto p q l) r).report .event) ev cl .gather c := by
  have hc : (v.writeResult c d px x ok).clusters = s.clusters := (clusters_writeResult d px x ok).trans hv.clusters
  refine ended_endCmd (by rw [hc]; exact hl) ?_ rfl he
  unfold State.cl
  rw [hc]

/-- A command ends with its result and no fault. -/
theorem endsWith_writeResult (hl : cl < s.clusters.length) (hv : Drift s v)
    (he : exec ev s = .next (((v.writeResult c d px x ok).endCmd cl .gather (c.upto p q l) none).report .event)) :
    EndsWith s v (((v.writeResult c d px x ok).endCmd cl .gather (c.upto p q l) none).report .event) ev cl c d px x ok := by
  refine ⟨ended_writeResult hl hv he, ?_, fun gi g ho hg => ?_⟩
  · rw [State.report_mem, endCmd_mem, mem_writeResult]
  · obtain ⟨ps, hps⟩ := endCmd_resulted (c := c.upto p q l) (cl := cl) (e := .gather) (d := d) (px := px) (x := x) (ok := ok) (r := none) hv.watched ho hg
    exact ⟨_, hps, results_finishCmd rfl rfl rfl⟩

/-- A command that a fault ends takes its result too, and its batch fails. -/
theorem failsBatch_writeResult {f : FCode} {a : Nat} (hv : Drift s v) :
    FailsBatch s (((v.writeResult c d px x ok).endCmd cl .gather (c.upto p q l) (some { code := f, addr := a })).report .event) c f a (Results c d px x ok) := by
  intro gi g ho hg
  obtain ⟨ps, hps⟩ := endCmd_resulted (c := c.upto p q l) (cl := cl) (e := .gather) (d := d) (px := px) (x := x) (ok := ok)
    (r := some { code := f, addr := a }) hv.watched ho hg
  obtain ⟨rs, hrs⟩ := resulted_frame { g with paths := ps } (c.upto p q l) d px x ok
  refine ⟨_, hps, fun h => ?_, results_finishCmd rfl rfl rfl, fun hin hno => ?_⟩
  · rw [finishCmd_left] at h
    exact bne_iff_ne.1 (List.mem_filter.1 h).2 rfl
  · rw [hrs]
    exact finishCmd_fails hin hno

/-! #### The event of a command of the gather engine -/

variable {k : CmdKind} (h : Gathering s cl c k)
include h

/-- A run that comes to its end, with a result. -/
theorem kv_ends (hv : Drift s v) (hr : s.runGather cl c = (v.writeResult c d px x ok, c.upto p q l, .fin)) :
    ∃ t, EndsWith s v t (.engineOperation cl .gather c.id) cl c d px x ok := by
  have he := gathering_event h
  rw [hr] at he
  exact ⟨_, endsWith_writeResult h.cluster hv he⟩

/-- A run that a fault ends, with a result. -/
theorem kv_fails {f : FCode} {a : Nat} (hf : f ≠ .pageAbsent) (hfz : f.cls ≠ .freeze) (hk : ∀ a b d e f, k ≠ .stream a b d e f) (hw : Drift s w)
    (hr : s.runGather cl c = (v, c.upto p q l, .fault f a)) (hres : v.failResult (c.upto p q l) a = w.writeResult c d px x ok) :
    ∃ t, Ended s t (.engineOperation cl .gather c.id) cl .gather c ∧ t.mem = w.mem ∧ FailsBatch s t c f a (Results c d px x ok) := by
  have he := gathering_event h
  have hs : ∀ y : State, y.failStream (c.upto p q l) f a = y := fun y => by
    unfold State.failStream
    split
    · next heq => exact absurd (h.kind.symm.trans heq) (hk _ _ _ _ _)
    · rfl
  rw [hr] at he
  dsimp only at he
  rw [settleCmd_fails hf hfz, hres, hs] at he
  exact ⟨_, ended_writeResult h.cluster hw he, by rw [State.report_mem, endCmd_mem, mem_writeResult], failsBatch_writeResult hw⟩

omit h in
/-- A command found where a later form of it has been put. -/
theorem find_replaced {l : List Cmd} (hf : l.find? (·.id == c.id) = some c) (hid : c'.id = c.id) :
    (l.map fun x => if x.id = c.id then c' else x).find? (·.id == c.id) = some c' := by
  have hp : (fun x : Cmd => x.id == c.id) ∘ (fun x => if x.id = c.id then c' else x) = fun x => x.id == c.id := funext fun x => by
    rw [Function.comp_apply]
    by_cases hx : x.id = c.id
    · rw [if_pos hx, hid, hx]
    · rw [if_neg hx]
  rw [List.find?_map, hp, hf]
  exact congrArg some (if_pos rfl)

/-- A run that an absent page suspends. -/
theorem kv_suspends {a : Nat} (hv : Drift s v) (hr : s.runGather cl c = (v, c.upto p q l, .fault .pageAbsent a)) :
    ∃ t, exec (.engineOperation cl .gather c.id) s = .next t ∧ t.last = .event ∧
      (t.cl cl).gather.find? (·.id == c.id) = some { c.upto p q l with susp := some (s.clock.toNat, a) } := by
  have he := gathering_event h
  rw [hr] at he
  refine ⟨_, he, rfl, ?_⟩
  have hq := settleCmd_suspends (s := v) (by rw [hv.clusters]; exact h.cluster) .gather (c.upto p q l) a
  rw [hv.queue, hv.clock] at hq
  refine (congrArg (List.find? (·.id == c.id)) hq).trans (find_replaced (c' := { c.upto p q l with susp := some (s.clock.toNat, a) }) h.there rfl)

end Ends

/-! ### KVAPPEND's event -/

section Append

variable {d px list m j : Nat}

/-- The entries that are served one after another. -/
theorem appendFrom_serves (hd : ∀ i < j, (appendOne (appended s c list i) c (list + 16 * i)).2 = .done) (rest : Nat) :
    State.appendFrom (j + rest) s (c.upto 0 0 []) list = State.appendFrom rest (appended s c list j) (c.upto j 0 []) list := by
  induction j generalizing rest with
  | zero => rw [Nat.zero_add, appended]
  | succ j ih =>
    have step := appendStep_appendOne rest (appended s c list j) c list j
    unfold AppendStep at step
    rw [hd j (Nat.lt_succ_self j)] at step
    rw [Nat.add_right_comm, Nat.add_assoc, ih (fun i hi => hd i (by omega)), appended]
    exact step

variable (h : Gathering s cl c (.kvappend d px list m))
include h

theorem runGather_kvappend : s.runGather cl c = s.runAppend (c.upto 0 0 []) d px list m := by
  unfold State.runGather
  rw [h.kind, gathering_upto h]

/-- The run comes to an end, after `j` entries. -/
theorem runAppend_fin {why : Nat} (hj : j ≤ m) (hd : ∀ i < j, (appendOne (appended s c list i) c (list + 16 * i)).2 = .done)
    (hr : State.appendFrom (m - j) (appended s c list j) (c.upto j 0 []) list = (v, c.upto j 0 [], .fin, why)) :
    s.runGather cl c = (v.writeResult c d px (why * 2 ^ 16 + j) (j == m), c.upto j 0 [], .fin) := by
  rw [← appendFrom_serves hd, Nat.add_sub_cancel' hj] at hr
  rw [runGather_kvappend h]
  unfold State.runAppend
  rw [show (c.upto 0 0 []).pos = 0 from rfl, Nat.sub_zero, hr]
  rfl

theorem runAppend_fault {f : FCode} {a : Nat} {td : List (Nat × Nat × Nat)} (hj : j ≤ m)
    (hd : ∀ i < j, (appendOne (appended s c list i) c (list + 16 * i)).2 = .done)
    (hr : State.appendFrom (m - j) (appended s c list j) (c.upto j 0 []) list = (v, c.upto j 0 td, .fault f a, 4)) :
    s.runGather cl c = (v, c.upto j 0 td, .fault f a) := by
  rw [← appendFrom_serves hd, Nat.add_sub_cancel' hj] at hr
  rw [runGather_kvappend h]
  unfold State.runAppend
  rw [show (c.upto 0 0 []).pos = 0 from rfl, Nat.sub_zero, hr]

/-- KVAPPEND: all entries, or those before the first that is not served. -/
theorem kvappend_appends (hj : j ≤ m) (hd : ∀ i < j, (appendOne (appended s c list i) c (list + 16 * i)).2 = .done) :
    (j = m → ∃ t, EndsWith s (appended s c list j) t (.engineOperation cl .gather c.id) cl c d px m true) ∧
    (j < m → ∀ why tk, (appendOne (appended s c list j) c (list + 16 * j)).2 = .stops why tk →
      ∃ t, EndsWith s (appendOne (appended s c list j) c (list + 16 * j)).1 t (.engineOperation cl .gather c.id) cl c d px (why * 2 ^ 16 + j) false) ∧
    (j < m → ∀ f a tk, (appendOne (appended s c list j) c (list + 16 * j)).2 = .faults (f, a) tk → f ≠ .pageAbsent → f.cls ≠ .freeze →
      ∃ t, Ended s t (.engineOperation cl .gather c.id) cl .gather c ∧ t.mem = (appendOne (appended s c list j) c (list + 16 * j)).1.mem ∧
        FailsBatch s t c f a (Results c d px (4 * 2 ^ 16 + j) false)) ∧
    (j < m → ∀ a tk, (appendOne (appended s c list j) c (list + 16 * j)).2 = .faults (.pageAbsent, a) tk →
      ∃ t x, exec (.engineOperation cl .gather c.id) s = .next t ∧ t.last = .event ∧ (t.cl cl).gather.find? (·.id == c.id) = some x ∧
        x.pos = j ∧ x.kind = c.kind ∧ x.susp = some (s.clock.toNat, a)) := by
  have hdrift : Drift s (appended s c list j) := drift_appended s c list j
  have hdrift' : Drift s (appendOne (appended s c list j) c (list + 16 * j)).1 := hdrift.trans (drift_appendOne _ c _)
  have step := appendStep_appendOne (m - j - 1) (appended s c list j) c list j
  unfold AppendStep at step
  refine ⟨fun hm => ?_, fun hm => ?_, fun hm => ?_, fun hm => ?_⟩
  · have hr : State.appendFrom (m - j) (appended s c list j) (c.upto j 0 []) list = (appended s c list j, c.upto j 0 [], .fin, 0) := by
      rw [hm, Nat.sub_self]
      rfl
    have hrun := runAppend_fin h hj hd hr
    exact kv_ends (p := j) (q := 0) (l := []) h hdrift (hrun.trans (by rw [Nat.zero_mul, Nat.zero_add, beq_iff_eq.2 hm, hm]))
  all_goals rw [Nat.sub_add_cancel (by omega)] at step
  · intro why tk hp
    rw [hp] at step
    have hrun := runAppend_fin h hj hd step
    rw [beq_false_of_ne (by omega)] at hrun
    exact kv_ends h hdrift' hrun
  · intro f a tk hp hf hfz
    rw [hp] at step
    obtain ⟨td, step⟩ := step
    exact kv_fails h hf hfz (fun _ _ _ _ _ => CmdKind.noConfusion) hdrift' (runAppend_fault h hj hd step) (by
      unfold State.failResult
      rw [show (c.upto j 0 td).kind = .kvappend d px list m from h.kind]
      rfl)
  · intro a tk hp
    rw [hp] at step
    obtain ⟨td, step⟩ := step
    obtain ⟨t, h1, h2, h3⟩ := kv_suspends h hdrift' (runAppend_fault h hj hd step)
    exact ⟨t, _, h1, h2, h3, rfl, rfl, rfl⟩

end Append

end Sys2Proof.Machine
end

section
/-! # KVSHARE (R106) -/

namespace Sys2Proof.Machine

open Sys2Proof.Claims Sys2Proof.Safety

variable {s t u v w : State} {c : Cmd} {cl m : Nat} {src dst : KvDesc}

/-! ### What a part comes to -/

/-- A part of KVSHARE ends so, in this state, with this many tokens shared. -/
def SharedAt (c : Cmd) (m : Nat) (u : State) (e : KvEnd) (tk : Nat) (x : State × Cmd × KvEnd) : Prop :=
  ∃ p q l, x = (u, c.upto p q l, e) ∧ (c.upto p q l).shared m = tk

/-- The engine's part `x` of a KVSHARE of `m` tokens does what `r` says of it. -/
def ShareRun (c : Cmd) (m : Nat) (r : State × Part) (x : State × Cmd × KvEnd) : Prop :=
  match r.2 with
  | .done => SharedAt c m r.1 .go m x
  | .stops why tk => (why = 1 ∨ why = 5) ∧ SharedAt c m r.1 (.stop why tk) tk x
  | .faults e tk => SharedAt c m r.1 (.fault e.1 e.2) tk x

/-- The tokens shared when `i` full blocks are. -/
theorem shared_upto {i q : Nat} {l : List (Nat × Nat × Nat)} (h : i ≤ m / 16) : (c.upto i q l).shared m = 16 * i :=
  if_neg (Nat.not_lt.2 h)

/-- The tokens shared once the partial block's writes have been decided: all when at most the last is still to make. -/
theorem shared_decided {q : Nat} {l : List (Nat × Nat × Nat)} : (c.upto (m / 16 + 1) q l).shared m = if l.length ≤ 1 then m else 16 * (m / 16) :=
  if_pos (Nat.lt_succ_self _)

/-! ### Full blocks -/

/-- One full block, as `shareFull` shares it. -/
def shareOne (u : State) (c : Cmd) (src dst : KvDesc) (i : Nat) : State × Part :=
  match u.engRead c (src.table + 4 * i) 4 with
  | .error e => (u, .faults e (16 * i))
  | .ok b => match u.engRead c (src.refc + 4 * b) 4 with
    | .error e => (u, .faults e (16 * i))
    | .ok n =>
      if n = 0xFFFFFFFF then (u, .stops 5 (16 * i))
      else match writes4 c [(src.refc + 4 * b, n + 1), (dst.table + 4 * i, b)] u with
        | (v, none) => (v, .done)
        | (v, some e) => (v, .faults e (16 * i))

theorem shareFull_succ_of_done {i : Nat} (h : shareFull s c src dst i = (u, .done)) : shareFull s c src dst (i + 1) = shareOne u c src dst i := by
  rw [shareFull, h]
  rfl

theorem shareFull_succ_of_ends {i : Nat} (h : (shareFull s c src dst i).2 ≠ .done) : shareFull s c src dst (i + 1) = shareFull s c src dst i := by
  rw [shareFull]
  split
  · next heq => exact absurd (congrArg Prod.snd heq) h
  · rfl

theorem drift_shareOne (u : State) (c : Cmd) (src dst : KvDesc) (i : Nat) : Drift u (shareOne u c src dst i).1 := by
  unfold shareOne
  split
  · exact .refl u
  · split
    · exact .refl u
    · split
      · exact .refl u
      · split
        · next heq => exact (drift_writes4 _ u).ofFst heq
        · next heq => exact (drift_writes4 _ u).ofFst heq

theorem drift_shareFull (s : State) (c : Cmd) (src dst : KvDesc) : ∀ i, Drift s (shareFull s c src dst i).1
  | 0 => .refl s
  | i + 1 => by
    by_cases h : (shareFull s c src dst i).2 = .done
    · rw [shareFull_succ_of_done (u := (shareFull s c src dst i).1) (Prod.ext rfl h)]
      exact (drift_shareFull s c src dst i).trans (drift_shareOne _ c src dst i)
    · rw [shareFull_succ_of_ends h]
      exact drift_shareFull s c src dst i

/-- The engine shares a full block as R106 writes it. -/
theorem shareBlocks_step {i f : Nat} (hi : i ≤ m / 16) :
    (∀ v, shareOne u c src dst i = (v, .done) → State.shareBlocks (f + 1) u (c.upto i 0 []) src dst = State.shareBlocks f v (c.upto (i + 1) 0 []) src dst) ∧
    ((shareOne u c src dst i).2 ≠ .done → ShareRun c m (shareOne u c src dst i) (State.shareBlocks (f + 1) u (c.upto i 0 []) src dst)) := by
  have hstep : State.shareBlocks (f + 1) u (c.upto i 0 []) src dst = match u.engRead c (src.table + 4 * i) 4 with
      | .error e => (u, c.upto i 0 [], .fault e.1 e.2)
      | .ok b => match u.countUp c (src.refc + 4 * b) with
        | .error e => (u, c.upto i 0 [], .fault e.1 e.2)
        | .ok none => (u, c.upto i 0 [], .stop 5 (16 * i))
        | .ok (some t) => match t.engWrite c (dst.table + 4 * i) 4 b with
          | .error e => (t, c.upto i (b + 1) [], .fault e.1 e.2)
          | .ok t => State.shareBlocks f t (c.upto (i + 1) 0 []) src dst := by
    rw [State.shareBlocks]
    rfl
  rw [hstep]
  unfold shareOne State.countUp
  cases u.engRead c (src.table + 4 * i) 4 with
  | error e => exact ⟨fun v h => (nomatch h), fun _ => ⟨i, 0, [], rfl, shared_upto hi⟩⟩
  | ok b =>
    dsimp only
    cases u.engRead c (src.refc + 4 * b) 4 with
    | error e => exact ⟨fun v h => (nomatch h), fun _ => ⟨i, 0, [], rfl, shared_upto hi⟩⟩
    | ok n =>
      dsimp only
      by_cases hn : n = 0xFFFFFFFF
      · rw [if_pos hn, if_pos hn]
        exact ⟨fun v h => (nomatch h), fun _ => ⟨.inr rfl, i, 0, [], rfl, shared_upto hi⟩⟩
      rw [if_neg hn, if_neg hn, writes4]
      cases u.engWrite c (src.refc + 4 * b) 4 (n + 1) with
      | error e => exact ⟨fun v h => (nomatch h), fun _ => ⟨i, 0, [], rfl, shared_upto hi⟩⟩
      | ok t =>
        dsimp only
        rw [writes4]
        cases t.engWrite c (dst.table + 4 * i) 4 b with
        | error e => exact ⟨fun v h => (nomatch h), fun _ => ⟨i, b + 1, [], rfl, shared_upto hi⟩⟩
        | ok w => exact ⟨fun v h => by cases h; rfl, fun h => absurd rfl h⟩

/-- The engine shares the first `n` full blocks. -/
theorem shareBlocks_serves : ∀ {n : Nat}, n ≤ m / 16 →
    (∀ v, shareFull s c src dst n = (v, .done) →
      State.shareBlocks (m / 16) s (c.upto 0 0 []) src dst = State.shareBlocks (m / 16 - n) v (c.upto n 0 []) src dst) ∧
    ((shareFull s c src dst n).2 ≠ .done → ShareRun c m (shareFull s c src dst n) (State.shareBlocks (m / 16) s (c.upto 0 0 []) src dst))
  | 0, _ => ⟨fun v h => by cases h; rfl, fun h => absurd rfl h⟩
  | n + 1, hn => by
    obtain ⟨ihd, ihe⟩ := shareBlocks_serves (n := n) (by omega)
    by_cases h : (shareFull s c src dst n).2 = .done
    · have hd : shareFull s c src dst n = ((shareFull s c src dst n).1, .done) := Prod.ext rfl h
      obtain ⟨k, hk⟩ : ∃ k, m / 16 - n = k + 1 := ⟨m / 16 - n - 1, by omega⟩
      obtain ⟨step, stop⟩ := shareBlocks_step (u := (shareFull s c src dst n).1) (c := c) (src := src) (dst := dst) (m := m) (i := n) (f := k) (by omega)
      rw [ihd _ hd, shareFull_succ_of_done hd, hk, show m / 16 - (n + 1) = k by omega]
      exact ⟨step, stop⟩
    · rw [shareFull_succ_of_ends h]
      exact ⟨fun v hv => absurd (congrArg Prod.snd hv) h, ihe⟩

/-! ### The partial block -/

theorem drift_copiesRows (c : Cmd) (n : Nat) : ∀ (l : List (Nat × Nat)) (u : State), Drift u (copiesRows c n l u).1
  | [], u => .refl u
  | (a, b) :: l, u => by
    rw [copiesRows]
    split
    · exact .refl u
    · split
      · next h => exact (drift_engWrite h).trans (drift_copiesRows c n l _)
      · exact .refl u

/-- The step of `State.copyRows`: nothing more is done once a row has faulted. -/
def copyRow (c : Cmd) (src dst : KvDesc) (b nb r : Nat) (acc : State × Option (FCode × Nat)) (i : Nat) : State × Option (FCode × Nat) :=
  match acc with
  | (t, some e) => (t, some e)
  | (t, none) => match t.engRead c (src.row b (i % r) (decide (r ≤ i))) src.rb with
    | .error e => (t, some e)
    | .ok v => match t.engWrite c (dst.row nb (i % r) (decide (r ≤ i))) src.rb v with
      | .ok u => (u, none)
      | .error e => (t, some e)

theorem foldl_copyRow_fault {b nb r : Nat} {e : FCode × Nat} (l : List Nat) (u : State) : l.foldl (copyRow c src dst b nb r) (u, some e) = (u, some e) := by
  induction l with
  | nil => rfl
  | cons i l ih => exact ih

theorem foldl_copyRow {b nb r : Nat} : ∀ (l : List Nat) (u : State), l.foldl (copyRow c src dst b nb r) (u, none) =
    copiesRows c src.rb (l.map fun i => (src.row b (i % r) (decide (r ≤ i)), dst.row nb (i % r) (decide (r ≤ i)))) u
  | [], u => rfl
  | i :: l, u => by
    rw [List.foldl_cons, List.map_cons, copiesRows, copyRow]
    cases u.engRead c (src.row b (i % r) (decide (r ≤ i))) src.rb with
    | error e => exact foldl_copyRow_fault l u
    | ok v =>
      dsimp only
      cases u.engWrite c (dst.row nb (i % r) (decide (r ≤ i))) src.rb v with
      | error e => exact foldl_copyRow_fault l u
      | ok t => exact foldl_copyRow l t

/-- The rows of K, and then those of V. -/
theorem copyRows_eq (u : State) (c : Cmd) (src dst : KvDesc) (b nb r : Nat) : u.copyRows c src dst b nb r =
    copiesRows c src.rb (((List.range r).map fun t => (src.row b t false, dst.row nb t false)) ++ (List.range r).map fun t => (src.row b t true, dst.row nb t true)) u := by
  have hrows : ((List.range (2 * r)).map fun i => (src.row b (i % r) (decide (r ≤ i)), dst.row nb (i % r) (decide (r ≤ i)))) =
      ((List.range r).map fun t => (src.row b t false, dst.row nb t false)) ++ (List.range r).map fun t => (src.row b t true, dst.row nb t true) := by
    rw [Nat.two_mul, List.range_add, List.map_append, List.map_map]
    congr 1
    · refine List.map_congr_left fun i hi => ?_
      have hi := List.mem_range.1 hi
      rw [Nat.mod_eq_of_lt hi, decide_eq_false (by omega)]
    · refine List.map_congr_left fun i hi => ?_
      have hi := List.mem_range.1 hi
      rw [Function.comp_apply, Nat.add_mod_left, Nat.mod_eq_of_lt hi, decide_eq_true (by omega)]
  rw [← hrows, ← foldl_copyRow]
  rfl

end Sys2Proof.Machine
end

section
/-! ### The whole of a KVSHARE (R106) -/

namespace Sys2Proof.Machine

open Sys2Proof.Claims Sys2Proof.Safety

variable {s t u v w : State} {c : Cmd} {cl m : Nat} {src dst : KvDesc}

/-! #### The partial block -/

/-- The rows of the partial block are copied into the fresh block `nb`, and the block's two writes are decided (R106), as `State.sharePartial` does. -/
def shareFill (u : State) (c : Cmd) (src dst : KvDesc) (m nb : Nat) : State × Cmd × KvEnd :=
  match u.engRead c (src.table + 4 * (m / 16)) 4 with
  | .error e => (u, c.upto (m / 16) (nb + 1) [], .fault e.1 e.2)
  | .ok b => match u.copyRows c src dst b nb (m % 16) with
    | (t, some e) => (t, c.upto (m / 16) (nb + 1) [], .fault e.1 e.2)
    | (t, none) => (t, c.upto (m / 16 + 1) 0 [(dst.table + 4 * (m / 16), 4, nb), (dst.refc + 4 * nb, 4, 1)], .go)

/-- A partial block begins with a take. -/
theorem sharePartial_takes (u : State) (c : Cmd) (src dst : KvDesc) (m : Nat) : u.sharePartial (c.upto (m / 16) 0 []) src dst m =
    match takeFrom u c dst.freel 1 with
    | (t, .error e) => (t, c.upto (m / 16) 0 [], .fault e.1 e.2)
    | (t, .ok (some [nb])) => shareFill t c src dst m nb
    | (t, .ok _) => (t, c.upto (m / 16) 0 [], .stop 1 (16 * (m / 16))) := by
  unfold State.sharePartial
  dsimp only
  refine (if_neg (not_not.2 rfl)).trans ?_
  rw [show (c.upto (m / 16) 0 []).gid = c.gid from rfl, show (c.upto (m / 16) 0 []).slot = c.slot from rfl]
  cases hs : u.syncKey c.gid.cluster c.slot dst.freel 64 64 with
  | error e => rw [takeFrom_unaligned hs]
  | ok key =>
    by_cases hp : u.poisoned key = true
    · rw [takeFrom_poisoned hs hp]
      exact if_pos hp
    · rw [takeFrom_takes hs hp]
      refine (if_neg hp).trans ?_
      rw [show (c.upto (m / 16) 0 []).asker = c.asker from rfl]
      rcases u.takeBlocks c.asker key dst.freel 1 with ⟨t, e | _ | _ | ⟨nb, _ | ⟨_, _⟩⟩⟩ <;> rfl

/-- What has been decided is written. -/
def finishTodo (x : State × Cmd × KvEnd) : State × Cmd × KvEnd :=
  match x with
  | (s, c, .go) => match State.runTodo c.todo s c with
    | (s, c, .fin) => (s, c, .go)
    | (s, c, .fault f a) => (s, c, .fault f a)
  | r => r

/-- The partial block as R106 writes it. -/
theorem sharePart_run (u : State) (c : Cmd) (src dst : KvDesc) (m : Nat) :
    ShareRun c m (sharePart u c src dst (m / 16) (m % 16)) (finishTodo (u.sharePartial (c.upto (m / 16) 0 []) src dst m)) := by
  have early : ∀ q, (c.upto (m / 16) q []).shared m = 16 * (m / 16) := fun q => shared_upto (le_refl _)
  have hm16 : 16 * (m / 16) + m % 16 = m := Nat.div_add_mod m 16
  rw [sharePartial_takes]
  unfold sharePart
  rcases takeFrom u c dst.freel 1 with ⟨t, e | _ | _ | ⟨nb, _ | ⟨_, _⟩⟩⟩
  case error => exact ⟨_, _, _, rfl, early 0⟩
  case ok.none => exact ⟨.inl rfl, _, _, _, rfl, early 0⟩
  case ok.some.nil => exact ⟨.inl rfl, _, _, _, rfl, early 0⟩
  case ok.some.cons.cons => exact ⟨.inl rfl, _, _, _, rfl, early 0⟩
  case ok.some.cons.nil =>
    dsimp only
    unfold shareFill
    cases t.engRead c (src.table + 4 * (m / 16)) 4 with
    | error e => exact ⟨_, _, _, rfl, early _⟩
    | ok b =>
      dsimp only
      rw [copyRows_eq]
      rcases copiesRows c src.rb _ t with ⟨w, _ | e⟩
      · dsimp only
        unfold finishTodo
        dsimp only
        rw [writes4, show (c.upto (m / 16 + 1) 0 [(dst.table + 4 * (m / 16), 4, nb), (dst.refc + 4 * nb, 4, 1)]).todo =
          [(dst.table + 4 * (m / 16), 4, nb), (dst.refc + 4 * nb, 4, 1)] from rfl, State.runTodo, engWrite_upto]
        cases w.engWrite c (dst.table + 4 * (m / 16)) 4 nb with
        | error e => exact ⟨_, _, _, rfl, shared_decided⟩
        | ok y =>
          dsimp only
          rw [writes4]
          dsimp only
          rw [writes4, State.runTodo, engWrite_upto]
          cases y.engWrite c (dst.refc + 4 * nb) 4 1 with
          | error e => exact ⟨m / 16 + 1, 0, [(dst.refc + 4 * nb, 4, 1)], rfl, shared_decided.trans hm16.symm⟩
          | ok z => exact ⟨m / 16 + 1, 0, [], rfl, shared_decided⟩
      · exact ⟨_, _, _, rfl, early _⟩

theorem drift_sharePart (u : State) (c : Cmd) (src dst : KvDesc) (f r : Nat) : Drift u (sharePart u c src dst f r).1 := by
  have take := drift_takeFrom u c dst.freel 1
  unfold sharePart
  split
  · next h => exact take.ofFst h
  · next h =>
    refine (take.ofFst h).trans ?_
    split
    · exact .refl _
    · dsimp only
      split
      · next h => exact (drift_copiesRows c src.rb _ _).ofFst h
      · next h =>
        refine ((drift_copiesRows c src.rb _ _).ofFst h).trans ?_
        split
        · next h => exact (drift_writes4 _ _).ofFst h
        · next h =>
          refine ((drift_writes4 _ _).ofFst h).trans ?_
          split
          · next h => exact (drift_writes4 _ _).ofFst h
          · next h => exact (drift_writes4 _ _).ofFst h
  · next h => exact take.ofFst h

/-! #### All but the last write -/

theorem drift_shareAll (s : State) (c : Cmd) (src dst : KvDesc) (m : Nat) : Drift s (shareAll s c src dst m).1 := by
  have full := drift_shareFull s c src dst (m / 16)
  unfold shareAll
  split
  · next h =>
    split
    · exact full.ofFst h
    · exact (full.ofFst h).trans (drift_sharePart _ c src dst _ _)
  · exact full

section Body

variable {sa da : Nat} (hsrc : kvDesc (s.engRead c) sa = .ok src) (hdst : kvDesc (s.engRead c) da = .ok dst)
include hsrc hdst

theorem shareBody_other (h : dst.len ≠ 0 ∨ dst.pool ≠ src.pool) : s.shareBody (c.upto 0 0 []) sa da m = (s, c.upto 0 0 [], .stop 3 0) := by
  unfold State.shareBody
  rw [engRead_upto, hsrc, hdst]
  exact if_pos ⟨rfl, h⟩

theorem shareBody_short (h : ¬ (dst.len ≠ 0 ∨ dst.pool ≠ src.pool)) (hm : src.len < m ∨ dst.cap < (m + 15) / 16) :
    s.shareBody (c.upto 0 0 []) sa da m = (s, c.upto 0 0 [], .stop 2 0) := by
  unfold State.shareBody
  rw [engRead_upto, hsrc, hdst]
  exact (if_neg fun hn => h hn.2).trans (if_pos ⟨rfl, hm⟩)

/-- The full blocks, and then what is left of a block. -/
theorem shareBody_parts (h : ¬ (dst.len ≠ 0 ∨ dst.pool ≠ src.pool)) (hm : ¬ (src.len < m ∨ dst.cap < (m + 15) / 16)) :
    s.shareBody (c.upto 0 0 []) sa da m = match State.shareBlocks (m / 16) s (c.upto 0 0 []) src dst with
      | (s, c, .go) => finishTodo (if m % 16 ≠ 0 ∧ c.pos = m / 16 then s.sharePartial c src dst m else (s, c, .go))
      | r => r := by
  unfold State.shareBody
  rw [engRead_upto, hsrc, hdst]
  refine (if_neg fun hn => h hn.2).trans ((if_neg fun hn => hm hn.2).trans ?_)
  rw [show (c.upto 0 0 []).pos = 0 from rfl, Nat.sub_zero]
  rcases State.shareBlocks (m / 16) s (c.upto 0 0 []) src dst with ⟨v, c', _ | _ | _⟩
  · dsimp only
    rcases (if m % 16 ≠ 0 ∧ c'.pos = m / 16 then v.sharePartial c' src dst m else (v, c', .go)) with ⟨w, c'', _ | _ | _⟩ <;> rfl
  · rfl
  · rfl

/-- The engine shares as R106 writes it. -/
theorem shareBody_run (h : ¬ (dst.len ≠ 0 ∨ dst.pool ≠ src.pool)) (hm : ¬ (src.len < m ∨ dst.cap < (m + 15) / 16)) :
    ShareRun c m (shareAll s c src dst m) (s.shareBody (c.upto 0 0 []) sa da m) := by
  obtain ⟨full, ends⟩ := shareBlocks_serves (s := s) (c := c) (src := src) (dst := dst) (m := m) (n := m / 16) (le_refl _)
  rw [shareBody_parts hsrc hdst h hm]
  unfold shareAll
  rcases hr : shareFull s c src dst (m / 16) with ⟨v, _ | ⟨why, tk⟩ | ⟨e, tk⟩⟩
  · rw [full v hr, Nat.sub_self]
    dsimp only
    by_cases h16 : m % 16 = 0
    · rw [if_pos h16]
      refine ⟨m / 16, 0, [], ?_, (shared_upto (le_refl _)).trans (by omega)⟩
      rw [State.shareBlocks]
      dsimp only
      rw [if_neg fun hn => hn.1 h16]
      rfl
    · rw [if_neg h16, State.shareBlocks]
      dsimp only
      rw [if_pos ⟨h16, rfl⟩]
      exact sharePart_run v c src dst m
  · rw [hr] at ends
    obtain ⟨hw, p, q, l, hx, hsh⟩ := ends fun h => nomatch h
    rw [hx]
    exact ⟨hw, p, q, l, rfl, hsh⟩
  · rw [hr] at ends
    obtain ⟨p, q, l, hx, hsh⟩ := ends fun h => nomatch h
    rw [hx]
    exact ⟨p, q, l, rfl, hsh⟩

end Body

/-! #### KVSHARE's event -/

section Share

variable {d px sa da p q why tk a : Nat} {l : List (Nat × Nat × Nat)} {f : FCode} (h : Gathering s cl c (.kvshare d px sa da m))
include h

theorem runGather_kvshare : s.runGather cl c = s.runShare (c.upto 0 0 []) d px sa da m := by
  unfold State.runGather
  rw [h.kind, gathering_upto h]

/-- A run that its first checks end: LEN is not written. -/
theorem runShare_refuses (hw : why = 2 ∨ why = 3) (hb : s.shareBody (c.upto 0 0 []) sa da m = (v, c.upto p q l, .stop why 0)) :
    s.runGather cl c = (v.writeResult c d px (why * 2 ^ 16) false, c.upto p q l, .fin) := by
  rw [runGather_kvshare h]
  unfold State.runShare
  rw [hb]
  refine (if_pos hw).trans ?_
  obtain rfl | rfl := hw <;> rfl

/-- A run that shares all, or stops short, writes LEN last. -/
theorem runShare_done (hb : s.shareBody (c.upto 0 0 []) sa da m = (v, c.upto p q l, .go)) : s.runGather cl c = match v.engWrite c (da + 16) 4 m with
    | .ok t => (t.writeResult c d px (0 * 2 ^ 16 + m) true, c.upto p q l, .fin)
    | .error e => (v, c.upto p q l, .fault e.1 e.2) := by
  rw [runGather_kvshare h]
  unfold State.runShare
  rw [hb]
  dsimp only
  rw [engWrite_upto]
  cases v.engWrite c (da + 16) 4 m <;> rfl

theorem runShare_stops (hw : why = 1 ∨ why = 5) (hb : s.shareBody (c.upto 0 0 []) sa da m = (v, c.upto p q l, .stop why tk)) :
    s.runGather cl c = match v.engWrite c (da + 16) 4 tk with
      | .ok t => (t.writeResult c d px (why * 2 ^ 16 + tk) false, c.upto p q l, .fin)
      | .error e => (v, c.upto p q l, .fault e.1 e.2) := by
  rw [runGather_kvshare h]
  unfold State.runShare
  rw [hb]
  dsimp only
  rw [if_neg (by omega), engWrite_upto, beq_false_of_ne (by omega)]
  cases v.engWrite c (da + 16) 4 tk <;> rfl

theorem runShare_faults (hb : s.shareBody (c.upto 0 0 []) sa da m = (v, c.upto p q l, .fault f a)) : s.runGather cl c = (v, c.upto p q l, .fault f a) := by
  rw [runGather_kvshare h]
  unfold State.runShare
  rw [hb]

/-- The result of a KVSHARE that a fault ends: LEN is written first, unless the fault lies on its descriptor. -/
theorem failResult_kvshare (hs : (c.upto p q l).shared m = tk) (hin : da ≤ a ∧ a < da + 32 → u = v)
    (hout : ¬ (da ≤ a ∧ a < da + 32) → v.engWrite c (da + 16) 4 tk = .ok u) :
    v.failResult (c.upto p q l) a = u.writeResult c d px (4 * 2 ^ 16 + tk) false := by
  unfold State.failResult
  rw [show (c.upto p q l).kind = .kvshare d px sa da m from h.kind]
  dsimp only
  rw [hs, engWrite_upto]
  by_cases ha : da ≤ a ∧ a < da + 32
  · rw [if_pos ha, hin ha]
    rfl
  · rw [if_neg ha, hout ha]
    rfl

theorem kvshare_fails (hf : f ≠ .pageAbsent) (hfz : f.cls ≠ .freeze) (hu : Drift s u) (hr : s.runGather cl c = (v, c.upto p q l, .fault f a))
    (hs : (c.upto p q l).shared m = tk) (hin : da ≤ a ∧ a < da + 32 → u = v) (hout : ¬ (da ≤ a ∧ a < da + 32) → v.engWrite c (da + 16) 4 tk = .ok u) :
    ∃ t, Ended s t (.engineOperation cl .gather c.id) cl .gather c ∧ t.mem = u.mem ∧ FailsBatch s t c f a (Results c d px (4 * 2 ^ 16 + tk) false) :=
  kv_fails h hf hfz (fun _ _ _ _ _ => CmdKind.noConfusion) hu hr (failResult_kvshare h hs hin hout)

/-- KVSHARE. -/
theorem kvshare_shares (hsrc : kvDesc (s.engRead c) sa = .ok src) (hdst : kvDesc (s.engRead c) da = .ok dst) :
    (dst.len ≠ 0 ∨ dst.pool ≠ src.pool → ∃ t, EndsWith s s t (.engineOperation cl .gather c.id) cl c d px (3 * 2 ^ 16) false) ∧
    (dst.len = 0 → dst.pool = src.pool → src.len < m ∨ dst.cap < (m + 15) / 16 → ∃ t, EndsWith s s t (.engineOperation cl .gather c.id) cl c d px (2 * 2 ^ 16) false) ∧
    (dst.len = 0 → dst.pool = src.pool → m ≤ src.len → (m + 15) / 16 ≤ dst.cap →
      ((shareAll s c src dst m).2 = .done → ∀ u, (shareAll s c src dst m).1.engWrite c (da + 16) 4 m = .ok u →
        ∃ t, EndsWith s u t (.engineOperation cl .gather c.id) cl c d px m true) ∧
      (∀ why tk, (shareAll s c src dst m).2 = .stops why tk → ∀ u, (shareAll s c src dst m).1.engWrite c (da + 16) 4 tk = .ok u →
        ∃ t, EndsWith s u t (.engineOperation cl .gather c.id) cl c d px (why * 2 ^ 16 + tk) false) ∧
      (∀ f a tk u, (shareAll s c src dst m).2 = .faults (f, a) tk → f ≠ .pageAbsent → f.cls ≠ .freeze →
        (da ≤ a ∧ a < da + 32 → u = (shareAll s c src dst m).1) → (¬ (da ≤ a ∧ a < da + 32) → (shareAll s c src dst m).1.engWrite c (da + 16) 4 tk = .ok u) →
        ∃ t, Ended s t (.engineOperation cl .gather c.id) cl .gather c ∧ t.mem = u.mem ∧ FailsBatch s t c f a (Results c d px (4 * 2 ^ 16 + tk) false)) ∧
      (∀ f a tk, ((shareAll s c src dst m).2 = .done ∧ tk = m ∨ ∃ why, (shareAll s c src dst m).2 = .stops why tk) →
        (shareAll s c src dst m).1.engWrite c (da + 16) 4 tk = .error (f, a) → f ≠ .pageAbsent → f.cls ≠ .freeze → da ≤ a → a < da + 32 →
        ∃ t, Ended s t (.engineOperation cl .gather c.id) cl .gather c ∧ t.mem = (shareAll s c src dst m).1.mem ∧
          FailsBatch s t c f a (Results c d px (4 * 2 ^ 16 + tk) false))) := by
  refine ⟨fun hne => kv_ends h (.refl s) (runShare_refuses h (.inr rfl) (shareBody_other hsrc hdst hne)),
    fun h1 h2 hm => kv_ends h (.refl s) (runShare_refuses h (.inl rfl) (shareBody_short hsrc hdst (by tauto) hm)), fun h1 h2 hm hcap => ?_⟩
  have run := shareBody_run (c := c) hsrc hdst (m := m) (by tauto) (by omega)
  have hdrift := drift_shareAll s c src dst m
  unfold ShareRun at run
  generalize shareAll s c src dst m = r at run hdrift ⊢
  obtain ⟨v, _ | ⟨why, tk⟩ | ⟨e, tk⟩⟩ := r
  · obtain ⟨p, q, l, hb, hs⟩ := run
    have hr := runShare_done h hb
    refine ⟨fun _ u hu => ?_, fun _ _ hp => (nomatch hp), fun _ _ _ _ hp => (nomatch hp), fun f a tk ht hw hf hfz ha1 ha2 => ?_⟩
    · rw [hu, Nat.zero_mul, Nat.zero_add] at hr
      exact kv_ends h (hdrift.trans (drift_engWrite hu)) hr
    · obtain ⟨-, rfl⟩ | ⟨_, hp⟩ := ht
      · rw [hw] at hr
        exact kvshare_fails h hf hfz hdrift hr hs (fun _ => rfl) fun hn => absurd ⟨ha1, ha2⟩ hn
      · cases hp
  · obtain ⟨hwhy, p, q, l, hb, hs⟩ := run
    have hr := runShare_stops h hwhy hb
    refine ⟨fun hp => (nomatch hp), fun _ _ hp u hu => ?_, fun _ _ _ _ hp => (nomatch hp), fun f a _ ht hw hf hfz ha1 ha2 => ?_⟩
    · cases hp
      rw [hu] at hr
      exact kv_ends h (hdrift.trans (drift_engWrite hu)) hr
    · obtain ⟨hp, -⟩ | ⟨_, hp⟩ := ht
      · cases hp
      · cases hp
        rw [hw] at hr
        exact kvshare_fails h hf hfz hdrift hr hs (fun _ => rfl) fun hn => absurd ⟨ha1, ha2⟩ hn
  · obtain ⟨p, q, l, hb, hs⟩ := run
    have hr := runShare_faults h hb
    refine ⟨fun hp => (nomatch hp), fun _ _ hp => (nomatch hp), fun f a _ u hp hf hfz hin hout => ?_, fun _ _ _ ht => ?_⟩
    · cases hp
      refine kvshare_fails h hf hfz ?_ hr hs hin hout
      by_cases ha : da ≤ a ∧ a < da + 32
      · rw [hin ha]
        exact hdrift
      · exact hdrift.trans (drift_engWrite (hout ha))
    · obtain ⟨hp, -⟩ | ⟨_, hp⟩ := ht <;> cases hp

end Share

end Sys2Proof.Machine
end

section
/-! # What the gather engine does (O56) -/

namespace Sys2Proof.Machine

open Sys2Proof.Claims Sys2Proof.Safety

/-- Settles O56: a clause for the descriptors, the rows, the takes, and for each of KVGATHER, KVAPPEND and KVSHARE, whose runs are followed row by row, entry by entry and block by block. -/
theorem gatherEngineWork : Obligations.GatherEngineWork := by
  unfold Obligations.GatherEngineWork
  refine ⟨fun _ _ _ _ _ _ hv hw => kvDesc_fields hv hw, row_places, fun s _ _ _ _ w => takeBlocks_cases w, ?_, ?_, ?_⟩
  · intro s c rows sc sd p0 n dst k b sk dk m cl ev total q ta h _ _ R hd
    exact kvgather_gathers h R hd
  · intro s cl c d px list m j ev u r h hj hd
    exact kvappend_appends h hj hd
  · intro s cl c d px sa da m src dst ev r h hsrc hdst
    exact kvshare_shares h hsrc hdst

end Sys2Proof.Machine
end
